-- ==== Sys2Proof/Word.lean ====
section
/-!
DEFINITION. The word types of the Z2520 and the plain records that commands carry: a Fraist packet, a Wenxel
header, a flit, a response header. They say only which bits exist; what the device does with them stands under Machine/.
-/

namespace Sys2Proof

/-- A byte. -/
abbrev Byte := BitVec 8

/-- A 64-byte line, the unit of access (glossary). Byte `j` of the line is bits `[8j+7 : 8j]` (R3). -/
abbrev Line := BitVec 512

/-- An association list from numbers to values. Every indexed family of the device's state is one, in the canonical
form `Tbl.wf` (Machine/Ops.lean): keys strictly rising. -/
abbrev Tbl (α : Type) := List (Nat × α)

/-- Where a Fraist packet came from (R56, R57): a function's command aperture, or a Wenxel CMD transaction on a port,
with the context and the tag of its request header. -/
inductive Via where
  | aperture (fn : Fin 256)
  | link (port : Fin 16) (ctx : BitVec 12) (tag : BitVec 12)
deriving DecidableEq, Repr

/-- A Fraist command packet less its OPCODE, which the command's constructor gives (R52): bytes 2, 3, 4-5, 6-7, and
bytes 8-63, where byte `8 + i` is bits `[8i+7 : 8i]` of `params`. -/
structure Packet where
  version : BitVec 8
  flags   : BitVec 8
  context : BitVec 16
  tag     : BitVec 16
  params  : BitVec 448
deriving DecidableEq, Repr

/-- The header and the operand field of a Wenxel request (R101), less its OPCODE. -/
structure Hdr where
  vc     : BitVec 2
  ctx    : BitVec 12
  cls    : BitVec 5
  ro     : Bool
  nodata : Bool
  tag    : BitVec 12
  la     : BitVec 56
  len    : BitVec 6
  atop   : BitVec 4
  awidth : BitVec 3
  a      : BitVec 64
  b      : BitVec 64
deriving DecidableEq, Repr

/-- The header of a Wenxel response (R103), less its OPCODE, with bytes 16-23 (the prior value of a scalar atomic). -/
structure Rsp where
  vc         : BitVec 2
  ctx        : BitVec 12
  tag        : BitVec 12
  status     : BitVec 8
  lineOffset : BitVec 6
  dkind      : BitVec 2
  lines      : BitVec 6
  last       : Bool
  retryAfter : BitVec 16
  value      : BitVec 64
deriving DecidableEq, Repr

/-- A received flit (R88-R90): the header fields that the partner sent, with the reserved bits 29, 46, 47, 62 and 63 of the header, the
seven 2-bit slot codes and the 224-byte payload (payload byte `i` is bits `[8i+7 : 8i]`), and the bits of the 256 bytes that arrived
wrong. -/
structure Flit where
  seq      : BitVec 12
  ackValid : Bool
  ack      : BitVec 12
  craVc    : BitVec 2
  craCnt   : BitVec 6
  crbVc    : BitVec 2
  crbCnt   : BitVec 6
  slotcode : BitVec 14
  payload  : BitVec 1792
  rsv      : BitVec 5 := 0
  noise    : BitVec 2048 := 0
deriving DecidableEq, Repr

/-- A received flit of a reserved FTYPE (R91), and that code. -/
structure RsvFlit where
  ftype : BitVec 4
  flit  : Flit
deriving DecidableEq, Repr

/-- What a read of one stored line finds in the memory (R306-R309): its line within the pseudo-channel, and the bits of its 64
bytes and its check bytes 0-7 (bytes 64-71) that have gone wrong since it was last read. -/
structure Finding where
  pcLine : Nat
  flips  : BitVec 576
deriving DecidableEq, Repr

/-- The outcome of a unit test (R424): pass or fail, the error count, and for a lane test whether lock was held. -/
structure TestResult where
  pass   : Bool
  errors : BitVec 32
deriving DecidableEq, Repr

/-- The three SPDM transports (R386). -/
inductive Transport where
  | doe
  | relay
  | mctp
deriving DecidableEq, Repr

/-- What ends a boot stage (R381, R305, R317, R382): the stage passed, or what failed in it. -/
inductive BootOutcome where
  | passed
  | imageBad
  | componentBad
  | calibrationBad
  | repairListBad
  | stackBad (stack : Fin 20)
deriving DecidableEq, Repr

/-- What raises a PME event (R369). -/
inductive PmeSource where
  | button
  | port (p : Fin 16)
deriving DecidableEq, Repr

/-- How a host completion ended (R343-R345, R370). -/
inductive CplStatus where
  | good
  | error
  | poisoned
deriving DecidableEq, Repr

/-- What the offset of a register write counts from: BAR0 (R351), the type 0 header, or the start of a capability of
configuration space (R348; the layouts within them are the standards' own, log 16). -/
inductive RegSpace where
  | bar0
  | header
  | pmCap
  | msixCap
  | pcieCap
  | device3Cap
  | aerCap
  | sriovCap
  | cxlDvsec
  | serviceDvsec
  | serialCap
  | ariCap
  | flexBusDvsec
  | regLocator
deriving DecidableEq, Repr

/-- The end of a fetch (R333): its page, the read-retry reads it took, and the codewords that stayed bad after them. -/
structure FetchEnd where
  page    : BitVec 32
  retries : BitVec 16
  rebuilt : BitVec 8
deriving DecidableEq, Repr

/-- A fetch that fails (R333): its page, and the local channel of the failing member. -/
structure FetchFault where
  page   : BitVec 32
  member : Fin 12
deriving DecidableEq, Repr

/-- A service unit as SVC commands name it (R415): kind and index. -/
structure UnitRef where
  kind  : Nat
  index : Nat
deriving DecidableEq, Repr

end Sys2Proof
end

