-- ==== Sys2Proof/Syntax.lean ====
section
/-!
DEFINITION. The commands of the Z2520: one constructor per row of spec/opcode_table.json, in the table's order, with the
row's operands. The table gives its rows no bits; each constructor's docstring names its row and its rule.
-/

namespace Sys2Proof

/-- The commands and events of the block. A Fraist command carries its submission path and its packet, a link request
its port, header and data, an event what the event names. -/
inductive Instr where
  /-- IDENTIFY (R72): Returns the identity page or the capacity page of free resources. -/
  | identify (via : Via) (p : Packet)
  /-- MARK (R442): Sends a marker value to every instance, which records it with its own island count, and replies once all have recorded it. -/
  | mark (via : Via) (p : Packet)
  /-- CTX_CREATE (R26): Creates a context owned by the submitting function, or restores a sealed durable image, and generates and loads its key. -/
  | ctxCreate (via : Via) (p : Packet)
  /-- CTX_DESTROY (R29): Takes a context into DRAINING, seals a durable one, or with CONTEXT 0 erases a sealed image by its seal ID. -/
  | ctxDestroy (via : Via) (p : Packet)
  /-- CTX_BIND_PORT (R34): PF sets or clears a context in the binding sets of the masked ports on every link die. -/
  | ctxBindPort (via : Via) (p : Packet)
  /-- WIN_SET (R37): Checks and writes or unmaps one window of a context in every copy of the window tables. -/
  | winSet (via : Via) (p : Packet)
  /-- REGION_ALLOC (R39): Allocates a region of the given pages and attributes, charges quota, evicts tier pages for pinned space and starts the zero fill. -/
  | regionAlloc (via : Via) (p : Packet)
  /-- REGION_FREE (R45): Frees a region not in use, invalidating or releasing its frames and trimming its flash entries. -/
  | regionFree (via : Via) (p : Packet)
  /-- REGION_ATTR_REPORT (R73): REGION_ATTR op 0 reports a region's attribute word, size and ZA base. -/
  | regionAttrReport (via : Via) (p : Packet)
  /-- REGION_ATTR_SET_LEASE (R44): REGION_ATTR op 1 changes LEASE and moves the region between routes as one step. -/
  | regionAttrSetLease (via : Via) (p : Packet)
  /-- REGION_ATTR_SET_MISS_POLICY (R73): REGION_ATTR op 2 sets the context's miss policy to HOLD or NACK. -/
  | regionAttrSetMissPolicy (via : Via) (p : Packet)
  /-- HINT_PREFETCH (R163): Records a prefetch of the tier pages of an LA range in the directory queues. -/
  | hintPrefetch (via : Via) (p : Packet)
  /-- HINT_PIN (R163): Raises the hold count of each page of a range, queuing fetches or zero fills as needed. -/
  | hintPin (via : Via) (p : Packet)
  /-- HINT_UNPIN (R163): Lowers the hold count of each page of a range, acting on deferred evictions at zero. -/
  | hintUnpin (via : Via) (p : Packet)
  /-- HINT_EVICT (R163): Makes an eviction decision on unheld pages of a range and sets DEFER_EVICT on held ones. -/
  | hintEvict (via : Via) (p : Packet)
  /-- CKPT_COMMIT (R177): Selects the dirty pages of a range and waits until each has a write-back committed to flash. -/
  | ckptCommit (via : Via) (p : Packet)
  /-- XFER_COPY (R287): Copies a range from a source endpoint to a destination endpoint in units. -/
  | xferCopy (via : Via) (p : Packet)
  /-- XFER_MOVE (R287): Copies a range and clears each completed source unit. -/
  | xferMove (via : Via) (p : Packet)
  /-- XFER_FILL (R287): Writes an 8-byte pattern over a destination range. -/
  | xferFill (via : Via) (p : Packet)
  /-- XFER_REDUCE (R287): Adds each 4 KiB of source into the destination as one ACC. -/
  | xferReduce (via : Via) (p : Packet)
  /-- XFER_ATOM (R287): Performs one scalar atomic at an LA for host software and returns the prior value. -/
  | xferAtom (via : Via) (p : Packet)
  /-- TABLE_BUILD (R210): Arms a table group of a compressed region for a new table build. -/
  | tableBuild (via : Via) (p : Packet)
  /-- TABLE_RETIRE (R211): Takes a group's current table to RETIRED so new encodes stop using it. -/
  | tableRetire (via : Via) (p : Packet)
  /-- CODEC_SET (R215): Forces a compressed region's encodes to RAW or returns it to auto. -/
  | codecSet (via : Via) (p : Packet)
  /-- KERNEL_LOAD (R267): Reads, verifies and installs a Pliust image and returns a kernel handle. -/
  | kernelLoad (via : Via) (p : Packet)
  /-- KERNEL_RUN (R248): Queues a run of a built-in or loaded kernel in the dispatcher. -/
  | kernelRun (via : Via) (p : Packet)
  /-- KERNEL_ABORT (R259): Aborts the oldest queued or running run of the context with the given TAG. -/
  | kernelAbort (via : Via) (p : Packet)
  /-- SHARE_PUBLISH (R272): Checks and freezes a shared region for publication under a catalogue key. -/
  | sharePublish (via : Via) (p : Packet)
  /-- SHARE_SUBSCRIBE (R275): Subscribes the context to a published version and returns a subscription handle. -/
  | shareSubscribe (via : Via) (p : Packet)
  /-- SHARE_UNSUBSCRIBE (R277): Ends a subscription not in use, freeing a withdrawn version at its last subscription. -/
  | shareUnsubscribe (via : Via) (p : Packet)
  /-- SHARE_WITHDRAW (R278): Removes a published version's key from the catalogue. -/
  | shareWithdraw (via : Via) (p : Packet)
  /-- QOS_CLASS_SET (R137): Writes one class-table entry on every link die, CTL and memory die. -/
  | qosClassSet (via : Via) (p : Packet)
  /-- QOS_BUDGET_SET (R154): Sets a context's budget per window, refusing an overcommit, and reports the derated budget. -/
  | qosBudgetSet (via : Via) (p : Packet)
  /-- SVC_TEST (R424): Starts a status query, test, or test and restore of a unit. -/
  | svcTest (via : Via) (p : Packet)
  /-- SVC_RETIRE (R425): Retires a unit in service, relocating and rebuilding its data. -/
  | svcRetire (via : Via) (p : Packet)
  /-- SVC_REMAP (R426): Fills a remap entry for a physical line address. -/
  | svcRemap (via : Via) (p : Packet)
  /-- SVC_CLEAR_POISON (R427): Clears the poison or uncorrectable content of a line or block to zero plaintext. -/
  | svcClearPoison (via : Via) (p : Packet)
  /-- FW_STAGE (R390): Writes a piece of a firmware image from host memory into the inactive bank. -/
  | fwStage (via : Via) (p : Packet)
  /-- FW_ACTIVATE (R391): Accepts an activation of the staged image and starts its verification. -/
  | fwActivate (via : Via) (p : Packet)
  /-- CNT_CONFIG (R433): Configures or releases a programmable counter of an instance. -/
  | cntConfig (via : Via) (p : Packet)
  /-- CNT_SNAPSHOT (R439): Collects a snapshot of counters and writes it to the named buffer. -/
  | cntSnapshot (via : Via) (p : Packet)
  /-- SPDM_RELAY (R386): Passes an SPDM request from host memory to the responder and writes the response. -/
  | spdmRelay (via : Via) (p : Packet)
  /-- UNDEFINED_OPCODE (R61): A packet whose opcode Fraist 1.0 does not define is refused with BAD_OPCODE. -/
  | undefinedOpcode (via : Via) (opcode : BitVec 16) (p : Packet)
  /-- REPLY_RING_WRITE (R64): Writes a held reply to the function's ring once the ring has room and is enabled, advancing PROD. -/
  | replyRingWrite (fn : Fin 256)
  /-- RD (R104): A link read request is checked, translated, regulated, routed and answered with data or errors per line. -/
  | rd (port : Fin 16) (h : Hdr)
  /-- RD_OWN (R111): Reads one line and grants the requesting port and context a lease on it. -/
  | rdOwn (port : Fin 16) (h : Hdr)
  /-- WR (R126): A link write enters the write buffer at its order point and is answered CPL_OK. -/
  | wr (port : Fin 16) (h : Hdr) (data : List Line)
  /-- WR_RELEASE (R111): Writes a leased line and ends the lease, or releases without data. -/
  | wrRelease (port : Fin 16) (h : Hdr) (data : Line)
  /-- ATOM (R281): Executes a scalar atomic or VADD in the memory die's atomic unit at the order point. -/
  | atom (port : Fin 16) (h : Hdr) (v : Line)
  /-- ACC (R106): Adds a 4 KiB block of FP32 or BF16 elements into FP32 targets as one step. -/
  | acc (port : Fin 16) (h : Hdr) (data : List Line)
  /-- RECALL_RECEIVED (R102): A RECALL received by the device is answered with CPL_ERR BAD_OPCODE. -/
  | recallReceived (port : Fin 16) (h : Hdr)
  /-- RESERVED_REQUEST (R102): A request with a reserved opcode is answered with CPL_ERR BAD_OPCODE. -/
  | reservedRequest (port : Fin 16) (opcode : BitVec 6) (h : Hdr)
  /-- RESERVED_RESPONSE (R102): A response with a reserved opcode is discarded and counted. -/
  | reservedResponse (port : Fin 16) (opcode : BitVec 6) (r : Rsp)
  /-- CPL_DATA (R116): A data response to a device request is matched by tag and delivered to its transfer. -/
  | cplData (port : Fin 16) (r : Rsp) (data : List Line)
  /-- CPL_OK (R116): A completion to a device write or ACC is matched by tag and completes its unit. -/
  | cplOk (port : Fin 16) (r : Rsp)
  /-- CPL_ERR (R291): An error response to a device request ends its transfer with the received status. -/
  | cplErr (port : Fin 16) (r : Rsp)
  /-- CPL_RETRY (R116): A retry response starts the wait before the device reissues its request. -/
  | cplRetry (port : Fin 16) (r : Rsp)
  /-- FLIT_DATA_RX (R93): A received DATA flit is checked by FEC and CRC, classed by sequence and its messages parsed. -/
  | flitDataRx (port : Fin 16) (f : Flit)
  /-- FLIT_IDLE_RX (R91): A received IDLE flit delivers its ACK and credit returns. -/
  | flitIdleRx (port : Fin 16) (f : Flit)
  /-- FLIT_CAPS_RX (R95): A received capability flit settles credits and version and moves the port to ACTIVE or VERSION_MISMATCH. -/
  | flitCapsRx (port : Fin 16) (f : Flit)
  /-- FLIT_RETRY_REQ_RX (R92): A received RETRY_REQ makes the transmitter replay every flit after the named one. -/
  | flitRetryReqRx (port : Fin 16) (f : Flit)
  /-- FLIT_RESERVED_RX (R91): A flit with a reserved FTYPE is discarded and counted. -/
  | flitReservedRx (port : Fin 16) (r : RsvFlit)
  /-- FLIT_TRANSMIT (R91): At each flit time the port sends a DATA flit or an IDLE flit carrying ACK and credits. -/
  | flitTransmit (port : Fin 16)
  /-- CAPS_RESEND_TIMER (R95): In CAPS or VERSION_MISMATCH the port resends its CAPS flit at each interval. -/
  | capsResendTimer (port : Fin 16)
  /-- RETRY_TIMEOUT (R94): No replay or ACK advance within RETRY_TIMEOUT counts a failed retry and may replay. -/
  | retryTimeout (port : Fin 16)
  /-- SIGNAL_DETECT (R85): Signal on a lane in DETECT moves the port to TRAIN. -/
  | signalDetect (port : Fin 16) (lanes : BitVec 4)
  /-- TRAIN_LOCK (R85): Lock, equalisation and deskew on an allowed lane set move the port to CAPS. -/
  | trainLock (port : Fin 16) (lanes : BitVec 4)
  /-- TRAIN_TIMEOUT (R85): No allowed lane set within the TRAIN limit returns the port to DETECT. -/
  | trainTimeout (port : Fin 16)
  /-- CAPS_TIMEOUT (R85): No capability flit within the CAPS limit returns the port to DETECT. -/
  | capsTimeout (port : Fin 16)
  /-- LANE_LOCK_LOSS (R85): Loss of lock on an active lane moves an ACTIVE port to RECOVERY. -/
  | laneLockLoss (port : Fin 16) (lanes : BitVec 4)
  /-- RECOVERY_LOCK (R85): Lock and deskew in RECOVERY return the port to ACTIVE and replay unacknowledged flits. -/
  | recoveryLock (port : Fin 16) (lanes : BitVec 4)
  /-- RECOVERY_TIMEOUT (R85): No allowed set within the RECOVERY limit declares partner loss. -/
  | recoveryTimeout (port : Fin 16)
  /-- LOCK_LOSS_HOLD_EXPIRY (R85): Loss of lock on every active lane held for 20,000 cycles declares partner loss with REASON 1. -/
  | lockLossHoldExpiry (port : Fin 16)
  /-- LOST_CLEANUP_COMPLETE (R119): After clean-up and electrical idle, a LOST port goes to DETECT or OFF. -/
  | lostCleanupComplete (port : Fin 16)
  /-- LOSS_OF_SIGNAL (R85): Loss of signal in VERSION_MISMATCH returns the port to DETECT. -/
  | lossOfSignal (port : Fin 16)
  /-- PORT_ENABLE (R85): Writing ENABLE 1 starts training from OFF once boot has reached link training. -/
  | portEnable (port : Fin 16)
  /-- PORT_DISABLE (R85): Writing ENABLE 0 takes the port to OFF, or to LOST with partner loss from ACTIVE or RECOVERY. -/
  | portDisable (port : Fin 16)
  /-- RETRAIN (R85): Writing RETRAIN starts RECOVERY from ACTIVE or DETECT from VERSION_MISMATCH. -/
  | retrain (port : Fin 16)
  /-- PEER_REQUEST_SEND (R115): A device request for a peer transfer is sent once a requester tag is free, starting its timer. -/
  | peerRequestSend (xfer : Nat) (unit : Nat)
  /-- REQ_TIMEOUT (R116): An unanswered device request fails and its transfer ends PARTNER_LOST. -/
  | reqTimeout (port : Fin 16) (tag : BitVec 12)
  /-- RETRY_REISSUE (R116): After the CPL_RETRY wait the device reissues its request. -/
  | retryReissue (port : Fin 16) (tag : BitVec 12)
  /-- TAG_QUARANTINE_EXPIRY (R117): A timed-out requester tag becomes usable after twice REQ_TIMEOUT. -/
  | tagQuarantineExpiry (port : Fin 16) (tag : BitVec 12)
  /-- RECALL_TIMEOUT (R113): An unanswered RECALL revokes the lease, poisons the line LEASE_LOST and releases held accesses. -/
  | recallTimeout (port : Fin 16) (tag : BitVec 12)
  /-- WRITE_BUFFER_DRAIN (R126): A buffered write drains to HBM with encoding, encryption, check bits and parity. -/
  | writeBufferDrain (stack : Fin 20)
  /-- PARITY_DELTA (R312): The parity die XORs a write's delta into the parity line at its order point. -/
  | parityDelta (stack : Fin 20)
  /-- ATOMIC_LINE_RELEASE (R127): A line held by the atomic unit is dropped 256 cycles after its last use. -/
  | atomicLineRelease (die : Fin 10) (line : Nat)
  /-- COMMAND_AGE_ESCALATION (R142): A command waiting 8,192 cycles at a scheduler takes priority 63 within its kind. -/
  | commandAgeEscalation (stack : Fin 20) (entry : Nat)
  /-- REGULATOR_WINDOW_BOUNDARY (R145): A regulator resets each context's allowance to its share plus deficit and releases held requests. -/
  | regulatorWindowBoundary (reg : Fin 5)
  /-- SPARE_SLOT_RELEASE (R152): A free hub-port slot with no in-share request releases a held request by weighted round robin. -/
  | spareSlotRelease (reg : Fin 5) (hub : Fin 2)
  /-- BUDGET_REBALANCE (R149): At each rebalance period the scheduler core resplits each budget across regulators. -/
  | budgetRebalance
  /-- HOLD_LIMIT_EXPIRY (R133): A demand miss held for GNM_HOLD_LIMIT is answered CPL_RETRY while the fetch continues. -/
  | holdLimitExpiry (held : Nat)
  /-- FETCH_DISPATCH (R172): The tier scheduler dispatches the next fetch in rank order when a frame and slot are free. -/
  | fetchDispatch (die : Fin 2)
  /-- FETCH_COMPLETE (R162): A fetched page becomes RESIDENT_CLEAN and its held requests are released. -/
  | fetchComplete (f : FetchEnd)
  /-- FETCH_FAILED (R167): An uncompletable fetch returns the page to FLASH and fails its held requests. -/
  | fetchFailed (f : FetchFault) (reason : Fin 3)
  /-- VICTIM_SELECTION (R178): Under frame pressure the clock hand advances over resident frames choosing victims. -/
  | victimSelection (die : Fin 2)
  /-- WRITEBACK_READOUT_COMPLETE (R164): A page read-out completes, held writes are applied and the image is staged on an FLS die. -/
  | writebackReadoutComplete (page : BitVec 32)
  /-- WRITEBACK_COMMIT (R176): A programmed and journalled write-back commits and moves the page's state. -/
  | writebackCommit (page : BitVec 32)
  /-- FRAME_ZEROING (R30): A released frame is overwritten with zeros in idle cycles before reallocation. -/
  | frameZeroing (die : Fin 2)
  /-- REGION_FILL_COMPLETE (R43): The zero fill of a new pinned-space region finishes and REGION_ALLOC replies. -/
  | regionFillComplete (region : BitVec 20)
  /-- CTX_DRAIN_COMPLETE (R29): A DRAINING context with no admitted requests becomes FREE, its key discarded and regions freed. -/
  | ctxDrainComplete (ctx : BitVec 12)
  /-- TABLE_PUBLISH (R200): A finished build writes a new table and makes it the group's current table. -/
  | tablePublish (region : BitVec 20) (group : BitVec 16)
  /-- TABLE_FREE (R205): Once every cache has dropped a FREEING table, its slot is zeroed and its ID freed. -/
  | tableFree (id : BitVec 16)
  /-- TABLE_PERSIST (R213): A newly published table is programmed into the flash system area and PERSISTED set. -/
  | tablePersist (id : BitVec 16)
  /-- KERNEL_DISPATCH (R248): The dispatcher starts a queued run on free engines, clearing them when the context changes. -/
  | kernelDispatch
  /-- BACKFILL_LIMIT_EXPIRY (R248): A head run waiting BACKFILL_LIMIT forbids later runs from starting ahead of it. -/
  | backfillLimitExpiry
  /-- END (R263): Ends the engine's program after its streams complete. -/
  | endOp (engine : Fin 152)
  /-- LOOP (R263): Repeats the following instructions a bounded number of times. -/
  | loop (engine : Fin 152)
  /-- SKIP (R263): Skips forward if a comparison of two X registers holds. -/
  | skip (engine : Fin 152)
  /-- LI (R263): Loads an immediate into an X register. -/
  | li (engine : Fin 152)
  /-- SALU (R263): Performs a scalar integer operation. -/
  | salu (engine : Fin 152)
  /-- ARG (R263): Loads a KERNEL_RUN argument into an X register. -/
  | arg (engine : Fin 152)
  /-- SIN (R266): Issues a checked stream read into the slab or the expansion queue. -/
  | sin (engine : Fin 152)
  /-- SOUT (R266): Issues a checked stream write from the slab with format conversion. -/
  | sout (engine : Fin 152)
  /-- SACC (R263): Block-accumulates slab data into FP32 memory as ACC. -/
  | sacc (engine : Fin 152)
  /-- GATHER (R263): Streams indexed rows from memory into the slab. -/
  | gather (engine : Fin 152)
  /-- SCATTER_ADD (R263): Adds slab rows into indexed memory rows with VADD. -/
  | scatterAdd (engine : Fin 152)
  /-- WAIT (R263): Waits until the named stream tags have completed. -/
  | wait (engine : Fin 152)
  /-- VLD (R263): Loads a V register from the slab or from the factor expander. -/
  | vld (engine : Fin 152)
  /-- VST (R263): Stores a V register to the slab. -/
  | vst (engine : Fin 152)
  /-- VALU (R263): Performs a lane-wise vector operation. -/
  | valu (engine : Fin 152)
  /-- VFMA (R263): Performs a lane-wise fused multiply-add. -/
  | vfma (engine : Fin 152)
  /-- VSFU (R263): Applies a special function to each lane. -/
  | vsfu (engine : Fin 152)
  /-- VRED (R263): Reduces all lanes and broadcasts the result. -/
  | vred (engine : Fin 152)
  /-- VBCAST (R263): Broadcasts a scalar, immediate or lane number to every lane. -/
  | vbcast (engine : Fin 152)
  /-- VCVT (R263): Rounds lanes to a narrower format held as FP32. -/
  | vcvt (engine : Fin 152)
  /-- MZERO (R263): Zeroes the array accumulator. -/
  | mzero (engine : Fin 152)
  /-- MMAC (R265): Accumulates matrix products over panels into the array accumulator. -/
  | mmac (engine : Fin 152)
  /-- MST (R263): Stores the accumulator to the slab. -/
  | mst (engine : Fin 152)
  /-- FENCE (R263): Waits until every write issued by the engine has passed its order point. -/
  | fence (engine : Fin 152)
  /-- STREAM_COMPLETE (R246): A memory stream of an engine completes and frees its tag; 16 stands for a stream without one. -/
  | streamComplete (engine : Fin 152) (tag : Fin 17)
  /-- ENGINE_FAILURE (R260): An engine fault fails its run and maps the engine out. -/
  | engineFailure (engine : Fin 152)
  /-- HASH_START (R271): Once prior writes have passed their order points, hashing of a publishing region begins. -/
  | hashStart (region : BitVec 20)
  /-- PUBLISH_HASH_COMPLETE (R269): A completed hash publishes the version, or thaws the region with OK or CONFLICT. -/
  | publishHashComplete (region : BitVec 20)
  /-- XFER_START (R288): A queued transfer starts on its engine when a slot is free. -/
  | xferStart (engine : Fin 5)
  /-- XFER_UNIT_COMPLETE (R289): A transfer unit becomes visible and, for XFER_MOVE, its source is cleared. -/
  | xferUnitComplete (xfer : Nat) (unit : Nat)
  /-- REFRESH (R303): The controller refreshes a bank at the interval of the stack's band. -/
  | refresh (stack : Fin 20) (pc : Fin 64) (bank : Nat)
  /-- TEMP_SENSOR_READ (R303): The controller reads the stack's sensor and selects the refresh band. -/
  | tempSensorRead (stack : Fin 20) (temp : BitVec 8)
  /-- SCRUB_ROW_READ (R314): In an idle cycle the scrubber reads and checks a row of stored lines. -/
  | scrubRowRead (stack : Fin 20) (pc : Fin 64) (found : List Finding) (lines : Nat) (lapEnd : Bool)
  /-- SCRUB_LATE (R314): A lap running longer than MAX_LAP sets SCRUB_LATE. -/
  | scrubLate (stack : Fin 20)
  /-- CE_REPORT (R315): The cluster core acts on a correction or uncorrectable report from a read or the scrubber. -/
  | ceReport (stack : Fin 20) (pc : Fin 64) (f : Finding) (met : Bool)
  /-- CA_PARITY_ERROR (R318): A command/address parity error is answered by resending the command, freezing on persistence. -/
  | caParityError (stack : Fin 20) (pc : Fin 64) (pcLine : BitVec 25) (resends : Fin 4)
  /-- WRITE_CRC_ERROR (R318): A write-data CRC error is answered by resending the write, freezing on persistence. -/
  | writeCrcError (stack : Fin 20) (pc : Fin 64) (pcLine : BitVec 25) (resends : Fin 4)
  /-- FREEZE_LIMIT_EXPIRY (R319): A pseudo-channel frozen for FREEZE_LIMIT is retired. -/
  | freezeLimitExpiry (stack : Fin 20) (pc : Fin 64)
  /-- PC_LOOPBACK_RESULT (R319): A passed test unfreezes a pseudo-channel, a failed one starts its retirement. -/
  | pcLoopbackResult (stack : Fin 20) (pc : Fin 64) (pass : Bool)
  /-- REBUILD_COMPLETE (R320): Relocation and rebuild of a retiring unit complete and it becomes RETIRED. -/
  | rebuildComplete (u : UnitRef)
  /-- STACK_FAILURE (R321): A failed stack is retired and its data rebuilt, replaced or poisoned in the sibling. -/
  | stackFailure (stack : Fin 20)
  /-- FLUSH_CYCLES_EXPIRY (R331): An open wordline waiting FLUSH_CYCLES is padded and programmed. -/
  | flushCyclesExpiry (fls : Fin 2)
  /-- PROGRAM_COMPLETE (R331): A stripe-wordline program completes and its images are journalled and committed. -/
  | programComplete (fls : Fin 2)
  /-- PROGRAM_FAILURE (R332): A failed program re-stages its images and retires the block on that member. -/
  | programFailure (fls : Fin 2) (member : Fin 12)
  /-- FLASH_RELOCATION (R335): The cluster core relocates the valid images of a chosen stripe block. -/
  | flashRelocation (fls : Fin 2) (die : Fin 16) (block : BitVec 13)
  /-- PATROL_READ (R335): A patrol read of a block triggers relocation if it needs read retry. -/
  | patrolRead (fls : Fin 2) (die : Fin 16) (block : BitVec 13) (retried : Bool)
  /-- ERASE_COMPLETE (R335): An erased stripe block joins the free pool. -/
  | eraseComplete (fls : Fin 2) (die : Fin 16) (block : BitVec 13)
  /-- ERASE_FAILURE (R335): A failed erase retires that block on that member. -/
  | eraseFailure (fls : Fin 2) (die : Fin 16) (block : BitVec 13) (member : Fin 12)
  /-- FLASH_DIE_LOST (R337): A lost flash die is removed from service and its stripe blocks relocated from parity. -/
  | flashDieLost (die : Fin 384)
  /-- FLS_DIE_LOST (R337): A lost FLS die makes its pages fail to fetch and sends write-backs to the other die. -/
  | flsDieLost (fls : Fin 2)
  /-- SUPPLY_HIGH (R396): A supply of 60-63 V sets OVERVOLT. -/
  | supplyHigh (vin : BitVec 16)
  /-- SUPPLY_OVERVOLTAGE (R396): A supply above 63 V powers the device off. -/
  | supplyOvervoltage (vin : BitVec 16)
  /-- SUPPLY_SAG (R396): A supply below 44 V stops new programs, limits input current and starts an emergency. -/
  | supplySag (vin : BitVec 16)
  /-- SUPPLY_HOLDUP (R396): A supply below 40 V cuts the cap to 900 W and arms the journal flush. -/
  | supplyHoldup (vin : BitVec 16)
  /-- SUPPLY_UNDERVOLTAGE (R399): A supply below 38 V powers the main domains off. -/
  | supplyUndervoltage (vin : BitVec 16)
  /-- SUPPLY_RECOVERY (R396): A supply back at or above 44 V for the upward filter returns to Normal or starts the device. -/
  | supplyRecovery (vin : BitVec 16)
  /-- JOURNAL_FLUSH (R340): Once in-flight programs have journalled, the journal buffer is written to the system area in SLC. -/
  | journalFlush
  /-- JOURNAL_FLUSH_COMPLETE (R397): The journal flush completes and SAG_FLUSH is set. -/
  | journalFlushComplete
  /-- POWER_EVALUATION (R401): The power core compares average power and sensors with limits and moves the throttling level. -/
  | powerEvaluation (pin : BitVec 11) (temps : List (BitVec 8))
  /-- FAST_LIMIT (R402): Power over 20 us exceeding the cap by 10 % sets level 7 at once. -/
  | fastLimit (power : BitVec 11)
  /-- SAFE_CAP_RELEASE (R403): During a power core restart, 1 ms below 810 W returns the device from level 7 to level 5. -/
  | safeCapRelease
  /-- THERMAL_TRIP (R406): A sensor at its trip limit powers the device off by hardware. -/
  | thermalTrip (sensor : Fin 69)
  /-- RAILS_GOOD (R407): The rails become good, the SMBus address is sampled and a released boot can start. -/
  | railsGood (addr : BitVec 2)
  /-- PERST_N_RELEASE (R381): Release of PERST_N starts the boot chain at stage 0. -/
  | perstNRelease
  /-- PERST_N_ASSERT (R411): A fundamental reset completes programs, flushes the journal and resets the device. -/
  | perstNAssert
  /-- CONFIG_SPACE_READY (R364): Configuration space becomes ready and requests stop getting Request Retry Status. -/
  | configSpaceReady
  /-- BOOT_STAGE_END (R381): A boot stage completes and the next one starts. -/
  | bootStageEnd (outcome : BootOutcome)
  /-- DETECT_NO_SIGNAL_TIMEOUT (R409): A port with no signal for 10 ms since DETECT is settled for stage 6. -/
  | detectNoSignalTimeout (port : Fin 16)
  /-- LINK_TRAINING_STAGE_END (R409): Stage 6 ends when every port is settled or after 100 ms, and READY is set. -/
  | linkTrainingStageEnd
  /-- FUSE_BLOW (R383): At READY with good supply and no emergency, fuses are blown up to MIN_SVN. -/
  | fuseBlow
  /-- FUSE_BLOW_COMPLETE (R383): A fuse blow completes and the fused SVN rises. -/
  | fuseBlowComplete
  /-- HEARTBEAT_TIMEOUT (R375): Two missed heartbeats or a fault make the Hull core restart a processor. -/
  | heartbeatTimeout (proc : Fin 11) (cause : BitVec 4) (crashLoop : Bool)
  /-- PROC_RESTART_COMPLETE (R376): A restarted processor resumes and its held decisions and replies proceed. -/
  | procRestartComplete (proc : Fin 11)
  /-- HULL_MONITOR_TIMEOUT (R375): A Hull core that misses heartbeats to the hardware monitor makes the device fatal. -/
  | hullMonitorTimeout
  /-- FATAL_CONDITION (R417): Loss of a hub, control die, directory die or carve-out stripe makes the device fatal. -/
  | fatalCondition (cond : Fin 5)
  /-- ACTIVATE_VERIFY_COMPLETE (R391): Verification of a staged image completes, refusing it or moving to wait or quiesce. -/
  | activateVerifyComplete
  /-- ACTIVATE_QUIESCED (R393): With the quiesce condition met and no emergency, the switch restarts changed processors. -/
  | activateQuiesced
  /-- ACTIVATE_WAIT_EXPIRY (R394): An activation deferred by an emergency for its wait is abandoned with DEFERRED_EXPIRED. -/
  | activateWaitExpiry
  /-- QUIESCE_LIMIT_EXPIRY (R392): An unmet quiesce condition after FW_QUIESCE_LIMIT abandons the activation with CONFLICT. -/
  | quiesceLimitExpiry
  /-- ACTIVATE_SWITCH_COMPLETE (R393): The bank pointer is written, holds released and FW_ACTIVATE replies OK. -/
  | activateSwitchComplete
  /-- GET_VERSION (R387): SPDM request returning versions 1.2 and 1.3. -/
  | getVersion (t : Transport)
  /-- GET_CAPABILITIES (R387): SPDM request returning the responder's capabilities. -/
  | getCapabilities (t : Transport) (version : BitVec 8)
  /-- NEGOTIATE_ALGORITHMS (R387): SPDM request selecting RSA-3072 and SHA-256. -/
  | negotiateAlgorithms (t : Transport) (version : BitVec 8) (asym : BitVec 32) (hash : BitVec 32) (meas : BitVec 8)
  /-- GET_DIGESTS (R387): SPDM request returning the digest of certificate slot 0. -/
  | getDigests (t : Transport) (version : BitVec 8)
  /-- GET_CERTIFICATE (R387): SPDM request returning a portion of the slot 0 chain. -/
  | getCertificate (t : Transport) (version : BitVec 8) (slot : BitVec 8) (offset : BitVec 16) (length : BitVec 16)
  /-- CHALLENGE (R387): SPDM request for a signed challenge response over slot 0. -/
  | challenge (t : Transport) (version : BitVec 8) (slot : BitVec 8) (summary : BitVec 8) (nonce : BitVec 256)
  /-- GET_MEASUREMENTS (R388): SPDM request returning signed or unsigned measurement blocks. -/
  | getMeasurements (t : Transport) (version : BitVec 8) (index : BitVec 8) (signed : Bool) (nonce : BitVec 256)
  /-- RESPOND_IF_READY (R389): SPDM request collecting a response deferred with ResponseNotReady. -/
  | respondIfReady (t : Transport) (version : BitVec 8)
  /-- SPDM_UNSUPPORTED_REQUEST (R387): Any other SPDM request code gets ERROR UnsupportedRequest. -/
  | spdmUnsupportedRequest (t : Transport) (version : BitVec 8) (code : BitVec 8)
  /-- SET_ENDPOINT_ID (R453): MCTP control message setting the endpoint ID. -/
  | setEndpointId (eid : BitVec 8)
  /-- GET_ENDPOINT_ID (R453): MCTP control message returning the endpoint ID. -/
  | getEndpointId
  /-- GET_MCTP_VERSION_SUPPORT (R453): MCTP control message returning supported versions. -/
  | getMctpVersionSupport
  /-- GET_MESSAGE_TYPE_SUPPORT (R453): MCTP control message returning supported message types. -/
  | getMessageTypeSupport
  /-- MCTP_OTHER_TYPE (R453): An MCTP message of an unsupported type is discarded. -/
  | mctpOtherType (ty : BitVec 8)
  /-- GET_IDENT (R454): Vendor command returning GLB_IDENT and the serial number. -/
  | getIdent
  /-- GET_TEMPS (R454): Vendor command returning sensor temperatures. -/
  | getTemps (first : BitVec 8) (count : BitVec 8)
  /-- GET_POWER (R454): Vendor command returning voltage, power, cap, level and flags. -/
  | getPower
  /-- GET_FRU (R454): Vendor command returning FRU bytes. -/
  | getFru (offset : BitVec 16) (length : BitVec 8)
  /-- GET_BOOT (R454): Vendor command returning boot stage, fatal state, stop reason and last power-off. -/
  | getBoot
  /-- GET_FATAL (R454): Vendor command returning a stored prior fatal record. -/
  | getFatal (index : BitVec 8)
  /-- VENDOR_UNSUPPORTED_COMMAND (R454): A reserved vendor command code is answered with completion code 0x05. -/
  | vendorUnsupportedCommand (code : BitVec 8)
  /-- ALERT_RESPONSE (R455): The device answers the SMBus Alert Response Address with its address. -/
  | alertResponse
  /-- VF_FLR (R365): An FLR of a VF advances its tag generation, stops its host work and drains its contexts. -/
  | vfFlr (n : Fin 256)
  /-- PF_FLR (R366): A PF FLR resets every function, seals durable contexts and resets PF-wide tables. -/
  | pfFlr
  /-- FLR_COMPLETE (R365): The FLR completes and the function answers requests again. -/
  | flrComplete (fn : Fin 256)
  /-- VF_ENABLE_CLEAR (R350): Clearing VF Enable acts on every VF as its FLR. -/
  | vfEnableClear
  /-- HOT_RESET (R363): Hot reset, Secondary Bus Reset or DL_Down acts as a PF FLR and resets configuration space. -/
  | hotReset
  /-- BME_CLEAR (R367): Clearing Bus Master Enable pauses the function's host-facing work and holds replies. -/
  | bmeClear (fn : Fin 256)
  /-- BME_SET (R367): Setting Bus Master Enable resumes paused work and sends pending interrupts. -/
  | bmeSet (fn : Fin 256)
  /-- MEMORY_SPACE_DISABLE (R367): Clearing Memory Space Enable makes the function's BAR requests Unsupported Requests. -/
  | memorySpaceDisable (fn : Fin 256)
  /-- D3HOT_ENTRY (R412): Entry to D3hot declares partner loss, aborts kernels, pauses work and enters self-refresh. -/
  | d3hotEntry
  /-- D3HOT_EXIT (R412): Return to D0 restarts clocks, resumes work and trains ports. -/
  | d3hotExit
  /-- PME_TURN_OFF (R413): PME_Turn_Off is acknowledged with PME_TO_Ack toward L2. -/
  | pmeTurnOff
  /-- PME_EVENT (R369): A button press or port signal detect sends PM_PME in D3hot or asserts WAKE_N in L2. -/
  | pmeEvent (src : PmeSource)
  /-- ATTN_BUTTON_PRESS (R372): ATTN_BTN_N held low 20 ms counts a press and may raise the PF vector. -/
  | attnButtonPress
  /-- HOST_COMPLETION (R343): A completion for a host read is matched by tag generation and slot and delivered. -/
  | hostCompletion (fn : Fin 256) (tag : BitVec 14) (status : CplStatus) (data : List Byte)
  /-- COMPLETION_TIMEOUT (R344): A host read timing out is logged under AER and fails its command. -/
  | completionTimeout (fn : Fin 256) (slot : BitVec 10)
  /-- HOST_TAG_QUARANTINE_EXPIRY (R345): A timed-out host tag slot becomes usable after twice the timeout. -/
  | hostTagQuarantineExpiry (fn : Fin 256) (slot : BitVec 10)
  /-- MEM_RD (R360): A CXL.mem MemRd or MemRdData reads a line through a host window and returns MemData. -/
  | memRd (dpa : BitVec 42) (tag : BitVec 16)
  /-- MEM_SPEC_RD (R360): A CXL.mem MemSpecRd is ignored. -/
  | memSpecRd (dpa : BitVec 42) (tag : BitVec 16)
  /-- MEM_INV (R360): A CXL.mem MemInv or MemInvNT has no effect on data and gets Cmp. -/
  | memInv (dpa : BitVec 42) (tag : BitVec 16)
  /-- MEM_WR (R360): A CXL.mem MemWr writes a full line and gets Cmp when visible. -/
  | memWr (dpa : BitVec 42) (tag : BitVec 16) (data : Line)
  /-- MEM_WR_POISON (R360): A MemWr with Poison stores a poison record and gets Cmp. -/
  | memWrPoison (dpa : BitVec 42) (tag : BitVec 16) (data : Line)
  /-- MEM_WR_PTL (R360): A MemWrPtl is not performed, is counted and gets Cmp. -/
  | memWrPtl (dpa : BitVec 42) (tag : BitVec 16) (enables : BitVec 64) (data : Line)
  /-- CXL_OTHER_OPCODE (R360): Any other M2S opcode is discarded and recorded as a protocol error. -/
  | cxlOtherOpcode (opcode : BitVec 8)
  /-- HEP_HWIN_COMMIT (R358): Checks all 64 host-window entries and applies them together or reports the first failure. -/
  | hepHwinCommit
  /-- HEP_RPL_COMMIT (R64): Applies the shadowed reply-ring fields, resetting PROD and CONS when the ring changes. -/
  | hepRplCommit (fn : Fin 256)
  /-- QOS_COMMIT (R5): Applies the shadowed QOS_CFG and QOS_TANGENT fields and copies them to every regulator. -/
  | qosCommit
  /-- GNM_COMMIT (R158): Applies the shadowed LOW_WATER and HIGH_WATER of a directory die. -/
  | gnmCommit (die : Fin 2)
  /-- FLS_COMMIT (R5): Applies the shadowed FLS_CFG fields of an FLS die. -/
  | flsCommit (fls : Fin 2)
  /-- REGISTER_WRITE (R5): A write to a register without its own row stores fields under their access and update classes. -/
  | registerWrite (space : RegSpace) (fn : Fin 256) (offset : BitVec 26) (size : BitVec 4) (value : BitVec 64)
  /-- SVC_TEST_COMPLETE (R424): A unit test ends, restoring or retiring the unit as the result gives, and replies. -/
  | svcTestComplete (u : UnitRef) (r : TestResult)
  /-- COUNTER_OVERFLOW (R436): A programmable counter wraps, sets OVF, may sample and may raise the owner's vector. -/
  | counterOverflow (blk : BitVec 8) (inst : BitVec 8) (ctr : Fin 8)
  /-- PERIODIC_SNAPSHOT (R441): Every PERIOD a snapshot is written into the next ring slot, or skipped and counted. -/
  | periodicSnapshot
  /-- APERTURE_SLOT_WRITE (R56): A write TLP to a command aperture stores its bytes in the slot's assembly, submitting the packet only when all 64 bytes have been written since the last submission. -/
  | apertureSlotWrite (fn : Fin 256) (offset : BitVec 20) (bytes : List Byte)
  /-- MEMORY_DIE_FAILURE (R416): The loss of a memory die retires both of its stacks, serves striped data only by reconstruction and loses its other pinned frames. -/
  | memoryDieFailure (die : Fin 10)
  /-- SUPPLY_HIGH_EXIT (R396): The supply falling from High back into the Normal range clears PMC_STATUS.OVERVOLT and releases SMB_ALERT_N if nothing else holds it. -/
  | supplyHighExit (vin : BitVec 16)
  /-- FLUSH_DOMAIN_POWER_LOSS (R397): The hold-up bank runs down and the flush domain loses power, ending any journal flush still in progress. -/
  | flushDomainPowerLoss
  /-- CXL_TABLE_ACCESS (R357): A DOE CXL Table Access request reads the CDAT with its DSMAS and DSLBIS entries. -/
  | cxlTableAccess (entry : BitVec 16)
  /-- DOE_DISCOVERY (R348): A DOE Discovery request reports the supported DOE protocols of the PF mailbox. -/
  | doeDiscovery (index : BitVec 8)
deriving DecidableEq, Repr

end Sys2Proof
end

