-- ==== Sys2Proof/Config.lean ====
section
/-!
DEFINITION. What an implementation or a part fixes, and the free values: constants without a body, so that no proof can
see one. `free` gives every value the spec leaves open, one per number taken from `State.fresh` (log 1).
-/

namespace Sys2Proof.Config

/-- The free values: the value taken at each count of `State.fresh` (log 1). -/
opaque free : Nat → Nat

/-- The bytes 0-399 and the signature of an image pass the RSA-3072 check of the firmware signing key (R379, R391). -/
opaque imageSigned : List Byte → Bool

/-- The DER form of the device identity public key (R385). -/
opaque identityKey : List Byte

/-- The bytes of certificate slot 0's chain (R385). -/
opaque certChain : List Byte

/-- The digests of the Hull ROM and of the calibration record (R388, indices 1 and 9). -/
opaque romDigest : BitVec 256

/-- The digest of the calibration record (R388). -/
opaque calibrationDigest : BitVec 256

/-- The FRU data before the Olfamen multirecord (R452): the common header, the board area with the date of manufacture, the product area.
Arguments: the ordering code as ASCII bytes, the part number of the product area, and the module's serial number. -/
opaque fruAreas : List Byte → Nat → List Byte

/-- The FP32 seed of a cold start: SEED, tile, column, row (R225: the generator is not given; see `seedValue`). -/
opaque seed : Nat → Nat → Nat → Nat → BitVec 32

/-- What orders the 16 lines of a frame within its share of a pseudo-channel (R300: banks and rows are internal to the controller; see
`rowOrder`). Arguments: stack, pseudo-channel, frame position, line of the share. -/
opaque rowKey : Nat → Nat → Nat → Nat → Nat

/-- The shift by which 20 consecutive tier-cache frames of a directory die lie over the 20 stacks (R156: spread evenly, in an order
not stated; see `tierStack`). Arguments: the die, the frame number divided by 20. -/
opaque tierShift : Nat → Nat → Nat

/-- The stripe wordlines of a stripe block (R325: not given). -/
opaque blockWordlines : Nat

/-- How many stripe blocks of a die index the system area takes (R330: not given; see `systemBlock`). Argument: the die index. -/
opaque systemBlocks : Nat → Nat

/-- The read-disturb limit of the NAND, in reads of a block since its program (R335: the part's). -/
opaque readDisturb : Nat

/-- Which of the allowed results MIN, MAX and their reductions take in the vector unit where an operand is a NaN, or both are zeros
of unlike sign (R264 states none; log 68). Arguments: 3 for MIN, 4 for MAX, then the operands. -/
opaque minMax : Nat → BitVec 32 → BitVec 32 → Bool

/-- The offset in ulp, 0-4 standing for -2 to 2, of rsqrt, reciprocal, exp2 and log2 (R242). The first
argument is the FN of VSFU. -/
opaque ulpOffset : Nat → BitVec 32 → Fin 5

/-- The columns of the parity-check matrix of code L for the 64 data bits of a word (R307: a Hsiao matrix, which one is not stated;
see `hsiaoColumn`). -/
opaque hsiao : Nat → BitVec 8

/-- The calibration record of the package (R305): the transmit delay code, the receive delay code and the reference-voltage code. Arguments:
the stack, the band, the pin of the stack. -/
opaque delayCode : Nat → Nat → Nat → Nat × Nat × Nat

/-- The TLP header of the error that a function's header log shows (R370). Arguments: the function, the number of the header. -/
opaque tlpHeader : Nat → Nat → BitVec 128

/-- The header of the M2S message whose record is the n-th in the CXL RAS capability (R359, R360). -/
opaque cxlHeader : Nat → BitVec 512

/-- The bit of the CXL RAS Uncorrectable Error Status that records an error (not stated): 0 a refused request, 1 a MemWrPtl, 2 a protocol
error (R359, R360). -/
opaque cxlRasBit : Nat → Fin 32

/-- The offset of the capability after a structure of configuration space, which software finds by walking the lists (R348). Arguments:
the function, the structure. -/
opaque nextCap : Nat → Nat → Nat

/-- The values of the key pairs, by key number (R47, R49: random, and never visible). -/
opaque keyBits : Nat → BitVec 512

/-- The poison signature of the device (R310: unique to it, and never visible). -/
opaque poisonSignature : BitVec 256

end Sys2Proof.Config
end

