-- ==== Sys2Proof/Machine/State.lean ====
section
/-!
DEFINITION. The state of the block as plain data: every register, table, queue and buffer the spec gives it, the queue of
waiting commands, and the state after reset. Each field's docstring gives what it is, its width, the file and rule that
name it, and its reset value.
-/

namespace Sys2Proof.Machine

/-- The faults. -/
inductive Fault where
  /-- Raised by a command that no message on the link or bus can spell: its data do not have the length its header states.
  Safe: such a command cannot be sent. -/
  | malformedCommand
deriving DecidableEq, Repr

/-- The refusals. -/
inductive Refusal where
  /-- Raised by an arm of exec whose command has no meaning in the model yet. Safe. -/
  | notModelled (mnemonic : String)
deriving DecidableEq, Repr

/-! ## Chapters 00-03: contexts, windows, regions, commands, replies -/

/-- The state of a context (R29). -/
inductive CtxSt where
  | free
  | active
  | draining
deriving DecidableEq, Repr

/-- One window of a context (R36), with the region or the subscription that its handle named. -/
structure Window where
  /-- VALID | 1 | 02 R36 | 0 (CTX_CREATE clears the windows) -/
  valid  : Bool := false
  /-- RD | 1 | 02 R36 | 0 -/
  rd     : Bool := false
  /-- WR | 1 | 02 R36 | 0 -/
  wr     : Bool := false
  /-- ATOM | 1 | 02 R36 | 0 -/
  atom   : Bool := false
  /-- OWN | 1 | 02 R36 | 0 -/
  own    : Bool := false
  /-- KRN | 1 | 02 R36 | 0 -/
  krn    : Bool := false
  /-- LA_PAGE, LA[55:16] of the first byte | 40 | 02 R36 | 0 -/
  laPage : Nat := 0
  /-- PAGES | 32 | 02 R36 | 0 -/
  pages  : Nat := 0
  /-- ZA_PAGE, ZA[48:16] | 33 | 02 R36 | 0 -/
  zaPage : Nat := 0
  /-- KEY_SLOT | 13 | 02 R36 | 0 -/
  keySlot : Nat := 0
  /-- GEN | 24 | 02 R36 | 0 -/
  gen    : Nat := 0
  /-- the index of the region mapped (the model's own link from the entry to its region) | 20 | 02 R37 | 0 -/
  region : Nat := 0
  /-- the index of the subscription mapped, if the handle was one | 20 | 02 R37 | none -/
  sub    : Option Nat := none
deriving DecidableEq, Repr

/-- A context (R26-R35). Absent contexts are FREE. -/
structure Ctx where
  /-- the context's state | FREE, ACTIVE, DRAINING | 02 R29 | FREE -/
  st       : CtxSt := .free
  /-- the owning function, 0 the PF | 8 | 02 R26 | 0 -/
  owner    : Nat := 0
  /-- which key pair the context holds (the key's value is never visible: R49) | id | 02 R47 | 0 -/
  key      : Nat := 0
  /-- the region generation counter: the generation the next REGION_ALLOC takes | 24 (0x100_0000 when used up) | 02 R44 | 1 -/
  gen      : Nat := 1
  /-- miss policy: NACK | 1 | 02 R29, 05 R133 | HOLD -/
  nack     : Bool := false
  /-- durable | 1 | 02 R31 | 0 -/
  durable  : Bool := false
  /-- the seal ID of a durable context | 32 | 02 R33 | 0 -/
  sealId   : Nat := 0
  /-- the 32 windows | 32 entries | 02 R36 | not VALID -/
  windows  : Tbl Window := []
  /-- the ports whose binding sets hold the context, the same on every link die | 16 | 02 R34 | 0 -/
  bind     : BitVec 16 := 0
  /-- the budget per regulator window set by QOS_BUDGET_SET, before derating; 0 none | 41 | 06 R154 | 0 -/
  budget   : Nat := 0
  /-- whether the FREE transition seals the context (R31): its durable images are kept | 1 | 02 R31 | 0 -/
  sealing  : Bool := false
deriving DecidableEq, Repr

/-- A sealed durable image (R31, R32): what is kept of the context. -/
structure SealedImg where
  /-- the seal ID | 32 | 02 R33 | absent -/
  sealId  : Nat := 0
  /-- the wrapped key | id | 02 R31 | absent -/
  key     : Nat := 0
  /-- the region generation counter | 24 | 02 R31 | absent -/
  gen     : Nat := 1
  /-- the indices of the tiered regions kept | list | 02 R31 | absent -/
  regions : List Nat := []
deriving DecidableEq, Repr

/-- Where a region stands in the sharing life cycle (R269); a region of another type stays UNPUBLISHED. -/
inductive ShareSt where
  | unpublished
  | publishing
  | published
  | withdrawn
deriving DecidableEq, Repr

/-- The build state of a table group (R198). -/
inductive GroupSt where
  | idle
  | armed
  | sampling
deriving DecidableEq, Repr

/-- A table group (R197, R198). Groups of a compressed region start ARMED. -/
structure Group where
  /-- build state | 3 states | 08 R198 | ARMED -/
  st      : GroupSt := .armed
  /-- the current table, 0 none | 16 | 08 R197 | 0 -/
  current : Nat := 0
  /-- the current table before the last publication, with which a die encodes until its copy of the group record is updated | 16 | 08 R200 | 0 -/
  prior   : Nat := 0
  /-- the memory dies whose copy of the group record is not updated yet | list of 4 | 08 R197 R200 | empty -/
  stale   : List Nat := []
  /-- the builder die of a sampling group | 4 | 08 R198 | 0 -/
  builder : Nat := 0
  /-- samples taken, 0-64 | 7 | 08 R198 | 0 -/
  samples : Nat := 0
  /-- the counts of the build beyond the initial ones, by view, plane and symbol | Nat each | 08 R199 | 0 -/
  counts  : Tbl Nat := []
  /-- the residual bits of the build per view | Nat each | 08 R199 | 0 -/
  bits    : Tbl Nat := []
deriving DecidableEq, Repr

/-- A region (R39-R46) with its sharing (R269-R278) and codec (R215) state. -/
structure Region where
  /-- the owning context | 12 | 02 R39 | absent -/
  ctx      : Nat := 0
  /-- the function its charge counts against | 8 | 02 R42 R46 | absent -/
  fn       : Nat := 0
  /-- whether the owning context still exists (a version of a destroyed context is charged to the function) | 1 | 02 R46 | absent -/
  owned    : Bool := true
  /-- the seal ID of the sealed context that keeps it, 0 none | 32 | 02 R31 | absent -/
  sealedBy : Nat := 0
  /-- the attribute word | 32 | 02 R40 | absent -/
  attr     : BitVec 32 := 0
  /-- the size in 64 KiB pages | 32 | 02 R39 | absent -/
  pages    : Nat := 0
  /-- ZA[48:16] of the base | 33 | 02 R24 R39 | absent -/
  zaPage   : Nat := 0
  /-- the generation | 24 | 02 R39 R44 | absent -/
  gen      : Nat := 0
  /-- the key of a shared region, else 0 and the context's key serves | id | 02 R47 | absent -/
  key      : Nat := 0
  /-- the key slot of a published version, 4,096-8,191; 0 none | 13 | 02 R36, 11 R270 | absent -/
  keySlot  : Nat := 0
  /-- the zero fill has not finished | 1 | 02 R43 | absent -/
  filling  : Bool := false
  /-- CODEC_SET forces RAW | 1 | 08 R215 | absent -/
  forceRaw : Bool := false
  /-- the sharing state | 4 states | 11 R269 | UNPUBLISHED -/
  share    : ShareSt := .unpublished
  /-- hashing has begun (HASH_START) | 1 | 11 R271 | absent -/
  hashing  : Bool := false
  /-- NAME | 256 | 11 R272 | absent -/
  name     : BitVec 256 := 0
  /-- SCOPE of the publication | 8 | 11 R271 | absent -/
  scope    : Nat := 0
  /-- the SHARE_PUBLISH command in progress | id | 11 R269 | none -/
  pubCmd   : Option Nat := none
  /-- the version number | 32 | 11 R272 | absent -/
  version  : Nat := 0
  /-- a change of LEASE under way: its command, the new LEASE, and the requests admitted before on the old route | id, 1, list of Nat | 02 R44 | none -/
  moving   : Option (Nat × Bool × List Nat) := none
  /-- the digests of its first pages that have been hashed | 32 bytes each | 11 R273 R274 | empty -/
  digests  : List (BitVec 8) := []
  /-- what the publication in progress has ended in the table groups, for a restart that undoes it | groups | 03 R70, 08 R198 | empty -/
  groupsWas : List (Nat × Group) := []
  /-- the content hash | 64 | 11 R273 | absent -/
  hash     : BitVec 64 := 0
deriving DecidableEq, Repr

/-- A subscription (R275, R276). -/
structure Sub where
  /-- the subscribing context | 12 | 11 R275 | absent -/
  ctx    : Nat := 0
  /-- the region of the version | 20 | 11 R275 | absent -/
  region : Nat := 0
deriving DecidableEq, Repr

/-- Where an accepted command stands. -/
inductive CmdSt where
  /-- accepted, not started: FENCE, a paused function or a restarting handler holds it -/
  | parked
  /-- started, its reply not formed -/
  | running
  /-- its reply is formed and held, or queued on its port -/
  | replied
deriving DecidableEq, Repr

/-- An outstanding command (R60): from acceptance until its reply is written or sent. -/
structure Cmd where
  /-- acceptance number | Nat | 03 R54 R60 | absent -/
  id     : Nat
  /-- submission path | aperture of a function, or port with header context and tag | 03 R57 | absent -/
  via    : Via
  /-- OPCODE | 16 | 03 R52 | absent -/
  opcode : Nat
  /-- the packet | 64 bytes | 03 R52 | absent -/
  p      : Packet
  /-- the function it acts for: the submitter, or on a link the owner of the context | 8 | 03 R59 | absent -/
  fn     : Nat
  /-- whose credit it holds: a context, or 4,096 + function for the CONTEXT 0 allowance | 13 | 03 R59 R60 | absent -/
  acct   : Nat
  /-- where it stands | 3 states | 03 R60 | absent -/
  st     : CmdSt
  /-- a number its work stands at: pages left, a region index, a host tag, as its meaning says | Nat | per opcode | absent -/
  aux    : Nat := 0
  /-- its partner was declared lost: its reply is discarded | 1 | 03 R57, 04 R119 | 0 -/
  lost   : Bool := false
  /-- units done (DETAIL of PARTIAL) | Nat | 03 R70 | absent -/
  done   : Nat := 0
  /-- the processor that executes it; none the hardware | 8 | 03 R69 | absent -/
  proc   : Option Nat := none
  /-- the pages a CKPT_COMMIT still waits for; 2^32 is added while a commit already under way must come first | list of 33 | 07 R177 | empty -/
  pages  : List Nat := []
  /-- the host data that has arrived for it | list of 8 | 15 R386 R390, 10 R267 | empty -/
  data   : List (BitVec 8) := []
deriving DecidableEq, Repr

/-- A 32-byte reply before PHASE (R63), and the command whose credit ends with it (none for a refusal at checks 1-4). -/
structure Reply where
  /-- OPCODE | 16 | 03 R63 | absent -/
  opcode  : Nat
  /-- STATUS | 8 | 03 R63 R68 | absent -/
  status  : Nat
  /-- CONTEXT | 16 | 03 R63 | absent -/
  context : BitVec 16
  /-- TAG | 16 | 03 R63 | absent -/
  tag     : BitVec 16
  /-- RESULT, bytes 8-23 | 128 | 03 R63 | absent -/
  result  : BitVec 128
  /-- DETAIL | 32 | 03 R63 | absent -/
  detail  : Nat
  /-- TSTAMP | 32 | 03 R63 | absent -/
  tstamp  : BitVec 32
  /-- whether the packet asks for the ring interrupt | 1 | 03 R54 | absent -/
  irq     : Bool
  /-- the outstanding command it answers | id | 03 R60 | absent -/
  cmd     : Option Nat
deriving DecidableEq, Repr

/-- The bytes of an aperture slot written since its last submission (R56). -/
structure Slot where
  /-- which bytes have been written | 64 | 03 R56 | 0 -/
  mask : BitVec 64 := 0
  /-- their values | 512 | 03 R56 | 0 -/
  data : BitVec 512 := 0
deriving DecidableEq, Repr

/-- A reply ring (R63-R66): the shadow and the active set, the counts and the held replies. -/
structure Ring where
  /-- HEP_RPL_BASE.ADDR shadow, bits [63:12] | 52 | 03 R64 | 0 -/
  baseSh   : BitVec 52 := 0
  /-- HEP_RPL_CTRL shadow (ENABLE [0], IRQ_ALL [1], LOG2_ENTRIES [11:8], MSIX_VECTOR [26:16]) | 32 | 03 R64 | 0 -/
  ctrlSh   : BitVec 32 := 0
  /-- the ADDR in force | 52 | 03 R64 | 0 -/
  base     : BitVec 52 := 0
  /-- HEP_RPL_ACTIVE, the CTRL in force | 32 | 03 R64 | 0 -/
  ctrl     : BitVec 32 := 0
  /-- HEP_RPL_PROD | 32 | 03 R64 | 0 -/
  prod     : BitVec 32 := 0
  /-- HEP_RPL_CONS | 32 | 03 R64 | 0 -/
  cons     : BitVec 32 := 0
  /-- the replies waiting, oldest first; its length is HEP_RPL_STAT.HELD | list | 03 R62 R64 | empty -/
  held     : List Reply := []
  /-- HEP_RPL_STAT.DROPPED | 16 | 03 R62 | 0 -/
  dropped  : Nat := 0
  /-- HEP_RPL_STAT.DROP_SEEN | 1 | 03 R62 | 0 -/
  dropSeen : Bool := false
deriving DecidableEq, Repr

/-! ## Chapters 04-05: ports, requests, leases, stored data -/

/-- The states of a port, in the order of LNK_PORT_STATUS.STATE (R85). -/
inductive PortSt where
  | off
  | detect
  | train
  | caps
  | active
  | recovery
  | versionMismatch
  | lost
deriving DecidableEq, Repr

/-- A message waiting to be packed into flits (R100). -/
structure TxMsg where
  /-- its virtual channel | 2 | 04 R97 | absent -/
  vc     : Nat
  /-- its slots, 32 bytes each, the header slot first | list of 256 | 04 R100 R101 R103 | absent -/
  slots  : List (BitVec 256)
  /-- the command whose reply it carries | id | 04 R57, 03 R60 | absent -/
  cmd    : Option Nat := none
  /-- the requester tag of the device request or RECALL it carries | 12 | 04 R115 R112 | absent -/
  reqTag : Option Nat := none
  /-- the partner's tag that is free once its last slot has been sent: it is the last response to a request | 12 | 04 R104 R108 | none -/
  frees  : Option Nat := none
deriving DecidableEq, Repr

/-- A DATA flit kept until an ACK covers it (R92): its SEQ, slot codes, payload and credit returns. -/
structure TxFlit where
  /-- SEQ | 12 | 04 R92 | absent -/
  seq      : BitVec 12
  /-- SLOTCODE | 14 | 04 R90 | absent -/
  slotcode : BitVec 14
  /-- the payload | 1792 | 04 R90 | absent -/
  payload  : BitVec 1792
  /-- its credit returns, VC and slots | at most 2 | 04 R90 R98 | absent -/
  credits  : List (Nat × Nat) := []
deriving DecidableEq, Repr

/-- What a requester tag of a port is used for (R112, R115-R117). -/
inductive ReqUse where
  /-- a RECALL for the leased line -/
  | recallReq (line : Nat)
  /-- a request of a transfer unit: its first line within the unit, its lines, and whether it is the WR or ACC -/
  | xfer (xfer unit off n : Nat) (write : Bool)
  /-- timed out or lost: not usable until the quarantine ends -/
  | quarantined
deriving DecidableEq, Repr

/-- A requester tag in use (R115-R117). -/
structure PortReq where
  /-- its use | 3 | 04 R112 R115 R117 | absent -/
  use      : ReqUse := .quarantined
  /-- the last slot has entered a DATA flit, which starts the timer | 1 | 04 R116 | 0 -/
  sent     : Bool := false
  /-- the cycles of the CPL_RETRY wait the request is in, if it is in one | Nat | 04 R116 | none -/
  retry    : Option Nat := none
deriving DecidableEq, Repr

/-- A Wenxel port (R82-R121) with its registers. -/
structure Port where
  /-- LNK_PORT_STATUS.STATE | 4 | 04 R85 | OFF -/
  st           : PortSt := .off
  /-- LNK_PORT_CTRL.ENABLE | 1 | 04 Port registers | 1 -/
  enable       : Bool := true
  /-- LNK_PORT_CTRL.MAX_WIDTH | 2 | 04 Port registers | 0 -/
  maxWidth     : Nat := 0
  /-- LNK_PORT_CTRL.RETRY_TIMEOUT | 16 | 04 Port registers | 0x0FA0 -/
  retryTimeout : Nat := 0x0FA0
  /-- LNK_PORT_TIMEOUT.REQ_TIMEOUT | 32 | 04 R116 | 0x001E_8480 -/
  reqTimeout   : Nat := 0x001E8480
  /-- LNK_PORT_TIMEOUT.RECALL_TIMEOUT | 32 | 04 R113 | 0x0003_0D40 -/
  recallTimeout : Nat := 0x00030D40
  /-- LNK_PORT_ERR | 8 | 04 Port registers | 0 -/
  err          : BitVec 8 := 0
  /-- LNK_PORT_LOSS.REASON | 4 | 04 R118 | 0 -/
  lossReason   : Nat := 0
  /-- LNK_PORT_LOSS.LEASES_REVOKED | 17 | 04 R119 | 0 -/
  leasesRevoked : Nat := 0
  /-- LNK_PORT_LOSS.LOSS_COUNT | 31 | 04 R118 | 0 -/
  lossCount    : Nat := 0
  /-- the active lane set | 4 | 04 R82 | 0 -/
  lanes        : BitVec 4 := 0
  /-- LNK_PORT_STATUS.LANE_OK | 4 | 04 Port registers | 0 -/
  laneOk       : BitVec 4 := 0
  /-- the RECOVERY under way was started by RETRAIN, so that it may widen the port | 1 | 04 R86 | 0 -/
  widen        : Bool := false
  /-- consecutive TRAIN failures | Nat | 04 R85 | 0 -/
  trainFails   : Nat := 0
  /-- LNK_PORT_STATUS.PARTNER_VERSION | 8 | 04 R95 | 0 -/
  partnerVersion : BitVec 8 := 0
  /-- LNK_PORT_STATUS.PARTNER_ROLE | 2 | 04 R95 | 0 -/
  partnerRole  : BitVec 2 := 0
  /-- LNK_PORT_STATUS.PARTNER_DEVICE_ID | 16 | 04 R95 | 0 -/
  partnerDev   : BitVec 16 := 0
  /-- LNK_PORT_STATUS.LINK_UP_COUNT | 16 | 04 R85 | 0 -/
  linkUps      : Nat := 0
  /-- the version in force | 8 | 04 R96 | 0 -/
  version      : BitVec 8 := 0
  /-- the scrambler register of the transmit lanes at the next flit (log 12) | 23 | 04 R84 | DESIGN CHOICE 0 (log 12) -/
  scrambler    : BitVec 23 := 0
  /-- credits held toward the partner, per VC 0-3 | list of 4 | 04 R98 | 0 -/
  txCred       : Tbl Nat := []
  /-- their initial values, from the partner's CAPS flit | list of 4 | 04 R87 R98 | 0 -/
  txCredInit   : Tbl Nat := []
  /-- slots freed and not yet returned to the partner, per VC | list of 4 | 04 R98 | 0 -/
  owed         : Tbl Nat := []
  /-- the SEQ of the next new DATA flit | 12 | 04 R92 | 0 -/
  txSeq        : BitVec 12 := 0
  /-- the replay buffer, oldest first | at most 512 flits | 04 R92 | empty -/
  replay       : List TxFlit := []
  /-- how many of its youngest flits are still to be sent again | 10 | 04 R92 | 0 -/
  toReplay     : Nat := 0
  /-- E, the SEQ expected next | 12 | 04 R93 | 0 -/
  rxExpect     : BitVec 12 := 0
  /-- a DATA flit has been accepted since link-up, so that ACK is meaningful | 1 | 04 R90 | 0 -/
  rxAny        : Bool := false
  /-- waiting for a replay | 1 | 04 R92 | 0 -/
  rxWait       : Bool := false
  /-- a RETRY_REQ flit is due | 1 | 04 R92 | 0 -/
  retryReqDue  : Bool := false
  /-- consecutive failed retries | 0-8 | 04 R94 | 0 -/
  failedRetries : Nat := 0
  /-- a CAPS flit is due | 1 | 04 R95 | 0 -/
  capsDue      : Bool := false
  /-- a CAPS flit has been received since CAPS was entered | 1 | 04 R85 R95 | 0 -/
  capsRx       : Bool := false
  /-- the initial credits of VC0-VC3 that it named | list of 4 | 04 R95 R98 | 0 -/
  capsCred     : Tbl Nat := []
  /-- ordinary-stream slots received of an unfinished message | list | 04 R100 | empty -/
  rxOrd        : List (BitVec 256) := []
  /-- Tangent-stream slots received of an unfinished message | list | 04 R100 | empty -/
  rxTan        : List (BitVec 256) := []
  /-- messages waiting to be sent in the ordinary stream | list | 04 R100 | empty -/
  txOrd        : List TxMsg := []
  /-- the ordinary message begun | record | 04 R100 R116 | none -/
  txCur        : Option TxMsg := none
  /-- slots still to send of the ordinary message begun | list | 04 R100 | empty -/
  txPart       : List (BitVec 256) := []
  /-- messages waiting to be sent in the Tangent stream | list | 04 R100 | empty -/
  txTan        : List TxMsg := []
  /-- the Tangent message begun | record | 04 R100 R108 | none -/
  txTanCur     : Option TxMsg := none
  /-- slots still to send of the Tangent message begun | list | 04 R100 | empty -/
  txTanPart    : List (BitVec 256) := []
  /-- the partner's tags outstanding | 4,096 flags | 04 R108 | none -/
  tags         : List Nat := []
  /-- the device's requester tags in use | 4,096 entries | 04 R115 | none -/
  reqs         : Tbl PortReq := []
  /-- the port has been settled for boot stage 6: no signal for 10 ms since DETECT | 1 | 16 R409 | 0 -/
  noSignal     : Bool := false
  /-- flits of a reserved FTYPE discarded | Nat | 04 R91 | 0 -/
  rsvFlits     : Nat := 0
  /-- reserved responses discarded | Nat | 04 R102 | 0 -/
  rsvMsgs      : Nat := 0
  /-- an SVC_TEST runs PRBS on these lanes | 4 | 04 R86, 17 R424 | 0 -/
  testLanes    : BitVec 4 := 0
deriving DecidableEq, Repr

/-- Where a memory request came from, and so where its answer goes (R123, R134, R135). -/
inductive Src where
  /-- a Wenxel request: port, tag, VC it arrived on, and whether it takes the Tangent path -/
  | link (port tag vc : Nat) (tangent : Bool)
  /-- a CXL.mem request with its tag -/
  | cxl (tag : Nat)
  /-- an XFER_ATOM, KERNEL_LOAD or SVC_CLEAR_POISON command -/
  | cmd (id : Nat)
deriving DecidableEq, Repr

/-- What a request does to its lines. -/
inductive ReqOp where
  | rd
  | rdOwn
  | wr
  | wrRelease (nodata : Bool)
  | atom
  | vadd
  | acc
  /-- SVC_CLEAR_POISON of the line or block (R427) -/
  | clear
deriving DecidableEq, Repr

/-- Why a request waits. -/
inductive Hold where
  /-- at a regulator for allowance or a spare slot (R147) -/
  | regulator (reg : Nat)
  /-- for the lease of a line to end (R112) -/
  | lease (line : Nat)
  /-- for a tier page to become resident (R133) -/
  | miss (page : Nat)
  /-- for a read-out to complete (R164) -/
  | readout (page : Nat)
  /-- behind an earlier held request of its port, which must take effect first (R109) -/
  | behind (id : Nat)
  /-- at its entry die, until a region has changed its route (R44) -/
  | move (region : Nat)
  /-- at the order point, for room in the write buffer of a stack (R302) -/
  | room (stack : Nat)
deriving DecidableEq, Repr

/-- An entry of the class table (R137). -/
structure Class where
  /-- latency target in fabric cycles, 0 none | 20 | 06 R137 | 0; class 1: 600 (R138) -/
  target  : Nat := 0
  /-- base priority | 6 | 06 R137 | 8; class 1: 24 (R138) -/
  base    : Nat := 8
  /-- escalation slope | 6 | 06 R137 | 0; class 1: 32 (R138) -/
  slope   : Nat := 0
  /-- Tangent eligible | 1 | 06 R137 | 0; class 1: 1 (R138) -/
  tangent : Bool := false
deriving DecidableEq, Repr

/-- The sources of internal movers (R144). -/
inductive MoverSource where
  /-- the directory's entries in the carve-out -/
  | directory
  /-- the fill of a demand miss -/
  | demandFill
  /-- a write-back -/
  | writeBack
  /-- Chord operand streams and kernel writes -/
  | chord
  /-- transfers and a command's own writes -/
  | transfer
  /-- the fill of a prefetch -/
  | prefetchFill
  /-- the zero fill of a region -/
  | regionFill
deriving DecidableEq, Repr

/-- What the priority of a command at a pseudo-channel scheduler follows from (R142). -/
inductive Pri where
  /-- an internal mover -/
  | internal (m : MoverSource)
  /-- an external request admitted from spare bandwidth -/
  | spare
  /-- an external in-share request: its class label and the entry that it was classified by -/
  | ofClass (label : Nat) (entry : Class)
deriving DecidableEq, Repr

/-- A held memory request: admitted or waiting at its regulator. -/
structure Req where
  /-- arrival number | Nat | 04 R109 | absent -/
  id     : Nat
  /-- where it came from | 6 kinds | 05 R123 R135 | absent -/
  src    : Src
  /-- its context | 12 | 04 R101 | absent -/
  ctx    : Nat
  /-- its operation | 8 kinds | 04 R102 | absent -/
  op     : ReqOp
  /-- LA | 56 | 04 R101 | absent -/
  la     : Nat
  /-- ZA after translation | 49 | 02 R38 | absent -/
  za     : Nat
  /-- the region reached | 20 | 02 R38 | absent -/
  region : Nat
  /-- lines | 1-64 | 04 R101 | absent -/
  lines  : Nat
  /-- class label | 5 | 06 R136 | absent -/
  cls    : Nat
  /-- the class table's entry when it was classified | entry | 06 R137 | absent -/
  entry  : Class := {}
  /-- KEY_SLOT of its translation | 13 | 02 R38 | 0 -/
  keySlot : Nat := 0
  /-- GEN of its translation | 24 | 02 R38 | 0 -/
  gen    : Nat := 0
  /-- ATOP | 4 | 04 R105 | absent -/
  atop   : Nat := 0
  /-- AWIDTH | 3 | 04 R105 | absent -/
  awidth : Nat := 0
  /-- operand A | 64 | 04 R101 | absent -/
  a      : BitVec 64 := 0
  /-- operand B | 64 | 04 R101 | absent -/
  b      : BitVec 64 := 0
  /-- the data lines | list of 512 | 04 R101 | absent -/
  data   : List Line := []
  /-- the window's CXL poison mark: a MemWr with Poison | 1 | 14 R360 | absent -/
  poison : Bool := false
  /-- RO: a WR or ACC that may pass earlier writes to other lines | 1 | 04 R101 R109 | absent -/
  ro     : Bool := false
  /-- it arrived on VC3 while a write of its port to one of its lines had not been answered | 1 | 05 R124 | 0 -/
  demoted : Bool := false
  /-- admitted from spare bandwidth | 1 | 06 R152 | absent -/
  spare  : Bool := false
  /-- why it waits | 4 kinds | 05 R133, 06 R147 | absent -/
  hold   : Hold := .regulator 0
  /-- the GNM_HOLD_LIMIT read when its miss began | 32 | 07 R173 | 0 -/
  limit  : Nat := 0
deriving DecidableEq, Repr

/-- A lease (R111, R112). -/
structure Lease where
  /-- the holding port | 4 | 04 R111 | absent -/
  port : Nat := 0
  /-- the holding context | 12 | 04 R111 | absent -/
  ctx  : Nat := 0
  /-- the LA used in RD_OWN | 56 | 04 R111 | absent -/
  la   : Nat := 0
  /-- the requester tag of the RECALL outstanding | 12 | 04 R112 | none -/
  recallTag : Option Nat := none
deriving DecidableEq, Repr

/-- A pending drain of the write buffer (R126): the content is in effect, the stored form is still to be written. -/
structure WEntry where
  /-- age: lower is older | Nat | 06 R142 | absent -/
  seq      : Nat
  /-- the stack | 5 | 12 R298 | absent -/
  stack    : Nat
  /-- the line number ZA[48:6], or the first line of the block | 43 | 05 R126 | absent -/
  line     : Nat
  /-- a whole block of a compressed region | 1 | 05 R125 | absent -/
  block    : Bool
  /-- what its kind and its priority follow from | 3 kinds | 06 R142 R144 | absent -/
  pri      : Pri
  /-- it has waited 8,192 cycles | 1 | 06 R142 | 0 -/
  aged     : Bool := false
  /-- its context, for the counters and the code class | 12 | 05 R126 | absent -/
  ctx      : Nat := 0
  /-- the plaintext of a block, not encoded yet; a line's is in effect at once | 64 lines | 05 R126, 08 R192 | empty -/
  data     : List Line := []
  /-- a block whose stored form a fill brings: it is in effect at once | 1 | 06 R144, 07 R172 | 0 -/
  fill     : Bool := false
deriving DecidableEq, Repr

/-- A line that an atomic unit keeps in plaintext (R127): its memory die and its line number. -/
structure AtomLine where
  /-- memory die | 4 | 05 R127 | absent -/
  die  : Nat
  /-- line number | 43 | 05 R127 | absent -/
  line : Nat
deriving DecidableEq, Repr

/-! ## Chapters 06-07: regulation and tiering -/

/-- What a regulator keeps for one context (R145-R151). -/
structure RegCtx where
  /-- the share in force before derating | 41 | 06 R149 | 0 -/
  share  : Nat := 0
  /-- the share the scheduler core has sent, in force at a window boundary | 41 | 06 R149 | 0 -/
  next   : Nat := 0
  /-- the allowance left in this window | signed | 06 R145 | 0 -/
  allow  : Int := 0
  /-- bytes charged since the last rebalance | Nat | 06 R149 | 0 -/
  use    : Nat := 0
  /-- bytes charged over the rebalance period before | Nat | 06 R149 | 0 -/
  prev   : Nat := 0
  /-- Tangent lines admitted in this window | 16 | 06 R151 | 0 -/
  tanLines : Nat := 0
deriving DecidableEq, Repr

/-- A regulator: LNK0-LNK3 are 0-3, CTL is 4 (R145). -/
structure Regulator where
  /-- per context | 4,096 entries | 06 R145 | 0 -/
  ctxs     : Tbl RegCtx := []
  /-- Tangent lines per port in this window | 4 entries | 06 R151 | 0 -/
  portTan  : Tbl Nat := []
  /-- F last received, applied from the window boundary | 13 | 06 R155 | 4,096 -/
  derate   : Nat := 4096
  /-- the F in force at the regulator | 13 | 06 R155 | 4,096 -/
  derateOn : Nat := 4096
  /-- the weighted round robin's current context and the bytes it has left in its turn | 12, Nat | 06 R152 | 0 -/
  wrrCtx   : Nat := 0
  /-- credit left in that turn | Nat | 06 R152 | 0 -/
  wrrLeft  : Nat := 0
deriving DecidableEq, Repr

/-- The state of a tier page, numbered as STATE (R160). -/
inductive PageSt where
  | invalid
  | flash
  | fetching
  | clean
  | dirty
  | writingBack
deriving DecidableEq, Repr

/-- An access that waits in its own engine: a unit of a transfer, an operand of a kernel run, the hashing of a publication. -/
inductive Waiter where
  /-- a transfer and its unit -/
  | xfer (id unit : Nat)
  /-- a run, and its unit or its engine and stream -/
  | run (id part : Nat)
  /-- a SHARE_PUBLISH -/
  | hash (cmd : Nat)
deriving DecidableEq, Repr

/-- A directory entry (R159) with the movement in progress on its page. -/
structure DirEnt where
  /-- STATE | 3 | 07 R160 | INVALID -/
  st         : PageSt := .invalid
  /-- DEFER_EVICT | 1 | 07 R159 | 0 -/
  deferEvict : Bool := false
  /-- REF | 1 | 07 R159 | 0 -/
  ref        : Bool := false
  /-- PF_PENDING | 1 | 07 R159 | 0 -/
  pfPending  : Bool := false
  /-- ONFLASH | 1 | 07 R159 | 0 -/
  onFlash    : Bool := false
  /-- POISONED | 1 | 07 R159 | 0 -/
  poisoned   : Bool := false
  /-- EVICTING | 1 | 07 R159 | 0 -/
  evicting   : Bool := false
  /-- HOLDS | 8 | 07 R168 | 0 -/
  holds      : Nat := 0
  /-- DIRTY | 16 | 07 R159 | 0 -/
  dirty      : BitVec 16 := 0
  /-- FRAME | 26 | 07 R159 | 0 -/
  frame      : Nat := 0
  /-- the snapshot of DIRTY of the write-back in progress | 16 | 07 R164 | 0 -/
  snapshot   : BitVec 16 := 0
  /-- the write-back is not dispatched yet: an activation or D3hot holds the tier scheduler | 1 | 15 R392, 16 R412 | 0 -/
  queued     : Bool := false
  /-- the read-out of the write-back is complete | 1 | 07 R164 | 0 -/
  readDone   : Bool := false
  /-- the page has no frame: it was lost while the write-back continues from its copy, or a fetch waits for a new one | 1 | 07 R165 | 0 -/
  frameLost  : Bool := false
  /-- FETCHING restores a lost dirty frame: the page goes to RESIDENT_DIRTY | 1 | 07 R165 | 0 -/
  restoring  : Bool := false
  /-- the kind of the unit whose loss it restores from | 8 | 07 R165, 17 R415 | 0 -/
  lossKind   : Nat := 0
  /-- the page was freed while a fetch or program was in flight: its result is discarded | 1 | 07 R162 | 0 -/
  discard    : Bool := false
  /-- the accesses that wait for it in their own engines, and whether as a miss: with the held requests, WAITERS | list | 07 R159 R173 | empty -/
  waiters    : List (Waiter × Bool) := []
  /-- those whose fetch has failed: they fail | list | 07 R167 | empty -/
  failed     : List Waiter := []
  /-- the fetch in flight has demand rank | 1 | 07 R172 R173 | 0 -/
  demand     : Bool := false
  /-- the entry could not be read: an uncorrectable error of its carve-out line | 1 | 07 R160 | 0 -/
  bad        : Bool := false
deriving DecidableEq, Repr

/-- A queued prefetch entry of a directory die (R171, R172): the pages of a hint not yet dispatched. -/
structure PfEntry where
  /-- hint arrival | Nat | 07 R172 | absent -/
  seq   : Nat
  /-- the context whose entry it is | 12 | 07 R171 | absent -/
  ctx   : Nat
  /-- order key | 32 | 07 R172 | absent -/
  key   : Nat
  /-- priority | 3 | 07 R172 | absent -/
  prio  : Nat
  /-- the pages left, ascending | list of 32 | 07 R172 | absent -/
  pages : List Nat
  /-- a page of the entry has been dispatched: it is finished before the context's next entry starts | 1 | 07 R172 | 0 -/
  started : Bool := false
deriving DecidableEq, Repr

/-- A set of five frames of a directory die, one in each stack of a stripe group (R301). -/
structure TierSet where
  /-- its parity frame | 26 | 12 R301 | absent -/
  parity : Nat
  /-- the pages in its data frames | at most 4 of 32 | 12 R301 | absent -/
  pages  : List Nat
  /-- its parity frame was rebuilt into the sibling's spare share | 1 | 12 R321 | 0 -/
  moved  : Bool := false
deriving DecidableEq, Repr

/-- A directory die: the Gnomon registers, queues and counts (R156-R181). -/
structure Dir where
  /-- GNM_HOLD_LIMIT.LIMIT | 32 | 07 Registers | 0x0006_1A80 -/
  holdLimit : Nat := 0x00061A80
  /-- GNM_CFG.LOW_WATER shadow | 26 | 07 Registers | 0x1_0000 -/
  lowSh     : Nat := 0x10000
  /-- GNM_CFG.HIGH_WATER shadow | 26 | 07 Registers | 0x2_0000 -/
  highSh    : Nat := 0x20000
  /-- GNM_CFG_ACTIVE.LOW_WATER | 26 | 07 Registers | 0x1_0000 -/
  low       : Nat := 0x10000
  /-- GNM_CFG_ACTIVE.HIGH_WATER | 26 | 07 Registers | 0x2_0000 -/
  high      : Nat := 0x20000
  /-- GNM_STATUS.CACHE_FRAMES; on the Z2520-H, which has no tier cache, the frames of the half that no region is charged, and the register reads 0 | 26 | 07 R156, 01 R23 | 0 -/
  cacheFrames : Nat := 0
  /-- GNM_STATUS.PRESSURE | 1 | 07 R158 | 0 -/
  pressure  : Bool := false
  /-- frames released by tier pages of freed regions and not yet zeroed | Nat | 02 R30 | 0 -/
  zeroing   : Nat := 0
  /-- frames released by pinned regions that rejoin the cache once zeroed | Nat | 02 R45, 07 R157 | 0 -/
  rejoin    : Nat := 0
  /-- the frames in use by tier pages | list of 26 | 07 R159 | empty -/
  used      : List Nat := []
  /-- the places of the frames in use in their stacks | 21 each | 07 R156 | empty -/
  pos       : Tbl Nat := []
  /-- the sets of five frames of S+stripe pages | list | 12 R301 | empty -/
  sets      : List TierSet := []
  /-- GNM_FN_HOLD.HELD_MAX per function (entries differing from the reset value) | 26 each | 07 R169 | 0x3FF_FFFF -/
  heldMax   : Tbl Nat := []
  /-- the clock hand: the frame it stands at | 26 | 07 R178 | DESIGN CHOICE 0 (log 13) -/
  hand      : Nat := 0
  /-- demand fetches queued, in the order of their first miss | list of 32 | 07 R172 | empty -/
  demandQ   : List Nat := []
  /-- the prefetch queue | at most 65,536 entries | 07 R171 | empty -/
  pfQ       : List PfEntry := []
  /-- per priority, the context whose turn was last | 8 entries | 07 R172 | DESIGN CHOICE 0 (log 13) -/
  turn      : Tbl Nat := []
  /-- fetches in flight | at most 4,096 | 07 R172 | 0 -/
  inFlight  : Nat := 0
  /-- the entry cache: its lines of eight entries, by their number on the die, most recently used first | at most 1,572,864 lines | 07 R161 | empty -/
  cache     : List Nat := []
deriving DecidableEq, Repr

/-! ## Chapter 08: Facet, and the stored data -/

/-- The stored form of a block of a compressed region: plain (RAW) or the header of a headed block (R183, R185); FORMAT is 1 and the
reserved bits are zero in every header that the device writes. -/
structure Form where
  /-- CODEC: 0 plain (RAW), 1 ZERO, 2 FIXED, 3 TABLED | 4 | 08 R183 R185 | ZERO (R43) -/
  codec   : Nat := 1
  /-- VIEW | 2 | 08 R186 | 0 -/
  view    : Nat := 0
  /-- TABLE_ID | 16 | 08 R185 | 0 -/
  tableId : Nat := 0
  /-- TABLE_SEAL | 16 | 08 R185 | 0 -/
  tableSeal : Nat := 0
  /-- PAYLOAD_LEN | 12 | 08 R185 | 0 -/
  payload : Nat := 0
  /-- ENTRY0-ENTRY7 | 8 of 12 | 08 R187 | 0 -/
  entries : List Nat := []
  /-- CRC | 32 | 08 R185 | 0 -/
  crc     : BitVec 32 := 0
deriving DecidableEq, Repr

/-- A poison record (R310). -/
structure Poison where
  /-- REASON (byte 32): 1 data lost, 2 LEASE_LOST | 8 | 12 R310 | absent -/
  reason : Nat
  /-- the kind of unit whose loss caused it (byte 33) | 8 | 12 R310, 17 R415 | absent -/
  kind   : Nat := 0
deriving DecidableEq, Repr

/-- Stored data by ZA. What a line holds is kept as decrypted; its ciphertext and its check bytes follow from it, its key and its
tweak (R47, R48, R50, R184). In a compressed region a line holds bytes of its block's stored form (R183), the header apart. -/
structure Store where
  /-- the bytes that are not zero, by ZA, addresses rising; of a headed block the payload from byte 28 on | 49-bit addresses | 02 R43, 08 R183, 12 R322 | zero everywhere -/
  mem    : List Host.Cell := []
  /-- the headers of blocks that are not ZERO, by ZA[48:12]; a block whose line 0 carries no marker is plain | 37-bit keys | 08 R183 R184 R185 | ZERO everywhere -/
  forms  : Tbl Form := []
  /-- lines stored as poison records, by ZA[48:6] | 43-bit keys | 12 R310 | none -/
  poison : Tbl Poison := []
  /-- the bits in which the stored copy of a line and its check bytes differ from what was last written, by ZA[48:6] | 576 bits each | 12 R306 R307 R309 | none -/
  flips  : Tbl (BitVec 576) := []
  /-- the bits in which a line's ciphertext differs from that of its content, under check bytes that fit it: the residue of a wrong correction, moved on | 512 bits each | 12 R309, 13 R327 | none -/
  wrong  : Tbl (BitVec 512) := []
deriving DecidableEq, Repr

/-- The state of a table slot, numbered as STATE (R203). -/
inductive TableSt where
  | free
  | current
  | retired
  | freeing
deriving DecidableEq, Repr

/-- A slot of the table store (R203). -/
structure TableSlot where
  /-- STATE | 8 | 08 R203 | FREE -/
  st      : TableSt := .free
  /-- SEAL | 16 | 08 R203 | 0 -/
  slotSeal : Nat := 0
  /-- VIEW | 2 | 08 R203 | 0 -/
  view    : Nat := 0
  /-- REGION, a region handle | 32 | 08 R203 | 0 -/
  region  : Nat := 0
  /-- GROUP | 16 | 08 R203 | 0 -/
  group   : Nat := 0
  /-- CONTEXT | 12 | 08 R203 | 0 -/
  ctx     : Nat := 0
  /-- whether the owner context still owns it (R206) | 1 | 08 R206 | 0 -/
  owned   : Bool := false
  /-- REFCOUNT | 40 | 08 R208 R209 | 0 -/
  refs    : Nat := 0
  /-- PERSISTED | 1 | 08 R213 | 0 -/
  persisted : Bool := false
  /-- LENGTHS, one per symbol, planes one after another | 4 each | 08 R203 R204 | 0 -/
  lengths : List Nat := []
deriving DecidableEq, Repr

/-- A reference record (R208). -/
structure RefRec where
  /-- FRAME_A | 16 | 08 R208 | 0 -/
  frameA : Nat := 0
  /-- FRAME_B | 16 | 08 R208 | 0 -/
  frameB : Nat := 0
  /-- FLASH_A | 16 | 08 R208 | 0 -/
  flashA : Nat := 0
  /-- FLASH_B | 16 | 08 R208 | 0 -/
  flashB : Nat := 0
deriving DecidableEq, Repr

/-- A memory die: its FCT and QOS registers and measurements (R139-R141, R202, Registers of 06 and 08). -/
structure MemDie where
  /-- in service (a lost memory die is not: R416) | 1 | 17 R416 | 1 -/
  up        : Bool := true
  /-- FCT_CFG.TANGENT_RESERVE | 3 | 08 R195 | 4 -/
  tanReserve : Nat := 4
  /-- FCT_CFG.SAMPLE_EN | 1 | 08 Registers | 1 -/
  sampleEn  : Bool := true
  /-- FCT_ERR | 4 | 08 Registers | 0 -/
  fctErr    : BitVec 4 := 0
  /-- FCT_ERR_LOG | 57 | 08 R196 | 0 -/
  fctLog    : BitVec 64 := 0
  /-- the table cache's entries, most recently used first | at most 256 IDs | 08 R202 | empty -/
  cache     : List Nat := []
  /-- builds abandoned with this die as builder | Nat | 08 R198 | 0 -/
  abandoned : Nat := 0
  /-- QOS_MEAS_CTRL.SHIFT | 4 | 06 R139 | 4 -/
  shift     : Nat := 4
  /-- the class averages, with 16 fractional bits (AVG_LAT is the integer part) | 32 of 48 | 06 R139 | 0 -/
  avg       : Tbl Nat := []
  /-- MISSED_TARGET | 32 of 48 | 06 R141 | 0 -/
  missed    : Tbl Nat := []
deriving DecidableEq, Repr

/-! ## Chapters 09-11: Chord engines and transfers -/

/-- A loaded kernel (R247, R261, R267). -/
structure Kernel where
  /-- the owning context | 12 | 10 R267 | absent -/
  ctx   : Nat := 0
  /-- its handle's sequence number | 16 | 10 R247 | absent -/
  seq   : Nat := 0
  /-- SLAB_KB | 16 | 10 R261 | absent -/
  slabKb : Nat := 0
  /-- MAX_ENGINES | 8 | 10 R261 | absent -/
  maxEngines : Nat := 0
  /-- the instructions | at most 256 words of 64 | 10 R262 | absent -/
  code  : List (BitVec 64) := []
deriving DecidableEq, Repr

/-- A stream in flight (R246, R266). -/
structure Stream where
  /-- its tag; 16 for the streams that name none | 4 | 10 R263 | absent -/
  tag  : Nat
  /-- OP of the instruction that issued it | 8 | 10 R263 | absent -/
  op   : Nat
  /-- the instruction's index | 8 | 10 R257 | absent -/
  pc   : Nat
  /-- FMT | 4 | 10 R263 | absent -/
  fmt  : Nat
  /-- LA X[A] | 64 | 10 R263 | absent -/
  la   : Nat
  /-- bytes, or rows for GATHER and SCATTER_ADD | 64 | 10 R263 | absent -/
  len  : Nat
  /-- slab offset X[D] | 64 | 10 R263 | absent -/
  slab : Nat
  /-- the index list's slab offset | 64 | 10 R263 | absent -/
  idx  : Nat := 0
  /-- IMM | 32 | 10 R263 | absent -/
  imm  : Nat := 0
  /-- how many of its blocks or lines have been written | Nat | 10 R246 | 0 -/
  done : Nat := 0
deriving DecidableEq, Repr

/-- A loop in progress (R263): its first and last instruction and the runs left. -/
structure LoopFrame where
  /-- index of the body's first instruction | 8 | 10 R263 | absent -/
  first : Nat
  /-- index after the body's last instruction | 9 | 10 R263 | absent -/
  stop  : Nat
  /-- iterations left after this one | 24 | 10 R263 | absent -/
  left  : Nat
deriving DecidableEq, Repr

/-- A Chord engine (R237-R239). -/
structure Engine where
  /-- CHD_ENG_MAP.IN_SERVICE | 1 | 10 R260 | 1 -/
  inService : Bool := true
  /-- the run it executes; CHD_ENG_BUSY follows | id | 10 R248 | none -/
  run    : Option Nat := none
  /-- its index in the run (X15 at start) | 8 | 10 R261 | 0 -/
  index  : Nat := 0
  /-- the next instruction | 8 | 10 R262 | 0 -/
  pc     : Nat := 0
  /-- it has reached END or stopped | 1 | 10 R263 | 0 -/
  ended  : Bool := false
  /-- the context whose run it last executed (R239) | 12 | 10 R239 | DESIGN CHOICE none (log 14) -/
  lastCtx : Option Nat := none
  /-- X0-X15 | 16 of 64 | 10 R237 | 0 -/
  x      : Tbl Nat := []
  /-- V0-V15, by 512 times the register plus the lane | 16 of 512 x 32 | 10 R237 | 0 -/
  v      : Tbl Nat := []
  /-- the accumulator, by 128 times the row plus the column | 128 x 128 x 32 | 10 R237 | 0 -/
  acc    : Tbl Nat := []
  /-- the slab, by byte offset | 2 MiB | 10 R237 | 0 -/
  slab   : List Host.Cell := []
  /-- streams in flight, in issue order | at most 16 tags | 10 R237 R246 | empty -/
  streams : List Stream := []
  /-- the expansion queue: records by their LA, with the elements of the front record taken | 16 records | 10 R237, 09 R234 | empty -/
  expQ   : List (List (BitVec 8)) := []
  /-- elements of the front record already expanded | 17 | 09 R233 | 0 -/
  expPos : Nat := 0
  /-- the loops in progress, innermost first | at most 4 | 10 R263 R267 | empty -/
  loops  : List LoopFrame := []
deriving DecidableEq, Repr

/-- How a run failed (R256, R257). -/
structure RunFail where
  /-- reason | 8 | 10 R256 | absent -/
  reason : Nat
  /-- failing engine, 0xFFFF none | 16 | 10 R257 | absent -/
  engine : Nat
  /-- instruction index, 0xFFFF for a built-in kernel | 16 | 10 R257 | absent -/
  instr  : Nat
  /-- the failing LA or 0 | 64 | 10 R257 | absent -/
  la     : Nat
deriving DecidableEq, Repr

/-- A write of a unit of a built-in kernel: within one 4 KiB block, or the VADD of a line (R249, R254). -/
structure UnitWrite where
  /-- the LA | 56 | 10 R250 | absent -/
  la   : Nat
  /-- the bytes | list of at most 4,096 | 10 R250 | absent -/
  data : List (BitVec 8)
  /-- they are added by VADD | 1 | 10 R254 | 0 -/
  add  : Bool := false
deriving DecidableEq, Repr

/-- A finished unit that waits to retire (R249), or one that has failed (R256). -/
structure UnitWork where
  /-- its number | 32 | 10 R249 | absent -/
  unit   : Nat
  /-- the engine that holds it | 8 | 10 R249 | absent -/
  engine : Nat
  /-- its writes, in groups; a group follows once the one before has passed its order points | list | 09 R222, 10 R249 | empty -/
  groups : List (List UnitWrite) := []
  /-- what it adds to the first result | 32 | 09 R224, 10 R255 | 0 -/
  a      : Nat := 0
  /-- what it adds to the second | 32 | 09 R224, 10 R255 | 0 -/
  b      : Nat := 0
  /-- its saturated elements | Nat | 10 R243 | 0 -/
  sat    : Nat := 0
  /-- how it failed before it was written | record | 10 R256 | none -/
  failed : Option RunFail := none
deriving DecidableEq, Repr

/-- An accepted run (R248). -/
structure Run where
  /-- acceptance number | Nat | 10 R248 | absent -/
  id      : Nat
  /-- the KERNEL_RUN command | id | 10 R248 | absent -/
  cmd     : Nat
  /-- its context | 12 | 10 R248 | absent -/
  ctx     : Nat
  /-- TAG, for KERNEL_ABORT | 16 | 10 R259 | absent -/
  tag     : Nat
  /-- the kernel handle | 32 | 10 R247 | absent -/
  handle  : Nat
  /-- engine count asked, 0 the device chooses | 8 | 10 R248 | absent -/
  want    : Nat
  /-- the six arguments | 6 of 64 | 10 R250 | absent -/
  args    : List Nat
  /-- the descriptor of an optimiser run, once read | list of 128 bytes | 10 R252 | empty -/
  desc    : List (BitVec 8) := []
  /-- it has started | 1 | 10 R248 | 0 -/
  started : Bool := false
  /-- it has waited BACKFILL_LIMIT at the head | 1 | 10 R248 | 0 -/
  waited  : Bool := false
  /-- its engines | list of 8 | 10 R248 | empty -/
  engines : List Nat := []
  /-- units completed | 32 | 10 R249 R257 | 0 -/
  units   : Nat := 0
  /-- accumulated result: RESULT bytes 12-15 and 16-19 | 64 | 10 R255, 09 R224 | 0 -/
  res1    : Nat := 0
  /-- second accumulated result | 32 | 10 R255, 09 R224 | 0 -/
  res2    : Nat := 0
  /-- the next unit to deal | 32 | 10 R249 | 0 -/
  dealt   : Nat := 0
  /-- the unit that an engine works on, by engine | 152 of 32 | 10 R249 | none -/
  busy    : Tbl Nat := []
  /-- the blocks that its lowest unit has read and zeroed, by the number of the operand and the LA | list | 09 R228, 10 R251 | empty -/
  taken   : List ((Nat × Nat) × List (BitVec 8)) := []
  /-- finished units that wait to retire, at most four on an engine | list | 10 R249 | empty -/
  work    : List UnitWork := []
  /-- the failure that ends it | record | 10 R256 | none -/
  failed  : Option RunFail := none
  /-- indices of the regions and subscriptions through which it has translated an access | list of 20 | 02 R45, 11 R277 | empty -/
  subs    : List Nat := []
  /-- X12 and X13 of engine index 0 at its end | 128 | 10 R255 | 0 -/
  x12     : Nat := 0
  /-- X13 | 64 | 10 R255 | 0 -/
  x13     : Nat := 0
deriving DecidableEq, Repr

/-- A CHD die's error registers (Registers of 10). -/
structure ChdDie where
  /-- CHD_ERR | 3 | 10 Registers | 0 -/
  err     : BitVec 3 := 0
  /-- CHD_ERR_LOG | 40 | 10 Registers | 0 -/
  log     : BitVec 64 := 0
  /-- CHD_ERR_LA | 56 | 10 Registers | 0 -/
  la      : Nat := 0
  /-- the die's table cache | at most 256 IDs | 08 R202 | empty -/
  cache   : List Nat := []
deriving DecidableEq, Repr

/-- An endpoint descriptor (R75). -/
structure Endpoint where
  /-- KIND | 8 | 03 R75 | absent -/
  kind : Nat
  /-- PORT | 8 | 03 R75 | absent -/
  port : Nat
  /-- peer context | 16 | 03 R75 | absent -/
  ctx  : Nat
  /-- address | 64 | 03 R75 | absent -/
  addr : Nat
deriving DecidableEq, Repr

/-- The four transfers that run in units (R287). -/
inductive XferKind where
  | copy
  | move
  | fill
  | reduce
deriving DecidableEq, Repr

/-- The state of a unit of a transfer that has been issued and is not complete. -/
structure UnitSt where
  /-- its source lines that have arrived, by line of the unit | at most 64 of 512 | 11 R288 R290 | empty -/
  data  : Tbl (BitVec 512) := []
  /-- its host reads have been issued | 1 | 14 R343 | 0 -/
  asked : Bool := false
deriving DecidableEq, Repr

/-- A transfer (R286-R294). -/
structure Xfer where
  /-- acceptance number | Nat | 11 R288 | absent -/
  id      : Nat
  /-- its command | id | 11 R290 | absent -/
  cmd     : Nat
  /-- its context | 12 | 11 R286 | absent -/
  ctx     : Nat
  /-- copy, move, fill or reduce | 4 kinds | 11 R287 | absent -/
  kind    : XferKind
  /-- source | record | 11 R286 | absent -/
  src     : Endpoint
  /-- destination | record | 11 R286 | absent -/
  dst     : Endpoint
  /-- length in bytes | 41 | 11 R286 | absent -/
  len     : Nat
  /-- fill pattern | 64 | 11 R287 | absent -/
  pattern : BitVec 64
  /-- element format of XFER_REDUCE | 8 | 11 R287 | absent -/
  fmt     : Nat
  /-- engine: LNK0-LNK3 0-3, CTL 4 | 3 | 11 R288 | absent -/
  engine  : Nat
  /-- it runs | 1 | 11 R288 | 0 -/
  started : Bool := false
  /-- units complete, ascending | list | 11 R289 | empty -/
  done    : List Nat := []
  /-- units issued and not complete | at most 256 | 11 R288 | empty -/
  units   : Tbl UnitSt := []
  /-- units of the completed prefix whose source XFER_MOVE has cleared | Nat | 11 R287 R289 | 0 -/
  cleared : Nat := 0
  /-- indices of the regions and subscriptions through which it has translated an access | list of 20 | 02 R45, 11 R277 | empty -/
  subs    : List Nat := []
deriving DecidableEq, Repr

/-! ## Chapters 12-13: HBM protection and flash -/

/-- The state of a pseudo-channel, numbered as MEM_PC_STATE.STATE (R319). -/
inductive PcSt where
  | running
  | frozen
  | retiring
  | retired
deriving DecidableEq, Repr

/-- A pseudo-channel (MEM_PC_STATE, R315, R318-R320). -/
structure Pc where
  /-- STATE | 3 | 12 R319 | RUNNING -/
  st          : PcSt := .running
  /-- LANE_FAULT | 1 | 12 R315 | 0 -/
  laneFault   : Bool := false
  /-- FAULT_PIN | 6 | 12 R315 | 0 -/
  faultPin    : Nat := 0
  /-- FREEZE_COUNT | 4 | 12 R319 | 0 -/
  freezeCount : Nat := 0
  /-- CE_COUNT | 32 | 12 R309 | 0 -/
  ceCount     : Nat := 0
  /-- lines corrected on this lap, with the pins at whose positions | 25, list of 6 | 12 R315 | empty -/
  ceLap       : Tbl (List Nat) := []
  /-- lines corrected on an earlier lap | list of 25 | 12 R315 | empty -/
  ceBefore    : List Nat := []
  /-- its place in a run of 256 commands issued while external and internal ones wait | 8 | 06 R143 | DESIGN CHOICE 0 (log 24) -/
  slot        : Nat := 0
  /-- it has been relocated to the spare share | 1 | 12 R320 | 0 -/
  relocated   : Bool := false
  /-- the lines that held data when its retirement began | Nat | 17 R421 R425 | 0 -/
  lines       : Nat := 0
  /-- its retirement is an SVC_RETIRE's | 1 | 17 R421 R425 | 0 -/
  bySvc       : Bool := false
deriving DecidableEq, Repr

/-- A remap entry (MEM_REMAP_ENTRY, R316). -/
structure Remap where
  /-- VALID | 1 | 12 R316 | 0 -/
  valid   : Bool := false
  /-- REPAIR_PENDING | 1 | 12 R317 | 0 -/
  pending : Bool := false
  /-- PC | 6 | 12 R316 | 0 -/
  pc      : Nat := 0
  /-- PC_LINE | 25 | 12 R316 | 0 -/
  pcLine  : Nat := 0
  /-- SLOT | 4 | 12 R316 | 0 -/
  slot    : Nat := 0
deriving DecidableEq, Repr

/-- An entry of a stack's frame map (R299). -/
structure FrameEnt where
  /-- FRAME | 21 | 12 R299 | 0 -/
  frame : Nat := 0
  /-- STATE: 0 unused, 1 data, 2 parity, 3 lost | 3 | 12 R299 | unused -/
  st    : Nat := 0
  /-- the frame lies in the sibling stack (R321) | 1 | 12 R321 | 0 -/
  sibling : Bool := false
deriving DecidableEq, Repr

/-- An HBM stack (R296-R322) with its MEM registers. -/
structure Stack where
  /-- MEM_STACK_STATUS.STATE: 0 in service, 1 rebuilding, 2 retired | 2 | 12 R321 | 0 -/
  st         : Nat := 0
  /-- its pseudo-channels that differ from the reset state | 64 | 12 R319 | RUNNING -/
  pcs        : Tbl Pc := []
  /-- MEM_PC_SNAPSHOT | 128 | 12 R318 | 0 -/
  snapshot   : BitVec 128 := 0
  /-- MEM_SCRUB_CFG.ENABLE | 1 | 12 R314 | 1 -/
  scrubOn    : Bool := true
  /-- MEM_SCRUB_CFG.MIN_LAP | 48 | 12 R314 | 0x3ED_D410_C000 -/
  minLap     : Nat := 0x3EDD410C000
  /-- MEM_SCRUB_LIMIT.MAX_LAP | 48 | 12 R314 | 0x5E4B_E192_0000 -/
  maxLap     : Nat := 0x5E4BE1920000
  /-- MEM_SCRUB_STATUS.LAST_LAP_CYCLES | 48 | 12 R314 | 0 -/
  lastLap    : BitVec 48 := 0
  /-- MEM_SCRUB_STATUS.LAP_COUNT | 16 | 12 R314 | 0 -/
  lapCount   : Nat := 0
  /-- MEM_SCRUB_POS.LINES_THIS_LAP | 32 | 12 R314 | 0 -/
  lapLines   : Nat := 0
  /-- MEM_SCRUB_POS.LAST_LAP_LINES | 32 | 12 R314 | 0 -/
  lastLines  : Nat := 0
  /-- MEM_BAND.BAND | 2 | 12 R303 | 0 -/
  band       : Nat := 0
  /-- the band that the sensor asks for | 2 | 12 R303 R304 | 0 -/
  bandTo     : Nat := 0
  /-- the bands whose interface delays its pseudo-channels have loaded | 64 of 2 | 12 R304 | 0 -/
  pcBand     : Tbl Nat := []
  /-- its delay registers hold the codes of the calibration record, for three bands | 1 | 12 R305 | 0; 1 from stage 2 of the boot on -/
  delays     : Bool := false
  /-- the lines that its pseudo-channels have had read in this lap of the scrubber | 64 of 25 | 12 R314 | 0 -/
  scrubbed   : Tbl Nat := []
  /-- MEM_BAND.TEMP | 8 | 12 R303 | 0 -/
  temp       : Nat := 0
  /-- MEM_BAND.SWITCH_COUNT | 16 | 12 R304 | 0 -/
  switches   : Nat := 0
  /-- the last bank refreshed per pseudo-channel | per PC | 12 R303 | DESIGN CHOICE 0 (log 15) -/
  refreshed  : Tbl Nat := []
  /-- the 16 remap entries | 16 entries | 12 R316 | not VALID -/
  remap      : Tbl Remap := []
  /-- the frame map: entries not unused, by index u | 4,194,304 entries | 12 R299 | unused -/
  frameMap   : Tbl FrameEnt := []
  /-- MEM_STACK_STATUS.SPARE_FREE_BLOCKS | 32 | 12 R296 R320 | 0; 1,562,500 once the fill has run (R296) -/
  spareFree  : Nat := 0
  /-- MEM_REBUILD.REMAINING | 32 | 12 R320 | 0 -/
  remaining  : Nat := 0
  /-- MEM_REBUILD.DEGRADED | 32 | 12 R321 | 0 -/
  degraded   : Nat := 0
  /-- MEM_ERR | 8 | 12 Registers | 0 -/
  err        : BitVec 8 := 0
  /-- MEM_ERR_LOG | 53 | 12 R309 | 0 -/
  errLog     : BitVec 64 := 0
  /-- lines re-read in the lap under way past MAX_LAP | 1 | 12 R314 | 0 -/
  late       : Bool := false
  /-- wrong bits of stored lines that no ZA names (parity, the carve-out, the spare share), by 2^25 times the pseudo-channel plus the line | 576 bits each | 12 R309 R314 | none -/
  flips      : Tbl (BitVec 576) := []
  /-- the parity deltas sent and not yet applied, oldest first: the lines they belong to, with the bits in which the old copy was wrong | list of 43 and 576 | 12 R312 | empty -/
  deltas     : List (Nat × BitVec 576) := []
  /-- line numbers of its retiring units that a full-line write has placed in the relocation area; a parity line by the key of its stripe | list of 46 | 12 R320 | empty -/
  placed     : List Nat := []
  /-- its tier pages with S+stripe that were rebuilt into the sibling's spare share | list of 32 | 12 R321 | empty -/
  moved      : List Nat := []
  /-- blocks of its share of the carve-out that were rebuilt into the sibling's spare share | 20 | 12 R321, 17 R417 | 0 -/
  carveMoved : Nat := 0
  /-- the lines that held data when its retirement began | Nat | 17 R421 R425 | 0 -/
  lines      : Nat := 0
  /-- its retirement is an SVC_RETIRE's | 1 | 17 R421 R425 | 0 -/
  bySvc      : Bool := false
deriving DecidableEq, Repr

/-- A flash map entry (R328). -/
structure MapEnt where
  /-- STATE is 1 mapped | 2 | 13 R328 | unmapped -/
  mapped : Bool := false
  /-- FLS | 1 | 13 R328 | 0 -/
  fls    : Nat := 0
  /-- DIE | 4 | 13 R328 | 0 -/
  die    : Nat := 0
  /-- BLOCK | 13 | 13 R328 | 0 -/
  block  : Nat := 0
  /-- UNIT | 23 | 13 R328 | 0 -/
  unit   : Nat := 0
  /-- UNITS | 8 | 13 R328 | 0 -/
  units  : Nat := 0
deriving DecidableEq, Repr

/-- What flash holds of a page's image beside its stored lines (R327, R333). -/
structure FlashImg where
  /-- its header as written | 32 bytes | 13 R327 | absent -/
  head : List Byte := []
  /-- a fetch of it has failed: it stays unreadable | 1 | 13 R333 | 0 -/
  dead : Bool := false
deriving DecidableEq, Repr

/-- A change of a page's flash map entry, as a journal holds it (R329): the new entry and the flash pair. What the entry names on
flash is kept with it. -/
structure JRec where
  /-- its place in the sequence of the journals, from 1 | Nat | 13 R341 | absent -/
  seq    : Nat
  /-- the FLS die whose buffer it is in, or was last | 2 | 13 R329 | absent -/
  die    : Nat
  /-- the tier page | 32 | 13 R329 | absent -/
  page   : Nat
  /-- the new entry; unmapped: a trim | entry | 13 R328 R329 | absent -/
  place  : MapEnt
  /-- FLASH_A | 11 | 08 R208, 13 R329 | absent -/
  flashA : Nat
  /-- FLASH_B | 11 | 08 R208, 13 R329 | absent -/
  flashB : Nat
  /-- the image's header | record | 13 R327 | absent -/
  img    : FlashImg
  /-- the image's content | record | 13 R327 | absent -/
  data   : Store
  /-- it commits a write-back | 1 | 13 R339 R341 | 0 -/
  commit : Bool := false
deriving DecidableEq, Repr

/-- An image staged on an FLS die (R327, R331). -/
structure Image where
  /-- the tier page | 32 | 13 R327 | absent -/
  page   : Nat
  /-- its journal sequence number | 32 | 13 R327 | absent -/
  seq    : Nat
  /-- its length in units | 8 | 13 R327 | absent -/
  units  : Nat
  /-- it is a relocation of a valid image | 1 | 13 R335 | 0 -/
  reloc  : Bool := false
  /-- the entry it was relocated from | entry | 13 R335 | absent -/
  old    : MapEnt := {}
  /-- its header; of a relocation none | 32 bytes | 13 R327 | empty -/
  head   : List Byte := []
  /-- the tables its headers name | list of 16 | 08 R209 R213 | empty -/
  tables : List Nat := []
  /-- where it lies once programmed | entry | 13 R328 | absent -/
  place  : MapEnt := {}
deriving DecidableEq, Repr

/-- A stripe block (R325, R335). -/
structure StripeBlk where
  /-- erased, in the free pool | 1 | 13 R335 | free -/
  free    : Bool := true
  /-- its erase count | 16 | 13 R335 | 0 -/
  erases  : Nat := 0
  /-- members whose block is retired | 12 | 13 R332 R335 | 0 -/
  retired : BitVec 12 := 0
  /-- the next unit to program | 23 | 13 R326 | 0 -/
  next    : Nat := 0
  /-- the members that it was laid out without (10 + 1) | 12 | 13 R335 | 0 -/
  lacking : BitVec 12 := 0
  /-- its age: the number at which it was opened | Nat | 13 R335 | 0 -/
  born    : Nat := 0
  /-- reads of it since its program | Nat | 13 R335 | 0 -/
  reads   : Nat := 0
deriving DecidableEq, Repr

/-- A fetch at the flash dies (R333): its page, where the image lay when the fetch began, and the members that hold it. -/
structure FlashRead where
  /-- the tier page | 32 | 13 R333 | absent -/
  page    : Nat
  /-- the image's entry when the fetch began | entry | 13 R333 R335 | absent -/
  place   : MapEnt
  /-- the local channels that it reads | list of 4 | 13 R325 R333 | absent -/
  members : List Nat
deriving DecidableEq, Repr

/-- The work of a die index of an FLS die (R334): what its NAND dies do, and what waits. -/
structure NandDie where
  /-- the fetches that its NAND dies read, one on a die | list | 13 R334 | empty -/
  reading  : List FlashRead := []
  /-- demand fetches that wait, oldest first | list | 13 R334 | empty -/
  demand   : List FlashRead := []
  /-- prefetch fetches that wait, in the directory's order | list | 13 R334 | empty -/
  prefetch : List FlashRead := []
  /-- the stripe-wordline program in progress or suspended: its stripe block and wordline | 17, Nat | 13 R334 | none -/
  program  : Option (Nat × Nat) := none
  /-- the stripe block in erase, in progress or suspended | 13 | 13 R334 R335 | none -/
  erase    : Option Nat := none
  /-- how often that program or erase has been suspended, by local channel | 12 of 0-8 | 13 R334 | 0 -/
  suspends : Tbl Nat := []
  /-- blocks to relocate for few free blocks, oldest first | list of 13 | 13 R334 R335 | empty -/
  reloc    : List Nat := []
  /-- blocks to relocate for any cause but few free blocks | list of 13 | 13 R334 R335 | empty -/
  patrol   : List Nat := []
deriving DecidableEq, Repr

/-- An FLS die (R323-R341) with its registers. -/
structure Fls where
  /-- FLS_CFG shadow (FLUSH_CYCLES [23:0], GC_START [39:32], GC_URGENT [47:40], WL_DELTA [55:48]) | 64 | 13 Registers | 0x0020_0410_0006_DDD0 -/
  cfgSh     : BitVec 64 := 0x002004100006DDD0
  /-- FLS_CFG_ACTIVE | 64 | 13 Registers | 0x0020_0410_0006_DDD0 -/
  cfg       : BitVec 64 := 0x002004100006DDD0
  /-- the die is lost (FLS_STATUS.STATE 2) | 1 | 13 R337 | 0 -/
  lost      : Bool := false
  /-- new programs and erases are stopped (FLS_STATUS.STATE 1) | 1 | 13 R340 | 0 -/
  stopped   : Bool := false
  /-- FLS_STATUS.LOW_SPARE | 1 | 13 R338 | 0 -/
  lowSpare  : Bool := false
  /-- FLS_STATUS.WORN | 1 | 13 R338 | 0 -/
  worn      : Bool := false
  /-- FLS_WEAR.PAGES_WRITTEN, kept in the system area | 48 | 13 R339 | 0 -/
  pagesWritten : Nat := 0
  /-- FLS_ERR | 6 | 13 Registers | 0 -/
  err       : BitVec 6 := 0
  /-- FLS_ERR_LOG | 54 | 13 Registers | 0 -/
  errLog    : BitVec 64 := 0
  /-- FLS_DIE_MAP: dies out of service per local channel | 12 of 16 | 13 R337 | IN_SERVICE 0xFFFF -/
  diesOut   : Tbl Nat := []
  /-- stripe blocks that have been used, by 8,192 times the die index plus the block | 131,072 | 13 R325 R335 | erased -/
  blocks    : Tbl StripeBlk := []
  /-- the open stripe block for write-backs | 17 | 13 R331 | none -/
  openBlk   : Option Nat := none
  /-- the open stripe block for relocation | 17 | 13 R335 | none -/
  relocBlk  : Option Nat := none
  /-- images in the open wordline, not yet being programmed | list | 13 R331 | empty -/
  openW     : List Image := []
  /-- images being programmed | list | 13 R331 | empty -/
  programming : List Image := []
  /-- the work of its 16 die indices | 16 | 13 R334 | idle -/
  nand      : Tbl NandDie := []
  /-- images programmed and held back until their tables are persisted | list | 08 R213 | empty -/
  heldBack  : List Image := []
  /-- journal records since each 1 MiB map segment was last rewritten, by segment | Nat each | 13 R329 | 0 -/
  segRecs   : Tbl Nat := []
  /-- when each map segment was last rewritten, in the sequence of the journals | Nat each | 13 R329 | 0 -/
  segDone   : Tbl Nat := []
  /-- the journal areas of the system area, by their last record's sequence number | list of Nat | 13 R329 | empty -/
  areas     : List Nat := []
  /-- the journal flush of R340 is due | 1 | 13 R340, 16 R397 | 0 -/
  flushDue  : Bool := false
  /-- the journal flush is in progress | 1 | 13 R340, 16 R397 | 0 -/
  flushing  : Bool := false
deriving DecidableEq, Repr

/-! ## Chapters 14-15: host endpoint, firmware -/

/-- What a host read is for (R343). -/
inductive ReadUse where
  /-- a unit of a transfer -/
  | xfer (xfer unit : Nat)
  /-- a command's own read: FW_STAGE, KERNEL_LOAD, SPDM_RELAY -/
  | cmd (id : Nat)
  /-- timed out: the slot is quarantined (R345) -/
  | quarantined
deriving DecidableEq, Repr

/-- A host read outstanding, by slot (R343). -/
structure HostRead where
  /-- the generation in its tag | 4 | 14 R343 | absent -/
  gen : Nat := 0
  /-- its use | 3 kinds | 14 R343 R345 | absent -/
  use : ReadUse := .quarantined
  /-- its length in bytes | 13 | 14 R342 | absent -/
  len : Nat := 0
  /-- where its data go in the unit or the command's data, in bytes | Nat | 11 R288 | 0 -/
  off : Nat := 0
  /-- the bytes that its completions have brought | 13 | 14 R342 R343 | 0 -/
  got : Nat := 0
deriving DecidableEq, Repr

/-- A function: configuration bits, HEP function block, reply ring, aperture (R343-R367). -/
structure Fn where
  /-- the 4-bit tag generation | 4 | 14 R343 | PRESUMED 0 (log 16) -/
  gen       : Nat := 0
  /-- Bus Master Enable | 1 | 14 R367 | 0 (PCIe default) -/
  bme       : Bool := false
  /-- Memory Space Enable | 1 | 14 R367 | 0 (PCIe default) -/
  mse       : Bool := false
  /-- Device Control 2: 10-Bit Tag Requester Enable | 1 | 14 R343 | 0 (PCIe default, log 16) -/
  tag10     : Bool := false
  /-- Device Control 3: 14-Bit Tag Requester Enable | 1 | 14 R343 | 0 (PCIe default, log 16) -/
  tag14     : Bool := false
  /-- Device Control 2: completion timeout encoding | 4 | 14 R344 | 0 -/
  ctoEnc    : Nat := 0
  /-- Device Control 2: Completion Timeout Disable | 1 | 14 R344 | 0 -/
  ctoDis    : Bool := false
  /-- Enable Relaxed Ordering | 1 | 14 R346 | PRESUMED 1 (the PCIe default, log 16) -/
  relaxed   : Bool := true
  /-- an FLR is in progress | 1 | 14 R365 | 0 -/
  flr       : Bool := false
  /-- HEP_HOST_STAT.PAUSED | 1 | 14 R367 | 0 -/
  paused    : Bool := false
  /-- host reads outstanding or quarantined, by slot; OUTSTANDING counts the former | 1,024 | 14 R343 | none -/
  reads     : Tbl HostRead := []
  /-- HEP_HOST_STAT.LATE | 16 | 14 R345 | 0 -/
  late      : Nat := 0
  /-- HEP_HOST_STAT.LATE_SEEN | 1 | 14 R345 | 0 -/
  lateSeen  : Bool := false
  /-- the reply ring | record | 03 R63 | reset ring -/
  ring      : Ring := {}
  /-- aperture slots with bytes written | 16,384 or 1,024 | 03 R56 | empty -/
  slots     : Tbl Slot := []
  /-- MSI-X pending bits (PBA) | 2,048 or 64 | 14 R367 | 0 -/
  pba       : List Nat := []
  /-- Message Control: MSI-X Enable | 1 | 14 R348 | 0 (PCIe default, log 16) -/
  msixOn    : Bool := false
  /-- Message Control: Function Mask | 1 | 14 R348 | 0 (PCIe default, log 16) -/
  msixMask  : Bool := false
  /-- MSI-X table entries that differ from reset (address, data, vector control), by vector | 128 each | 14 R348 | masked, address and data PRESUMED 0 (log 21) -/
  msix      : Tbl (BitVec 128) := []
  /-- MAX_CONTEXTS | 12 | 02 Quota | PF 0xFFF, VF 0 -/
  maxCtx    : Nat := 0
  /-- HBM_PAGES quota | 26 | 02 Quota | PF 0x3FF_FFFF, VF 0 -/
  hbmQuota  : Nat := 0
  /-- TIER_PAGES quota | 32 | 02 Quota | PF 0xFFFF_FFFF, VF 0 -/
  tierQuota : Nat := 0
  /-- HEP_QOS_EVENT.DERATE | 13 | 06 R155 | 0x1000 -/
  derate    : Nat := 0x1000
  /-- HEP_QOS_EVENT.CHANGED | 1 | 06 R155 | 0 -/
  qosChanged : Bool := false
  /-- HEP_QOS_EVENT.MSIX_VECTOR | 11 | 06 Registers | 0 -/
  qosVec    : Nat := 0
  /-- HEP_QOS_EVENT.IRQ_EN | 1 | 06 Registers | 0 -/
  qosIrq    : Bool := false
  /-- HEP_ERR_EVENT (NEXT_SEQ [15:0], NEW [16], OVERRUN [17], MSIX_VECTOR [42:32], IRQ_EN [43], ACK_SEQ [63:48]) | 64 | 17 R422 | 0 -/
  errEvent  : BitVec 64 := 0
  /-- HEP_ERR_REC, by sequence number mod 16 | 16 of 256 | 17 R422 | 0 -/
  errRing   : Tbl (BitVec 256) := []
  /-- AER correctable status | 32 | 14 R370 | 0 -/
  aerCor    : BitVec 32 := 0
  /-- AER uncorrectable status | 32 | 14 R370 | 0 -/
  aerUnc    : BitVec 32 := 0
  /-- AER correctable mask | 32 | 14 R370 | PRESUMED 0x6000 (the PCIe default, log 22) -/
  aerCorMask : BitVec 32 := 0x6000
  /-- AER uncorrectable mask | 32 | 14 R370 | 0 (R371 has ERR_FATAL sent, log 22) -/
  aerUncMask : BitVec 32 := 0
  /-- AER uncorrectable severity, 1 fatal | 32 | 14 R370 | 0x0046_2010 (the classes of R370) -/
  aerUncSev : BitVec 32 := 0x00462010
  /-- First Error Pointer: the bit of the first unmasked uncorrectable error, while its status stands | 5 | 14 R370 | none -/
  aerFirst  : Option Nat := none
  /-- the header log: the number of the TLP header logged last, 0 none (its 128 bits: log 22) | 128 | 14 R370 | 0 -/
  aerHdrs   : Nat := 0
deriving DecidableEq, Repr

/-- A host window entry, shadow and in force (HEP_HWIN, R358). -/
structure HWin where
  /-- VALID shadow | 1 | 14 R358 | 0 -/
  valid   : Bool := false
  /-- RD | 1 | 14 R358 | 0 -/
  rd      : Bool := false
  /-- WR | 1 | 14 R358 | 0 -/
  wr      : Bool := false
  /-- CLASS | 5 | 14 R358 | 0 -/
  cls     : Nat := 0
  /-- CONTEXT | 12 | 14 R358 | 0 -/
  ctx     : Nat := 0
  /-- PAGES | 32 | 14 R358 | 0 -/
  pages   : Nat := 0
  /-- DPA_PAGE | 26 | 14 R358 | 0 -/
  dpaPage : Nat := 0
  /-- HANDLE | 32 | 14 R358 | 0 -/
  handle  : Nat := 0
  /-- OFFSET | 32 | 14 R358 | 0 -/
  offset  : Nat := 0
deriving DecidableEq, Repr

/-- A host window in force. -/
structure HWinOn where
  /-- the fields in force | as HEP_HWIN | 14 R358 | VALID_ACTIVE 0 -/
  w       : HWin := {}
  /-- ZA_PAGE in force | 33 | 14 R358 | 0 -/
  zaPage  : Nat := 0
  /-- the region it maps | 20 | 14 R358 | 0 -/
  region  : Nat := 0
deriving DecidableEq, Repr

/-- What a CXL.mem request asks (R360). -/
inductive CxlKind where
  /-- MemRd, or MemWr with its line -/
  | access
  /-- MemInv -/
  | inv
  /-- MemWrPtl -/
  | partial_
deriving DecidableEq, Repr

/-- A CXL.mem request that waits at the host for a request credit (R148). -/
structure CxlReq where
  /-- what it asks | 3 kinds | 14 R360 | access -/
  kind   : CxlKind := .access
  /-- its DPA | 42 | 14 R359 | absent -/
  dpa    : Nat
  /-- its tag | 16 | 14 R360 | absent -/
  tag    : Nat
  /-- the line of a write; none for a read | 512 | 14 R360 | absent -/
  write  : Option Line := none
  /-- Poison of a write | 1 | 14 R360 | 0 -/
  poison : Bool := false
deriving DecidableEq, Repr

/-- The HDM decoder among the CXL component registers (R353, R356, R357; the layout is CXL's: log 16). -/
structure Hdm where
  /-- Decoder Base [63:28] | 36 | 14 R357 | 0 (CXL default) -/
  base      : Nat := 0
  /-- Decoder Size [63:28] | 36 | 14 R357 | 0 (CXL default) -/
  size      : Nat := 0
  /-- Interleave Granularity: 256 B times 2 to it | 4 | 14 R357 | 0 (CXL default) -/
  ig        : Nat := 0
  /-- Interleave Ways: 2 to it | 4 | 14 R357 | 0 (CXL default) -/
  iw        : Nat := 0
  /-- Lock On Commit | 1 | 14 R357 | 0 (CXL default) -/
  lock      : Bool := false
  /-- Committed | 1 | 14 R356 R357 | 0 (CXL default) -/
  committed : Bool := false
  /-- Error Not Committed | 1 | 14 R357 | 0 (CXL default) -/
  refused   : Bool := false
  /-- HDM Decoder Enable of the global control | 1 | 14 R357 | 0 (CXL default) -/
  enable    : Bool := false
deriving DecidableEq, Repr

/-- The endpoint's device-wide state (R342-R372). -/
structure Hep where
  /-- STALE_CPL | 16 | 14 R343 | 0 -/
  staleCpl   : Nat := 0
  /-- PTL_DROPPED | 16 | 14 R360 | 0 -/
  ptlDropped : Nat := 0
  /-- CXL_REFUSED | 16 | 14 R359 | 0 -/
  cxlRefused : Nat := 0
  /-- PTL_SEEN | 1 | 14 Registers | 0 -/
  ptlSeen    : Bool := false
  /-- REFUSED_SEEN | 1 | 14 Registers | 0 -/
  refusedSeen : Bool := false
  /-- HEP_PME_CFG.PORT_WAKE | 16 | 14 R369 | 0 -/
  portWake   : BitVec 16 := 0
  /-- HEP_PME_CFG.BTN_WAKE | 1 | 14 R369 | 0 -/
  btnWake    : Bool := false
  /-- the 64 host windows, shadow | 64 | 14 R358 | 0 -/
  hwin       : Tbl HWin := []
  /-- the 64 host windows in force | 64 | 14 R358 | VALID_ACTIVE 0 -/
  hwinOn     : Tbl HWinOn := []
  /-- HEP_HWIN_RESULT.STATUS | 8 | 14 R358 | 0 -/
  hwinStatus : Nat := 0
  /-- HEP_HWIN_RESULT.ENTRY | 6 | 14 R358 | 0 -/
  hwinEntry  : Nat := 0
  /-- configuration space is ready | 1 | 14 R364 | 0 -/
  cfgReady   : Bool := false
  /-- VF Enable | 1 | 14 R350 | 0 (PCIe default) -/
  vfEnable   : Bool := false
  /-- PowerState is D3hot | 1 | 14 R368 | D0 -/
  d3hot      : Bool := false
  /-- the link is in L2, after PME_TO_Ack | 1 | 14 R368, 16 R413 | 0 -/
  l2         : Bool := false
  /-- PME_En | 1 | 14 R369 | PRESUMED 0 (PCIe default, log 16) -/
  pmeEn      : Bool := false
  /-- PME_Status | 1 | 14 R369 | PRESUMED 0 (PCIe default, log 16) -/
  pmeStatus  : Bool := false
  /-- WAKE_N is asserted | 1 | 14 R369 | 0 -/
  wake       : Bool := false
  /-- Mem_Enable of the DVSEC for CXL Devices | 1 | 14 R356 R357 | 0 -/
  memEnable  : Bool := false
  /-- the HDM decoder | record | 14 R356 R357 | not committed -/
  hdm        : Hdm := {}
  /-- BAR0-BAR1: the base of the 64 MiB, [63:26] | 38 | 14 R347 | 0 (PCIe default) -/
  bar0       : Nat := 0
  /-- BAR2-BAR3: the base of the 1 MiB, [63:20] | 44 | 14 R347 | 0 (PCIe default) -/
  bar2       : Nat := 0
  /-- VF BAR0: the base, [63:16] | 48 | 14 R350 | 0 (PCIe default) -/
  vfBar0     : Nat := 0
  /-- VF BAR2: the base, [63:16] | 48 | 14 R350 | 0 (PCIe default) -/
  vfBar2     : Nat := 0
  /-- NumVFs | 16 | 14 R350 | 0 (PCIe default) -/
  numVfs     : Nat := 0
  /-- ARI Capable Hierarchy | 1 | 14 R350 | 0 (PCIe default) -/
  ariHier    : Bool := false
  /-- System Page Size | 32 | 14 R350 | 1: 4 KiB (PCIe default) -/
  pageSize   : Nat := 1
  /-- Device Control: Max_Payload_Size, 128 B times 2 to it | 3 | 14 R342 | PRESUMED 0 (PCIe default, log 16) -/
  mps        : Nat := 0
  /-- Device Control: Max_Read_Request_Size, 128 B times 2 to it | 3 | 14 R342 | PRESUMED 2 (PCIe default, log 16) -/
  mrrs       : Nat := 2
  /-- Link Control: ASPM L1 enabled | 2 | 14 R368 | 0 (PCIe default) -/
  aspm       : Nat := 0
  /-- Link Status: the speed the link trained to, 1-6 for 2.5 to 64.0 GT/s | 4 | 14 R342 | 0 -/
  linkSpeed  : Nat := 0
  /-- Link Status: the width the link trained to | 6 | 14 R342 | 0 -/
  linkWidth  : Nat := 0
  /-- MSVC_CTRL (ATTN_IND [1:0], PWR_IND [3:2], BTN_IRQ_EN [4], MSIX_VECTOR [15:5]) | 16 | 14 R372 | 0x0007 -/
  msvcCtrl   : BitVec 16 := 7
  /-- MSVC_STATUS.BTN_PRESSED | 1 | 14 R372 | 0 -/
  btnPressed : Bool := false
  /-- MSVC_STATUS.PRESS_COUNT | 8 | 14 R372 | 0 -/
  pressCount : Nat := 0
  /-- MSVC_STATUS.BTN_LEVEL: ATTN_BTN_N is low | 1 | 14 R372 | 0 -/
  btnLevel   : Bool := false
  /-- CXL RAS: requests refused or in error recorded; the header log shows the one that the status began with | count | 14 R359 R360 | 0 -/
  cxlRas     : Nat := 0
  /-- CXL RAS: Uncorrectable Error Status | 32 | 14 R359 R360 | 0 -/
  rasStatus  : BitVec 32 := 0
  /-- CXL RAS: Uncorrectable Error Mask | 32 | 14 R353 R359 | 0 (R359 has a refused request's header logged, log 16) -/
  rasMask    : BitVec 32 := 0
  /-- CXL RAS: Uncorrectable Error Severity | 32 | 14 R353 | PRESUMED 0x0001_CFFF (the CXL default, log 16) -/
  rasSev     : BitVec 32 := 0x0001CFFF
  /-- CXL RAS: the bit of the first error recorded, and the number of the request whose header is logged | 6, 512 | 14 R359 R360 | none -/
  rasFirst   : Option (Nat × Nat) := none
  /-- the accesses that wait at the host while CXL.mem request credits are withheld, oldest first | list | 06 R148, 14 R359 | empty -/
  cxlWait    : List CxlReq := []
deriving DecidableEq, Repr

/-- A firmware image's header and digests as far as the device uses them (R379, R380). -/
structure ImageInfo where
  /-- SVN | 8 | 15 R379 | per store -/
  svn      : Nat := 1
  /-- MIN_SVN | 8 | 15 R379 | per store -/
  minSvn   : Nat := 1
  /-- VERSION | 32 | 15 R379 | per store -/
  version  : Nat := 0
  /-- PARTS | 8 | 15 R379 | per store -/
  parts    : Nat := 3
  /-- STEPPINGS | 8 | 15 R379 | per store -/
  steppings : Nat := 3
  /-- the digests of components 1-7 | 7 of 256 | 15 R379 | per store -/
  digests  : List (BitVec 256) := []
  /-- it passes the checks of stages 0 and 1 other than SVN | 1 | 15 R381 | per store -/
  bootable : Bool := true
deriving DecidableEq, Repr

/-- The phase of an activation (FW_STATUS.PHASE, R392-R394). -/
inductive FwPhase where
  | idle
  | verifying
  | waiting
  | quiescing
  | switching
deriving DecidableEq, Repr

/-- A firmware processor (FW_PROC_STATE, R375-R377). -/
structure Proc where
  /-- STATE is restarting | 1 | 15 R375 | running -/
  restarting : Bool := false
  /-- STATE is halted | 1 | 15 R375 | running -/
  halted     : Bool := false
  /-- LAST_CAUSE | 4 | 15 Registers | 0 -/
  cause      : Nat := 0
  /-- RESTARTS | 8 | 15 Registers | 0 -/
  restarts   : Nat := 0
deriving DecidableEq, Repr

/-- An SPDM request with what it carries (R387). The first argument is the version. -/
inductive SpdmReq where
  | versions
  | capabilities (version : BitVec 8)
  | algorithms (version : BitVec 8) (asym hash : BitVec 32) (meas : BitVec 8)
  | digests (version : BitVec 8)
  | certificate (version slot : BitVec 8) (offset length : BitVec 16)
  | challenge (version slot summary : BitVec 8) (nonce : BitVec 256)
  | measurements (version index : BitVec 8) (signed : Bool) (nonce : BitVec 256)
  | respondIfReady (version : BitVec 8)
  | other (version code : BitVec 8)
deriving DecidableEq, Repr

/-- A connection of the SPDM responder (R386). -/
structure Spdm where
  /-- GET_VERSION has been answered | 1 | 15 R387 | 0 -/
  versioned  : Bool := false
  /-- the version the connection uses, once capabilities are exchanged | 8 | 15 R387 | 0 -/
  version    : BitVec 8 := 0
  /-- algorithms have been negotiated | 1 | 15 R387 | 0 -/
  negotiated : Bool := false
  /-- the request whose response was deferred with ResponseNotReady | request | 15 R389 | none -/
  deferred   : Option SpdmReq := none
deriving DecidableEq, Repr

/-- Firmware and security (R373-R395). -/
structure Fw where
  /-- the processors that differ from reset | 11 | 15 R373 | running -/
  procs      : Tbl Proc := []
  /-- FW_STATUS.ACTIVE_BANK | 1 | 15 R378 | DESIGN CHOICE A (log 17): per boot -/
  activeBank : Nat := 0
  /-- the active bank's image | record | 15 R379 | DESIGN CHOICE a bootable image of SVN 1 (log 17): per store -/
  active     : ImageInfo := {}
  /-- the inactive bank's image, if complete and not overwritten | record | 15 R378 | DESIGN CHOICE none (log 17): per store -/
  inactive   : Option ImageInfo := none
  /-- FW_STATUS.REVERT_AVAILABLE | 1 | 15 R377 R390 | DESIGN CHOICE 0 (log 17): per store -/
  revertOk   : Bool := false
  /-- an activation has taken place since the last fundamental reset | 1 | 15 R377 | 0 -/
  activated  : Bool := false
  /-- the components that the last activation changed | list of 1-7 | 15 R377 | empty -/
  lastChanged : List Nat := []
  /-- the bytes of the image being staged that are not zero, by offset in the inactive bank | 32 MiB | 15 R390 | DESIGN CHOICE none (log 17): per store -/
  stage      : List Host.Cell := []
  /-- the 4 KiB units staged | list of 13 | 15 R390 | none -/
  stagedUnits : List Nat := []
  /-- FW_STATUS.STAGED_BYTES | 26 | 15 R390 | DESIGN CHOICE 0 (log 17): per store -/
  stagedBytes : Nat := 0
  /-- FW_STATUS.PHASE with the verifying part of 0 apart | 5 states | 15 R392 | idle -/
  phase      : FwPhase := .idle
  /-- the pending FW_ACTIVATE command | id | 15 R391 | none -/
  actCmd     : Option Nat := none
  /-- the wait of the pending activation | 48 | 15 R394 | 0 -/
  actWait    : Nat := 0
  /-- the changed components of the pending activation | list of 1-7 | 15 R392 | empty -/
  changed    : List Nat := []
  /-- the processors restarting in the switch | list of 0-10 | 15 R393 | empty -/
  switching  : List Nat := []
  /-- FW_STATUS.RESET_PENDING | 1 | 15 R392 | 0 -/
  resetPending : Bool := false
  /-- FW_ACTIVATE_WAIT | 48 | 15 Registers | 0xD_F847_5800 -/
  waitReg    : Nat := 0xDF8475800
  /-- FW_QUIESCE_LIMIT | 48 | 15 Registers | 0x3B9A_CA00 -/
  quiesceLimit : Nat := 0x3B9ACA00
  /-- FW_ERR | 6 | 15 Registers | 0 -/
  err        : BitVec 6 := 0
  /-- SEC_SVN.FUSED | 7 | 15 R383 | DESIGN CHOICE 0 (log 17): per part -/
  fused      : Nat := 0
  /-- SEC_SVN.PENDING_FLOOR | 7 | 15 R383 | 0 -/
  pendingFloor : Nat := 0
  /-- a fuse blow is in progress | 1 | 15 R383 | 0 -/
  blowing    : Bool := false
  /-- the three SPDM connections: DOE 0, relay 1, MCTP 2 | 3 | 15 R386 | not negotiated -/
  spdm       : Tbl Spdm := []
  /-- the digests of components 1-7 in force: 1 and 2 as booted, 3-7 as switched | 7 of 256 | 15 R388 R389 | DESIGN CHOICE empty (log 17): per store -/
  measured   : List (BitVec 256) := []
  /-- a response has been signed, and the Hull core may still be signing | 1 | 15 R389 | 0 -/
  signing    : Bool := false
deriving DecidableEq, Repr

/-! ## Chapters 16-19: power, logs, counters, sideband -/

/-- Power, thermal and boot (R396-R414) with the PMC registers. -/
structure Pmc where
  /-- the main domains have power | 1 | 16 R399 | 1 -/
  powered    : Bool := true
  /-- the rails are good | 1 | 16 R407 | 1 -/
  rails      : Bool := true
  /-- PERST_N is asserted | 1 | 16 R407 | 1 (a fundamental reset) -/
  perst      : Bool := true
  /-- the supply has been at or above 44 V, and not above 63 V, for the upward filter | 1 | 16 R396 R399 | 1 -/
  supplyOk   : Bool := true
  /-- a fundamental reset waits for the NAND programs in flight and the journal flush | 1 | 16 R411 | 0 -/
  resetWait  : Bool := false
  /-- after a thermal trip the supply must fall below 38 V before a start | 1 | 16 R399 | 0 -/
  tripLatch  : Bool := false
  /-- the standby domain alone is up (D3cold through L2) | 1 | 16 R413 | 0 -/
  standby    : Bool := false
  /-- GLB_STATUS.BOOT_STAGE | 4 | 14 R355, 15 R381 | 0 -/
  stage      : Nat := 0
  /-- the boot chain runs | 1 | 15 R381 | 0 -/
  booting    : Bool := false
  /-- the boot waits at a step boundary for the supply | 1 | 16 R410 | 0 -/
  bootPaused : Bool := false
  /-- the stop reason of GET_BOOT: 0 none, 1 no bootable bank, 2 calibration, 3 repair list | 8 | 19 R454 | 0 -/
  stopReason : Nat := 0
  /-- GLB_STATUS.READY | 1 | 14 R355 | 0 -/
  ready      : Bool := false
  /-- GLB_STATUS.FATAL | 1 | 14 R371, 17 R417 | 0 -/
  fatal      : Bool := false
  /-- PMC_CAP.CAP_W | 11 | 16 Registers | 1,700 -/
  cap        : Nat := 1700
  /-- the cap in force: CAP_W as of the last evaluation | 11 | 16 R401 | 1,700 -/
  capOn      : Nat := 1700
  /-- PMC_STATUS.VIN, 10 mV | 16 | 16 Registers | 0 -/
  vin        : Nat := 0
  /-- PMC_STATUS.PIN, W | 11 | 16 Registers | 0 -/
  pin        : Nat := 0
  /-- PMC_STATUS.LEVEL | 3 | 16 R400 | 0 -/
  level      : Nat := 0
  /-- consecutive evaluations below 95 % of the cap with every sensor released | 0-10 | 16 R401 | 0 -/
  calm       : Nat := 0
  /-- PMC_STATUS.SAG | 1 | 16 R396 | 0 -/
  sag        : Bool := false
  /-- PMC_STATUS.HOLDUP | 1 | 16 R396 | 0 -/
  holdup     : Bool := false
  /-- PMC_STATUS.EMERGENCY | 1 | 16 R405 | 0 -/
  emergency  : Bool := false
  /-- PMC_STATUS.SAFE_CAP | 1 | 16 R403 | 0 -/
  safeCap    : Bool := false
  /-- PMC_STATUS.OVERVOLT | 1 | 16 R396 | 0 -/
  overvolt   : Bool := false
  /-- PMC_ERR | 8 | 16 Registers | 0 -/
  err        : BitVec 8 := 0
  /-- PMC_IRQ.MASK | 8 | 16 Registers | 0 -/
  irqMask    : BitVec 8 := 0
  /-- PMC_IRQ.MSIX_VECTOR | 11 | 16 Registers | 0 -/
  irqVec     : Nat := 0
  /-- PMC_LAST_OFF.REASON, in the non-volatile store | 3 | 16 Registers | DESIGN CHOICE 0 (log 18): per store -/
  lastOff    : Nat := 0
  /-- PMC_LAST_OFF.SENSOR, in the non-volatile store | 7 | 16 Registers | DESIGN CHOICE 0 (log 18): per store -/
  offSensor  : Nat := 0
  /-- PMC_TEMP.TEMP | 69 of 8 | 16 R404 | 0 -/
  temps      : Tbl Nat := []
  /-- PMC_TEMP.MAX | 69 of 8 | 16 R404 | 0 -/
  tempMax    : Tbl Nat := []
  /-- sensors past their throttle limit and not yet below their release limit | list of 7 | 16 R404 | empty -/
  throttled  : List Nat := []
  /-- sensors past their emergency limit and not yet below its end limit | list of 7 | 16 R405 | empty -/
  hot        : List Nat := []
  /-- the SMBus address bits sampled at rails good, SMB_ADDR1 and SMB_ADDR0 | 2 | 19 R453 | DESIGN CHOICE 3, both open (log 19) -/
  smbAddr    : BitVec 2 := 3
  /-- the MCTP endpoint ID | 8 | 19 R453 | 0 -/
  eid        : BitVec 8 := 0
deriving DecidableEq, Repr

/-- The device error log and the stored fatal records (R417, R420-R422). -/
structure Elog where
  /-- GLB_ELOG_STAT.NEXT_SEQ | 32 | 17 R422 | 0 -/
  next  : Nat := 0
  /-- the records, by sequence number mod 4,096 | 4,096 of 256 | 17 R422 | empty -/
  recs  : Tbl (BitVec 256) := []
  /-- GLB_ELOG_SEL.SEQ | 32 | 17 Registers | 0 -/
  sel   : Nat := 0
  /-- GLB_ELOG_PRIOR, in the non-volatile store, oldest first; PRIOR_FATAL follows | at most 16 of 256 | 17 R417 | DESIGN CHOICE empty (log 18): per store -/
  prior : List (BitVec 256) := []
  /-- the records of this boot's fatal condition, reported from the next boot | at most 16 of 256 | 17 R417 | empty -/
  fatal : List (BitVec 256) := []
deriving DecidableEq, Repr

/-- A programmable counter (R433-R437). -/
structure Pctr where
  /-- CNT_PCTR.VALUE | 48 | 18 R436 | 0 -/
  value   : Nat := 0
  /-- CNT_PCTR.EVENT | 16 | 18 Registers | 0 -/
  event   : Nat := 0
  /-- CNT_PCTR.OWNER | 8 | 18 R435 | 0 -/
  owner   : Nat := 0
  /-- CNT_PCTR.ACTIVE | 1 | 18 R435 | 0 -/
  active  : Bool := false
  /-- CNT_PCTR.OVF | 1 | 18 R436 | 0 -/
  ovf     : Bool := false
  /-- PRIV [1:0], OVF_IRQ [2], SAMPLE [3] | 8 | 18 R433 | 0 -/
  flags   : BitVec 8 := 0
  /-- MASTER_KIND | 8 | 18 R433 | 0 -/
  masterKind : Nat := 0
  /-- MASTER | 12 | 18 R433 | 0 -/
  master  : Nat := 0
  /-- CLASS_MASK | 32 | 18 R433 | 0 -/
  classMask : BitVec 32 := 0
  /-- ZA_BASE | 64 | 18 R433 | 0 -/
  zaBase  : Nat := 0
  /-- ZA_LIMIT | 64 | 18 R433 | 0 -/
  zaLimit : Nat := 0
  /-- MSIX_VECTOR | 11 | 18 R433 | 0 -/
  vec     : Nat := 0
  /-- the owner's CNT_OWN entry | 6 | 18 Registers | 0 -/
  ownIdx  : Nat := 0
  /-- attributes of the last event counted, as CNT_SAMPLE words | 128 | 18 R437 | 0 -/
  last    : BitVec 128 := 0
deriving DecidableEq, Repr

/-- A MARK record of an instance (CNT_MARK, R442). -/
structure MarkRec where
  /-- MARK_VALUE | 32 | 18 R442 | 0 -/
  value : BitVec 32 := 0
  /-- MARK_AT | 48 | 18 R442 | 0 -/
  at_   : BitVec 48 := 0
  /-- MARK_COUNT | 16 | 18 R442 | 0 -/
  count : Nat := 0
deriving DecidableEq, Repr

/-- A port-window record (CNT_PORT_WINDOW, R443) and the window in progress. -/
structure PortWin where
  /-- IN_SHARE of the last window | 32 | 18 R443 | 0 -/
  inShare : Nat := 0
  /-- SPARE of the last window | 32 | 18 R443 | 0 -/
  spare   : Nat := 0
  /-- WINDOWS | 48 | 18 R443 | 0 -/
  windows : Nat := 0
  /-- bytes charged in-share in this window | Nat | 18 R443 | 0 -/
  nowIn   : Nat := 0
  /-- bytes charged from spare in this window | Nat | 18 R443 | 0 -/
  nowSpare : Nat := 0
deriving DecidableEq, Repr

/-- Performance counters (R429-R443). An instance is named by 16 times its block code plus its number. -/
structure Cnt where
  /-- programmable counters configured, by 8 times the instance plus the counter | 8 per instance | 18 R429 | free -/
  p       : Tbl Pctr := []
  /-- fixed counters F2 and F3, by 4 times the instance plus the counter (F0 and F1 count cycles: log 20) | 48 each | 18 R430 | 0 -/
  f       : Tbl Nat := []
  /-- CNT_SAMPLE, by instance | 128 each | 18 R437 | 0 -/
  samples : Tbl (BitVec 128) := []
  /-- CNT_MARK, by instance | 128 each | 18 R442 | 0 -/
  marks   : Tbl MarkRec := []
  /-- CNT_PORT_WINDOW, by port; 16 for the host | 17 | 18 R443 | 0 -/
  wins    : Tbl PortWin := []
  /-- the last MARK_VALUE delivered | 32 | 18 R440 | 0 -/
  mark    : BitVec 32 := 0
  /-- the number of the next snapshot | 32 | 18 R440 | DESIGN CHOICE 0 (log 20) -/
  snapSeq : Nat := 0
  /-- CNT_AUTO_BASE.ADDR | 52 | 18 R441 | 0 -/
  autoBase : Nat := 0
  /-- CNT_AUTO_CTRL.ENABLE | 1 | 18 R441 | 0 -/
  autoOn  : Bool := false
  /-- CNT_AUTO_CTRL.LOG2_SLOTS | 3 | 18 R441 | 0 -/
  log2Slots : Nat := 0
  /-- CNT_AUTO_CTRL.PERIOD | 48 | 18 R441 | 0xF4240 -/
  period  : Nat := 0xF4240
  /-- CNT_AUTO_STAT.WRITTEN | 32 | 18 R441 | 0 -/
  written : Nat := 0
  /-- CNT_AUTO_STAT.SKIPPED | 16 | 18 R441 | 0 -/
  skipped : Nat := 0
  /-- CNT_AUTO_STAT.SKIP_SEEN | 1 | 18 R441 | 0 -/
  skipSeen : Bool := false
deriving DecidableEq, Repr

/-- An SPDM response (R387-R389), by what it carries. -/
inductive SpdmRsp where
  | error (code : Nat)
  | versions (list : List (BitVec 8))
  | capabilities (ctExponent : Nat) (flags : BitVec 32) (transferSize maxMsg : Nat)
  | algorithms (asym hash meas : BitVec 32) (measSpec : BitVec 8)
  | digests (slotMask : BitVec 8) (digest : BitVec 256)
  | certificate (slot : BitVec 8) (portion : List (BitVec 8)) (remainder : Nat)
  | challengeAuth (slot : BitVec 8) (chainDigest nonce : BitVec 256) (summary : Option (BitVec 256)) (signature : BitVec 3072)
  | measurements (count : Nat) (blocks : List (Nat × Nat × List (BitVec 8))) (nonce : BitVec 256) (signature : Option (BitVec 3072))
deriving DecidableEq, Repr

/-- What the device sends to the outside: the model's trace, newest first. -/
inductive Out where
  /-- a flit on a port: FTYPE, its 256 bytes before scrambling, and the bytes that each active lane carries, scrambled (R84, R88-R91) -/
  | flit (port ftype : Nat) (bytes : BitVec 2048) (lanes : List (List (BitVec 8)))
  /-- a host memory write of a function, with the Relaxed Ordering attribute -/
  | hostWrite (fn addr : Nat) (data : List (BitVec 8)) (ro : Bool)
  /-- a host memory read of a function: tag, address, length -/
  | hostRead (fn : Nat) (tag : Nat) (addr len : Nat)
  /-- an MSI-X message of a function -/
  | msix (fn vec : Nat)
  /-- S2M DRS MemData -/
  | cxlData (tag : Nat) (data : Line) (poison : Bool)
  /-- S2M NDR Cmp -/
  | cxlCmp (tag : Nat)
  /-- ERR_FATAL of the PF -/
  | errFatal
  /-- ERR_COR or ERR_NONFATAL of a function -/
  | aer (fn : Nat) (fatal : Bool) (bit : Nat)
  /-- PM_PME -/
  | pmPme
  /-- PME_TO_Ack -/
  | pmeToAck
  /-- an SPDM response on a transport -/
  | spdm (t : Transport) (r : SpdmRsp)
  /-- bytes answered on the SMBus sideband (MCTP or Alert Response) -/
  | smbus (bytes : List (BitVec 8))
  /-- a DOE response of another protocol -/
  | doe (bytes : List (BitVec 8))
  /-- a configuration request of a function is answered with Request Retry Status (R364, R365) -/
  | cfgRetry (fn : Nat)
deriving DecidableEq, Repr

/-- Quality of service on CTL (R137-R155). -/
structure Qos where
  /-- the class table's entries that differ from class 0's reset entry | 32 entries | 06 R137 | R138 -/
  classes   : Tbl Class := [(1, { target := 600, base := 24, slope := 32, tangent := true })]
  /-- QOS_CFG shadow (WINDOW_CYCLES [19:0], INTERNAL_RESERVE [31:24], HOLD_CAP [43:32], BE_WEIGHT [63:48]) | 64 | 06 Registers | 0x0040_0200_4000_07D0 -/
  cfgSh     : BitVec 64 := 0x00400200400007D0
  /-- QOS_TANGENT shadow (CTX_LINES [15:0], PORT_LINES [31:16], REBALANCE_PERIOD [63:32]) | 64 | 06 Registers | 0x000F_4240_0200_0080 -/
  tanSh     : BitVec 64 := 0x000F424002000080
  /-- QOS_CFG_ACTIVE | 64 | 06 Registers | 0x0040_0200_4000_07D0 -/
  cfg       : BitVec 64 := 0x00400200400007D0
  /-- QOS_TANGENT_ACTIVE | 64 | 06 Registers | 0x000F_4240_0200_0080 -/
  tan       : BitVec 64 := 0x000F424002000080
  /-- QOS_STATE.DERATE | 13 | 06 R155 | 0x1000 -/
  derate    : Nat := 0x1000
  /-- the regulators LNK0-LNK3 and CTL | 5 | 06 R145 | no shares -/
  regs      : Tbl Regulator := []
deriving DecidableEq, Repr

/-- The Chord dispatcher on CTL (R248). -/
structure Dispatch where
  /-- CHD_DISPATCH.BACKFILL_LIMIT | 32 | 10 Registers | 0x001E_8480 -/
  backfill : Nat := 0x001E8480
  /-- CHD_DISPATCH.CTX_ENGINE_CAP | 8 | 10 Registers | 0 -/
  engineCap : Nat := 0
  /-- accepted runs, oldest first; QUEUED and RUNNING follow | at most 1,024 queued | 10 R248 | empty -/
  runs     : List Run := []
  /-- the next run number | Nat | 10 R248 | 0 -/
  nextRun  : Nat := 0
  /-- loaded kernels, by slot | 4,096 | 10 R247 R267 | none -/
  kernels  : Tbl Kernel := []
  /-- the sequence number last used per slot | 16 each | 10 R247 | DESIGN CHOICE 0 (log 14) -/
  kernelSeq : Tbl Nat := []
deriving DecidableEq, Repr

/-- The whole block. -/
structure State where
  /-- the commands that are waiting, first in, first out (the model's own field) | list | — | empty -/
  pending  : List Instr := []
  /-- the number of free values taken (the model's own field: log 1) | Nat | — | DESIGN CHOICE 0 (log 1) -/
  fresh    : Nat := 0
  /-- what the device has sent, newest first (the model's own field: log 2) | list | — | empty -/
  out      : List Out := []
  /-- GLB_IDENT.VARIANT is Z2520-H | 1 | 00 R1, 14 GLB_IDENT | DESIGN CHOICE Z2520-F (log 3): per part -/
  variantH : Bool := false
  /-- GLB_IDENT.STEPPING is B0 | 1 | 00 R1, 14 GLB_IDENT | DESIGN CHOICE B0 (log 3): per part -/
  stepB0   : Bool := true
  /-- the next number given to a command, request, transfer or buffer entry (the model's own field: arrival order) | Nat | — | 0 -/
  nextId   : Nat := 0
  /-- the next key number given (the model's own field: key values are never visible, R49) | Nat | 02 R47 | 1 -/
  nextKey  : Nat := 1
  /-- power, boot and sideband | record | 16 | see Pmc -/
  pmc      : Pmc := {}
  /-- firmware and security | record | 15 | see Fw -/
  fw       : Fw := {}
  /-- the endpoint | record | 14 | see Hep -/
  hep      : Hep := {}
  /-- functions that differ from an untouched VF; 0 is the PF | 256 | 14 | see Fn -/
  fns      : Tbl Fn := []
  /-- contexts not FREE, by number | 4,096 | 02 R29 | FREE -/
  ctxs     : Tbl Ctx := []
  /-- sealed durable images, by seal ID | at most 64 with live ones | 02 R31 R33 | DESIGN CHOICE none (log 18): per store -/
  sealed   : Tbl SealedImg := []
  /-- live regions, by index | 262,144 with subscriptions | 02 R39 | none -/
  regions  : Tbl Region := []
  /-- live subscriptions, by index | 262,144 with regions | 11 R275 | none -/
  subs     : Tbl Sub := []
  /-- the sequence number of each region index | 12 each | 02 R39 | DESIGN CHOICE 0 (log 4) -/
  seqs     : Tbl Nat := []
  /-- outstanding commands, oldest first | 64 per context and allowance | 03 R60 | none -/
  cmds     : List Cmd := []
  /-- the 16 Wenxel ports | 16 | 04 R82 | see Port -/
  ports    : Tbl Port := []
  /-- held requests, in arrival order | list | 05 R133, 06 R147 | none -/
  held     : List Req := []
  /-- leases, by line number ZA[48:6] | at most 65,536 | 04 R111 | none -/
  leases   : Tbl Lease := []
  /-- the AES-XTS key slots of the memory dies, alike in all ten: the key number by KEY_SLOT, 0 none | 8,192 slots | 02 R36 R49 | empty -/
  keys     : Tbl Nat := []
  /-- stored data in HBM and the write buffers | record | 02 R43, 12 R322 | zero -/
  hbm      : Store := {}
  /-- page images read out and not yet committed | record | 07 R164, 13 R331 | none -/
  staged   : Store := {}
  /-- committed flash images | record | 13 R327 | DESIGN CHOICE none (log 18): per store -/
  flash    : Store := {}
  /-- pending drains of the write buffers, oldest first | 1,024 lines per stack | 05 R126, 12 R302 | empty -/
  wbuf     : List WEntry := []
  /-- lines the atomic units keep, most recently used first | 64 per memory die | 05 R127 | empty -/
  atoms    : List AtomLine := []
  /-- regulation | record | 06 | see Qos -/
  qos      : Qos := {}
  /-- the directory entries that are not all zero, by ZA[47:16] | 2.289 x 10^9 entries | 07 R159 | INVALID -/
  dir      : Tbl DirEnt := []
  /-- the directory dies | 2 | 07 | see Dir -/
  dirs     : Tbl Dir := []
  /-- table groups that differ from ARMED with no table, by 65,536 times the region index plus the group | 65,536 per region | 08 R197 | ARMED -/
  groups   : Tbl Group := []
  /-- the table store | 65,535 slots | 08 R201 | FREE -/
  tables   : Tbl TableSlot := []
  /-- reference records, by ZA[48:16] | one per page | 08 R208 | empty -/
  refRecs  : Tbl RefRec := []
  /-- memory dies | 10 | 06, 08 | see MemDie -/
  mems     : Tbl MemDie := []
  /-- Chord engines that differ from reset | 152 | 10 R237 | see Engine -/
  engines  : Tbl Engine := []
  /-- CHD dies | 4 | 10 | see ChdDie -/
  chds     : Tbl ChdDie := []
  /-- the dispatcher | record | 10 R248 | see Dispatch -/
  disp     : Dispatch := {}
  /-- transfers, oldest first | 256 per engine running | 11 R288 | none -/
  xfers    : List Xfer := []
  /-- HBM stacks | 20 | 12 | see Stack -/
  hbmStk   : Tbl Stack := []
  /-- the signed repair list in the non-volatile store: pseudo-channels, 64 times the stack plus the PC | list | 12 R317 | DESIGN CHOICE empty (log 18): per store -/
  repairs  : List Nat := []
  /-- the failing rows on that list, by the physical line address that was remapped | list of 36 | 12 R317 | DESIGN CHOICE empty (log 18): per store -/
  repairRows : List Nat := []
  /-- FLS dies | 2 | 13 | see Fls -/
  flss     : Tbl Fls := []
  /-- the flash map, by ZA[47:16] | 2.289 x 10^9 entries | 13 R328 | unmapped -/
  fmap     : Tbl MapEnt := []
  /-- the headers of the images that the flash map names, by ZA[47:16] | as fmap | 13 R327 R333 | none -/
  images   : Tbl FlashImg := []
  /-- what the system area has of the pages whose records lie in a journal buffer, by ZA[47:16] | as fmap | 13 R329 R341 | empty -/
  saved    : Tbl JRec := []
  /-- the records in the journal buffers of the two FLS dies, oldest first | 49,152 of 16 bytes each | 13 R329 R341 | empty -/
  journals : List JRec := []
  /-- the device log | record | 17 R422 | see Elog -/
  elog     : Elog := {}
  /-- counters | record | 18 | see Cnt -/
  cnt      : Cnt := {}
deriving DecidableEq, Repr

/-- The machine right after a fundamental reset: powered, the rails good, PERST_N asserted, every register at its reset
value (R8, R363, R407). The PF's quotas are those of the quota registers (02). -/
def State.reset : State :=
  { fns := [(0, { maxCtx := 0xFFF, hbmQuota := 0x3FFFFFF, tierQuota := 0xFFFFFFFF })] }


end Sys2Proof.Machine
end

