-- ==== Sys2Proof/Machine/Ops.lean ====
section
/-!
DEFINITION. The named operations over the state's tables, memory and records: one home for every read and write of an
indexed family, the free values, and byte order (R3).
-/

namespace Sys2Proof.Machine

/-! ## Tables -/

/-- The value at a key; `d` where the table lists none. -/
def tget {α : Type} (d : α) : Tbl α → Nat → α
  | [], _ => d
  | (j, v) :: t, k => if j = k then v else tget d t k

/-- Puts an entry before the first one of a greater key. -/
def tinsert {α : Type} : Tbl α → Nat → α → Tbl α
  | [], k, v => [(k, v)]
  | (j, w) :: t, k, v => if k < j then (k, v) :: (j, w) :: t else (j, w) :: tinsert t k v

/-- Removes a key. -/
def tdel {α : Type} (t : Tbl α) (k : Nat) : Tbl α := t.filter fun e => e.1 != k

/-- Sets a key, keeping keys rising and listing no value equal to `d`. -/
def tput {α : Type} [DecidableEq α] (d : α) (t : Tbl α) (k : Nat) (v : α) : Tbl α :=
  if v = d then tdel t k else tinsert (tdel t k) k v

/-- Changes the value at a key. -/
def tmod {α : Type} [DecidableEq α] (d : α) (t : Tbl α) (k : Nat) (f : α → α) : Tbl α :=
  tput d t k (f (tget d t k))

/-- Whether a table lists a key. -/
def thas {α : Type} (t : Tbl α) (k : Nat) : Bool := t.any fun e => e.1 == k

/-- The value listed at a key, if there is one. -/
def tfind? {α : Type} : Tbl α → Nat → Option α
  | [], _ => none
  | (j, v) :: t, k => if j = k then some v else tfind? t k

/-- Adds or replaces a record at a key, keeping keys rising. -/
def tset {α : Type} : Tbl α → Nat → α → Tbl α
  | [], k, v => [(k, v)]
  | (j, w) :: t, k, v =>
    if k < j then (k, v) :: (j, w) :: t
    else if k = j then (k, v) :: t
    else (j, w) :: tset t k v

/-- The lowest number from `n` on, among the next `fuel`, that a test admits. -/
def lowest (p : Nat → Bool) : Nat → Nat → Option Nat
  | _, 0 => none
  | n, fuel + 1 => if p n then some n else lowest p (n + 1) fuel

/-! ## Bits and bytes (R3) -/

/-- Bits [hi:lo] of a number. -/
def bits (n hi lo : Nat) : Nat := (n >>> lo) % 2 ^ (hi + 1 - lo)

/-- Bit k of a number. -/
def bit (n k : Nat) : Bool := n.testBit k

/-- A Bool as a number. -/
def b2n (b : Bool) : Nat := if b then 1 else 0

/-- A number with bits [lo+w-1:lo] replaced by `v`. -/
def setBits (n lo w v : Nat) : Nat :=
  n - (bits n (lo + w - 1) lo) <<< lo + (v % 2 ^ w) <<< lo

/-- The number that little-endian bytes spell. -/
def leNat : List Byte → Nat
  | [] => 0
  | b :: t => b.toNat + 256 * leNat t

/-- The low `n` bytes of a number, little-endian. -/
def leBytes : Nat → Nat → List Byte
  | 0, _ => []
  | n + 1, v => BitVec.ofNat 8 v :: leBytes n (v / 256)

/-- The number that big-endian bytes spell. -/
def beNat (l : List Byte) : Nat := l.foldl (fun a b => a * 256 + b.toNat) 0

/-- The bytes of a line. -/
def lineBytes (l : Line) : List Byte := leBytes 64 l.toNat

/-- The line that 64 bytes spell. -/
def lineOf (l : List Byte) : Line := BitVec.ofNat 512 (leNat l)

/-- Splits bytes into lines. -/
def linesOf : Nat → List Byte → List Line
  | 0, _ => []
  | n + 1, l => lineOf (l.take 64) :: linesOf n (l.drop 64)

/-- Division rounded up. -/
def cdiv (a b : Nat) : Nat := (a + b - 1) / b

/-- A saturating count. -/
def satAdd (a n max : Nat) : Nat := min (a + n) max

/-! ## Memory -/

/-- The canonical form of a memory: addresses strictly rising, no byte equal to the zero that an unlisted address reads
as (R43, R322). -/
def Memory.wf : List Host.Cell → Bool
  | [] => true
  | [c] => c.2 != 0
  | c :: d :: t => c.2 != 0 && decide (c.1 < d.1) && Memory.wf (d :: t)

/-- The entries of a table at keys of a range. -/
def tableRange {α : Type} (t : Tbl α) (k n : Nat) : Tbl α := t.filter fun e => k ≤ e.1 && e.1 < k + n

/-- A table without the entries at keys of a range. -/
def tableClear {α : Type} (t : Tbl α) (k n : Nat) : Tbl α := t.filter fun e => !(k ≤ e.1 && e.1 < k + n)

/-- A table with the entries at keys of a range replaced by those given. -/
def tableSplice {α : Type} (t : Tbl α) (k n : Nat) (new : Tbl α) : Tbl α :=
  (t.filter fun e => e.1 < k) ++ new ++ (t.filter fun e => k + n ≤ e.1)

/-- The byte at an address. -/
def readByte (m : List Host.Cell) (a : Nat) : Byte := tget 0 m a

/-- The bytes at `n` addresses from `a` on. -/
def bytesFrom (m : List Host.Cell) (a : Nat) : Nat → List Byte
  | 0 => []
  | n + 1 => readByte m a :: bytesFrom m (a + 1) n

/-- Reads `n` bytes from an address on. -/
def readBytes (m : List Host.Cell) (a n : Nat) : List Byte := bytesFrom (tableRange m a n) a n

/-- The cells that bytes from an address on make: those that are not zero. -/
def cellsFrom : Nat → List Byte → List Host.Cell
  | _, [] => []
  | a, b :: t => if b = 0 then cellsFrom (a + 1) t else (a, b) :: cellsFrom (a + 1) t

/-- Writes bytes from an address on. -/
def writeBytes (m : List Host.Cell) (a : Nat) (l : List Byte) : List Host.Cell := tableSplice m a l.length (cellsFrom a l)

/-- The line with number ZA[48:6] (R24). -/
def readLine (m : List Host.Cell) (line : Nat) : Line := lineOf (readBytes m (64 * line) 64)

/-- Writes a whole line (R125). -/
def writeLine (m : List Host.Cell) (line : Nat) (v : Line) : List Host.Cell :=
  writeBytes m (64 * line) (lineBytes v)

/-- A store with what one tier page holds taken from another store, under fresh check bits (R166, R212). -/
def Store.copyPage (dst src : Store) (page : Nat) : Store :=
  { mem := tableSplice dst.mem (65536 * page) 65536 (tableRange src.mem (65536 * page) 65536)
    forms := tableSplice dst.forms (16 * page) 16 (tableRange src.forms (16 * page) 16)
    poison := tableSplice dst.poison (1024 * page) 1024 (tableRange src.poison (1024 * page) 1024)
    flips := tableClear dst.flips (1024 * page) 1024
    wrong := tableSplice dst.wrong (1024 * page) 1024 (tableRange src.wrong (1024 * page) 1024) }

/-- A store with the pages of a range reading as zeros. -/
def Store.clearPages (st : Store) (page n : Nat) : Store :=
  { mem := tableClear st.mem (65536 * page) (65536 * n)
    forms := tableClear st.forms (16 * page) (16 * n)
    poison := tableClear st.poison (1024 * page) (1024 * n)
    flips := tableClear st.flips (1024 * page) (1024 * n)
    wrong := tableClear st.wrong (1024 * page) (1024 * n) }

/-- A store in which `n` lines have been stored anew: no record, no wrong bit. -/
def Store.freshLines (st : Store) (line n : Nat) : Store :=
  { st with poison := tableClear st.poison line n, flips := tableClear st.flips line n, wrong := tableClear st.wrong line n }

/-! ## Free values (log 1) -/

/-- Takes the next free value. -/
def State.takeFree (s : State) : Nat × State := (Config.free s.fresh, { s with fresh := s.fresh + 1 })

/-- A device choice among numbers below `bound`: the free value where `ok` admits it, else the lowest admitted among the
first `fuel` (log 1). -/
def State.pick (s : State) (bound fuel : Nat) (ok : Nat → Bool) : Option Nat × State :=
  let f := s.takeFree
  let c := f.1 % max bound 1
  (if c < bound && ok c then some c else lowest (fun n => n < bound && ok n) 0 fuel, f.2)

/-- A device choice of one element of a list. -/
def State.pickOf {α : Type} (s : State) (l : List α) : Option α × State :=
  let f := s.takeFree
  (l[f.1 % max l.length 1]?, f.2)

/-! ## Indexed families: reads and updates -/

def State.fn (s : State) (n : Nat) : Fn := tget {} s.fns n
def State.modFn (s : State) (n : Nat) (f : Fn → Fn) : State := { s with fns := tmod {} s.fns n f }
def State.ctx (s : State) (c : Nat) : Ctx := tget {} s.ctxs c
def State.modCtx (s : State) (c : Nat) (f : Ctx → Ctx) : State := { s with ctxs := tmod {} s.ctxs c f }
def State.port (s : State) (p : Nat) : Port := tget {} s.ports p
def State.modPort (s : State) (p : Nat) (f : Port → Port) : State := { s with ports := tmod {} s.ports p f }
def State.ent (s : State) (page : Nat) : DirEnt := tget {} s.dir page
def State.modEnt (s : State) (page : Nat) (f : DirEnt → DirEnt) : State := { s with dir := tmod {} s.dir page f }
def State.dirDie (s : State) (d : Nat) : Dir := tget {} s.dirs d
def State.modDir (s : State) (d : Nat) (f : Dir → Dir) : State := { s with dirs := tmod {} s.dirs d f }
def State.stack (s : State) (k : Nat) : Stack := tget {} s.hbmStk k
def State.modStack (s : State) (k : Nat) (f : Stack → Stack) : State := { s with hbmStk := tmod {} s.hbmStk k f }
def State.pc (s : State) (k p : Nat) : Pc := tget {} (s.stack k).pcs p
def State.modPc (s : State) (k p : Nat) (f : Pc → Pc) : State :=
  s.modStack k fun t => { t with pcs := tmod {} t.pcs p f }
def State.fls (s : State) (d : Nat) : Fls := tget {} s.flss d
def State.modFls (s : State) (d : Nat) (f : Fls → Fls) : State := { s with flss := tmod {} s.flss d f }
def State.mem (s : State) (k : Nat) : MemDie := tget {} s.mems k
def State.modMem (s : State) (k : Nat) (f : MemDie → MemDie) : State := { s with mems := tmod {} s.mems k f }
def State.engine (s : State) (e : Nat) : Engine := tget {} s.engines e
def State.modEngine (s : State) (e : Nat) (f : Engine → Engine) : State := { s with engines := tmod {} s.engines e f }
def State.chd (s : State) (d : Nat) : ChdDie := tget {} s.chds d
def State.modChd (s : State) (d : Nat) (f : ChdDie → ChdDie) : State := { s with chds := tmod {} s.chds d f }
def State.group (s : State) (region g : Nat) : Group := tget {} s.groups (65536 * region + g)
def State.modGroup (s : State) (region g : Nat) (f : Group → Group) : State :=
  { s with groups := tmod {} s.groups (65536 * region + g) f }
def State.table (s : State) (id : Nat) : TableSlot := tget {} s.tables id
def State.modTable (s : State) (id : Nat) (f : TableSlot → TableSlot) : State :=
  { s with tables := tmod {} s.tables id f }
def State.refRec (s : State) (page : Nat) : RefRec := tget {} s.refRecs page
def State.proc (s : State) (i : Nat) : Proc := tget {} s.fw.procs i
def State.modProc (s : State) (i : Nat) (f : Proc → Proc) : State :=
  { s with fw := { s.fw with procs := tmod {} s.fw.procs i f } }
def State.cls (s : State) (c : Nat) : Class := tget {} s.qos.classes c
def State.regulator (s : State) (r : Nat) : Regulator := tget {} s.qos.regs r
def State.modReg (s : State) (r : Nat) (f : Regulator → Regulator) : State :=
  { s with qos := { s.qos with regs := tmod {} s.qos.regs r f } }
def State.modPmc (s : State) (f : Pmc → Pmc) : State := { s with pmc := f s.pmc }
def State.modFw (s : State) (f : Fw → Fw) : State := { s with fw := f s.fw }
def State.modHep (s : State) (f : Hep → Hep) : State := { s with hep := f s.hep }
def State.modCnt (s : State) (f : Cnt → Cnt) : State := { s with cnt := f s.cnt }
def State.modQos (s : State) (f : Qos → Qos) : State := { s with qos := f s.qos }
def State.modDisp (s : State) (f : Dispatch → Dispatch) : State := { s with disp := f s.disp }
def State.modElog (s : State) (f : Elog → Elog) : State := { s with elog := f s.elog }
def State.modHbm (s : State) (f : Store → Store) : State := { s with hbm := f s.hbm }

/-- A live region by index. -/
def State.region? (s : State) (i : Nat) : Option Region := tfind? s.regions i
def State.setRegion (s : State) (i : Nat) (r : Region) : State := { s with regions := tset s.regions i r }
def State.modRegion (s : State) (i : Nat) (f : Region → Region) : State :=
  match s.region? i with
  | some r => s.setRegion i (f r)
  | none => s
/-- An outstanding command by number. -/
def State.cmd? (s : State) (id : Nat) : Option Cmd := s.cmds.find? fun c => c.id == id
def State.modCmd (s : State) (id : Nat) (f : Cmd → Cmd) : State :=
  { s with cmds := s.cmds.map fun c => if c.id == id then f c else c }
/-- A run by number. -/
def State.run? (s : State) (id : Nat) : Option Run := s.disp.runs.find? fun r => r.id == id
def State.modRun (s : State) (id : Nat) (f : Run → Run) : State :=
  s.modDisp fun d => { d with runs := d.runs.map fun r => if r.id == id then f r else r }
/-- A transfer by number. -/
def State.xfer? (s : State) (id : Nat) : Option Xfer := s.xfers.find? fun x => x.id == id
def State.modXfer (s : State) (id : Nat) (f : Xfer → Xfer) : State :=
  { s with xfers := s.xfers.map fun x => if x.id == id then f x else x }
/-- Takes the next number. -/
def State.takeId (s : State) : Nat × State := (s.nextId, { s with nextId := s.nextId + 1 })
/-- Takes a new key: AES-256-XTS keys are random, their values never visible (R47, R49). -/
def State.takeKey (s : State) : Nat × State := (s.nextKey, { s with nextKey := s.nextKey + 1 })
/-- Loads a key into a slot of all ten memory dies, or discards what the slot holds with 0 (R49, R374). -/
def State.loadKey (s : State) (slot key : Nat) : State := { s with keys := tput 0 s.keys slot key }
/-- Records what the device sends. -/
def State.emit (s : State) (o : Out) : State := { s with out := o :: s.out }

/-- Applies a state change for each element of a list, in order. -/
def State.each {α : Type} (s : State) (l : List α) (f : State → α → State) : State := l.foldl f s

/-- The device runs: powered, ready and not fatal (R355, R371, R417). -/
def State.running (s : State) : Bool := s.pmc.powered && s.pmc.ready && !s.pmc.fatal

/-- A pending activation or a switch holds the units that a changed component serves (R392, R393). -/
def State.fwHolds (s : State) (c : Nat) : Bool := (s.fw.phase == .quiescing || s.fw.phase == .switching) && s.fw.changed.contains c

/-- The tier schedulers dispatch no new fetch or write-back: an activation of components 6 or 7 (R392), or D3hot (R412). -/
def State.tierHeld (s : State) : Bool := s.fwHolds 6 || s.fwHolds 7 || s.hep.d3hot

/-- A context is ACTIVE (R29). -/
def State.isActive (s : State) (c : Nat) : Bool := (s.ctx c).st == .active

/-- GLB_IDENT (R445): VENDOR, DEVICE, VARIANT, STEPPING, REV_CODE of the builds shipped. -/
def State.ident (s : State) : BitVec 64 :=
  match s.stepB0, s.variantH with
  | false, false => 0xA0003A0025201F3D
  | false, true => 0xA0003A0125201F3D
  | true, false => 0xB0001B0025201F3D
  | true, true => 0xB0001B0125201F3D

end Sys2Proof.Machine
end

