-- ==== Sys2Proof/Machine/Flags.lean ====
section
/-!
DEFINITION. Status codes, interrupts, error flags, error-log records, counters and the derate computation: what many
commands raise alike.
-/

namespace Sys2Proof.Machine

/-! ## Status codes (R68) -/

def stOk : Nat := 0x00
def stBusy : Nat := 0x01
def stBadOpcode : Nat := 0x02
def stBadParam : Nat := 0x03
def stNoPerm : Nat := 0x04
def stNoSpace : Nat := 0x05
def stOvercommit : Nat := 0x06
def stConflict : Nat := 0x07
def stGranule : Nat := 0x08
def stRestarted : Nat := 0x09
def stPartial : Nat := 0x0A
def stVersion : Nat := 0x0B
def stDeferredExpired : Nat := 0x0C
def stPartnerLost : Nat := 0x0D
def stUncorrectable : Nat := 0x0E
def stLeaseLost : Nat := 0x0F
def stNotResident : Nat := 0x10

/-- Sets bit k of a flag register. -/
def orBit {n : Nat} (w : BitVec n) (k : Nat) : BitVec n := w ||| BitVec.ofNat n (1 <<< k)

/-- A W1C write (R4): each bit written as 1 clears. -/
def w1c {n : Nat} (w v : BitVec n) : BitVec n := w &&& ~~~v

/-! ## Interrupts (R354, R367) -/

/-- The vectors of a function's MSI-X table (R348). -/
def msixVectors (fn : Nat) : Nat := if fn = 0 then 2048 else 64

/-- An MSI-X entry at reset: masked, address and data 0 (log 21). -/
def msixEntry0 : BitVec 128 := BitVec.ofNat 128 (2 ^ 96)

/-- No message may be sent for a vector: MSI-X is disabled or the whole function masked, or the mask bit of its entry is set (bit
96 of the entry, as PCIe lays it out: log 21). -/
def msixMasked (f : Fn) (vec : Nat) : Bool := !f.msixOn || f.msixMask || bit (tget msixEntry0 f.msix vec).toNat 96

/-- Raises a vector of a function: a message, or the PBA bit while Bus Master Enable is clear (R367), the vector is masked
or the function is in FLR. A vector the table does not hold raises nothing (R354). -/
def State.raise (s : State) (fn vec : Nat) : State :=
  let f := s.fn fn
  if msixVectors fn ≤ vec then s
  else if f.bme && !msixMasked f vec && !s.hep.d3hot then s.emit (.msix fn vec)
  else s.modFn fn fun f => { f with pba := if f.pba.contains vec then f.pba else f.pba ++ [vec] }

/-- Sends the interrupts recorded in the PBA whose vectors are not masked (R367). -/
def State.sendPending (s : State) (fn : Nat) : State :=
  let f := s.fn fn
  if f.bme && !s.hep.d3hot then
    let go := f.pba.filter fun v => !msixMasked f v
    (s.modFn fn fun f => { f with pba := f.pba.filter fun v => msixMasked f v }).each go
      fun s v => s.emit (.msix fn v)
  else s

/-- Sets bit k of PMC_ERR and raises its vector under PMC_IRQ (Registers of 16). -/
def State.pmcErr (s : State) (k : Nat) : State :=
  let s := s.modPmc fun p => { p with err := orBit p.err k }
  if bit s.pmc.irqMask.toNat k then s.raise 0 s.pmc.irqVec else s

/-- The PCIe link is up: configuration space has become ready since PERST_N was released, and the link is not in L2 (R364, R368). -/
def State.linkUp (s : State) : Bool := s.pmc.powered && s.hep.cfgReady && !s.pmc.perst && !s.hep.l2

/-- An error message goes to the host while the link is up (R371). -/
def State.errMessage (s : State) (o : Out) : State := if s.linkUp then s.emit o else s

/-- The uncorrectable errors that have a TLP header: poisoned TLP, unexpected completion, unsupported request (R370). -/
def tlpError (k : Nat) : Bool := k = 12 || k = 16 || k = 20

/-- An uncorrectable error is logged: its status, and, of the first unmasked one, the First Error Pointer and the TLP header (R370). -/
def Fn.logUnc (f : Fn) (k : Nat) : Fn :=
  let f := { f with aerUnc := orBit f.aerUnc k }
  if bit f.aerUncMask.toNat k || f.aerFirst.isSome then f
  else { f with aerFirst := some k, aerHdrs := if tlpError k then f.aerHdrs + 1 else f.aerHdrs }

/-- Logs an AER correctable error of a function: bit numbers as PCIe lays out the status register (log 22). -/
def State.aerCor (s : State) (fn k : Nat) : State :=
  let s := s.modFn fn fun f => { f with aerCor := orBit f.aerCor k }
  if bit (s.fn fn).aerCorMask.toNat k then s else s.errMessage (.aer fn false k)

/-- Logs an AER uncorrectable error of a function. `advisory` cases also log Advisory Non-Fatal (R370, log 22). -/
def State.aerUnc (s : State) (fn k : Nat) (advisory : Bool) : State :=
  let masked := bit (s.fn fn).aerUncMask.toNat k
  let fatal := bit (s.fn fn).aerUncSev.toNat k
  let s := s.modFn fn fun f => f.logUnc k
  if advisory && !fatal then
    (if masked then s.modFn fn fun f => { f with aerCor := orBit f.aerCor 13 } else s.aerCor fn 13)
  else if masked then s
  else s.errMessage (.aer fn fatal k)

/-! ## Access to a function (R351, R364, R365, R367, R368) -/

/-- The function is there: the PF, or one of the NumVFs VFs while VF Enable is set (R350). -/
def State.hasFn (s : State) (fn : Nat) : Bool := fn = 0 || (s.hep.vfEnable && fn ≤ s.hep.numVfs)

/-- A function's BARs take writes: the link is up in D0, the function is there, Memory Space Enable is set and no FLR is under way. -/
def State.barOpen (s : State) (fn : Nat) : Bool :=
  s.pmc.powered && s.hep.cfgReady && !s.hep.d3hot && s.hasFn fn && (s.fn fn).mse && !(s.fn fn).flr

/-- Whether a write to a BAR of a function is taken. Memory Space Enable clear, an FLR under way and a VF that is not enabled make it
an Unsupported Request, which is logged; the device in D3hot or without configuration space answers nothing. -/
def State.barWrite (s : State) (fn : Nat) (f : State → State) : State :=
  if s.barOpen fn then f s
  else if !(s.pmc.powered && s.hep.cfgReady) || s.hep.d3hot then s
  else if !s.hasFn fn then s.aerUnc 0 20 false
  else s.aerUnc fn 20 false

/-- A function takes configuration requests: configuration space is ready, the function is there, and no FLR of it is under way. -/
def State.cfgOpen (s : State) (fn : Nat) : Bool :=
  s.pmc.powered && s.hep.cfgReady && s.hasFn fn && !(s.fn fn).flr

/-- A configuration request of a function: before configuration space is ready after PERST_N, and during an FLR of the function, it gets
Request Retry Status; a VF that is not enabled is not there. -/
def State.cfgAccess (s : State) (fn : Nat) (f : State → State) : State :=
  if s.cfgOpen fn then f s
  else if !s.pmc.powered || s.pmc.perst || s.hep.l2 then s
  else if !s.hep.cfgReady || (s.fn fn).flr then s.emit (.cfgRetry fn)
  else s

/-! ## The error log (R420-R422) -/

/-- What an error event gives its record (R420); the rest is zero. -/
structure LogEvent where
  event   : Nat
  kind    : Nat := 0
  index   : Nat := 0
  ctx     : Nat := 0
  addr    : Nat := 0
  status  : Nat := 0
  reason  : Nat := 0
  count   : Nat := 0

/-- The 32-byte record of an event, with its sequence number, its timestamp and the function (R420). -/
def LogEvent.record (e : LogEvent) (seq tstamp fn : Nat) : BitVec 256 :=
  BitVec.ofNat 256 (leNat (leBytes 1 e.event ++ leBytes 1 e.kind ++ leBytes 2 e.ctx ++ leBytes 4 e.index ++
    leBytes 8 e.addr ++ leBytes 4 seq ++ leBytes 4 tstamp ++ leBytes 1 e.status ++ leBytes 1 e.reason ++
    leBytes 1 fn ++ [0] ++ leBytes 4 e.count))

/-- Adds a record to a function's error ring (R422): NEW, OVERRUN when the record overwritten has not been acknowledged,
and the vector. -/
def State.fnRecord (s : State) (e : LogEvent) (ts fn : Nat) : State :=
  let ev := (s.fn fn).errEvent.toNat
  let next := bits ev 15 0
  let ack := bits ev 63 48
  let lost := 16 ≤ (next + 65536 - ack) % 65536
  let ev1 := setBits (setBits ev 0 16 (next + 1)) 16 1 1
  let ev2 := if lost then setBits ev1 17 1 1 else ev1
  let s := s.modFn fn fun f =>
    { f with errEvent := BitVec.ofNat 64 ev2, errRing := tput 0 f.errRing (next % 16) (e.record next ts fn) }
  if bit ev 43 then s.raise fn (bits ev 42 32) else s

/-- Logs an error event (R421): the device log always, the ring of the function that owns the context when the record
names one. No record is written for a context that is already FREE (R422). -/
def State.log (s : State) (e : LogEvent) : State :=
  if e.ctx ≠ 0 && (s.ctx e.ctx).st == .free then s
  else
    let f := s.takeFree
    let ts := f.1 % 2 ^ 32
    let s := f.2
    let fn := if e.ctx = 0 then 0 else (s.ctx e.ctx).owner
    let n := s.elog.next
    let s := s.modElog fun l =>
      { l with next := (n + 1) % 2 ^ 32, recs := tput 0 l.recs (n % 4096) (e.record n ts fn) }
    if e.ctx = 0 then s else s.fnRecord e ts fn

/-- The record held for a sequence number: zeros if it is not held (GLB_ELOG_REC). -/
def Elog.get (l : Elog) (seq : Nat) : BitVec 256 :=
  let back := (l.next + 2 ^ 32 - seq) % 2 ^ 32
  if 0 < back && back ≤ 4096 then tget 0 l.recs (seq % 4096) else 0

/-! ## Counters (R429-R437) -/

/-- The attributes an event carries (R431). -/
structure Attrs where
  ctx  : Option Nat := none
  port : Option Nat := none
  cls  : Option Nat := none
  za   : Option Nat := none
  engine : Nat := 0
  instr  : Nat := 0

/-- The instance number of a block code and an instance. -/
def instOf (blk inst : Nat) : Nat := 16 * blk + inst

/-- Whether a counter's filters let an event through (R431, R433): a filter on an attribute the event lacks excludes it. -/
def Pctr.admits (c : Pctr) (a : Attrs) : Bool :=
  let priv := bits c.flags.toNat 1 0
  let ctx := a.ctx.getD 0
  (match priv with | 0 => true | 1 => ctx != 0 | _ => ctx == 0)
  && (match c.masterKind with
      | 0 => true
      | 1 => a.ctx == some c.master
      | _ => a.port == some c.master)
  && (c.classMask.toNat == 2 ^ 32 - 1 || (match a.cls with | some l => bit c.classMask.toNat l | none => false))
  && (c.zaBase == 0 && c.zaLimit == 0 ||
      (match a.za with | some z => c.zaBase ≤ z && z < c.zaLimit | none => false))

/-- The words 0 and 1 of a sample of an event (CNT_SAMPLE). -/
def Attrs.sample (a : Attrs) (ctr : Nat) : BitVec 128 :=
  BitVec.ofNat 128 (ctr + 8 + (a.ctx.getD 0) <<< 4 + (a.port.getD 0) <<< 16 + (a.cls.getD 0) <<< 20 +
    a.instr <<< 32 + a.engine <<< 40 + (a.za.getD 0) <<< 64)

/-- Sets OVF of a wrapped counter, takes the sample and raises the owner's vector (R436, R437). -/
def State.overflow (s : State) (inst k : Nat) : State :=
  let c := tget {} s.cnt.p (8 * inst + k)
  let s := s.modCnt fun t => { t with
    p := tmod {} t.p (8 * inst + k) fun c => { c with ovf := true }
    samples := if bit c.flags.toNat 3 then tput 0 t.samples inst (c.last ||| BitVec.ofNat 128 (k + 8)) else t.samples }
  if bit c.flags.toNat 2 then s.raise c.owner c.vec else s

/-- Adds `n` of an event to the programmable counters of an instance that count it (R432, R436). -/
def State.count (s : State) (blk inst code : Nat) (a : Attrs) (n : Nat := 1) : State :=
  if s.cnt.p.isEmpty then s
  else s.each (List.range 8) fun s k =>
    let key := 8 * instOf blk inst + k
    let c := tget {} s.cnt.p key
    if c.active && c.event == code && c.admits a && n != 0 then
      let v := c.value + n
      let s := s.modCnt fun t =>
        { t with p := tput {} t.p key { c with value := v % 2 ^ 48, last := a.sample k } }
      if 2 ^ 48 ≤ v then s.overflow (instOf blk inst) k else s
    else s

/-- Adds to a fixed counter F2 or F3 (R430). -/
def State.fixed (s : State) (blk inst f n : Nat) : State :=
  s.modCnt fun t => { t with f := tmod 0 t.f (4 * instOf blk inst + f) fun v => (v + n) % 2 ^ 48 }

/-- A message crosses a hub (R16, R128, R152): its switch slots, one and one more for each 256 bytes of its data. -/
def State.crossHub (s : State) (hub lines : Nat) (tangent : Bool) (a : Attrs) : State :=
  let s := (s.fixed 0x09 hub 2 (1 + (64 * lines + 255) / 256)).count 0x09 hub 0x01 a
  if tangent then s.count 0x09 hub 0x02 a else s

/-! ## Memory dies, deliverable bandwidth and derating (R153, R155) -/

/-- The memory die of a stack (R14). -/
def dieOf (stack : Nat) : Nat := stack / 2

/-- Pseudo-channels RUNNING in a stack (MEM_STACK_STATUS.PCS_IN_SERVICE). -/
def Stack.running (t : Stack) : Nat :=
  64 - (t.pcs.filter fun e => e.2.st != .running).length

/-- P of R153. -/
def State.pcCount (s : State) : Nat :=
  ((List.range 20).map fun k => if (s.stack k).st = 0 then (s.stack k).running else 0).sum

/-- The HBM throughput fraction of a ladder level (R400). -/
def levelH (level : Nat) : Nat := if level ≤ 3 then 4096 else if level = 4 then 3072 else 2048

/-- H in force: held at 2,048 while the power core restarts (R376, R403). -/
def State.hFrac (s : State) : Nat := if s.pmc.safeCap then 2048 else levelH s.pmc.level

/-- INTERNAL_RESERVE and WINDOW_CYCLES in force. -/
def Qos.reserve (q : Qos) : Nat := bits q.cfg.toNat 31 24
def Qos.window (q : Qos) : Nat := bits q.cfg.toNat 19 0
def Qos.holdCap (q : Qos) : Nat := bits q.cfg.toNat 43 32
def Qos.beWeight (q : Qos) : Nat := 64 * bits q.cfg.toNat 63 48
def Qos.ctxLines (q : Qos) : Nat := bits q.tan.toNat 15 0
def Qos.portLines (q : Qos) : Nat := bits q.tan.toNat 31 16

/-- D in GB/s, rounded down (QOS_STATE.DELIVERABLE). -/
def State.deliverable (s : State) : Nat :=
  49152 * s.pcCount * s.hFrac * (256 - s.qos.reserve) / (1280 * 4096 * 256)

/-- The numerator of the window capacity over 1280 x 4096 x 256: D x WINDOW_CYCLES x 0.5 ns in bytes (R153). -/
def State.capacityNum (s : State) : Nat :=
  24576 * s.qos.window * s.pcCount * s.hFrac * (256 - s.qos.reserve)

/-- The denominator of the window capacity. -/
def capacityDen : Nat := 1280 * 4096 * 256

/-- The sum of all budgets. -/
def State.budgets (s : State) : Nat := (s.ctxs.map fun e => e.2.budget).sum

/-- F of R155. -/
def State.derateNow (s : State) : Nat :=
  if s.budgets = 0 then 4096 else min 4096 (4096 * s.capacityNum / (capacityDen * s.budgets))

/-- The scheduler core runs. -/
def State.scRunning (s : State) : Bool := !(s.proc 2).restarting

/-- Computes F, sends it to every regulator and to each function that owns a context with a budget (R155); while the
scheduler core restarts, derating waits for it (R150). -/
def State.rederate (s : State) : State :=
  if s.scRunning then
    let f := s.derateNow
    let s := s.modQos fun q => { q with derate := f }
    let s := s.each (List.range 5) fun s r => s.modReg r fun g => { g with derate := f }
    let owners := (s.ctxs.filter fun e => e.2.budget != 0).map fun e => e.2.owner
    s.each owners.eraseDups fun s fn =>
      if (s.fn fn).derate = f then s
      else
        let s := s.modFn fn fun h => { h with derate := f, qosChanged := true }
        if (s.fn fn).qosIrq then s.raise fn (s.fn fn).qosVec else s
  else s

/-- A budget after derating: rounded down to 64 bytes (R155). -/
def derated (b f : Nat) : Nat := b * f / 4096 / 64 * 64

end Sys2Proof.Machine
end

