-- ==== Sys2Proof/Machine/Operands.lean ====
section
/-!
DEFINITION. Operand forms: packet parameters (R52, R55), region attributes (R40, R41), handles (R39, R276), window
translation (R36-R38, R359), endpoint descriptors (R75) and the place of a line in HBM (R298-R301).
-/

namespace Sys2Proof.Machine

/-! ## Packets -/

/-- Bytes `off` to `off + len - 1` of a packet, little-endian, for offsets of 8 and above. -/
def par (p : Packet) (off len : Nat) : Nat := (p.params.toNat >>> (8 * (off - 8))) % 2 ^ (8 * len)

/-- CONTEXT[11:0]. -/
def pCtx (p : Packet) : Nat := p.context.toNat % 4096

/-- FENCE and IRQ (R54). -/
def pFence (p : Packet) : Bool := bit p.flags.toNat 0
def pIrq (p : Packet) : Bool := bit p.flags.toNat 1

/-- The lowest of the offsets whose faults hold (R55). -/
def lowestBad : List (Nat × Bool) → Option Nat
  | [] => none
  | (o, b) :: t =>
    match lowestBad t with
    | none => if b then some o else none
    | some m => if b then some (min o m) else some m

/-- Check 5 of R61: reserved flag bits (offset 3), CONTEXT[15:12] (5), parameter bytes outside the ranges the opcode
defines, and the opcode's own encoding faults; the lowest offset (R55). -/
def check5 (p : Packet) (defined : List (Nat × Nat)) (faults : List (Nat × Bool)) : Option Nat :=
  lowestBad ([(3, bits p.flags.toNat 7 2 != 0), (5, bits p.context.toNat 15 12 != 0)]
    ++ ((List.range 56).map fun i =>
        (i + 8, par p (i + 8) 1 != 0 && !(defined.any fun r => r.1 ≤ i + 8 && i + 8 < r.2)))
    ++ faults)

/-! ## Region attributes (R40, R41) -/

def attrType (a : BitVec 32) : Nat := bits a.toNat 2 0
def attrSpace (a : BitVec 32) : Bool := bit a.toNat 3
def attrCode (a : BitVec 32) : Nat := bits a.toNat 5 4
def attrAuto (a : BitVec 32) : Bool := bit a.toNat 6
def attrLease (a : BitVec 32) : Bool := bit a.toNat 7

/-- The attribute word's encoding faults under R40, by byte of the packet (R55): a reserved TYPE or SPACE on another type than shared
concerns the field, a reserved bit its own byte. -/
def attrFaults (a : BitVec 32) : List (Nat × Bool) :=
  [(12, decide (5 ≤ attrType a) || (attrSpace a && attrType a != 2)), (13, bits a.toNat 15 8 != 0), (14, bits a.toNat 23 16 != 0),
   (15, bits a.toNat 31 24 != 0)]

/-- The combinations R41 admits; on the Z2520-H no region in tiered space (R2). -/
def attrAllowed (h : Bool) (a : BitVec 32) : Bool :=
  match attrType a with
  | 0 => !h && attrCode a != 3 && !attrLease a
  | 1 => attrCode a != 0 && !(attrLease a && attrAuto a)
  | 2 => !(h && !attrSpace a) && attrCode a != 3 && !attrLease a
  | 3 => attrCode a != 3 && !attrAuto a && !attrLease a
  | 4 => attrCode a != 3 && !attrAuto a && !attrLease a
  | _ => false

/-- The region lies in tiered space: type tiered, or shared with SPACE 0. -/
def attrTiered (a : BitVec 32) : Bool := attrType a == 0 || (attrType a == 2 && !attrSpace a)

/-- Code S+stripe, named or by the type's default (R41). -/
def attrStripe (a : BitVec 32) : Bool := attrCode a == 2 || (attrType a == 2 && attrCode a == 0)

/-- Code L. -/
def attrCodeL (a : BitVec 32) : Bool := attrCode a == 3

def Region.tiered (r : Region) : Bool := attrTiered r.attr
def Region.stripe (r : Region) : Bool := attrStripe r.attr
def Region.auto (r : Region) : Bool := attrAuto r.attr
def Region.leased (r : Region) : Bool := attrLease r.attr
def Region.kind (r : Region) : Nat := attrType r.attr

/-- The key slot of a region's lines (R36): its own, or that of its context. -/
def Region.slot (r : Region) : Nat := if r.keySlot = 0 then r.ctx else r.keySlot

/-- Published or withdrawn: nobody writes it (R268, R271). -/
def Region.frozen (r : Region) : Bool := r.share == .published || r.share == .withdrawn || r.share == .publishing

/-- Frames charged for N pages of pinned space (R42, R301). -/
def chargeOf (a : BitVec 32) (pages : Nat) : Nat := if attrStripe a then pages + cdiv pages 4 else pages

/-- The last permission bits that a window may carry onto a region, as R36 [5:0] less VALID: RD, WR, ATOM, OWN, KRN. -/
def permsAllowed (r : Region) (sub : Bool) : Nat :=
  if sub || r.frozen then 0b10001
  else
    match r.kind with
    | 0 => if r.auto then 0b10011 else 0b10111
    | 1 => (if r.auto then 0b10011 else 0b10111) + (if r.leased then 0b01000 else 0)
    | 2 => if r.auto then 0b10011 else 0b10111
    | 3 => 0b10111
    | _ => 0b10011

/-! ## Handles (R39, R276) -/

/-- The handle of an index. -/
def State.handleOf (s : State) (i : Nat) : Nat := i + (tget 0 s.seqs i % 4096) <<< 20

/-- What a handle names. -/
inductive Named where
  | stale
  | region (i : Nat) (r : Region)
  | sub (i : Nat) (u : Sub)

/-- Resolves a handle: its sequence must match a live region or subscription. A region still being filled has no handle that
software knows, and is not live (log 37). -/
def State.named (s : State) (h : Nat) : Named :=
  let i := bits h 19 0
  if tget 0 s.seqs i % 4096 ≠ bits h 31 20 then .stale
  else
    match s.region? i, tfind? s.subs i with
    | some r, _ => if r.filling then .stale else .region i r
    | none, some u => .sub i u
    | none, none => .stale

/-- A region handle that a command of a context names, under R39: BAD_PARAM or NO_PERM, or the region. -/
def State.ownRegion (s : State) (h c : Nat) : Except Nat (Nat × Region) :=
  match s.named h with
  | .stale => .error stBadParam
  | .sub _ _ => .error stBadParam
  | .region i r => if r.ctx = c && r.owned && r.sealedBy = 0 then .ok (i, r) else .error stNoPerm

/-! ## Windows (R36-R38) -/

/-- The permission an operation needs. -/
inductive Perm where
  | rd
  | wr
  | atom
  | own
deriving DecidableEq, Repr

/-- A window permits an operation, and a kernel's needs KRN too (R250). -/
def Window.allows (w : Window) (p : Perm) (kernel : Bool) : Bool :=
  (match p with | .rd => w.rd | .wr => w.wr | .atom => w.atom | .own => w.own) && (!kernel || w.krn)

/-- A window covers the bytes from `la` on. -/
def Window.covers (w : Window) (la len : Nat) : Bool :=
  w.valid && w.laPage * 65536 ≤ la && la + len ≤ (w.laPage + w.pages) * 65536

/-- Where an LA leads (R38). -/
structure Trans where
  za     : Nat
  region : Nat
  sub    : Option Nat
  keySlot : Nat
  gen    : Nat

/-- Translates an LA range of a context that must lie in one window with a permission (R38). -/
def State.translate (s : State) (c la len : Nat) (p : Perm) (kernel : Bool) : Option Trans :=
  match (s.ctx c).windows.find? fun e => e.2.covers la len with
  | some (_, w) =>
    if w.allows p kernel then
      some { za := w.zaPage * 65536 + (la - w.laPage * 65536), region := w.region, sub := w.sub, keySlot := w.keySlot, gen := w.gen }
    else none
  | none => none

/-- R460, order 3: the windows that cover a range have the permission. -/
def State.covered (s : State) (c la len : Nat) (p : Perm) (kernel : Bool) : Bool :=
  let ws := (s.ctx c).windows.filter fun e => e.2.valid && e.2.allows p kernel
  go ws la (la + len) (ws.length + 1)
where
  /-- Moves the start past each window that covers it. -/
  go (ws : Tbl Window) : Nat → Nat → Nat → Bool
    | _, _, 0 => false
    | a, e, fuel + 1 =>
      if e ≤ a then true
      else
        match ws.find? fun w => w.2.laPage * 65536 ≤ a && a < (w.2.laPage + w.2.pages) * 65536 with
        | some w => go ws ((w.2.laPage + w.2.pages) * 65536) e fuel
        | none => false

/-- A window or an in-force host window maps a region; `bad` picks the windows that matter. -/
def State.mapped (s : State) (i : Nat) (bad : Window → Bool) : Bool :=
  s.ctxs.any fun e => e.2.windows.any fun w => w.2.valid && w.2.region == i && bad w.2

/-- A host window maps a region in force (R358). -/
def State.hostMapped (s : State) (i : Nat) : Bool := s.hep.hwinOn.any fun e => e.2.w.valid && e.2.region == i

/-! ## Endpoints (R75, R286) -/

/-- The endpoint descriptor at an offset of a packet. -/
def endpointAt (p : Packet) (off : Nat) : Endpoint :=
  { kind := par p off 1, port := par p (off + 1) 1, ctx := par p (off + 2) 2, addr := par p (off + 8) 8 }

/-- The encoding faults of an endpoint descriptor (R75, R286): a reserved KIND; PORT and peer context out of range or not
zero where the KIND has none; the reserved bytes 4-7. -/
def endpointFaults (p : Packet) (off : Nat) : List (Nat × Bool) :=
  let e := endpointAt p off
  [(off, decide (3 ≤ e.kind)), (off + 1, if e.kind = 2 then decide (16 ≤ e.port) else e.port != 0),
   (off + 2, if e.kind = 2 then decide (4096 ≤ e.ctx) else e.ctx != 0)]
  ++ ((List.range 4).map fun i => (off + 4 + i, par p (off + 4 + i) 1 != 0))

/-! ## Where a line lies (R24, R123, R298-R301) -/

/-- ZA[48] = 0: tiered space. -/
def zaTiered (za : Nat) : Bool := za < 2 ^ 48

/-- The directory die of a ZA (R123). -/
def dirOf (za : Nat) : Nat := (za / 65536) % 2

/-- The hub of a ZA (R16). -/
def hubOf (za : Nat) : Nat := (za / 4096) % 2

/-- The parity position, the group and the stack of a pinned page (R298). -/
def parityPos (p : Nat) : Nat := (p / 16) % 5
def stackOfPinned (p : Nat) : Nat := (p / 4) % 4 + 4 * ((parityPos p + 1 + p % 4) % 5)
def parityStack (p : Nat) : Nat := (p / 4) % 4 + 4 * parityPos p

/-- The frame-map index of a pinned page (R299). -/
def frameIndex (p : Nat) : Nat := 5 * (p / 80) + parityPos p

/-- The pinned-space page number ZA[41:16]. -/
def pinnedPage (za : Nat) : Nat := (za / 65536) % 2 ^ 26

/-- The stack of a tier-cache frame of a directory die: each 20 consecutive frames lie in the 20 stacks (R156). -/
def tierStack (d n : Nat) : Nat := (n + Config.tierShift d (n / 20)) % 20

/-- The stack and the frame position that hold a ZA's page: for pinned space from the frame map (the sibling where the
entry says so), for tiered space from the directory entry's frame, in the sibling once a striped page has been rebuilt there
(R156, R299, R321). -/
def State.placeOf (s : State) (za : Nat) : Nat × Nat :=
  if zaTiered za then
    let page := za / 65536
    let f := (s.ent page).frame
    let k := tierStack (dirOf za) f
    ((if (s.stack k).moved.contains page then 2 * (k / 2) + (1 - k % 2) else k), tget 0 (s.dirDie (dirOf za)).pos f)
  else
    let p := pinnedPage za
    let k := stackOfPinned p
    let e := tget {} (s.stack k).frameMap (frameIndex p)
    ((if e.sibling then 2 * (k / 2) + (1 - k % 2) else k), e.frame)

/-- The sibling of a stack: the other one of its memory die (R321). -/
def siblingOf (k : Nat) : Nat := 2 * (k / 2) + (1 - k % 2)

/-- The stack that holds a ZA. -/
def State.stackOf (s : State) (za : Nat) : Nat := (s.placeOf za).1

/-- The pseudo-channel of a line of a frame in position f (R300). -/
def pcOfLine (f line : Nat) : Nat :=
  let b := (line / 64) % 16
  let l := line % 64
  16 * ((f + b) % 4) + l % 16

/-- The pseudo-channel of a line number ZA[48:6]. -/
def State.pcOf (s : State) (line : Nat) : Nat × Nat :=
  let pl := s.placeOf (64 * line)
  (pl.1, pcOfLine pl.2 line)

/-- The physical line address of a pseudo-channel's line (R297). -/
def physLine (k p pcLine : Nat) : Nat := k + p <<< 5 + pcLine <<< 11

/-- The lines of a frame's share of a pseudo-channel in the controller's order (R300, log 15). -/
def rowOrder (k p f : Nat) : List Nat := (List.range 16).mergeSort fun a b => Config.rowKey k p f a ≤ Config.rowKey k p f b

/-- The pseudo-channel's line that holds a line of a frame. -/
def pcLineOf (k f off : Nat) : Nat := 16 * f + (rowOrder k (pcOfLine f off) f).idxOf (4 * (off / 64 % 16 / 4) + off % 64 / 16)

/-- The block and line of a frame that a pseudo-channel's line holds (R300; the order within a frame's share is the
controller's own, log 15): frame position `pcLine / 16`. -/
def lineInFrame (k p pcLine : Nat) : Nat × Nat :=
  let f := pcLine / 16
  let o := (rowOrder k p f).getD (pcLine % 16) 0
  let h := p / 16
  (f, 64 * ((h + 4 - f % 4) % 4 + 4 * (o / 4)) + p % 16 + 16 * (o % 4))

/-- The line number ZA[48:6] that a pseudo-channel's line holds, if a page of a region has that frame. -/
def State.lineAt (s : State) (k p pcLine : Nat) : Option Nat :=
  let fl := lineInFrame k p pcLine
  let pinned := s.regions.findSome? fun e =>
    if e.2.tiered then none
    else (List.range e.2.pages).findSome? fun i =>
      let za := (e.2.zaPage + i) * 65536
      if s.placeOf za = (k, fl.1) then some (za / 64 + fl.2) else none
  match pinned with
  | some l => some l
  | none => s.dir.findSome? fun e =>
      if (e.2.st == .clean || e.2.st == .dirty || e.2.st == .writingBack) && s.placeOf (e.1 * 65536) = (k, fl.1)
      then some (e.1 * 1024 + fl.2) else none

/-- The region that holds a ZA. -/
def State.regionAt (s : State) (za : Nat) : Option (Nat × Region) :=
  s.regions.find? fun e => e.2.zaPage * 65536 ≤ za && za < (e.2.zaPage + e.2.pages) * 65536

end Sys2Proof.Machine
end

