-- ==== Sys2Proof/Machine/Cmds.lean ====
section
/-!
DEFINITION. The command unit (R52-R71): link messages that the device sends, replies and their rings, the checks of R61,
acceptance, pauses and the start of a command.
-/

namespace Sys2Proof.Machine

/-! ## Messages toward a partner (R100, R101, R103) -/

/-- The first slot of a response (R103). -/
def rspSlot (opcode vc ctx tag status off dkind lines : Nat) (last : Bool) (retryAfter value : Nat) : BitVec 256 :=
  BitVec.ofNat 256 (opcode + vc <<< 6 + ctx <<< 8 + tag <<< 32 + status <<< 48 + off <<< 56 + dkind <<< 62 +
    lines <<< 64 + b2n last <<< 70 + retryAfter <<< 80 + value <<< 128)

/-- The first slot of a request that the device sends, class label 0 (R101, R115). -/
def reqSlot (opcode ctx tag la len atop awidth : Nat) : BitVec 256 :=
  BitVec.ofNat 256 (opcode + ctx <<< 8 + tag <<< 32 + la <<< 48 + len <<< 104 + atop <<< 112 + awidth <<< 116)

/-- The slots of data lines: two each. -/
def lineSlots (l : List Line) : List (BitVec 256) :=
  l.flatMap fun v => [BitVec.ofNat 256 v.toNat, BitVec.ofNat 256 (v.toNat >>> 256)]

/-- The port keeps what it is to send: it is ACTIVE or in RECOVERY (R85, R119). -/
def Port.live (p : Port) : Bool := p.st == .active || p.st == .recovery

/-- Queues a message on a port; in any other state than ACTIVE and RECOVERY it is discarded (R119, R121). -/
def State.sendMsg (s : State) (port : Nat) (m : TxMsg) : State :=
  if (s.port port).live then
    s.modPort port fun p => if m.vc = 3 then { p with txTan := p.txTan ++ [m] } else { p with txOrd := p.txOrd ++ [m] }
  else s

/-- Slots of a port's receive buffer are free again: they are owed to the partner as credits (R98). -/
def State.owe (s : State) (port vc slots : Nat) : State :=
  if (s.port port).live then s.modPort port fun p => { p with owed := tmod 0 p.owed vc (· + slots) } else s

/-- The tag of a partner's request is free again. -/
def State.freeTag (s : State) (port tag : Nat) : State :=
  s.modPort port fun p => { p with tags := p.tags.filter (· != tag) }

/-- Queues the last response to a partner's request: its tag is free once the response has been sent, or at once where the port
discards it (R104, R108). -/
def State.sendLast (s : State) (port tag : Nat) (m : TxMsg) : State :=
  if (s.port port).live then s.sendMsg port { m with frees := some tag } else s.freeTag port tag

/-! ## Replies (R63-R65) -/

/-- The 32 bytes of a reply (R63). -/
def Reply.bytes (r : Reply) (phase : Bool) : List Byte :=
  leBytes 2 r.opcode ++ leBytes 1 r.status ++ leBytes 1 (128 * b2n phase) ++ leBytes 2 r.context.toNat ++
  leBytes 2 r.tag.toNat ++ leBytes 16 r.result.toNat ++ leBytes 4 r.detail ++ leBytes 4 r.tstamp.toNat

/-- The entries of a ring: 2^(LOG2_ENTRIES + 6). -/
def Ring.log2 (r : Ring) : Nat := bits r.ctrl.toNat 11 8
def Ring.size (r : Ring) : Nat := 2 ^ (r.log2 + 6)
def Ring.enabled (r : Ring) : Bool := bit r.ctrl.toNat 0
def Ring.irqAll (r : Ring) : Bool := bit r.ctrl.toNat 1
def Ring.vec (r : Ring) : Nat := bits r.ctrl.toNat 26 16

/-- The ring is full: (PROD - CONS) mod 2^32 is N or more (R64). -/
def Ring.full (r : Ring) : Bool := r.size ≤ (r.prod - r.cons).toNat

/-- PHASE of the entry that PROD names (R65). -/
def Ring.phase (r : Ring) : Bool := !(bit r.prod.toNat (r.log2 + 6))

/-- How a packet's path marks the command that answers it. -/
def viaLink : Via → Bool
  | .aperture _ => false
  | .link _ _ _ => true

/-- Forms a reply (R63): TSTAMP is a cycle count, a free value (log 1). -/
def State.form (s : State) (opcode : Nat) (p : Packet) (context : BitVec 16) (status result detail : Nat) (irq : Bool)
    (cmd : Option Nat) : Reply × State :=
  let f := s.takeFree
  ({ opcode, status, context, tag := p.tag, result := BitVec.ofNat 128 result, detail, tstamp := BitVec.ofNat 32 f.1,
     irq, cmd }, f.2)

/-- Delivers a formed reply over HUB0 (R16): to its function's held replies, or as a CPL_DATA on VC2 of its port, with the request's
LEN in LINES (R57, R62, R64, R103). A port that is not ACTIVE or in RECOVERY discards it, and the command ends (R57, R119). -/
def State.deliverLen (s : State) (via : Via) (len : Nat) (r : Reply) : State :=
  let s := s.crossHub 0 0 false { ctx := some (r.context.toNat % 4096) }
  match via with
  | .aperture fn => s.modFn fn.val fun f => { f with ring := { f.ring with held := f.ring.held ++ [r] } }
  | .link port ctx tag =>
    let s := s.sendLast port.val tag.toNat
        { vc := 2
          slots := [rspSlot 0x20 2 ctx.toNat tag.toNat 0 0 2 len true 0 0, BitVec.ofNat 256 (leNat (r.bytes false))]
          cmd := r.cmd }
    if (s.port port.val).live then s
    else
      match r.cmd with
      | some id => { s with cmds := s.cmds.filter fun c => c.id != id }
      | none => s

/-- Delivers the reply to a packet whose LEN is 0: every one that is not refused for it. -/
def State.deliver (s : State) (via : Via) (r : Reply) : State := s.deliverLen via 0 r

/-- Replies to an outstanding command: its reply is formed and its credit stays held until the reply is delivered (R60).
`context` replaces the packet's only for CTX_CREATE (R63). -/
def State.replyAs (s : State) (c : Cmd) (context : BitVec 16) (status result detail : Nat) : State :=
  if c.lost then { s with cmds := s.cmds.filter fun e => e.id != c.id }
  else
    let r := s.form c.opcode c.p context status result detail ((pIrq c.p) && !viaLink c.via) (some c.id)
    (r.2.modCmd c.id fun c => { c with st := .replied }).deliver c.via r.1

/-- Replies to an outstanding command with the packet's CONTEXT. -/
def State.reply (s : State) (c : Cmd) (status : Nat) (result : Nat := 0) (detail : Nat := 0) : State :=
  s.replyAs c c.p.context status result detail

/-- Replies to the command of a number, if it is still outstanding and not yet answered. -/
def State.replyTo (s : State) (id status : Nat) (result : Nat := 0) (detail : Nat := 0) : State :=
  match s.cmd? id with
  | some c => if c.st = .replied then s else s.reply c status result detail
  | none => s

/-- Refuses a packet at checks 1-4 (R61, R62): no credit, and one of the 256 places of the function's refusal buffer, or
no reply and DROPPED counted. A link packet is answered at once. -/
def State.refuse (s : State) (via : Via) (opcode : Nat) (p : Packet) (irq : Bool) (status : Nat) (result : Nat := 0)
    (detail : Nat := 0) (len : Nat := 0) : State :=
  let full : Bool := match via with
    | .aperture fn => decide (256 ≤ ((s.fn fn.val).ring.held.filter fun r => r.cmd.isNone).length)
    | .link _ _ _ => false
  if full then
    match via with
    | .aperture fn => s.modFn fn.val fun f =>
        { f with ring := { f.ring with dropped := satAdd f.ring.dropped 1 0xFFFF, dropSeen := true } }
    | .link _ _ _ => s
  else
    let r := s.form opcode p p.context status result detail irq none
    r.2.deliverLen via len r.1

/-- The context that a CMD's header names is not ACTIVE or not in its port's binding set (R35). -/
def State.unbound (s : State) : Via → Bool
  | .aperture _ => false
  | .link port ctx _ => !(s.isActive ctx.toNat && bit (s.ctx ctx.toNat).bind.toNat port.val)

/-- A CMD's refusal under R107 is counted in its port's counters (R35); its context is known once check 1 has passed (R432). -/
def State.countRefusal (s : State) (via : Via) : State :=
  match via with
  | .aperture _ => s
  | .link port ctx _ =>
    s.count 0x08 (port.val / 4) 0x08 { ctx := if s.unbound via then none else some ctx.toNat, port := some port.val }

/-! ## Command specifications -/

/-- What CONTEXT must name (R59). -/
inductive CtxRule where
  | zero
  | own
  | zeroOrOwn
  | anyActive
  | destroy
deriving DecidableEq, Repr

/-- Who executes a command (R69). -/
inductive Handler where
  | hw
  | sc
  | cc (core : Nat)
deriving DecidableEq, Repr

/-- The restart classes (R70). -/
inductive Restart where
  | rollback
  | keep
  | finish
deriving DecidableEq, Repr

/-- The processor of a handler (R373). -/
def Handler.proc : Handler → Option Nat
  | .hw => none
  | .sc => some 2
  | .cc n => some (3 + n)

/-- What the command unit needs to know of an opcode (R58, R59, R69-R81): paths, context rule, handler and class, the
parameter ranges defined, the encoding faults of check 5, and its start: check 6 and the effect. -/
structure CmdSpec where
  opcode   : Nat
  pfOnly   : Bool := false
  link     : Bool := true
  rule     : CtxRule := .own
  handler  : State → Packet → Handler := fun _ _ => .sc
  cls      : Packet → Restart := fun _ => .rollback
  defined  : List (Nat × Nat) := []
  faults   : State → Packet → List (Nat × Bool) := fun _ _ => []
  fnFaults : Nat → Packet → List (Nat × Bool) := fun _ _ => []
  start    : State → Cmd → State

/-- The function a packet acts for: the aperture's, or the owner of the header's context. -/
def State.viaFn (s : State) : Via → Nat
  | .aperture fn => fn.val
  | .link _ ctx _ => (s.ctx ctx.toNat).owner

/-- Check 3 (R58, R59). -/
def CmdSpec.allowed (c : CmdSpec) (s : State) (via : Via) (p : Packet) : Bool :=
  match via with
  | .link port ctx _ =>
    c.link && (pCtx p) = ctx.toNat && s.isActive (pCtx p) && bit (s.ctx (pCtx p)).bind.toNat port.val
  | .aperture fn =>
    (!c.pfOnly || fn.val = 0) &&
    (let mine := s.isActive (pCtx p) && (s.ctx (pCtx p)).owner = fn.val
     match c.rule with
     | .zero => (pCtx p) = 0
     | .own => mine
     | .zeroOrOwn => (pCtx p) = 0 || mine
     | .anyActive => s.isActive (pCtx p)
     | .destroy => (pCtx p) = 0 || mine || (fn.val = 0 && s.isActive (pCtx p)))

/-- The account that a packet's credit is held in: its context, or the function's allowance for CONTEXT 0 (R59). -/
def acctOf (fn : Nat) (p : Packet) : Nat := if (pCtx p) = 0 then 4096 + fn else (pCtx p)

/-- Outstanding commands of an account (R60). -/
def State.outstanding (s : State) (acct : Nat) : Nat := (s.cmds.filter fun c => c.acct == acct).length

/-- Two commands came on one submission path (R54): one aperture, or one port. -/
def samePath : Via → Via → Bool
  | .aperture a, .aperture b => a == b
  | .link a _ _, .link b _ _ => a == b
  | _, _ => false

/-- The processor that executes a command is restarting (R71, R376). -/
def State.handlerDown (s : State) (c : Cmd) : Bool :=
  match c.proc with
  | some i => (s.proc i).restarting
  | none => false

/-- Whether a parked command may start: its fence is met (R54), its function's Bus Master Enable is set and the device is
in D0 (R66, R367, R412), its handler runs (R71). -/
def State.mayStart (s : State) (c : Cmd) : Bool :=
  !((pFence c.p) && s.cmds.any fun e => e.id < c.id && samePath e.via c.via && (pCtx e.p) == (pCtx c.p))
  && (s.fn c.fn).bme && !s.hep.d3hot && !s.handlerDown c

/-- Starts a command if it may start, and leaves it parked otherwise. A command whose context has left ACTIVE since its
acceptance is refused (R29, log 27). -/
def State.tryStart (s : State) (spec : CmdSpec) (c : Cmd) : State :=
  if s.mayStart c then
    if pCtx c.p ≠ 0 && !s.isActive (pCtx c.p) then s.reply c stNoPerm
    else spec.start (s.modCmd c.id fun c => { c with st := .running }) { c with st := .running }
  else s

/-- Refuses a command at check 6 with BAD_PARAM and the offset of the field at fault (R55). -/
def State.bad (s : State) (c : Cmd) (off : Nat) : State := s.reply c stBadParam 0 off

/-- Whether a packet of a path reaches the command unit: the aperture answers (R355, R365, R367, R368), or the port is
ACTIVE and the device ready (R85, R121). -/
def State.reaches (s : State) (via : Via) : Bool :=
  s.running && (match via with
    | .aperture fn => (s.fn fn.val).mse && !(s.fn fn.val).flr && !s.hep.d3hot && s.hasFn fn.val
    | .link port _ _ => (s.port port.val).st == .active)

/-- A link CMD is counted and its tag becomes outstanding; a tag in use discards it (R108). None: discarded. -/
def State.arrive (s : State) (via : Via) : Option State :=
  match via with
  | .aperture _ => some s
  | .link port ctx tag =>
    let s := (s.fixed 0x08 (port.val / 4) 2 1).owe port.val 2 3
    if (s.port port.val).tags.contains tag.toNat then
      none
    else
      some ((s.modPort port.val fun p => { p with tags := tag.toNat :: p.tags }).count 0x08 (port.val / 4) 0x05
        { ctx := some ctx.toNat, port := some port.val })

/-- A request whose tag is already outstanding is discarded and counted as TAG_REUSE (R108). -/
def State.tagReuse (s : State) (port : Nat) : State :=
  ((s.fixed 0x08 (port / 4) 2 1).modPort port fun p => { p with err := orBit p.err 4 }).count 0x08 (port / 4) 0x14
    { port := some port }

/-- The remaining restart estimate of R71, in nominal microseconds: a free value of at most 50,000 (log 1). -/
def State.restartHint (s : State) : Nat × State :=
  let f := s.takeFree
  if s.scRunning then (0, f.2) else (f.1 % 50001, f.2)

/-- Accepts a packet (R60, R61, R69): it takes a credit of its account and waits among the outstanding commands, for the handler that its
operands name now. -/
def State.admission (s : State) (spec : CmdSpec) (via : Via) (p : Packet) : Cmd × State :=
  let fn := s.viaFn via
  let n := s.takeId
  let c : Cmd := { id := n.1, via, opcode := spec.opcode, p, fn := if (pCtx p) = 0 then fn else (s.ctx (pCtx p)).owner,
                   acct := acctOf fn p, st := .parked, proc := (spec.handler s p).proc }
  (c, ({ n.2 with cmds := n.2.cmds ++ [c] }).count 0x01 0 0x01 { ctx := some (pCtx p) })

/-- A CMD that fails check 1 of R107, before every check of R61 (R35): refused with NO_PERM and counted. -/
def State.refuseUnbound (s : State) (opcode : Nat) (via : Via) (p : Packet) : State :=
  (s.countRefusal via).refuse via opcode p false stNoPerm

/-- A packet crosses HUB0 to the command unit (R16, R69). -/
def State.cmdHop (s : State) (p : Packet) : State := s.crossHub 0 1 false { ctx := some (pCtx p) }

/-- The checks of R61 on a packet that names a defined opcode, acceptance, and the start. -/
def State.accept (s : State) (spec : CmdSpec) (via : Via) (p : Packet) : State :=
  let fn := s.viaFn via
  let irq := (pIrq p)
  if s.unbound via then s.refuseUnbound spec.opcode via p
  else if p.version ≠ 0x10 then s.refuse via spec.opcode p false stVersion 0x10
  else if !spec.allowed s via p then s.refuse via spec.opcode p irq stNoPerm
  else if 64 ≤ s.outstanding (acctOf fn p) || !s.scRunning || s.fwHolds 4 then
    let h := s.restartHint
    (h.2.count 0x01 0 0x02 { ctx := some (pCtx p) }).refuse via spec.opcode p irq stBusy 0 h.1
  else
    let a := s.admission spec via p
    match check5 p spec.defined (spec.faults a.2 p ++ spec.fnFaults a.1.fn p) with
    | some off => a.2.reply a.1 stBadParam 0 off
    | none => a.2.tryStart spec a.1

/-- A Fraist packet of an opcode arrives (R56, R57, R61). -/
def State.submit (s : State) (spec : CmdSpec) (via : Via) (p : Packet) : State :=
  if s.reaches via then
    match s.arrive via with
    | some s => (s.cmdHop p).accept spec via p
    | none => (match via with | .link port _ _ => (s.tagReuse port.val).owe port.val 2 3 | .aperture _ => s)
  else s

/-- A packet whose OPCODE is not defined (R61, checks 1 and 2). -/
def State.submitUndefined (s : State) (opcode : Nat) (via : Via) (p : Packet) : State :=
  if s.reaches via then
    match s.arrive via with
    | some s =>
      let s := s.cmdHop p
      if s.unbound via then s.refuseUnbound opcode via p
      else if p.version ≠ 0x10 then s.refuse via opcode p false stVersion 0x10
      else s.refuse via opcode p (pIrq p) stBadOpcode
    | none => (match via with | .link port _ _ => (s.tagReuse port.val).owe port.val 2 3 | .aperture _ => s)
  else s

/-- The cluster core that serves a unit (R69): CC0-CC3 for CHD0-3, CC4-CC5 for FLS0-1, CC6 for MEM0-4 and DIR0, CC7 for
MEM5-9 and DIR1. -/
def ccOfMem (die : Nat) : Nat := if die < 5 then 6 else 7

/-- Writes a held reply to the ring (R64, R65): one aligned 32-byte write to entry PROD mod N, PROD advanced, the
interrupt, and the end of the command (R60). -/
def State.ringWrite (s : State) (fn : Nat) : State :=
  let f := s.fn fn
  let g := f.ring
  if s.running && f.bme && !f.flr && !s.hep.d3hot && g.enabled && !g.full then
    match g.held with
    | [] => s
    | r :: _ =>
      let addr := 4096 * g.base.toNat + 32 * (g.prod.toNat % g.size)
      let s := s.emit (.hostWrite fn addr (r.bytes g.phase) false)
      let s := (s.count 0x01 0 0x05 { ctx := some (r.context.toNat % 4096) } 32).fixed 0x01 0 3 32
      let s := s.modFn fn fun f => { f with ring := { f.ring with prod := f.ring.prod + 1, held := f.ring.held.drop 1 } }
      let s := { s with cmds := s.cmds.filter fun c => some c.id != r.cmd }
      if r.irq || g.irqAll then s.raise fn g.vec else s
  else s

/-- Submits a transfer of a context or function: drops every outstanding command that a test names, without a reply (R66). -/
def State.dropCmds (s : State) (p : Cmd → Bool) : State := { s with cmds := s.cmds.filter fun c => !p c }

end Sys2Proof.Machine
end

