-- ==== Sys2Proof/Machine/Images.lean ====
section
/-!
DEFINITION. Pliust images (R261, R262, R264, R267): the verifier, and the end of KERNEL_LOAD, once the image has been read.
-/

namespace Sys2Proof.Machine

/-- The operand fields that an opcode's row of R263 names: D, A, B, C, then the number of FN values (0: FN unused), the FMT values
as a mask, and the mask of IMM bits used. -/
structure OpForm where
  d   : Bool := false
  a   : Bool := false
  b   : Bool := false
  c   : Bool := false
  fns : Nat := 0
  fmt : Nat := 1
  imm : Nat := 0

/-- The forms of the opcodes (R263, R264); none: the opcode is reserved. -/
def opForm (op fn : Nat) : Option OpForm :=
  match op with
  | 0x01 => some {}
  | 0x02 => some { a := true, imm := 0xFFFFFFFF }
  | 0x03 => some { a := true, b := true, fns := 6, imm := 0xFF }
  | 0x04 => some { d := true, fns := 2, imm := 0xFFFFFFFF }
  | 0x05 => some { d := true, a := true, b := true, fns := 11, fmt := 0b11, imm := 0xFFFFFFFF }
  | 0x06 => some { d := true, imm := 0xFFFFFFFF }
  | 0x07 => some { d := true, a := true, b := true, fmt := 0b11, imm := 0xF }
  | 0x08 => some { d := true, a := true, b := true, fmt := 0b11111, imm := 0xF }
  | 0x09 => some { d := true, a := true, b := true, fmt := 0b11 }
  | 0x0A => some { d := true, a := true, b := true, c := true, imm := 0xFFFFFFFF }
  | 0x0B => some { d := true, a := true, b := true, c := true, imm := 0xFFFFFFFF }
  | 0x0C => some { imm := 0xFFFF }
  | 0x0D => some { d := true, a := true, fmt := 0b111, imm := 0xFFFFFFFF }
  | 0x0E => some { d := true, a := true, fmt := 0b11, imm := 0xFFFFFFFF }
  | 0x0F => some { d := true, a := true, b := true, c := fn = 8, fns := 9 }
  | 0x10 => some { d := true, a := true, b := true, c := true, fmt := 0b11 }
  | 0x11 => some { d := true, a := true, fns := 5 }
  | 0x12 => some { d := true, a := true, fns := 4 }
  | 0x13 => some { d := true, a := true, fmt := 0b111, imm := 0xFFFFFFFF }
  | 0x14 => some { d := true, a := true, fmt := 0b11110 }
  | 0x15 => some {}
  | 0x16 => some { a := true, b := true, fns := 6, fmt := 0b111111, imm := 0x3F }
  | 0x17 => some { d := true, imm := 0xFFFFFFFF, fmt := 0b11 }
  | 0x18 => some {}
  | _ => none

/-- The offset within an instruction of its first field that breaks rule 2 or 7 of R267, if one does. -/
def instrFault (slabKb w : Nat) : Option Nat :=
  let op := bits w 7 0
  let fn := bits w 27 24
  let fmt := bits w 31 28
  let imm := bits w 63 32
  match opForm op fn with
  | none => some 0
  | some f =>
    lowestBad
      [(1, !f.d && bits w 11 8 != 0), (1, !f.a && bits w 15 12 != 0), (2, !f.b && bits w 19 16 != 0),
       (2, !f.c && bits w 23 20 != 0), (3, max f.fns 1 ≤ fn), (3, !bit f.fmt fmt),
       (3, op = 0x16 && (fn = 0) != (fmt = 0)), (4, imm &&& f.imm != imm),
       (4, op = 0x02 && imm % 2 ^ 24 = 0), (7, op = 0x02 && imm / 2 ^ 24 = 0),
       (4, op = 0x06 && 5 < imm), (4, op = 0x0C && imm = 0),
       (4, (op = 0x0D || op = 0x0E) && (imm % 64 != 0 || 1024 * slabKb ≤ imm))]

/-- A loop body open at an instruction: the index after it, and the product of the bounds. -/
abbrev Body := Nat × Nat

/-- Rules 3-6 of R267 over the instructions from index `i` on: the offset in the image of the first field at fault. `open_`
holds the bodies open, innermost first, `sum` the executions so far. -/
def flowFault (count : Nat) : List (BitVec 64) → Nat → List Body → Nat → Option Nat
  | [], _, _, _ => none
  | w :: t, i, open_, sum =>
    let w := w.toNat
    let op := bits w 7 0
    let imm := bits w 63 32
    let open_ := open_.filter fun b => i < b.1
    let times := (open_.head?.map (·.2)).getD 1
    let sum := sum + times
    let limit := (open_.head?.map (·.1)).getD (count - 1)
    let at_ := 64 + 8 * i
    if 2 ^ 32 < sum then some at_
    else if t.isEmpty && op ≠ 0x01 then some at_
    else if op = 0x02 then
      let stop := i + 1 + imm / 2 ^ 24
      if limit < stop || count - 1 < stop then some (at_ + 7)
      else if 4 ≤ open_.length then some at_
      else flowFault count t (i + 1) ((stop, times * (imm % 2 ^ 24)) :: open_) sum
    else if op = 0x03 && limit < i + 1 + imm % 256 then some (at_ + 4)
    else flowFault count t (i + 1) open_ sum

/-- The instruction words of an image. -/
def imageWords : Nat → List Byte → List (BitVec 64)
  | 0, _ => []
  | n + 1, l => BitVec.ofNat 64 (leNat (l.take 8)) :: imageWords n (l.drop 8)

/-- The first failing field of an image, by its byte offset (R267). -/
def imageFault (img : List Byte) : Option Nat :=
  let field (off n : Nat) : Nat := leNat ((img.drop off).take n)
  let count := field 4 2
  let head := lowestBad
    ([(0, field 0 2 != 0x504C), (2, field 2 1 != 0x10), (3, field 3 1 != 0),
      (4, count = 0 || 256 < count || img.length != 64 + 8 * count), (6, field 6 2 = 0 || 2048 < field 6 2),
      (8, decide (152 < field 8 1))]
     ++ (List.range 55).map fun k => (9 + k, field (9 + k) 1 != 0))
  match head with
  | some o => some o
  | none =>
    let ws := imageWords count (img.drop 64)
    let forms := (ws.mapIdx fun i w => (i, w)).findSome? fun e =>
      (instrFault (field 6 2) e.2.toNat).map fun o => 64 + 8 * e.1 + o
    match forms, flowFault count ws 0 [] 0 with
    | some a, some b => some (min a b)
    | some a, none => some a
    | none, r => r

/-- The kernel of a verified image. -/
def kernelOfImage (ctx : Nat) (img : List Byte) : Kernel :=
  { ctx, slabKb := leNat ((img.drop 6).take 2), maxEngines := leNat ((img.drop 8).take 1)
    code := imageWords (leNat ((img.drop 4).take 2)) (img.drop 64) }

/-- The handle of a loaded kernel (R247). -/
def kernelHandle (slot seq : Nat) : Nat := 0x80000000 + seq <<< 12 + slot

/-- The end of KERNEL_LOAD (R267): the image is verified and installed, or the kernel held already is named. -/
def State.loadKernel (s : State) (c : Cmd) (img : List Byte) : State :=
  match imageFault img with
  | some o => s.reply c stBadParam 0 (0x10000 + o)
  | none =>
    let ctx := pCtx c.p
    let k := kernelOfImage ctx img
    match s.disp.kernels.find? fun e => e.2 = { k with seq := e.2.seq } with
    | some (slot, old) => s.reply c 0 (kernelHandle slot old.seq)
    | none =>
      if 4096 ≤ s.disp.kernels.length || 16 ≤ (s.disp.kernels.filter fun e => e.2.ctx == ctx).length then s.reply c stNoSpace
      else
        match s.pick 4096 4096 fun n => !thas s.disp.kernels n with
        | (none, s) => s.reply c stNoSpace
        | (some slot, s) =>
          let seq := (tget 0 s.disp.kernelSeq slot + 1) % 65536
          (s.modDisp fun d => { d with
            kernels := tset d.kernels slot { k with seq }, kernelSeq := tput 0 d.kernelSeq slot seq }).reply c 0
              (kernelHandle slot seq)

/-- The image that a KERNEL_LOAD names within the whole lines or reads that hold it: its bytes from the address on. -/
def loadImage (c : Cmd) : List Byte :=
  let skip := if par c.p 8 1 = 0 then par c.p 16 8 % 64 else 0
  (c.data.drop skip).take (par c.p 24 2)

/-- Data of a command's own read arrive at an offset. -/
def Cmd.fill (c : Cmd) (off : Nat) (l : List Byte) : Cmd :=
  { c with data := c.data.take off ++ l ++ c.data.drop (off + l.length), aux := c.aux - 1 }

/-- A read of a KERNEL_LOAD from an LA ends (R267): an error ends the command, the last one brings the verifier. -/
def State.loadLines (s : State) (id off : Nat) (res : List (Nat × Line)) : State :=
  match s.cmd? id with
  | some c =>
    if c.st ≠ .running then s
    else
      match res.find? fun e => e.1 != 0 with
      | some e => s.reply c e.1
      | none =>
        let bytes := res.flatMap fun e => lineBytes e.2
        let c := c.fill off bytes
        let s := s.modCmd id fun c => c.fill off bytes
        if c.aux = 1 then s.loadKernel c (loadImage c) else s
  | none => s

end Sys2Proof.Machine
end

