-- ==== Sys2Proof/Machine/Float.lean ====
section
/-!
DEFINITION. Number formats (R240-R243, R281): FP32 and BF16 arithmetic, exact and rounded once to nearest even with
subnormals as zeros, MX elements, quantise-on-write and the integer atomics.
-/

namespace Sys2Proof.Machine

/-- A value: a NaN, an infinity, or sign, magnitude and exponent: (-1)^neg x mag x 2^exp. -/
inductive Num where
  | nan
  | inf (neg : Bool)
  | fin (neg : Bool) (mag : Nat) (exp : Int)
deriving DecidableEq, Repr

/-- Shifts right by k, rounding to nearest even. -/
def roundShift (m k : Nat) : Nat :=
  let f := m >>> k
  let rem := m % 2 ^ k
  if 2 ^ k < 2 * rem || (2 * rem = 2 ^ k && k ≠ 0 && f % 2 = 1) then f + 1 else f

/-- The bit pattern of a format with p significand bits and eight exponent bits: nearest even, overflow to infinity, a
subnormal result as zero of its sign (R242). -/
def packNum (p : Nat) : Num → Nat
  | .nan => 2 ^ (p + 7) - 2 ^ (p - 1) + 2 ^ (p - 2)
  | .inf neg => b2n neg * 2 ^ (p + 7) + 255 * 2 ^ (p - 1)
  | .fin neg m e =>
    let sign := b2n neg * 2 ^ (p + 7)
    if m = 0 then sign
    else
      let q : Int := max (e + m.log2 - (p - 1 : Nat)) (-126 - (p - 1 : Nat))
      let r := if q ≤ e then m <<< (e - q).toNat else roundShift m (q - e).toNat
      if r < 2 ^ (p - 1) then sign
      else
        let (r, q) := if r = 2 ^ p then (2 ^ (p - 1), q + 1) else (r, q)
        let field := q + (p - 1 : Nat) + 127
        if 255 ≤ field then sign + 255 * 2 ^ (p - 1)
        else sign + field.toNat * 2 ^ (p - 1) + (r - 2 ^ (p - 1))

/-- The value of such a pattern; a subnormal input reads as zero of its sign (R242). -/
def unpackNum (p v : Nat) : Num :=
  let neg := bit v (p + 7)
  let field := bits v (p + 6) (p - 1)
  let frac := v % 2 ^ (p - 1)
  if field = 255 then (if frac = 0 then .inf neg else .nan)
  else if field = 0 then .fin neg 0 0
  else .fin neg (2 ^ (p - 1) + frac) (field - 127 - (p - 1 : Nat))

def num32 (v : Nat) : Num := unpackNum 24 v
def bits32 (x : Num) : Nat := packNum 24 x
def num16 (v : Nat) : Num := unpackNum 8 v
def bits16 (x : Num) : Nat := packNum 8 x

/-- The integer value of a finite number in units of 2^e. -/
def scaled (neg : Bool) (m : Nat) (x e : Int) : Int :=
  let v : Int := (m <<< (x - e).toNat : Nat)
  if neg then -v else v

/-- The exact sum; a zero sum is +0 unless both are -0 (IEEE 754). -/
def Num.add : Num → Num → Num
  | .nan, _ => .nan
  | _, .nan => .nan
  | .inf a, .inf b => if a = b then .inf a else .nan
  | .inf a, _ => .inf a
  | _, .inf b => .inf b
  | .fin na ma ea, .fin nb mb eb =>
    let e := min ea eb
    let v := scaled na ma ea e + scaled nb mb eb e
    if v = 0 then .fin (na && nb) 0 0 else .fin (v < 0) v.natAbs e

/-- The exact product. -/
def Num.mul : Num → Num → Num
  | .nan, _ => .nan
  | _, .nan => .nan
  | .inf a, .inf b => .inf (a ^^ b)
  | .inf a, .fin b m _ => if m = 0 then .nan else .inf (a ^^ b)
  | .fin a m _, .inf b => if m = 0 then .nan else .inf (a ^^ b)
  | .fin a ma ea, .fin b mb eb => .fin (a ^^ b) (ma * mb) (ea + eb)

/-- The opposite. -/
def Num.neg : Num → Num
  | .nan => .nan
  | .inf a => .inf !a
  | .fin a m e => .fin (!a) m e

/-- The magnitude. -/
def Num.abs : Num → Num
  | .nan => .nan
  | .inf _ => .inf false
  | .fin _ m e => .fin false m e

/-- The quotient to 64 bits with a sticky bit, enough for one rounding. -/
def Num.div : Num → Num → Num
  | .nan, _ => .nan
  | _, .nan => .nan
  | .inf _, .inf _ => .nan
  | .inf a, .fin b _ _ => .inf (a ^^ b)
  | .fin a _ _, .inf b => .fin (a ^^ b) 0 0
  | .fin a ma ea, .fin b mb eb =>
    if mb = 0 then (if ma = 0 then .nan else .inf (a ^^ b))
    else if ma = 0 then .fin (a ^^ b) 0 0
    else
      let n := ma <<< 64
      .fin (a ^^ b) (2 * (n / mb) + b2n (n % mb != 0)) (ea - eb - 65)

/-- The square root with a sticky bit; of a negative number a NaN, of -0 it is -0. -/
def Num.sqrt : Num → Num
  | .nan => .nan
  | .inf a => if a then .nan else .inf false
  | .fin a m e =>
    if m = 0 then .fin a 0 0
    else if a then .nan
    else
      let odd := b2n (e % 2 != 0)
      let n := m <<< (64 + odd)
      let r := n.sqrt
      .fin false (2 * r + b2n (r * r != n)) ((e - odd - 64) / 2 - 1)

/-- a < b, with -0 below +0 (R281); false if either is a NaN. -/
def Num.lt : Num → Num → Bool
  | .nan, _ => false
  | _, .nan => false
  | .inf a, .inf b => a && !b
  | .inf a, _ => a
  | _, .inf b => !b
  | .fin na ma ea, .fin nb mb eb =>
    let e := min ea eb
    let x := scaled na ma ea e
    let y := scaled nb mb eb e
    decide (x < y) || (x = 0 && y = 0 && na && !nb)

def Num.isNan : Num → Bool
  | .nan => true
  | _ => false

def f32add (a b : Nat) : Nat := bits32 ((num32 a).add (num32 b))
def f32mul (a b : Nat) : Nat := bits32 ((num32 a).mul (num32 b))
/-- a x b + c, rounded once. -/
def f32fma (a b c : Nat) : Nat := bits32 (((num32 a).mul (num32 b)).add (num32 c))
def f32neg (a : Nat) : Nat := bits32 (num32 a).neg
def f32abs (a : Nat) : Nat := bits32 (num32 a).abs
def f32sub (a b : Nat) : Nat := f32add a (f32neg b)
def f32div (a b : Nat) : Nat := bits32 ((num32 a).div (num32 b))
def f32sqrt (a : Nat) : Nat := bits32 (num32 a).sqrt
def bf16add (a b : Nat) : Nat := bits16 ((num16 a).add (num16 b))
/-- FP32 minimum and maximum: a NaN against a number gives the number (R281). -/
def f32min (a b : Nat) : Nat :=
  if (num32 a).isNan then (if (num32 b).isNan then 0x7FC00000 else bits32 (num32 b))
  else if (num32 b).isNan then bits32 (num32 a)
  else bits32 (if (num32 b).lt (num32 a) then num32 b else num32 a)
def f32max (a b : Nat) : Nat :=
  if (num32 a).isNan then (if (num32 b).isNan then 0x7FC00000 else bits32 (num32 b))
  else if (num32 b).isNan then bits32 (num32 a)
  else bits32 (if (num32 a).lt (num32 b) then num32 b else num32 a)

/-- Exact results scaled by a power of two, rounded once. -/
def Num.scale (k : Int) : Num → Num
  | .fin a m e => .fin a m (e + k)
  | x => x

/-- The sum of values in an order and grouping that the free values pick (R242, R255): repeatedly two of them give way to their
sum, rounded to FP32. -/
def sumFree (seed : Nat) : Nat → List Num → Num
  | 0, l => l.headD (.fin false 0 0)
  | fuel + 1, l =>
    if l.length < 2 then l.headD (.fin false 0 0)
    else
      let f := Config.free seed
      let i := f % l.length
      let rest := l.eraseIdx i
      let j := f / l.length % rest.length
      let x := l[i]?.getD .nan
      let y := rest[j]?.getD .nan
      sumFree (seed + 1) fuel (num32 (bits32 (x.add y)) :: rest.eraseIdx j)

/-! ## MX formats (R240, R241, R243) -/

/-- An MX element format: exponent bits, mantissa bits, bias, emax, the largest finite magnitude's code and which codes are
special. -/
inductive Mx where
  | e4m3
  | e5m2
  | e3m2
  | e2m3
  | e2m1
deriving DecidableEq, Repr

def Mx.expBits : Mx → Nat
  | .e4m3 => 4 | .e5m2 => 5 | .e3m2 => 3 | .e2m3 => 2 | .e2m1 => 2
def Mx.manBits : Mx → Nat
  | .e4m3 => 3 | .e5m2 => 2 | .e3m2 => 2 | .e2m3 => 3 | .e2m1 => 1
def Mx.bias : Mx → Int
  | .e4m3 => 7 | .e5m2 => 15 | .e3m2 => 3 | .e2m3 => 1 | .e2m1 => 1
/-- emax of R243. -/
def Mx.emax : Mx → Int
  | .e4m3 => 8 | .e5m2 => 15 | .e3m2 => 4 | .e2m3 => 2 | .e2m1 => 2
/-- The code of the largest magnitude. -/
def Mx.maxCode : Mx → Nat
  | .e4m3 => 0x7E | .e5m2 => 0x7B | .e3m2 => 0x1F | .e2m3 => 0x1F | .e2m1 => 0x7
def Mx.width (f : Mx) : Nat := 1 + f.expBits + f.manBits

/-- The value of an element, subnormals exact (R242); E4M3 has a NaN, E5M2 NaNs and infinities (OCP Microscaling v1.0). -/
def Mx.value (f : Mx) (v : Nat) : Num :=
  let neg := bit v (f.width - 1)
  let field := bits v (f.width - 2) f.manBits
  let frac := v % 2 ^ f.manBits
  if f = .e4m3 && v % 128 = 0x7F then .nan
  else if f = .e5m2 && field = 31 then (if frac = 0 then .inf neg else .nan)
  else if field = 0 then .fin neg frac (1 - f.bias - f.manBits)
  else .fin neg (2 ^ f.manBits + frac) (field - f.bias - f.manBits)

/-- An element under its E8M0 scale: 0xFF is a NaN. -/
def Mx.scaledValue (f : Mx) (scale v : Nat) : Num :=
  if scale = 0xFF then .nan else (f.value v).scale (scale - 127)

/-- Rounds a finite value to an element, nearest even, and says whether it saturated (R243). -/
def Mx.encode (f : Mx) : Num → Nat × Bool
  | .nan => (0, false)
  | .inf neg => (b2n neg * 2 ^ (f.width - 1) + f.maxCode, true)
  | .fin neg m e =>
    let sign := b2n neg * 2 ^ (f.width - 1)
    if m = 0 then (sign, false)
    else
      let q : Int := max (e + m.log2 - f.manBits) (1 - f.bias - f.manBits)
      let r := if q ≤ e then m <<< (e - q).toNat else roundShift m (q - e).toNat
      -- r counts units of 2^q; the code of a magnitude is linear in (field, fraction)
      let field := (q - (1 - f.bias - f.manBits)).toNat
      let code := if r < 2 ^ f.manBits then r else (field + 1) * 2 ^ f.manBits + (r - 2 ^ f.manBits)
      if f.maxCode < code then (sign + f.maxCode, true) else (sign + code, false)

/-- floor(log2) of a finite magnitude. -/
def Num.log2 : Num → Option Int
  | .fin _ m e => if m = 0 then none else some (e + m.log2)
  | _ => none

/-- Quantise-on-write of up to 32 FP32 values to MX (R243): the scale byte, the elements and how many saturated. -/
def Mx.quantise (f : Mx) (vals : List Nat) : Nat × List Nat × Nat :=
  let xs := vals.map num32
  if xs.any Num.isNan then (0xFF, vals.map fun _ => 0, 0)
  else
    let xs := xs.map fun x => match x with | .inf a => Num.fin a 0xFFFFFF 104 | x => x
    match (xs.filterMap fun x => x.log2).max? with
    | none => (0x7F, vals.map fun _ => 0, 0)
    | some lg =>
      let x := max (-127) (min 127 (lg - f.emax))
      let es := xs.map fun v => f.encode (v.scale (-x))
      ((x + 127).toNat, es.map (·.1), (es.filter (·.2)).length)

/-- FP32 to BF16: nearest even, every NaN 0x7FC0 (R243). -/
def toBf16 (v : Nat) : Nat := bits16 (num32 v)

/-- BF16 to FP32, exact. -/
def ofBf16 (v : Nat) : Nat := bits32 (num16 v)

/-- Moves an FP32 pattern by k - 2 ulp of its magnitude, for results known within 2 ulp (R242); what falls below the least
normal number is a zero of its sign. -/
def ulpMove (v : Nat) (k : Fin 5) : Nat :=
  if (num32 v).isNan || bits v 30 23 = 255 || bits v 30 0 = 0 then v
  else
    let m := v + k.val - 2
    if bits m 30 23 = 255 then m - m % 2 ^ 23
    else if bits m 30 23 = 0 then m - m % 2 ^ 23 else m

/-- A pattern within 2 ulp of a number (R242): the number cut off, moved by -1 to 2 patterns, or by -2 where the cut is exact. -/
def nearUlp (x : Num) (k : Fin 5) : Nat :=
  match x with
  | .fin neg m e =>
    let cut := m >>> (m.log2 - 23)
    let exact := cut <<< (m.log2 - 23) == m
    ulpMove (bits32 (.fin neg cut (e + (m.log2 - 23 : Nat)))) (if k = 0 && !exact then 1 else k)
  | _ => bits32 x

/-- The fraction bits of the base-2 logarithm of x / 2^256, which lies in [1, 2), by repeated squaring. -/
def log2Bits : Nat → Nat → Nat → Nat
  | 0, _, acc => acc
  | n + 1, x, acc =>
    let y := (x * x) >>> 256
    if 2 ^ 257 ≤ y then log2Bits n (y / 2) (2 * acc + 1) else log2Bits n y (2 * acc)

/-- The base-2 logarithm to 80 fraction bits: of a zero -infinity, of a negative number a NaN (IEEE 754). -/
def Num.logTwo : Num → Num
  | .nan => .nan
  | .inf neg => if neg then .nan else .inf false
  | .fin neg m e =>
    if m = 0 then .inf true
    else if neg then .nan
    else
      let v : Int := (e + m.log2) * (2 ^ 80 : Nat) + (log2Bits 80 (m <<< (256 - m.log2)) 0 : Nat)
      .fin (v < 0) v.natAbs (-80)

/-- acc times 2 to the power of a fraction, whose bits below 2^n of f are left to see; c is 2^(1/2), 2^(1/4), … in turn. -/
def exp2Bits : Nat → Nat → Nat → Nat → Nat
  | 0, _, _, acc => acc
  | n + 1, f, c, acc => exp2Bits n f (c <<< 128).sqrt (if bit f n then (acc * c) >>> 128 else acc)

/-- 2 to the power of a number, to more than 60 bits. -/
def Num.expTwo : Num → Num
  | .nan => .nan
  | .inf neg => if neg then .fin false 0 0 else .inf false
  | .fin neg m e =>
    if 8 < e + m.log2 then (if m = 0 then .fin false 1 0 else if neg then .fin false 0 0 else .inf false)
    else
      -- the exponent in units of 2^-64, rounded down
      let u : Int := if 0 ≤ e + 64 then (m <<< (e + 64).toNat : Nat) else (m >>> (-(e + 64)).toNat : Nat)
      let u : Int := if neg then -u else u
      .fin false (exp2Bits 64 (u % (2 ^ 64 : Nat)).toNat (2 ^ 257).sqrt (2 ^ 128)) (u / (2 ^ 64 : Nat) - 128)

/-- The reciprocal square root: of -0 -infinity (IEEE 754). -/
def Num.rsqrt : Num → Num
  | .nan => .nan
  | .inf neg => if neg then .nan else .fin false 0 0
  | .fin neg m e =>
    if m = 0 then .inf neg
    else if neg then .nan
    else ((Num.fin false 1 0).div (.fin false m e)).sqrt

/-! ## Atomic operations (R105, R281) -/

/-- The bytes of a scalar operand (R105). -/
def atomBytes (awidth : Nat) : Nat := if awidth = 1 || awidth = 5 then 8 else 4

/-- The combinations of ATOP and AWIDTH that a scalar ATOM allows (R105). -/
def atomAllowed (atop awidth : Nat) : Bool :=
  match atop with
  | 0 => awidth ≤ 3
  | 1 => awidth ≤ 2 || awidth = 4 || awidth = 5
  | 2 => awidth ≤ 2 || awidth = 4 || awidth = 5
  | 3 => awidth ≤ 1
  | 4 => awidth = 1
  | 5 => awidth ≤ 1
  | 6 => awidth ≤ 1
  | 7 => awidth ≤ 1
  | _ => false

/-- Two packed BF16 additions (R281). -/
def bf16x2add (old a : Nat) : Nat :=
  bf16add (old % 65536) (a % 65536) + bf16add (bits old 31 16) (bits a 31 16) <<< 16

/-- A number read as signed of n bits. -/
def signed (n v : Nat) : Int := if v < 2 ^ (n - 1) then v else (v : Int) - (2 ^ n : Nat)

/-- The stored result of a scalar atomic (R281); none: nothing is written. -/
def atomResult (atop awidth old a b : Nat) : Option Nat :=
  let n := 8 * atomBytes awidth
  let a := a % 2 ^ n
  let less (x y : Nat) : Bool := if awidth ≤ 1 then decide (signed n x < signed n y) else decide (x < y)
  match atop with
  | 0 => some (match awidth with | 2 => f32add old a | 3 => bf16x2add old a | _ => (old + a) % 2 ^ n)
  | 1 => some (if awidth = 2 then f32min old a else if less a old then a else old)
  | 2 => some (if awidth = 2 then f32max old a else if less old a then a else old)
  | 3 => some a
  | 4 => if old = b % 2 ^ n then some a else none
  | 5 => some (old &&& a)
  | 6 => some (old ||| a)
  | 7 => some (old ^^^ a)
  | _ => none

/-- Lanes of a number: `n` fields of `w` bits. -/
def lanes (w : Nat) : Nat → Nat → List Nat
  | 0, _ => []
  | n + 1, v => v % 2 ^ w :: lanes w n (v >>> w)

/-- The number that lanes of `w` bits spell. -/
def unlanes (w : Nat) : List Nat → Nat
  | [] => 0
  | x :: t => x % 2 ^ w + (unlanes w t) <<< w

/-- VADD of a line (R281): 16 FP32 or 32 BF16 lanes. -/
def vaddLine (awidth : Nat) (old v : Line) : Line :=
  if awidth = 2 then
    BitVec.ofNat 512 (unlanes 32 (((lanes 32 16 old.toNat).zip (lanes 32 16 v.toNat)).map fun p => f32add p.1 p.2))
  else
    BitVec.ofNat 512 (unlanes 16 (((lanes 16 32 old.toNat).zip (lanes 16 32 v.toNat)).map fun p => bf16add p.1 p.2))

/-- The FP32 elements that the source lines of an ACC add (R106): as they are, or BF16 widened exactly. -/
def accSource (awidth : Nat) (data : List Line) : List Nat :=
  if awidth = 2 then data.flatMap fun l => lanes 32 16 l.toNat
  else data.flatMap fun l => (lanes 16 32 l.toNat).map ofBf16

/-- One target line of an ACC: 16 FP32 elements added. -/
def accLine (old : Line) (src : List Nat) : Line :=
  BitVec.ofNat 512 (unlanes 32 (((lanes 32 16 old.toNat).zip src).map fun p => f32add p.1 p.2))

end Sys2Proof.Machine
end

