-- ==== Sys2Proof/Machine/Galois.lean ====
section
/-!
DEFINITION. Arithmetic in GF(2^8), and the Reed-Solomon codes with eight check symbols and generator roots a^0 to a^7: RS(128,120) of
the link's flits (R88) and RS(72,64) of code S (R306).
-/

namespace Sys2Proof.Machine

/-! ## The field -/

/-- Multiplication in GF(2^8) with a given polynomial of degree 8. -/
def gfMulBy (poly a b : Nat) : Nat :=
  (List.range 8).reverse.foldl (fun r i =>
    let d := 2 * r
    let d := if 256 ≤ d then d ^^^ poly else d
    if b.testBit i then d ^^^ a else d) 0

/-- Multiplication with x^8 + x^4 + x^3 + x^2 + 1 (R88, R306). -/
def gfMul (a b : Nat) : Nat := gfMulBy 0x11D a b

/-- The power a^n of the root of the polynomial. -/
def gfExp : Nat → Nat
  | 0 => 1
  | n + 1 => gfMul 2 (gfExp n)

/-- The inverse of an element: its power 254. -/
def gfInv (a : Nat) : Nat :=
  ((List.range 7).foldl (fun (q : Nat × Nat) _ => (gfMul q.1 q.1, gfMul q.2 (gfMul q.1 q.1))) (a, 1)).2

/-- The sum of elements. -/
def gfSum (l : List Nat) : Nat := l.foldl (fun a b => a ^^^ b) 0

/-- The value of a polynomial, its lowest coefficient first. -/
def gfEval (p : List Nat) (x : Nat) : Nat := p.foldr (fun c r => gfMul r x ^^^ c) 0

/-- The sum of two polynomials, lowest coefficient first. -/
def gfAddPoly : List Nat → List Nat → List Nat
  | [], q => q
  | p, [] => p
  | a :: p, b :: q => (a ^^^ b) :: gfAddPoly p q

/-- The product of two polynomials, lowest coefficient first. -/
def gfMulPoly : List Nat → List Nat → List Nat
  | [], _ => []
  | a :: p, q => gfAddPoly (q.map (gfMul a)) (0 :: gfMulPoly p q)

/-! ## Encoding -/

/-- The generator polynomial less its leading 1, highest power first: the product of x - a^i, i = 0-7. -/
def rsGenerator : List Nat := (List.range 8).foldl (fun g i => step g (gfExp i)) []
where
  /-- Multiplies a monic polynomial by x + r. -/
  step (g : List Nat) (r : Nat) : List Nat :=
    let full := 1 :: g
    List.zipWith (fun (a b : Nat) => a ^^^ b) (full.drop 1 ++ [0]) (full.map (gfMul r))

/-- The eight check symbols of data symbols; symbol 0 is the coefficient of the highest power (R88, R306, log 32). -/
def rsCheck (data : List Byte) : List Byte :=
  (data.foldl (fun (r : List Nat) d =>
    let f := r.headD 0 ^^^ d.toNat
    List.zipWith (fun (a b : Nat) => a ^^^ b) (r.drop 1 ++ [0]) (rsGenerator.map (gfMul f))) (List.replicate 8 0)).map (BitVec.ofNat 8)

/-! ## Decoding: at most four symbol errors (R88, R306) -/

/-- Syndrome `j` of a word of symbols: its value at a^j. -/
def rsSyndrome (w : List Nat) (j : Nat) : Nat := w.foldl (fun r c => gfMul r (gfExp j) ^^^ c) 0

/-- The eight syndromes: all zero exactly for a codeword. -/
def rsSyndromes (w : List Nat) : List Nat := (List.range 8).map (rsSyndrome w)

/-- The error locator of eight syndromes, lowest coefficient first (Berlekamp-Massey). -/
def rsLocator (syn : List Nat) : List Nat :=
  ((List.range 8).foldl step ([1], [1], 0, 1, 1)).1
where
  /-- One step: the locator, the last one before its length changed, the length, the steps since, and that step's discrepancy. -/
  step (a : List Nat × List Nat × Nat × Nat × Nat) (n : Nat) : List Nat × List Nat × Nat × Nat × Nat :=
    let (c, b, len, m, d0) := a
    let d := gfSum ((List.range (len + 1)).map fun i => gfMul (c.getD i 0) (syn.getD (n - i) 0))
    if d = 0 then (c, b, len, m + 1, d0)
    else
      let next := gfAddPoly c ((List.replicate m 0 ++ b).map (gfMul (gfMul d (gfInv d0))))
      if 2 * len ≤ n then (next, c, n + 1 - len, 1, d) else (next, b, len, m + 1, d0)

/-- The degree of a polynomial. -/
def gfDegree (p : List Nat) : Nat := ((p.mapIdx fun i c => if c = 0 then 0 else i).max?).getD 0

/-- The error at a position, from the locator and the syndromes (Forney). -/
def rsValue (locator syn : List Nat) (x : Nat) : Nat :=
  let omega := (gfMulPoly syn locator).take 8
  let slope := (locator.mapIdx fun i c => if i % 2 = 1 then c else 0).drop 1
  gfMul x (gfMul (gfEval omega (gfInv x)) (gfInv (gfEval slope (gfInv x))))

/-- The errors of a word, as positions with values to XOR; none where no codeword lies within four symbols. -/
def rsErrors (w : List Nat) : Option (List (Nat × Nat)) :=
  let syn := rsSyndromes w
  if syn.all (· == 0) then some []
  else
    let loc := rsLocator syn
    let found := (List.range w.length).filter fun i => gfEval loc (gfInv (gfExp (w.length - 1 - i))) = 0
    let errs := found.map fun i => (i, rsValue loc syn (gfExp (w.length - 1 - i)))
    let fixed := errs.foldl (fun v e => v.modify e.1 (· ^^^ e.2)) w
    if found.length ≤ 4 && gfDegree loc = found.length && (rsSyndromes fixed).all (· == 0) then some errs else none

end Sys2Proof.Machine
end

