-- ==== Sys2Proof/Machine/Aes.lean ====
section
/-!
DEFINITION. AES-256 and its XTS mode as IEEE 1619 defines them, for the encryption of stored lines (R47): a data unit of 64 bytes, a
key pair of 512 bits, and the tweak of R48.
-/

namespace Sys2Proof.Machine.Aes

/-- The S-box, 32 entries a row, the first in the least significant byte. -/
def sboxRows : List Nat :=
  [0xC072A49CAFA2D4ADF04759FA7DC982CA76ABD7FE2B670130C56F6BF27B777C63,
   0x75B227EBE28012079A059618C323C7041531D871F1E5A534CCF73F362693FDB7,
   0xCF584C4A39BECB6A5BB1FC20ED00D153842FE329B3D63B52A05A6E1B1A2C8309,
   0xD2F3FF1021DAB6BCF5389D928F40A351A89F3C507F02F94585334D43FBAAEFD0,
   0xDB0B5EDE14B8EE4688902A22DC4F816073195D643D7EA7C41744975FEC130CCD,
   0x08AE7A65EAF4566CA94ED58D6D37C8E779E4959162ACD3C25C2406490A3A32E0,
   0x9E1DC186B95735610EF6034866B53E708A8BBD4B1F74DDE8C6B4A61C2E2578BA,
   0x16BB54B00F2D99416842E6BF0D89A18CDF2855CEE9871E9B948ED9691198F8E1]

/-- The S-box. -/
def sbox (b : Nat) : Nat := (sboxRows.getD (b / 32) 0 >>> (8 * (b % 32))) % 256

/-- The inverse of the S-box. -/
def sboxInv (b : Nat) : Nat := ((List.range 256).find? fun a => sbox a = b).getD 0

/-- Multiplication in the field of AES. -/
def mul (a b : Nat) : Nat := gfMulBy 0x11B a b

/-- XOR of byte lists. -/
def xor (a b : List Nat) : List Nat := List.zipWith (fun x y : Nat => x ^^^ y) a b

/-- The key schedule: `n` further words after those in `w`, newest first; `i` counts the words so far. -/
def schedule : Nat → Nat → List (List Nat) → List (List Nat)
  | 0, _, w => w
  | n + 1, i, w =>
    let last := w.headD []
    let t :=
      if i % 8 = 0 then xor ((last.drop 1 ++ last.take 1).map sbox) [2 ^ (i / 8 - 1), 0, 0, 0]
      else if i % 8 = 4 then last.map sbox
      else last
    schedule n (i + 1) (xor (w.getD 7 []) t :: w)

/-- Splits bytes into groups of a size. -/
def groups (size : Nat) : Nat → List Nat → List (List Nat)
  | 0, _ => []
  | n + 1, l => l.take size :: groups size n (l.drop size)

/-- The 15 round keys of a 32-byte key. -/
def roundKeys (key : List Nat) : List (List Nat) :=
  groups 16 15 (schedule 52 8 (groups 4 8 key).reverse).reverse.flatten

/-- ShiftRows by `d` columns a row; byte `4c + r` is row r of column c. -/
def shiftRows (d : Nat) (s : List Nat) : List Nat := (List.range 16).map fun i => s.getD (4 * ((i / 4 + d * (i % 4)) % 4) + i % 4) 0

/-- MixColumns with the circulant matrix of a row. -/
def mixColumns (row : List Nat) (s : List Nat) : List Nat :=
  (List.range 16).map fun i =>
    gfSum ((List.range 4).map fun j => mul (row.getD ((j + 4 - i % 4) % 4) 0) (s.getD (4 * (i / 4) + j) 0))

/-- Encrypts a 16-byte block under round keys. -/
def encrypt : List (List Nat) → List Nat → List Nat
  | [], s => s
  | k :: ks, s => rounds ks (xor s k)
where
  /-- The rounds; the last has no MixColumns. -/
  rounds : List (List Nat) → List Nat → List Nat
    | [], s => s
    | [k], s => xor (shiftRows 1 (s.map sbox)) k
    | k :: ks, s => rounds ks (xor (mixColumns [2, 3, 1, 1] (shiftRows 1 (s.map sbox))) k)

/-- Decrypts a 16-byte block under round keys given last first. -/
def decrypt : List (List Nat) → List Nat → List Nat
  | [], s => s
  | k :: ks, s => rounds ks (xor s k)
where
  /-- The inverse rounds. -/
  rounds : List (List Nat) → List Nat → List Nat
    | [], s => s
    | [k], s => xor ((shiftRows 3 s).map sboxInv) k
    | k :: ks, s => rounds ks (mixColumns [14, 11, 13, 9] (xor ((shiftRows 3 s).map sboxInv) k))

/-- The bytes of a number. -/
def bytesOf (n v : Nat) : List Nat := (leBytes n v).map (·.toNat)

/-- The number of bytes. -/
def natOf (l : List Nat) : Nat := leNat (l.map (BitVec.ofNat 8))

/-- Multiplies an XTS tweak by the primitive element of GF(2^128). -/
def nextTweak (t : Nat) : Nat := (2 * t) % 2 ^ 128 ^^^ (if bit t 127 then 0x87 else 0)

/-- The tweaks of the four blocks of a data unit, from the encrypted tweak. -/
def tweaks (t : Nat) : List Nat := [t, nextTweak t, nextTweak (nextTweak t), nextTweak (nextTweak (nextTweak t))]

/-- One data unit of 64 bytes under XTS: `unit` is the block cipher applied to each block between the two XORs of its tweak. The
low 256 bits of the key pair are the data key, the high 256 bits the tweak key. -/
def xts (unit : List Nat → List Nat) (key2 : Nat) (tweak : BitVec 128) (v : Line) : Line :=
  let t := natOf (encrypt (roundKeys (bytesOf 32 key2)) (bytesOf 16 tweak.toNat))
  BitVec.ofNat 512 (((tweaks t).mapIdx fun j t =>
    (natOf (unit (bytesOf 16 (bits v.toNat (128 * j + 127) (128 * j) ^^^ t))) ^^^ t) <<< (128 * j)).sum)

/-- XTS encryption of a line (R47). -/
def xtsEncrypt (key : BitVec 512) (tweak : BitVec 128) (v : Line) : Line :=
  xts (encrypt (roundKeys (bytesOf 32 (bits key.toNat 255 0)))) (bits key.toNat 511 256) tweak v

/-- XTS decryption of a line (R47). -/
def xtsDecrypt (key : BitVec 512) (tweak : BitVec 128) (v : Line) : Line :=
  xts (decrypt (roundKeys (bytesOf 32 (bits key.toNat 255 0))).reverse) (bits key.toNat 511 256) tweak v

/-- The tweak of a line (R48): the line number in bits [42:0], the region generation in bits [87:64]. -/
def tweak (line gen : Nat) : BitVec 128 := BitVec.ofNat 128 (line % 2 ^ 43 + (gen % 2 ^ 24) <<< 64)

end Sys2Proof.Machine.Aes
end

