-- ==== Sys2Proof/Machine/LineCode.lean ====
section
/-!
DEFINITION. The codes of a stored line (R306, R307): its 64 bytes with check bytes 0-7, 576 bits; byte j is bits [8j+7 : 8j], the check
bytes are bytes 64-71. The marker of a headed block's line 0 and the two hypotheses of its check (R184). Both codes are linear, so
what a check finds depends on the error pattern of the stored copy alone: the checks below take that pattern.
-/

namespace Sys2Proof.Machine

/-- A stored line with its check bytes. -/
abbrev Stored := BitVec 576

/-! ## Code S (R306) -/

/-- The eight check bytes of a line under code S: data byte 0 is the first symbol (log 119). -/
def checkBytesS (v : Line) : BitVec 64 := BitVec.ofNat 64 (leNat (rsCheck (lineBytes v)))

/-- A correction by code S: what to XOR, and the number of symbols corrected; none where it is uncorrectable. -/
def fixS (e : Stored) : Option (Stored × Nat) :=
  (rsErrors ((leBytes 72 e.toNat).map (·.toNat))).map fun l =>
    (BitVec.ofNat 576 (l.map fun p => p.2 <<< (8 * p.1)).sum, l.length)

/-! ## Code L (R307) -/

/-- The number of bits set among the low `n`. -/
def popCount : Nat → Nat → Nat
  | 0, _ => 0
  | n + 1, v => b2n (bit v n) + popCount n v

/-- The bytes of weight 3 in rising order, then the rotations of 0x1F: a Hsiao matrix, which serves where Config's is none. -/
def hsiaoDefault : List Nat :=
  ((List.range 256).filter fun v => popCount 8 v = 3) ++ (List.range 8).map fun i => (0x1F <<< i) % 256 + 0x1F >>> (8 - i)

/-- 64 columns make a Hsiao matrix: distinct, of weight 3 or 5 with eight of weight 5, each row alike. -/
def hsiaoOk (c : List Nat) : Bool :=
  c.length == 64 && c.eraseDups.length == 64 && c.all (fun v => popCount 8 v == 3 || popCount 8 v == 5) &&
  (c.filter fun v => popCount 8 v == 5).length == 8 && (List.range 8).all fun i => (c.filter fun v => bit v i).length == 26

/-- The columns of the 64 data bits of a word: those of Config if they make a Hsiao matrix. Those of the check bits are the unit
bytes. -/
def hsiaoColumns : List Nat :=
  let c := (List.range 64).map fun j => (Config.hsiao j).toNat
  if hsiaoOk c then c else hsiaoDefault

/-- The check byte of a 64-bit word under code L. -/
def checkByteL (w : Nat) : Nat :=
  gfSum ((hsiaoColumns.mapIdx fun j c => if bit w j then c else 0))

/-- The eight check bytes of a line under code L: check byte k covers word k. -/
def checkBytesL (v : Line) : BitVec 64 :=
  BitVec.ofNat 64 ((List.range 8).map fun k => checkByteL (bits v.toNat (64 * k + 63) (64 * k)) <<< (8 * k)).sum

/-- An error pattern of a word that every Hsiao matrix detects without correcting it: two wrong bits, or an even number of wrong
check bits alone. -/
def detected (d c : Nat) : Bool :=
  popCount 64 d + popCount 8 c == 2 || 2 ≤ popCount 8 c || (List.range 8).any fun j => 2 ≤ popCount 8 (bits d (8 * j + 7) (8 * j))

/-- The correction of a word and its check byte from their error pattern: what to XOR on each; none where it is uncorrectable. One
wrong bit is corrected and two are detected by every such matrix; beyond that the matrix decides (R307). -/
def fixWord (d c : Nat) : Option (Nat × Nat) :=
  let n := popCount 64 d + popCount 8 c
  if n = 0 then some (0, 0)
  else if n = 1 then some (d, c)
  else if detected d c then none
  else
    let syn := checkByteL d ^^^ c
    if syn = 0 then some (0, 0)
    else if n % 2 = 0 then none
    else if popCount 8 syn = 1 then some (0, syn)
    else (hsiaoColumns.findIdx? (· == syn)).map fun j => (2 ^ j, 0)

/-- A correction by code L: what to XOR, and the number of bits corrected; none where a word is uncorrectable. -/
def fixL (e : Stored) : Option (Stored × Nat) :=
  let v := e.toNat
  let pairs := (List.range 8).map fun k => (bits v (64 * k + 63) (64 * k), bits v (512 + 8 * k + 7) (512 + 8 * k))
  if pairs.any fun p => detected p.1 p.2 then none
  else if (pairs.map fun p => fixWord p.1 p.2).all (·.isSome) then
    let fs := pairs.map fun p => (fixWord p.1 p.2).getD (0, 0)
    some (BitVec.ofNat 576 ((fs.mapIdx fun k f => f.1 <<< (64 * k) + f.2 <<< (512 + 8 * k)).sum),
      (fs.map fun f => popCount 64 f.1 + popCount 8 f.2).sum)
  else none

/-! ## The check of a line, with the hypotheses of line 0 (R184) -/

/-- The marker of a headed block, byte k on check byte k. -/
def marker : BitVec 64 := 0x96A53CC35A690FF0

/-- The marker on a stored line. -/
def markerMask : Stored := (marker.setWidth 576) <<< 512

/-- The check bytes that a line is stored with: those of its code over the ciphertext, XOR the marker on line 0 of a headed block
(R50, R184). -/
def checkBytes (codeL headed : Bool) (v : Line) : BitVec 64 :=
  (if codeL then checkBytesL v else checkBytesS v) ^^^ (if headed then marker else 0)

/-- A line's 64 bytes with the check bytes that it is stored with. -/
def storedOf (codeL headed : Bool) (v : Line) : Stored :=
  v.setWidth 576 ||| ((checkBytes codeL headed v).setWidth 576 <<< 512)

/-- What the check of a line finds: what is left wrong after the correction, what it corrected, and whether it took line 0 of a
block for a headed block's. -/
structure LineCheck where
  residue : Stored
  fix     : Stored
  headed  : Bool
deriving DecidableEq, Repr

/-- The correction of a line's error pattern under its code. -/
def fixOf (codeL : Bool) (e : Stored) : Option (Stored × Nat) := if codeL then fixL e else fixS e

/-- The check of a stored line whose copy is wrong in the bits of `e` (R306, R307, R309); none where it is uncorrectable. For line 0
of a block of a region with COMPRESS = auto both hypotheses are tested, and the one with fewer corrections holds (R184). -/
def checkLine (codeL line0 headed : Bool) (e : Stored) : Option LineCheck :=
  if e = 0 then some { residue := 0, fix := 0, headed }
  else if line0 then
    match fixOf codeL e, fixOf codeL (e ^^^ markerMask) with
    | some a, none => some { residue := e ^^^ a.1, fix := a.1, headed }
    | none, some b => some { residue := e ^^^ markerMask ^^^ b.1, fix := b.1, headed := !headed }
    | some a, some b =>
      if a.2 < b.2 then some { residue := e ^^^ a.1, fix := a.1, headed }
      else if b.2 < a.2 then some { residue := e ^^^ markerMask ^^^ b.1, fix := b.1, headed := !headed }
      else none
    | none, none => none
  else (fixOf codeL e).map fun a => { residue := e ^^^ a.1, fix := a.1, headed }

/-- The byte positions that a check corrected (R309): 0-63 data, 64-71 check bytes. -/
def LineCheck.positions (c : LineCheck) : List Nat := (List.range 72).filter fun j => bits c.fix.toNat (8 * j + 7) (8 * j) != 0

/-- The 72-bit words in which a check corrected a bit. -/
def LineCheck.words (c : LineCheck) : Nat :=
  ((List.range 8).filter fun k =>
    bits c.fix.toNat (64 * k + 63) (64 * k) != 0 || bits c.fix.toNat (512 + 8 * k + 7) (512 + 8 * k) != 0).length

/-- What is left wrong in the 64 data bytes. -/
def LineCheck.wrong (c : LineCheck) : Line := c.residue.setWidth 512

end Sys2Proof.Machine
end

