-- ==== Sys2Proof/Machine/Facet.lean ====
section
/-!
DEFINITION. The stored forms of Facet (R183-R196): elements and views, canonical codes, the bit stream of a segment, the header, what
a block is encoded to, and the decode of a segment with the reasons of its errors.
-/

namespace Sys2Proof.Machine

/-! ## Elements (R186) -/

/-- The bytes of an element of a view. -/
def viewBytes (view : Nat) : Nat := if view = 0 then 1 else if view = 3 then 4 else 2

/-- The residual bits of an element. -/
def viewResidual (view : Nat) : Nat := match view with | 0 => 0 | 1 => 7 | 2 => 10 | _ => 23

/-- The symbol of an element value. -/
def viewSymbol (view v : Nat) : Nat := v >>> viewResidual view

/-- The symbols of a code of a view. -/
def viewSymbols (view : Nat) : Nat := match view with | 0 => 256 | 2 => 64 | _ => 512

/-- The codes of a view: one for each plane of the BYTE view. -/
def viewCodes (view : Nat) : Nat := if view = 0 then 4 else 1

/-- The elements of a line's bytes under a view. -/
def elements (view : Nat) : Nat → List Byte → List Nat
  | 0, _ => []
  | n + 1, l => leNat (l.take (viewBytes view)) :: elements view n (l.drop (viewBytes view))

/-- The elements of a 64-byte line. -/
def lineElements (view : Nat) (l : List Byte) : List Nat := elements view (64 / viewBytes view) l

/-- The order in which the symbols of a line's elements come in the stream: plane after plane for the BYTE view (R189). -/
def elementOrder (view : Nat) : List Nat :=
  if view = 0 then (List.range 64).map fun i => 4 * (i % 16) + i / 16 else List.range (64 / viewBytes view)

/-- The position of a symbol's length in a table's LENGTHS: the plane of the element for the BYTE view (R186, R203). -/
def symbolIndex (view i v : Nat) : Nat := (if view = 0 then 256 * (i % 4) else 0) + viewSymbol view v

/-! ## Code lengths and canonical codes (R190, R191) -/

/-- The ROM length of a symbol (R191). -/
def romLength (view sym : Nat) : Nat :=
  match view with
  | 0 => if sym = 0 then 2 else if sym = 0xFF then 5 else if sym ≤ 0x0F then 7 else 9
  | 2 =>
    let e := sym % 32
    if 10 ≤ e && e ≤ 15 then 4 else if e = 0 then 6 else 8
  | _ =>
    let e := sym % 256
    if e = 0 then 5 else if 112 ≤ e && e ≤ 127 then 6 else if 96 ≤ e && e ≤ 135 then 8 else 11

/-- The ROM lengths of a view, planes one after another as in a table: the same for all four planes of the BYTE view (R190). -/
def romLengths (view : Nat) : List Nat :=
  (List.range (viewCodes view * viewSymbols view)).map fun i => romLength view (i % viewSymbols view)

/-- A prefix code: the length of each symbol's code. -/
abbrev Code := List Nat

/-- The code of a view's plane within a list of lengths. -/
def codeOfPlane (view : Nat) (lengths : List Nat) (plane : Nat) : Code :=
  (lengths.drop (viewSymbols view * (if view = 0 then plane else 0))).take (viewSymbols view)

/-- The symbols of a code with a length, in increasing order. -/
def Code.symbols (c : Code) (len : Nat) : List Nat := (List.range c.length).filter fun i => c.getD i 0 == len

/-- The first code of a length (R190): from the last code of the length below, plus 1, shifted left. -/
def Code.first (c : Code) : Nat → Nat
  | 0 => 0
  | len + 1 => 2 * (c.first len + if len = 0 then 0 else (c.symbols len).length)

/-- The code of a symbol: its value and its length. -/
def Code.encode (c : Code) (sym : Nat) : Nat × Nat :=
  let len := c.getD sym 0
  (c.first len + (c.symbols len).findIdx (· == sym), len)

/-! ## Bit streams (R188) -/

/-- Bits most significant first: their value and their number. Bit i of the stream is bit 7 - (i mod 8) of byte i div 8. -/
abbrev Bits := Nat × Nat

/-- Appends the `n` bits of a field. -/
def putField (b : Bits) (v n : Nat) : Bits := (b.1 <<< n + v % 2 ^ n, b.2 + n)

/-- Takes `n` bits off the front; none where fewer are left. -/
def takeField (b : Bits) (n : Nat) : Option (Nat × Bits) :=
  if b.2 < n then none else some (b.1 >>> (b.2 - n), (b.1 % 2 ^ (b.2 - n), b.2 - n))

/-- The bytes of a stream: padded with 0-7 zero bits (R187). -/
def packedBytes (b : Bits) : List Byte :=
  (leBytes (cdiv b.2 8) (b.1 <<< (8 * cdiv b.2 8 - b.2))).reverse

/-- The stream that bytes hold. -/
def bytesStream (l : List Byte) : Bits := (beNat l, 8 * l.length)

/-! ## Encoding a segment (R189, R192) -/

/-- The bits of a CODED line less its framing code, under given symbol lengths. -/
def codedBits (view : Nat) (len : Nat → Nat) (l : List Byte) : Nat :=
  ((lineElements view l).mapIdx fun i v => len (symbolIndex view i v) + viewResidual view).sum

/-- The bits a segment's lines take, each in the shortest of its framing modes (R189, R192): a run of four to eight zero
lines is shortest as one ZRUN. `run` counts the zero lines just before. -/
def segmentBits (coded : List Byte → Nat) : List (List Byte) → Option (List Byte) → Nat → Nat
  | [], _, run => zeroBits run
  | l :: t, prev, run =>
    if l.all (· == 0) then segmentBits coded t (some l) (run + 1)
    else zeroBits run + (if prev = some l then 3 else min (1 + coded l) (4 + 512)) + segmentBits coded t (some l) 0
where
  /-- The bits of a run of zero lines of one segment. -/
  zeroBits (n : Nat) : Nat := min (2 * n) (if 2 ≤ n then 7 else 2 * n)

/-- Appends a CODED line: the symbols in stream order, then the residuals in element order (R189). -/
def putCoded (view : Nat) (lengths : List Nat) (b : Bits) (l : List Byte) : Bits :=
  let es := lineElements view l
  let b := (elementOrder view).foldl (fun b i =>
    let c := (codeOfPlane view lengths (i % 4)).encode (viewSymbol view (es.getD i 0))
    putField b c.1 c.2) b
  es.foldl (fun b v => putField b v (viewResidual view)) b

/-- Appends a run of zero lines: one ZRUN where it is shorter than as many ZERO codes. -/
def putZeros (b : Bits) (n : Nat) : Bits :=
  if 4 ≤ n then putField (putField b 15 4) (n - 2) 3
  else (List.range n).foldl (fun b _ => putField b 2 2) b

/-- The stream of a segment's lines, each in the shortest of its framing modes, CODED before VERBATIM on a tie (log 120). -/
def putLinesOf (view : Nat) (lengths : List Nat) : List (List Byte) → Option (List Byte) → Nat → Bits → Bits
  | [], _, run, b => putZeros b run
  | l :: t, prev, run, b =>
    if l.all (· == 0) then putLinesOf view lengths t (some l) (run + 1) b
    else
      let b := putZeros b run
      let b :=
        if prev = some l then putField b 6 3
        else if 1 + codedBits view (fun i => lengths.getD i 12) l ≤ 516 then putCoded view lengths (putField b 0 1) l
        else putField (putField b 14 4) (beNat l) 512
      putLinesOf view lengths t (some l) 0 b

/-- Splits bytes into chunks of a size. -/
def chunks (size : Nat) : Nat → List Byte → List (List Byte)
  | 0, _ => []
  | n + 1, l => l.take size :: chunks size n (l.drop size)

/-- The bytes of each of a block's eight segments under a coding (R187). -/
def segmentBytes (coded : List Byte → Nat) (block : List Byte) : List Nat :=
  (chunks 512 8 block).map fun s => cdiv (segmentBits coded (chunks 64 8 s) none 0) 8

/-- The payload of a block: its segments one after another (R187). -/
def payloadOf (view : Nat) (lengths : List Nat) (block : List Byte) : List Byte :=
  (chunks 512 8 block).flatMap fun s => packedBytes (putLinesOf view lengths (chunks 64 8 s) none 0 (0, 0))

/-! ## The header (R185) -/

/-- The CRC-32C of a block's plaintext (R185): reflected polynomial 0x82F6_3B78. -/
def crc32c (l : List Byte) : BitVec 32 :=
  ~~~(l.foldl (fun c b => step 8 (c ^^^ b.setWidth 32)) (BitVec.allOnes 32))
where
  /-- Eight shifts of the register. -/
  step : Nat → BitVec 32 → BitVec 32
    | 0, c => c
    | n + 1, c => step n (if c.getLsbD 0 then (c >>> 1) ^^^ 0x82F63B78 else c >>> 1)

/-- The offsets ENTRY0-ENTRY7 of segments of given sizes. -/
def entriesOf (sizes : List Nat) : List Nat :=
  (sizes.foldl (fun a n => (a.1 ++ [a.2], a.2 + n)) (([] : List Nat), 0)).1

/-- The block is stored headed: every codec but RAW (R183). -/
def Form.headed (f : Form) : Bool := f.codec != 0

/-- The stored lines of a form (R183). -/
def Form.lines (f : Form) : Nat := if f.codec = 0 then 64 else cdiv (28 + f.payload) 64

/-- The 28 header bytes of a headed block (R185): FORMAT is 1 and the reserved bits are zero. -/
def Form.header (f : Form) : List Byte :=
  leBytes 1 (f.codec + 1 <<< 4) ++ leBytes 1 f.view ++ leBytes 2 f.tableId ++ leBytes 2 f.tableSeal ++ leBytes 2 f.payload ++
  (List.range 8).flatMap (fun k => leBytes 2 (f.entries.getD k 0)) ++ leBytes 4 f.crc.toNat

/-- ENTRY0-ENTRY7 and PAYLOAD_LEN of a FIXED or TABLED block obey R185 and R187. -/
def entriesOk (payload : Nat) (es : List Nat) : Bool :=
  1 ≤ payload && payload ≤ 4004 && es.headD 1 == 0 &&
  (List.range 7).all (fun k => es.getD k 0 < es.getD (k + 1) 0) && es.getD 7 0 < payload

/-- Reads a header; none where R185 or R187 is broken (reason 1 of R196). -/
def parseHeader (l : List Byte) : Option Form :=
  let v := leNat (l.take 28)
  let es := (List.range 8).map fun k => bits v (16 * k + 75) (16 * k + 64)
  let f : Form := { codec := bits v 3 0, view := bits v 9 8, tableId := bits v 31 16, tableSeal := bits v 47 32, payload := bits v 59 48
                    entries := es, crc := BitVec.ofNat 32 (bits v 223 192) }
  let reserved := bits v 7 4 != 1 || bits v 15 10 != 0 || bits v 63 60 != 0 ||
    (List.range 8).any fun k => bits v (16 * k + 79) (16 * k + 76) != 0
  if reserved then none
  else if f.codec = 1 then
    (if f.view = 0 && f.tableId = 0 && f.tableSeal = 0 && f.payload = 0 && es.all (· == 0) && f.crc = 0 then some f else none)
  else if f.codec = 2 then (if f.tableId = 0 && f.tableSeal = 0 && entriesOk f.payload es then some f else none)
  else if f.codec = 3 then (if f.tableId ≠ 0 && entriesOk f.payload es then some f else none)
  else none

/-- The bytes of segment k in the payload (R187). -/
def Form.segment (f : Form) (k : Nat) : Nat × Nat :=
  (f.entries.getD k 0, if k = 7 then f.payload else f.entries.getD (k + 1) 0)

/-- The stored lines of a block that segment k's bytes lie in, the header line among them (R187, R310). -/
def Form.segmentLines (f : Form) (k : Nat) : List Nat :=
  if f.codec = 0 then (List.range 8).map (8 * k + ·)
  else if f.codec = 1 then [0]
  else
    let a := 28 + (f.segment k).1
    let b := 28 + (f.segment k).2
    0 :: ((List.range 64).filter fun l => a / 64 ≤ l && l ≤ (b - 1) / 64 && l != 0)

/-! ## Encoding a block (R192) -/

/-- The form a block takes (R192): RAW when forced, ZERO, the shortest of FIXED and TABLED, RAW above 4,004 bytes. `table`
is the current table that the page's record can take. -/
def encodeForm (forceRaw : Bool) (table : Option (Nat × TableSlot)) (block : List Byte) : Form :=
  if forceRaw then { codec := 0 }
  else if block.all (· == 0) then {}
  else
    let fixedSizes := (List.range 4).map fun v => (v, segmentBytes (codedBits v fun i => romLength v (i % viewSymbols v)) block)
    let best := fixedSizes.foldl (fun (b : Nat × List Nat) e => if e.2.sum < b.2.sum then e else b)
      (fixedSizes.headD (0, []))
    let headed (codec view id sl : Nat) (sizes : List Nat) : Form :=
      { codec, view, tableId := id, tableSeal := sl, payload := sizes.sum, entries := entriesOf sizes, crc := crc32c block }
    let chosen : Form := match table with
      | some (id, t) =>
        let sizes := segmentBytes (codedBits t.view fun i => t.lengths[i]?.getD 12) block
        if sizes.sum < best.2.sum then headed 3 t.view id t.slotSeal sizes else headed 2 best.1 0 0 best.2
      | none => headed 2 best.1 0 0 best.2
    if 4004 < chosen.payload then { codec := 0 } else chosen

/-- The symbol lengths that code a form's payload: the ROM's, or the named table's. -/
def Form.lengths (f : Form) (t : TableSlot) : List Nat := if f.codec = 3 then t.lengths else romLengths f.view

/-- The bytes that the stored lines of a form hold (R183): the block itself when plain; else 28 bytes that the header takes, the
payload, and zeros to the end of the last line (log 120). -/
def Form.stored (f : Form) (t : TableSlot) (block : List Byte) : List Byte :=
  if f.codec = 0 then block
  else
    let body := List.replicate 28 0 ++ (if f.codec = 1 then [] else payloadOf f.view (f.lengths t) block)
    body ++ List.replicate (64 * f.lines - body.length) 0

/-! ## Decoding a segment (R189-R191, R196) -/

/-- Decodes one symbol: reason 6 where the bits end, reason 4 where the pattern begins no code. -/
def takeSymbol (c : Code) (b : Bits) : Except Nat (Nat × Bits) := go 12 1
where
  /-- Tries the lengths from `len` on. -/
  go : Nat → Nat → Except Nat (Nat × Bits)
    | 0, _ => .error 4
    | fuel + 1, len =>
      match takeField b len with
      | none => .error 6
      | some (v, rest) =>
        if v < c.first len + (c.symbols len).length && c.first len ≤ v then
          .ok ((c.symbols len).getD (v - c.first len) 0, rest)
        else go fuel (len + 1)

/-- Decodes the symbols of elements in stream order: pairs of element and symbol. -/
def takeSymbols (view : Nat) (lengths : List Nat) : List Nat → Bits → Except Nat (List (Nat × Nat) × Bits)
  | [], b => .ok ([], b)
  | i :: t, b =>
    match takeSymbol (codeOfPlane view lengths (i % 4)) b with
    | .error r => .error r
    | .ok (v, b) =>
      match takeSymbols view lengths t b with
      | .error r => .error r
      | .ok (l, b) => .ok ((i, v) :: l, b)

/-- Takes the residuals of elements whose symbols are known, in element order: the line's bytes. -/
def takeResiduals (view : Nat) : List Nat → Bits → Except Nat (List Byte × Bits)
  | [], b => .ok ([], b)
  | sym :: t, b =>
    match takeField b (viewResidual view) with
    | none => .error 6
    | some (v, b) =>
      match takeResiduals view t b with
      | .error r => .error r
      | .ok (l, b) => .ok (leBytes (viewBytes view) (sym <<< viewResidual view + v) ++ l, b)

/-- Decodes a CODED line. -/
def takeCoded (view : Nat) (lengths : List Nat) (b : Bits) : Except Nat (List Byte × Bits) :=
  match takeSymbols view lengths (elementOrder view) b with
  | .error r => .error r
  | .ok (l, b) => takeResiduals view ((List.range l.length).map fun i => ((l.find? fun e => e.1 == i).map (·.2)).getD 0) b

/-- A framing code (R189): the number of leading ones, at most four; reason 6 where the bits end. -/
def takeFraming (b : Bits) : Except Nat (Nat × Bits) :=
  match takeField b 1, takeField b 2, takeField b 3, takeField b 4 with
  | some (0, r), _, _, _ => .ok (0, r)
  | _, some (2, r), _, _ => .ok (1, r)
  | _, _, some (6, r), _ => .ok (2, r)
  | _, _, _, some (14, r) => .ok (3, r)
  | _, _, _, some (_, r) => .ok (4, r)
  | _, _, _, _ => .error 6

/-- Decodes lines of a segment until `want` of its eight are there (R129): the lines in order and the bits left. -/
def takeLines (view : Nat) (lengths : List Nat) (want : Nat) : Nat → List (List Byte) → Bits → Except Nat (List (List Byte) × Bits)
  | 0, out, b => .ok (out, b)
  | fuel + 1, out, b =>
    if want ≤ out.length then .ok (out, b)
    else
      match takeFraming b with
      | .error r => .error r
      | .ok (0, b) =>
        (match takeCoded view lengths b with
         | .error r => .error r
         | .ok (l, b) => takeLines view lengths want fuel (out ++ [l]) b)
      | .ok (1, b) => takeLines view lengths want fuel (out ++ [List.replicate 64 0]) b
      | .ok (2, b) =>
        (match out.getLast? with
         | none => .error 5
         | some l => takeLines view lengths want fuel (out ++ [l]) b)
      | .ok (3, b) =>
        (match takeField b 512 with
         | none => .error 6
         | some (v, b) => takeLines view lengths want fuel (out ++ [(leBytes 64 v).reverse]) b)
      | .ok (_, b) =>
        match takeField b 3 with
        | none => .error 6
        | some (k, b) =>
          if k = 7 || 8 < out.length + k + 2 then .error 5
          else takeLines view lengths want fuel (out ++ List.replicate (k + 2) (List.replicate 64 0)) b

/-- Decodes the first `want` lines of a segment from its bytes. When all eight are decoded, more than 7 bits left over or a padding
bit that is not zero is reason 7. -/
def decodeSegment (view : Nat) (lengths : List Nat) (want : Nat) (l : List Byte) : Except Nat (List (List Byte)) :=
  match takeLines view lengths want 8 [] (bytesStream l) with
  | .error r => .error r
  | .ok (out, b) => if 8 ≤ want && (7 < b.2 || b.1 ≠ 0) then .error 7 else .ok out

end Sys2Proof.Machine
end

