-- ==== Sys2Proof/Machine/Codec.lean ====
section
/-!
DEFINITION. Facet's tables and encodes (R192-R209): table groups, tables and their caches, reference records and their counts, the
encode of a block, and the decode of a block's fetched lines.
-/

namespace Sys2Proof.Machine

/-! ## Tables (R201-R207) -/

/-- A table's lengths are valid (R204): 1-12 each, each code's sum of 2^(12 - length) at most 4,096. -/
def TableSlot.valid (t : TableSlot) : Bool :=
  let codes := if t.view = 0 then 4 else 1
  t.lengths.length == codes * viewSymbols t.view &&
  t.lengths.all (fun l => 1 ≤ l && l ≤ 12) &&
  (List.range codes).all fun c =>
    (((t.lengths.drop (c * viewSymbols t.view)).take (viewSymbols t.view)).map fun l => 2 ^ (12 - l)).sum ≤ 4096

/-- The reason of a decode error that a header's table gives (R196, reasons 2 and 3). The pins of R207 never outlast a step: a decode
ends in the step that begins it. -/
def State.tableError (s : State) (f : Form) : Option Nat :=
  if f.codec ≠ 3 then none
  else
    let t := s.table f.tableId
    if t.st == .free || t.st == .freeing || t.slotSeal ≠ f.tableSeal then some 2
    else if !t.valid || t.view ≠ f.view then some 3
    else none

/-- A table cache after a use (R202): the table comes first, the least recently used leaving at 256 entries. -/
def useEntry (l : List Nat) (id : Nat) : List Nat := (id :: l.filter (· != id)).take 256

/-- Uses a table in a memory die's cache (R202): a miss is counted. -/
def State.cacheTable (s : State) (die : Nat) (at_ : Attrs) (id : Nat) : State :=
  let hit := (s.mem die).cache.contains id
  let s := s.modMem die fun m => { m with cache := useEntry m.cache id }
  if hit then s else s.count 0x0B die 0x0A at_

/-- Uses a table in a CHD die's cache (R193, R202). -/
def State.cacheTableChd (s : State) (d id : Nat) : State := s.modChd d fun c => { c with cache := useEntry c.cache id }

/-- A table with no references that is RETIRED goes to FREEING (R205). -/
def State.settleTable (s : State) (id : Nat) : State :=
  if (s.table id).st == .retired && (s.table id).refs = 0 then s.modTable id fun t => { t with st := .freeing } else s

/-- Adds to or takes from a table's REFCOUNT (R209). -/
def State.addRef (s : State) (id : Nat) : State :=
  if id = 0 then s else s.modTable id fun t => { t with refs := t.refs + 1 }
def State.dropRef (s : State) (id : Nat) : State :=
  if id = 0 then s else (s.modTable id fun t => { t with refs := t.refs - 1 }).settleTable id

/-- Sets a page's frame pair, with the counts. -/
def State.setFramePair (s : State) (page a b : Nat) : State :=
  let r := s.refRec page
  let s := { s with refRecs := tput {} s.refRecs page { r with frameA := a, frameB := b } }
  (((s.addRef a).addRef b).dropRef r.frameA).dropRef r.frameB

/-- Sets a page's flash pair, with the counts. -/
def State.setFlashPair (s : State) (page a b : Nat) : State :=
  let r := s.refRec page
  let s := { s with refRecs := tput {} s.refRecs page { r with flashA := a, flashB := b } }
  (((s.addRef a).addRef b).dropRef r.flashA).dropRef r.flashB

/-- The tables that the headers of a page's blocks name in a store, less one block (R209). -/
def Store.tablesOf (st : Store) (page : Nat) (without : Option Nat) : List Nat :=
  ((tableRange st.forms (16 * page) 16).filterMap fun e =>
    if e.2.codec = 3 && some e.1 != without then some e.2.tableId else none).eraseDups

/-- Whether the frame pair of a page can take a table (R209): it holds it, has a free field, or has one once the pair is
set to the tables that the page's other blocks name. The second value is the pair to set. -/
def State.pairFor (s : State) (page id : Nat) (without : Nat) : Option (Nat × Nat) :=
  let r := s.refRec page
  if r.frameA = id || r.frameB = id then some (r.frameA, r.frameB)
  else if r.frameA = 0 then some (id, r.frameB)
  else if r.frameB = 0 then some (r.frameA, id)
  else
    match s.hbm.tablesOf page (some without) with
    | [] => some (id, 0)
    | [a] => if a = id then some (a, 0) else some (a, id)
    | a :: b :: _ => if a = id || b = id then some (a, b) else none

/-! ## Table groups (R197-R200) -/

/-- The group of a page of a region (R197). -/
def groupOf (r : Region) (page : Nat) : Nat := min ((page - r.zaPage) / 16384) 65535

/-- The key of a count of the build: view, then plane and symbol. -/
def countKey (view idx : Nat) : Nat := 2048 * view + idx

/-- Adds a line to a build's histograms, unless it is all zero (R199). -/
def Group.histogram (g : Group) (l : List Byte) : Group :=
  if l.all (· == 0) then g
  else (List.range 4).foldl (fun g v =>
    let es := lineElements v l
    { g with
      counts := (es.mapIdx fun i e => countKey v (symbolIndex v i e)).foldl (fun t k => tmod 0 t k (· + 1)) g.counts
      bits := tmod 0 g.bits v (· + es.length * viewResidual v) }) g

/-- Tables that a context owns (R206). -/
def State.tablesOwned (s : State) (ctx : Nat) : Nat :=
  (s.tables.filter fun e => e.2.st != .free && e.2.owned && e.2.ctx == ctx).length

/-- The groups sampling with a die as builder (FCT_STATUS.BUILDS). -/
def State.builds (s : State) (die : Nat) : Nat :=
  (s.groups.filter fun e => e.2.st == .sampling && e.2.builder == die).length

/-- A build that cannot publish is abandoned, which its die counts (R198). -/
def State.abandonBuild (s : State) (region g : Nat) : State :=
  let die := (s.group region g).builder
  (s.modGroup region g fun t => { t with st := .idle, samples := 0, counts := [], bits := [] }).modMem die
    fun m => { m with fctErr := orBit m.fctErr 2, abandoned := m.abandoned + 1 }

/-- A non-ZERO encode of a block on a die claims a build or adds a sample to its group's (R198). -/
def State.sample (s : State) (region g die : Nat) (block : List Byte) : State :=
  let t := s.group region g
  let claim := t.st == .armed && (s.mem die).sampleEn && s.builds die < 64
  let s := if claim then s.modGroup region g fun t => { t with st := .sampling, builder := die, samples := 0 } else s
  let t := s.group region g
  if t.st == .sampling && t.builder = die && t.samples < 64 then
    let h := (chunks 64 64 block).foldl Group.histogram t
    s.modGroup region g fun _ => { h with samples := t.samples + 1 }
  else s

/-- The table of a group that a die encodes with, and its copy of the group record (R197, R200): a die whose copy is not updated yet
takes the update now as a free value picks (log 1). None: no table that may be named. -/
def State.groupTable (s : State) (ri g die : Nat) : Option Nat × State :=
  let t := s.group ri g
  let o : Nat × State :=
    if t.stale.contains die then
      let f := s.takeFree
      if f.1 % 2 = 1 then (t.current, f.2.modGroup ri g fun t => { t with stale := t.stale.filter (· != die) }) else (t.prior, f.2)
    else (t.current, s)
  let t := o.2.table o.1
  (if o.1 ≠ 0 && (t.st == .current || t.st == .retired) && t.region == s.handleOf ri && t.group == g then some o.1 else none, o.2)

/-- The frame pair of a page names two other tables, so that the die reads the page's headers before it encodes a block with this one (R209). -/
def State.pairFull (s : State) (page id : Nat) : Bool :=
  let r := s.refRec page
  r.frameA ≠ id && r.frameB ≠ id && r.frameA ≠ 0 && r.frameB ≠ 0

/-- Encodes a block of a compressed region as its buffer entry drains (R182, R192, R198, R209), `cur` the group's table that the die encodes
with, which comes into its cache (R207): the stored lines that its form uses, the header, the page's reference record, the sample and the
counts. -/
def State.encodeBlock (s : State) (ri : Nat) (r : Region) (die ctx block : Nat) (data : List Line) (cur : Option Nat) : State :=
  let za := 4096 * block
  let page := block / 16
  let bytes := data.flatMap lineBytes
  let g := groupOf r page
  let at_ : Attrs := { ctx := some ctx, za := some za }
  let pair := match cur with
    | some id => (s.pairFor page id block).map fun p => (id, p)
    | none => none
  let s := match pair with
    | some e => if r.forceRaw || bytes.all (· == 0) then s else s.cacheTable die at_ e.1
    | none => s
  let f := encodeForm r.forceRaw (pair.map fun e => (e.1, s.table e.1)) bytes
  let s := if cur.isSome && pair.isNone && !r.forceRaw && f.codec ≠ 1 then s.count 0x0B die 0x06 at_ else s
  let s := s.modHbm fun h =>
    { h.freshLines (64 * block) f.lines with
      mem := writeBytes h.mem za (f.stored (s.table f.tableId) bytes), forms := tput {} h.forms block f }
  let s := match pair with
    | some e => if f.codec = 3 then s.setFramePair page e.2.1 e.2.2 else s
    | none => s
  let s := s.count 0x0B die (f.codec + 1) at_
  let s := (s.count 0x0B die 0x07 at_ f.lines)
  let s := if f.codec = 0 && !r.forceRaw then s.count 0x0B die 0x05 at_ else s
  if f.codec ≠ 1 && !r.forceRaw then s.sample ri g die bytes else s

/-- The groups of a region stand in their builds as they did before a publication that has been undone (R70, R198). -/
def State.restoreGroups (s : State) (ri : Nat) (was : List (Nat × Group)) : State :=
  s.each was fun s e => s.modGroup ri e.1 fun t =>
    { t with st := e.2.st, builder := e.2.builder, samples := e.2.samples, counts := e.2.counts, bits := e.2.bits }

/-- A region's groups go to IDLE with any build abandoned silently (R198): it is freed or published. -/
def State.endBuilds (s : State) (ri : Nat) (groups : Nat) : State :=
  s.each (List.range groups) fun s g => s.modGroup ri g fun t =>
    { t with st := .idle, samples := 0, counts := [], bits := [] }

/-- The groups of a region that its pages need. -/
def Region.groups (r : Region) : Nat := if r.pages = 0 then 0 else min ((r.pages - 1) / 16384) 65535 + 1

/-! ## The decode of a block (R129, R193, R196) -/

/-- What the read of a stored line gives to a decode: the status (0 for a good line) and its decrypted bytes. -/
abbrev Fetched := Nat × List Byte

/-- How a segment comes out of a decode: its lines in order, the status of a stored line that failed, or the reason of a decode error. -/
inductive Segment where
  | lines (l : List (List Byte))
  | lineFailed (status : Nat)
  | codeError (reason : Nat)
deriving DecidableEq, Repr

/-- A segment gives an error to its lines. -/
def Segment.status : Segment → Nat
  | .lines _ => 0
  | .lineFailed st => st
  | .codeError _ => stUncorrectable

/-- The first status other than 0 among fetched lines. -/
def firstFailure (get : Nat → Fetched) (l : List Nat) : Nat := ((l.map fun i => (get i).1).find? (· != 0)).getD 0

/-- One segment of a block with a sound header and table: its first `want` lines. -/
def segmentOf (f : Form) (lengths : List Nat) (get : Nat → Fetched) (k want : Nat) : Segment :=
  let st := firstFailure get (f.segmentLines k)
  if st ≠ 0 then .lineFailed st
  else if f.codec = 1 then .lines (List.replicate want (List.replicate 64 0))
  else
    let p := f.segment k
    let first := (28 + p.1) / 64
    let bytes := (List.range ((27 + p.2) / 64 + 1 - first)).flatMap fun i => (get (first + i)).2
    match decodeSegment f.view lengths want ((bytes.drop (28 + p.1 - 64 * first)).take (p.2 - p.1)) with
    | .ok l => .lines l
    | .error r => .codeError r

/-- The segments of a block from its fetched lines. `segs` names each with the lines wanted of it; `headed` is the form that the check
of line 0 found; a line 0 that fails fails them all. The decode of a read of all 64 lines is checked against the CRC, and a mismatch fails
every segment (R51, R196). -/
def State.decodeLines (s : State) (headed full : Bool) (get : Nat → Fetched) (segs : List (Nat × Nat)) : List (Nat × Segment) :=
  let all (x : Segment) := segs.map fun e => (e.1, x)
  if (get 0).1 ≠ 0 then all (.lineFailed (get 0).1)
  else if !headed then segs.map fun e =>
    let l := (List.range 8).map (8 * e.1 + ·)
    let st := firstFailure get l
    (e.1, if st ≠ 0 then .lineFailed st else .lines ((l.map fun i => (get i).2).take e.2))
  else
    match parseHeader (get 0).2 with
    | none => all (.codeError 1)
    | some f =>
      match s.tableError f with
      | some reason => all (.codeError reason)
      | none =>
        let out := segs.map fun e => (e.1, segmentOf f (f.lengths (s.table f.tableId)) get e.1 e.2)
        let whole := (out.filterMap fun e => match e.2 with | .lines l => some l.flatten | _ => none).flatten
        if full && f.codec ≠ 1 && whole.length = 4096 && crc32c whole ≠ f.crc then all (.codeError 8) else out

end Sys2Proof.Machine
end

