-- ==== Sys2Proof/Machine/Tier.lean ====
section
/-!
DEFINITION. The Gnomon directory (R156-R181): frames, page states, misses, evictions, write-backs, the prefetch order,
frame loss, and its entry cache. What a page's movement does to requests that wait stands in Path.lean.
-/

namespace Sys2Proof.Machine

/-! ## Frames (R156-R158) -/

/-- The directory die of a tier page (R123). -/
def pageDir (page : Nat) : Nat := page % 2

/-- The page holds a frame (R159). -/
def DirEnt.framed (e : DirEnt) : Bool :=
  (e.st == .fetching || e.st == .clean || e.st == .dirty || e.st == .writingBack || e.discard) && !e.frameLost

/-- The region of a tier page. -/
def State.pageRegion (s : State) (page : Nat) : Option (Nat × Region) := s.regionAt (65536 * page)

/-- A page of an S+stripe region. -/
def State.pageStriped (s : State) (page : Nat) : Bool := match s.pageRegion page with | some (_, r) => r.stripe | none => false

/-- Frames of a die's half that are not free, parity frames among them. -/
def State.framesUsed (s : State) (d : Nat) : Nat := (s.dirDie d).used.length + (s.dirDie d).zeroing

/-- GNM_STATUS.FREE_FRAMES. -/
def State.freeFrames (s : State) (d : Nat) : Nat := (s.dirDie d).cacheFrames - s.framesUsed d

/-- Frame pressure after a change of the free frames (R158). The Z2520-H has no tier, and its directory dies' registers stay at their
reset values (R23). -/
def State.settlePressure (s : State) (d : Nat) : State :=
  if s.variantH then s
  else
    let f := s.freeFrames d
    s.modDir d fun t => { t with pressure := if f < t.low then true else if t.high ≤ f then false else t.pressure }

/-- Frames of a die's half with no pinned space allocated (R156). -/
def halfFrames : Nat := 18066406

/-- A frame may be given out: it is not in use, and its stack is in service with no pseudo-channel retiring (R320, R321). -/
def State.frameOk (s : State) (d n : Nat) : Bool :=
  let t := s.stack (tierStack d n)
  !(s.dirDie d).used.contains n && t.st = 0 && !(t.pcs.any fun e => e.2.st == .retiring)

/-- The places of a stack that frames of the tier cache take (R156). -/
def State.tierPlaces (s : State) (k : Nat) : List Nat :=
  [0, 1].flatMap fun d => ((s.dirDie d).pos.filter fun e => tierStack d e.1 == k).map (·.2)

/-- The places of a stack that its frame map, and that of its sibling in it, give to pinned space (R299). -/
def State.pinnedPlaces (s : State) (k : Nat) : List Nat :=
  let other := 2 * (k / 2) + (1 - k % 2)
  ((s.stack k).frameMap.filter fun e => !e.2.sibling).map (·.2.frame) ++
    ((s.stack other).frameMap.filter fun e => e.2.sibling).map (·.2.frame)

/-- A place of a stack that no frame takes; which one is the device's choice (log 1). -/
def State.freePlace (s : State) (k : Nat) : Option Nat × State :=
  let used := s.pinnedPlaces k ++ s.tierPlaces k
  s.pick 1806640 (used.length + 1) fun n => !used.contains n

/-- The stacks of the frames of a set. -/
def State.setStacks (s : State) (d : Nat) (t : TierSet) : List Nat :=
  tierStack d t.parity :: t.pages.map fun p => tierStack d (s.ent p).frame

/-- A set takes one more page in a stack: one of its stripe group that holds no frame of it (R301). -/
def State.setOpen (s : State) (d k : Nat) (t : TierSet) : Bool :=
  t.pages.length < 4 && k % 4 == tierStack d t.parity % 4 && !(s.setStacks d t).contains k

/-- Takes a free frame of a kind; which frame is the device's choice (log 1). -/
def State.grabFrame (s : State) (d : Nat) (ok : Nat → Bool) : Option Nat × State :=
  match s.pick halfFrames halfFrames fun f => s.frameOk d f && ok f with
  | (some f, s) =>
    let o := s.freePlace (tierStack d f)
    (some f, o.2.modDir d fun t => { t with used := t.used ++ [f], pos := tput 0 t.pos f (o.1.getD 0) })
  | (none, s) => (none, s)

/-- So many frames are free for a purpose: the last 1,024 serve only demand (R158). -/
def State.framesFor (s : State) (d n : Nat) (demand : Bool) : Bool := n + (if demand then 0 else 1024) ≤ s.freeFrames d

/-- A page joins a set that is open to its frame. -/
def State.joinSet (s : State) (d page f : Nat) : State :=
  match (s.dirDie d).sets.find? (s.setOpen d (tierStack d f)) with
  | some t => s.modDir d fun u => { u with sets := u.sets.map fun x => if x = t then { x with pages := x.pages ++ [page] } else x }
  | none => s

/-- Opens a set for a page, of which the stripe group is the die's choice: its frame and a parity frame in another stack of the group
(R301). -/
def State.openSet (s : State) (d page : Nat) : Option (Nat × State) :=
  match s.grabFrame d fun _ => true with
  | (none, _) => none
  | (some f, s) =>
    let k := tierStack d f
    match s.grabFrame d fun n => tierStack d n % 4 == k % 4 && tierStack d n != k with
    | (none, _) => none
    | (some p, s) => some (f, s.modDir d fun u => { u with sets := u.sets ++ [{ parity := p, pages := [page] }] })

/-- Takes a free frame for a page (R158), of an S+stripe region in a set of five (R301): one that is open to it, else a new one. The
caller settles the pressure once the page's entry has changed. -/
def State.takeFrame (s : State) (page : Nat) (demand : Bool) : Option (Nat × State) :=
  let d := pageDir page
  if !s.framesFor d 1 demand then none
  else if !s.pageStriped page then
    (match s.grabFrame d fun _ => true with
     | (some f, s) => some (f, s)
     | (none, _) => none)
  else
    match s.grabFrame d fun f => (s.dirDie d).sets.any (s.setOpen d (tierStack d f)) with
    | (some f, s) => some (f, s.joinSet d page f)
    | (none, s) => if s.framesFor d 2 demand then s.openSet d page else none

/-- A frame is free: zeroed before it is allocated again where it held data of a freed region (R30). -/
def Dir.release (t : Dir) (f : Nat) (zero : Bool) : Dir :=
  { t with used := t.used.filter (· != f), pos := tdel t.pos f, zeroing := t.zeroing + b2n zero }

/-- A page leaves its set: the parity is from then on that of the pages left, and the parity frame is freed with the last. DESIGN CHOICE
(log 23): how the parity follows is not stated. -/
def State.leaveSet (s : State) (page : Nat) (zero : Bool) : State :=
  let d := pageDir page
  match (s.dirDie d).sets.find? fun t => t.pages.contains page with
  | none => s
  | some t =>
    let rest := t.pages.filter (· != page)
    let k := tierStack d t.parity
    let s := s.each [k, 2 * (k / 2) + (1 - k % 2)] fun s m => s.modStack m fun u => { u with
      deltas := u.deltas.filter fun e => e.1 / 1024 != page
      flips := if rest.isEmpty then u.flips.filter fun e => (e.1 % 2 ^ 25) / 16 != tget 0 (s.dirDie d).pos t.parity else u.flips }
    s.modDir d fun u =>
      if rest.isEmpty then ({ u with sets := u.sets.filter (· != t) } : Dir).release t.parity zero
      else { u with sets := u.sets.map fun x => if x = t then { x with pages := rest } else x }

/-- Frees the frame of a page, with the writes to it that are buffered. The caller settles the pressure once the page's entry has changed. -/
def State.freeFrame (s : State) (page : Nat) (zero : Bool) : State :=
  let d := pageDir page
  let f := (s.ent page).frame
  let k := tierStack d f
  let s := if (s.stack k).moved.contains page then s.modStack k fun t => { t with moved := t.moved.filter (· != page) } else s
  let s : State := { s with wbuf := s.wbuf.filter fun w => w.line / 1024 != page }
  (s.leaveSet page zero).modDir d fun t => t.release f zero

/-! ## Waiters and counts -/

/-- WAITERS: at least one request is held on the page (R159). -/
def State.waiters (s : State) (page : Nat) : Bool :=
  !(s.ent page).waiters.isEmpty || s.held.any fun q => q.hold == .miss page || q.hold == .readout page

/-- An access waits for a page in its own engine, as a miss or not. -/
def DirEnt.await (e : DirEnt) (w : Waiter) (miss : Bool) : DirEnt :=
  { e with waiters := e.waiters.filter (·.1 != w) ++ [(w, miss)] }

/-- An access waits no more. -/
def DirEnt.leave (e : DirEnt) (w : Waiter) : DirEnt := { e with waiters := e.waiters.filter (·.1 != w) }

/-- Accesses that are withdrawn wait for no page. -/
def State.forgetWaits (s : State) (p : Waiter → Bool) : State :=
  s.each ((s.dir.filter fun e => e.2.waiters.any (p ·.1) || e.2.failed.any p).map (·.1)) fun s page =>
    s.modEnt page fun e => { e with waiters := e.waiters.filter fun w => !p w.1, failed := e.failed.filter fun w => !p w }

/-- Counts a GNM event of a page for a context. -/
def State.countGnm (s : State) (page code ctx : Nat) (n : Nat := 1) : State :=
  s.count 0x0E (pageDir page) code { ctx := some ctx, za := some (65536 * page) } n

/-- The context a page belongs to, for attribution (R431). -/
def State.pageCtx (s : State) (page : Nat) : Nat :=
  match s.pageRegion page with
  | some (_, r) => r.ctx
  | none => 0

/-- Held pages of a die (GNM_COUNTS.HELD_PAGES). -/
def State.heldPages (s : State) (d : Nat) : Nat := (s.dir.filter fun e => pageDir e.1 == d && e.2.holds != 0).length

/-- Held pages charged to a function on a die (GNM_FN_HOLD.HELD, R179). -/
def State.fnHeld (s : State) (d fn : Nat) : Nat :=
  (s.dir.filter fun e => pageDir e.1 == d && e.2.holds != 0 &&
    (match s.pageRegion e.1 with | some (_, r) => r.fn == fn | none => false)).length

/-- Frames that the pages of a function hold on a die, by the owner of their regions (GNM_FN_RESIDENT.FRAMES, R179). -/
def State.fnResident (s : State) (d fn : Nat) : Nat :=
  (s.dir.filter fun e => pageDir e.1 == d && e.2.framed &&
    (match s.pageRegion e.1 with | some (_, r) => r.fn == fn | none => false)).length

/-- Removes a page from a die's prefetch queue (R163). -/
def State.cancelPrefetch (s : State) (page : Nat) : State :=
  let s := s.modDir (pageDir page) fun t => { t with
    pfQ := (t.pfQ.map fun e => { e with pages := e.pages.filter (· != page) }).filter fun e => !e.pages.isEmpty }
  s.modEnt page fun e => { e with pfPending := false }

/-! ## The entry cache (R160, R161) -/

/-- The lines of an entry cache: 96 MiB in lines of 64 bytes. -/
def entryLines : Nat := 1572864

/-- The pages whose entries lie in a cache line of a die: eight of the die's pages in a row. -/
def entryPages (d line : Nat) : List Nat := (List.range 8).map fun i => 16 * line + 2 * i + d

/-- An entry stays in the cache: its page is in FETCHING or WRITING_BACK, or has waiters. -/
def State.entryPinned (s : State) (page : Nat) : Bool :=
  (s.ent page).st == .fetching || (s.ent page).st == .writingBack || s.waiters page

/-- A cache after the use of a line: it comes first; past the capacity the least recently used line that may leave does. -/
def useLine (pinned : Nat → Bool) (l : List Nat) (line : Nat) : List Nat :=
  let m := line :: l.filter (· != line)
  if m.length ≤ entryLines then m
  else match (m.drop 1).reverse.find? fun x => !pinned x with
    | some x => m.erase x
    | none => m

/-- The system carve-out holds a line that cannot be corrected. -/
def State.carveOutBad (s : State) : Bool :=
  s.hbmStk.any fun e => e.2.flips.any fun f => (checkLine false false false f.2).isNone

/-- Brings the entry of a page into the cache (R161), for an access or for the directory's own work on the page. A miss is counted; the entries of a carve-out line that cannot be corrected are
unreadable from then on (R160): whether the line missed is such a one, where there is one, a free value decides, as the places of the
carve-out are not stated (log 122). -/
def State.cacheEntry (s : State) (page ctx : Nat) : State :=
  let d := pageDir page
  let line := page / 16
  let hit := (s.dirDie d).cache.contains line
  let s := s.modDir d fun t => { t with cache := useLine (fun l => (entryPages d l).any s.entryPinned) t.cache line }
  if hit then s
  else
    let s := s.countGnm page 0x02 ctx
    if s.carveOutBad then
      let f := s.takeFree
      if f.1 % 2 = 1 then f.2.each (entryPages d line) fun s p => s.modEnt p fun e => { e with bad := true } else f.2
    else s

/-! ## Reads at the flash dies (R334) -/

/-- The work of a die index. -/
def State.nand (s : State) (d die : Nat) : NandDie := tget {} (s.fls d).nand die
def State.modNand (s : State) (d die : Nat) (f : NandDie → NandDie) : State :=
  s.modFls d fun t => { t with nand := tmod {} t.nand die f }

/-! ## Stripe blocks and fetches from them (R325, R326, R333-R335) -/

/-- The key of a stripe block: 8,192 times the die index plus the block. -/
def MapEnt.key (e : MapEnt) : Nat := 8192 * e.die + e.block

/-- The local channel that holds the parity of a stripe block: (b + d) mod 12, or the next one in a block laid out without it (R325, R335,
log 161). -/
def parityChannel (key : Nat) (lacking : BitVec 12) : Nat :=
  let p := (key % 8192 + key / 8192) % 12
  (lowest (fun c => !lacking.getLsbD (c % 12)) p 12).getD p % 12

/-- The local channel of data member j (R325). -/
def dataChannel (parity j : Nat) : Nat := if j < parity then j else j + 1

/-- The data member on which a unit of a stripe block lies (R326). -/
def unitMember (unit : Nat) : Nat := unit % 1408 / 128

/-- The members that a stripe block was laid out without. -/
def State.lackingOf (s : State) (d key : Nat) : BitVec 12 := (tget {} (s.fls d).blocks key).lacking

/-- The local channel on which each unit of an image lies. -/
def State.channelOf (s : State) (e : MapEnt) (unit : Nat) : Nat :=
  dataChannel (parityChannel e.key (s.lackingOf e.fls e.key)) (unitMember unit)

/-- The flash ECC codewords of an image, each by its first unit's number divided by 4 (R326, R333). -/
def MapEnt.codewords (e : MapEnt) : List Nat :=
  (List.range ((e.unit + e.units - 1) / 4 + 1 - e.unit / 4)).map (e.unit / 4 + ·)

/-- The local channels of the members that hold an image (R325, R326). -/
def State.membersOf (s : State) (e : MapEnt) : List Nat := (e.codewords.map fun w => s.channelOf e (4 * w)).eraseDups

/-- The dies of an index are programming or erasing, or suspended in it. -/
def NandDie.working (n : NandDie) : Bool := n.program.isSome || n.erase.isSome

/-- A fetch can be read: no other one reads its NAND dies, and a program or erase there has been suspended fewer than 8 times (R334). -/
def NandDie.mayRead (n : NandDie) (r : FlashRead) : Bool :=
  n.reading.all (fun q => q.members.all fun m => !r.members.contains m)
    && (!n.working || r.members.all fun m => decide (tget 0 n.suspends m < 8))

/-- A fetch is read, which suspends what its NAND dies do. -/
def State.startRead (s : State) (d die : Nat) (r : FlashRead) : State :=
  let s := if (s.nand d die).working then s.count 0x0F d 0x09 {} r.members.length else s
  s.modNand d die fun n => { n with
    reading := n.reading ++ [r]
    suspends := if n.working then r.members.foldl (fun t m => tmod 0 t m (· + 1)) n.suspends else n.suspends }

/-- A fetch that reads flash joins the work of its die index (R334). It is read at once where its dies are idle; a demand fetch suspends
a program or erase, at most 8 times; else it waits. -/
def State.joinDie (s : State) (page : Nat) (demand : Bool) : State :=
  match tfind? s.fmap page with
  | none => s
  | some e =>
    let r : FlashRead := { page, place := e, members := s.membersOf e }
    let n := s.nand e.fls e.die
    let ahead := n.demand.any n.mayRead || (!demand && (n.working || !n.demand.isEmpty || n.prefetch.any n.mayRead))
    if n.mayRead r && !ahead then s.startRead e.fls e.die r
    else s.modNand e.fls e.die fun n =>
      if demand then { n with demand := n.demand ++ [r] } else { n with prefetch := n.prefetch ++ [r] }

/-- A fetch dispatched as a prefetch is raised to demand: where it still waits for its flash die it goes among the demand fetches
(R172, R173, R334). -/
def State.raiseFetch (s : State) (page : Nat) : State :=
  if (s.ent page).demand then s
  else
    let s := s.modEnt page fun e => { e with demand := true }
    s.each [0, 1] fun s d => s.each (s.fls d).nand fun s x =>
      match x.2.prefetch.find? fun r => r.page == page with
      | some r =>
        if x.2.mayRead r && !x.2.demand.any x.2.mayRead then
          (s.modNand d x.1 fun n => { n with prefetch := n.prefetch.filter (·.page != page) }).startRead d x.1 r
        else s.modNand d x.1 fun n => { n with prefetch := n.prefetch.filter (·.page != page), demand := n.demand ++ [r] }
      | none => s

/-- A fetch still waits for its flash die. -/
def State.readWaits (s : State) (page : Nat) : Bool :=
  s.flss.any fun f => f.2.nand.any fun n => (n.2.demand ++ n.2.prefetch).any fun r => r.page == page

/-- The entry that a fetch reads: that of the page when the fetch began. -/
def State.readPlace (s : State) (page : Nat) : MapEnt :=
  ((s.flss.findSome? fun f => f.2.nand.findSome? fun n => n.2.reading.find? fun r => r.page == page).map (·.place)).getD (tget {} s.fmap page)

/-- A fetch has ended: its flash die reads it no more. -/
def State.leaveDie (s : State) (page : Nat) : State :=
  let left (n : Nat × NandDie) : Option (Nat × NandDie) :=
    let m := { n.2 with reading := n.2.reading.filter (·.page != page) }
    if m = {} then none else some (n.1, m)
  s.each [0, 1] fun s d => s.modFls d fun t => { t with nand := t.nand.filterMap left }

/-- Every FLS die is lost or has images that wait for a free stripe block (17, what faults cost). -/
def State.flashFull (s : State) : Bool :=
  (List.range 2).all fun d => (s.fls d).lost || (s.fls d).openW.any fun i => i.place.units == 0

/-! ## Page movements (R162, R164) -/

/-- The page has a poisoned line in HBM. -/
def State.pagePoisoned (s : State) (page : Nat) : Bool := !(tableRange s.hbm.poison (1024 * page) 1024).isEmpty

/-- Gives a page a zero-filled frame (R162, R163, R174): the frame pair is cleared (R209). While a fetch of the page as it was before it
was freed is in flight to its place, it is given none. -/
def State.zeroFrame (s : State) (page : Nat) (demand : Bool) (f : DirEnt → DirEnt) : Option State :=
  if (s.ent page).discard then none
  else
    match s.takeFrame page demand with
    | some (frame, s) =>
      let s := s.setFramePair page 0 0
      let s := s.modHbm fun h => h.clearPages page 1
      some ((s.modEnt page fun e => f { e with frame }).settlePressure (pageDir page))
    | none => none

/-- Starts a write-back (R164): the snapshot takes DIRTY, which clears. -/
def State.startWriteback (s : State) (page : Nat) (evicting : Bool) : State :=
  (s.cacheEntry page (s.pageCtx page)).modEnt page fun e => if e.bad then e else { e with st := .writingBack, evicting, snapshot := e.dirty, dirty := 0, readDone := false, queued := s.tierHeld }

/-- An eviction decision (R162). -/
def State.evict (s : State) (page : Nat) : State :=
  let s := s.cacheEntry page (s.pageCtx page)
  let e := s.ent page
  if e.bad then s
  else
  match e.st with
  | .clean =>
    let s := s.freeFrame page false
    let s := (s.setFramePair page 0 0).modHbm fun h => h.clearPages page 1
    let s := s.modEnt page fun e =>
      { e with st := if e.onFlash then .flash else .invalid, frame := 0, deferEvict := false, poisoned := e.poisoned && e.onFlash }
    (s.countGnm page 0x08 (s.pageCtx page)).settlePressure (pageDir page)
  | .dirty =>
    let s := (s.startWriteback page true).modEnt page fun e => { e with deferEvict := false }
    s.countGnm page 0x09 (s.pageCtx page)
  | _ => s

/-- Queues a demand fetch of a FLASH page (R133, R172, R173): a queued prefetch of the page alone is raised. -/
def State.queueDemand (s : State) (page : Nat) : State :=
  let d := pageDir page
  if (s.dirDie d).demandQ.contains page then s
  else s.modDir d fun t => { t with
    demandQ := t.demandQ ++ [page]
    pfQ := (t.pfQ.map fun e => { e with pages := e.pages.filter (· != page) }).filter fun e => !e.pages.isEmpty }

/-- What the directory makes of an access to a tier page. -/
inductive Lookup where
  /-- the directory answers zeros itself -/
  | zeros
  /-- the access goes to the frame -/
  | go
  /-- a demand miss -/
  | miss
  /-- a write during a read-out waits for its end -/
  | readout
  /-- the page's entry cannot be read: DATA_UNCORRECTABLE (R160) -/
  | unreadable
deriving DecidableEq, Repr

/-- The state machine of a page at an access (R162): `wr` holds the DIRTY bits a write sets; `missed` counts a miss. While a
write-back goes on from the copy of a lost frame, an access waits as it does for a restore (R165; log 123). -/
def State.accessPage (s : State) (page : Nat) (wr : Option (BitVec 16)) (missed : State → State) : Lookup × State :=
  let e := s.ent page
  match e.st, wr with
  | .invalid, none => (.zeros, s)
  | .invalid, some m =>
    (match s.zeroFrame page true fun e => { e with st := .dirty, dirty := m, onFlash := false, ref := true, pfPending := false } with
     | some s => (.go, (s.cancelPrefetch page))
     | none => (.miss, missed s))
  | .flash, _ => (.miss, (missed s).queueDemand page)
  | .fetching, _ => (.miss, (missed s).raiseFetch page)
  | .clean, none => (.go, s.modEnt page fun e => { e with ref := true })
  | .clean, some m => (.go, s.modEnt page fun e => { e with st := .dirty, ref := true, dirty := e.dirty ||| m })
  | .dirty, none => (.go, s.modEnt page fun e => { e with ref := true })
  | .dirty, some m => (.go, s.modEnt page fun e => { e with ref := true, dirty := e.dirty ||| m })
  | .writingBack, none =>
    if e.frameLost then (.miss, missed s) else (.go, s.modEnt page fun e => { e with ref := true })
  | .writingBack, some m =>
    if e.frameLost then (.miss, missed s)
    else if e.readDone then (.go, s.modEnt page fun e => { e with ref := true, dirty := e.dirty ||| m })
    else if e.queued && s.tierHeld then (.go, s.modEnt page fun e => { e with ref := true, snapshot := e.snapshot ||| m })
    else (.readout, s)

/-- Where an access stands with a page: new, held on its read-out, or held as a miss. -/
inductive Visit where
  | first
  | waited
  | missed
deriving DecidableEq, Repr

/-- The lookup of an access in the entry cache (R161): one that was held on the page has been looked up. -/
def State.look (s : State) (page ctx : Nat) (cls : Option Nat) (v : Visit) : State :=
  if v = .first then ((s.fixed 0x0E (pageDir page) 2 1).count 0x0E (pageDir page) 0x01
    { ctx := some ctx, cls, za := some (65536 * page) }).cacheEntry page ctx else s

/-- A miss is counted (R173): one held as a miss has been. -/
def State.countMiss (s : State) (page ctx : Nat) (v : Visit) : State :=
  if v = .missed then s else s.countGnm page (if (s.ent page).pfPending then 0x04 else 0x03) ctx

/-- An access at the directory: the lookup in the entry cache, then the page's state (R160-R162). -/
def State.lookup (s : State) (page : Nat) (wr : Option (BitVec 16)) (ctx : Nat) (cls : Option Nat) (v : Visit) : Lookup × State :=
  let s := s.look page ctx cls v
  if (s.ent page).bad then (.unreadable, s)
  else s.accessPage page wr fun t => t.countMiss page ctx v

/-! ## The fetch order (R172) -/

/-- The next prefetch entry of a die: highest priority; within it the next context after the one whose turn was last; within
a context an entry already started, else the lowest order key, then arrival. -/
def Dir.nextPrefetch (t : Dir) : Option PfEntry :=
  ((List.range 8).reverse.findSome? fun prio =>
    let es := t.pfQ.filter fun e => e.prio == prio
    let last := tget 0 t.turn prio
    let next := (es.map (·.ctx)).foldl (fun (b : Option Nat) c =>
      match b with
      | none => some c
      | some a => if (c + 4095 - last) % 4096 < (a + 4095 - last) % 4096 then some c else b) none
    match next with
    | none => none
    | some c =>
      let own := es.filter fun e => e.ctx == c
      match own.find? (·.started) with
      | some e => some e
      | none =>
        own.foldl (fun (b : Option PfEntry) e =>
          match b with
          | none => some e
          | some a => if e.key < a.key || (e.key = a.key && e.seq < a.seq) then some e else b) none)

/-- A page in FETCHING takes a new frame; it has none where none is free (R165). -/
def State.refetch (s : State) (page : Nat) : State :=
  match s.takeFrame page true with
  | some (frame, s) => s.modEnt page fun e => { e with frame, frameLost := false }
  | none => s.modEnt page fun e => { e with frameLost := true }

/-- Dispatches a queued page: a fetch of a FLASH page into a frame, or the zero-filled frame of a held INVALID page (R162,
R163, R165, R209), which waits while a fetch for a freed page is in flight to its place. A page in another state needs nothing. None:
no frame. -/
def State.dispatchPage (s : State) (page : Nat) (demand : Bool) : Option State :=
  let d := pageDir page
  let s := s.cacheEntry page (s.pageCtx page)
  let e := s.ent page
  if e.bad then some s
  else
  match e.st with
  | .flash =>
    match s.takeFrame page demand with
    | some (frame, s) =>
      let r := s.refRec page
      let s := (s.setFramePair page r.flashA r.flashB).modEnt page fun e => { e with st := .fetching, frame, demand }
      let s := s.modDir d fun t => { t with inFlight := t.inFlight + 1 }
      some (((s.countGnm page (if demand then 0x06 else 0x05) (s.pageCtx page)).joinDie page demand).settlePressure d)
    | none => none
  | .invalid =>
    if e.holds != 0 && (e.pfPending || demand) then
      s.zeroFrame page demand fun e => { e with st := .clean, onFlash := false, pfPending := false, ref := true }
    else some s
  | _ => some s

/-- FETCH_DISPATCH of a die (R172): at most 4,096 in flight; a queued page that cannot take a frame stays. -/
def State.dispatchNext (s : State) (d : Nat) : State :=
  let t := s.dirDie d
  if 4096 ≤ t.inFlight || s.tierHeld then s
  else
    match t.demandQ with
    | page :: rest =>
      (match s.dispatchPage page true with
       | some s => s.modDir d fun t => { t with demandQ := rest }
       | none => s)
    | [] =>
      match t.nextPrefetch with
      | none => s
      | some en =>
        match en.pages with
        | [] => s.modDir d fun t => { t with pfQ := t.pfQ.filter fun e => e.seq != en.seq }
        | page :: _ =>
          match s.dispatchPage page false with
          | some s => s.modDir d fun t => { t with
              turn := tput 0 t.turn en.prio en.ctx
              pfQ := (t.pfQ.map fun e => if e.seq = en.seq then { e with pages := e.pages.drop 1, started := true } else e).filter
                fun e => !e.pages.isEmpty }
          | none => s

/-! ## Ends of fetches and write-backs -/

/-- Poisons every line of a block, reason 1 (R165). -/
def Store.poisonBlock (st : Store) (block kind : Nat) : Store :=
  { st.freshLines (64 * block) 64 with
    poison := (List.range 64).foldl (fun t l => tset t (64 * block + l) { reason := 1, kind := kind }) st.poison }

/-- The page state at the end of a fetch (R162, R165, R167): content from flash, or for a restore the flash content with
the dirty blocks poisoned. Held requests are released by the caller. -/
def State.fetched (s : State) (page : Nat) : State :=
  let e := s.ent page
  let d := pageDir page
  let s := s.modDir d fun t => { t with inFlight := t.inFlight - 1 }
  if e.discard then
    (((if e.frameLost then s else s.freeFrame page true).setFramePair page 0 0).modEnt page fun e =>
      { holds := e.holds, pfPending := e.pfPending, deferEvict := e.deferEvict }).settlePressure d
  else if e.bad then s
  else
    let s := s.modHbm fun h => if e.onFlash || !e.restoring then h.copyPage s.flash page else h.clearPages page 1
    let s := if e.restoring then
        s.each (List.range 16) fun s b =>
          if e.dirty.getLsbD b then s.modHbm fun h => h.poisonBlock (16 * page + b) e.lossKind else s
      else s
    let p := s.pagePoisoned page
    let s := s.modEnt page fun e =>
      if e.restoring then { e with st := .dirty, restoring := false, lossKind := 0, ref := true, pfPending := false, poisoned := p, waiters := [], demand := false }
      else { e with st := .clean, onFlash := true, ref := true, pfPending := false, poisoned := p, waiters := [], demand := false }
    (s.fixed 0x0E d 3 65536)

/-- The page state when a fetch fails (R167). -/
def State.fetchFail (s : State) (page : Nat) : State :=
  let e := s.ent page
  let s := s.modDir (pageDir page) fun t => { t with inFlight := t.inFlight - 1 }
  if e.bad && !e.discard then s else
  let s := (if e.frameLost then s else s.freeFrame page e.discard).setFramePair page 0 0
  let s := s.modEnt page fun e =>
    if e.discard then { holds := e.holds, pfPending := e.pfPending, deferEvict := e.deferEvict }
    else { e with st := .flash, frame := 0, frameLost := false, pfPending := false, restoring := false, waiters := [], demand := false,
                  failed := (e.waiters.filter (·.2)).map (·.1), dirty := 0 }
  s.settlePressure (pageDir page)

/-- A deferred eviction is made once the holds are gone (R162). -/
def State.deferred (s : State) (page : Nat) : State :=
  let e := s.ent page
  if e.deferEvict && e.holds = 0 then s.evict page else s

/-- The write-back of a page has committed: the page's state (R162, R165). Its flash content and flash pair are those of the
journalled image. -/
def State.committed (s : State) (page : Nat) : State :=
  let e := s.ent page
  let s := s.countGnm page 0x07 (s.pageCtx page)
  let s := s.fixed 0x0E (pageDir page) 3 65536
  if e.bad then s
  else if e.frameLost then
    if e.dirty ≠ 0 then
      -- the frame was lost: the page is restored into a new frame, its dirty blocks poisoned (R165)
      let r := s.refRec page
      let s := (s.setFramePair page r.flashA r.flashB).modEnt page fun e =>
        { e with st := .fetching, onFlash := true, evicting := false, frameLost := false, restoring := true, demand := true }
      (((s.modDir (pageDir page) fun t => { t with inFlight := t.inFlight + 1 }).joinDie page true).refetch page).settlePressure
        (pageDir page)
    else
      let s := s.modEnt page fun e => { e with st := .flash, onFlash := true, evicting := false, frameLost := false, frame := 0 }
      if s.waiters page then s.queueDemand page else s
  else if e.dirty ≠ 0 then
    s.modEnt page fun e => { e with st := .dirty, onFlash := true, evicting := false }
  else if e.evicting && e.holds = 0 then
    let s := (s.freeFrame page false).setFramePair page 0 0
    let s := s.modHbm fun h => h.clearPages page 1
    (s.modEnt page fun e => { e with st := .flash, onFlash := true, evicting := false, deferEvict := false, frame := 0 }).settlePressure
      (pageDir page)
  else s.modEnt page fun e => { e with st := .clean, onFlash := true, evicting := false }

/-! ## CKPT_COMMITs that wait for a page (R177) -/

/-- A write-back of a page has committed, or the page has left the tier: what each CKPT_COMMIT waits for falls by it; one that waits for nothing more
replies with its pages. A page still to be committed once more is written back again. -/
def State.ckptCommitted (s : State) (page : Nat) : State :=
  let again := s.cmds.any fun c => c.opcode == 0x0204 && c.st == .running && c.pages.contains (page + 2 ^ 32)
  let s := s.each (s.cmds.filter fun c => c.opcode == 0x0204 && c.st == .running && (c.pages.contains page || c.pages.contains (page + 2 ^ 32)))
    fun s c =>
      let left := (c.pages.filter (· != page)).map fun p => if p = page + 2 ^ 32 then page else p
      if left.isEmpty then s.reply c 0 c.done else s.modCmd c.id fun c => { c with pages := left }
  if again && (s.ent page).st == .dirty then s.startWriteback page false else s

/-- A CKPT_COMMIT waits for a page that is dirty with no write-back under way (its write-back was abandoned, R165): it starts
again. -/
def State.ckptResume (s : State) (page : Nat) : State :=
  if (s.ent page).st == .dirty && !(s.ent page).bad && s.cmds.any fun c => c.opcode == 0x0204 && c.st == .running &&
      (c.pages.contains page || c.pages.contains (page + 2 ^ 32)) then s.startWriteback page false
  else s

/-- CKPT_COMMITs that wait for a page reply with a status. -/
def State.ckptFail (s : State) (page status : Nat) : State :=
  s.each (s.cmds.filter fun c => c.opcode == 0x0204 && c.st == .running &&
      (c.pages.contains page || c.pages.contains (page + 2 ^ 32))) fun s c => s.reply c status

/-! ## Victim selection (R178) -/

/-- Frames that evicting write-backs of a die will free: their pages are not held, not dirty again, and still have one. -/
def State.evictingFrames (s : State) (d : Nat) : Nat :=
  (s.dir.filter fun e => pageDir e.1 == d && e.2.st == .writingBack && e.2.evicting && e.2.holds == 0 && e.2.dirty == 0 &&
    !e.2.frameLost).length

/-- The page whose frame on a die has a number. -/
def State.pageOfFrame (s : State) (d f : Nat) : Option Nat :=
  (s.dir.find? fun e => pageDir e.1 == d && e.2.framed && e.2.frame == f).map (·.1)

/-- A die needs victims: frame pressure not yet answered, or a pinned allocation that waits for frames (R157, R158). -/
def State.needsVictims (s : State) (d : Nat) : Bool :=
  let t := s.dirDie d
  (t.pressure && s.freeFrames d + s.evictingFrames d < t.high) || t.cacheFrames + s.evictingFrames d < s.framesUsed d

/-- The clock hand passes the frames given, until a victim has been chosen. -/
def State.clock (s : State) (d : Nat) : List Nat → State
  | [] => s
  | f :: rest =>
    let s := s.modDir d fun t => { t with hand := f + 1 }
    match s.pageOfFrame d f with
    | none => s.clock d rest
    | some page =>
      let e := s.ent page
      if e.holds ≠ 0 || e.bad || s.waiters page || !(e.st == .clean || (e.st == .dirty && !s.flashFull)) then s.clock d rest
      else if e.ref then (s.modEnt page fun e => { e with ref := false }).clock d rest
      else s.evict page

/-- VICTIM_SELECTION of a die: the hand goes round until one victim is chosen. -/
def State.selectVictim (s : State) (d : Nat) : State :=
  if s.needsVictims d && !s.tierHeld then
    let used := (s.dirDie d).used
    let hand := (s.dirDie d).hand
    let order := (used.filter (hand ≤ ·)).mergeSort ++ (used.filter (· < hand)).mergeSort
    s.clock d (order ++ order)
  else s

/-! ## Frame loss (R165) -/

/-- A page whose frame lies in a retired unit of a kind (R415). DEFER_EVICT is kept, also where the page becomes INVALID: R165 keeps it in every
case (log 153). DESIGN CHOICE (log 154): restores start at once, outside the order and the number of the fetches that R172 dispatches, and
are counted among those in flight. -/
def State.loseFrame (s : State) (page kind : Nat) : State :=
  let s := s.cacheEntry page (s.pageCtx page)
  let e := s.ent page
  let d := pageDir page
  let striped := match s.pageRegion page with | some (_, r) => r.stripe | none => false
  if striped || e.bad then s
  else
    let restore (s : State) : State :=
      let r := s.refRec page
      let s := s.freeFrame page false
      let s := (s.setFramePair page r.flashA r.flashB).modEnt page fun e => { e with st := .fetching, restoring := true, lossKind := kind, readDone := false, demand := true }
      let s := s.modDir d fun t => { t with inFlight := t.inFlight + 1 }
      ((if e.onFlash then s.joinDie page true else s).refetch page).settlePressure d
    match e.st with
    | .clean =>
      let s := (s.freeFrame page false).setFramePair page 0 0
      let s := s.modHbm fun h => h.clearPages page 1
      if e.onFlash then (s.modEnt page fun e => { e with st := .flash, frame := 0 }).settlePressure d
      else
        let s := (s.modEnt page fun e => { e with st := .invalid, frame := 0 }).settlePressure d
        if e.holds ≠ 0 then
          (match s.zeroFrame page true fun e => { e with st := .clean, onFlash := false } with
           | some s => s
           | none => s.modDir d fun t => { t with demandQ := t.demandQ ++ [page] })
        else s
    | .dirty => restore s
    | .writingBack =>
      if e.readDone then
        let s := (s.freeFrame page false).setFramePair page 0 0
        (s.modEnt page fun e => { e with frameLost := true, lossKind := kind, frame := 0 }).settlePressure d
      else restore (s.modEnt page fun e => { e with dirty := e.snapshot ||| e.dirty, evicting := false })
    | .fetching => if e.frameLost then s else ((s.freeFrame page false).refetch page).settlePressure d
    | _ => s

/-! ## Freeing pages (R45, R162) -/

/-- A page's region is freed: every field but the flash pair is cleared (`trim`); a fetch or program in flight completes before its result is
discarded. -/
def State.freePage (s : State) (page : Nat) : State :=
  let e := s.ent page
  let s := s.cancelPrefetch page
  let s := s.modDir (pageDir page) fun t => { t with demandQ := t.demandQ.filter (· != page) }
  let s := s.setFramePair page 0 0
  let gone (s : State) : State := (s.modEnt page fun _ => {}).settlePressure (pageDir page)
  match e.st with
  | .fetching =>
    s.modEnt page fun e => { frame := e.frame, frameLost := e.frameLost, discard := true }
  | .writingBack => if e.frameLost then gone s else gone (s.freeFrame page true)
  | .clean => gone (s.freeFrame page true)
  | .dirty => gone (s.freeFrame page true)
  | _ => if e.discard then s.modEnt page fun e => { frame := e.frame, frameLost := e.frameLost, discard := true } else gone s

/-! ## The journal (R329, R341) -/

/-- A page as its flash map entry, flash pair and image stand. -/
def State.flashRec (s : State) (die page seq : Nat) (commit : Bool := false) : JRec :=
  let r := s.refRec page
  { seq, die, page, place := tget {} s.fmap page, flashA := r.flashA, flashB := r.flashB, img := tget {} s.images page
    data := ({} : Store).copyPage s.flash page, commit }

/-- A page's flash map entry, flash pair and image become those of a record. -/
def State.putFlash (s : State) (r : JRec) : State :=
  { s.setFlashPair r.page r.flashA r.flashB with
    fmap := if r.place.mapped then tset s.fmap r.page r.place else tdel s.fmap r.page
    images := if r.place.mapped then tset s.images r.page r.img else tdel s.images r.page
    flash := s.flash.copyPage r.data r.page }

/-- Before a page's flash map entry changes: what the system area has of the page is kept until a record is there (R329, R341). -/
def State.saveFlash (s : State) (page : Nat) : State :=
  if thas s.saved page then s else { s with saved := tset s.saved page (s.flashRec 0 page 0) }

/-- The newest record of a page: that of the system area, or one in a journal buffer. -/
def State.newestRec (s : State) (page : Nat) : Option JRec :=
  let l := (tfind? s.saved page).toList ++ s.journals.filter fun r => r.page == page
  l.foldl (fun a r => match a with | some b => if b.seq ≤ r.seq then some r else a | none => some r) none

/-- The records in the journal buffer of an FLS die, oldest first (R329). -/
def State.bufferOf (s : State) (d : Nat) : List JRec := s.journals.filter (·.die == d)

/-- Pages without a record in a buffer are as the system area has them. -/
def State.dropSaved (s : State) : State :=
  { s with saved := s.saved.filter fun e => s.journals.any fun r => r.page == e.1 }

/-- A record takes the place of an older one of its page (R329). -/
def putNewer (t : Tbl JRec) (r : JRec) : Tbl JRec := if (tget r t r.page).seq ≤ r.seq then tset t r.page r else t

/-- The journal buffer of a die has been written to the system area: a new journal area. -/
def State.journalSaved (s : State) (d : Nat) : State :=
  let l := s.bufferOf d
  let s := s.modFls d fun t => { t with areas := t.areas ++ (l.getLast?.map (·.seq)).toList }
  { s with journals := s.journals.filter (·.die != d), saved := l.foldl putNewer s.saved }.dropSaved

/-- The journal buffer of a die is lost (R341): each of its pages is as its newest record elsewhere has it, its flash pair with it (R213),
and a write-back whose record is lost was never committed. -/
def State.journalLost (s : State) (d : Nat) : State :=
  let l := s.bufferOf d
  let undone := (l.filter fun r => r.commit && decide ((tget { r with seq := 0 } s.saved r.page).seq < r.seq)).length
  let s := s.modFls d fun t =>
    let back (c : Tbl Nat) (r : JRec) : Tbl Nat :=
      if tget 0 t.segDone (r.page / 131072) < r.seq then tput 0 c (r.page / 131072) (tget 0 c (r.page / 131072) - 1) else c
    { t with segRecs := l.foldl back t.segRecs, pagesWritten := (t.pagesWritten + 2 ^ 48 - undone) % 2 ^ 48 }
  let s := { s with journals := s.journals.filter (·.die != d) }
  (s.each (l.map (·.page)).eraseDups fun s p => match s.newestRec p with | some r => s.putFlash r | none => s).dropSaved

/-- A 1 MiB map segment is rewritten to the system area (R329): its pages are there as they stand, and the journal areas older than the
oldest segment rewrite are released. -/
def State.rewriteSegment (s : State) (d seg : Nat) : State :=
  let s := s.modFls d fun t =>
    let segDone := tset t.segDone seg s.nextId
    let oldest := (t.segRecs.map fun e => tget 0 segDone e.1) ++ segDone.map (·.2)
    { t with
      segRecs := tput 0 t.segRecs seg 0, segDone
      areas := t.areas.filter fun a => decide (oldest.foldl min s.nextId ≤ a) }
  { s with saved := s.saved.map fun e => if e.1 / 131072 = seg then (e.1, (s.newestRec e.1).getD e.2) else e }

/-- Journals a change of a page's flash map entry on an FLS die (R329): a map segment is rewritten once 4,096 records name its pages,
and the buffer is written to the system area at 768 KiB, both at once (log 162). -/
def State.journalMap (s : State) (d page : Nat) (commit : Bool := false) : State :=
  let n := s.takeId
  let r := n.2.flashRec d page (n.1 + 1) commit
  let s := { n.2 with journals := n.2.journals ++ [r] }.modFls d fun t => { t with segRecs := tmod 0 t.segRecs (page / 131072) (· + 1) }
  let s := if 4096 ≤ tget 0 (s.fls d).segRecs (page / 131072) then s.rewriteSegment d (page / 131072) else s
  if 49152 ≤ (s.bufferOf d).length then s.journalSaved d else s

/-- Trims a page's flash map entry, with its flash pair, its committed and its staged image (R45, R287). -/
def State.trim (s : State) (page : Nat) : State :=
  let gone (s : State) : State :=
    { s with fmap := tdel s.fmap page, images := tdel s.images page, flash := s.flash.clearPages page 1, staged := s.staged.clearPages page 1 }
  match tfind? s.fmap page with
  | some e => (gone ((s.saveFlash page).setFlashPair page 0 0)).journalMap e.fls page
  | none => gone (s.setFlashPair page 0 0)

end Sys2Proof.Machine
end

