-- ==== Sys2Proof/Machine/Mem.lean ====
section
/-!
DEFINITION. The memory dies: what a line's unit allows, the read of a stored line through its check, its reconstruction and its
decryption, the reads of compressed blocks, writes, atomics and accumulates at the order point, the write buffer and its drain, and
the class measurements (R47-R51, R124-R129, R134, R139-R141, R184, R193-R196, R306-R313, R318-R321).
-/

namespace Sys2Proof.Machine

/-! ## Units and lines -/

/-- What the unit that holds a line allows. -/
inductive Avail where
  | ok
  | frozen
  | gone
deriving DecidableEq, Repr

/-- The write buffer holds a line (R126). -/
def State.buffered (s : State) (line : Nat) : Bool :=
  s.wbuf.any fun e => if e.block then e.line ≤ line && line < e.line + 64 else e.line == line

/-- The unit at a stack and pseudo-channel, for a line of a ZA (R318-R321). -/
def State.unitAvail (s : State) (k p line : Nat) : Avail :=
  let t := s.stack k
  if t.placed.contains line then .ok
  else if t.st ≠ 0 then .gone
  else
    match (s.pc k p).st with
    | .running => .ok
    | .frozen => .frozen
    | .retiring => .gone
    | .retired => if (s.pc k p).relocated then .ok else .gone

/-- The frame-map entry of a pinned line says lost (R299, R321). -/
def State.frameLostAt (s : State) (line : Nat) : Bool :=
  let za := 64 * line
  if zaTiered za then false
  else
    let p := pinnedPage za
    3 ≤ (tget {} (s.stack (stackOfPinned p)).frameMap (frameIndex p)).st

/-- Lines of a page written in full while a pseudo-channel of its stack retires are placed in the relocation area (R320). -/
def State.placePage (s : State) (page : Nat) : State :=
  let pl := s.placeOf (65536 * page)
  let gone := ((s.stack pl.1).pcs.filter fun e => e.2.st == .retiring).map (·.1)
  if gone.isEmpty then s
  else s.modStack pl.1 fun t => { t with
    placed := t.placed ++ ((List.range 1024).filter fun l => gone.contains (pcOfLine pl.2 l)).map (1024 * page + ·) }

/-- A line's unit. -/
def State.lineAvail (s : State) (line : Nat) : Avail :=
  let kp := s.pcOf line
  if s.frameLostAt line then .gone else s.unitAvail kp.1 kp.2 line

/-! ## Stored lines: encryption, check bits, stripes (R47-R50, R184, R306-R313) -/

/-- The key of a region's lines: what the memory dies hold in its key slot (R36, R47, R49). -/
def State.keyOf (s : State) (r : Region) : BitVec 512 := Config.keyBits (tget 0 s.keys (r.slot))

/-- The 64 bytes of a poison record (R310). -/
def Poison.bytes (p : Poison) : List Byte :=
  leBytes 32 Config.poisonSignature.toNat ++ leBytes 1 p.reason ++ leBytes 1 p.kind ++ List.replicate 30 0

/-- The record that a line spells after the signature (R310): a reserved REASON reads as 1. -/
def recordOf (v : Line) : Poison :=
  { reason := if bits v.toNat 263 256 = 2 then 2 else 1, kind := bits v.toNat 271 264 }

/-- What a stored line holds before encryption: the line, or on line 0 of a headed block its header and the first payload bytes
(R183). -/
def Store.content (st : Store) (auto : Bool) (line : Nat) : Line :=
  let f := tget {} st.forms (line / 64)
  if auto && line % 64 = 0 && f.headed then lineOf (f.header ++ readBytes st.mem (64 * line + 28) 36) else readLine st.mem line

/-- The check bits of a line carry the marker of R184. A poison record is stored without it. -/
def Store.marked (st : Store) (auto : Bool) (line : Nat) : Bool :=
  auto && line % 64 = 0 && !thas st.poison line && (tget {} st.forms (line / 64)).headed

/-- The 64 bytes of a line as they are written to HBM (R48, R50, R310): its ciphertext, or a poison record as it is. -/
def State.wire (s : State) (r : Region) (line : Nat) : Line :=
  match tfind? s.hbm.poison line with
  | some p => lineOf p.bytes
  | none => Aes.xtsEncrypt (s.keyOf r) (Aes.tweak line r.gen) (s.hbm.content r.auto line)

/-- A line with the check bytes that it is written with (R50, R184). -/
def State.stored (s : State) (r : Region) (line : Nat) : Stored :=
  storedOf (attrCodeL r.attr) (s.hbm.marked r.auto line) (s.wire r line)

/-- The wrong bits of a parity line, by the stack, the frame position and the line of the frame. -/
def State.parityFlips (s : State) (k frame off : Nat) : Stored := tget 0 (s.stack k).flips (2 ^ 25 * pcOfLine frame off + pcLineOf k frame off)

/-- Changes the wrong bits of a parity line. -/
def State.modParity (s : State) (k frame off : Nat) (f : Stored → Stored) : State :=
  s.modStack k fun t => { t with flips := tmod 0 t.flips (2 ^ 25 * pcOfLine frame off + pcLineOf k frame off) f }

/-- The stripe of a line (R301): its data lines, which lie at one offset of their frames, and the place of its parity line. -/
structure Stripe where
  /-- the data lines; an absent member is not among them, and counts as zeros -/
  data  : List Nat
  /-- the line of the frame -/
  off   : Nat
  /-- the stack of the parity line, and its frame position there -/
  stack : Nat
  frame : Nat
  /-- a number of its own for the parity line, above all line numbers -/
  key   : Nat
  /-- the frame-map entry of the parity frame says lost -/
  lost  : Bool := false
deriving DecidableEq, Repr

/-- The stripe of a line of pinned space: the four pages of R298, as far as they belong to the region. -/
def State.pinnedStripe (s : State) (r : Region) (line : Nat) : Stripe :=
  let p := pinnedPage (64 * line)
  let k := parityStack p
  let e := tget {} (s.stack k).frameMap (frameIndex p)
  let base := (2 ^ 32 + p / 4 * 4) * 1024 + line % 1024
  { data := ((List.range 4).map fun m => base + 1024 * m).filter fun l => r.zaPage ≤ l / 1024 && l / 1024 < r.zaPage + r.pages
    off := line % 1024, stack := if e.sibling then siblingOf k else k, frame := e.frame, key := 2 ^ 43 + base, lost := e.st == 3 }

/-- The stripe of a line of the tier cache: the set that its page lies in. -/
def State.tierStripe (s : State) (line : Nat) : Option Stripe :=
  let d := pageDir (line / 1024)
  ((s.dirDie d).sets.find? fun t => t.pages.contains (line / 1024)).map fun t =>
    let k := tierStack d t.parity
    { data := t.pages.map fun p => 1024 * p + line % 1024, off := line % 1024, stack := if t.moved then siblingOf k else k
      frame := tget 0 (s.dirDie d).pos t.parity, key := 2 ^ 44 + (2 * t.parity + d) * 1024 + line % 1024 }

/-- The stripe of a line of an S+stripe region. -/
def State.stripeOf (s : State) (r : Region) (line : Nat) : Option Stripe :=
  if zaTiered (64 * line) then s.tierStripe line else some (s.pinnedStripe r line)

/-- What the unit of a parity line allows. -/
def State.parityAvail (s : State) (t : Stripe) : Avail :=
  if t.lost then .gone else s.unitAvail t.stack (pcOfLine t.frame t.off) t.key

/-- The region of a line has COMPRESS = auto. -/
def State.lineAuto (s : State) (line : Nat) : Bool := match s.regionAt (64 * line) with | some (_, r) => r.auto | none => false

/-- A data line of a stripe can be read for a reconstruction: it is available and correctable under code S (R313). -/
def State.memberSound (s : State) (line : Nat) : Bool :=
  s.lineAvail line == .ok &&
    (checkLine false (s.lineAuto line && line % 64 = 0) (s.hbm.marked (s.lineAuto line) line) (tget 0 s.hbm.flips line)).isSome

/-- The same of its parity line; on line 0 of blocks its check bytes may hold the marker (R184, R301). -/
def State.paritySound (s : State) (t : Stripe) : Bool :=
  s.parityAvail t == .ok &&
    (checkLine false (t.off % 64 = 0 && t.data.any s.lineAuto) false (s.parityFlips t.stack t.frame t.off)).isSome

/-- A line is written to, or read from, HBM for the controller's own ends (R430, R432). -/
def State.countStack (s : State) (k code : Nat) (at_ : Attrs) (n : Nat) : State :=
  ((s.count 0x0A (dieOf k) code at_ n).fixed 0x0A (dieOf k) 2 n).fixed 0x0A (dieOf k) 3 (64 * n)

/-- A parity delta is applied (R312): the parity line is read and written, and takes over the bits in which the old copy was wrong. -/
def State.applyDelta (s : State) (t : Stripe) (e : Nat × Stored) : State :=
  let s := s.modStack t.stack fun u => { u with deltas := u.deltas.erase e }
  let at_ : Attrs := { ctx := some 0, za := some (64 * e.1) }
  ((s.countStack t.stack 0x01 at_ 1).countStack t.stack 0x02 at_ 1).modParity t.stack t.frame t.off (· ^^^ e.2)

/-- A reader of a parity line waits until the deltas sent before have been applied (R312). -/
def State.settleDeltas (s : State) (t : Stripe) : State :=
  if s.parityAvail t == .ok then
    s.each ((s.stack t.stack).deltas.filter fun e => t.data.contains e.1) fun s e => s.applyDelta t e
  else s

/-- The wrong bits of what the other members of a striped line XOR to; none where one of them is unavailable or uncorrectable (R313). -/
def State.stripeXor (s : State) (r : Region) (line : Nat) : Option Stored × State :=
  match s.stripeOf r line with
  | none => (none, s)
  | some t =>
    let s := s.settleDeltas t
    let others := t.data.filter (· != line)
    (if others.all s.memberSound && s.paritySound t then
       some (others.foldl (fun v l => v ^^^ tget 0 s.hbm.flips l) (s.parityFlips t.stack t.frame t.off))
     else none, s)

/-- How a read of a line ends (R134, R311, R313). -/
inductive LineRead where
  | ok
  | frozen
  | bad
  | lost
  | poison
  | leaseLost
deriving DecidableEq, Repr

/-- The status of a line's read: 0, DATA_UNCORRECTABLE or LEASE_LOST. -/
def LineRead.status : LineRead → Nat
  | .ok => 0
  | .leaseLost => stLeaseLost
  | _ => stUncorrectable

/-- REASON of a DATA_ERROR record (R421). -/
def LineRead.reason : LineRead → Nat
  | .ok => 0
  | .bad => 1
  | .poison => 2
  | .leaseLost => 3
  | .frozen => 4
  | .lost => 5

/-- How a line that holds a poison record reads (R311). -/
def Poison.how (p : Poison) : LineRead := if p.reason = 2 then .leaseLost else .poison

/-- What the read of a stored line gives: how it ends, its decrypted bytes, whether the check took it for line 0 of a headed block, and
whether it was corrected or served by reconstruction. -/
structure LineGot where
  how       : LineRead
  data      : Line := 0
  headed    : Bool := false
  corrected : Bool := false
  rebuilt   : Bool := false
deriving DecidableEq, Repr

/-- A line whose ciphertext leaves its check wrong in the bits of `w`, none as a rule: the comparison with the poison signature and the
decryption (R48, R311). That the ciphertext of a line that is no record spells the signature is left out (log 121). -/
def State.opened (s : State) (r : Region) (line : Nat) (w : Line) : LineRead × Line :=
  if w = 0 then
    match tfind? s.hbm.poison line with
    | some p => (p.how, 0)
    | none => (.ok, s.hbm.content r.auto line)
  else
    let c := s.wire r line ^^^ w
    if c.setWidth 256 = Config.poisonSignature then ((recordOf c).how, 0)
    else (.ok, Aes.xtsDecrypt (s.keyOf r) (Aes.tweak line r.gen) c)

/-- A line that passed its check with a residue. -/
def State.checked (s : State) (r : Region) (line : Nat) (c : LineCheck) (rebuilt : Bool) : LineGot :=
  let o := s.opened r line (tget 0 s.hbm.wrong line ^^^ c.wrong)
  { how := o.1, data := o.2, headed := c.headed, corrected := c.fix ≠ 0, rebuilt }

/-- A line of code L behind a failed pin: uncorrectable, until its pseudo-channel is retired (R308, R315). -/
def State.laneLost (s : State) (codeL : Bool) (k p : Nat) : Bool := codeL && (s.pc k p).laneFault && (s.pc k p).st != .retired

/-- What the check of a stored line finds, and whether a reconstruction had to serve it (R306, R307, R313); none where neither the
line nor its stripe gives it. -/
def State.lineCheck (s : State) (r : Region) (line : Nat) : Option (LineCheck × Bool) × State :=
  let line0 := r.auto && line % 64 = 0
  let headed := s.hbm.marked r.auto line
  let kp := s.pcOf line
  match if s.lineAvail line == .ok && !s.laneLost (attrCodeL r.attr) kp.1 kp.2 then checkLine (attrCodeL r.attr) line0 headed (tget 0 s.hbm.flips line) else none with
  | some c => (some (c, false), s)
  | none =>
    if r.stripe then
      let o := s.stripeXor r line
      ((o.1.bind (checkLine false line0 headed)).map fun c => (c, true), o.2)
    else (none, s)

/-- Reads a stored line at the order point: the write buffer serves a line that it holds, a filled one in its stored form; then the unit, the check under the line's
code, and the reconstruction of a striped line decide. -/
def State.readStored (s : State) (r : Region) (line : Nat) : LineGot × State :=
  if s.buffered line then
    let o := s.opened r line (tget 0 s.hbm.wrong line)
    ({ how := o.1, data := o.2, headed := s.hbm.marked r.auto line }, s)
  else
    if s.lineAvail line == .frozen then ({ how := .frozen }, s)
    else
      let o := s.lineCheck r line
      (match o.1 with
       | some c => s.checked r line c.1 c.2
       | none => { how := if r.stripe then .lost else .bad }, o.2)

/-- Where an access came from, as MEM_ERR_LOG.SOURCE codes it: 0 link, 1 host or CXL, 2 Chord, 3 internal mover, 4 scrubber. -/
abbrev Source := Nat

/-- The physical line address of a line. -/
def State.physOf (s : State) (line : Nat) : Nat :=
  let pl := s.placeOf (64 * line)
  physLine pl.1 (pcOfLine pl.2 line) (pcLineOf pl.1 pl.2 (line % 1024))

/-- MEM_ERR_LOG for a line of a ZA. -/
def State.errEntry (s : State) (r : Region) (line ctx : Nat) (src : Source) (rec : Bool) : BitVec 64 :=
  BitVec.ofNat 64 (s.physOf line + (b2n (!attrCodeL r.attr)) <<< 36 + src <<< 37 + ctx <<< 40 + b2n rec <<< 52)

/-- A corrected line is counted in its pseudo-channel (R309). -/
def State.countCorrected (s : State) (k p : Nat) (at_ : Attrs) : State :=
  ((s.modStack k fun t => { t with err := orBit t.err 0 }).modPc k p fun c =>
    { c with ceCount := (c.ceCount + 1) % 2 ^ 32 }).count 0x0A (dieOf k) 0x08 at_

/-- What the read of a line corrected or reconstructed is counted (R309, R313). -/
def State.countRead (s : State) (g : LineGot) (r : Region) (line ctx : Nat) (src : Source) : State :=
  let kp := s.pcOf line
  let at_ : Attrs := { ctx := some ctx, za := some (64 * line) }
  let s := if g.corrected then s.countCorrected kp.1 kp.2 at_ else s
  if g.rebuilt then
    (s.modStack kp.1 fun t => { t with err := orBit t.err 7, errLog := s.errEntry r line ctx src true }).count 0x0A (dieOf kp.1) 0x0A at_
  else s

/-- Logs what an access met at a line (R134, R420). -/
def State.logRead (s : State) (o : LineRead) (r : Region) (line ctx : Nat) (src : Source) : State :=
  let k := (s.pcOf line).1
  let at_ : Attrs := { ctx := some ctx, za := some (64 * line) }
  match o with
  | .ok => s
  | .poison => (s.count 0x0A (dieOf k) 0x0B at_)
  | .leaseLost => (s.count 0x0A (dieOf k) 0x0B at_)
  | _ =>
    (s.modStack k fun t => { t with err := orBit t.err 1, errLog := s.errEntry r line ctx src false }).count 0x0A (dieOf k) 0x09 at_

/-- Forms the DATA_ERROR record of an access (R421). -/
def State.dataError (s : State) (o : LineRead) (line ctx lines : Nat) : State :=
  s.log { event := 0x01, ctx, addr := 64 * line, status := o.status, reason := o.reason, count := lines }

/-! ## Compressed blocks -/

/-- The segments that cover lines a to b of a block. -/
def segmentsOf (a b : Nat) : List Nat := (List.range 8).filter fun k => a / 8 ≤ k && k ≤ b / 8

/-- How an access fetches and decodes a compressed block (R129, R193): an RD of 1-8 lines whole, others the header first; a Chord
operand stream is decoded at its CHD die. -/
inductive Fetch where
  | short
  | long
  | chord (die : Nat)
deriving DecidableEq, Repr

/-- Reads stored lines from HBM in order. -/
def State.fetchLines (s : State) (r : Region) (cls ctx : Nat) (src : Source) : List Nat → Tbl LineGot × State
  | [] => ([], s)
  | line :: rest =>
    let k := s.stackOf (64 * line)
    let at_ : Attrs := { ctx := some ctx, cls := some cls, za := some (64 * line) }
    let o := s.readStored r line
    let t := if s.buffered line then o.2.count 0x0A (dieOf k) 0x05 at_ else (o.2.countRead o.1 r line ctx src).countStack k 0x01 at_ 1
    let q := t.fetchLines r cls ctx src rest
    ((line, o.1) :: q.1, q.2)

/-- The lines of a block, less line 0, that a fetch brings once line 0 has been read: those holding the declared payload, or those
of a plain block's segments (R129; log 121). -/
def Fetch.lines (f : Fetch) (head : LineGot) (segs : List Nat) : List Nat :=
  if f = .short then (List.range 63).map (· + 1)
  else if head.how.status ≠ 0 then []
  else if head.headed then
    match parseHeader (lineBytes head.data) with
    | some h => (List.range (h.lines - 1)).map (· + 1)
    | none => []
  else (segs.flatMap fun k => (List.range 8).map (8 * k + ·)).filter (· != 0)

/-- The stored line of a block at which a failed segment failed: the first of the lines that its decode needs. -/
def failedLine (get : Nat → LineGot) (headed : Bool) (k : Nat) : Nat :=
  let f : Form := if headed then (parseHeader (lineBytes (get 0).data)).getD {} else { codec := 0 }
  ((0 :: f.segmentLines k).find? fun i => (get i).how.status != 0).getD 0

/-- The DATA_ERROR records of a decode: one for line 0 and the whole access, else one for each failed segment (R421). -/
def State.decodeErrors (s : State) (r : Region) (first a b ctx : Nat) (src : Source) (get : Nat → LineGot) (headed : Bool)
    (out : List (Nat × Segment)) : State :=
  if (get 0).how.status ≠ 0 then (s.logRead (get 0).how r first ctx src).dataError (get 0).how first ctx (b + 1 - a)
  else s.each out fun s e => match e.2 with
    | .lineFailed _ =>
      let i := failedLine get headed e.1
      (s.logRead (get i).how r (first + i) ctx src).dataError (get i).how (first + i) ctx 8
    | _ => s

/-- A decode error is reported (R196): the die's flags and its log entry, or for an operand port the record alone. -/
def State.reportDecode (s : State) (f : Fetch) (die block a b ctx : Nat) (out : List (Nat × Segment)) : State :=
  match out.findSome? fun e => match e.2 with | .codeError n => some (e.1, n) | _ => none with
  | none => s
  | some (k, reason) =>
    let za := 4096 * block
    let s := match f with
      | .chord _ => s
      | _ => (s.modMem die fun m => { m with
          fctErr := if reason = 2 then orBit (orBit m.fctErr 0) 1 else orBit m.fctErr 0
          fctLog := BitVec.ofNat 64 (block % 2 ^ 37 + reason <<< 37 + k <<< 41 + b2n (a = 0 && b = 63) <<< 44 + ctx <<< 45) }).count
          0x0B die 0x0C { ctx := some ctx, za := some za }
    s.log { event := 0x02, ctx, addr := za, status := stUncorrectable, reason, count := 1 }

/-- Counts a decode of a headed block and uses its table in the cache of the die that decodes (R193, R202). -/
def State.countDecode (s : State) (f : Fetch) (die : Nat) (at_ : Attrs) (head : LineGot) (out : List (Nat × Segment)) : State :=
  let good := (out.filterMap fun e => match e.2 with | .lines l => some l.length | _ => none)
  let table := match parseHeader (lineBytes head.data) with
    | some h => if h.codec = 3 && (s.tableError h).isNone then some h.tableId else none
    | none => none
  match f with
  | .chord d =>
    let s := match table with | some id => s.cacheTableChd d id | none => s
    s.count 0x0D d 0x09 { za := at_.za } good.length
  | _ =>
    let s := match table with | some id => s.cacheTable die { ctx := at_.ctx, za := at_.za } id | none => s
    (((s.count 0x0B die 0x08 at_).count 0x0B die 0x09 at_ good.length).fixed 0x0B die 2 1).fixed 0x0B die 3 (64 * good.sum)

/-- The segments that lines a to b of a block need, with how many of each segment's lines are wanted (R129). -/
def wantedSegments (a b : Nat) : List (Nat × Nat) := (segmentsOf a b).map fun k => (k, if b / 8 = k then b % 8 + 1 else 8)

/-- A compressed read enters the decode queue of its die; whether it waits first for an entry that it may use is a free value (R195, log
67). A stream of a Chord operand is decoded at the CHD die. -/
def State.queueDecode (s : State) (f : Fetch) (die : Nat) (at_ : Attrs) : State :=
  match f with
  | .chord _ => s
  | _ => let w := s.takeFree; if w.1 % 2 = 1 then w.2.count 0x0B die 0x0B at_ else w.2

/-- Reads the segments that lines a to b of a block need (R129, R193-R196, R310). A block in the write buffer is served from it and
needs no decode (R192). -/
def State.readBlock (s : State) (r : Region) (block a b cls ctx : Nat) (src : Source) (f : Fetch) : List (Nat × Segment) × State :=
  let first := 64 * block
  let segs := wantedSegments a b
  let die := dieOf (s.stackOf (64 * first))
  let at_ : Attrs := { ctx := some ctx, cls := some cls, za := some (4096 * block) }
  match s.wbuf.find? fun e => e.block && !e.fill && e.line == first with
  | some e =>
    (segs.map fun g => (g.1, .lines (((e.data.drop (8 * g.1)).take g.2).map lineBytes)), s.count 0x0A die 0x05 at_)
  | none =>
    let h := (s.queueDecode f die at_).fetchLines r cls ctx src [first]
    let head := tget { how := .bad } h.1 first
    let o := h.2.fetchLines r cls ctx src ((f.lines head (segs.map (·.1))).map (first + ·))
    let get (i : Nat) : LineGot := if i = 0 then head else tget { how := .ok } o.1 (first + i)
    let out := o.2.decodeLines head.headed (a = 0 && b = 63) (fun i => ((get i).how.status, lineBytes (get i).data)) segs
    let s := if head.headed && head.how.status = 0 then o.2.countDecode f die at_ head out else o.2
    (out, (s.decodeErrors r first a b ctx src get head.headed out).reportDecode f die block a b ctx out)

/-! ## Reads (R124, R129) -/

/-- The result of a line of a block: its status and, for status 0, its bytes. -/
def lineResult (out : List (Nat × Segment)) (i : Nat) : Nat × Line :=
  match out.find? fun e => e.1 == i / 8 with
  | some (_, .lines l) => (0, lineOf (l.getD (i % 8) []))
  | some (_, x) => (x.status, 0)
  | none => (stUncorrectable, 0)

/-- Reads one line of an uncompressed region. -/
def State.readOne (s : State) (r : Region) (line cls ctx : Nat) (src : Source) : (Nat × Line) × State :=
  let k := s.stackOf (64 * line)
  let at_ : Attrs := { ctx := some ctx, cls := some cls, za := some (64 * line) }
  let o := s.readStored r line
  let t := if s.buffered line then o.2.count 0x0A (dieOf k) 0x05 at_ else (o.2.countRead o.1 r line ctx src).countStack k 0x01 at_ 1
  if o.1.how.status = 0 then ((0, o.1.data), t)
  else ((o.1.how.status, 0), (t.logRead o.1.how r line ctx src).dataError o.1.how line ctx 1)

/-- Reads lines of an uncompressed region in order. -/
def State.readEach (s : State) (r : Region) (cls ctx : Nat) (src : Source) : List Nat → List (Nat × Line) × State
  | [] => ([], s)
  | line :: rest =>
    let o := s.readOne r line cls ctx src
    let q := o.2.readEach r cls ctx src rest
    (o.1 :: q.1, q.2)

/-- Reads lines from a line number on, within one block: the status of each and, for status 0, its plaintext. -/
def State.readLines (s : State) (r : Region) (line n ctx cls : Nat) (src : Source) (f : Fetch) : List (Nat × Line) × State :=
  if r.auto then
    let a := line % 64
    let d := s.readBlock r (line / 64) a (a + n - 1) cls ctx src f
    ((List.range n).map fun i => lineResult d.1 (a + i), d.2)
  else s.readEach r cls ctx src ((List.range n).map (line + ·))

/-- How an RD of `n` lines fetches (R129). -/
def rdFetch (n : Nat) : Fetch := if n ≤ 8 then .short else .long

/-! ## The write buffer and its drain (R126, R192, R302, R312) -/

/-- Lines of the write buffer of a stack that are in use. -/
def State.bufferLines (s : State) (k : Nat) : Nat :=
  ((s.wbuf.filter fun e => e.stack == k).map fun e => if e.block then 64 else 1).sum

/-- An entry may drain: its pseudo-channels issue (R318). A block's lines lie in 16 of them (R300). -/
def State.mayDrain (s : State) (e : WEntry) : Bool :=
  (List.range (if e.block then 16 else 1)).all fun i =>
    let kp := s.pcOf (e.line + i)
    s.unitAvail kp.1 kp.2 (e.line + i) != .frozen

/-- The priority of an entry of a class on a memory die, from the class's average there (R140). -/
def Class.priority (c : Class) (avg : Nat) : Nat :=
  let t := c.target * 65536
  if c.target = 0 then c.base
  else if 2 * avg ≤ t then c.base
  else if avg < t then c.base + c.slope * (2 * avg - t) / t
  else c.base + c.slope

/-- The effective priority of a class on a memory die (R140). -/
def State.effPriority (s : State) (die c : Nat) : Nat := (s.cls c).priority (tget 0 (s.mem die).avg c)

/-- The fixed priorities of internal movers (R144), with the frame pressure of the page's directory die. -/
def MoverSource.priority (m : MoverSource) (pressure : Bool) : Nat :=
  match m with
  | .directory => 60
  | .demandFill => 50
  | .writeBack => if pressure then 40 else 8
  | .chord => 30
  | .transfer => 20
  | .prefetchFill => 12
  | .regionFill => 4

/-- An entry is an internal mover's (R142). -/
def WEntry.mover (e : WEntry) : Bool := match e.pri with | .internal _ => true | _ => false

/-- The priority of an entry within its kind, when its scheduler picks: 63 once it has aged (R142). -/
def State.rank (s : State) (e : WEntry) : Nat :=
  if e.aged then 63
  else
    match e.pri with
    | .internal m => m.priority (s.dirDie (e.line / 1024 % 2)).pressure
    | .spare => 0
    | .ofClass label c => c.priority (tget 0 (s.mem (dieOf e.stack)).avg label)

/-- In a run of 256 commands issued while both kinds wait, the command at a place is an internal one: as many in all as
INTERNAL_RESERVE, evenly placed (R143, log 24). -/
def internalTurn (reserve place : Nat) : Bool := (place * reserve) / 256 < ((place + 1) * reserve) / 256

/-- The entries of a pseudo-channel's scheduler from which it picks: one kind's, where both wait (R142, R143). A block stands at the
scheduler of its first line (log 24). -/
def State.contenders (s : State) (k p : Nat) : List WEntry × State :=
  let all := s.wbuf.filter fun e => e.stack == k && s.mayDrain e && (s.pcOf e.line).2 == p
  let int := all.filter WEntry.mover
  let ext := all.filter fun e => !e.mover
  if int.isEmpty || ext.isEmpty then (all, s)
  else
    (if internalTurn s.qos.reserve (s.pc k p).slot then int else ext, s.modPc k p fun c => { c with slot := (c.slot + 1) % 256 })

/-- Two lines of a block share a row of their pseudo-channel (R300). -/
def WEntry.sameRow (a b : WEntry) : Bool := a.line / 64 == b.line / 64 && a.line % 16 == b.line % 16

/-- The entry of a stack that drains next (R142, R143): of a pseudo-channel, the highest priority; of several the row hit, and the
oldest of those. Which pseudo-channel issues, and which of the rows is open, free values decide (log 24); of one row the oldest goes. -/
def State.nextDrain (s : State) (k : Nat) : Option WEntry × State :=
  let o := s.pickOf (((s.wbuf.filter fun e => e.stack == k && s.mayDrain e).map fun e => (s.pcOf e.line).2).eraseDups)
  match o.1 with
  | none => (none, s)
  | some p =>
    let c := o.2.contenders k p
    let top := (c.1.map c.2.rank).foldl max 0
    let best := c.1.filter fun e => c.2.rank e == top
    c.2.pickOf (best.filter fun e => !(best.any fun a => a.sameRow e && a.seq < e.seq))

/-- The lines of an entry, as far as its stored form takes them. -/
def State.entryLines (s : State) (r : Region) (e : WEntry) : Nat :=
  if !e.block then 1 else if r.auto then (tget {} s.hbm.forms (e.line / 64)).lines else 64

/-- The header lines of the other blocks of a page. -/
def otherHeaders (block : Nat) : List Nat := ((List.range 16).map fun b => 64 * (block / 16 * 16 + b)).filter (· != 64 * block)

/-- Encodes the block of an entry as it drains; where the page's pair is full, its die reads the page's other headers first (R209). DESIGN CHOICE
(log 160): one that cannot be read counts as naming what it was written with. -/
def State.encodeEntry (s : State) (ri : Nat) (r : Region) (e : WEntry) : State :=
  let block := e.line / 64
  let die := dieOf e.stack
  let cur := s.groupTable ri (groupOf r (block / 16)) die
  let s := if !r.forceRaw && e.data.any (· != 0) && cur.1.any fun id => cur.2.pairFull (block / 16) id then
      (cur.2.fetchLines r 0 e.ctx 3 (otherHeaders block)).2
    else cur.2
  s.encodeBlock ri r die e.ctx block e.data cur.1

/-- Writes an entry to HBM (R50, R126): a block is encoded, but for one that a fill brought in its stored form; the lines get fresh check
bits and are counted. A line of a retiring unit is placed in the relocation area (R320). -/
def State.writeEntry (s : State) (ri : Nat) (r : Region) (e : WEntry) : State :=
  let s := { s with wbuf := s.wbuf.filter fun w => w.seq != e.seq }
  let s := if e.fill then s.modHbm fun h => { h with flips := tableClear h.flips e.line 64 }
    else if e.block then s.encodeEntry ri r e
    else s.modHbm fun h => { h with flips := tdel h.flips e.line, wrong := tdel h.wrong e.line }
  let n := s.entryLines r e
  (s.countStack e.stack 0x02 { ctx := some e.ctx, za := some (64 * e.line) } n).each (List.range n) fun s i =>
    let kp := s.pcOf (e.line + i)
    if s.unitAvail kp.1 kp.2 (e.line + i) == .gone then
      s.modStack kp.1 fun t => { t with placed := t.placed ++ [e.line + i] }
    else s

/-- The bits in which the old stored copy of a striped line that is written is wrong, as the delta of its write takes it: of a unit that is
not in service it is reconstructed first (R312, R320), and what then cannot be is a free value (log 158). -/
def State.oldWrong (s : State) (r : Region) (line : Nat) : Stored × State :=
  if s.lineAvail line == .ok then (tget 0 s.hbm.flips line, s)
  else
    let o := s.stripeXor r line
    match o.1 with
    | some v => (v, o.2)
    | none => let f := o.2.takeFree; (BitVec.ofNat 576 f.1, f.2)

/-- The same of the lines from one on. -/
def State.oldWrongs (s : State) (r : Region) (line : Nat) : Nat → List (Nat × Stored) × State
  | 0 => ([], s)
  | n + 1 =>
    let q := s.oldWrongs r line n
    let o := q.2.oldWrong r (line + n)
    (q.1 ++ [(line + n, o.1)], o.2)

/-- A delta is sent to the die of the parity line (R312). -/
def State.sendDelta (s : State) (r : Region) (e : Nat × Stored) : State :=
  match s.stripeOf r e.1 with
  | some t => s.modStack t.stack fun u => { u with deltas := u.deltas ++ [e] }
  | none => s

/-- The four data lines of a stripe have been written together: their parity is written fresh, without reading, and the deltas that wait
for it are void (R312). -/
def State.freshParity (s : State) (t : Stripe) : State :=
  let s := s.modStack t.stack fun u => { u with
    deltas := u.deltas.filter fun e => !t.data.contains e.1
    placed := if s.parityAvail t == .gone && !t.lost then u.placed ++ [t.key] else u.placed }
  (s.countStack t.stack 0x02 { ctx := some 0, za := some (64 * t.data.headD 0) } 1).modParity t.stack t.frame t.off fun _ => 0

/-- Drains an entry of an S+stripe region: each line is read before it is written, for its delta (R312). -/
def State.drainStriped (s : State) (ri : Nat) (r : Region) (e : WEntry) : State :=
  let o := s.oldWrongs r e.line (if e.block then 64 else 1)
  let s := o.2.writeEntry ri r e
  let n := s.entryLines r e
  (s.countStack e.stack 0x01 { ctx := some e.ctx, za := some (64 * e.line) } n).each (o.1.take n) fun s x => s.sendDelta r x

/-- The entries of the four data lines, or blocks, of the stripes of an entry's lines, where each of them waits and may drain. -/
def State.mates (s : State) (r : Region) (e : WEntry) : Option (List WEntry) :=
  match s.stripeOf r e.line with
  | none => none
  | some t =>
    let l := t.data.filterMap fun x => s.wbuf.find? fun w => w.line == x && w.block == e.block && s.mayDrain w
    if l.length = t.data.length then some l else none

/-- Drains the entries of whole stripes together (R312): the lines that each of them writes get fresh parity, the others a delta. -/
def State.drainMates (s : State) (l : List WEntry) : State :=
  let o := l.foldl (fun (a : List (Nat × Region × List (Nat × Stored)) × State) e =>
    match a.2.regionAt (64 * e.line) with
    | some (ri, r) =>
      let q := a.2.oldWrongs r e.line (if e.block then 64 else 1)
      let s := q.2.writeEntry ri r e
      let n := s.entryLines r e
      (a.1 ++ [(n, r, q.1.take n)], s)
    | none => a) ([], s)
  let whole := (o.1.map (·.1)).foldl min 64
  let s := o.2.each (o.1.flatMap fun x => (x.2.2.drop whole).map fun y => (x.2.1, y)) fun s y => s.sendDelta y.1 y.2
  match o.1 with
  | (_, r, olds) :: _ => s.each (olds.take whole) fun s y => match s.stripeOf r y.1 with | some t => s.freshParity t | none => s
  | [] => s

/-- Drains an entry (R126, R312). Whether the four data lines of a stripe drain together, where they all may, is not stated: a free value
(log 159). -/
def State.drain (s : State) (e : WEntry) : State :=
  match s.regionAt (64 * e.line) with
  | none => { s with wbuf := s.wbuf.filter fun w => w.seq != e.seq }
  | some (ri, r) =>
    if !r.stripe then s.writeEntry ri r e
    else
      match s.mates r e with
      | none => s.drainStriped ri r e
      | some l =>
        let f := s.takeFree
        if f.1 % 2 = 1 then f.2.drainMates l else f.2.drainStriped ri r e

/-- Drains until a stack's buffer has room for `n` lines, as far as entries may drain (R302). -/
def State.makeRoom (s : State) (k n : Nat) : Nat → State
  | 0 => s
  | fuel + 1 =>
    if s.bufferLines k + n ≤ 1024 then s
    else
      let o := s.nextDrain k
      match o.1 with
      | some e => (o.2.drain e).makeRoom k n fuel
      | none => s

/-- The buffer of a stack can take `n` lines, at once or when entries have drained: those of a frozen pseudo-channel stay (R302, R318). -/
def State.hasRoom (s : State) (k n : Nat) : Bool :=
  ((s.wbuf.filter fun e => e.stack == k && !s.mayDrain e).map fun e => if e.block then 64 else 1).sum + n ≤ 1024

/-- The lines of the buffer that a write of `n` lines of a region takes. -/
def Region.bufferNeed (r : Region) (n : Nat) : Nat := if r.auto then 64 else n

/-- A write enters the buffer: one entry per line or block, with its kind and what its priority follows from (R142, R144). A block's
plaintext waits in its entry for the encode; the stored form that a fill brings is in effect at once. -/
def State.buffer (s : State) (line : Nat) (block : Bool) (pri : Pri) (ctx : Nat) (data : List Line) (fill : Bool := false) : State :=
  let k := s.stackOf (64 * line)
  let s := s.makeRoom k (if block then 64 else 1) 1024
  let n := s.takeId
  { n.2 with wbuf := (n.2.wbuf.filter fun e => !(e.line == line && e.block == block)) ++
      [{ seq := n.1, stack := k, line, block, pri, ctx, data, fill }] }

/-! ## Class averages (R139, R141) -/

/-- A completed request of an external path is measured under the class that it was classified by (R137, R139, R141): its span in
fabric cycles is a free value (log 1). -/
def State.latencySample (s : State) (die c : Nat) (entry : Class) (ctx : Nat) : State :=
  let f := s.takeFree
  let span := f.1
  let s := f.2
  let m := s.mem die
  let old : Int := (tget (0 : Nat) m.avg c : Nat)
  let new : Int := old + (span * 65536 - old) / (2 ^ m.shift : Nat)
  let late := entry.target ≠ 0 && entry.target < span
  let s := s.modMem die fun m => { m with
    avg := tput 0 m.avg c (new.toNat % 2 ^ 48)
    missed := if late then tmod 0 m.missed c fun v => (v + 1) % 2 ^ 48 else m.missed }
  let s := (s.fixed 0x0C die 2 1).fixed 0x0C die 3 span
  let at_ : Attrs := { ctx := some ctx, cls := some c }
  let s := (s.count 0x0C die 0x01 at_).count 0x0C die 0x02 at_ span
  if late then s.count 0x0C die 0x03 at_ else s

/-! ## Writes and atomics at the order point -/

/-- A write of a line or block meets its unit: a frozen pseudo-channel, or a frame with no place, gives a bus error (R318,
R321). -/
def State.writeBlocked (s : State) (line n : Nat) (block : Bool) : Option LineRead :=
  (List.range (if block then 16 else n)).findSome? fun i =>
    if s.frameLostAt (line + i) then some .bad
    else
      let kp := s.pcOf (line + i)
      if s.unitAvail kp.1 kp.2 (line + i) == .frozen && !s.buffered (line + i) then some .frozen else none

/-- Writes lines at the order point, where they take effect, into the buffer (R110, R126, R166): a line's content at once, a whole
block's with its entry. -/
def State.putLines (s : State) (r : Region) (line : Nat) (data : List Line) (pri : Pri) (ctx : Nat) : State :=
  if r.auto then s.buffer (line / 64 * 64) true pri ctx data
  else
    let s := s.modHbm fun h => { h with
      mem := writeBytes h.mem (64 * line) (data.flatMap lineBytes), poison := tableClear h.poison line data.length
      wrong := tableClear h.wrong line data.length }
    s.each (List.range data.length) fun s i => s.buffer (line + i) false pri ctx []

/-- The atomic unit of a line's die keeps its plaintext: an atomic on it needs no HBM read (R127). -/
def State.kept (s : State) (line : Nat) : Bool :=
  s.atoms.any fun a => a.die == dieOf (s.stackOf (64 * line)) && a.line == line && !thas s.hbm.poison line

/-- The operand lines of an atomic: those that the unit keeps, the others read (R127). DESIGN CHOICE (log 150): of the block of an ACC too only
the lines that the unit does not keep are read. -/
def State.atomLines (s : State) (r : Region) (cls ctx : Nat) (src : Source) : List Nat → List (Nat × Line) × State
  | [] => ([], s)
  | line :: rest =>
    let o := if s.kept line then ((0, readLine s.hbm.mem line), s) else s.readOne r line cls ctx src
    let q := o.2.atomLines r cls ctx src rest
    (o.1 :: q.1, q.2)

/-- The atomic unit keeps a line it changed: the last 64 of the die (R127). -/
def State.keepAtom (s : State) (line : Nat) : State :=
  let die := dieOf (s.stackOf (64 * line))
  let others := s.atoms.filter fun a => !(a.die == die && a.line == line)
  let mine := (others.filter fun a => a.die == die).take 63
  { s with atoms := { die, line } :: (mine ++ others.filter fun a => a.die != die) }

/-- A scalar atomic on a line (R281, R282, R284): its status and the prior value. -/
def State.atomicScalar (s : State) (r : Region) (za atop awidth a b ctx cls : Nat) (src : Source) (pri : Pri) : Nat × Nat × State :=
  let line := za / 64
  let die := dieOf (s.stackOf za)
  let rd := s.atomLines r cls ctx src [line]
  match rd.1 with
  | (0, v) :: _ =>
    let n := atomBytes awidth
    let off := 8 * (za % 64)
    let old := bits v.toNat (off + 8 * n - 1) off
    let s := rd.2.count 0x0A die 0x06 { ctx := some ctx, cls := some cls, za := some za }
    (match s.writeBlocked line 1 false, atomResult atop awidth old a b with
     | some e, _ => (e.status, 0, s.dataError e line ctx 1)
     | none, some new =>
       (0, old, (s.putLines r line [BitVec.ofNat 512 (setBits v.toNat off (8 * n) new)] pri ctx).keepAtom line)
     | none, none => (0, old, s))
  | (st, _) :: _ => (st, 0, rd.2)
  | [] => (stUncorrectable, 0, rd.2)

/-- A VADD on a line (R281). -/
def State.atomicVadd (s : State) (r : Region) (za awidth : Nat) (v : Line) (ctx cls : Nat) (src : Source) (pri : Pri) : Nat × State :=
  let line := za / 64
  let die := dieOf (s.stackOf za)
  let rd := s.atomLines r cls ctx src [line]
  match rd.1 with
  | (0, old) :: _ =>
    let s := rd.2.count 0x0A die 0x06 { ctx := some ctx, cls := some cls, za := some za }
    (match s.writeBlocked line 1 false with
     | some e => (e.status, s.dataError e line ctx 1)
     | none => (0, (s.putLines r line [vaddLine awidth old v] pri ctx).keepAtom line))
  | (st, _) :: _ => (st, rd.2)
  | [] => (stUncorrectable, rd.2)

/-- An ACC of 64 source lines (R106, R281, R282): 64 or 128 target lines, all or none. -/
def State.accumulate (s : State) (r : Region) (za awidth : Nat) (data : List Line) (ctx cls : Nat) (src : Source)
    (pri : Pri) : Nat × State :=
  let line := za / 64
  let n := if awidth = 3 then 128 else 64
  let die := dieOf (s.stackOf za)
  let rd := s.atomLines r cls ctx src ((List.range n).map (line + ·))
  match rd.1.find? fun e => e.1 != 0 with
  | some e => (e.1, rd.2)
  | none =>
    match rd.2.writeBlocked line n false with
    | some e => (e.status, rd.2.dataError e line ctx n)
    | none =>
      let source := accSource awidth data
      let new := rd.1.mapIdx fun i e => accLine e.2 ((source.drop (16 * i)).take 16)
      let s := rd.2.count 0x0A die 0x07 { ctx := some ctx, cls := some cls, za := some za } (n / 64)
      (0, (s.putLines r line new pri ctx).each (List.range n) fun s i => s.keepAtom (line + i))

/-- Reads and zeroes lines of an accumulate region as one step (R228). -/
def State.readAndZero (s : State) (r : Region) (line n ctx : Nat) (pri : Pri) : List (Nat × Line) × State :=
  let rd := s.readLines r line n ctx 0 2 .long
  if rd.1.all fun e => e.1 == 0 then (rd.1, rd.2.putLines r line (List.replicate n 0) pri ctx) else rd

end Sys2Proof.Machine
end

