-- ==== Sys2Proof/Machine/Path.lean ====
section
/-!
DEFINITION. The path of a request (R107-R114, R123, R133, R145-R152): answers, regulators, leases and recalls, routing
through the directory, execution at the memory die, holds and their release.
-/

namespace Sys2Proof.Machine

/-! ## Answers (R103, R104, R134) -/

/-- The VC of a response: VC3 for a request that arrived on VC3, else VC1 (R107). -/
def rspVc (vc : Nat) : Nat := if vc = 3 then 3 else 1

/-- Answers a link request with one message that carries LAST = 1 (R104). -/
def State.answer1 (s : State) (port vc ctx tag opcode status dkind lines retry value : Nat) : State :=
  s.sendLast port tag { vc := rspVc vc, slots := [rspSlot opcode (rspVc vc) ctx tag status 0 dkind lines true retry value] }

/-- CPL_ERR for a whole request. -/
def State.answerErr (s : State) (port vc ctx tag len status : Nat) : State :=
  s.answer1 port vc ctx tag 0x22 status 0 len 0 0

/-- CPL_RETRY with its hint. -/
def State.answerRetry (s : State) (port vc ctx tag len cls retry : Nat) : State :=
  (s.answer1 port vc ctx tag 0x23 0 0 len retry 0).count 0x08 (port / 4) 0x09
    { ctx := some ctx, port := some port, cls := some cls }

/-- Maximal runs of lines of one status: first line, status, data. -/
def statusRuns : Nat → List (Nat × Line) → List (Nat × Nat × List Line)
  | _, [] => []
  | i, (st, d) :: t =>
    match statusRuns (i + 1) t with
    | (j, st', ds) :: rest => if st = st' then (i, st, d :: ds) :: rest else (i, st, [d]) :: (j, st', ds) :: rest
    | [] => [(i, st, [d])]

/-- Answers an RD run by run: CPL_DATA for lines read, CPL_ERR for lines in error, LAST on the last (R104). -/
def State.answerRuns (s : State) (port vc ctx tag cls : Nat) : List (Nat × Nat × List Line) → State
  | [] => s
  | (i, st, ds) :: t =>
    let n := ds.length
    let slot := rspSlot (if st = 0 then 0x20 else 0x22) (rspVc vc) ctx tag st i 0 (n - 1) t.isEmpty 0 0
    let m : TxMsg := { vc := rspVc vc, slots := slot :: (if st = 0 then lineSlots ds else []) }
    let s := if t.isEmpty then s.sendLast port tag m else s.sendMsg port m
    let at_ : Attrs := { ctx := some ctx, port := some port, cls := some cls }
    let s := if st = 0 then (s.count 0x08 (port / 4) 0x07 at_ (64 * n)).fixed 0x08 (port / 4) 3 (64 * n) else s
    s.answerRuns port vc ctx tag cls t

/-- A record in the CXL RAS capability: the status bit of its kind, and of the first unmasked one the header (R359, R360, log 16). -/
def Hep.ras (h : Hep) (kind : Nat) : Hep :=
  let k := (Config.cxlRasBit kind).val
  let n := h.cxlRas + 1
  { h with cxlRas := n, rasStatus := orBit h.rasStatus k
           rasFirst := if bit h.rasMask.toNat k || h.rasFirst.isSome then h.rasFirst else some (k, n) }

/-- Refuses a CXL request (R359): poisoned zeros for a read, a Cmp for a write. -/
def State.cxlRefuse (s : State) (tag : Nat) (read : Bool) : State :=
  let s := s.modHep fun h => ({ h with cxlRefused := satAdd h.cxlRefused 1 0xFFFF, refusedSeen := true } : Hep).ras 0
  let s := s.count 0x01 0 0x0A {}
  if read then s.emit (.cxlData tag 0 true) else s.emit (.cxlCmp tag)

/-! ## Requests -/

def ReqOp.isRead : ReqOp → Bool
  | .rd => true
  | .rdOwn => true
  | _ => false

/-- The permission an operation needs (R36). -/
def ReqOp.perm : ReqOp → Perm
  | .rd => .rd
  | .rdOwn => .own
  | .wr => .wr
  | .wrRelease _ => .own
  | .atom => .atom
  | .vadd => .atom
  | .acc => .atom
  | .clear => .wr

/-- The first line of a request's ZA. -/
def Req.line (q : Req) : Nat := q.za / 64

/-- The lines that a request's memory operation touches. -/
def Req.span (q : Req) : Nat := if q.op == .acc && q.awidth = 3 then 128 else q.lines

/-- Two requests touch a common line. -/
def Req.overlaps (q e : Req) : Bool := q.line < e.line + e.span && e.line < q.line + q.span

/-- The port of a link request. -/
def Req.port? (q : Req) : Option Nat := match q.src with | .link p _ _ _ => some p | _ => none

/-- A WR or ACC may pass earlier writes to other lines where its RO says so; RO is ignored on other requests (R101, R109). -/
def ReqOp.mayRelax : ReqOp → Bool
  | .wr => true
  | .acc => true
  | _ => false

/-- The request takes the Tangent path (R128). -/
def Req.tangent (q : Req) : Bool := match q.src with | .link _ _ _ t => t | _ => false

/-- The slots of a link request (R100). -/
def Req.slots (q : Req) : Nat :=
  match q.op with
  | .wr => 1 + 2 * q.lines
  | .wrRelease n => if n then 1 else 3
  | .vadd => 3
  | .acc => 129
  | _ => 1

/-- The charge of a request (R146). -/
def Req.charge (q : Req) (r : Region) : Nat :=
  match q.op with
  | .rd => if r.auto && q.lines ≤ 8 then 4096 else 64 * q.lines
  | .rdOwn => 64
  | .wr => 64 * q.lines
  | .wrRelease n => if n then 0 else 64
  | .atom => 64
  | .vadd => 64
  | .acc => if q.awidth = 3 then 8192 else 4096
  | .clear => 0

/-- The lease that forbids a request at its line (R112). -/
def State.conflict (s : State) (q : Req) : Option (Nat × Lease) :=
  (List.range q.span).findSome? fun i =>
    match tfind? s.leases (q.line + i) with
    | some l =>
      let holder := match q.src with | .link p _ _ _ => p = l.port && q.ctx = l.ctx | _ => false
      if holder then none else some (q.line + i, l)
    | none => none

/-! ## Requester tags and RECALL (R112, R115) -/

/-- A free requester tag of a port. -/
def State.freeReqTag? (s : State) (port : Nat) : Option Nat :=
  lowest (fun t => !thas (s.port port).reqs t) 0 4096

/-- Sends the RECALL of a leased line, unless one is outstanding or no tag is free (R112, R115). -/
def State.sendRecall (s : State) (line : Nat) : State :=
  match tfind? s.leases line with
  | none => s
  | some l =>
    if l.recallTag.isSome then s
    else
      match s.freeReqTag? l.port with
      | none => s
      | some tag =>
        let s := { s with leases := tset s.leases line { l with recallTag := some tag } }
        let s := s.modPort l.port fun p => { p with reqs := tset p.reqs tag { use := .recallReq line } }
        (s.sendMsg l.port { vc := 0, slots := [reqSlot 0x08 l.ctx tag l.la 0 0 0], reqTag := some tag }).count 0x08 (l.port / 4) 0x0D
          { ctx := some l.ctx, port := some l.port }

/-- A requester tag of a port is free again: a lease that waits for one sends its RECALL (R115). -/
def State.tagFreed (s : State) (port : Nat) : State :=
  match s.leases.find? fun e => e.2.port == port && e.2.recallTag.isNone && s.held.any fun q => q.hold == .lease e.1 with
  | some (line, _) => s.sendRecall line
  | none => s

/-- A requester tag is free again. -/
def State.freeReq (s : State) (port tag : Nat) : State :=
  (s.modPort port fun p => { p with reqs := tdel p.reqs tag }).tagFreed port

/-- A lease ends: its RECALL's tag is free at once (R112). -/
def State.endLease (s : State) (line : Nat) : State :=
  match tfind? s.leases line with
  | none => s
  | some l =>
    let s := { s with leases := tdel s.leases line }
    match l.recallTag with
    | some t =>
      (s.modPort l.port fun p => { p with reqs := tdel p.reqs t, txOrd := p.txOrd.filter fun m => m.reqTag != some t }).tagFreed l.port
    | none => s

/-- Stores a poison record as a line, under fresh check bits and with a parity delta as any write (R113, R310); a tier page then has a poisoned
line (R159). -/
def State.poisonLine (s : State) (line reason kind : Nat) : State :=
  let s := match s.regionAt (64 * line) with
    | some (_, r) =>
      if r.stripe && !s.buffered line then (let o := s.oldWrong r line; o.2.sendDelta r (line, o.1)) else s
    | none => s
  let s := s.modHbm fun h => { h.freshLines line 1 with poison := tset (h.freshLines line 1).poison line { reason, kind } }
  if zaTiered (64 * line) then s.modEnt (line / 1024) fun e => { e with poisoned := true } else s

/-! ## Execution at the memory die -/

/-- The source code of a request in MEM_ERR_LOG. -/
def Src.code : Src → Source
  | .link _ _ _ _ => 0
  | .cxl _ => 1
  | .cmd _ => 3

/-- The request is an internal mover's (R144). -/
def Req.mover (q : Req) : Bool := match q.src with | .cmd _ => true | _ => false

/-- What the priority of a request's writes follows from (R142, R144). -/
def Req.pri (q : Req) : Pri := if q.mover then .internal .transfer else if q.spare then .spare else .ofClass q.cls q.entry

/-- The class label of a request; an internal mover has none (R144). -/
def Req.label (q : Req) : Option Nat := if q.mover then none else some q.cls

/-- A message of a request, with some lines of data, crosses the hub of its ZA (R16, R123). -/
def State.hop (s : State) (q : Req) (lines : Nat) : State :=
  s.crossHub (hubOf q.za) lines q.tangent { ctx := some q.ctx, cls := q.label }

/-- Answers a read with line results; each response crosses the hub (R16). -/
def State.answerRead (s : State) (q : Req) (res : List (Nat × Line)) : State :=
  let runs := statusRuns 0 res
  let s := s.each runs fun s r => s.hop q (if r.2.1 = 0 then r.2.2.length else 0)
  match q.src with
  | .link port tag vc _ => s.answerRuns port vc q.ctx tag q.cls runs
  | .cxl tag =>
    (match res with
     | (0, v) :: _ => s.emit (.cxlData tag v false)
     | _ => s.emit (.cxlData tag 0 true))
  | .cmd id => s.loadLines id q.a.toNat res

/-- A write of a link snapshot is done (R439): the command replies with the last one, or with the error of one. -/
def State.partDone (s : State) (id status : Nat) : State :=
  match s.cmd? id with
  | some c =>
    if status ≠ 0 then s.replyTo id status
    else if c.aux ≤ 1 then s.replyTo id 0 c.done
    else s.modCmd id fun c => { c with aux := c.aux - 1 }
  | none => s

/-- Answers a write, atomic or accumulate: CPL_OK, CPL_DATA with the prior value, or CPL_ERR; a Cmp on CXL. -/
def State.answerDone (s : State) (q : Req) (status : Nat) (prior : Option Nat) : State :=
  let s := s.hop q 0
  match q.src with
  | .link port tag vc _ =>
    if status ≠ 0 then s.answerErr port vc q.ctx tag (q.lines - 1) status
    else
      (match prior with
       | some v => s.answer1 port vc q.ctx tag 0x20 0 1 (q.lines - 1) 0 v
       | none => s.answer1 port vc q.ctx tag 0x21 0 0 (q.lines - 1) 0 0)
  | .cxl tag => s.emit (.cxlCmp tag)
  | .cmd id => if (s.cmd? id).any fun c => c.opcode == 0x0A01 then s.partDone id status else s.replyTo id status (prior.getD 0)

/-- A line holds a poison record or cannot be corrected: SVC_CLEAR_POISON writes it (R427). -/
def State.lineBad (s : State) (r : Region) (line : Nat) : Bool :=
  thas s.hbm.poison line || (thas s.hbm.flips line && (s.lineCheck r line).1.isNone)

/-- Clears the poison or the uncorrectable content of a line, or of the whole block of a compressed region, to zero plaintext, which of a
block is the ZERO block whatever the region's codec (R311, R427). A line that holds neither is left as it is. -/
def State.clearLine (s : State) (r : Region) (line ctx : Nat) : State :=
  if r.auto then
    let first := line / 64 * 64
    if (List.range 64).any fun i => s.lineBad r (first + i) then
      (s.modHbm fun h => { h.freshLines first 64 with
        mem := tableClear h.mem (64 * first) 4096, forms := tput {} h.forms (first / 64) {} }).buffer first true (.internal .transfer) ctx [] true
    else s
  else if s.lineBad r line then s.putLines r line [0] (.internal .transfer) ctx
  else s

/-- A request of a read or an atomic issues a command to HBM (R126, R127, R302): the write buffer does not serve all of its lines, nor does the
atomic unit keep the line of an atomic. -/
def State.issuesCommand (s : State) (q : Req) (r : Region) : Bool :=
  if r.auto then !(s.wbuf.any fun e => e.block && e.line == q.line / 64 * 64)
  else if q.op.isRead then (List.range q.lines).any fun i => !s.buffered (q.line + i)
  else !s.kept q.line && !s.buffered q.line

/-- A Tangent request's command takes the reserved slot of its pseudo-channel; where the 4-entry Tangent queue is full it enters the
ordinary queue and is counted as demoted (R128). Whether the queue is full is a free value (log 129). -/
def State.tangentSlot (s : State) (q : Req) (r : Region) : State :=
  match q.src with
  | .link p _ _ true =>
    if !s.issuesCommand q r then s else
    let f := s.takeFree
    let at_ : Attrs := { ctx := some q.ctx, cls := some q.cls, za := some q.za }
    if f.1 % 2 = 1 then f.2.count 0x08 (p / 4) 0x0C { at_ with port := some p }
    else f.2.count 0x0A (dieOf (s.stackOf q.za)) 0x0C at_
  | _ => s

/-- The directory answers the request itself: a release without data (R111, R123). -/
def ReqOp.atDirectory : ReqOp → Bool
  | .wrRelease n => n
  | _ => false

/-- Executes an admitted request at its order point and answers it (R111, R124-R127). -/
def State.perform (s : State) (q : Req) (r : Region) : State :=
  let die := dieOf (s.stackOf q.za)
  let pri := q.pri
  let src := q.src.code
  let s := if q.mover || q.op.atDirectory then s else s.latencySample die q.cls q.entry q.ctx
  let s := s.tangentSlot q r
  match q.op with
  | .rd =>
    let o := s.readLines r q.line q.lines q.ctx q.cls src (if q.mover then .long else rdFetch q.lines)
    o.2.answerRead q o.1
  | .rdOwn =>
    let o := s.readLines r q.line 1 q.ctx q.cls src .short
    let s := match o.1, q.src with
      | (0, _) :: _, .link port _ _ _ =>
        if thas o.2.leases q.line || !(o.2.port port).live then o.2
        else
          ({ o.2 with leases := tset o.2.leases q.line { port, ctx := q.ctx, la := q.la } }).countGnm (q.za / 65536) 0x0D q.ctx
      | _, _ => o.2
    s.answerRead q o.1
  | .wr =>
    (match s.writeBlocked q.line q.lines r.auto with
     | some e => (s.dataError e q.line q.ctx q.lines).answerDone q e.status none
     | none =>
       let s := s.putLines r q.line q.data pri q.ctx
       let s := if q.poison then s.poisonLine q.line 1 0 else s
       s.answerDone q 0 none)
  | .wrRelease nodata =>
    let holds := match tfind? s.leases q.line, q.src with
      | some l, .link port _ _ _ => l.port == port && l.ctx == q.ctx
      | _, _ => false
    if nodata then (if holds then s.endLease q.line else s).answerDone q 0 none
    else
      (match s.writeBlocked q.line 1 false with
       | some e => (s.dataError e q.line q.ctx 1).answerDone q e.status none
       | none =>
         let s := s.putLines r q.line q.data pri q.ctx
         (if holds then s.endLease q.line else s).answerDone q 0 none)
  | .atom =>
    let o := s.atomicScalar r q.za q.atop q.awidth q.a.toNat q.b.toNat q.ctx q.cls src pri
    o.2.2.answerDone q o.1 (some o.2.1)
  | .vadd =>
    let o := s.atomicVadd r q.za q.awidth (q.data.headD 0) q.ctx q.cls src pri
    o.2.answerDone q o.1 none
  | .acc =>
    let o := s.accumulate r q.za q.awidth q.data q.ctx q.cls src pri
    o.2.answerDone q o.1 none
  | .clear => (s.clearLine r q.line q.ctx).answerDone q 0 none

/-! ## Holds -/

/-- Holds a request. DESIGN CHOICE (log 148): its place among the held ones is that of its arrival at the device, also where one of another port
that arrived later has come to the directory first. -/
def State.hold (s : State) (q : Req) (h : Hold) : State :=
  { s with held := (s.held ++ [{ q with hold := h }]).mergeSort fun a b => a.id ≤ b.id }

/-- The hint of a CPL_RETRY for a page (R133): 0 when the fetch has not started, else the estimate, a free value (log 1). -/
def State.fetchHint (s : State) (page : Nat) : Nat × State :=
  if (s.ent page).st == .fetching then (let f := s.takeFree; (1 + f.1 % 65535, f.2)) else (0, s)

/-- Answers a miss of a link request with CPL_RETRY. -/
def State.retryMiss (s : State) (q : Req) (page : Nat) : State :=
  match q.src with
  | .link port tag vc _ =>
    let h := s.fetchHint page
    ((h.2.count 0x0E (pageDir page) 0x0C { ctx := some q.ctx, cls := some q.cls, za := some (65536 * page) }).hop q 0).answerRetry
      port vc q.ctx tag (q.lines - 1) q.cls h.1
  | _ => s

/-- Answers a request with a bus error for all of its lines. -/
def State.failReq (s : State) (q : Req) (status : Nat) : State :=
  if q.op.isRead then s.answerRead q (List.replicate q.lines (status, 0)) else s.answerDone q status none

/-- Link requests that a die holds on non-resident pages (R173). -/
def State.heldMisses (s : State) (d : Nat) : Nat :=
  (s.held.filter fun q => q.port?.isSome && (match q.hold with | .miss p => pageDir p == d | _ => false)).length

/-- The DIRTY bits that a request's write sets (R159). -/
def dirtyMask (line n : Nat) : BitVec 16 :=
  (List.range 16).foldl (fun m b =>
    if line % 1024 < 64 * b + 64 && 64 * b < line % 1024 + n then m ||| BitVec.ofNat 16 (1 <<< b) else m) 0

/-- The earlier held request that a request must follow: one of its port to a common line, or another write of its context there
(R109). One at a regulator has not been admitted. -/
def State.before (s : State) (q : Req) : Option Req :=
  s.held.find? fun e =>
    e.port? == q.port? && q.port?.isSome && e.id < q.id &&
      ((e.overlaps q && !(e.op.isRead && q.op.isRead)) || (e.ctx == q.ctx && !e.op.isRead && !q.op.isRead && !q.ro)) &&
      (match e.hold with | .regulator _ => false | _ => true)

/-- The request enters the write buffer. -/
def Req.buffers (q : Req) : Bool := !q.op.isRead && !q.op.atDirectory

/-- A request waits at its order point for room in the write buffer of its stack (R302). -/
def Req.atRoom (q : Req) : Bool := match q.hold with | .room _ => true | _ => false

/-- There is room for what a request writes. -/
def State.roomFor (s : State) (q : Req) (r : Region) : Bool := !q.buffers || s.hasRoom (s.stackOf q.za) (r.bufferNeed q.span)

/-- A request at its order point: a write that finds the write buffer full waits there (R302). -/
def State.atOrder (s : State) (q : Req) (r : Region) : State :=
  if s.roomFor q r then s.perform q r else s.hold q (.room (s.stackOf q.za))

/-- The directory forwards a request to the memory die over the hub, or answers it itself (R123); one that has come to its order point has
crossed the hub. -/
def State.forward (s : State) (q : Req) (r : Region) : State :=
  (if q.op.atDirectory || q.atRoom then s else s.hop q q.data.length).atOrder q r

/-- The lease table is full for a RD_OWN: all 65,536 leases are in use, and none is the requester's own of that line (R107 check 6;
log 128). -/
def State.leasesFull (s : State) (q : Req) : Bool :=
  let own := match tfind? s.leases q.line, q.src with
    | some l, .link p _ _ _ => l.port == p && l.ctx == q.ctx
    | _, _ => false
  q.op == .rdOwn && 65536 ≤ s.leases.length && !own

/-- A request at the lease table of its directory die (R107, R111, R112, R123). -/
def State.leaseRoute (s : State) (q : Req) (r : Region) : State :=
  if s.leasesFull q then
    (match q.src with
     | .link port tag vc _ =>
       (s.count 0x08 (port / 4) 0x08 { ctx := some q.ctx, port := some port, cls := some q.cls }).hop q 0 |>.answerErr
         port vc q.ctx tag (q.lines - 1) stNoSpace
     | _ => s)
  else
    match s.conflict q with
    | some (line, _) => if q.op.atDirectory then s.forward q r else (s.hold q (.lease line)).sendRecall line
    | none => s.forward q r

/-- What a request is to a page on which it may have been held. -/
def Req.visit (q : Req) (page : Nat) : Visit :=
  match q.hold with
  | .miss p => if p = page then .missed else .first
  | .readout p => if p = page then .waited else .first
  | .room _ => .waited
  | _ => .first

/-- A request that misses (R133, R173): held, with the limit read when its miss began, or answered under its policy. -/
def State.missed (s : State) (q : Req) (page : Nat) : State :=
  if q.visit page = .missed then s.hold q (.miss page)
  else
    match q.src with
    | .link _ _ _ _ =>
      if (s.ctx q.ctx).nack || 16384 ≤ s.heldMisses (pageDir page) then s.retryMiss q page
      else s.hold { q with limit := (s.dirDie (pageDir page)).holdLimit } (.miss page)
    | .cmd id => if (s.ctx q.ctx).nack then s.replyTo id stNotResident else s.hold q (.miss page)
    | .cxl _ => s.hold q (.miss page)

/-- A request at the directory of its tier page (R133, R160-R164). -/
def State.tierRoute (s : State) (q : Req) (r : Region) : State :=
  let page := q.za / 65536
  let wr := if q.op.isRead then none else some (dirtyMask q.line q.span)
  let o := s.lookup page wr q.ctx q.label (q.visit page)
  match o.1 with
  | .zeros => o.2.answerRead q (List.replicate q.lines (0, 0))
  | .go => o.2.forward q r
  | .readout => o.2.hold q (.readout page)
  | .miss => o.2.missed q page
  | .unreadable => (o.2.dataError .bad q.line q.ctx q.lines).failReq q stUncorrectable

/-- A request of a region that changes its route is one that its entry die holds (R44): it was not admitted before. -/
def Region.holds (r : Region) (q : Req) : Bool :=
  match r.moving with
  | some (_, _, old) => !old.contains q.id
  | none => false

/-- Routes an admitted request (R123): the lease table of a lease-eligible region, the directory of tiered space, the memory
die. A request that must follow a held one waits behind it (R109). -/
def State.route (s : State) (q : Req) : State :=
  match s.region? q.region with
  | none => s
  | some r =>
    if r.holds q then s.hold q (.move q.region) else
    match s.before q with
    | some e => s.hold q (.behind e.id)
    | none => if r.leased then s.leaseRoute q r else if r.tiered then s.tierRoute q r else s.atOrder q r

/-- Takes held requests that a test names and routes each again, in arrival order. -/
def State.rerouted (s : State) (p : Req → Bool) : State :=
  let go := s.held.filter p
  ({ s with held := s.held.filter fun q => !p q }).each go State.route

/-- A held request whose reason has gone: its lease has ended, the request before it is no longer held, or the write buffer has room (R109,
R112, R302). -/
def State.released (s : State) (q : Req) : Bool :=
  match q.hold with
  | .lease line => !thas s.leases line
  | .behind id => !(s.held.any fun e => e.id == id)
  | .room _ => (s.region? q.region).any (s.roomFor q)
  | _ => false

/-- Lets released requests proceed until none is left (R112, R113); a new lease taken on the way holds the rest again. -/
def State.settleHeld (s : State) : Nat → State
  | 0 => s
  | fuel + 1 => if s.held.any s.released then (s.rerouted s.released).settleHeld fuel else s

/-- The report of a region: attribute word, size, ZA base. -/
def Region.report (r : Region) : Nat := r.attr.toNat + r.pages <<< 32 + (r.zaPage * 65536) <<< 64

/-- A change of LEASE is complete (R44): every request admitted on the old route has passed its order point. Its entry dies release what
they held on the new route; then the reply. -/
def State.endMove (s : State) (i : Nat) : State :=
  match s.region? i with
  | some r =>
    (match r.moving with
     | some (id, on, old) =>
       if s.held.any fun q => old.contains q.id then s
       else
         let r := { r with attr := if on then r.attr ||| 0x80 else r.attr &&& ~~~(0x80#32), moving := none }
         let s := (s.setRegion i r).rerouted fun q => q.hold == .move i
         (s.settleHeld (s.held.length * s.held.length + 8)).replyTo id 0 r.report
     | none => s)
  | none => s

/-- Lets held requests go on that what has happened releases, and the regions that change their route with them. -/
def State.settle (s : State) : State :=
  let s := s.settleHeld (s.held.length * s.held.length + 8)
  s.each ((s.regions.filter fun e => e.2.moving.isSome).map (·.1)) State.endMove

/-- An admitted request leaves its entry die over the hub; what it released goes on. -/
def State.dispatchReq (s : State) (q : Req) : State := ((s.hop q q.data.length).route q).settle

/-- Writes that wait for a frame of an INVALID page try again once a frame may be free (R162). -/
def State.retryInvalid (s : State) (d : Nat) : State :=
  (s.rerouted fun q => match q.hold with
    | .miss p => pageDir p == d && (s.ent p).st == .invalid && !(s.ent p).discard
    | _ => false).settle

/-! ## Regulators (R145-R152) -/

/-- The regulator a request enters at: its link die, or CTL. -/
def Req.regulator (q : Req) : Nat := match q.src with | .link p _ _ _ => p / 4 | _ => 4

def Regulator.get (g : Regulator) (c : Nat) : RegCtx := tget {} g.ctxs c

/-- The port-window index of a request: its port, 16 for the host (R443). -/
def Req.winIndex (q : Req) : Nat := match q.src with | .link p _ _ _ => p | _ => 16

/-- Charges an admitted request (R146, R147): the allowance, the use, the port window and the counters. -/
def State.chargeReq (s : State) (q : Req) (r : Region) (spare : Bool) : State :=
  let n := q.charge r
  let reg := q.regulator
  let s := s.modReg reg fun g => { g with ctxs := tmod {} g.ctxs q.ctx fun c => { c with allow := c.allow - n, use := c.use + n } }
  let s := s.modCnt fun t => { t with wins := tmod {} t.wins q.winIndex fun w =>
    if spare then { w with nowSpare := w.nowSpare + n } else { w with nowIn := w.nowIn + n } }
  match q.src with
  | .link p _ _ tan =>
    let at_ : Attrs := { ctx := some q.ctx, port := some p, cls := some q.cls, za := some q.za }
    let s := (s.count 0x08 (p / 4) 0x01 at_).count 0x08 (p / 4) 0x06 at_ n
    let s := match q.op with
      | .rd => s.count 0x08 (p / 4) 0x02 at_ q.lines
      | .rdOwn => s.count 0x08 (p / 4) 0x02 at_ 1
      | .wr => s.count 0x08 (p / 4) 0x03 at_ q.lines
      | .wrRelease nodata => if nodata then s else s.count 0x08 (p / 4) 0x03 at_ 1
      | .atom => s.count 0x08 (p / 4) 0x04 at_
      | .vadd => s.count 0x08 (p / 4) 0x04 at_
      | .acc => s.count 0x08 (p / 4) 0x04 at_
      | .clear => s
    if tan then s.count 0x08 (p / 4) 0x0B at_ else s
  | _ => s.count 0x01 0 0x09 { ctx := some q.ctx, cls := some q.cls, za := some q.za } n

/-- Whether an admitted request takes the Tangent path (R97, R124, R128, R151), and the limits it uses up. A VC3 request
that does not is counted as TANGENT_DEMOTED. The same-line check of R124 was made when it arrived. -/
def State.tangentPath (s : State) (q : Req) (spare : Bool) : Req × State :=
  match q.src with
  | .link p tag vc _ =>
    if vc ≠ 3 then (q, s)
    else
      let reg := q.regulator
      let g := s.regulator reg
      let shape := (q.op == .rd && q.lines ≤ 8) || q.op == .atom
      let room := (g.get q.ctx).tanLines + q.lines ≤ s.qos.ctxLines && tget 0 g.portTan p + q.lines ≤ s.qos.portLines
      if shape && q.entry.tangent && !q.demoted && room && !spare then
        ({ q with src := .link p tag vc true },
         s.modReg reg fun g => { g with
           ctxs := tmod {} g.ctxs q.ctx fun c => { c with tanLines := c.tanLines + q.lines }
           portTan := tmod 0 g.portTan p (· + q.lines) })
      else
        ({ q with src := .link p tag vc false },
         s.count 0x08 (p / 4) 0x0C { ctx := some q.ctx, port := some p, cls := some q.cls, za := some q.za })
  | _ => (q, s)

/-- Admits a request at its regulator and routes it. -/
def State.admitReq (s : State) (q : Req) (r : Region) (spare : Bool) : State :=
  let o := s.tangentPath q spare
  let q := { o.1 with spare }
  (o.2.chargeReq q r spare).dispatchReq q

/-- A request waits at its regulator. -/
def Req.atRegulator (q : Req) : Bool := match q.hold with | .regulator _ => true | _ => false

/-- Slots that a context holds at a port, or at CTL for the host (R148). -/
def State.heldSlots (s : State) (ctx : Nat) (port : Option Nat) : Nat :=
  ((s.held.filter fun q => q.ctx == ctx && q.port? == port && q.atRegulator).map Req.slots).sum

/-- A request would make its context hold more than HOLD_CAP slots at its port (R148). -/
def State.atCap (s : State) (q : Req) : Bool := s.qos.holdCap < s.heldSlots q.ctx q.port? + q.slots

/-- A request may be released ahead of the earlier ones held at its port: of its own context it is the first, or a read of higher base
priority than each of them with no held write to its line (R147); of another context none is to its line, unless both read (R109). -/
def State.mayPass (s : State) (q : Req) : Bool :=
  s.held.all fun e =>
    !(e.id < q.id && e.port? == q.port? && e.atRegulator) ||
    (if e.ctx = q.ctx then q.op.isRead && e.entry.base < q.entry.base && !(!e.op.isRead && e.overlaps q)
     else !(e.overlaps q && !(e.op.isRead && q.op.isRead)))

/-- A request that has arrived is admitted in-share at once: its context has allowance, and no request before it stands in its way
(R109, R147). -/
def State.admits (s : State) (q : Req) : Bool := 0 < ((s.regulator q.regulator).get q.ctx).allow && s.mayPass q

/-- The retry hint of R148: the time to the next window boundary in nominal microseconds, at least 1: a free value no longer
than a window (log 1). -/
def State.windowHint (s : State) : Nat × State :=
  let f := s.takeFree
  (1 + f.1 % max 1 (cdiv s.qos.window 2000), f.2)

/-- A request arrives at its regulator (R147, R148): admitted in-share, held, or answered CPL_RETRY at the cap. -/
def State.regulate (s : State) (q : Req) (r : Region) : State :=
  if s.admits q then s.admitReq q r false
  else
    match q.src with
    | .link port tag vc _ =>
      if s.atCap q then
        let h := s.windowHint
        h.2.answerRetry port vc q.ctx tag (q.lines - 1) q.cls h.1
      else s.hold q (.regulator q.regulator)
    | _ => s.hold q (.regulator q.regulator)

/-- The next held request of a context at a regulator. Among those of its several ports that may go, the highest base priority, then
the oldest: DESIGN CHOICE, R147 orders one port's requests only (log 127). -/
def State.nextHeld (s : State) (reg ctx : Nat) (p : Req → Bool) : Option Req :=
  (s.held.filter fun q => q.hold == .regulator reg && q.ctx == ctx && p q && s.mayPass q).foldl
    (fun (b : Option Req) q => match b with
      | none => some q
      | some a => if a.entry.base < q.entry.base then some q else b) none

/-- Releases a held request. -/
def State.releaseHeld (s : State) (q : Req) (spare : Bool) : State :=
  let s := { s with held := s.held.filter fun e => e.id != q.id }
  let s := match q.src with
    | .link port _ vc _ => s.owe port vc q.slots
    | _ => s
  match s.region? q.region with
  | some r => s.admitReq q r spare
  | none => s

/-- Releases a context's held requests while it has allowance (R147). -/
def State.releaseInShare (s : State) (reg ctx : Nat) : Nat → State
  | 0 => s
  | fuel + 1 =>
    if 0 < ((s.regulator reg).get ctx).allow then
      match s.nextHeld reg ctx fun _ => true with
      | some q => (s.releaseHeld q false).releaseInShare reg ctx fuel
      | none => s
    else s

/-- Every falling share of a context has been confirmed at its regulator (R149). -/
def State.confirmed (s : State) (ctx : Nat) : Bool :=
  (List.range 5).all fun r => ((s.regulator r).get ctx).share ≤ ((s.regulator r).get ctx).next

/-- A regulator's window ends (R145, R149, R150, R155, R443): a falling share that the scheduler core has sent takes force, a rising one
once every falling one is confirmed; while that core restarts shares and the derate factor stay. Then allowances, Tangent counts, the
port windows, and the held requests. -/
def State.windowBoundary (s : State) (reg : Nat) : State :=
  let f := if s.scRunning then (s.regulator reg).derate else (s.regulator reg).derateOn
  let ctxs := ((s.regulator reg).ctxs.map (·.1))
  let s := s.each ctxs fun s c =>
    let g := (s.regulator reg).get c
    let share := if s.scRunning && (g.next ≤ g.share || s.confirmed c) then g.next else g.share
    let g' : RegCtx := { g with share := share, allow := derated share f + min g.allow 0, tanLines := 0 }
    s.modReg reg fun t => { t with ctxs := tput {} t.ctxs c g' }
  let s := s.modReg reg fun t => { t with portTan := [], derateOn := f }
  let ports := if reg < 4 then (List.range 4).map (4 * reg + ·) else [16]
  let s := s.modCnt fun t => { t with wins := ports.foldl (fun w p => tmod {} w p fun x =>
    { x with inShare := x.nowIn, spare := x.nowSpare, windows := (x.windows + 1) % 2 ^ 48, nowIn := 0, nowSpare := 0 }) t.wins }
  let waiting := ((s.held.filter fun q => q.hold == .regulator reg).map (·.ctx)).eraseDups
  s.each waiting fun s c => s.releaseInShare reg c (s.held.length + 1)

/-- The weight of a context in the round robin (R152): its share, or BE_WEIGHT when it holds none. -/
def State.wrrWeight (s : State) (reg ctx : Nat) : Nat :=
  let w := derated ((s.regulator reg).get ctx).share (s.regulator reg).derateOn
  if w = 0 then s.qos.beWeight else w

/-- A free hub-port slot (R152): the context whose turn it is releases one request toward the hub, from spare bandwidth; an in-share
request that waits takes the slot. DESIGN CHOICE (log 126): turns go to the contexts with a request that may go toward this hub, in
rising number from the last one; one turn serves both hubs, and ends once the bytes released in it reach the weight. -/
def State.spareRelease (s : State) (reg hub : Nat) : State :=
  let g := s.regulator reg
  let toward (q : Req) : Bool := hubOf q.za = hub
  let ready := ((s.held.filter fun q => q.hold == .regulator reg && toward q).map (·.ctx)).eraseDups.filter fun c =>
    (s.nextHeld reg c toward).isSome
  match (ready.filter fun c => decide (0 < (g.get c).allow)).findSome? fun c => s.nextHeld reg c toward with
  | some q => s.releaseHeld q false
  | none =>
  let next := ready.foldl (fun (b : Option Nat) c => match b with
    | none => some c
    | some a => if (c + 4095 - g.wrrCtx) % 4096 < (a + 4095 - g.wrrCtx) % 4096 then some c else b) none
  let turn : Option (Nat × Nat) :=
    if ready.contains g.wrrCtx && 0 < g.wrrLeft then some (g.wrrCtx, g.wrrLeft) else next.map fun c => (c, s.wrrWeight reg c)
  match turn with
  | none => s
  | some (c, left) =>
    match s.nextHeld reg c toward with
    | none => s
    | some q =>
      let n := match s.region? q.region with | some r => q.charge r | none => 0
      (s.modReg reg fun t => { t with wrrCtx := c, wrrLeft := left - n }).releaseHeld q true

/-- The regulators that can carry a context's traffic (R149). -/
def State.carriers (s : State) (ctx : Nat) : List Nat :=
  (List.range 4).filter (fun n => bits (s.ctx ctx).bind.toNat (4 * n + 3) (4 * n) != 0) ++ [4]

/-- Splits a context's budget across its regulators over their use in the rebalance period before (R149). -/
def State.splitBudget (s : State) (ctx : Nat) : State :=
  let b := (s.ctx ctx).budget
  let rs := s.carriers ctx
  let n := rs.length
  let use (r : Nat) : Nat := ((s.regulator r).get ctx).prev
  let total := (rs.map use).sum
  let share (r : Nat) : Nat := (if total = 0 then b / n else b * (total + 7 * n * use r) / (8 * n * total)) / 64 * 64
  let links := (rs.filter (· < 4)).map fun r => (r, share r)
  let ctl := b - (links.map (·.2)).sum
  s.each (List.range 5) fun s r =>
    let v := if r = 4 then ctl else ((links.find? fun e => e.1 == r).map (·.2)).getD 0
    s.modReg r fun g => { g with ctxs := tmod {} g.ctxs ctx fun c => { c with next := v } }

/-- BUDGET_REBALANCE (R149): a period ends, and every budget is split anew over the use in it. -/
def State.rebalance (s : State) : State :=
  if s.scRunning then
    let s := s.each (List.range 5) fun s r => s.modReg r fun g =>
      { g with ctxs := g.ctxs.filterMap fun e =>
          let c := { e.2 with prev := e.2.use, use := 0 }
          if c = {} then none else some (e.1, c) }
    s.each ((s.ctxs.filter fun e => e.2.budget != 0).map (·.1)) State.splitBudget
  else s

/-! ## The end of a hold -/

/-- Requests that wait for a page proceed (R133, R162, R164). -/
def State.pageReady (s : State) (page : Nat) : State :=
  (s.rerouted fun q => q.hold == Hold.miss page || q.hold == Hold.readout page).settle

/-- Requests held on a page get the bus error of their path (R167). -/
def State.failHeld (s : State) (page status : Nat) : State :=
  let go := s.held.filter fun q => q.hold == Hold.miss page
  (({ s with held := s.held.filter fun q => !(q.hold == Hold.miss page) }).each go fun s q => s.failReq q status).settle

/-- HOLD_LIMIT_EXPIRY (R133): a link request held as a miss is answered CPL_RETRY. -/
def State.holdExpired (s : State) (id : Nat) : State :=
  match s.held.find? fun q => q.id == id with
  | some q =>
    (match q.hold, q.src with
     | .miss page, .link _ _ _ _ => (({ s with held := s.held.filter fun e => e.id != id }).retryMiss q page).settle
     | _, _ => s)
  | none => s

/-- The slots of a request that a regulator has held are free again (R98, R148); what was admitted crosses the hub with its answer (R16). -/
def State.leaveHold (s : State) (q : Req) : State :=
  if q.atRegulator then
    match q.src with
    | .link port _ vc _ => s.owe port vc q.slots
    | _ => s
  else s.hop q 0

/-- Held requests are released with the refusal of their path (R30). -/
def State.refuseHeld (s : State) (p : Req → Bool) : State :=
  let go := s.held.filter p
  (({ s with held := s.held.filter fun q => !p q }).each go fun s q =>
    let s := s.leaveHold q
    match q.src with
    | .link port tag vc _ => s.answerErr port vc q.ctx tag (q.lines - 1) stNoPerm
    | .cxl tag => s.cxlRefuse tag q.op.isRead
    | .cmd id => s.replyTo id stNoPerm).settle

end Sys2Proof.Machine
end

