-- ==== Sys2Proof/WellFormed.lean ====
section
/-!
DEFINITION. Which commands a message can spell: the data a command carries have the length its header states, and a command
that stands for reserved or undefined codes carries such a code. Every other operand has the width of its field by its type.
-/

namespace Sys2Proof

/-- The opcodes that Fraist 1.0 defines (R72-R81), in ranges: first and last. -/
def fraistRanges : List (Nat × Nat) :=
  [(0x0000, 0x0001), (0x0100, 0x0106), (0x0200, 0x0204), (0x0300, 0x0304), (0x0400, 0x0402), (0x0500, 0x0502), (0x0600, 0x0603),
   (0x0700, 0x0701), (0x0800, 0x0803), (0x0900, 0x0901), (0x0A00, 0x0A01), (0x0B00, 0x0B00)]

/-- An opcode is one of Fraist 1.0. -/
def fraistDefined (opcode : Nat) : Bool := fraistRanges.any fun r => r.1 ≤ opcode && opcode ≤ r.2

/-- The data of a command agree with its header: a WR carries LEN + 1 lines (R100), an ACC 64 (R106), a CPL_DATA the lines that its
header states, or none where DKIND says a value or a status (R103); an aperture write carries at least one byte. A reserved request, response
or flit type and an undefined opcode carry codes that are reserved or undefined (R61, R91, R102). -/
def Instr.wellFormed : Instr → Bool
  | .wr _ h d => d.length == h.len.toNat + 1
  | .acc _ _ d => d.length == 64
  | .apertureSlotWrite _ _ b => 0 < b.length
  | .cplData _ r d => if r.dkind.toNat = 0 then d.length == r.lines.toNat + 1 else d.length == 0
  | .undefinedOpcode _ o _ => !fraistDefined o.toNat
  | .reservedRequest _ o _ => o.toNat == 0 || (8 < o.toNat && o.toNat < 0x20)
  | .reservedResponse _ o _ => 0x23 < o.toNat
  | .flitReservedRx _ r => 3 < r.ftype.toNat
  | _ => true

end Sys2Proof
end

