-- ==== Sys2Proof/Machine/Requests.lean ====
section
/-!
DEFINITION. Link requests (R101-R113), the regulators' events (R145-R152), holds (R133) and the memory dies' own steps
(R126, R127, R142, R312): their checks and their meanings.
-/

namespace Sys2Proof.Machine

/-- The outcome type of a meaning. -/
abbrev Out1 := Host.Outcome State Fault Refusal

/-! ## The checks of R107 -/

/-- Refuses a link request at checks 1-6 and counts it. -/
def State.refuseLink (s : State) (port : Nat) (h : Hdr) (status : Nat) (ctxPassed : Bool) : State :=
  let s := s.count 0x08 (port / 4) 0x08
    { ctx := if ctxPassed then some h.ctx.toNat else none, port := some port, cls := some h.cls.toNat }
  s.answerErr port h.vc.toNat h.ctx.toNat h.tag.toNat h.len.toNat status

/-- The lines of a request: LEN + 1. -/
def hdrLines (h : Hdr) : Nat := h.len.toNat + 1

/-- Check 4 of R107: the VC, LEN, the block, ATOP and AWIDTH, the alignment of an atomic operand. -/
def check4 (op : ReqOp) (h : Hdr) : Bool :=
  let vcOk := match op with
    | .rd => h.vc.toNat = 0 || h.vc.toNat = 3
    | .atom => h.vc.toNat = 0 || h.vc.toNat = 3
    | .vadd => h.vc.toNat = 0 || h.vc.toNat = 3
    | _ => h.vc.toNat = 0
  let shape := match op with
    | .rd => (h.la.toNat / 64) % 64 + h.len.toNat ≤ 63
    | .wr => (h.la.toNat / 64) % 64 + h.len.toNat ≤ 63
    | .rdOwn => h.len.toNat = 0
    | .wrRelease _ => h.len.toNat = 0
    | .atom => h.len.toNat = 0 && atomAllowed h.atop.toNat h.awidth.toNat &&
        h.la.toNat % atomBytes h.awidth.toNat = 0
    | .vadd => h.len.toNat = 0 && (h.awidth.toNat = 2 || h.awidth.toNat = 3) && h.la.toNat % 64 = 0
    | .acc => h.len.toNat = 63 && h.atop.toNat = 0 && (h.awidth.toNat = 2 || h.awidth.toNat = 3)
    | .clear => false
  vcOk && shape

/-- Check 5 of R107: whole lines, whole blocks of a compressed region, the alignment of an ACC. -/
def check5Link (op : ReqOp) (h : Hdr) (r : Region) : Bool :=
  match op with
  | .atom => true
  | .vadd => true
  | .acc => h.la.toNat % (if h.awidth.toNat = 3 then 8192 else 4096) = 0
  | .wr => h.la.toNat % 64 = 0 && (!r.auto || (h.la.toNat % 4096 = 0 && h.len.toNat = 63))
  | _ => h.la.toNat % 64 = 0

/-- A write of a port that touches a request's lines has not been answered (R124). -/
def State.unanswered (s : State) (port : Nat) (q : Req) : Bool :=
  s.held.any fun e => e.port? == some port && !e.op.isRead && e.overlaps q

/-- A request has fully arrived (R107, R108): the tag, checks 1-5 in order, then the regulator; check 6 is the lease table's (R123).
`op` is none for a reserved opcode and for RECALL. -/
def State.checkRequest (s : State) (port : Nat) (op : Option ReqOp) (h : Hdr) (data : List Line) : State :=
  let ctx := h.ctx.toNat
  let tag := h.tag.toNat
  if !(s.running && (s.port port).st == .active) then s
  else if (s.port port).tags.contains tag then s.tagReuse port
  else
    let s := (s.fixed 0x08 (port / 4) 2 1).fixed 0x08 (port / 4) 3 (64 * data.length)
    let s := s.modPort port fun p => { p with tags := tag :: p.tags }
    if !(s.isActive ctx && bit (s.ctx ctx).bind.toNat port) then s.refuseLink port h stNoPerm false
    else
      match op with
      | none => s.refuseLink port h stBadOpcode true
      | some op =>
        match s.translate ctx h.la.toNat 1 op.perm false with
        | none => s.refuseLink port h stNoPerm true
        | some t =>
          match s.region? t.region with
          | none => s.refuseLink port h stNoPerm true
          | some r =>
            if !check4 op h then s.refuseLink port h stBadParam true
            else if !check5Link op h r then s.refuseLink port h stGranule true
            else
              let n := s.takeId
              let q : Req :=
                { id := n.1, src := .link port tag h.vc.toNat false, ctx, op, la := h.la.toNat, za := t.za, region := t.region,
                  lines := hdrLines h, cls := h.cls.toNat, entry := s.cls h.cls.toNat, keySlot := t.keySlot, gen := t.gen
                  atop := h.atop.toNat, awidth := h.awidth.toNat, a := h.a, b := h.b, data, ro := h.ro && op.mayRelax }
              n.2.regulate { q with demoted := h.vc.toNat = 3 && s.unanswered port q } r

/-- The slots of a request's message (R100). -/
def requestSlots (op : Option ReqOp) (n : Nat) : Nat :=
  match op with
  | some .wr => 1 + 2 * n
  | some (.wrRelease nodata) => if nodata then 1 else 3
  | some .vadd => 3
  | some .acc => 129
  | _ => 1

/-- A request arrives: its checks, and its buffer slots, which are free again unless a regulator holds it (R98, R148). -/
def State.linkRequest (s : State) (port : Nat) (op : Option ReqOp) (h : Hdr) (data : List Line) : State :=
  let t := s.checkRequest port op h data
  let waits := t.held.any fun q => s.nextId ≤ q.id && q.atRegulator
  if waits then t else t.owe port h.vc.toNat (requestSlots op (hdrLines h))

/-- The operation of an ATOM: VADD for ATOP 8, else a scalar atomic (R105). -/
def atomOp (h : Hdr) : ReqOp := if h.atop.toNat = 8 then .vadd else .atom

/-! ## Meanings of the link requests -/

def execRd (port : Fin 16) (h : Hdr) (s : State) : Out1 := .next (s.linkRequest port.val (some .rd) h [])

def execRdOwn (port : Fin 16) (h : Hdr) (s : State) : Out1 := .next (s.linkRequest port.val (some .rdOwn) h [])

def execWr (port : Fin 16) (h : Hdr) (data : List Line) (s : State) : Out1 :=
  if data.length = hdrLines h then .next (s.linkRequest port.val (some .wr) h data) else .fault .malformedCommand

def execWrRelease (port : Fin 16) (h : Hdr) (data : Line) (s : State) : Out1 :=
  .next (s.linkRequest port.val (some (.wrRelease h.nodata)) h (if h.nodata then [] else [data]))

def execAtom (port : Fin 16) (h : Hdr) (v : Line) (s : State) : Out1 :=
  .next (s.linkRequest port.val (some (atomOp h)) h (if h.atop.toNat = 8 then [v] else []))

def execAcc (port : Fin 16) (h : Hdr) (data : List Line) (s : State) : Out1 :=
  if data.length = 64 then .next (s.linkRequest port.val (some .acc) h data) else .fault .malformedCommand

def execRecallReceived (port : Fin 16) (h : Hdr) (s : State) : Out1 := .next (s.linkRequest port.val none h [])

/-- The opcodes of reserved requests (R102). -/
def reservedReq (o : BitVec 6) : Bool := o.toNat = 0 || (9 ≤ o.toNat && o.toNat < 0x20)

def execReservedRequest (port : Fin 16) (opcode : BitVec 6) (h : Hdr) (s : State) : Out1 :=
  if reservedReq opcode then .next (s.linkRequest port.val none h []) else .fault .malformedCommand

/-! ## Recalls and holds -/

/-- RECALL_TIMEOUT (R113): the lease is revoked, its line poisoned LEASE_LOST, the held accesses proceed. -/
def State.recallExpired (s : State) (port tag : Nat) : State :=
  match tfind? (s.port port).reqs tag with
  | some q =>
    (match q.use with
     | .recallReq line =>
       if q.sent then
         (match tfind? s.leases line with
          | some l =>
            let s := s.endLease line
            let s := s.poisonLine line 2 7
            let s := s.modPort port fun p => { p with err := orBit p.err 6 }
            let s := s.countGnm (line / 1024) 0x0E l.ctx
            let s := s.log { event := 0x04, kind := 7, index := port, ctx := l.ctx, addr := l.la, reason := 2, count := 1 }
            s.settle
          | none => s)
       else s
     | _ => s)
  | none => s

def execRecallTimeout (port : Fin 16) (tag : BitVec 12) (s : State) : Out1 :=
  .next (if s.running then s.recallExpired port.val tag.toNat else s)

def execHoldLimitExpiry (held : Nat) (s : State) : Out1 := .next (if s.running then s.holdExpired held else s)

/-! ## CXL.mem reads and writes (R148, R356, R359, R371) -/

/-- CXL.mem is decoded: the device is in D0, Mem_Enable is set and the HDM decoder is committed (R356, R368). -/
def State.cxlOn (s : State) : Bool := s.pmc.powered && s.hep.memEnable && s.hep.hdm.committed && !s.hep.d3hot

/-- The host window in force that holds a DPA. -/
def State.hostWindow (s : State) (dpa : Nat) : Option HWinOn :=
  (s.hep.hwinOn.find? fun e => e.2.w.valid && e.2.w.dpaPage * 65536 ≤ dpa && dpa < (e.2.w.dpaPage + e.2.w.pages) * 65536).map (·.2)

/-- A read or write of the line at a DPA through its host window (R359): refused, or a request with the window's context and
class label. A fatal device answers reads with poison and discards writes (R371). One that would pass HOLD_CAP waits at the host for a
credit (R148). -/
def State.cxlAccess (s : State) (c : CxlReq) : State :=
  let read := c.write.isNone
  if !s.cxlOn then s
  else if s.pmc.ready && s.pmc.fatal then (if read then s.emit (.cxlData c.tag 0 true) else s)
  else
    let d := c.dpa / 64 * 64
    match s.hostWindow d with
    | none => s.cxlRefuse c.tag read
    | some h =>
      let za := h.zaPage * 65536 + (d - h.w.dpaPage * 65536)
      match s.region? h.region with
      | none => s.cxlRefuse c.tag read
      | some r =>
        if !s.running || !(if read then h.w.rd else h.w.wr) || !s.isActive h.w.ctx then s.cxlRefuse c.tag read
        else
          let n := s.takeId
          let q : Req :=
            { id := n.1, src := .cxl c.tag, ctx := h.w.ctx, op := if read then .rd else .wr, la := d, za, region := h.region
              lines := 1, cls := h.w.cls, entry := s.cls h.w.cls, keySlot := r.slot, gen := r.gen, data := c.write.toList
              poison := c.poison }
          if !s.admits q && s.atCap q then s.modHep fun h => { h with cxlWait := h.cxlWait ++ [c] }
          else
            (n.2.count 0x01 0 (if read then 0x06 else 0x07) { ctx := some h.w.ctx, cls := some h.w.cls, za := some za }).regulate q r

/-- MemWrPtl (R360): counted and answered, never performed. -/
def State.cxlPartial (s : State) (dpa tag : Nat) : State :=
  let s := s.modHep fun h => ({ h with ptlDropped := satAdd h.ptlDropped 1 0xFFFF, ptlSeen := true } : Hep).ras 1
  let d := dpa / 64 * 64
  let at_ : Attrs := match s.hostWindow d with
    | some h => { ctx := some h.w.ctx, cls := some h.w.cls, za := some (h.zaPage * 65536 + (d - h.w.dpaPage * 65536)) }
    | none => {}
  (s.count 0x01 0 0x08 at_).emit (.cxlCmp tag)

/-- A message that the device answers without touching data (R360); before READY the request is refused alike. -/
def State.cxlSimple (s : State) (f : State → State) : State := if s.cxlOn && !(s.pmc.ready && s.pmc.fatal) then f s else s

/-- A CXL.mem request for which the host has a credit. -/
def State.cxlServe (s : State) (c : CxlReq) : State :=
  match c.kind with
  | .access => s.cxlAccess c
  | .inv => s.cxlSimple fun s => s.emit (.cxlCmp c.tag)
  | .partial_ => s.cxlSimple fun s => s.cxlPartial c.dpa c.tag

/-- A CXL.mem request: while request credits are withheld it waits at the host behind those that wait already (R148); a
fatal device withholds none (R371). -/
def State.cxlRequest (s : State) (c : CxlReq) : State :=
  if s.hep.cxlWait.isEmpty || s.pmc.fatal then s.cxlServe c else s.modHep fun h => { h with cxlWait := h.cxlWait ++ [c] }

/-- Held requests have left the host's regulator: accesses that waited for a credit come in, in order (R148). -/
def State.cxlCredits (s : State) : State :=
  let l := s.hep.cxlWait
  (s.modHep fun h => { h with cxlWait := [] }).each l State.cxlRequest

/-! ## Regulators -/

def execRegulatorWindowBoundary (reg : Fin 5) (s : State) : Out1 :=
  .next (if s.running then
      let s := s.windowBoundary reg.val
      if reg.val = 4 then s.cxlCredits else s
    else if reg.val = 4 && s.pmc.fatal then s.cxlCredits else s)

def execSpareSlotRelease (reg : Fin 5) (hub : Fin 2) (s : State) : Out1 :=
  .next (if s.running then
      let s := s.spareRelease reg.val hub.val
      if reg.val = 4 then s.cxlCredits else s
    else s)

def execBudgetRebalance (s : State) : Out1 := .next (if s.running then s.rebalance else s)

/-! ## Memory dies -/

def execWriteBufferDrain (stack : Fin 20) (s : State) : Out1 :=
  .next (if s.pmc.powered then
      let o := s.nextDrain stack.val
      match o.1 with
      | some e => o.2.drain e
      | none => s
    else s)

/-- The stripe of a line whose parity delta waits, where its parity line may be written: its unit is in service (R318, R320). -/
def State.deltaStripe (s : State) (line : Nat) : Option Stripe :=
  match s.regionAt (64 * line) with
  | some (_, r) => (s.stripeOf r line).bind fun t => if s.parityAvail t == .ok then some t else none
  | none => none

/-- PARITY_DELTA (R312): the oldest delta of a stack that may be applied is. -/
def State.parityDelta (s : State) (k : Nat) : State :=
  match (s.stack k).deltas.findSome? fun e => (s.deltaStripe e.1).map fun t => (t, e) with
  | some (t, e) => s.applyDelta t e
  | none => s

def execParityDelta (stack : Fin 20) (s : State) : Out1 := .next (if s.pmc.powered then s.parityDelta stack.val else s)

def execAtomicLineRelease (die : Fin 10) (line : Nat) (s : State) : Out1 :=
  .next { s with atoms := s.atoms.filter fun a => !(a.die == die.val && a.line == line) }

def execCommandAgeEscalation (stack : Fin 20) (entry : Nat) (s : State) : Out1 :=
  .next { s with wbuf := s.wbuf.map fun e => if e.stack = stack.val && e.seq = entry then { e with aged := true } else e }

end Sys2Proof.Machine
end

