-- ==== Sys2Proof/Machine/Access.lean ====
section
/-!
DEFINITION. Accesses that the device makes itself (R123, R135, R144): transfers, Chord streams and a command's own reads reach
stored data through the same translation, lease table, directory and memory dies as requests do, and wait in their own engine.
-/

namespace Sys2Proof.Machine

/-- Who makes an access: the context, which access of its engine it is, whether it is a kernel's (it then needs KRN), its SOURCE code, its place in the priorities of
internal movers, how it fetches compressed blocks, and whether a miss ends it (miss policy NACK) or it waits. -/
structure Mover where
  ctx    : Nat
  who    : Waiter
  kernel : Bool := false
  src    : Source := 3
  kind   : MoverSource := .transfer
  fetch  : Fetch := .long
  nack   : Bool := false

/-- How an access ends: with a value; it must wait; or it fails at an LA. -/
inductive Got (α : Type) where
  | ok (v : α)
  | wait
  | fail (status la : Nat)

/-- Where a piece within one 4 KiB block leads. -/
inductive Reach where
  | go (t : Trans) (r : Region)
  | zeros (t : Trans)
  | wait
  | fail (status : Nat)

/-- The pieces of an LA range within 4 KiB blocks: LA and bytes. -/
def pieces : Nat → Nat → Nat → List (Nat × Nat)
  | 0, _, _ => []
  | fuel + 1, la, len =>
    if len = 0 then []
    else
      let n := min len (4096 - la % 4096)
      (la, n) :: pieces fuel (la + n) (len - n)

/-- The pieces of a range. -/
def piecesOf (la len : Nat) : List (Nat × Nat) := pieces (len / 4096 + 2) la len

/-- The first leased line of a range. -/
def State.leasedLine (s : State) (line n : Nat) : Option Nat :=
  (List.range n).findSome? fun i => if thas s.leases (line + i) then some (line + i) else none

/-- A tier page that a transfer covers wholly (R174): an INVALID or FLASH page takes a frame without a fetch. What the frame
of a FLASH page holds before its blocks are written is not stated: free values (log 25). None: no frame is free. -/
def State.coverPage (s : State) (page : Nat) (w : Waiter) : Option State :=
  let done (e : DirEnt) : DirEnt :=
    { e.leave w with st := .dirty, dirty := BitVec.allOnes 16, ref := true, pfPending := false }
  if (s.ent page).st == .flash then
    match s.takeFrame page false with
    | some (frame, s) =>
      let s := (s.setFramePair page 0 0).each (List.range 1024) fun s i =>
        let f := s.takeFree
        f.2.modHbm fun h => { h with mem := writeLine h.mem (1024 * page + i) (BitVec.ofNat 512 f.1) }
      let s := s.modHbm fun h => { h with
        forms := (List.range 16).foldl (fun t b => tset t (16 * page + b) { codec := 0 }) h.forms }
      let s := (s.cancelPrefetch page).modDir (pageDir page) fun t => { t with demandQ := t.demandQ.filter (· != page) }
      some ((s.modEnt page fun e => { done e with frame }).settlePressure (pageDir page))
    | none => none
  else (s.zeroFrame page true fun e => { done e with onFlash := false }).map fun s => s.cancelPrefetch page

/-- The messages of a mover's piece cross the hub: the access with the lines it writes, once more where a directory die forwards it,
and its answer with the lines read (R16, R123). -/
def State.moverHops (s : State) (m : Mover) (za out back : Nat) (directory : Bool) : State :=
  let a : Attrs := { ctx := some m.ctx }
  let s := s.crossHub (hubOf za) out false a
  (if directory then s.crossHub (hubOf za) out false a else s).crossHub (hubOf za) back false a

/-- Where an access of an engine stands with a page. -/
def DirEnt.visit (e : DirEnt) (w : Waiter) : Visit :=
  match e.waiters.find? fun x => x.1 == w with
  | some (_, miss) => if miss then .missed else .waited
  | none => .first

/-- A miss of an engine's access (R133): it waits, or fails under the policy NACK, but for a transfer that covers a page being fetched
(R174). -/
def State.moverMiss (s : State) (m : Mover) (t : Trans) (out : Nat) (waits : Bool) : Reach × State :=
  let page := t.za / 65536
  if m.nack && !waits then (.fail stNotResident, (s.modEnt page fun e => e.leave m.who).moverHops m t.za out 0 false)
  else (.wait, s.modEnt page fun e => e.await m.who true)

/-- A piece at the directory of its tier page (R133, R160-R164, R167, R173, R174). -/
def State.reachTier (s : State) (m : Mover) (t : Trans) (r : Region) (n : Nat) (write : Option Bool) : Reach × State :=
  let page := t.za / 65536
  let out := if write.isSome then n else 0
  let v := (s.ent page).visit m.who
  if (s.ent page).failed.contains m.who then
    (.fail stUncorrectable, s.modEnt page fun e => { e with failed := e.failed.filter (· != m.who) })
  else
    let s := s.look page m.ctx none v
    let e := s.ent page
    if e.bad then (.fail stUncorrectable, (s.dataError .bad (t.za / 64) m.ctx n).moverHops m t.za out 0 false)
    else if write = some true && (e.st == .flash || (e.st == .invalid && !e.discard)) then
      match s.coverPage page m.who with
      | some s => (.go t r, s.pageReady page)
      | none => (s.countMiss page m.ctx v).moverMiss m t out false
    else
      let o := s.accessPage page (if write.isSome then some (dirtyMask (t.za / 64) n) else none) fun t => t.countMiss page m.ctx v
      match o.1 with
      | .zeros => (.zeros t, o.2.modEnt page fun e => e.leave m.who)
      | .go => (.go t r, o.2.modEnt page fun e => e.leave m.who)
      | .readout => (.wait, o.2.modEnt page fun e => e.await m.who false)
      | .miss => o.2.moverMiss m t out (write = some true && e.st == .fetching)
      | .unreadable => (.fail stUncorrectable, o.2)

/-- The region of a translation, and its subscription. -/
def Trans.subs (t : Trans) : List Nat := t.region :: t.sub.toList

/-- An access has been translated: the run or transfer that makes it has gone through the region and the subscription, whether it then waits or
not (R45, R277). -/
def State.through (s : State) (w : Waiter) (t : Trans) : State :=
  match w with
  | .xfer id _ => s.modXfer id fun x => { x with subs := (x.subs ++ t.subs).eraseDups }
  | .run id _ => s.modRun id fun r => { r with subs := (r.subs ++ t.subs).eraseDups }
  | .hash _ => s

/-- A translated piece on its way to the memory die (R112, R123, R133, R162). -/
def State.reachRegion (s : State) (m : Mover) (t : Trans) (r : Region) (n : Nat) (write : Option Bool) : Reach × State :=
  if r.moving.isSome then (.wait, s)
  else if r.leased then
    match s.leasedLine (t.za / 64) n with
    | some line => (.wait, s.sendRecall line)
    | none => (.go t r, s)
  else if r.tiered then s.reachTier m t r n write
  else (.go t r, s)

/-- Follows a piece to the memory die (R38, R112, R123, R133, R162): `write` is none for a read, else whether the transfer
covers the whole tier page. -/
def State.reach (s : State) (m : Mover) (la n : Nat) (p : Perm) (write : Option Bool) : Reach × State :=
  match s.translate m.ctx la (64 * n) p m.kernel with
  | none => (.fail stNoPerm, s)
  | some t =>
    match s.region? t.region with
    | none => (.fail stNoPerm, s)
    | some r =>
      if write.isSome && r.auto && !(la % 4096 = 0 && n = 64) then (.fail stGranule, s)
      else (s.through m.who t).reachRegion m t r n write

/-- Reads the lines of a piece where they have been reached. -/
def State.readReached (m : Mover) (la n : Nat) (o : Reach × State) : Got (List Line) × State :=
  match o.1 with
  | .fail st => (.fail st la, o.2)
  | .wait => (.wait, o.2)
  | .zeros t => (.ok (List.replicate n 0), o.2.moverHops m t.za 0 n false)
  | .go t r =>
    let d := (o.2.moverHops m t.za 0 n (r.leased || r.tiered)).readLines r (t.za / 64) n m.ctx 0 m.src m.fetch
    match (d.1.mapIdx fun i e => (i, e)).find? fun e => e.2.1 != 0 with
    | some e => (.fail e.2.1 (la + 64 * e.1), d.2)
    | none => (.ok (d.1.map (·.2)), d.2)

/-- Reads the lines of one piece. -/
def State.readPiece (s : State) (m : Mover) (la n : Nat) : Got (List Line) × State := State.readReached m la n (s.reach m la n .rd none)

/-- Reads the lines of pieces in order. -/
def State.readPieces (s : State) (m : Mover) : List (Nat × Nat) → Got (List Line) × State
  | [] => (.ok [], s)
  | (la, n) :: rest =>
    let o := s.readPiece m la (n / 64)
    match o.1 with
    | .ok a =>
      let q := o.2.readPieces m rest
      (match q.1 with
       | .ok b => (.ok (a ++ b), q.2)
       | .wait => (.wait, q.2)
       | .fail st l => (.fail st l, q.2))
    | .wait => (.wait, o.2)
    | .fail st l => (.fail st l, o.2)

/-- Reads whole lines of an LA range. -/
def State.moverRead (s : State) (m : Mover) (la len : Nat) : Got (List Line) × State := s.readPieces m (piecesOf la len)

/-- Writes the lines of one piece. `whole`: the transfer covers the piece's tier page. -/
def State.writePiece (s : State) (m : Mover) (la : Nat) (data : List Line) (whole : Bool) : Got Unit × State :=
  let o := s.reach m la data.length .wr (some whole)
  match o.1 with
  | .fail st => (.fail st la, o.2)
  | .wait => (.wait, o.2)
  | .zeros _ => (.wait, o.2)
  | .go t r =>
    if !o.2.hasRoom (o.2.stackOf t.za) (r.bufferNeed data.length) then (.wait, o.2) else
    let s := o.2.moverHops m t.za data.length 0 (r.leased || r.tiered)
    match s.writeBlocked (t.za / 64) data.length r.auto with
    | some e => (.fail e.status la, s.dataError e (t.za / 64) m.ctx data.length)
    | none => (.ok (), s.putLines r (t.za / 64) data (.internal m.kind) m.ctx)

/-- Writes the lines of pieces in order. -/
def State.writePieces (s : State) (m : Mover) (whole : Nat → Bool) : List (Nat × Nat) → List Line → Got Unit × State
  | [], _ => (.ok (), s)
  | (la, n) :: rest, data =>
    let o := s.writePiece m la (data.take (n / 64)) (whole la)
    match o.1 with
    | .ok _ =>
      o.2.writePieces m whole rest (data.drop (n / 64))
    | .wait => (.wait, o.2)
    | .fail st l => (.fail st l, o.2)

/-- Writes whole lines from an LA on. -/
def State.moverWrite (s : State) (m : Mover) (la : Nat) (data : List Line) (whole : Nat → Bool := fun _ => false) :
    Got Unit × State :=
  s.writePieces m whole (piecesOf la (64 * data.length)) data

/-- One ACC of 64 source lines onto an LA (R106, R281). -/
def State.moverAcc (s : State) (m : Mover) (la awidth : Nat) (data : List Line) : Got Unit × State :=
  let o := s.reach m la (if awidth = 3 then 128 else 64) .atom (some false)
  match o.1 with
  | .fail st => (.fail st la, o.2)
  | .wait => (.wait, o.2)
  | .zeros _ => (.wait, o.2)
  | .go t r =>
    if !o.2.hasRoom (o.2.stackOf t.za) (if awidth = 3 then 128 else 64) then (.wait, o.2) else
    let q := (o.2.moverHops m t.za 64 0 (r.leased || r.tiered)).accumulate r t.za awidth data m.ctx 0 m.src (.internal m.kind)
    if q.1 = 0 then (.ok (), q.2) else (.fail q.1 la, q.2)

/-- One VADD of a line onto an LA (R281). -/
def State.moverVadd (s : State) (m : Mover) (la awidth : Nat) (v : Line) : Got Unit × State :=
  let o := s.reach m la 1 .atom (some false)
  match o.1 with
  | .fail st => (.fail st la, o.2)
  | .wait => (.wait, o.2)
  | .zeros _ => (.wait, o.2)
  | .go t r =>
    if !o.2.hasRoom (o.2.stackOf t.za) 1 then (.wait, o.2) else
    let q := (o.2.moverHops m t.za 1 0 (r.leased || r.tiered)).atomicVadd r t.za awidth v m.ctx 0 m.src (.internal m.kind)
    if q.1 = 0 then (.ok (), q.2) else (.fail q.1 la, q.2)

/-- Reads and zeroes lines within a block of an accumulate region (R228). It is a read and a write: it needs KRN with RD and WR (R250,
log 130). -/
def State.moverReadZero (s : State) (m : Mover) (la n : Nat) : Got (List Line) × State :=
  if (s.translate m.ctx la n .wr m.kernel).isNone then (.fail stNoPerm la, s)
  else
    let o := s.reach m la (n / 64) .rd (some false)
    match o.1 with
    | .fail st => (.fail st la, o.2)
    | .wait => (.wait, o.2)
    | .zeros _ => (.wait, o.2)
    | .go t r =>
      if !o.2.hasRoom (o.2.stackOf t.za) (r.bufferNeed (n / 64)) then (.wait, o.2) else
      let d := (o.2.moverHops m t.za 0 (n / 64) (r.leased || r.tiered)).readAndZero r (t.za / 64) (n / 64) m.ctx (.internal m.kind)
      match d.1.find? fun e => e.1 != 0 with
      | some e => (.fail e.1 la, d.2)
      | none => (.ok (d.1.map (·.2)), d.2)

end Sys2Proof.Machine
end

