-- ==== Sys2Proof/Machine/Xfer.lean ====
section
/-!
DEFINITION. Host reads (R342-R346) and transfers (R286-R294, R460): checks, engines, units, peer requests (R115-R117), the
completed prefix and the ends.
-/

namespace Sys2Proof.Machine

/-! ## Host reads and writes -/

/-- The slot bits of a function's tags (R343). -/
def Fn.slotBits (f : Fn) : Nat := if f.tag14 then 10 else if f.tag10 then 8 else 6

/-- The generation field of a function's tags (R343). -/
def Fn.genField (f : Fn) : Nat := if f.tag14 then f.gen % 16 else f.gen % 4

/-- Host reads of a function that are outstanding (HEP_HOST_STAT.OUTSTANDING). -/
def Fn.outstanding (f : Fn) : Nat := (f.reads.filter fun e => e.2.use != .quarantined).length

/-- The function may use the host: Bus Master Enable, no FLR, D0 (R365, R367, R368). -/
def State.hostOk (s : State) (fn : Nat) : Bool := s.running && (s.fn fn).bme && !(s.fn fn).flr && !s.hep.d3hot

/-- Issues a host read in a free slot of the function (R343); which slot is the device's choice (log 1). None: no slot is
free, 4,096 are outstanding, or the function may not. -/
def State.hostRead (s : State) (fn ctx addr len off : Nat) (use : ReadUse) : Option State :=
  let f := s.fn fn
  if !s.hostOk fn || 4096 ≤ (s.fns.map fun e => e.2.outstanding).sum then none
  else
    match s.pick (2 ^ f.slotBits) (f.reads.length + 1) fun n => !thas f.reads n with
    | (some slot, s) =>
      let s := s.modFn fn fun f => { f with reads := tset f.reads slot { gen := f.gen, use, len, off } }
      let s := s.emit (.hostRead fn (f.genField <<< f.slotBits + slot) addr len)
      some (s.count 0x01 0 0x03 { ctx := some ctx })
    | (none, _) => none

/-- Issues several host reads, or none. -/
def State.hostReads (s : State) (fn ctx : Nat) (use : ReadUse) : List (Nat × Nat × Nat) → Option State
  | [] => some s
  | (addr, len, off) :: rest =>
    match s.hostRead fn ctx addr len off use with
    | some s => s.hostReads fn ctx use rest
    | none => none

/-- The longest read request and the largest payload: what Device Control allows of 4,096 B and 512 B (R342, log 16). -/
def Hep.readMax (h : Hep) : Nat := min 4096 (128 <<< h.mrrs)
def Hep.payloadMax (h : Hep) : Nat := min 512 (128 <<< h.mps)

/-- The reads of a host range from one place in it on: address, length, offset, none across a boundary of `m` bytes. -/
def readsFrom (m addr len : Nat) : Nat → Nat → List (Nat × Nat × Nat)
  | 0, _ => []
  | fuel + 1, off =>
    if len ≤ off then []
    else
      let n := min (len - off) (m - (addr + off) % m)
      (addr + off, n, off) :: readsFrom m addr len fuel (off + n)

/-- The reads of a host range: none across a 4 KiB boundary nor above the longest request (R342). -/
def State.readsOf (s : State) (addr len : Nat) : List (Nat × Nat × Nat) := readsFrom s.hep.readMax addr len (len / s.hep.readMax + 2) 0

/-- Writes bytes to a function's host memory in payloads of at most 512 B within aligned 512 B, or what Device Control allows (R342);
Relaxed Ordering for transfer and snapshot data (`relax`) where the function enables it (R346). -/
def State.hostWrite (s : State) (fn ctx addr : Nat) (data : List Byte) (relax : Bool := true) : State :=
  let ro := relax && (s.fn fn).relaxed
  let s := (go s.hep.payloadMax ro s addr data (data.length + 1))
  (s.fixed 0x01 0 3 data.length).count 0x01 0 0x05 { ctx := some ctx } data.length
where
  /-- One payload after another. -/
  go (m : Nat) (ro : Bool) (s : State) (addr : Nat) (data : List Byte) : Nat → State
    | 0 => s
    | fuel + 1 =>
      if data.isEmpty then s
      else
        let n := m - addr % m
        go m ro (s.emit (.hostWrite fn addr (data.take n) ro)) (addr + n) (data.drop n) fuel

/-! ## The shape of a transfer (R288) -/

/-- The destination bytes of a source byte offset: twice for a BF16 reduction. -/
def Xfer.dstOff (x : Xfer) (off : Nat) : Nat := if x.kind == .reduce && x.fmt = 3 then 2 * off else off

/-- The first byte of unit k. -/
def Xfer.off (x : Xfer) (k : Nat) : Nat :=
  if x.kind == .reduce then min x.len (4096 * k)
  else if k = 0 then 0 else min x.len (4096 * (x.dst.addr / 4096 + k) - x.dst.addr)

/-- The bytes of unit k. -/
def Xfer.size (x : Xfer) (k : Nat) : Nat := x.off (k + 1) - x.off k

/-- The units of a transfer. -/
def Xfer.count (x : Xfer) : Nat :=
  if x.kind == .reduce then x.len / 4096 else cdiv (x.dst.addr % 4096 + x.len) 4096

/-- The units of the completed prefix, from a unit on. -/
def prefixFrom (done : Nat → Bool) : Nat → Nat → Nat
  | k, 0 => k
  | k, fuel + 1 => if done k then prefixFrom done (k + 1) fuel else k

/-- The completed prefix in units (R289): for XFER_MOVE its source must be cleared too. -/
def Xfer.donePrefix (x : Xfer) : Nat :=
  if x.kind == .move then x.cleared else prefixFrom x.done.contains 0 (x.done.length + 1)

/-- The engine of a transfer (R288): the link die of a peer port, CTL for a host endpoint, else LNK(ctx mod 4). A transfer
between two peers takes the source's (log 28). -/
def xferEngine (kind : XferKind) (src dst : Endpoint) (ctx : Nat) : Nat :=
  let s := if kind == .fill then none else some src
  match s, dst with
  | some e, d =>
    if e.kind = 2 then e.port / 4 else if d.kind = 2 then d.port / 4
    else if e.kind = 1 || d.kind = 1 then 4 else ctx % 4
  | none, d => if d.kind = 2 then d.port / 4 else if d.kind = 1 then 4 else ctx % 4

/-- The mover of a unit of a transfer. -/
def State.xferMover (s : State) (x : Xfer) (k : Nat) : Mover := { ctx := x.ctx, who := .xfer x.id k, nack := (s.ctx x.ctx).nack }

/-- The ZA segments of an LA range of a context: ZA, bytes and region. -/
def State.segments (s : State) (c : Nat) : Nat → Nat → Nat → List (Nat × Nat × Nat)
  | _, _, 0 => []
  | la, len, fuel + 1 =>
    if len = 0 then []
    else
      match (s.ctx c).windows.find? fun e => e.2.covers la 1 with
      | some (_, w) =>
        let n := min len ((w.laPage + w.pages) * 65536 - la)
        (w.zaPage * 65536 + (la - w.laPage * 65536), n, w.region) :: s.segments c (la + n) (len - n) fuel
      | none => []

/-- The segments of an endpoint of KIND 0. -/
def State.endSegments (s : State) (c : Nat) (e : Endpoint) (len : Nat) : List (Nat × Nat × Nat) :=
  if e.kind = 0 then s.segments c e.addr len 33 else []

/-! ## Ends (R289-R294) -/

/-- The outstanding requests of a transfer at a port are failed: a request not yet begun is withdrawn, another's tag is
quarantined (R117, R294). -/
def Port.failXfer (p : Port) (xid : Nat) : Port :=
  let mine (r : PortReq) : Bool := match r.use with | .xfer x _ _ _ _ => x == xid | _ => false
  let waiting (t : Nat) : Bool := p.txOrd.any fun m => m.reqTag == some t
  { p with
    reqs := p.reqs.filterMap fun e =>
      if mine e.2 then (if waiting e.1 then none else some (e.1, { use := .quarantined, sent := e.2.sent })) else some e
    txOrd := p.txOrd.filter fun m => match m.reqTag with
      | some t => !(match tfind? p.reqs t with | some r => mine r | none => false)
      | none => true }

/-- An access is a transfer's. -/
def Waiter.ofXfer (id : Nat) : Waiter → Bool
  | .xfer x _ => x == id
  | _ => false

/-- Ends a transfer: OK with the bytes moved, or a status with the lines of the completed prefix. -/
def State.endXfer (s : State) (x : Xfer) (status : Nat) : State :=
  let lines := x.off x.donePrefix / 64
  let s := ({ s with xfers := s.xfers.filter fun y => y.id != x.id } : State).forgetWaits (Waiter.ofXfer x.id)
  let s := s.each (List.range 16) fun s p => (s.modPort p fun t => t.failXfer x.id).tagFreed p
  if status = 0 then s.replyTo x.cmd 0 x.len else s.replyTo x.cmd status 0 lines

/-- Ends the transfer of a number, if it still exists. -/
def State.failXfer (s : State) (xid status : Nat) : State :=
  match s.xfer? xid with
  | some x => s.endXfer x status
  | none => s

/-! ## Units -/

/-- Whether a unit's source data are complete. -/
def Xfer.unitReady (x : Xfer) (k : Nat) (u : UnitSt) : Bool := u.data.length = x.size k / 64

/-- The data of a complete unit. -/
def UnitSt.lines (u : UnitSt) : List Line := u.data.map (·.2)

/-- Changes a unit. -/
def State.modUnit (s : State) (xid k : Nat) (f : UnitSt → UnitSt) : State :=
  s.modXfer xid fun x => { x with units := tset x.units k (f (tget {} x.units k)) }

/-- Issues the host reads of a unit with a host source, if the function may and slots are free. -/
def State.askHost (s : State) (x : Xfer) (k : Nat) : State :=
  if x.src.kind = 1 && x.kind != .fill && !(tget {} x.units k).asked then
    match s.hostReads (s.ctx x.ctx).owner x.ctx (.xfer x.id k) (s.readsOf (x.src.addr + x.off k) (x.size k)) with
    | some s => s.modUnit x.id k fun u => { u with asked := true }
    | none => s
  else s

/-- Issues units in ascending order, at most 256 in flight, and none 256 or more beyond the completed prefix (R288, R289). -/
def State.issueUnits (s : State) (xid : Nat) : Nat → State
  | 0 => s
  | fuel + 1 =>
    match s.xfer? xid with
    | some x =>
      let k := x.done.length + x.units.length
      if x.units.length < 256 && k < x.donePrefix + 256 && k < x.count then
        (s.modXfer xid fun x => { x with units := tset x.units k {} }).issueUnits xid fuel
      else s
    | none => s

/-- Issues what a running transfer may issue: units, and the host reads of units that have none. -/
def State.pump (s : State) (xid : Nat) : State :=
  let s := s.issueUnits xid 257
  match s.xfer? xid with
  | some x => s.each x.units fun s u => s.askHost x u.1
  | none => s

/-- Every running transfer goes on as far as it can (R293, R367). -/
def State.pumpAll (s : State) : State :=
  s.each (s.xfers.filter fun x => x.started) fun s x => s.pump x.id

/-- A whole tier page of a moved source becomes INVALID (R287): its frame is freed without write-back and its flash map
entry trimmed; HOLDS stays (log 29). -/
def State.moveOut (s : State) (page : Nat) : State :=
  let e := s.ent page
  let s := (s.freePage page).trim page
  let s := { s with wbuf := s.wbuf.filter fun w => w.line / 1024 != page }
  let s := s.modHbm fun h => h.clearPages page 1
  ((s.modEnt page fun t => { t with holds := e.holds }).ckptCommitted page).pageReady page

/-- Clears one piece of the source of a move (R287): the last piece of a wholly moved tier page makes it INVALID, any other is written with
zeros. -/
def State.clearPiece (s : State) (x : Xfer) (k la n : Nat) : Got Unit × State :=
  let zeros (s : State) : Got Unit × State := s.writePiece (s.xferMover x k) la (List.replicate (n / 64) 0) false
  match s.translate x.ctx la n .wr false with
  | none => (.fail stNoPerm la, s)
  | some t =>
    let page := t.za / 65536
    let first := la / 65536 * 65536
    if zaTiered t.za && !(s.ent page).bad && x.src.addr ≤ first && first + 65536 ≤ x.src.addr + x.len then
      if (la + n) % 65536 = 0 then (.ok (), s.moveOut page)
      else if (s.ent page).st == .invalid then (.ok (), s)
      else zeros s
    else zeros s

/-- A source of a move has a compressed region (R286). -/
def State.movesBlocks (s : State) (x : Xfer) : Bool :=
  (s.endSegments x.ctx x.src x.len).any fun g => match s.region? g.2.2 with | some r => r.auto | none => false

/-- The pieces of the source that are cleared with unit k of a move: those that it moved. DESIGN CHOICE (log 156): of a compressed source, whose
blocks the units of a destination off 4 KiB divide, the blocks that the prefix covers whole with this unit (R125, R287). -/
def State.clearedWith (s : State) (x : Xfer) (k : Nat) : List (Nat × Nat) :=
  let a := if s.movesBlocks x then x.off k / 4096 * 4096 else x.off k
  let b := if s.movesBlocks x then x.off (k + 1) / 4096 * 4096 else x.off (k + 1)
  piecesOf (x.src.addr + a) (b - a)

/-- Clears pieces of the source one after another; with the first that waits or fails none is cleared, for beyond the prefix the source is
intact (R289). -/
def State.clearPieces (s₀ s : State) (x : Xfer) (k : Nat) : List (Nat × Nat) → Got Unit × State
  | [] => (.ok (), s)
  | (la, n) :: rest =>
    let o := s.clearPiece x k la n
    match o.1 with
    | .ok _ => State.clearPieces s₀ o.2 x k rest
    | .wait => (.wait, (s₀.clearPiece x k la n).2)
    | .fail st l => (.fail st l, (s₀.clearPiece x k la n).2)

/-- Clears the source of unit k of a move (R287). -/
def State.clearUnit (s : State) (x : Xfer) (k : Nat) : Got Unit × State := State.clearPieces s s x k (s.clearedWith x k)

/-- Clears sources along the completed prefix of a move, as far as it goes. -/
def State.advance (s : State) (xid : Nat) : Nat → State
  | 0 => s
  | fuel + 1 =>
    match s.xfer? xid with
    | some x =>
      if x.kind == .move && x.done.contains x.cleared then
        let o := s.clearUnit x x.cleared
        match o.1 with
        | .ok _ => (o.2.modXfer xid fun x => { x with cleared := x.cleared + 1 }).advance xid fuel
        | .wait => o.2
        | .fail st _ => o.2.failXfer xid st
      else s
    | none => s

/-- A transfer whose units are all complete replies (R290). -/
def State.finish (s : State) (xid : Nat) : State :=
  let s := s.advance xid 1024
  match s.xfer? xid with
  | some x => if x.donePrefix = x.count then s.endXfer x 0 else s.pump xid
  | none => s

/-- A unit's destination write is visible (R289). -/
def State.unitDone (s : State) (xid k : Nat) : State :=
  (s.modXfer xid fun x => { x with done := (x.done ++ [k]).mergeSort, units := tdel x.units k }).finish xid

/-- The source data of a unit, read now if they lie in this device (R288, R290): the data, or nothing yet, or the failure. -/
def State.unitData (s : State) (x : Xfer) (k : Nat) : Got (List Line) × State :=
  let u := tget {} x.units k
  if x.kind == .fill then
    (.ok (List.replicate (x.size k / 64) (lineOf ((List.replicate 8 (leBytes 8 x.pattern.toNat)).flatten))), s)
  else if x.src.kind = 0 then s.moverRead (s.xferMover x k) (x.src.addr + x.off k) (x.size k)
  else if x.unitReady k u then (.ok u.lines, s)
  else (.wait, s)

/-- The destination page that holds an LA lies wholly in the destination range (R174). -/
def Xfer.coversPage (x : Xfer) (la : Nat) : Bool :=
  let first := la / 65536 * 65536
  x.kind != .reduce && x.dst.addr ≤ first && first + 65536 ≤ x.dst.addr + x.len

/-- XFER_UNIT_COMPLETE (R288-R290): a unit whose source data are there is written at its destination, or goes on waiting. A
unit with a peer destination is completed by the peer's answer. -/
def State.unitStep (s : State) (x : Xfer) (k : Nat) : State :=
  if x.dst.kind = 2 then s.pump x.id
  else
    let o := s.unitData x k
    match o.1 with
    | .wait => o.2.pump x.id
    | .fail st _ => o.2.failXfer x.id st
    | .ok data =>
      let s := o.2
      let addr := x.dst.addr + x.dstOff (x.off k)
      if x.dst.kind = 1 then
        let fn := (s.ctx x.ctx).owner
        if s.hostOk fn then (s.hostWrite fn x.ctx addr (data.flatMap lineBytes)).unitDone x.id k else s
      else
        let w := if x.kind == .reduce then s.moverAcc (s.xferMover x k) addr x.fmt data
          else s.moverWrite (s.xferMover x k) addr data x.coversPage
        match w.1 with
        | .ok _ => w.2.unitDone x.id k
        | .wait => w.2
        | .fail st _ => w.2.failXfer x.id st

/-! ## Peer requests (R115, R116) -/

/-- The message of a peer request of a unit: RD, WR or ACC on VC0, class label 0. -/
def State.peerMsg (s : State) (x : Xfer) (k off n tag : Nat) (write : Bool) : TxMsg :=
  let data := ((tget {} x.units k).data.filter fun e => off ≤ e.1 && e.1 < off + n).map (·.2)
  let _ := s
  if write then
    let la := x.dst.addr + x.dstOff (x.off k) + 64 * off
    let op := if x.kind == .reduce then 0x06 else 0x03
    { vc := 0, slots := reqSlot op x.dst.ctx tag la (n - 1) 0 (if x.kind == .reduce then x.fmt else 0) :: lineSlots data
      reqTag := some tag }
  else
    let la := x.src.addr + x.off k + 64 * off
    { vc := 0, slots := [reqSlot 0x01 x.src.ctx tag la (n - 1) 0 0], reqTag := some tag }

/-- Slots of VC1's buffer that a request's whole response may take: three a line for an RD, which may be answered line by line (R99). -/
def responseSlots (n : Nat) (write : Bool) : Nat := if write then 1 else 3 * n

/-- Slots of VC1's buffer that a port has reserved for the responses to its requests (R99). -/
def Port.reserved (p : Port) : Nat :=
  (p.reqs.map fun e => match e.2.use with | .xfer _ _ _ n w => responseSlots n w | _ => 0).sum

/-- Sends one peer request, if the port lives, a tag is free and VC1's 2,048 slots have room for its whole response (R99, R115). -/
def State.sendPeer (s : State) (x : Xfer) (k port off n : Nat) (write : Bool) : State :=
  match s.freeReqTag? port with
  | some tag =>
    if (s.port port).live && (s.port port).reserved + responseSlots n write ≤ 2048 then
      (s.modPort port fun p => { p with reqs := tset p.reqs tag { use := .xfer x.id k off n write } }).sendMsg port
        (s.peerMsg x k off n tag write)
    else s
  | none => s

/-- A request of a unit in one direction is outstanding at a port. -/
def State.peerBusy (s : State) (port xid k off : Nat) (write : Bool) : Bool :=
  (s.port port).reqs.any fun e => match e.2.use with
    | .xfer x u o _ w => x == xid && u == k && o == off && w == write
    | _ => false

/-- PEER_REQUEST_SEND: the RDs of a unit whose source is a peer, or, once the data are there, the WR or ACC of one whose
destination is. -/
def State.peerSend (s : State) (x : Xfer) (k : Nat) : State :=
  let u := tget {} x.units k
  if x.kind != .fill && x.src.kind = 2 && !x.unitReady k u then
    let base := x.src.addr + x.off k
    s.each (piecesOf base (x.size k)) fun s e =>
      let off := (e.1 - base) / 64
      if thas u.data off || s.peerBusy x.src.port x.id k off false then s
      else s.sendPeer x k x.src.port off (e.2 / 64) false
  else if x.dst.kind = 2 && !s.peerBusy x.dst.port x.id k 0 true then
    let o := s.unitData x k
    match o.1 with
    | .wait => o.2.pump x.id
    | .fail st _ => o.2.failXfer x.id st
    | .ok data =>
      let s := o.2.modUnit x.id k fun u => { u with data := data.mapIdx fun i v => (i, v) }
      (match s.xfer? x.id with
       | some x => s.sendPeer x k x.dst.port 0 data.length true
       | none => s)
  else s

/-- A response that names no outstanding request of a transfer (R117). -/
def State.lateCpl (s : State) (port : Nat) : State :=
  (s.modPort port fun p => { p with err := orBit p.err 5 }).count 0x08 (port / 4) 0x13 { port := some port }

/-- Data lines of a peer's CPL_DATA (R103, R116). -/
def State.peerData (s : State) (port tag off n : Nat) (last : Bool) (data : List Line) : State :=
  match tfind? (s.port port).reqs tag with
  | some { use := .xfer xid k base len false, .. } =>
    let s := if thas ((s.xfer? xid).map (·.units) |>.getD []) k && off + n ≤ len then
        s.modUnit xid k fun u =>
          { u with data := (data.mapIdx fun i v => (base + off + i, v)).foldl (fun t e => tset t e.1 e.2) u.data }
      else s
    if last then s.freeReq port tag else s
  | some { use := .quarantined, .. } => s.lateCpl port
  | some { use := .recallReq _, .. } => s.lateCpl port
  | none => s.lateCpl port
  | some _ => s

/-- A peer's CPL_OK (R116): the WR or ACC of its unit is visible at the peer. DESIGN CHOICE (log 147): a response of a kind that does not fit
its request, or with lines beyond it, is ignored, and the request stays outstanding. -/
def State.peerOk (s : State) (port tag : Nat) : State :=
  match tfind? (s.port port).reqs tag with
  | some { use := .xfer xid k _ _ true, .. } => (s.freeReq port tag).unitDone xid k
  | some { use := .quarantined, .. } => s.lateCpl port
  | some { use := .recallReq _, .. } => s.lateCpl port
  | none => s.lateCpl port
  | some _ => s

/-- A peer's CPL_ERR (R104, R291, R292): the transfer ends with the status received. One without LAST is followed by more responses: its tag
stays, in quarantine, as that of any request that has been failed. -/
def State.peerErr (s : State) (port tag status : Nat) (last : Bool) : State :=
  match tfind? (s.port port).reqs tag with
  | some { use := .xfer xid _ _ _ _, .. } => (if last then s.freeReq port tag else s).failXfer xid status
  | some { use := .quarantined, .. } => s.lateCpl port
  | some { use := .recallReq _, .. } => s.lateCpl port
  | none => s.lateCpl port

/-- A peer's CPL_RETRY (R116): the wait before the reissue, in fabric cycles. -/
def State.peerRetry (s : State) (port tag hint : Nat) : State :=
  match tfind? (s.port port).reqs tag with
  | some { use := .xfer _ _ _ _ _, .. } =>
    s.modPort port fun p => { p with reqs := p.reqs.map fun e =>
      if e.1 = tag then (e.1, { e.2 with retry := some (2000 * max hint 1) }) else e }
  | some { use := .quarantined, .. } => s.lateCpl port
  | some { use := .recallReq _, .. } => s.lateCpl port
  | none => s.lateCpl port

/-- RETRY_REISSUE (R116): the request is sent again; its timer runs on. -/
def State.peerReissue (s : State) (port tag : Nat) : State :=
  match tfind? (s.port port).reqs tag with
  | some { use := .xfer xid k off n write, retry := some _, .. } =>
    (match s.xfer? xid with
     | some x =>
       let s := s.modPort port fun p => { p with reqs := p.reqs.map fun e =>
         if e.1 = tag then (e.1, { e.2 with retry := none }) else e }
       s.sendMsg port (s.peerMsg x k off n tag write)
     | none => s)
  | _ => s

/-- REQ_TIMEOUT (R116, R117): the request is failed, a reissue that waits is withdrawn, its tag quarantined, its transfer ends with
PARTNER_LOST. -/
def State.peerTimeout (s : State) (port tag : Nat) : State :=
  match tfind? (s.port port).reqs tag with
  | some { use := .xfer xid _ _ _ _, sent := true, .. } =>
    let s := s.modPort port fun p => { p with
      reqs := tset p.reqs tag { use := .quarantined, sent := true }, txOrd := p.txOrd.filter fun m => m.reqTag != some tag }
    s.failXfer xid stPartnerLost
  | _ => s

/-! ## Acceptance (R75, R286, R287, R460) -/

/-- The encoding faults of the transfers with endpoints (check 5). -/
def xferFaults (kind : XferKind) (p : Packet) : List (Nat × Bool) :=
  let len := par p 40 8
  (if kind == .fill then (List.range 16).map fun i => (8 + i, par p (8 + i) 1 != 0) else endpointFaults p 8)
  ++ endpointFaults p 24
  ++ [(40, len = 0 || 2 ^ 40 < len)]
  ++ (if kind == .reduce then [(48, par p 48 1 != 0), (49, par p 49 1 != 2 && par p 49 1 != 3)] else [])

/-- The transfer that a packet asks for. -/
def xferOf (kind : XferKind) (c : Cmd) (id : Nat) : Xfer :=
  let src := endpointAt c.p 8
  let dst := endpointAt c.p 24
  { id, cmd := c.id, ctx := pCtx c.p, kind, src, dst, len := par c.p 40 8, pattern := BitVec.ofNat 64 (par c.p 48 8)
    fmt := if kind == .reduce then par c.p 49 1 else 2, engine := xferEngine kind src dst (pCtx c.p) }

/-- The endpoints of a transfer with their ranges and the permissions they need (R286, R287). -/
def Xfer.ends (x : Xfer) : List (Endpoint × Nat × List Perm) :=
  let d := (x.dst, x.dstOff x.len, if x.kind == .reduce then [.atom] else [.wr])
  match x.kind with
  | .fill => [d]
  | .move => [(x.src, x.len, [.rd, .wr]), d]
  | _ => [(x.src, x.len, [.rd]), d]

/-- R460, orders 1-6: the refusal, with its DETAIL. -/
def State.xferCheck (s : State) (x : Xfer) : Option (Nat × Nat) :=
  let es := x.ends
  let segs (e : Endpoint × Nat × List Perm) := s.endSegments x.ctx e.1 e.2.1
  let overlap := (x.kind == .copy || x.kind == .move) && x.src.kind = 0 && x.dst.kind = 0 &&
    (s.endSegments x.ctx x.src x.len).any fun a => (s.endSegments x.ctx x.dst x.len).any fun b =>
      a.1 < b.1 + b.2.1 && b.1 < a.1 + a.2.1
  let comp (e : Endpoint × Nat × List Perm) : Bool :=
    e.1.kind = 2 || (segs e).any fun g => match s.region? g.2.2 with | some r => r.auto | none => false
  let narrow := x.len % 64 != 0 || (es.any fun e => e.1.addr % 64 != 0) ||
    (es.any fun e => comp e && (e.1.addr % 4096 != 0 || x.len % 4096 != 0)) ||
    (x.kind == .reduce && (x.src.addr % 4096 != 0 || x.len % 4096 != 0 ||
      x.dst.addr % (if x.fmt = 3 then 8192 else 4096) != 0))
  if x.kind != .copy && x.kind != .fill && x.src.kind = 1 && x.dst.kind = 1 then some (stBadParam, 8)
  else if x.kind == .move && x.src.kind ≠ 0 then some (stBadParam, 8)
  else if x.kind == .reduce && x.dst.kind = 1 then some (stBadParam, 24)
  else if es.any fun e => e.1.kind = 2 && !bit (s.ctx x.ctx).bind.toNat e.1.port then some (stNoPerm, 0)
  else if es.any fun e => e.1.kind = 0 && !(e.2.2.all fun p => s.covered x.ctx e.1.addr e.2.1 p false) then some (stNoPerm, 0)
  else if overlap then some (stBadParam, 8)
  else if narrow then some (stGranule, 0)
  else if es.any fun e => e.1.kind = 2 && (s.port e.1.port).st != .active then some (stPartnerLost, 0)
  else none

/-- Starts a transfer command: its checks, then its place in its engine's queue. -/
def startXfer (kind : XferKind) (s : State) (c : Cmd) : State :=
  let n := s.takeId
  let x := xferOf kind c n.1
  match s.xferCheck x with
  | some (st, detail) => s.reply c st 0 detail
  | none => { n.2 with xfers := n.2.xfers ++ [x] }

/-- The specification of a transfer command (R75). -/
def specXfer (opcode : Nat) (kind : XferKind) : CmdSpec :=
  { opcode, handler := fun _ _ => .hw
    defined := match kind with
      | .copy => [(8, 48)]
      | .move => [(8, 48)]
      | .fill => [(24, 56)]
      | .reduce => [(8, 50)]
    faults := fun _ p => xferFaults kind p
    start := startXfer kind }

def specXferCopy : CmdSpec := specXfer 0x0300 .copy
def specXferMove : CmdSpec := specXfer 0x0301 .move
def specXferFill : CmdSpec := specXfer 0x0302 .fill
def specXferReduce : CmdSpec := specXfer 0x0303 .reduce

/-- XFER_START (R288): the oldest queued transfer of an engine starts while fewer than 256 run on it. -/
def State.startNext (s : State) (engine : Nat) : State :=
  if 256 ≤ (s.xfers.filter fun x => x.engine == engine && x.started).length then s
  else
    match s.xfers.find? fun x => x.engine == engine && !x.started with
    | some x => (s.modXfer x.id fun x => { x with started := true }).pump x.id
    | none => s

/-! ## XFER_ATOM (R280, R287) -/

/-- Starts an XFER_ATOM: it is a request of its context at the memory dies, held as one. -/
def startXferAtom (s : State) (c : Cmd) : State :=
  let la := par c.p 8 8
  match s.translate (pCtx c.p) la (atomBytes (par c.p 17 1)) .atom false with
  | none => s.reply c stNoPerm
  | some t =>
    let n := s.takeId
    n.2.dispatchReq
      { id := n.1, src := .cmd c.id, ctx := pCtx c.p, op := .atom, la, za := t.za, region := t.region, lines := 1, cls := 0
        entry := s.cls 0, keySlot := t.keySlot, gen := t.gen, atop := par c.p 16 1, awidth := par c.p 17 1, a := BitVec.ofNat 64 (par c.p 24 8), b := BitVec.ofNat 64 (par c.p 32 8) }

/-- The encoding faults of XFER_ATOM (R75, R105, R287). -/
def xferAtomFaults (p : Packet) : List (Nat × Bool) :=
  let op := par p 16 1
  let w := par p 17 1
  [(16, decide (8 ≤ op)), (17, decide (6 ≤ w)), (16, op < 8 && w < 6 && !atomAllowed op w),
   (8, w < 6 && par p 8 8 % atomBytes w != 0)]

def specXferAtom : CmdSpec :=
  { opcode := 0x0304, handler := fun _ _ => .hw, defined := [(8, 18), (24, 40)], faults := fun _ p => xferAtomFaults p
    start := startXferAtom }

/-! ## Meanings -/

def execXferCopy (via : Via) (p : Packet) (s : State) : Host.Outcome State Fault Refusal := .next (s.submit specXferCopy via p)
def execXferMove (via : Via) (p : Packet) (s : State) : Host.Outcome State Fault Refusal := .next (s.submit specXferMove via p)
def execXferFill (via : Via) (p : Packet) (s : State) : Host.Outcome State Fault Refusal := .next (s.submit specXferFill via p)
def execXferReduce (via : Via) (p : Packet) (s : State) : Host.Outcome State Fault Refusal := .next (s.submit specXferReduce via p)
def execXferAtom (via : Via) (p : Packet) (s : State) : Host.Outcome State Fault Refusal := .next (s.submit specXferAtom via p)

def execXferStart (engine : Fin 5) (s : State) : Host.Outcome State Fault Refusal :=
  .next (if s.running && !s.hep.d3hot then s.startNext engine.val else s)

def execXferUnitComplete (xfer unit : Nat) (s : State) : Host.Outcome State Fault Refusal :=
  .next (match s.xfer? xfer with
    | some x =>
      if !s.running || s.hep.d3hot then s
      else if thas x.units unit then s.unitStep x unit
      else if x.done.contains unit then s.finish xfer
      else s
    | none => s)

def execPeerRequestSend (xfer unit : Nat) (s : State) : Host.Outcome State Fault Refusal :=
  .next (match s.xfer? xfer with
    | some x => if s.running && !s.hep.d3hot && thas x.units unit then s.peerSend x unit else s
    | none => s)

/-- A response arrives, whatever its VC field (DESIGN CHOICE, log 147): the messages of a port that is ACTIVE, counted (R98, R116, R430). -/
def State.respond (s : State) (port : Nat) (n : Nat) (f : State → State) : State :=
  if s.running && (s.port port).st == .active then
    f (((s.fixed 0x08 (port / 4) 2 1).fixed 0x08 (port / 4) 3 (64 * n)).owe port 1 (1 + 2 * n))
  else s

/-- A CPL_DATA arrives with its lines; a Fraist reply fills one more slot. -/
def State.cplData (s : State) (port : Nat) (r : Rsp) (data : List Line) : State :=
  s.respond port data.length fun s =>
    (if r.dkind.toNat = 2 then s.owe port 1 1 else s).peerData port r.tag.toNat r.lineOffset.toNat data.length r.last data

def execCplData (port : Fin 16) (r : Rsp) (data : List Line) (s : State) : Host.Outcome State Fault Refusal :=
  if r.dkind.toNat = 0 && data.length ≠ r.lines.toNat + 1 || r.dkind.toNat ≠ 0 && !data.isEmpty then .fault .malformedCommand
  else .next (s.cplData port.val r data)

def execCplOk (port : Fin 16) (r : Rsp) (s : State) : Host.Outcome State Fault Refusal :=
  .next (s.respond port.val 0 fun s => s.peerOk port.val r.tag.toNat)

def execCplErr (port : Fin 16) (r : Rsp) (s : State) : Host.Outcome State Fault Refusal :=
  .next (s.respond port.val 0 fun s => s.peerErr port.val r.tag.toNat r.status.toNat r.last)

def execCplRetry (port : Fin 16) (r : Rsp) (s : State) : Host.Outcome State Fault Refusal :=
  .next (s.respond port.val 0 fun s => s.peerRetry port.val r.tag.toNat r.retryAfter.toNat)

/-- The opcodes of reserved responses (R102). -/
def reservedRsp (o : BitVec 6) : Bool := 0x24 ≤ o.toNat

/-- A reserved response is discarded and counted (R102): no register shows the count (log 30). -/
def State.reservedResponse (s : State) (port : Nat) : State :=
  s.respond port 0 fun s => s.modPort port fun p => { p with rsvMsgs := p.rsvMsgs + 1 }

def execReservedResponse (port : Fin 16) (opcode : BitVec 6) (_r : Rsp) (s : State) : Host.Outcome State Fault Refusal :=
  if reservedRsp opcode then .next (s.reservedResponse port.val) else .fault .malformedCommand

def execReqTimeout (port : Fin 16) (tag : BitVec 12) (s : State) : Host.Outcome State Fault Refusal :=
  .next (if s.running then s.peerTimeout port.val tag.toNat else s)

def execRetryReissue (port : Fin 16) (tag : BitVec 12) (s : State) : Host.Outcome State Fault Refusal :=
  .next (if s.running then s.peerReissue port.val tag.toNat else s)

/-- TAG_QUARANTINE_EXPIRY (R117). -/
def execTagQuarantineExpiry (port : Fin 16) (tag : BitVec 12) (s : State) : Host.Outcome State Fault Refusal :=
  .next (match tfind? (s.port port.val).reqs tag.toNat with
    | some { use := .quarantined, .. } => s.freeReq port.val tag.toNat
    | _ => s)

end Sys2Proof.Machine
end

