-- ==== Sys2Proof/Machine/Runs.lean ====
section
/-!
DEFINITION. Kernel runs (R239, R247-R249, R255-R261): the dispatcher, the ends of runs and their replies, KERNEL_RUN and
KERNEL_ABORT.
-/

namespace Sys2Proof.Machine

/-! ## Engines and kernels -/

/-- Device engine number to die (R14). -/
def chdOf (e : Nat) : Nat := e / 38

/-- A handle names a loaded kernel (R247). -/
def loadedHandle (h : Nat) : Bool := 2 ^ 31 ≤ h

/-- The built-in handles (R250). -/
def builtinHandle (h : Nat) : Bool := (1 ≤ h && h ≤ 4) || (0x10 ≤ h && h ≤ 0x13) || (0x20 ≤ h && h ≤ 0x26)

/-- The kernel that a loaded handle names for a context. -/
def State.kernelOf (s : State) (h ctx : Nat) : Option Kernel :=
  match tfind? s.disp.kernels (h % 4096) with
  | some k => if bits h 31 28 = 8 && k.seq = bits h 27 12 && k.ctx = ctx then some k else none
  | none => none

/-- Engines in service. -/
def State.enginesUp (s : State) : Nat := ((List.range 152).filter fun e => (s.engine e).inService).length

/-- An SVC_TEST or SVC_RETIRE in progress withholds an engine from dispatch (R423-R425). -/
def State.withheld (s : State) (e : Nat) : Bool :=
  s.cmds.any fun c => c.st == .running && (c.opcode = 0x0800 || c.opcode = 0x0801) && par c.p 8 1 = 1 && par c.p 12 4 = e

/-- Engines free for dispatch. -/
def State.freeEngines (s : State) : List Nat :=
  (List.range 152).filter fun e => (s.engine e).inService && (s.engine e).run.isNone && !s.withheld e

/-- Engines that a context holds. -/
def State.enginesHeld (s : State) (ctx : Nat) : Nat :=
  ((s.disp.runs.filter fun r => r.ctx == ctx && r.started).map fun r => r.engines.length).sum

/-! ## The shape of a run -/

/-- Argument k. -/
def Run.arg (r : Run) (k : Nat) : Nat := r.args[k]?.getD 0

/-- The run is of a low-rank kernel. -/
def Run.lowRank (r : Run) : Bool := 0x20 ≤ r.handle && r.handle ≤ 0x26

/-- IN_FMT, COUNT and K of CTRL (R251). -/
def Run.inFmt (r : Run) : Nat := bits (r.arg 5) 35 32
def Run.countArg (r : Run) : Nat := bits (r.arg 5) 31 0

/-- The units of an optimiser run are tiles (R249, R251). -/
def Run.tiled (r : Run) : Bool := r.handle ≤ 4 && (r.handle = 4 || 2 ≤ r.inFmt)

/-- The units of a built-in run (R249). -/
def Run.total (r : Run) : Nat :=
  if r.lowRank then bits (r.arg 4) 31 0 else if r.tiled then r.countArg / 32 else r.countArg

/-- RESULT (R255, R257). -/
def Run.result (r : Run) : Nat :=
  match r.failed with
  | some f => (if loadedHandle r.handle then 0 else r.units % 2 ^ 32) + f.engine <<< 32 + f.instr <<< 48 + f.la <<< 64
  | none =>
    if loadedHandle r.handle then r.x12 + r.x13 <<< 64
    else (if r.tiled then 32 * r.units else r.units) % 2 ^ 32 + (r.res1 % 2 ^ 32) <<< 32 + r.res2 <<< 64

/-- The status of a failure reason (R256). -/
def reasonStatus : Nat → Nat
  | 1 => stNoPerm
  | 2 => stGranule
  | 3 => stBadParam
  | 6 => stLeaseLost
  | 7 => stNotResident
  | 9 => stNoPerm
  | 10 => stNoPerm
  | _ => stUncorrectable

/-- The run waits for engines. -/
def Run.queued (r : Run) : Bool := !r.started && r.failed.isNone

/-! ## Ends -/

/-- KERNEL_ABORTs whose run has ended reply; the restart of the scheduler core delays them (R70, R259). -/
def State.settleAborts (s : State) : State :=
  if (s.proc 2).restarting then s
  else s.each (s.cmds.filter fun c => c.opcode == 0x0502 && c.st == .running && c.aux != 0 && !(s.disp.runs.any fun r => r.id + 1 == c.aux))
    fun s c => s.reply c 0 1

/-- An engine that SVC_RETIRE names is mapped out once it executes no run, and the command replies (R425). -/
def State.retireIdle (s : State) (e : Nat) : State :=
  if (s.engine e).run.isSome then s
  else
    s.each (s.cmds.filter fun c => c.opcode == 0x0801 && c.st == .running && par c.p 8 1 == 1 && par c.p 12 4 == e) fun s c =>
      let s := if (s.engine e).inService then
          (s.modEngine e fun g => { g with inService := false }).log { event := 0x08, kind := 1, index := e, reason := 2 }
        else s
      s.reply c 0

/-- An access is a run's. -/
def Waiter.ofRun (id : Nat) : Waiter → Bool
  | .run r _ => r == id
  | _ => false

/-- Ends a run: its reply, then the replies of the KERNEL_ABORTs that wait for it; its engines are free (R246, R259). -/
def State.endRun (s : State) (r : Run) : State :=
  let s := (s.modDisp fun d => { d with runs := d.runs.filter fun e => e.id != r.id }).forgetWaits (Waiter.ofRun r.id)
  let s := s.each r.engines fun s e => s.modEngine e fun g => { g with run := none, streams := [], loops := [] }
  let s := match r.failed with
    | some f => s.replyTo r.cmd (reasonStatus f.reason) r.result f.reason
    | none => s.replyTo r.cmd 0 r.result
  s.settleAborts.each r.engines State.retireIdle

/-- Every engine of a started run has ended and its streams are complete; a queued run is over once it has failed. -/
def State.runOver (s : State) (r : Run) : Bool :=
  if r.started then r.engines.all fun e => (s.engine e).ended && (s.engine e).streams.isEmpty else r.failed.isSome

/-- Ends a run that is over; the restart of the cluster core of CHD(context mod 4) delays its reply (R71, log 39). -/
def State.settleRun (s : State) (id : Nat) : State :=
  match s.run? id with
  | some r => if s.runOver r && !(s.proc (3 + r.ctx % 4)).restarting then s.endRun r else s
  | none => s

/-- Every run that is over ends. -/
def State.settleRuns (s : State) : State := s.each (s.disp.runs.map (·.id)) State.settleRun

/-- Logs a run's failure: in the CHD die of the failing engine and in the error log (R257, R421). -/
def State.logRun (s : State) (r : Run) (f : RunFail) : State :=
  let s := if f.engine < 152 then
      let instr := if f.instr < 256 then f.instr else 0
      (s.modChd (chdOf f.engine) fun c => { c with
        err := orBit c.err 1
        log := BitVec.ofNat 64 (f.engine % 38 + f.reason <<< 8 + r.ctx <<< 16 + instr <<< 32)
        la := f.la % 2 ^ 56 }).count 0x0D (chdOf f.engine) 0x0B { ctx := some r.ctx }
    else s
  s.log { event := 0x06, kind := if f.engine < 152 then 1 else 0, index := if f.engine < 152 then f.engine else 0, ctx := r.ctx
          addr := f.la, status := reasonStatus f.reason, reason := f.reason, count := r.units }

/-- A run fails (R256-R258): a queued run is over at once; the engines of a running one stop issuing. -/
def State.failRun (s : State) (id : Nat) (f : RunFail) : State :=
  match s.run? id with
  | none => s
  | some r =>
    if r.failed.isSome then s
    else
      let s := (s.logRun r f).modRun id fun r => { r with failed := some f }
      (s.each r.engines fun s e => s.modEngine e fun g => { g with ended := true }).settleRun id

/-- A failure in which no engine took part, or an engine named. -/
def State.failPlain (s : State) (id reason : Nat) : State :=
  s.failRun id { reason, engine := 0xFFFF, instr := 0xFFFF, la := 0 }

/-- Ends a run with a reason that is no engine's fault (R29, R257, R259): a queued one on no engine, a running one on the first of its
engines to stop, which one is the device's choice (log 1). -/
def State.abortRun (s : State) (r : Run) (reason : Nat) : State :=
  if r.engines.isEmpty then s.failPlain r.id reason
  else
    let f := s.takeFree
    let e := r.engines[f.1 % r.engines.length]?.getD 0
    f.2.failRun r.id { reason, engine := e, instr := if loadedHandle r.handle then (s.engine e).pc else 0xFFFF, la := 0 }

/-- Aborts the runs of a context with a reason (R29, R259). -/
def State.abortRuns (s : State) (p : Run → Bool) (reason : Nat) : State :=
  s.each (s.disp.runs.filter p) fun s r => s.abortRun r reason

/-! ## KERNEL_RUN and KERNEL_ABORT -/

/-- Starts a KERNEL_RUN: the checks of R247 and R248, then the queue. -/
def startKernelRun (s : State) (c : Cmd) : State :=
  let h := par c.p 8 4
  let n := par c.p 12 2
  if !(builtinHandle h || (s.kernelOf h (pCtx c.p)).isSome) then s.bad c 8
  else if s.enginesUp < n || (s.disp.engineCap ≠ 0 && s.disp.engineCap < n) then s.bad c 12
  else if 1024 ≤ (s.disp.runs.filter Run.queued).length then s.reply c stBusy
  else
    let r : Run := { id := s.disp.nextRun, cmd := c.id, ctx := pCtx c.p, tag := c.p.tag.toNat, handle := h, want := n
                     args := (List.range 6).map fun k => par c.p (16 + 8 * k) 8 }
    (s.modDisp fun d => { d with runs := d.runs ++ [r], nextRun := d.nextRun + 1 }).count 0x03 0 0x01 { ctx := some r.ctx }

def specKernelRun : CmdSpec :=
  { opcode := 0x0501, handler := fun _ _ => .hw, defined := [(8, 14), (16, 64)]
    faults := fun _ p => [(8, decide (par p 8 4 < 2 ^ 31) && !builtinHandle (par p 8 4))], start := startKernelRun }

/-- Starts a KERNEL_ABORT (R259). -/
def startKernelAbort (s : State) (c : Cmd) : State :=
  match s.disp.runs.find? fun r => r.ctx == pCtx c.p && r.tag == par c.p 8 2 with
  | some r => (s.modCmd c.id fun c => { c with aux := r.id + 1 }).abortRun r 9
  | none => s.reply c 0 0

def specKernelAbort : CmdSpec := { opcode := 0x0502, cls := fun _ => .finish, defined := [(8, 10)], start := startKernelAbort }

/-! ## The dispatcher (R248) -/

/-- The engines a queued run can take now, if it fits: its count, or for a count of 0 what is free up to its limits. -/
def State.fits (s : State) (r : Run) : Option Nat :=
  let free := s.freeEngines.length
  let room := if s.disp.engineCap = 0 then 152 else s.disp.engineCap - s.enginesHeld r.ctx
  if r.want ≠ 0 then (if r.want ≤ free && r.want ≤ room then some r.want else none)
  else
    let lim := match s.kernelOf r.handle r.ctx with
      | some k => if k.maxEngines = 0 then 152 else k.maxEngines
      | none => max 1 r.total
    let n := min (min free room) lim
    if n = 0 then none else some n

/-- Takes engines one at a time from the die with the most free engines (R248); which of those the device takes is a free
value (log 1). -/
def State.takeEngines (s : State) : Nat → List Nat × State
  | 0 => ([], s)
  | n + 1 =>
    let o := s.takeEngines n
    let left := o.2.freeEngines.filter fun e => !o.1.contains e
    let free (d : Nat) : Nat := (left.filter fun e => chdOf e = d).length
    let most := max (max (free 0) (free 1)) (max (free 2) (free 3))
    match o.2.pickOf (left.filter fun e => free (chdOf e) = most) with
    | (some e, s) => (o.1 ++ [e], s)
    | (none, s) => (o.1, s)

/-- Prepares an engine for a run (R239, R261): cleared when the context changes. -/
def Engine.prepare (g : Engine) (r : Run) (index n : Nat) : Engine :=
  let same := g.lastCtx = some r.ctx
  { g with
    run := some r.id, index, pc := 0, ended := false, lastCtx := some r.ctx
    x := tput 0 (tput 0 [] 14 n) 15 index, v := [], acc := [], streams := [], loops := []
    slab := if same then g.slab else []
    expQ := if same then g.expQ else []
    expPos := if same then g.expPos else 0 }

/-- Starts a run on engines. `check` is the argument check of a built-in kernel (R224, R251): a failure ends the run before
it starts on any engine. -/
def State.startRun (s : State) (check : State → Run → Bool) (r : Run) (n : Nat) (backfill : Bool) : State :=
  if !loadedHandle r.handle && !check s r then s.failPlain r.id 3
  else
    let o := s.takeEngines n
    let s := o.2.modRun r.id fun r => { r with started := true, engines := o.1 }
    let s := s.each (o.1.mapIdx fun i e => (i, e)) fun s e =>
      (s.modEngine e.2 fun g => g.prepare r e.1 o.1.length).count 0x0D (chdOf e.2) 0x01 { ctx := some r.ctx }
    let s := s.count 0x03 0 0x02 { ctx := some r.ctx }
    if backfill then s.count 0x03 0 0x03 { ctx := some r.ctx } else s

/-- A queued run that can no longer start (R248): its count exceeds the engines in service or the cap. -/
def State.overCount (s : State) (r : Run) : Bool :=
  r.queued && r.want ≠ 0 && (s.enginesUp < r.want || (s.disp.engineCap ≠ 0 && s.disp.engineCap < r.want))

/-- KERNEL_DISPATCH: ends the queued runs that cannot start, then starts the head, or a later run ahead of it. -/
def State.dispatchRun (s : State) (check : State → Run → Bool) : State :=
  let s := s.each (s.disp.runs.filter s.overCount) fun s r => s.failPlain r.id 3
  match s.disp.runs.filter Run.queued with
  | [] => s
  | head :: rest =>
    match s.fits head with
    | some n => s.startRun check head n false
    | none =>
      if head.waited || s.disp.backfill = 0 then s
      else
        match rest.findSome? fun r => (s.fits r).map fun n => (r, n) with
        | some (r, n) => s.startRun check r n true
        | none => s

/-! ## Meanings -/

def execKernelRun (via : Via) (p : Packet) (s : State) : Host.Outcome State Fault Refusal := .next (s.submit specKernelRun via p)
def execKernelAbort (via : Via) (p : Packet) (s : State) : Host.Outcome State Fault Refusal :=
  .next (s.submit specKernelAbort via p)

/-- BACKFILL_LIMIT_EXPIRY (R248): the head has waited. -/
def execBackfillLimitExpiry (s : State) : Host.Outcome State Fault Refusal :=
  .next (match s.disp.runs.find? Run.queued with
    | some r => if s.running then s.modRun r.id fun r => { r with waited := true } else s
    | none => s)

/-- An engine fails with reason ENGINE and is mapped out (R260). -/
def State.engineFails (s : State) (e : Nat) : State :=
  let g := s.engine e
  let s := match g.run with
    | some id =>
      (match s.run? id with
       | some r => s.failRun id { reason := 8, engine := e, instr := if loadedHandle r.handle then g.pc else 0xFFFF, la := 0 }
       | none => s)
    | none => s
  let s := (s.modEngine e fun g => { g with inService := false }).modChd (chdOf e) fun c => { c with err := orBit c.err 0 }
  s.log { event := 0x08, kind := 1, index := e, reason := 1 }

def execEngineFailure (engine : Fin 152) (s : State) : Host.Outcome State Fault Refusal :=
  .next (if s.running && (s.engine engine.val).inService then s.engineFails engine.val else s)

end Sys2Proof.Machine
end

