-- ==== Sys2Proof/Machine/Regions.lean ====
section
/-!
DEFINITION. Regions (R24-R28, R39-R46, R157, R298-R301): quotas, placement and frames, REGION_ALLOC with its fill, freeing,
REGION_FREE and REGION_ATTR.
-/

namespace Sys2Proof.Machine

/-! ## What is in use (R28, R42, Quota registers) -/

/-- Contexts that a function owns, live and sealed (HEP_FN_USE_A.CONTEXTS). -/
def State.ctxsUsed (s : State) (fn : Nat) : Nat :=
  (s.ctxs.filter fun e => e.2.st != .free && e.2.owner == fn).length + (if fn = 0 then s.sealed.length else 0)

/-- Frames that a region is charged: none in tiered space. -/
def Region.charge (r : Region) : Nat := if r.tiered then 0 else chargeOf r.attr r.pages

/-- Frames charged to a function (HEP_FN_USE_A.HBM_PAGES). -/
def State.hbmUsed (s : State) (fn : Nat) : Nat := ((s.regions.filter fun e => e.2.fn == fn).map fun e => e.2.charge).sum

/-- Tier pages charged to a function (HEP_FN_USE_B.TIER_PAGES). -/
def State.tierUsed (s : State) (fn : Nat) : Nat :=
  ((s.regions.filter fun e => e.2.fn == fn && e.2.tiered).map fun e => e.2.pages).sum

/-- Tier pages of the populated 150 TB of the Z2520-F (R24). -/
def tierCapacity : Nat := 2288818359

/-- The first pinned-space page, ZA[48:16], and the pages of pinned space (R24). -/
def pinnedBase : Nat := 2 ^ 32
def pinnedPages : Nat := 2 ^ 26

/-- Tier-cache frames that the Z2520-F keeps (R42, R156). -/
def cacheFloor : Nat := 3906250

/-- Frames of both halves. -/
def State.cacheTotal (s : State) : Nat := (s.dirDie 0).cacheFrames + (s.dirDie 1).cacheFrames

/-- Region entries that a context holds: regions and subscriptions (R39, R276). -/
def State.entriesOf (s : State) (c : Nat) : Nat :=
  (s.regions.filter fun e => e.2.ctx == c && e.2.owned && e.2.sealedBy == 0).length
    + (s.subs.filter fun e => e.2.ctx == c).length

/-- Region entries of the device (R39, R276). -/
def State.entries (s : State) : Nat := s.regions.length + s.subs.length

/-- An unused index of the handle space; which is the device's choice (log 1). -/
def State.pickIndex (s : State) : Option Nat × State :=
  s.pick (2 ^ 20) (s.entries + 1) fun n => !thas s.regions n && !thas s.subs n

/-- A handle's index becomes reusable under the next sequence number (R39, R45, log 4). -/
def State.nextSeq (s : State) (i : Nat) : State := { s with seqs := tmod 0 s.seqs i fun n => (n + 1) % 4096 }

/-! ## Placement (R24, R298, R301) -/

/-- No region, and no page movement still in flight, touches a range of ZA pages. -/
def State.zaFree (s : State) (base n : Nat) : Bool :=
  let hit (p : Nat) : Bool := base ≤ p && p < base + n
  !(s.regions.any fun e => base < e.2.zaPage + e.2.pages && e.2.zaPage < base + n)
  && !(s.dir.any fun e => hit e.1)
  && !(s.flss.any fun e => (e.2.openW ++ e.2.programming ++ e.2.heldBack).any fun i => hit i.page)

/-- The base of a new region: the device's choice where it fits, else the first fit after a live region (R24, log 1). -/
def State.placeRegion (s : State) (attr : BitVec 32) (n : Nat) : Option Nat × State :=
  let low := if attrTiered attr then 0 else pinnedBase
  let size := if attrTiered attr then tierCapacity else pinnedPages
  let step := if attrStripe attr && !attrTiered attr then 4 else 1
  let ok (b : Nat) : Bool := b + n ≤ size && s.zaFree (low + b) n
  let f := s.takeFree
  let first := f.1 % size / step * step
  let ends := (s.regions.map fun e => e.2.zaPage + e.2.pages).filter fun b => low ≤ b && b < low + size
  let bases := first :: 0 :: ends.map fun b => cdiv (b - low) step * step
  ((bases.find? ok).map (low + ·), f.2)

/-- Gives an entry of a stack's frame map a frame: in the sibling where the stack is retired (R299, R321). Which unused frame
is the device's choice (log 1). -/
def State.mapFrame (s : State) (k u st : Nat) : State :=
  let sibling := (s.stack k).st ≠ 0
  let home := if sibling then 2 * (k / 2) + (1 - k % 2) else k
  let o := s.freePlace home
  o.2.modStack k fun t => { t with frameMap := tset t.frameMap u { frame := o.1.getD 0, st, sibling } }

/-- The frame-map entries of a pinned-space region: stack, index and STATE, data pages then the parity of each stripe. -/
def Region.frames (r : Region) : List (Nat × Nat × Nat) :=
  let base := r.zaPage - pinnedBase
  ((List.range r.pages).map fun i => (stackOfPinned (base + i), frameIndex (base + i), 1)) ++
  (if r.stripe then (List.range (cdiv r.pages 4)).map fun i => (parityStack (base + 4 * i), frameIndex (base + 4 * i), 2) else [])

/-- Takes a charge from the two halves of the tier cache as equally as may be (R156, R157). -/
def State.chargeCache (s : State) (n : Nat) : State :=
  let big := if (s.dirDie 0).cacheFrames < (s.dirDie 1).cacheFrames then 1 else 0
  let small := min (n / 2) (s.dirDie (1 - big)).cacheFrames
  let s := s.modDir big fun t => { t with cacheFrames := t.cacheFrames - (n - small) }
  let s := s.modDir (1 - big) fun t => { t with cacheFrames := t.cacheFrames - small }
  (s.settlePressure 0).settlePressure 1

/-- Frames that rejoin the cache once zeroed (R45, R157), half to each die. -/
def State.releaseFrames (s : State) (n : Nat) : State :=
  let big := if (s.dirDie 1).cacheFrames + (s.dirDie 1).rejoin < (s.dirDie 0).cacheFrames + (s.dirDie 0).rejoin then 1 else 0
  let s := s.modDir big fun t => { t with rejoin := t.rejoin + (n - n / 2) }
  s.modDir (1 - big) fun t => { t with rejoin := t.rejoin + n / 2 }

/-! ## REGION_ALLOC (R39-R43, R157) -/

/-- A die whose two stacks are both retired would hold pages of a pinned-space region (R321). -/
def State.deadStacks (s : State) (r : Region) : Bool :=
  r.frames.any fun e => (s.stack e.1).st ≠ 0 && (s.stack (2 * (e.1 / 2) + (1 - e.1 % 2))).st ≠ 0

/-- The refusals with NO_SPACE of R28, R39, R42, R44, R157, R270 and R338 that need no placement. -/
def State.noRoom (s : State) (c fn : Nat) (r : Region) : Bool :=
  let f := s.fn fn
  2 ^ 24 ≤ (s.ctx c).gen || 262144 ≤ s.entries || 4096 ≤ s.entriesOf c
  || (r.kind == 2 && 4096 ≤ (s.regions.filter fun e => e.2.kind == 2).length)
  || (r.tiered && ((s.fls 0).worn || (s.fls 1).worn))
  || (if r.tiered then f.tierQuota != 0xFFFFFFFF && f.tierQuota < s.tierUsed fn + r.pages
      else
        (f.hbmQuota != 0x3FFFFFF && f.hbmQuota < s.hbmUsed fn + r.charge)
        || s.cacheTotal < r.charge
        || (!s.variantH && (s.cacheTotal < r.charge + cacheFloor ||
            (List.range 2).any fun d =>
              (s.chargeCache r.charge |>.dirDie d).cacheFrames < s.heldPages d + (s.dirDie d).high + 1024)))

/-- RESULT of REGION_ALLOC: the handle and the ZA base. -/
def State.allocResult (s : State) (i : Nat) (r : Region) : Nat := s.handleOf i + (r.zaPage * 65536) <<< 64

/-- Starts a REGION_ALLOC: a tiered region is there at once, a pinned-space one once it has been filled (R43). -/
def startRegionAlloc (s : State) (c : Cmd) : State :=
  let ctx := pCtx c.p
  let attr := BitVec.ofNat 32 (par c.p 12 4)
  let r : Region := { ctx, fn := c.fn, attr, pages := par c.p 8 4, gen := (s.ctx ctx).gen }
  if !attrAllowed s.variantH attr then s.bad c 12
  else if s.noRoom ctx c.fn r then s.reply c stNoSpace
  else
    match s.placeRegion attr r.pages with
    | (none, s) => s.reply c stNoSpace
    | (some base, s) =>
      let r := { r with zaPage := base }
      if !r.tiered && s.deadStacks r then s.reply c stNoSpace
      else
        match s.pickIndex with
        | (none, s) => s.reply c stNoSpace
        | (some i, s) =>
          let s := s.modCtx ctx fun x => { x with gen := x.gen + 1 }
          let slot := s.pick 8192 8192 fun n => 4096 ≤ n && tget 0 s.keys n = 0
          let o : Region × State :=
            if r.kind = 2 then
              let k := slot.2.takeKey
              ({ r with keySlot := slot.1.getD 0, key := k.1 }, k.2.loadKey (slot.1.getD 0) k.1)
            else (r, s)
          let r := o.1
          let s := o.2
          if r.tiered then
            let s := s.setRegion i r
            s.reply c 0 (s.allocResult i r)
          else
            let s := (s.setRegion i { r with filling := true }).chargeCache r.charge
            let s := s.each r.frames fun s e => s.mapFrame e.1 e.2.1 e.2.2
            s.modCmd c.id fun c => { c with aux := i }

def specRegionAlloc : CmdSpec :=
  { opcode := 0x0104, defined := [(8, 16)]
    faults := fun _ p => (8, par p 8 4 = 0) :: attrFaults (BitVec.ofNat 32 (par p 12 4))
    start := startRegionAlloc }

/-- The stacks of a region's frames have a frozen pseudo-channel: its fill waits (R318). -/
def State.fillFrozen (s : State) (r : Region) : Bool :=
  (List.range 20).any fun k => (s.stack k).pcs.any (fun e => e.2.st == .frozen) &&
    (List.range r.pages).any fun j => s.stackOf (65536 * (r.zaPage + j)) == k

/-- The zero fill of a page of a new region (R43): its lines are written, in a compressed region as ZERO blocks, which are encoded (R192). -/
def State.fillPage (s : State) (r : Region) (page : Nat) : State :=
  let k := s.stackOf (65536 * page)
  let at_ : Attrs := { ctx := some r.ctx, za := some (65536 * page) }
  let s := if r.auto then (s.count 0x0B (dieOf k) 0x02 at_ 16).count 0x0B (dieOf k) 0x07 at_ 16 else s
  (s.countStack k 0x02 at_ (if r.auto then 16 else 1024)).placePage page

/-- REGION_FILL_COMPLETE (R43, R157): the frames are free of tier pages and filled; the command replies. -/
def State.filled (s : State) (i : Nat) : State :=
  match s.region? i with
  | some r =>
    if r.filling && s.framesUsed 0 ≤ (s.dirDie 0).cacheFrames && s.framesUsed 1 ≤ (s.dirDie 1).cacheFrames && !s.fillFrozen r then
      let s := (s.setRegion i { r with filling := false }).each (List.range r.pages) fun s j => s.fillPage r (r.zaPage + j)
      match s.cmds.find? fun c => c.opcode == 0x0104 && c.st == .running && c.aux == i && pCtx c.p == r.ctx with
      | some c => s.reply c 0 (s.allocResult i r)
      | none => s
    else s
  | none => s

/-! ## Freeing (R45, R46) -/

/-- Tables of a region that are CURRENT become RETIRED (R205). -/
def State.retireTables (s : State) (p : TableSlot → Bool) : State :=
  s.each (s.tables.filter fun e => e.2.st == .current && p e.2) fun s e =>
    (s.modTable e.1 fun t => { t with st := .retired }).settleTable e.1

/-- A stack forgets the lines of pages that are freed. -/
def Stack.dropLines (t : Stack) (hit : Nat → Bool) : Stack :=
  { t with deltas := t.deltas.filter fun e => !hit (e.1 / 1024), placed := t.placed.filter fun l => !hit (l / 1024) }

/-- Frees a region (R45): its tables retire, its pages and frames are released, its buffered writes and its leases end, its
handle goes stale, its own key is discarded. Requests that still wait for it are refused (log 36). -/
def State.freeRegion (s : State) (i : Nat) : State :=
  match s.region? i with
  | none => s
  | some r =>
    let hit (p : Nat) : Bool := r.zaPage ≤ p && p < r.zaPage + r.pages
    let h := s.handleOf i
    let s := s.refuseHeld fun q => q.region == i
    let s := s.retireTables fun t => t.region == h
    let s : State := { s with
      wbuf := s.wbuf.filter fun w => !hit (w.line / 1024)
      atoms := s.atoms.filter fun a => !hit (a.line / 1024)
      hbmStk := s.hbmStk.map fun e => (e.1, e.2.dropLines hit) }
    let s := s.each ((s.leases.filter fun e => hit (e.1 / 1024)).map (·.1)) State.endLease
    let pages := ((s.dir.map (·.1)) ++ (s.refRecs.map (·.1)) ++ (s.fmap.map (·.1))).eraseDups.filter hit
    let s := if r.tiered then s.each pages fun s p => (s.freePage p).trim p
      else
        let live := r.frames.filter fun e => let f := tget {} (s.stack e.1).frameMap e.2.1; f.st = 1 || f.st = 2
        let s := s.each r.frames fun s e => s.modStack e.1 fun t => { t with frameMap := tdel t.frameMap e.2.1 }
        (s.each pages fun s p => s.setFramePair p 0 0).releaseFrames live.length
    let s := s.modHbm fun m => m.clearPages r.zaPage r.pages
    let s : State := { s with
      staged := s.staged.clearPages r.zaPage r.pages, flash := s.flash.clearPages r.zaPage r.pages
      groups := tableClear s.groups (65536 * i) 65536, regions := tdel s.regions i }
    let s := if r.keySlot = 0 then s else s.loadKey r.keySlot 0
    s.nextSeq i

/-- A withdrawn version without subscriptions is freed (R269, R278). -/
def State.settleVersion (s : State) (i : Nat) : State :=
  match s.region? i with
  | some r => if r.share == .withdrawn && !(s.subs.any fun e => e.2.region == i) then s.freeRegion i else s
  | none => s

/-- A CKPT_COMMIT waits for a page of a region (R177). -/
def State.committing (s : State) (r : Region) : Bool :=
  s.cmds.any fun c => c.opcode == 0x0204 && c.st == .running &&
    c.pages.any fun p => r.zaPage ≤ p % 2 ^ 32 && p % 2 ^ 32 < r.zaPage + r.pages && r.tiered

/-- A kernel run or a transfer in progress has translated an access through a region or subscription (R45, R277). -/
def State.usedThrough (s : State) (i : Nat) : Bool :=
  (s.disp.runs.any fun r => r.subs.contains i) || s.xfers.any fun x => x.subs.contains i

/-- REGION_FREE is refused with CONFLICT (R45, R177, R278, R358). -/
def State.freeConflict (s : State) (i : Nat) (r : Region) : Bool :=
  s.mapped i (fun _ => true) || s.hostMapped i
  || (s.leases.any fun e => r.zaPage ≤ e.1 / 1024 && e.1 / 1024 < r.zaPage + r.pages)
  || (s.held.any fun q => q.region == i && q.mover) || s.usedThrough i
  || r.share == .publishing || r.share == .published
  || (r.share == .withdrawn && s.subs.any fun e => e.2.region == i)
  || s.committing r

def startRegionFree (s : State) (c : Cmd) : State :=
  match s.ownRegion (par c.p 8 4) (pCtx c.p) with
  | .error st => if st = stBadParam then s.bad c 8 else s.reply c st
  | .ok (i, r) => if s.freeConflict i r then s.reply c stConflict else (s.freeRegion i).reply c 0

def specRegionFree : CmdSpec :=
  { opcode := 0x0105, cls := fun _ => .finish, defined := [(8, 12)], start := startRegionFree }

/-! ## REGION_ATTR (R44, R73) -/

/-- Op 0: a region of the context, or its subscription. -/
def State.attrReport (s : State) (c : Cmd) : State :=
  match s.named (par c.p 8 4) with
  | .stale => s.bad c 8
  | .region _ r => if r.ctx = pCtx c.p && r.owned && r.sealedBy = 0 then s.reply c 0 r.report else s.reply c stNoPerm
  | .sub _ u =>
    if u.ctx = pCtx c.p then
      (match s.region? u.region with
       | some r => s.reply c 0 r.report
       | none => s.bad c 8)
    else s.reply c stNoPerm

/-- Begins a change of LEASE (R44), with the requests admitted on the old route; where none is held it is complete at once. One that the
same region still has under way is waited for: DESIGN CHOICE (log 149), its command stays parked. -/
def State.moveRegion (s : State) (c : Cmd) (i : Nat) (r : Region) (on : Bool) : State :=
  if r.moving.isSome then s.modCmd c.id fun c => { c with st := .parked }
  else
    let old := (s.held.filter fun q => q.region == i && !q.atRegulator).map (·.id)
    (s.setRegion i { r with moving := some (c.id, on, old) }).settle

/-- Op 1: LEASE changes as one step (R44). The owner's handle of a withdrawn version is named by op 0 alone (R278). DESIGN CHOICE (log 157): it is
refused with NO_PERM, as WIN_SET is. -/
def State.attrLease (s : State) (c : Cmd) : State :=
  match s.ownRegion (par c.p 8 4) (pCtx c.p) with
  | .error st => if st = stBadParam then s.bad c 8 else s.reply c st
  | .ok (i, r) =>
    if r.share == .withdrawn then s.reply c stNoPerm
    else if par c.p 13 1 = 1 then
      if r.kind = 1 && !r.auto then s.moveRegion c i r true else s.bad c 13
    else if (s.leases.any fun e => r.zaPage ≤ e.1 / 1024 && e.1 / 1024 < r.zaPage + r.pages) || s.mapped i (·.own) then
      s.reply c stConflict
    else s.moveRegion c i r false

/-- Op 2: the context's miss policy; the handle is ignored. -/
def State.attrMiss (s : State) (c : Cmd) : State :=
  let v := par c.p 13 1
  (s.modCtx (pCtx c.p) fun x => { x with nack := v = 1 }).reply c 0 (v <<< 64)

def startRegionAttr (s : State) (c : Cmd) : State :=
  match par c.p 12 1 with
  | 0 => s.attrReport c
  | 1 => s.attrLease c
  | _ => s.attrMiss c

/-- REGION_ATTR: the op is byte 12 of the packet, whichever row of the table brings it. -/
def specRegionAttr : CmdSpec :=
  { opcode := 0x0106, defined := [(8, 14)]
    faults := fun _ p =>
      let op := par p 12 1
      [(12, decide (3 ≤ op)), (13, if op = 0 then par p 13 1 != 0 else decide (2 ≤ par p 13 1))]
    start := startRegionAttr }

/-! ## Frames zeroed in idle cycles (R30, R45, R157) -/

/-- A stack has nothing to issue: no buffered write that may drain, no parity delta, and no frozen pseudo-channel (R142, R318). -/
def State.stackIdle (s : State) (k : Nat) : Bool :=
  !(s.wbuf.any fun e => e.stack == k) && (s.stack k).deltas.isEmpty && !((s.stack k).pcs.any fun e => e.2.st == .frozen)

/-- FRAME_ZEROING of a die: a frame of a freed tier page, or one of a freed pinned-space region, is free again. It is zeroed in a cycle in
which its stack has nothing else to issue (R142); which of the stacks holds it is not kept, so that one of them is idle is asked. -/
def State.zeroOne (s : State) (d : Nat) : State :=
  let t := s.dirDie d
  if !(List.range 20).any s.stackIdle then s
  else if t.zeroing ≠ 0 then
    ((s.modDir d fun t => { t with zeroing := t.zeroing - 1 }).settlePressure d).retryInvalid d
  else if t.rejoin ≠ 0 then
    ((s.modDir d fun t => { t with rejoin := t.rejoin - 1, cacheFrames := t.cacheFrames + 1 }).settlePressure d).retryInvalid d
  else s

/-! ## Meanings -/

def execRegionAlloc (via : Via) (p : Packet) (s : State) : Out1 := .next (s.submit specRegionAlloc via p)
def execRegionFree (via : Via) (p : Packet) (s : State) : Out1 := .next (s.submit specRegionFree via p)
def execRegionAttrReport (via : Via) (p : Packet) (s : State) : Out1 := .next (s.submit specRegionAttr via p)
def execRegionAttrSetLease (via : Via) (p : Packet) (s : State) : Out1 := .next (s.submit specRegionAttr via p)
def execRegionAttrSetMissPolicy (via : Via) (p : Packet) (s : State) : Out1 := .next (s.submit specRegionAttr via p)

def execRegionFillComplete (region : BitVec 20) (s : State) : Out1 := .next (if s.running then s.filled region.toNat else s)

def execFrameZeroing (die : Fin 2) (s : State) : Out1 := .next (if s.running then s.zeroOne die.val else s)

end Sys2Proof.Machine
end

