-- ==== Sys2Proof/Machine/Hints.lean ====
section
/-!
DEFINITION. Hints (R163, R168-R171, R180), CKPT_COMMIT (R177), and the directory's own events: fetch dispatch and victim
selection (R172, R178).
-/

namespace Sys2Proof.Machine

/-! ## Queue entries (R171) -/

/-- A hint's entry can be taken by a die's prefetch queue: room for the die and for the context. -/
def State.queueRoom (s : State) (d ctx : Nat) : Bool :=
  (s.dirDie d).pfQ.length < 65536 && ((s.dirDie d).pfQ.filter fun e => e.ctx == ctx).length < 1024

/-- A hint under way: its context, order key, priority, arrival, and whether it is the owner's or a vote. -/
structure HintCtx where
  ctx   : Nat
  key   : Nat
  prio  : Nat
  seq   : Nat
  owner : Bool

/-- Adds a page to the hint's entry of its die: the entry is made with its first page. None: no room. DESIGN CHOICE (log 155): a page that is
queued already is listed in the new entry too, which takes its turn with it although PF_PENDING is 0 once the first has fetched it. -/
def State.queuePage (s : State) (h : HintCtx) (page : Nat) : Option State :=
  let d := pageDir page
  let pend (s : State) : State := s.modEnt page fun e => { e with pfPending := true }
  if (s.dirDie d).pfQ.any fun e => e.seq == h.seq then
    some (pend (s.modDir d fun t => { t with
      pfQ := t.pfQ.map fun e => if e.seq = h.seq then { e with pages := e.pages ++ [page] } else e }))
  else if s.queueRoom d h.ctx then
    some (pend (s.modDir d fun t => { t with
      pfQ := t.pfQ ++ [{ seq := h.seq, ctx := h.ctx, key := h.key, prio := h.prio, pages := [page] }] }))
  else none

/-! ## One page (R163, R168-R170, R180) -/

/-- HINT_PREFETCH on a page: whether it was applied. -/
def State.prefetchPage (s : State) (h : HintCtx) (page : Nat) : Bool × State :=
  let clear (s : State) : State := if h.owner then s.modEnt page fun e => { e with deferEvict := false } else s
  match (s.ent page).st with
  | .flash =>
    (match s.queuePage h page with
     | some s => (true, clear s)
     | none => (false, s))
  | .clean => (true, clear (s.modEnt page fun e => { e with ref := true }))
  | .dirty => (true, clear (s.modEnt page fun e => { e with ref := true }))
  | .writingBack => (true, clear (s.modEnt page fun e => { e with ref := true, evicting := e.evicting && !h.owner }))
  | _ => (false, s)

/-- A page may be held (R169): the function's limit and the die's. -/
def State.mayHold (s : State) (page fn : Nat) : Bool :=
  let d := pageDir page
  let t := s.dirDie d
  let max := tget 0x3FFFFFF t.heldMax fn
  (max = 0x3FFFFFF || s.fnHeld d fn < max) && s.heldPages d < t.cacheFrames - t.high - 1024

/-- HINT_PIN of the owner on a page. -/
def State.pinPage (s : State) (h : HintCtx) (fn page : Nat) : Bool × State :=
  let e := s.ent page
  let up (s : State) : State := s.modEnt page fun e => { e with holds := e.holds + 1, deferEvict := false }
  if 255 ≤ e.holds || (e.holds = 0 && !s.mayHold page fn) then (false, s)
  else
    match e.st with
    | .invalid =>
      if e.holds ≠ 0 then (true, up s)
      else
        (match s.zeroFrame page false fun e =>
            { e with st := .clean, onFlash := false, ref := true, holds := 1, deferEvict := false } with
         | some s => (true, s.pageReady page)
         | none =>
           match s.queuePage h page with
           | some s => (true, up s)
           | none => (false, s))
    | .flash =>
      (match s.queuePage h page with
       | some s => (true, up s)
       | none => (false, s))
    | .fetching => (true, up s)
    | _ => (true, up (s.modEnt page fun e => { e with ref := true }))

/-- HINT_UNPIN of the owner on a page. -/
def State.unpinPage (s : State) (page : Nat) : Bool × State :=
  let e := s.ent page
  if e.holds = 0 then (false, s)
  else
    let s := s.modEnt page fun e => { e with holds := e.holds - 1 }
    if 1 < e.holds then (true, s)
    else
      match e.st with
      | .invalid => (true, s.cancelPrefetch page)
      | .flash =>
        if e.deferEvict then
          let s := s.modEnt page fun e => { e with deferEvict := false }
          (true, if s.waiters page then s else s.cancelPrefetch page)
        else (true, s)
      | .fetching => (true, s)
      | .writingBack =>
        (true, if e.deferEvict then s.modEnt page fun e => { e with evicting := true, deferEvict := false } else s)
      | _ => (true, if e.deferEvict then s.evict page else s)

/-- HINT_EVICT of the owner on a page. -/
def State.evictPage (s : State) (page : Nat) : Bool × State :=
  let e := s.ent page
  let later := s.modEnt page fun e => { e with deferEvict := true }
  match e.st with
  | .invalid => (false, s)
  | .flash =>
    if e.holds ≠ 0 then (true, later)
    else if s.waiters page then (true, s)
    else (true, (s.cancelPrefetch page).modEnt page fun e => { e with deferEvict := false })
  | .fetching => (true, later)
  | .writingBack =>
    (true, if e.holds ≠ 0 then later else s.modEnt page fun e => { e with evicting := true, deferEvict := false })
  | _ => (true, if e.holds ≠ 0 then later else s.evict page)

/-- The four hints. -/
inductive HintOp where
  | prefetch
  | pin
  | unpin
  | evict
deriving DecidableEq, Repr

/-- A hint on the entry of one page: the owner's acts, a subscriber's is a vote (R180). DESIGN CHOICE (log 134): in the counters a vote is
applied where R163 would apply the hint that it acts as, a HINT_EVICT vote where the page is not INVALID, and a HINT_UNPIN vote nowhere. -/
def State.hintEntry (s : State) (op : HintOp) (h : HintCtx) (fn page : Nat) : Bool × State :=
  match op with
  | .prefetch => s.prefetchPage h page
  | .pin =>
    if h.owner then s.pinPage h fn page
    else
      let s := if (s.ent page).st == .invalid then s else s.modEnt page fun e => { e with ref := true }
      s.prefetchPage h page
  | .unpin => if h.owner then s.unpinPage page else (false, s)
  | .evict =>
    if h.owner then s.evictPage page
    else ((s.ent page).st != .invalid, s.modEnt page fun e => { e with ref := false })

/-- A hint on one page: its entry comes into the entry cache (R161); one that cannot be read takes no hint (R160). -/
def State.hintPage (s : State) (op : HintOp) (h : HintCtx) (fn page : Nat) : Bool × State :=
  let s := s.cacheEntry page h.ctx
  if (s.ent page).bad then (false, s) else s.hintEntry op h fn page

/-- A page counts in the RESULT of a hint (R74, R163): it was applied, and not as a vote that raises no hold and marks no eviction. -/
def HintCtx.counts (h : HintCtx) (op : HintOp) (applied : Bool) : Bool := applied && (h.owner || op == .prefetch)

/-- A hint over pages: the number that RESULT counts. -/
def State.hintPages (s : State) (op : HintOp) (h : HintCtx) (fn : Nat) : List Nat → Nat × State
  | [] => (0, s)
  | p :: rest =>
    let o := s.hintPage op h fn p
    let s := o.2.countGnm p (if o.1 then 0x0A else 0x0B) h.ctx
    let q := s.hintPages op h fn rest
    (q.1 + b2n (h.counts op o.1), q.2)

/-! ## Commands (R74, R171) -/

/-- The range of a hint within one valid window onto tiered space, its window and region; or the refusal. -/
def State.hintRange (s : State) (c : Cmd) (wr : Bool) : Except Nat (Nat × Window × Region) :=
  let la := par c.p 8 8
  let n := par c.p 16 4
  match (s.ctx (pCtx c.p)).windows.find? fun e => e.2.covers la (65536 * n) with
  | none => .error stBadParam
  | some (_, w) =>
    match s.region? w.region with
    | none => .error stBadParam
    | some r =>
      if !r.tiered then .error stBadParam
      else if !w.rd || (wr && !w.wr) then .error stNoPerm
      else .ok (w.zaPage + (la / 65536 - w.laPage), w, r)

def startHint (op : HintOp) (s : State) (c : Cmd) : State :=
  if s.variantH then s.bad c 0
  else
    match s.hintRange c false with
    | .error st => if st = stBadParam then s.bad c 8 else s.reply c st
    | .ok (page, w, r) =>
      let n := s.takeId
      let h : HintCtx := { ctx := pCtx c.p, key := par c.p 20 4, prio := par c.p 24 1, seq := n.1
                           owner := w.sub.isNone && r.ctx = pCtx c.p && r.owned }
      let o := n.2.hintPages op h r.fn ((List.range (par c.p 16 4)).map (page + ·))
      ((o.2.retryInvalid 0).retryInvalid 1).reply c 0 o.1

/-- The encoding faults of the hint group (R74). -/
def hintFaults (p : Packet) (keyed : Bool) : List (Nat × Bool) :=
  [(8, par p 8 8 % 65536 != 0), (16, par p 16 4 = 0), (24, keyed && decide (8 ≤ par p 24 1))]

/-- A hint's specification. DESIGN CHOICE (log 107): where the order key or the priority must be zero, DETAIL names the lowest byte of
them that is not, as of a reserved byte. -/
def specHint (opcode : Nat) (op : HintOp) (keyed : Bool) : CmdSpec :=
  { opcode, handler := fun _ _ => .hw, defined := [(8, if keyed then 25 else 20)]
    faults := fun _ p => hintFaults p keyed, start := startHint op }

def specHintPrefetch : CmdSpec := specHint 0x0200 .prefetch true
def specHintPin : CmdSpec := specHint 0x0201 .pin true
def specHintUnpin : CmdSpec := specHint 0x0202 .unpin false
def specHintEvict : CmdSpec := specHint 0x0203 .evict false

/-! ## CKPT_COMMIT (R177) -/

/-- Selects a page: none if it holds no dirty data, else what it waits for. A write-back under way whose read-out has not begun is
waited for; one whose read-out has is too early for a page that is dirty again, and one more commit is waited for. -/
def State.ckptPage (s : State) (page : Nat) : Option Nat × State :=
  let e := s.ent page
  if e.bad then (none, s)
  else
    match e.st with
    | .dirty => (some page, s.startWriteback page false)
    | .writingBack =>
      (if e.queued && s.tierHeld then some page else if e.dirty ≠ 0 then some (page + 2 ^ 32) else none, s)
    | _ => (none, s)

/-- Selects pages in order. -/
def State.ckptPages (s : State) : List Nat → List Nat × State
  | [] => ([], s)
  | p :: rest =>
    let o := s.ckptPage p
    let q := o.2.ckptPages rest
    (o.1.toList ++ q.1, q.2)

def startCkpt (s : State) (c : Cmd) : State :=
  if s.variantH then s.bad c 0
  else
    match s.hintRange c true with
    | .error st => if st = stBadParam then s.bad c 8 else s.reply c st
    | .ok (page, _, _) =>
      let o := s.ckptPages ((List.range (par c.p 16 4)).map (page + ·))
      if o.1.isEmpty then o.2.reply c 0
      else o.2.modCmd c.id fun c => { c with pages := o.1, done := o.1.length }

def specCkpt : CmdSpec :=
  { opcode := 0x0204, handler := fun _ _ => .hw, defined := [(8, 20)], faults := fun _ p => hintFaults p false, start := startCkpt }

/-! ## FETCH_DISPATCH and VICTIM_SELECTION -/

/-- Requests that wait for a page which now has a frame proceed. -/
def State.releaseResident (s : State) (d : Nat) : State :=
  (s.rerouted fun q => match q.hold with
    | .miss p => pageDir p == d && ((s.ent p).st == .clean || (s.ent p).st == .dirty || (s.ent p).st == .writingBack)
    | _ => false).settle

def execFetchDispatch (die : Fin 2) (s : State) : Out1 :=
  .next (if s.running then (s.dispatchNext die.val).releaseResident die.val else s)

def execVictimSelection (die : Fin 2) (s : State) : Out1 :=
  .next (if s.running then (s.selectVictim die.val).retryInvalid die.val else s)

/-! ## Meanings -/

def execHintPrefetch (via : Via) (p : Packet) (s : State) : Out1 := .next (s.submit specHintPrefetch via p)
def execHintPin (via : Via) (p : Packet) (s : State) : Out1 := .next (s.submit specHintPin via p)
def execHintUnpin (via : Via) (p : Packet) (s : State) : Out1 := .next (s.submit specHintUnpin via p)
def execHintEvict (via : Via) (p : Packet) (s : State) : Out1 := .next (s.submit specHintEvict via p)
def execCkptCommit (via : Via) (p : Packet) (s : State) : Out1 := .next (s.submit specCkpt via p)

end Sys2Proof.Machine
end

