-- ==== Sys2Proof/Machine/Flash.lean ====
section
/-!
DEFINITION. The flash tier (R323-R341): read-outs and images, stripe blocks and their wordlines, programs and commits, fetches,
relocation and erase, lost dies and over-provisioning.
-/

namespace Sys2Proof.Machine

/-! ## Images (R212, R327) -/

/-- The one-byte descriptor of a block (R212): [6:0] its stored lines minus 1, [7] headed. -/
def Store.descriptor (st : Store) (auto : Bool) (block : Nat) : Byte :=
  let f := tget {} st.forms block
  if auto then BitVec.ofNat 8 (f.lines - 1 + b2n f.headed <<< 7) else 63

/-- The descriptors of a page's 16 blocks. -/
def Store.descriptors (st : Store) (auto : Bool) (page : Nat) : List Byte :=
  (List.range 16).map fun b => st.descriptor auto (16 * page + b)

/-- The stored lines that descriptors name. -/
def storedLines (descs : List Byte) : Nat := (descs.map fun b => b.toNat % 128 + 1).sum

/-- The header of an image (R327). -/
def imageHeader (page seq : Nat) (descs : List Byte) : List Byte :=
  let b := leBytes 4 page ++ leBytes 4 seq ++ descs
  b ++ leBytes 4 (crc32c b).toNat ++ leBytes 4 0

/-- Units of 512 bytes of an image: the header and the stored lines of its 16 blocks. -/
def imageUnits (header : List Byte) : Nat := cdiv (header.length + 64 * storedLines ((header.drop 8).take 16)) 512

/-- The kind of unit (R415) whose loss left a line unreadable: its stack, its pseudo-channel, or none but the line itself. -/
def State.lossKind (s : State) (line : Nat) : Nat :=
  let kp := s.pcOf line
  if (s.stack kp.1).st ≠ 0 then 3 else if s.unitAvail kp.1 kp.2 line == .gone then 2 else 4

/-- A line as the read-out sends it (R209, R327): corrected or reconstructed, what a wrong correction leaves going with it; one that
neither gives is a poison record of reason 1. So is a line 0 that its check took for the other form of block (log 124). -/
def State.stageLine (s : State) (r : Region) (line ctx : Nat) : State :=
  let o := s.lineCheck r line
  match o.1 with
  | some (c, rebuilt) =>
    let s := o.2.countRead { how := .ok, corrected := c.fix ≠ 0, rebuilt } r line ctx 3
    if c.headed = s.hbm.marked r.auto line then
      { s with staged := { s.staged with wrong := tput 0 s.staged.wrong line (tget 0 s.hbm.wrong line ^^^ c.wrong) } }
    else { s with staged := { s.staged with poison := tset s.staged.poison line { reason := 1, kind := 4 } } }
  | none =>
    let how : LineRead := if r.stripe then .lost else .bad
    let s := (o.2.logRead how r line ctx 3).dataError how line ctx 1
    { s with staged := { s.staged with poison := tset s.staged.poison line { reason := 1, kind := s.lossKind line } } }

/-- The lines of a page that need more than a plain read: those with wrong bits, those of a unit that is not in service, and those behind
a failed pin. -/
def State.unsoundLines (s : State) (page : Nat) : List Nat :=
  let wrong := (tableRange s.hbm.flips (1024 * page) 1024).map (·.1)
  let t := s.stack (s.stackOf (65536 * page))
  if t.st ≠ 0 || t.pcs.any fun e => e.2.st != .running || e.2.laneFault then
    wrong ++ ((List.range 1024).map (1024 * page + ·)).filter fun l =>
      !wrong.contains l && (s.lineAvail l != .ok || (s.pc (s.pcOf l).1 (s.pcOf l).2).laneFault)
  else wrong

/-- The die with fewer staged bytes, or the surviving one; on a tie the device chooses (R331, log 1). -/
def State.chooseFls (s : State) : Option Nat × State :=
  let n (d : Nat) : Nat := (((s.fls d).openW ++ (s.fls d).programming).map (·.units)).sum
  if (s.fls 0).lost && (s.fls 1).lost then (none, s)
  else if (s.fls 0).lost then (some 1, s)
  else if (s.fls 1).lost then (some 0, s)
  else if n 0 < n 1 then (some 0, s)
  else if n 1 < n 0 then (some 1, s)
  else s.pick 2 2 fun _ => true

/-! ## Stripe blocks (R325, R326, R331, R335) -/

/-- Units of a stripe wordline, and of a stripe block (R326; the wordlines of a block are not given: Config). -/
def wordlineUnits : Nat := 4224
def blockUnits : Nat := wordlineUnits * max 1 Config.blockWordlines

/-- The last wordline of an image. -/
def MapEnt.lastWl (e : MapEnt) : Nat := (e.unit + e.units - 1) / wordlineUnits

/-- An image waits for a place. -/
def Image.placed (i : Image) : Bool := i.place.units ≠ 0

/-- The stripe blocks of a die index that the system area takes: as many as `Config.systemBlocks` says, by convention the lowest numbered ones
(R330, log 163). -/
def systemBlock (key : Nat) : Bool := key % 8192 < Config.systemBlocks (key / 8192)

/-- The number of stripe blocks of an FLS die that the system area takes. -/
def systemTotal : Nat := ((List.range 16).map fun d => min 8192 (Config.systemBlocks d)).sum

/-- The members that a stripe block lacks: blocks retired on them, or their dies out of service (R335, R337). -/
def Fls.lacks (t : Fls) (key : Nat) : BitVec 12 :=
  (List.range 12).foldl (fun m c => if bit (tget 0 t.diesOut c) (key / 8192) then orBit m c else m) (tget {} t.blocks key).retired

/-- A free stripe block with the lowest erase count; which of them is the device's choice (log 1). -/
def State.pickBlock (s : State) (d : Nat) : Option Nat × State :=
  let t := s.fls d
  let listed := (t.blocks.filter fun e => e.2.free).map fun e => e.2.erases
  let least := if t.blocks.length + systemTotal < 131072 then 0 else listed.foldl min (listed.headD 0)
  s.pick 131072 (t.blocks.length + systemTotal + 1) fun n =>
    let b := tget {} t.blocks n
    b.free && b.erases = least && !systemBlock n && t.lacks n != 0xFFF

/-- Images of full wordlines start to be programmed, unless programs are stopped or the die is lost (R331, R340). -/
def State.closeFull (s : State) (d : Nat) : State :=
  let t := s.fls d
  if t.stopped || t.lost then s
  else
    let full (i : Image) : Bool := i.placed && i.place.lastWl < (tget {} t.blocks i.place.key).next / wordlineUnits
    s.modFls d fun t => { t with openW := t.openW.filter fun i => !full i, programming := t.programming ++ t.openW.filter full }

/-- Where an image goes in a stripe block: at the next units that touch no member that the block was laid out without (R327, R335). -/
def Fls.layUnit (t : Fls) (key units : Nat) : Option Nat :=
  let k := tget {} t.blocks key
  let parity := parityChannel key k.lacking
  let sound (u : Nat) : Bool := k.lacking == 0 || (List.range units).all fun i => !k.lacking.getLsbD (dataChannel parity (unitMember (u + i)))
  (lowest sound k.next wordlineUnits).filter fun u => u + units ≤ blockUnits

/-- Opens a free stripe block for write-backs or for relocation: it is laid out over the members that it does not lack (10 + 1, R335). -/
def State.openStripe (s : State) (d key : Nat) (reloc : Bool) : State :=
  let n := s.takeId
  n.2.modFls d fun t =>
    let t := if reloc then { t with relocBlk := some key } else { t with openBlk := some key }
    { t with blocks := tmod {} t.blocks key fun k => { k with free := false, next := 0, lacking := t.lacks key, born := n.1, reads := 0 } }

/-- Puts an image at a unit of a stripe block. -/
def State.layImage (s : State) (d key unit : Nat) (img : Image) : State :=
  (s.modFls d fun t =>
    let place : MapEnt := { mapped := false, fls := d, die := key / 8192, block := key % 8192, unit, units := img.units }
    { t with
      openW := t.openW ++ [{ img with place }]
      blocks := tmod {} t.blocks key fun k => { k with next := unit + img.units, free := false } }).closeFull d

/-- Appends an image to the open wordline for write-backs or for relocation (R331, R335): a new stripe block is opened when the
image does not fit in the rest of the open one; with no block free the image waits. -/
def State.stageImage (s : State) (d : Nat) (img : Image) : State :=
  let t := s.fls d
  let cur := if img.reloc then t.relocBlk else t.openBlk
  match cur.bind fun key => (t.layUnit key img.units).map fun u => (key, u) with
  | some (key, u) => s.layImage d key u img
  | none =>
    let s := match cur with
      | some key => (s.modFls d fun t => { t with blocks := tmod {} t.blocks key fun k => { k with next := blockUnits } }).closeFull d
      | none => s
    match s.pickBlock d with
    | (some key, s) =>
      let s := s.openStripe d key img.reloc
      (match (s.fls d).layUnit key img.units with
       | some u => s.layImage d key u img
       | none => s.modFls d fun t => { t with openW := t.openW ++ [{ img with place := {} }] })
    | (none, s) => s.modFls d fun t => { t with openW := t.openW ++ [{ img with place := {} }] }

/-- Images that wait for a place take one, once a stripe block is free. -/
def State.placeWaiting (s : State) (d : Nat) : State :=
  let w := (s.fls d).openW.filter fun i => !i.placed
  (s.modFls d fun t => { t with openW := t.openW.filter Image.placed }).each w fun s i => s.stageImage d i

/-! ## Read-out (R164, R209, R331) -/

/-- A pseudo-channel of the page's stack is frozen: tier movement waits (R318). -/
def State.pageFrozen (s : State) (page : Nat) : Bool :=
  let k := tierStack (pageDir page) (s.ent page).frame
  (s.stack k).pcs.any fun e => e.2.st == .frozen

/-- Lines of a tier page that its movement reads or writes in HBM (R430, R432). -/
def State.countLines (s : State) (page code n : Nat) : State :=
  let die := dieOf (s.stackOf (65536 * page))
  ((s.count 0x0A die code { ctx := some (s.pageCtx page), za := some (65536 * page) } n).fixed 0x0A die 2 n).fixed 0x0A die 3 (64 * n)

/-- WRITEBACK_READOUT_COMPLETE: buffered writes of the page drain first; the image is staged; held writes are applied. -/
def State.readOut (s : State) (page : Nat) : State :=
  let e := s.ent page
  if e.st == .writingBack && !e.bad && !e.readDone && !(e.queued && s.tierHeld) && !s.pageFrozen page then
    match s.pageRegion page with
    | none => s
    | some (_, r) =>
      let s := s.each (s.wbuf.filter fun w => w.line / 1024 == page) fun s w => if s.wbuf.contains w then s.drain w else s
      let s : State := { s with staged := s.staged.copyPage s.hbm page }
      let descs := s.staged.descriptors r.auto page
      let sent (l : Nat) : Bool := l % 64 ≤ ((descs.getD (l / 64 % 16) 0).toNat) % 128
      let s := s.each ((s.unsoundLines page).filter sent) fun s l => s.stageLine r l r.ctx
      let s := s.countLines page 0x01 (storedLines descs)
      let tables := s.staged.tablesOf page none
      let s := s.setFramePair page (tables[0]?.getD 0) (tables[1]?.getD 0)
      let poisoned := !(tableRange s.staged.poison (1024 * page) 1024).isEmpty
      let n := s.takeId
      let seq := n.1 % 2 ^ 32
      let head := imageHeader page seq descs
      let img : Image := { page, seq, units := imageUnits head, head, tables }
      match n.2.chooseFls with
      | (none, s) => s
      | (some d, s) =>
        let s := (s.stageImage d img).modEnt page fun e => { e with readDone := true, poisoned }
        s.pageReady page
  else s

/-! ## Reads and relocation (R325, R326, R333, R335, R337) -/

/-- The members of a die index that are out of service (FLS_DIE_MAP). -/
def State.outMembers (s : State) (d die : Nat) : List Nat :=
  (List.range 12).filter fun c => bit (tget 0 (s.fls d).diesOut c) die

/-- How an image can be read: not at all (an unmapped page, a lost FLS die, two members of its stripe block out), or with how many codewords
rebuilt from parity because their member is out (R333, R337). -/
def State.imageRead (s : State) (e : MapEnt) : Option Nat :=
  if !e.mapped || (s.fls e.fls).lost then none
  else
    let lacking := s.lackingOf e.fls e.key
    let out := (s.outMembers e.fls e.die).filter fun c => !lacking.getLsbD c
    let hit := (e.codewords.filter fun w => out.contains (s.channelOf e (4 * w))).length
    if hit = 0 then some 0 else if out.length = 1 then some hit else none

/-- The header of an image is sound (R327): its CRC, and the stored lines of its descriptors against the image's length. -/
def FlashImg.sound (i : FlashImg) (units : Nat) : Bool :=
  leNat ((i.head.drop 24).take 4) == (crc32c (i.head.take 24)).toNat && imageUnits i.head == units

/-- The members that a stripe block has: its data members and its parity. -/
def State.memberCount (s : State) (d key : Nat) : Nat :=
  ((List.range 12).filter fun c => !(s.lackingOf d key).getLsbD c).length

/-- Counts the reads of an image (R333, R430, R432): one READ for each member it touches and for each retry; the codewords transferred, and
the other members' that rebuild one. -/
def State.countReads (s : State) (e : MapEnt) (retries rebuilt : Nat) : State :=
  let others := s.memberCount e.fls e.key - 1
  let s := s.modFls e.fls fun t => { t with blocks := tmod {} t.blocks e.key fun k => { k with reads := k.reads + 1 } }
  let s := s.fixed 0x0F e.fls 2 ((s.membersOf e).length + retries + others * rebuilt)
  s.fixed 0x0F e.fls 3 (2048 * (e.codewords.length + retries + others * rebuilt))

/-- Relocates the valid images of a stripe block that can be read. -/
def State.relocate (s : State) (d key : Nat) : State :=
  if (s.fls d).lost then s
  else
    s.each (s.fmap.filter fun e => e.2.fls == d && e.2.key == key) fun s e =>
      match s.imageRead e.2 with
      | some n =>
        if (tget {} s.images e.1).dead then s
        else
          let s := (s.countReads e.2 0 n).takeId
          s.2.stageImage d { page := e.1, seq := s.1 % 2 ^ 32, units := e.2.units, reloc := true, old := e.2 }
      | none => s

/-! ## What is relocated and erased (R335) -/

/-- GC_START, GC_URGENT and WL_DELTA in force. -/
def Fls.gcStart (t : Fls) : Nat := bits t.cfg.toNat 39 32
def Fls.gcUrgent (t : Fls) : Nat := bits t.cfg.toNat 47 40
def Fls.wlDelta (t : Fls) : Nat := bits t.cfg.toNat 55 48

/-- Free stripe blocks of a die index. -/
def State.freeBlocks (s : State) (d die : Nat) : Nat :=
  8192 - min 8192 (Config.systemBlocks die) - ((s.fls d).blocks.filter fun e => e.1 / 8192 == die && !e.2.free).length

/-- A used stripe block that is neither open nor in erase. -/
def State.closedBlock (s : State) (d key : Nat) : Bool :=
  let t := s.fls d
  !(tget {} t.blocks key).free && t.openBlk != some key && t.relocBlk != some key && (s.nand d (key / 8192)).erase != some (key % 8192)

/-- The units of a stripe block that hold valid images. -/
def State.validUnits (s : State) (d key : Nat) : Nat :=
  ((s.fmap.filter fun e => e.2.fls == d && e.2.key == key).map (·.2.units)).sum

/-- Few blocks of a die index are free, and the block has the fewest valid units, the older of two (R335, row 1). -/
def State.gcVictim (s : State) (d key : Nat) : Bool :=
  let t := s.fls d
  let rank (k : Nat) : Nat × Nat := (s.validUnits d k, (tget {} t.blocks k).born)
  decide (s.freeBlocks d (key / 8192) < t.gcStart) && s.closedBlock d key
    && (t.blocks.filter fun e => e.1 / 8192 == key / 8192 && s.closedBlock d e.1).all fun e =>
        decide ((rank key).1 < (rank e.1).1) || ((rank key).1 == (rank e.1).1 && decide ((rank key).2 ≤ (rank e.1).2))

/-- The erase counts of an FLS die differ by more than 16 x WL_DELTA, and the block has the lowest of those in use (R335, row 4). -/
def State.wearVictim (s : State) (d key : Nat) : Bool :=
  let t := s.fls d
  let all := t.blocks.map (·.2.erases)
  let low := if t.blocks.length + systemTotal < 131072 then 0 else all.foldl min (all.headD 0)
  let erases (k : Nat) : Nat := (tget {} t.blocks k).erases
  decide (low + 16 * t.wlDelta < all.foldl max 0) && s.closedBlock d key
    && (t.blocks.filter fun e => s.closedBlock d e.1).all fun e => decide (erases key ≤ erases e.1)

/-- A stripe block is due for relocation for another cause than few free blocks (R335, rows 2, 4 and 5): the read-disturb limit, wear, a member
that it has come to lack. -/
def State.relocDue (s : State) (d key : Nat) : Bool :=
  let t := s.fls d
  s.closedBlock d key &&
    (decide (Config.readDisturb ≤ (tget {} t.blocks key).reads) || s.wearVictim d key || t.lacks key &&& ~~~(s.lackingOf d key) != 0)

/-- A stripe block may be erased: used, not open, with no valid image, none under way to it, and no fetch reading it (R335). -/
def State.erasable (s : State) (d key : Nat) : Bool :=
  let t := s.fls d
  s.closedBlock d key && !t.lost && !t.stopped
  && !(s.fmap.any fun e => e.2.fls == d && e.2.key == key)
  && !((t.openW ++ t.programming ++ t.heldBack).any fun i => i.placed && i.place.key == key)
  && !((s.nand d (key / 8192)).reading ++ (s.nand d (key / 8192)).demand ++ (s.nand d (key / 8192)).prefetch).any fun r => r.place.key == key

/-- A die index begins to erase a stripe block that may be erased, which one is the device's choice (R335, log 125). -/
def State.startErase (s : State) (d die : Nat) : State :=
  let l := (((s.fls d).blocks.map (·.1)).filter fun key => key / 8192 == die && s.erasable d key).map (· % 8192)
  if l.isEmpty then s
  else
    let f := s.takeFree
    f.2.modNand d die fun n => { n with erase := l[f.1 % l.length]?, suspends := [] }

/-- The core that relocates for a die runs (CC4, CC5: R335, R337). -/
def State.flashCore (s : State) (d : Nat) : Bool := !(s.proc (7 + d)).restarting && !(s.proc (7 + d)).halted

/-! ## The order of a die's work (R334) -/

/-- The oldest stripe wordline of a die index that may be programmed: its stripe block and wordline (R331, R340). -/
def State.nextProgram (s : State) (d die : Nat) : Option (Nat × Nat) :=
  if (s.fls d).stopped then none
  else ((s.fls d).programming.find? fun i => i.place.die == die).map fun i => (i.place.key, i.place.lastWl)

/-- A die index relocates the oldest of the blocks asked for few free blocks, or begins an erase. -/
def State.reclaim (s : State) (d die : Nat) : State :=
  match (s.nand d die).reloc with
  | b :: rest =>
    if s.flashCore d then (s.modNand d die fun n => { n with reloc := rest }).relocate d (8192 * die + b) else s.startErase d die
  | [] => s.startErase d die

/-- One decision of a die index, in the order of R334: a demand fetch, which suspends a program or erase at most 8 times; while blocks are
below GC_URGENT, relocation; a prefetch fetch; a program; while they are below GC_START, relocation; other relocation; an erase
(log 125). Relocation pauses while its core restarts (R337, R376). -/
def State.serveOne (s : State) (d die : Nat) : State :=
  let n := s.nand d die
  let free := s.freeBlocks d die
  let quiet := n.reading.isEmpty && !n.working
  let reclaims := quiet && ((!n.reloc.isEmpty && s.flashCore d) || (s.fls d).blocks.any fun e => e.1 / 8192 == die && s.erasable d e.1)
  match n.demand.find? n.mayRead with
  | some r => (s.modNand d die fun n => { n with demand := n.demand.filter (·.page != r.page) }).startRead d die r
  | none =>
    if reclaims && decide (free < (s.fls d).gcUrgent) then s.reclaim d die
    else
      match n.prefetch.find? fun r => !n.working && n.mayRead r with
      | some r => (s.modNand d die fun n => { n with prefetch := n.prefetch.filter (·.page != r.page) }).startRead d die r
      | none =>
        if !quiet then s
        else
          match s.nextProgram d die with
          | some g => s.modNand d die fun n => { n with program := some g, suspends := [] }
          | none =>
            if reclaims && decide (free < (s.fls d).gcStart) then s.reclaim d die
            else
              match n.patrol with
              | b :: rest =>
                if s.flashCore d then (s.modNand d die fun n => { n with patrol := rest }).relocate d (8192 * die + b) else s.startErase d die
              | [] => s.startErase d die

/-- A die index takes its next work, as far as it is free. -/
def State.serveDie (s : State) (d die : Nat) : Nat → State
  | 0 => s
  | fuel + 1 => (s.serveOne d die).serveDie d die fuel

/-- The die indices of an FLS die take their next work. -/
def State.serve (s : State) (d : Nat) : State :=
  s.each (List.range 16) fun s die =>
    let n := s.nand d die
    s.serveDie d die (n.demand.length + n.prefetch.length + n.reloc.length + n.patrol.length + 1)

/-! ## Programs and commits (R176, R213, R329, R331) -/

/-- The image is the newest of its page, and the page's write-back still waits for it. -/
def State.current (s : State) (img : Image) : Bool :=
  let e := s.ent img.page
  e.st == .writingBack && e.readDone &&
    !(s.flss.any fun f => (f.2.openW ++ f.2.programming ++ f.2.heldBack).any fun i => !i.reloc && i.page == img.page && img.seq < i.seq)

/-- The tables that an image names are in the flash system area (R213). -/
def State.persisted (s : State) (img : Image) : Bool := img.tables.all fun t => (s.table t).persisted

/-- Journals a programmed image (R329): the map entry, the header, the flash pair and the content committed. -/
def State.journalImage (s : State) (d : Nat) (img : Image) : State :=
  let place := { img.place with mapped := true }
  let s := s.saveFlash img.page
  let s : State := { s with
    fmap := tset s.fmap img.page place
    images := tset s.images img.page { head := img.head }
    flash := s.flash.copyPage s.staged img.page
    staged := s.staged.clearPages img.page 1 }
  let s := (s.setFlashPair img.page (img.tables[0]?.getD 0) (img.tables[1]?.getD 0)).journalMap d img.page true
  let s := s.modFls d fun t => { t with
    pagesWritten := (t.pagesWritten + 1) % 2 ^ 48
    heldBack := t.heldBack.map fun i => if i.page = img.page && i.seq = img.seq then { i with place } else i }
  s.count 0x0F d 0x05 { ctx := some (s.pageCtx img.page), za := some (65536 * img.page) }

/-- A programmed image: a relocation changes the entry if it still names the old place; a write-back is held until the
directory commits it, and journalled if its tables are persisted; any other is dropped (R331, R335). -/
def State.programmed (s : State) (d : Nat) (img : Image) : State :=
  if img.reloc then
    if tfind? s.fmap img.page = some img.old then
      let s := s.saveFlash img.page
      let s : State := { s with fmap := tset s.fmap img.page { img.place with mapped := true } }
      (s.journalMap d img.page).count 0x0F d 0x07 {} img.units
    else s
  else if s.current img then
    let s := s.modFls d fun t => { t with heldBack := t.heldBack ++ [img] }
    if s.persisted img then s.journalImage d img else s
  else s

/-- The oldest image of a die whose stripe wordline is being programmed, on NAND dies that no fetch has suspended (R334). -/
def State.underway (s : State) (d : Nat) : Option Image :=
  (s.fls d).programming.find? fun i =>
    let n := s.nand d i.place.die
    n.reading.isEmpty && n.program == some (i.place.key, i.place.lastWl)

/-- The program of an image's stripe wordline has ended: its die is free of it. -/
def State.endProgram (s : State) (d : Nat) (i : Image) : State :=
  s.modNand d i.place.die fun n => { n with program := none, suspends := [] }

/-- PROGRAM_COMPLETE: the oldest stripe-wordline program of the die ends. -/
def State.programDone (s : State) (d : Nat) : State :=
  match s.underway d with
  | none => s
  | some i =>
    let s := s.endProgram d i
    let same (j : Image) : Bool := j.place.key = i.place.key && j.place.lastWl = i.place.lastWl
    let done := (s.fls d).programming.filter same
    let s := s.modFls d fun t => { t with programming := t.programming.filter fun j => !same j }
    let n := s.memberCount d i.place.key
    let s := ((s.count 0x0F d 0x06 {}).fixed 0x0F d 2 n).fixed 0x0F d 3 (196608 * n)
    let s := s.each done fun s i => s.programmed d i
    if s.hep.d3hot then s.journalSaved d else s

/-- WRITEBACK_COMMIT of a page (R176): its journalled image commits in the directory. -/
def State.commitPage (s : State) (page : Nat) : State :=
  match (List.range 2).findSome? fun d =>
      ((s.fls d).heldBack.find? fun i => i.page == page && s.current i).map fun i => (d, i) with
  | none => s
  | some (d, img) =>
    if !img.place.mapped && !s.persisted img then s
    else
      let s := if img.place.mapped then s else s.journalImage d img
      let s := s.modFls d fun t => { t with heldBack := t.heldBack.filter fun i => i.page != page }
      (((s.committed page).ckptCommitted page).pageReady page).retryInvalid (pageDir page)

/-- Blocks lost to the free pool: those of the dies out of service, and those retired on the members of other dies (R337). -/
def Fls.lostBlocks (t : Fls) : Nat :=
  ((List.range 192).filter fun i => bit (tget 0 t.diesOut (i / 16)) (i % 16)).length * 8192
    + (t.blocks.map fun e => ((List.range 12).filter fun c => e.2.retired.getLsbD c && !bit (tget 0 t.diesOut c) (e.1 / 8192)).length).sum

/-- Over-provisioning left on a die in GB (R338): 13,000 less 500 GB for 8,192 blocks lost, and less the system area, a stripe block of
which takes what its eleven data members hold (R330, R337, R339, log 52). -/
def Fls.spare (t : Fls) : Nat := (13000 * 8192 - t.lostBlocks * 500 - systemTotal * 5500) / 8192

/-- LOW_SPARE and WORN follow the total of both dies (R338); a lost FLS die sets WORN too (17, what faults cost). -/
def State.settleSpare (s : State) : State :=
  let total := (s.fls 0).spare + (s.fls 1).spare
  let worn := decide (total < 3000) || (s.fls 0).lost || (s.fls 1).lost
  s.each [0, 1] fun s d => s.modFls d fun t => { t with lowSpare := total < 10000, worn }

/-- A block is retired on a member (R332, R335). -/
def State.retireMember (s : State) (d key member : Nat) : State :=
  (s.modFls d fun t =>
    let k := tget {} t.blocks key
    { t with
      blocks := tput {} t.blocks key { k with retired := orBit k.retired member } }).settleSpare

/-- PROGRAM_FAILURE (R332): the images of the wordline are staged again in the next open wordline, the block retires on the
member. -/
def State.programFail (s : State) (d member : Nat) : State :=
  match s.underway d with
  | none => s
  | some i =>
    let s := s.endProgram d i
    let key := i.place.key
    let w := i.place.lastWl
    let touch (j : Image) : Bool :=
      j.placed && j.place.key = key && j.place.unit / wordlineUnits ≤ w && w ≤ j.place.lastWl
    let again := ((s.fls d).programming ++ (s.fls d).openW).filter touch
    let s := s.modFls d fun t => { t with
      programming := t.programming.filter fun j => !touch j
      openW := t.openW.filter fun j => !touch j
      openBlk := if t.openBlk = some key then none else t.openBlk
      relocBlk := if t.relocBlk = some key then none else t.relocBlk
      err := orBit t.err 2 }
    (s.retireMember d key member).each again fun s j => s.stageImage d { j with place := {} }

/-- FLUSH_CYCLES_EXPIRY (R331): the open wordlines that hold images are padded and programmed. -/
def State.flushOpen (s : State) (d : Nat) : State :=
  let t := s.fls d
  if t.stopped || t.lost then s
  else
    let keys := ((t.openW.filter Image.placed).map fun i => i.place.key).eraseDups
    (s.modFls d fun t => { t with
      blocks := keys.foldl (fun b k => tmod {} b k fun e => { e with next := cdiv e.next wordlineUnits * wordlineUnits }) t.blocks }).closeFull d

/-! ## Fetches (R333) -/

/-- The page's fetch has a frame, or takes one now (R165). -/
def State.ensureFrame (s : State) (page : Nat) : Option State :=
  if !(s.ent page).frameLost || (s.ent page).discard then some s
  else
    let t := s.refetch page
    if (t.ent page).frameLost then none else some (t.settlePressure (pageDir page))

/-- The blocks of a fetched page enter the write buffer in their stored form (R144): from then on it serves them. -/
def State.fillBlocks (s : State) (page : Nat) (demand : Bool) : State :=
  s.each (List.range 16) fun s b =>
    s.buffer (1024 * page + 64 * b) true (.internal (if demand then .demandFill else .prefetchFill)) (s.pageCtx page) [] true

/-- The end of a page's fetch: its blocks enter the write buffer, what waited for the page proceeds, a deferred eviction is made. -/
def State.fetchEnds (s : State) (page : Nat) : State :=
  let e := s.ent page
  let s := (s.leaveDie page).fetched page
  let s := if e.discard || e.bad then s else s.fillBlocks page e.demand
  (((s.pageReady page).deferred page).ckptResume page).retryInvalid (pageDir page)

/-- The errors of failed fetches in FLS_ERR and FLS_ERR_LOG, and the image that stays unreadable (R333). -/
def State.logFetch (s : State) (page member : Nat) : State :=
  let e := s.readPlace page
  let members := s.membersOf e
  let c := 12 * e.fls + (if members.contains member then member else members.headD 0)
  { s.modFls e.fls fun t => { t with
      err := orBit t.err 1
      errLog := BitVec.ofNat 64 (page + c <<< 32 + e.die <<< 37 + e.block <<< 41) } with
    images := tmod {} s.images page fun i => { i with dead := true } }

/-- FETCH_FAILED (R167, R333): the page returns to FLASH; held requests get the bus error of their path. The CKPT_COMMITs that waited
for a restored page reply DATA_UNCORRECTABLE (log 53). -/
def State.fetchLost (s : State) (page member reason : Nat) : State :=
  let e := s.ent page
  if s.readWaits page then s
  else if e.discard then ((s.leaveDie page).fetchFail page).retryInvalid (pageDir page)
  else if e.st == .fetching && !(e.restoring && !e.onFlash) then
    let s := (s.logFetch page member).leaveDie page
    let s := s.log
      { event := 0x05, kind := 10, index := (tget {} s.fmap page).fls, ctx := s.pageCtx page, addr := 65536 * page, status := stUncorrectable
        reason, count := 1 }
    let s := (s.fetchFail page).ckptFail page stUncorrectable
    (s.failHeld page stUncorrectable).retryInvalid (pageDir page)
  else s

/-- A block joins what a die index is to relocate. -/
def State.askReloc (s : State) (d key : Nat) (few : Bool) : State :=
  let add (l : List Nat) : List Nat := if l.contains (key % 8192) then l else l ++ [key % 8192]
  s.modNand d (key / 8192) fun n => if few then { n with reloc := add n.reloc } else { n with patrol := add n.patrol }

/-- What the read of an image costs and shows (R333, R337): a codeword that is bad after every retry is rebuilt from the other members, and the
block is then relocated. With a member of the block out, the codewords on it are rebuilt, and no other can be. -/
def State.readImage (s : State) (e : MapEnt) (a : Attrs) (out retries rebuilt : Nat) : State :=
  let bad := if out = 0 then min rebuilt e.codewords.length else 0
  let s := ((s.count 0x0F e.fls 0x01 a).count 0x0F e.fls 0x02 a e.units).count 0x0F e.fls 0x04 a retries
  let s := s.countReads e retries (out + bad)
  let s := if bad = 0 then s else s.askReloc e.fls e.key false
  if out + bad = 0 then s
  else (s.modFls e.fls fun t => { t with err := orBit t.err 0 }).count 0x0F e.fls 0x03 a (out + bad)

/-- FETCH_COMPLETE (R162, R333): the page is there, after so many read-retry reads and codewords rebuilt. Its fill waits while a pseudo-channel of
its frame is frozen (R318). An image that is unreadable since an earlier fetch, or whose header is not sound, makes the fetch fail
(R327, R333). -/
def State.fetchDone (s : State) (page retries rebuilt : Nat) : State :=
  let e := s.ent page
  if (e.st == .fetching || e.discard) && !s.readWaits page then
    let fromFlash := !e.discard && !(e.restoring && !e.onFlash)
    let m := s.readPlace page
    let img := tget {} s.images page
    match fromFlash, s.imageRead m with
    | true, none => s
    | true, some out =>
      if img.dead then s.fetchLost page 12 1
      else if !img.sound m.units then s.fetchLost page 12 3
      else
        (match s.ensureFrame page with
         | none => s
         | some s =>
           if s.pageFrozen page then s
           else (s.readImage m { ctx := some (s.pageCtx page), za := some (65536 * page) } out retries rebuilt).fetchEnds page)
    | false, _ =>
      (match s.ensureFrame page with
       | none => s
       | some s => if !e.discard && s.pageFrozen page then s else s.fetchEnds page)
  else s

/-! ## Erase and lost dies (R335, R337) -/

/-- The erase of a stripe block ends, and it joins the free pool: erased, or with a member's block retired by a failed erase. -/
def State.eraseDone (s : State) (d key : Nat) (failed : Option Nat) : State :=
  let n := s.nand d (key / 8192)
  if n.erase = some (key % 8192) && n.reading.isEmpty then
    let s := s.modNand d (key / 8192) fun n => { n with erase := none, suspends := [] }
    let s := s.fixed 0x0F d 2 (s.memberCount d key)
    let s := s.modFls d fun t => { t with blocks := tmod {} t.blocks key fun k =>
      { k with free := true, next := 0, lacking := 0, reads := 0, erases := if failed.isNone then k.erases + 1 else k.erases } }
    let s := match failed with
      | some m => (s.modFls d fun t => { t with err := orBit t.err 3 }).retireMember d key m
      | none => s.count 0x0F d 0x08 {}
    s.placeWaiting d
  else s

/-- A flash die is lost or retired (R337, R425): index 16 x channel + die (R415); reason 1 a fault, 2 SVC_RETIRE. -/
def State.loseFlashDie (s : State) (index : Nat) (reason : Nat := 1) : State :=
  let c := index / 16
  let d := c / 12
  let die := index % 16
  if bit (tget 0 (s.fls d).diesOut (c % 12)) die then s
  else
    let s := s.modFls d fun t => { t with
      diesOut := tmod 0 t.diesOut (c % 12) (· ||| 1 <<< die), err := orBit t.err 4 }
    s.settleSpare.log { event := 0x08, kind := 8, index, reason }

/-- An FLS die is lost (R337): what it had staged and not committed is staged again on the other die (log 51). -/
def State.loseFls (s : State) (d : Nat) : State :=
  let t := s.fls d
  if t.lost then s
  else
    let again := (t.openW ++ t.programming ++ t.heldBack.filter fun i => !i.place.mapped).filter fun i => !i.reloc
    let s := s.modFls d fun t => { t with
      lost := true, nand := [], openW := [], programming := [], heldBack := t.heldBack.filter fun i => i.place.mapped, openBlk := none
      relocBlk := none }
    let s := s.settleSpare.log { event := 0x08, kind := 10, index := d, reason := 1 }
    if (s.fls (1 - d)).lost then s.modFls d fun t => { t with openW := again }
    else s.each again fun s i => s.stageImage (1 - d) { i with place := {} }

/-! ## Meanings -/

/-- Both FLS dies take their next work. -/
def State.serveAll (s : State) : State := (s.serve 0).serve 1

def execFetchComplete (f : FetchEnd) (s : State) : Out1 :=
  .next (if s.running then (s.fetchDone f.page.toNat f.retries.toNat f.rebuilt.toNat).serveAll else s)
def execFetchFailed (f : FetchFault) (reason : Fin 3) (s : State) : Out1 :=
  .next (if s.running then (s.fetchLost f.page.toNat f.member.val (reason.val + 1)).serveAll else s)
def execWritebackReadoutComplete (page : BitVec 32) (s : State) : Out1 :=
  .next (if s.running then (s.readOut page.toNat).serveAll else s)
def execWritebackCommit (page : BitVec 32) (s : State) : Out1 := .next (if s.running then s.commitPage page.toNat else s)
def execFlushCyclesExpiry (fls : Fin 2) (s : State) : Out1 := .next (if s.running then (s.flushOpen fls.val).serve fls.val else s)
def execProgramComplete (fls : Fin 2) (s : State) : Out1 :=
  .next (if (s.pmc.powered || (s.fls fls.val).flushDue) && !(s.fls fls.val).lost then ((s.serve fls.val).programDone fls.val).serveAll else s)
def execProgramFailure (fls : Fin 2) (member : Fin 12) (s : State) : Out1 :=
  .next (if s.pmc.powered && !(s.fls fls.val).lost then ((s.serve fls.val).programFail fls.val member.val).serveAll else s)
/-- The cluster core relocates a block that a trigger of R335 chooses; one that none chooses stays. -/
def execFlashRelocation (fls : Fin 2) (die : Fin 16) (block : BitVec 13) (s : State) : Out1 :=
  let key := 8192 * die.val + block.toNat
  .next (if s.running && s.flashCore fls.val then
      if s.gcVictim fls.val key then (s.askReloc fls.val key true).serve fls.val
      else if s.relocDue fls.val key then (s.askReloc fls.val key false).serve fls.val
      else s
    else s)
def execPatrolRead (fls : Fin 2) (die : Fin 16) (block : BitVec 13) (retried : Bool) (s : State) : Out1 :=
  let key := 8192 * die.val + block.toNat
  .next (if s.running && s.flashCore fls.val && retried && s.closedBlock fls.val key then (s.askReloc fls.val key false).serve fls.val else s)
def execEraseComplete (fls : Fin 2) (die : Fin 16) (block : BitVec 13) (s : State) : Out1 :=
  .next (if s.pmc.powered then (s.eraseDone fls.val (8192 * die.val + block.toNat) none).serve fls.val else s)
def execEraseFailure (fls : Fin 2) (die : Fin 16) (block : BitVec 13) (member : Fin 12) (s : State) : Out1 :=
  .next (if s.pmc.powered then (s.eraseDone fls.val (8192 * die.val + block.toNat) (some member.val)).serve fls.val else s)
def execFlashDieLost (die : Fin 384) (s : State) : Out1 := .next (if s.pmc.powered && !s.variantH then (s.loseFlashDie die.val).serveAll else s)
def execFlsDieLost (fls : Fin 2) (s : State) : Out1 := .next (if s.pmc.powered && !s.variantH then (s.loseFls fls.val).serveAll else s)

end Sys2Proof.Machine
end

