-- ==== Sys2Proof/Machine/Link.lean ====
section
/-!
DEFINITION. The Wenxel ports (R82-R121): states and training, flits with their CRC and FEC, retry, credits, packing and
parsing of messages, partner loss. What a parsed message does is given to the parser as a function.
-/

namespace Sys2Proof.Machine

/-! ## Lane sets (R82, R85, R86) -/

/-- The lane sets allowed at a width. -/
def laneSets : Nat → List (BitVec 4)
  | 4 => [0xF]
  | 2 => [0x3, 0xC]
  | _ => [0x1, 0x2, 0x4, 0x8]

/-- The number of lanes of a set. -/
def laneCount (l : BitVec 4) : Nat := (List.range 4).foldl (fun n i => n + b2n (l.getLsbD i)) 0

/-- The widest allowed sets within the locked lanes, none wider than a limit. -/
def widestSets (lanes : BitVec 4) (limit : Nat) : List (BitVec 4) :=
  ([4, 2, 1].filter (· ≤ limit)).findSome? (fun w =>
    let l := (laneSets w).filter fun m => m &&& lanes == m
    if l.isEmpty then none else some l) |>.getD []

/-- The width limit of MAX_WIDTH. -/
def Port.limit (p : Port) : Nat := match p.maxWidth with | 0 => 4 | 1 => 2 | _ => 1

/-! ## Flits (R88-R91) -/

/-- One step of the CRC-64 of R89 over a byte, most significant bit first (log 32). -/
def crc64Byte (c : BitVec 64) (b : Byte) : BitVec 64 :=
  go 8 (c ^^^ (b.setWidth 64 <<< 56))
where
  /-- Eight shifts. -/
  go : Nat → BitVec 64 → BitVec 64
    | 0, c => c
    | n + 1, c => go n (if c.getLsbD 63 then (c <<< 1) ^^^ 0x42F0E1EBA9EA3693 else c <<< 1)

/-- The CRC-64 of bytes (R89). -/
def crc64 (l : List Byte) : BitVec 64 := ~~~(l.foldl crc64Byte (BitVec.allOnes 64))

/-- The bytes at even or odd positions. -/
def alternate (odd : Bool) (l : List Byte) : List Byte :=
  (l.mapIdx fun i b => (i, b)).filterMap fun e => if (e.1 % 2 = 1) = odd then some e.2 else none

/-- A flit's 256 bytes from its header and payload (R88-R90). -/
def flitBytes (header : Nat) (payload : BitVec 1792) : BitVec 2048 :=
  let body := leBytes 8 header ++ leBytes 224 payload.toNat
  let data := body ++ leBytes 8 (crc64 body).toNat
  BitVec.ofNat 2048 (leNat (data ++ rsCheck (alternate false data) ++ rsCheck (alternate true data)))

/-- Credits that go back in a flit: at most 63 slots of each of two VCs (R90, R98). -/
def Port.creditReturns (p : Port) : List (Nat × Nat) :=
  (((List.range 4).filter fun v => tget 0 p.owed v != 0).take 2).map fun v => (v, min 63 (tget 0 p.owed v))

/-- A flit's header: FTYPE, SEQ, ACK and the credit returns. DESIGN CHOICE (log 146): before any DATA flit has been accepted every flit, a
RETRY_REQ too, carries ACK 0 with ACK_VALID 0. -/
def Port.header (p : Port) (ftype seq slotcode : Nat) (credits : List (Nat × Nat)) : Nat :=
  let a := credits[0]?.getD (0, 0)
  let b := credits[1]?.getD (0, 0)
  ftype + seq <<< 4 + (p.rxExpect - 1).toNat <<< 16 * b2n p.rxAny + (b2n p.rxAny) <<< 28 + a.1 <<< 30 + a.2 <<< 32 +
    b.1 <<< 38 + b.2 <<< 40 + slotcode <<< 48

/-! ## The scrambler (R84, log 12) -/

/-- One step of the register of x^23 + x^21 + x^16 + x^8 + x^5 + x^2 + 1: its output bit, and the register after it. -/
def scrambleBit (r : BitVec 23) : Bool × BitVec 23 :=
  let bit := r.getLsbD 22 ^^ r.getLsbD 20 ^^ r.getLsbD 15 ^^ r.getLsbD 7 ^^ r.getLsbD 4 ^^ r.getLsbD 1
  (r.getLsbD 22, (r <<< 1) ||| (if bit then 1 else 0))

/-- The eight scrambler bits of a byte, the least significant first, and the register after them. -/
def scrambleByte (r : BitVec 23) : Byte × BitVec 23 :=
  (List.range 8).foldl (fun (a : Byte × BitVec 23) i =>
    let o := scrambleBit a.2
    (if o.1 then a.1 ||| BitVec.ofNat 8 (1 <<< i) else a.1, o.2)) (0, r)

/-- A lane's bytes scrambled, and the register after them. -/
def scramble : BitVec 23 → List Byte → List Byte × BitVec 23
  | r, [] => ([], r)
  | r, b :: t =>
    let o := scrambleByte r
    let q := scramble o.2 t
    ((b ^^^ o.1) :: q.1, q.2)

/-- The bytes of a flit that the k-th of `width` active lanes carries. -/
def laneBytes (bytes : List Byte) (width k : Nat) : List Byte :=
  (bytes.mapIdx fun i b => (i, b)).filterMap fun e => if e.1 % width = k then some e.2 else none

/-- What each active lane carries of a flit, in ascending lane order (R84). -/
def dealt (r : BitVec 23) (bytes : List Byte) (width : Nat) : List (List Byte) :=
  (List.range width).map fun k => (scramble r (laneBytes bytes width k)).1

/-- The register after a lane has carried its bytes of a flit. -/
def scramblerAfter (r : BitVec 23) (width : Nat) : BitVec 23 :=
  (scramble r (List.replicate (256 / max width 1) 0)).2

/-- Sends one flit with credit returns: every type carries ACK and credit returns (R91); the lanes are scrambled (R84). -/
def State.sendFlit (s : State) (port ftype seq slotcode : Nat) (payload : BitVec 1792) (credits : List (Nat × Nat)) : State :=
  let p := s.port port
  let bytes := flitBytes (p.header ftype seq slotcode credits) payload
  let width := laneCount p.lanes
  let s := s.emit (.flit port ftype bytes (dealt p.scrambler (leBytes 256 bytes.toNat) width))
  s.modPort port fun p => { p with scrambler := scramblerAfter p.scrambler width }

/-- Sends one flit that is no replay: it carries the credits owed now. -/
def State.sendNew (s : State) (port ftype seq slotcode : Nat) (payload : BitVec 1792) : State :=
  (s.sendFlit port ftype seq slotcode payload (s.port port).creditReturns).modPort port fun p =>
    { p with owed := p.creditReturns.foldl (fun t e => tmod 0 t e.1 (· - e.2)) p.owed }

/-! ## The capability exchange (R85, R95, R96) -/

/-- A port that has sent and received CAPS flits leaves CAPS: to ACTIVE with the credits and the version in force, or, the major
versions being unlike, to VERSION_MISMATCH, which LNK_PORT_ERR reports to the PF. -/
def Port.capsDone (p : Port) : Port :=
  if p.st != .caps || p.capsDue || !p.capsRx then p
  else if p.partnerVersion.toNat / 16 = 1 then
    { p with
      st := .active, version := 0x10, linkUps := (p.linkUps + 1) % 2 ^ 16, txCred := p.capsCred, txCredInit := p.capsCred
      owed := [], txSeq := 0, replay := [], toReplay := 0, rxExpect := 0, rxAny := false, rxWait := false, retryReqDue := false
      failedRetries := 0, rxOrd := [], rxTan := [], txOrd := [], txCur := none, txPart := [], txTan := [], txTanCur := none
      txTanPart := [], tags := [] }
  else { p with st := .versionMismatch, err := orBit p.err 0 }

/-- The payload of the CAPS flit (R95). -/
def capsPayload (port : Nat) (lanes : BitVec 4) : BitVec 1792 :=
  BitVec.ofNat 1792 (leNat ([0x10, 0] ++ leBytes 2 0x1F3D ++ leBytes 2 0x2520 ++ leBytes 1 port ++ leBytes 1 lanes.toNat ++
    leBytes 2 2048 ++ leBytes 2 2048 ++ leBytes 2 256 ++ leBytes 2 512 ++ leBytes 2 512 ++ leBytes 2 4096))

/-- Sends the CAPS flit. -/
def State.sendCaps (s : State) (port : Nat) : State :=
  (s.sendNew port 2 0 0 (capsPayload port (s.port port).lanes)).modPort port fun p => { p with capsDue := false }.capsDone

/-! ## Sending messages (R92, R98, R100) -/

/-- What the next slots of a flit hold: slot codes and contents, and the port after them. -/
structure Packed where
  port  : Port
  slots : List (Nat × BitVec 256) := []
  sent  : List TxMsg := []

/-- The first ordinary message whose VC has credits for all of its slots; order within a VC is kept. -/
def Port.nextOrdinary (p : Port) : Option TxMsg :=
  go p [] p.txOrd
where
  /-- Passes over a message without credit, and over every later one of its VC. -/
  go (p : Port) (blocked : List Nat) : List TxMsg → Option TxMsg
    | [] => none
    | m :: t =>
      if !blocked.contains m.vc && m.slots.length ≤ tget 0 p.txCred m.vc then some m else go p (m.vc :: blocked) t

/-- Fills one slot: a Tangent message goes first and may come in the middle of an ordinary one (R100). -/
def Packed.fill (k : Packed) : Packed :=
  let p := k.port
  match p.txTanPart with
  | v :: rest =>
    { port := { p with txTanPart := rest, txTanCur := if rest.isEmpty then none else p.txTanCur }
      slots := k.slots ++ [(2, v)]
      sent := if rest.isEmpty then k.sent ++ p.txTanCur.toList else k.sent }
  | [] =>
    let tan := match p.txTan with
      | m :: rest => if m.slots.length ≤ tget 0 p.txCred 3 then some (m, rest) else none
      | [] => none
    match tan with
    | some (m, rest) =>
      let more := m.slots.drop 1
      { port := { p with txTan := rest, txTanPart := more, txTanCur := if more.isEmpty then none else some m
                         txCred := tmod 0 p.txCred 3 (· - m.slots.length) }
        slots := k.slots ++ [(2, m.slots.headD 0)]
        sent := if more.isEmpty then k.sent ++ [m] else k.sent }
    | none =>
      let p := if p.txPart.isEmpty then
          match p.nextOrdinary with
          | some m => { p with txCur := some m, txPart := m.slots, txOrd := p.txOrd.erase m
                               txCred := tmod 0 p.txCred m.vc (· - m.slots.length) }
          | none => p
        else p
      match p.txPart with
      | [] => { k with port := p, slots := k.slots ++ [(0, 0)] }
      | v :: rest =>
        { k with
          port := { p with txPart := rest, txCur := if rest.isEmpty then none else p.txCur }
          slots := k.slots ++ [(1, v)]
          sent := if rest.isEmpty then k.sent ++ p.txCur.toList else k.sent }

/-- Packs the seven slots of a DATA flit. -/
def Port.packFlit (p : Port) : Packed := (List.range 7).foldl (fun k _ => k.fill) { port := p }

/-- A message's last slot has entered a DATA flit (R60, R108, R113, R116): a request's timer starts, a command or a partner's request
has been answered. -/
def State.messageSent (s : State) (port : Nat) (m : TxMsg) : State :=
  let s := match m.frees with
    | some t => s.freeTag port t
    | none => s
  let s := match m.reqTag with
    | some t => s.modPort port fun p => { p with reqs := p.reqs.map fun e => if e.1 = t then (e.1, { e.2 with sent := true }) else e }
    | none => s
  match m.cmd with
  | some id => { s with cmds := s.cmds.filter fun c => c.id != id }
  | none => s

/-- One flit time of a port (R91, R92): RETRY_REQ, a replay with the credit returns of its first sending, a new DATA flit, or IDLE; CAPS
flits before the port is ACTIVE. -/
def State.transmit (s : State) (port : Nat) : State :=
  let p := s.port port
  match p.st with
  | .caps => if p.capsDue then s.sendCaps port else s
  | .versionMismatch => if p.capsDue then s.sendCaps port else s
  | .active =>
    if p.retryReqDue then
      let s := (s.sendNew port 3 0 0 0).modPort port fun p => { p with retryReqDue := false }
      s.count 0x08 (port / 4) 0x10 { port := some port }
    else
      match p.replay[p.replay.length - p.toReplay]? with
      | some f =>
        let s := (s.sendFlit port 1 f.seq.toNat f.slotcode.toNat f.payload f.credits).modPort port fun p => { p with toReplay := p.toReplay - 1 }
        s.count 0x08 (port / 4) 0x11 { port := some port }
      | none =>
        let k := p.packFlit
        if 512 ≤ p.replay.length || k.slots.all (fun e => e.1 == 0) then s.sendNew port 0 0 0 0
        else
          let code := (k.slots.mapIdx fun i e => e.1 <<< (2 * i)).sum
          let payload : BitVec 1792 := BitVec.ofNat 1792 (k.slots.mapIdx fun i e => e.2.toNat <<< (256 * i)).sum
          let s := s.modPort port fun _ => k.port
          let s := s.sendNew port 1 p.txSeq.toNat code payload
          let s := s.modPort port fun q => { q with
            txSeq := p.txSeq + 1
            replay := q.replay ++ [{ seq := p.txSeq, slotcode := BitVec.ofNat 14 code, payload, credits := k.port.creditReturns }] }
          s.each k.sent fun s m => s.messageSent port m
  | _ => s

/-! ## Partner loss (R118-R120) -/

/-- Revokes the leases that a port holds: each line is poisoned LEASE_LOST; one record for each leasing context (R119,
R120, R421). -/
def State.revokeLeases (s : State) (port : Nat) : State :=
  let mine := s.leases.filter fun e => e.2.port == port
  let s := s.modPort port fun p => { p with leasesRevoked := mine.length }
  let s := s.each mine fun s e => (s.endLease e.1).poisonLine e.1 2 7
  let ctxs := (mine.map fun e => e.2.ctx).eraseDups
  s.each ctxs fun s c =>
    let own := mine.filter fun e => e.2.ctx == c
    s.log { event := 0x04, kind := 7, index := port, ctx := c, addr := (own.map fun e => e.2.la).headD 0, reason := 1
            count := own.length }

/-- Declares partner loss on a port (R118, R119). -/
def State.loseLink (s : State) (port reason : Nat) : State :=
  let p : Port := s.port port
  let answered := (p.txOrd ++ p.txCur.toList).filterMap (·.cmd)
  let xfers := (p.reqs.filterMap fun e => match e.2.use with | .xfer x _ _ _ _ => some x | _ => none).eraseDups
  let s : State := s.modPort port fun p => { p with
    st := .lost, lossReason := reason, lossCount := (p.lossCount + 1) % 2 ^ 31
    err := orBit p.err 1, lanes := 0, laneOk := 0
    txOrd := [], txCur := none, txPart := [], txTan := [], txTanCur := none, txTanPart := [], rxOrd := [], rxTan := []
    replay := [], toReplay := 0, owed := [], txCred := [], retryReqDue := false, rxWait := false, failedRetries := 0
    rxExpect := 0, rxAny := false }
  let s : State := { s with cmds := (s.cmds.filter fun c => !answered.contains c.id).map fun c =>
    match c.via with
    | .link q _ _ => if q.val = port then { c with lost := true } else c
    | .aperture _ => c }
  -- requests that had arrived are executed in full; their responses are discarded
  let s : State := s.each (s.held.filter fun q => q.port? == some port && q.atRegulator) fun s q => s.releaseHeld q false
  let s : State := { s with held := s.held.filter fun q =>
    !(q.port? == some port && (match q.hold with | .miss _ => true | _ => false)) }
  let s : State := s.each xfers fun s x => s.failXfer x stPartnerLost
  let s : State := s.modPort port fun p => { p with reqs := p.reqs.filterMap fun e => match e.2.use with
    | .recallReq _ => none
    | _ => some (e.1, { use := .quarantined, sent := e.2.sent }) }
  let s : State := s.revokeLeases port
  (s.log { event := 0x08, kind := 7, index := port, reason := 1 }).settle

/-- The port starts training: DETECT (R85); nothing has been received of a new link (R90). -/
def Port.detect (p : Port) : Port :=
  { p with st := .detect, lanes := 0, laneOk := 0, noSignal := false, capsDue := false, capsRx := false, rxExpect := 0, rxAny := false }

/-- Takes a port to OFF at once, with nothing kept of its link (R121). -/
def Port.off (p : Port) : Port :=
  { p with st := .off, lanes := 0, laneOk := 0, noSignal := false, capsDue := false, capsRx := false, txOrd := [], txCur := none
           txPart := [], txTan := [], txTanCur := none, txTanPart := [], rxOrd := [], rxTan := [], replay := [], toReplay := 0, owed := [], txCred := []
           retryReqDue := false, rxWait := false, failedRetries := 0, tags := [], rxExpect := 0, rxAny := false }

/-- The boot has reached link training, and the lanes may be driven (R85, R121). -/
def State.linkStage (s : State) : Bool := s.pmc.powered && !s.pmc.fatal && 6 ≤ s.pmc.stage && !s.hep.d3hot

/-- Enters RECOVERY (R85). -/
def State.recover (s : State) (port : Nat) (widen : Bool) : State := s.modPort port fun p => { p with st := .recovery, widen }

/-! ## Receiving (R87, R92-R94) -/

/-- A failed retry (R94): the eighth in a row is partner loss. -/
def State.failRetry (s : State) (port : Nat) : State :=
  let n := (s.port port).failedRetries + 1
  if 8 ≤ n then s.loseLink port 2 else s.modPort port fun p => { p with failedRetries := n }

/-- Waits for a replay: a RETRY_REQ is due. -/
def Port.waitReplay (p : Port) : Port := { p with rxWait := true, retryReqDue := true }

/-- A flit that failed its CRC or FEC (R92, R94): a first failure asks for a replay; while one is awaited, that of the replay's first
flit is a failed retry and asks again, and any other flit is discarded alike (log 31). -/
def State.badFlit (s : State) (port : Nat) (first : Bool) : State :=
  let s := s.count 0x08 (port / 4) 0x0F { port := some port }
  if !(s.port port).rxWait then s.modPort port Port.waitReplay
  else if first then
    let s := s.failRetry port
    if (s.port port).st == .active then s.modPort port Port.waitReplay else s
  else s

/-- Takes the ACK of a flit (R92): flits it covers leave the replay buffer. -/
def Port.takeAck (p : Port) (valid : Bool) (ack : BitVec 12) : Port :=
  if valid then
    let r := p.replay.filter fun f => 2048 ≤ (ack - f.seq).toNat
    { p with replay := r, toReplay := min p.toReplay r.length }
  else p

/-- Takes the credit returns of a flit (R98); none where a count would rise above its initial value (R87). -/
def Port.takeCredits (p : Port) (l : List (Nat × Nat)) : Option Port :=
  l.foldl (fun (a : Option Port) e => match a with
    | none => none
    | some p =>
      let v := tget 0 p.txCred e.1 + e.2
      if tget 0 p.txCredInit e.1 < v then none else some { p with txCred := tput 0 p.txCred e.1 v }) (some p)

/-- ACK and credits of a good flit in ACTIVE: false on a protocol error. -/
def State.flitCommon (s : State) (port : Nat) (f : Flit) : Bool × State :=
  match (s.port port).takeCredits [(f.craVc.toNat, f.craCnt.toNat), (f.crbVc.toNat, f.crbCnt.toNat)] with
  | some p => (true, s.modPort port fun _ => p.takeAck f.ackValid f.ack)
  | none => (false, s.loseLink port 3)

/-- The slots of a message, from its first slot (R100); none where it cannot be parsed. A reserved opcode's message is one
slot (log 33). -/
def messageSlots (h : Nat) : Option Nat :=
  match bits h 5 0 with
  | 0x03 => some (3 + 2 * bits h 109 104)
  | 0x04 => some (if bit h 26 then 1 else 3)
  | 0x05 => some (if bits h 115 112 = 8 then 3 else 1)
  | 0x06 => some 129
  | 0x07 => some 3
  | 0x20 => (match bits h 63 62 with
    | 0 => some (3 + 2 * bits h 69 64)
    | 1 => some 1
    | 2 => some 2
    | _ => none)
  | _ => some 1

/-- Takes one slot of a stream: the slots kept so far, or a protocol error, and a message when it is whole. -/
def takeSlot (tangent : Bool) (part : List (BitVec 256)) (v : BitVec 256) : Option (List (BitVec 256) × Option (List (BitVec 256))) :=
  let all := part ++ [v]
  let h := (all.headD 0).toNat
  if part.isEmpty && (bits h 7 6 = 3) != tangent then none
  else
    match messageSlots h with
    | none => none
    | some n => if all.length = n then some ([], some all) else some (all, none)

/-- Takes the seven slots of an accepted DATA flit in order; `deliver` is what a whole message does. -/
def State.takeSlots (s : State) (port : Nat) (deliver : State → Nat → List (BitVec 256) → State) :
    List (Nat × BitVec 256) → State
  | [] => s
  | (code, v) :: rest =>
    if (s.port port).st != .active then s
    else if code = 0 then s.takeSlots port deliver rest
    else if code = 3 then s.loseLink port 3
    else
      let tan := code = 2
      match takeSlot tan (if tan then (s.port port).rxTan else (s.port port).rxOrd) v with
      | none => s.loseLink port 3
      | some (part, msg) =>
        let s := s.modPort port fun p => if tan then { p with rxTan := part } else { p with rxOrd := part }
        (match msg with
         | some m => deliver s port m
         | none => s).takeSlots port deliver rest

/-- The slots of a flit with their codes. -/
def flitSlots (f : Flit) : List (Nat × BitVec 256) :=
  (List.range 7).map fun i => (bits f.slotcode.toNat (2 * i + 1) (2 * i), BitVec.ofNat 256 (f.payload.toNat >>> (256 * i)))

/-! ## Receiving a flit (R84, R88-R91) -/

/-- The header that a partner sent with a flit of a type. -/
def flitHeader (f : Flit) (ftype : Nat) : Nat :=
  let r := f.rsv.toNat
  ftype + f.seq.toNat <<< 4 + f.ack.toNat <<< 16 + (b2n f.ackValid) <<< 28 + (r % 2) <<< 29 + f.craVc.toNat <<< 30 +
    f.craCnt.toNat <<< 32 + f.crbVc.toNat <<< 38 + f.crbCnt.toNat <<< 40 + (bits r 2 1) <<< 46 + f.slotcode.toNat <<< 48 +
    (bits r 4 3) <<< 62

/-- The flit that a header and a payload spell; a receiver ignores the reserved header bits (R91). -/
def flitOf (h : Nat) (payload : BitVec 1792) : Nat × Flit :=
  (bits h 3 0,
   { seq := BitVec.ofNat 12 (bits h 15 4), ack := BitVec.ofNat 12 (bits h 27 16), ackValid := bit h 28
     craVc := BitVec.ofNat 2 (bits h 31 30), craCnt := BitVec.ofNat 6 (bits h 37 32), crbVc := BitVec.ofNat 2 (bits h 39 38)
     crbCnt := BitVec.ofNat 6 (bits h 45 40), slotcode := BitVec.ofNat 14 (bits h 61 48), payload })

/-- What the FEC makes of wrong bytes (R88): those left wrong in bytes 0-239, and the symbols corrected; none where a codeword is
uncorrectable. The codes are linear, so what is corrected follows from the wrong bytes alone. -/
def fecResidue (noise : List Byte) : Option (List Byte × Nat) :=
  let word (odd : Bool) : List Nat :=
    ((alternate odd (noise.take 240)) ++ (noise.drop (if odd then 248 else 240)).take 8).map (·.toNat)
  match rsErrors (word false), rsErrors (word true) with
  | some a, some b =>
    let fix (l : List (Nat × Nat)) (odd : Bool) (v : List Byte) : List Byte :=
      l.foldl (fun v e => if e.1 < 120 then v.modify (2 * e.1 + b2n odd) (· ^^^ BitVec.ofNat 8 e.2) else v) v
    some (fix b true (fix a false (noise.take 240)), a.length + b.length)
  | _, _ => none

/-- A flit as the receiver reads it after FEC and CRC (R88, R89), with the symbols corrected: none where it fails either. -/
def received (ftype : Nat) (f : Flit) : Option (Nat × Flit × Nat) :=
  if f.noise = 0 then some (ftype, f, 0)
  else
    match fecResidue (leBytes 256 f.noise.toNat) with
    | none => none
    | some (wrong, n) =>
      let sent := leBytes 240 (flitBytes (flitHeader f ftype) f.payload).toNat
      let got := List.zipWith (fun (a b : Byte) => a ^^^ b) sent wrong
      if (crc64 (got.take 232)).toNat = leNat (got.drop 232) then
        let g := flitOf (leNat (got.take 8)) (BitVec.ofNat 1792 (leNat ((got.drop 8).take 224)))
        some (g.1, g.2, n)
      else none

/-- A DATA flit in ACTIVE (R93). DESIGN CHOICE (log 131): of a flit that is discarded, ahead of E or a duplicate, nothing is used: neither
its ACK nor its credit returns. -/
def State.dataFlit (s : State) (port : Nat) (f : Flit) (deliver : State → Nat → List (BitVec 256) → State) : State :=
  let d := (f.seq - (s.port port).rxExpect).toNat
  if d = 0 then
    let o := s.flitCommon port f
    if o.1 then
      (o.2.modPort port fun p => { p with rxExpect := p.rxExpect + 1, rxAny := true, rxWait := false, failedRetries := 0 }).takeSlots
        port deliver (flitSlots f)
    else o.2
  else if d < 512 then (if (s.port port).rxWait then s else s.modPort port Port.waitReplay)
  else if 3584 ≤ d then s
  else s.loseLink port 3

/-- An IDLE flit in ACTIVE (R87, R91): an ordinary or Tangent message that is not whole at it is a protocol error only when
the stream has ended, which an IDLE flit between DATA flits of one message does not say: the model reads R87 as a message
unfinished at an IDLE flit while no replay is awaited (log 33). -/
def State.idleFlit (s : State) (port : Nat) (f : Flit) : State :=
  let o := s.flitCommon port f
  if o.1 && !(s.port port).rxWait && !((s.port port).rxOrd.isEmpty && (s.port port).rxTan.isEmpty) then o.2.loseLink port 3
  else o.2

/-- A RETRY_REQ flit in ACTIVE (R92). -/
def State.retryFlit (s : State) (port : Nat) (f : Flit) : State :=
  let o := s.flitCommon port f
  if o.1 then o.2.modPort port fun p => { p with toReplay := p.replay.length } else o.2

/-- A CAPS flit in CAPS (R85, R95, R96): the partner's record is kept, and the port leaves CAPS once its own CAPS flit has been sent.
DESIGN CHOICE (log 132): PARTNER_ROLE takes the low two bits of a reserved ROLE. -/
def State.capsFlit (s : State) (port : Nat) (f : Flit) : State :=
  let b (i n : Nat) : Nat := (f.payload.toNat >>> (8 * i)) % 2 ^ (8 * n)
  s.modPort port fun p => { p with
    partnerVersion := BitVec.ofNat 8 (b 0 1), partnerRole := BitVec.ofNat 2 (b 1 1), partnerDev := BitVec.ofNat 16 (b 4 2)
    capsRx := true, capsCred := [(0, b 8 2), (1, b 10 2), (2, b 12 2), (3, b 14 2)].filter fun e => e.2 != 0 }.capsDone

/-- A flit that passed its CRC, by its FTYPE (R91); in CAPS only CAPS flits matter. A reserved type is discarded and counted. -/
def State.goodFlit (s : State) (port ftype : Nat) (f : Flit) (deliver : State → Nat → List (BitVec 256) → State) : State :=
  if 4 ≤ ftype then s.modPort port fun p => { p with rsvFlits := p.rsvFlits + 1 }
  else
    match (s.port port).st, ftype with
    | .active, 0 => s.idleFlit port f
    | .active, 1 => s.dataFlit port f deliver
    | .active, 2 => (s.flitCommon port f).2
    | .active, _ => s.retryFlit port f
    | .caps, 2 => s.capsFlit port f
    | _, _ => s

/-- A port in this state has its lanes in lock and reads what arrives. -/
def PortSt.listens (p : PortSt) : Bool := p == .caps || p == .active || p == .versionMismatch

/-- A flit arrives (R88-R94): descrambled, through FEC and CRC, and used if it passes them. -/
def State.rxFlit (s : State) (port ftype : Nat) (f : Flit) (deliver : State → Nat → List (BitVec 256) → State) : State :=
  if !(s.port port).st.listens then s
  else
    match received ftype f with
    | some (t, g, n) => (if n = 0 then s else s.count 0x08 (port / 4) 0x0E { port := some port } n).goodFlit port t g deliver
    | none => if (s.port port).st == .active then s.badFlit port (ftype = 1 && f.seq = (s.port port).rxExpect) else s

/-! ## Meanings -/

/-- An event of a port that has power and clocks. -/
def State.portEvent (s : State) (port : Nat) (f : Port → State) : Host.Outcome State Fault Refusal :=
  .next (if s.linkStage then f (s.port port) else s)

def execCapsResendTimer (port : Fin 16) (s : State) : Host.Outcome State Fault Refusal :=
  s.portEvent port.val fun p => if p.st == .caps || p.st == .versionMismatch then s.sendCaps port.val else s

/-- RETRY_TIMEOUT (R94), one failed retry: on the receive side the RETRY_REQ goes out again, on the transmit side every unacknowledged flit
is replayed. The event does not say which timer ran out where both run: a free value (log 72). -/
def execRetryTimeout (port : Fin 16) (s : State) : Host.Outcome State Fault Refusal :=
  s.portEvent port.val fun p =>
    if p.st == .active && (p.rxWait || !p.replay.isEmpty) then
      let f := s.takeFree
      let rx := p.rxWait && (p.replay.isEmpty || f.1 % 2 = 1)
      let s := f.2.failRetry port.val
      if (s.port port.val).st != .active then s
      else s.modPort port.val fun q => if rx then q.waitReplay else { q with toReplay := q.replay.length }
    else s

def execSignalDetect (port : Fin 16) (lanes : BitVec 4) (s : State) : Host.Outcome State Fault Refusal :=
  s.portEvent port.val fun p =>
    if p.st == .detect && lanes != 0 then s.modPort port.val fun p => { p with st := .train, noSignal := false } else s

/-- The set taken among the widest allowed is the device's choice where several are (R85, log 1). -/
def State.takeLanes (s : State) (port : Nat) (lanes : BitVec 4) (limit : Nat) (f : BitVec 4 → Port → Port) : State :=
  match s.pickOf (widestSets lanes limit) with
  | (some l, s) => s.modPort port (f l)
  | (none, _) => s

def execTrainLock (port : Fin 16) (lanes : BitVec 4) (s : State) : Host.Outcome State Fault Refusal :=
  s.portEvent port.val fun p =>
    if p.st == .train then
      s.takeLanes port.val lanes p.limit fun l p =>
        { p with st := .caps, lanes := l, laneOk := lanes, trainFails := 0, capsDue := true, capsRx := false, scrambler := BitVec.allOnes 23 }
    else s

def execTrainTimeout (port : Fin 16) (s : State) : Host.Outcome State Fault Refusal :=
  s.portEvent port.val fun p =>
    if p.st == .train then
      s.modPort port.val fun p => { p.detect with
        trainFails := p.trainFails + 1, err := if (p.trainFails + 1) % 3 = 0 then orBit p.err 3 else p.err }
    else s

def execCapsTimeout (port : Fin 16) (s : State) : Host.Outcome State Fault Refusal :=
  s.portEvent port.val fun p => if p.st == .caps then s.modPort port.val Port.detect else s

def execLaneLockLoss (port : Fin 16) (lanes : BitVec 4) (s : State) : Host.Outcome State Fault Refusal :=
  s.portEvent port.val fun p =>
    let t := s.modPort port.val fun p => { p with laneOk := p.laneOk &&& ~~~lanes }
    if p.st == .active && p.lanes &&& lanes != 0 then t.recover port.val false
    else if p.st == .recovery then t
    else s

/-- RECALLs that wait go before every other message not yet begun (R112). -/
def Port.recallsFirst (p : Port) : Port :=
  let isRecall (m : TxMsg) : Bool := match m.reqTag.bind (tfind? p.reqs) with
    | some { use := .recallReq _, .. } => true
    | _ => false
  { p with txOrd := p.txOrd.filter isRecall ++ p.txOrd.filter fun m => !isRecall m }

def execRecoveryLock (port : Fin 16) (lanes : BitVec 4) (s : State) : Host.Outcome State Fault Refusal :=
  s.portEvent port.val fun p =>
    if p.st == .recovery then
      let limit := if p.widen then p.limit else min p.limit (laneCount p.lanes)
      let t := s.takeLanes port.val lanes limit fun l p =>
        { p with st := .active, lanes := l, laneOk := lanes, toReplay := p.replay.length, scrambler := BitVec.allOnes 23
                 widen := false, err := if laneCount l < laneCount p.lanes then orBit p.err 2 else p.err }.recallsFirst
      if laneCount (t.port port.val).lanes < laneCount p.lanes then
        t.log { event := 0x07, kind := 7, index := port.val, reason := 2 }
      else t
    else s

def execRecoveryTimeout (port : Fin 16) (s : State) : Host.Outcome State Fault Refusal :=
  s.portEvent port.val fun p => if p.st == .recovery then s.loseLink port.val 4 else s

def execLockLossHoldExpiry (port : Fin 16) (s : State) : Host.Outcome State Fault Refusal :=
  s.portEvent port.val fun p => if p.st == .recovery && p.laneOk &&& p.lanes == 0 then s.loseLink port.val 1 else s

/-- LOST_CLEANUP_COMPLETE (R85, R119): no request of the lost partner may be left; the port's tags start afresh. -/
def execLostCleanupComplete (port : Fin 16) (s : State) : Host.Outcome State Fault Refusal :=
  .next (if s.pmc.powered && (s.port port.val).st == .lost && !(s.held.any fun q => q.port? == some port.val) then
      s.modPort port.val fun p => if p.enable && !s.hep.d3hot then { p.detect with tags := [] } else p.off
    else s)

def execLossOfSignal (port : Fin 16) (s : State) : Host.Outcome State Fault Refusal :=
  s.portEvent port.val fun p => if p.st == .versionMismatch then s.modPort port.val Port.detect else s

/-- The effect of ENABLE = 1. -/
def State.enablePort (s : State) (port : Nat) : State :=
  s.modPort port fun p =>
    let p := { p with enable := true }
    if p.st == .off && s.linkStage then p.detect else p

/-- The effect of ENABLE = 0 (R85). -/
def State.disablePort (s : State) (port : Nat) : State :=
  let s := s.modPort port fun p => { p with enable := false }
  match (s.port port).st with
  | .active => s.loseLink port 5
  | .recovery => s.loseLink port 5
  | .lost => s
  | _ => s.modPort port Port.off

/-- The effect of writing RETRAIN = 1 (R85, R86). -/
def State.retrainPort (s : State) (port : Nat) : State :=
  match (s.port port).st with
  | .active => s.recover port true
  | .versionMismatch => s.modPort port Port.detect
  | _ => s

/-- ENABLE and RETRAIN are writes of the PF's BAR0 (R351). -/
def execPortEnable (port : Fin 16) (s : State) : Host.Outcome State Fault Refusal :=
  .next (s.barWrite 0 fun s => if s.running then s.enablePort port.val else s)

def execPortDisable (port : Fin 16) (s : State) : Host.Outcome State Fault Refusal :=
  .next (s.barWrite 0 fun s => if s.running then s.disablePort port.val else s)

def execRetrain (port : Fin 16) (s : State) : Host.Outcome State Fault Refusal :=
  .next (s.barWrite 0 fun s => if s.running then s.retrainPort port.val else s)

def execDetectNoSignalTimeout (port : Fin 16) (s : State) : Host.Outcome State Fault Refusal :=
  s.portEvent port.val fun p => if p.st == .detect then s.modPort port.val fun p => { p with noSignal := true } else s

end Sys2Proof.Machine
end

