-- ==== Sys2Proof/Machine/Hbm.lean ====
section
/-!
DEFINITION. HBM maintenance (R302-R322, R416, R417): refresh and temperature bands, the scrubber and the reports it and the
reads make, line remap, freezing, retirement and rebuild of pseudo-channels, stacks and memory dies, and the fatal condition.
-/

namespace Sys2Proof.Machine

/-! ## The fatal condition (R121, R371, R417, R421) -/

/-- The device becomes fatal by a condition of R417, numbered 1-5 in the order listed: the record, up to 15 records before it
for the store, Uncorrectable Internal Error and ERR_FATAL on the PF, every port OFF without clean-up. -/
def State.goFatal (s : State) (cond : Nat) : State :=
  if s.pmc.fatal then s
  else
    let s := s.log { event := 0x0C, reason := cond }
    let n := s.elog.next
    let recs := ((List.range 16).map fun j => s.elog.get ((n + 2 ^ 32 - 16 + j) % 2 ^ 32)).filter (· != 0)
    let s := (s.modElog fun l => { l with fatal := recs }).modPmc fun p => { p with fatal := true }
    let s := s.modFn 0 fun f => f.logUnc 22
    let s := if bit (s.fn 0).aerUncMask.toNat 22 then s else s.errMessage (if bit (s.fn 0).aerUncSev.toNat 22 then .errFatal else .aer 0 false 22)
    s.each (List.range 16) fun s p => s.modPort p Port.off

/-! ## Refresh and bands (R303, R304) -/

/-- The band after a sensor reading: entered at 85 and 95 degrees, left below 82 and 92. -/
def bandOf (band temp : Nat) : Nat :=
  if 95 ≤ temp then 2
  else if band = 2 && 92 ≤ temp then 2
  else if 85 ≤ temp then 1
  else if band ≠ 0 && 82 ≤ temp then 1
  else 0

/-- The interface delay codes in force at a pin of a pseudo-channel: those that the delay registers hold for its band (R304, R305). -/
def Stack.delayAt (t : Stack) (k p pin : Nat) : Option (Nat × Nat × Nat) :=
  if t.delays then some (Config.delayCode k (tget 0 t.pcBand p) (36 * p + pin)) else none

/-- The refresh of a pseudo-channel. While a band change is due and it is its turn, the refresh is the window of the change: an all-bank
refresh in which it loads the delays of the new band; with the last one the band is in force (R304). -/
def Stack.refresh (t : Stack) (p bank : Nat) : Stack :=
  let t := { t with refreshed := tput 0 t.refreshed p bank }
  if (lowest (fun q => tget 0 t.pcBand q ≠ t.bandTo) 0 64) = some p then
    let t := { t with pcBand := tput 0 t.pcBand p t.bandTo }
    if (List.range 64).all fun q => tget 0 t.pcBand q = t.bandTo then
      { t with band := t.bandTo, switches := if t.band = t.bandTo then t.switches else (t.switches + 1) % 65536 }
    else t
  else t

def execRefresh (stack : Fin 20) (pc : Fin 64) (bank : Nat) (s : State) : Out1 :=
  .next (if s.running && (s.stack stack.val).st ≠ 2 then s.modStack stack.val fun t => t.refresh pc.val bank else s)

def execTempSensorRead (stack : Fin 20) (temp : BitVec 8) (s : State) : Out1 :=
  .next (if s.running then
      s.modStack stack.val fun t => { t with bandTo := bandOf t.band temp.toNat, temp := temp.toNat }
    else s)

/-! ## Commands that name a unit (R423-R428) -/

/-- Running commands of an opcode, SVC_TEST 0x0800 or SVC_RETIRE 0x0801, that name a unit. -/
def State.unitCmds (s : State) (opcode kind idx : Nat) : List Cmd :=
  s.cmds.filter fun c => c.opcode == opcode && c.st == .running && par c.p 8 1 == kind && par c.p 12 4 == idx

/-- RESULT of SVC_TEST (R424): pass, the unit's state afterwards, the error count. -/
def testResult (pass : Bool) (state errors : Nat) : Nat := b2n pass + state <<< 8 + (errors % 2 ^ 32) <<< 32

/-- A fault of a unit while its test runs ends the test with a fail (R428). -/
def State.failTests (s : State) (kind idx state : Nat) : State :=
  s.each (s.unitCmds 0x0800 kind idx) fun s c => let f := s.takeFree; f.2.reply c 0 (testResult false state f.1)

/-- The SVC_RETIREs of a unit reply with the lines counted (R425). -/
def State.retireDone (s : State) (kind idx lines : Nat) : State :=
  s.each (s.unitCmds 0x0801 kind idx) fun s c => s.reply c 0 lines

/-! ## What a unit holds (R425) -/

/-- Lines of a stack's share of the carve-out (R296): 3.2 GB. -/
def carveLines : Nat := 50000000

/-- Blocks of a stack's carve-out share. -/
def carveBlocks : Nat := 781250

/-- A pinned page in use on a stack: its region, its page ZA[48:16] and its frame position. -/
structure PinnedOn where
  region : Region
  page   : Nat
  frame  : Nat

/-- The pinned pages whose data lie in a stack, regions in index order. -/
def State.pinnedOn (s : State) (k : Nat) : List PinnedOn :=
  s.regions.flatMap fun e =>
    if e.2.tiered then []
    else (List.range e.2.pages).filterMap fun i =>
      let page := e.2.zaPage + i
      let pl := s.placeOf (65536 * page)
      if pl.1 = k && !s.frameLostAt (1024 * page) then some { region := e.2, page, frame := pl.2 } else none

/-- Frame-map entries, by stack and index, whose frames lie in a stack and hold data or parity. -/
def State.entriesOn (s : State) (k : Nat) : List (Nat × Nat) :=
  (((s.stack k).frameMap.filter fun e => !e.2.sibling && (e.2.st = 1 || e.2.st = 2)).map fun e => (k, e.1))
  ++ (((s.stack (siblingOf k)).frameMap.filter fun e => e.2.sibling && (e.2.st = 1 || e.2.st = 2)).map fun e => (siblingOf k, e.1))

/-- Tier pages whose frames lie in a stack. -/
def State.tierOn (s : State) (k : Nat) : List Nat :=
  (s.dir.filter fun e => e.2.framed && (s.placeOf (65536 * e.1)).1 = k).map (·.1)

/-- The sets whose parity frames lie in a stack, with their directory dies. -/
def State.setsOn (s : State) (k : Nat) : List (Nat × TierSet) :=
  [0, 1].flatMap fun d => ((s.dirDie d).sets.filter fun t =>
    (if t.moved then siblingOf (tierStack d t.parity) else tierStack d t.parity) == k).map fun t => (d, t)

/-- Lines that hold data in a pseudo-channel, or in the whole stack: allocated frames, the carve-out, remap slots in use. -/
def State.unitLines (s : State) (k : Nat) (pc : Option Nat) : Nat :=
  let frames := (s.entriesOn k).length + (s.tierOn k).length + (s.setsOn k).length
  let slots := ((s.stack k).remap.filter fun e => e.2.valid && (match pc with | some p => e.2.pc == p | none => true)).length
  match pc with
  | some _ => carveLines / 64 + 16 * frames + slots
  | none => carveLines + 1024 * frames + slots

/-! ## Carve-out stripes (R301, R417) -/

/-- A stack's member of the carve-out stripes is unavailable: a pseudo-channel is retiring, or the stack is retired and its share
not yet rebuilt, or no longer held, by its sibling. A pseudo-channel counts for the whole stack, since the spec does not say
which line offsets of two stacks meet (log 54). -/
def State.memberGone (s : State) (k : Nat) : Bool :=
  let t := s.stack k
  let u := s.stack (siblingOf k)
  (t.pcs.any fun e => e.2.st == .retiring) || t.st = 1
  || (t.st = 2 && (t.carveMoved < carveBlocks || u.st ≠ 0 || u.pcs.any fun e => e.2.st == .retiring))

/-- Two members of one stripe group would be unavailable, with the stacks given gone too. -/
def State.carveLost (s : State) (extra : List Nat) : Bool :=
  (List.range 4).any fun g => 2 ≤ ((List.range 5).filter fun j => extra.contains (g + 4 * j) || s.memberGone (g + 4 * j)).length

/-- Condition 4 of R417 after a retirement has begun. -/
def State.checkCarve (s : State) : State := if s.carveLost [] then s.goFatal 4 else s

/-! ## Data of a lost unit (R165, R320, R321) -/

/-- Lines poisoned in a page: its context, the ZA of the first, how many. -/
abbrev Hit := Nat × Nat × Nat

/-- One LINES_POISONED record for each context (R421). -/
def State.logPoisoned (s : State) (kind idx : Nat) (hits : List Hit) : State :=
  s.each ((hits.map (·.1)).eraseDups) fun s c =>
    let mine := hits.filter fun h => h.1 == c
    let first := (mine.map fun h => h.2.1).min?.getD 0
    s.log { event := 0x03, kind, index := idx, ctx := c, addr := first, reason := 1, count := (mine.map fun h => h.2.2).sum }

/-- Poisons lines, reason 1. -/
def State.poisonLines (s : State) (lines : List Nat) (kind : Nat) : State := s.each lines fun s l => s.poisonLine l 1 kind

/-- The first line and the number of a page's lines, as a hit. -/
def hitOf (r : Region) (lines : List Nat) : List Hit :=
  match lines with
  | [] => []
  | l :: _ => [(r.ctx, 64 * l, lines.length)]

/-- The lines of a page that lie in a pseudo-channel. -/
def PinnedOn.pcLines (q : PinnedOn) (p : Nat) : List Nat :=
  ((List.range 1024).filter fun l => pcOfLine q.frame l = p).map (1024 * q.page + ·)

/-- Pinned lines without stripe parity in a pseudo-channel become poison records, but for those in the write buffer (R320). -/
def State.losePc (s : State) (k p : Nat) : List Hit × State :=
  (s.pinnedOn k).foldl (fun acc q =>
    if q.region.stripe then acc
    else
      let lines := (q.pcLines p).filter fun l => !acc.2.buffered l
      (acc.1 ++ hitOf q.region lines, acc.2.poisonLines lines 2)) ([], s)

/-- Drops what the write buffer and the atomic units hold of a page (log 55). -/
def State.dropBuffered (s : State) (page : Nat) : State :=
  { s with wbuf := s.wbuf.filter fun w => w.line / 1024 != page, atoms := s.atoms.filter fun a => a.line / 1024 != page }

/-- Tier pages without stripe parity whose frames lie in a stack follow R165. The lines counted are those of their dirty
blocks. -/
def State.loseTier (s : State) (k kind : Nat) : List Hit × State :=
  (s.tierOn k).foldl (fun acc page =>
    match acc.2.pageRegion page with
    | none => acc
    | some (_, r) =>
      if r.stripe then acc
      else
        let e := acc.2.ent page
        let lost : BitVec 16 :=
          if e.st == .dirty then e.dirty else if e.st == .writingBack && !e.readDone then e.dirty ||| e.snapshot else 0
        let blocks := (List.range 16).filter fun b => lost.getLsbD b
        let hit : List Hit := match blocks with
          | [] => []
          | b :: _ => [(r.ctx, 65536 * page + 4096 * b, 64 * blocks.length)]
        (acc.1 ++ hit, ((acc.2.dropBuffered page).loseFrame page kind).pageReady page)) ([], s)

/-! ## Stacks (R321) -/

/-- User frames of a stack (R156: 36,132,812 over 20 stacks; which 12 hold one more is the model's choice, log 56). -/
def userFrames (k : Nat) : Nat := if k < 12 then 1806641 else 1806640

/-- The lost pinned frames of a stack without stripe parity: a replacement frame in the sibling with every line poisoned, or a lost
entry (R321). -/
def State.loseFrames (s : State) (k kind : Nat) (alive : Bool) : List Hit × State :=
  (s.pinnedOn k).foldl (fun acc q =>
    if q.region.stripe then acc
    else
      let s := acc.2.dropBuffered q.page
      let home := stackOfPinned (q.page - pinnedBase)
      let u := frameIndex (q.page - pinnedBase)
      let d := if (s.dirDie 0).cacheFrames < (s.dirDie 1).cacheFrames then 1 else 0
      if alive && s.heldPages d + 1024 < (s.dirDie d).cacheFrames then
        let s := (s.modDir d fun t => { t with cacheFrames := t.cacheFrames - 1 }).settlePressure d
        let lines := (List.range 1024).map (1024 * q.page + ·)
        (acc.1 ++ hitOf q.region lines, (s.mapFrame home u 1).poisonLines lines kind)
      else (acc.1, s.modStack home fun t => { t with frameMap := tmod {} t.frameMap u fun e => { e with st := 3 } })) ([], s)

/-- What a rebuild moves: a pinned frame, data or parity, by its frame-map entry; a tier page; the parity frame of a set. -/
inductive Moves where
  | entry (stack u : Nat)
  | page (page : Nat)
  | parity (d frame : Nat)

/-- The region of a frame-map entry: any region one of whose frames it is. -/
def State.entryRegion (s : State) (k u : Nat) : Option Region :=
  (s.regions.find? fun e => !e.2.tiered && e.2.frames.any fun f => f.1 = k && f.2.1 = u).map (·.2)

/-- A tier page is of a shared region. -/
def State.pageShared (s : State) (page : Nat) : Bool := match s.pageRegion page with | some (_, r) => r.kind == 2 | none => false

/-- The striped frames of a stack in rebuild order: those of shared regions first, then others, in frame order (R321). -/
def State.movesOf (s : State) (k : Nat) : List Moves :=
  let es := ((s.stack k).frameMap.filter fun e => !e.2.sibling && (e.2.st = 1 || e.2.st = 2)).filterMap fun e =>
    match s.entryRegion k e.1 with
    | some r => if r.stripe then some (r.kind == 2, e.2.frame, Moves.entry k e.1) else none
    | none => none
  let ps := ((s.tierOn k).filter s.pageStriped).map fun p => (s.pageShared p, (s.placeOf (65536 * p)).2, Moves.page p)
  let ts := (s.setsOn k).map fun e => (e.2.pages.any s.pageShared, tget 0 (s.dirDie e.1).pos e.2.parity, Moves.parity e.1 e.2.parity)
  let all := (es ++ ps ++ ts).mergeSort fun a b => a.2.1 ≤ b.2.1
  (all.filter (·.1) ++ all.filter (!·.1)).map (·.2.2)

/-- The first frame position of the spare share: past the user frames and the carve-out (R296). -/
def spareBase : Nat := 1855469

/-- A place in the spare share of a stack's sibling that no frame of the stack takes. -/
def State.sparePlace (s : State) (k : Nat) : Nat :=
  let tier := [0, 1].flatMap fun d => (s.dirDie d).pos.filter fun e => tierStack d e.1 == k
  let used := (((s.stack k).frameMap.filter fun e => e.2.sibling).map (·.2.frame)) ++ tier.map (·.2)
  (lowest (fun n => !used.contains n) spareBase (used.length + 1)).getD spareBase

/-- An entry moves into the sibling's spare share. -/
def State.moveEntry (s : State) (k u : Nat) : State :=
  let f := s.sparePlace k
  s.modStack k fun t => { t with frameMap := tmod {} t.frameMap u fun e => { e with frame := f, sibling := true } }

/-- A striped line is rebuilt from the other members of its stripe, their stored forms as read (R309, R313, R320). One that they do not
give becomes a poison record (log 124). -/
def State.rebuildLine (s : State) (r : Region) (kind line : Nat) : State :=
  if s.buffered line || (s.stack (s.pcOf line).1).placed.contains line then s
  else
    let o := s.stripeXor r line
    match o.1 with
    | some v => o.2.modHbm fun h => { h with flips := tput 0 h.flips line v }
    | none => o.2.poisonLine line 1 kind

/-- A parity line is recomputed from its data members, their stored forms as read; the deltas that wait for it are void (R320). What one with
a member that cannot be read holds is a free value (log 158). -/
def State.rebuildParity (s : State) (t : Stripe) : State :=
  let s := s.modStack t.stack fun u => { u with deltas := u.deltas.filter fun e => !t.data.contains e.1 }
  if (s.stack t.stack).placed.contains t.key then s
  else if t.data.all s.memberSound then
    s.modParity t.stack t.frame t.off fun _ => t.data.foldl (fun v l => v ^^^ tget 0 s.hbm.flips l) 0
  else let f := s.takeFree; f.2.modParity t.stack t.frame t.off fun _ => BitVec.ofNat 576 f.1

/-- A page of the stripe whose parity a frame-map entry places, with its region. -/
def State.parityPage (s : State) (k u : Nat) : Option (Region × Nat) :=
  s.regions.findSome? fun e =>
    if e.2.tiered || !e.2.stripe then none
    else (List.range e.2.pages).findSome? fun i =>
      let p := pinnedPage (65536 * (e.2.zaPage + i))
      if parityStack p = k && frameIndex p = u then some (e.2, e.2.zaPage + i) else none

/-- The stripes of the lines of a frame that a page's lines belong to. -/
def State.stripesOf (s : State) (r : Region) (page : Nat) : List Stripe :=
  (List.range 1024).filterMap fun l => s.stripeOf r (1024 * page + l)

/-- The stripes of a set. -/
def State.setStripes (s : State) (t : TierSet) : List Stripe :=
  match t.pages with
  | p :: _ => (List.range 1024).filterMap fun l => s.tierStripe (1024 * p + l)
  | [] => []

/-- The stripes whose parity lines lie in a pseudo-channel. -/
def State.parityOn (s : State) (k p : Nat) : List Stripe :=
  let pinned := (s.entriesOn k).flatMap fun e =>
    if (tget {} (s.stack e.1).frameMap e.2).st = 2 then
      (match s.parityPage e.1 e.2 with | some (r, page) => s.stripesOf r page | none => [])
    else []
  (pinned ++ (s.setsOn k).flatMap fun e => s.setStripes e.2).filter fun t => pcOfLine t.frame t.off = p

/-- The striped lines of a pseudo-channel, pinned pages then tier pages, with their regions. -/
def State.stripedOn (s : State) (k p : Nat) : List (Region × Nat) :=
  ((s.pinnedOn k).filter fun q => q.region.stripe).flatMap (fun q => (q.pcLines p).map fun l => (q.region, l))
  ++ (s.tierOn k).flatMap fun page =>
    match s.pageRegion page with
    | some (_, r) =>
      if r.stripe then ((List.range 1024).filter fun l => pcOfLine (s.placeOf (65536 * page)).2 l = p).map fun l => (r, 1024 * page + l)
      else []
    | none => []

/-- The page whose data a frame-map entry places. -/
def State.entryPage (s : State) (k u : Nat) : Option PinnedOn :=
  (s.pinnedOn k).find? fun q => stackOfPinned (q.page - pinnedBase) = k && frameIndex (q.page - pinnedBase) = u

/-- Every line of a striped page is rebuilt (R321). -/
def State.rebuildPage (s : State) (r : Region) (kind page : Nat) : State :=
  s.each (List.range 1024) fun s l => s.rebuildLine r kind (1024 * page + l)

/-- Moves one striped frame of a stack into the sibling's spare share, rebuilt. -/
def State.moveOne (s : State) : Moves → State
  | .entry k u =>
    if (tget {} (s.stack k).frameMap u).st = 2 then
      let s := s.moveEntry k u
      (match s.parityPage k u with
       | some (r, page) => s.each (s.stripesOf r page) State.rebuildParity
       | none => s)
    else
      (match s.entryPage k u with
       | some q => s.rebuildPage q.region 3 q.page
       | none => s).moveEntry k u
  | .page p =>
    let d := pageDir p
    let f := (s.ent p).frame
    let place := s.sparePlace (tierStack d f)
    ((match s.pageRegion p with
      | some (_, r) => s.rebuildPage r 3 p
      | none => s).modStack (tierStack d f) fun t => { t with moved := t.moved ++ [p] }).modDir d fun t => { t with pos := tput 0 t.pos f place }
  | .parity d f =>
    let place := s.sparePlace (tierStack d f)
    let s := s.modDir d fun t => { t with
      pos := tput 0 t.pos f place, sets := t.sets.map fun x => if x.parity = f then { x with moved := true } else x }
    match (s.dirDie d).sets.find? fun x => x.parity == f with
    | some x => s.each (s.setStripes x) State.rebuildParity
    | none => s

/-- The rebuild of a stack is complete: its carve-out first, then the striped frames, as far as they fit in the sibling's spare share; the
stack is retired, and its retiring pseudo-channels go on the repair list (R319, R321). -/
def State.stackDone (s : State) (k : Nat) (rec : Bool) : State :=
  let sib := siblingOf k
  let t := s.stack k
  let moves := s.movesOf k
  let free := if t.st = 1 && (s.stack sib).st = 0 then (s.stack sib).spareFree else 0
  let carve := min carveBlocks free
  let room := (free - carve) / 16
  let s := s.each (moves.take room) State.moveOne
  let n := min room moves.length
  let s := s.modStack sib fun u => { u with spareFree := u.spareFree - carve - 16 * n }
  let gone := (t.pcs.filter fun e => e.2.st == .retiring).map fun e => 64 * k + e.1
  let s : State := { s with repairs := s.repairs ++ gone.filter fun e => !s.repairs.contains e }
  let s := s.modStack k fun t => { t with
    st := 2, carveMoved := carve, remaining := 0, spareFree := 0, placed := [], remap := [], flips := [], err := orBit t.err 6
    degraded := 16 * (moves.length - n) + (carveBlocks - carve)
    pcs := t.pcs.map fun e => if e.2.st == .retiring then (e.1, { e.2 with st := .retired }) else e }
  let s := if rec then s.log { event := 0x08, kind := 3, index := k, reason := if t.bySvc then 2 else 1, count := t.lines } else s
  let s := s.each (t.pcs.filter fun e => e.2.st == .retiring) fun s e => s.retireDone 2 (64 * k + e.1) e.2.lines
  s.retireDone 3 k t.lines

/-- Retires a stack (R321, R416): by its own failure or SVC_RETIRE, by a fourth pseudo-channel, or with its whole die. -/
def State.retireStack (s : State) (k : Nat) (svc die : Bool) : State :=
  if (s.stack k).st ≠ 0 then s
  else
    let alive := !die && (s.stack (siblingOf k)).st = 0
    let kind := if die then 5 else 3
    let idx := if die then k / 2 else k
    let n := s.unitLines k none
    let s := s.modStack k fun t => { t with st := 1, lines := n, bySvc := svc, remaining := cdiv n 64, deltas := [] }
    let s := s.each (List.range 64) fun s p => s.failTests 2 (64 * k + p) 3
    let pinned := ((s.stack k).frameMap.filter fun e => !e.2.sibling && e.2.st ≠ 0).length
    let s := s.chargeCache (userFrames k - pinned)
    let a := s.loseFrames k kind alive
    let b := a.2.loseTier k kind
    let s := (b.2.logPoisoned kind idx (a.1 ++ b.1)).rederate
    let s := if alive then s else s.stackDone k (!die)
    s.checkCarve.settle

/-- A memory die's loss (R416): both stacks, with no sibling left; one record for the die. -/
def State.retireDie (s : State) (die : Nat) (svc : Bool) : State :=
  let gone := (List.range 2).filter fun j => (s.stack (2 * die + j)).st ≠ 2
  let s := s.modMem die fun m => { m with up := false }
  let s := s.each (List.range 2) fun s j => if (s.stack (2 * die + j)).st = 1 then s.stackDone (2 * die + j) false else s
  let s := s.each (List.range 2) fun s j => s.retireStack (2 * die + j) svc true
  if gone.isEmpty then s
  else
    let lines := (gone.map fun j => (s.stack (2 * die + j)).lines).sum
    (s.log { event := 0x08, kind := 5, index := die, reason := if svc then 2 else 1, count := lines }).retireDone 5 die lines

/-! ## Pseudo-channels (R319, R320) -/

/-- Retires a pseudo-channel that is RUNNING or FROZEN; the fourth of a stack retires the stack. -/
def State.retirePc (s : State) (k p : Nat) (svc : Bool) : State :=
  let st := (s.pc k p).st
  if (s.stack k).st ≠ 0 || st == .retiring || st == .retired then s
  else
    let gone := ((s.stack k).pcs.filter fun e => e.2.st == .retiring || e.2.st == .retired).length
    let n := s.unitLines k (some p)
    let s := s.modPc k p fun c => { c with st := .retiring, lines := n, bySvc := svc }
    let s := s.failTests 2 (64 * k + p) 2
    if 3 ≤ gone then s.retireStack k svc false
    else
      let s := s.modStack k fun t => { t with remaining := t.remaining + cdiv n 64 }
      let a := s.losePc k p
      let b := a.2.loseTier k 2
      (((b.2.logPoisoned 2 (64 * k + p) (a.1 ++ b.1)).rederate).checkCarve).settle

/-- Relocation and rebuild of a pseudo-channel are complete (R319, R320). -/
def State.pcDone (s : State) (k p : Nat) : State :=
  let c := s.pc k p
  let s := s.each (s.stripedOn k p) fun s e => s.rebuildLine e.1 2 e.2
  let parity := s.parityOn k p
  let s := (s.modStack k fun t => { t with flips := t.flips.filter fun e => e.1 / 2 ^ 25 != p }).each parity State.rebuildParity
  let s := s.modPc k p fun c => { c with st := .retired, relocated := true }
  let mine (l : Nat) : Bool := s.pcOf l == (k, p) || parity.any fun t => t.key == l
  let s := s.modStack k fun t => { t with
    spareFree := t.spareFree - 488281, remaining := t.remaining - cdiv c.lines 64, err := orBit t.err 6
    placed := t.placed.filter fun l => !mine l
    remap := t.remap.filter fun e => e.2.pc != p }
  let s : State := { s with repairs := if s.repairs.contains (64 * k + p) then s.repairs else s.repairs ++ [64 * k + p] }
  let s := s.log { event := 0x08, kind := 2, index := 64 * k + p, reason := if c.bySvc then 2 else 1, count := c.lines }
  (s.rederate).retireDone 2 (64 * k + p) c.lines

/-- A freeze (R318, R319): the snapshot, FROZEN, or RETIRING at the third. -/
def State.freezePc (s : State) (k p pcLine cause : Nat) : State :=
  if (s.stack k).st ≠ 0 || (s.pc k p).st != .running then s
  else
    let f := s.takeFree
    let band := (s.stack k).band
    let n := (s.pc k p).freezeCount
    let s := f.2.modStack k fun t => { t with
      err := orBit t.err 2
      snapshot := BitVec.ofNat 128 (p + cause <<< 6 + band <<< 8 + 3 <<< 10 + pcLine <<< 16 + (f.1 % 2 ^ 32) <<< 64) }
    let s := s.modPc k p fun c => { c with freezeCount := satAdd n 1 15 }
    if n < 2 then (s.modPc k p fun c => { c with st := .frozen }).rederate else s.retirePc k p false

/-- The cluster core that decides for a stack runs (R373, R376): CC6 or CC7. -/
def State.coreRuns (s : State) (k : Nat) : Bool := !(s.proc (3 + ccOfMem (dieOf k))).restarting

/-- A frozen pseudo-channel returns to service (R319). -/
def State.unfreeze (s : State) (k p : Nat) : State :=
  (((s.modPc k p fun c => { c with st := .running }).rederate).log { event := 0x09, kind := 2, index := 64 * k + p, reason := 1 }).settle

/-- The loop-back test of the cluster core ends (R319). -/
def State.loopback (s : State) (k p : Nat) (pass : Bool) : State :=
  if (s.pc k p).st == .frozen then (if pass then s.unfreeze k p else s.retirePc k p false) else s

/-- The power-on fill runs (R381). -/
def State.filling (s : State) : Bool := s.pmc.powered && s.pmc.booting && s.pmc.stage = 3 && !s.pmc.fatal

/-! ## Remap (R316) -/

/-- The remap entry of a line. -/
def Stack.remapOf (t : Stack) (p pcLine : Nat) : Option Nat :=
  (t.remap.find? fun e => e.2.valid && e.2.pc == p && e.2.pcLine == pcLine).map (·.1)

/-- The row of a physical line address: the lowest address of the four lines that share it: l, l + 16, l + 32 and l + 48 of a block (R300). -/
def rowOf (a : Nat) : Nat :=
  let k := a % 32
  let p := a / 32 % 64
  let pcLine := a / 2048
  let fl := lineInFrame k p pcLine
  let lines := (List.range 4).map fun j => pcLineOf k fl.1 (fl.2 / 64 * 64 + fl.2 % 16 + 16 * j)
  physLine k p (lines.foldl min pcLine)

/-- Fills a remap entry and puts the row on the repair list. None: the 16 entries are in use, or the pseudo-channel is not
RUNNING. -/
def State.remapLine (s : State) (k p pcLine reason : Nat) : Option (Nat × State) :=
  let t := s.stack k
  match t.remapOf p pcLine with
  | some e => some (e, s)
  | none =>
    if t.st ≠ 0 || (s.pc k p).st != .running then none
    else
      match lowest (fun e => !(tget {} t.remap e).valid) 0 16,
        lowest (fun n => !(t.remap.any fun e => e.2.valid && e.2.pc == p && e.2.slot == n)) 0 16 with
      | some e, some slot =>
        let s := s.modStack k fun t => { t with remap := tput {} t.remap e { valid := true, pending := true, pc := p, pcLine, slot } }
        let a := physLine k p pcLine
        let s : State := { s with repairRows := if s.repairRows.contains a then s.repairRows else s.repairRows ++ [a] }
        some (e, s.log { event := 0x0A, kind := 4, addr := a, reason, count := e })
      | _, _ => none

/-! ## Reports (R309, R314, R315) -/

/-- The pin of a byte position of a burst (R297): 0-31 data, 32-35 check. -/
def pinOf (pos : Nat) : Nat := if pos < 64 then pos % 32 else 32 + (pos - 64) / 2

/-- A physical line and the region whose line it holds. A line that no ZA names (parity, the carve-out, the spare share) has none. -/
def State.owner (s : State) (k p pcLine : Nat) : Option (Nat × Region) :=
  (s.lineAt k p pcLine).bind fun l => (s.regionAt (64 * l)).map fun e => (l, e.2)

/-- The stored copy of a physical line has changed in the bits of a finding. -/
def State.damage (s : State) (k p : Nat) (f : Finding) : State :=
  match s.lineAt k p f.pcLine with
  | some l => s.modHbm fun h => { h with flips := tmod 0 h.flips l (· ^^^ f.flips) }
  | none => s.modStack k fun t => { t with flips := tmod 0 t.flips (2 ^ 25 * p + f.pcLine) (· ^^^ f.flips) }

/-- What the check of a physical line finds, under its code and its hypotheses (R306, R307, R314); none where it is uncorrectable. A
line that no ZA names has code S (log 124). -/
def State.physCheck (s : State) (k p pcLine : Nat) : Option LineCheck :=
  match s.owner k p pcLine with
  | some (l, r) => if s.laneLost (attrCodeL r.attr) k p then none else checkLine (attrCodeL r.attr) (r.auto && l % 64 = 0) (s.hbm.marked r.auto l) (tget 0 s.hbm.flips l)
  | none => checkLine false false false (match s.lineAt k p pcLine with
      | some l => tget 0 s.hbm.flips l
      | none => tget 0 (s.stack k).flips (2 ^ 25 * p + pcLine))

/-- A physical line is checked, by the scrubber or another read (R309): a correction is counted; an uncorrectable line is flagged,
logged and recorded. Its stored copy stays as it is. Which path and context another read was for, a report does not say: free values (log
124). -/
def State.meet (s : State) (k p pcLine : Nat) (scrub : Bool) : State :=
  let za := (s.lineAt k p pcLine).map (64 * ·)
  match s.physCheck k p pcLine with
  | some c => if c.fix = 0 then s else s.countCorrected k p { za }
  | none =>
    let codeS := match s.owner k p pcLine with | some (_, r) => !attrCodeL r.attr | none => true
    let f := s.takeFree
    let s := (if scrub then s else f.2).modStack k fun t => { t with
      err := orBit t.err 1
      errLog := BitVec.ofNat 64 (physLine k p pcLine + (b2n codeS) <<< 36 + (if scrub then 4 <<< 37 else (f.1 % 4) <<< 37 + (f.1 / 4 % 4096) <<< 40)) }
    (s.count 0x0A (dieOf k) 0x09 { za }).log
      { event := 0x01, addr := za.getD 0, status := stUncorrectable, reason := 1, count := 1 }

/-- Remaps for the cluster core: with the table full the line stays in place (R315). -/
def State.coreRemap (s : State) (k p pcLine : Nat) : State :=
  if (s.stack k).st ≠ 0 || (s.pc k p).st != .running then s
  else
    match s.remapLine k p pcLine 1 with
    | some (_, s) => s
    | none => (s.modStack k fun t => { t with err := orBit t.err 4 }).log
        { event := 0x07, kind := 3, index := k, addr := physLine k p pcLine, reason := 3 }

/-- A lane fault on a pin (R315): the second pin of a pseudo-channel retires it (R319). -/
def State.laneFault (s : State) (k p pin pcLine : Nat) : State :=
  let c := s.pc k p
  if c.laneFault then (if c.faultPin = pin then s else s.retirePc k p false)
  else
    let s := (s.modPc k p fun c => { c with laneFault := true, faultPin := pin }).modStack k fun t => { t with err := orBit t.err 3 }
    s.log { event := 0x07, kind := 2, index := 64 * k + p, addr := physLine k p pcLine, reason := 1 }

/-- The cluster core acts on a report of a line that was corrected: the pins are counted, and a line with errors of its own on two
laps, or in two symbols or words of one read, is remapped (R315). -/
def State.coreCorrected (s : State) (k p pcLine : Nat) (f : LineCheck) : State :=
  let pins := (f.positions.map pinOf).eraseDups
  let codeL := match s.owner k p pcLine with | some (_, r) => attrCodeL r.attr | none => false
  let again := (s.pc k p).ceBefore.contains pcLine
  let s := s.modPc k p fun c => { c with ceLap := tset c.ceLap pcLine ((tget [] c.ceLap pcLine ++ pins).eraseDups) }
  let s := s.each pins fun s n => if 1024 < ((s.pc k p).ceLap.filter fun e => e.2.contains n).length then s.laneFault k p n pcLine else s
  let c := s.pc k p
  let own := f.positions.filter fun n => !(c.laneFault && c.faultPin = pinOf n)
  if !own.isEmpty && (again || (if codeL then 2 ≤ f.words else 2 ≤ own.length)) then s.coreRemap k p pcLine else s

/-- The cluster core acts on a report (R315). -/
def State.coreReport (s : State) (k p pcLine : Nat) : State :=
  match s.physCheck k p pcLine with
  | none => s.coreRemap k p pcLine
  | some f => if f.fix = 0 then s else s.coreCorrected k p pcLine f

/-! ## Meanings -/

/-- A parity delta waits at a pseudo-channel of a stack (R312). -/
def State.deltaWaits (s : State) (k p : Nat) : Bool :=
  (s.stack k).deltas.any fun e => match s.regionAt (64 * e.1) with
    | some (_, r) => (s.stripeOf r e.1).any fun t => pcOfLine t.frame t.off == p
    | none => false

/-- The scheduler of a pseudo-channel has nothing to issue (R21, R314): no buffered write, of whose block any line may lie there (R300), no
parity delta. -/
def State.schedulerIdle (s : State) (k p : Nat) : Bool :=
  !(s.wbuf.any fun e => e.stack == k && (List.range (if e.block then 16 else 1)).any fun i => (s.pcOf (e.line + i)).2 == p) &&
    !s.deltaWaits k p

/-- Lines of a pseudo-channel (R296). -/
def pcLines : Nat := 31250000

/-- The lines of a pseudo-channel within a range whose stored copies are wrong. -/
def State.wrongIn (s : State) (k p first n : Nat) : List Nat :=
  let here (x : Nat) : Bool := first ≤ x && x < first + n
  ((s.hbm.flips.filterMap fun (e : Nat × BitVec 576) =>
      let pl := s.placeOf (64 * e.1)
      if pl.1 = k && pcOfLine pl.2 e.1 = p then some (pcLineOf k pl.2 (e.1 % 1024)) else none) ++
    (((s.stack k).flips.filter fun (e : Nat × BitVec 576) => e.1 / 2 ^ 25 == p).map fun (e : Nat × BitVec 576) => e.1 % 2 ^ 25)).filter here

/-- Every pseudo-channel that the scrubber does not skip has been read to its end (R314, R318). -/
def State.lapRead (s : State) (k : Nat) : Bool :=
  (List.range 64).all fun p => (s.pc k p).st == .frozen || tget 0 (s.stack k).scrubbed p = pcLines

/-- SCRUB_ROW_READ (R21, R314): the next lines of a pseudo-channel, as many as its row has (log 57); `found`: the bits that have changed in
them; `lapEnd`: MIN_LAP has passed, so that the lap ends once every line has been read. Every line of the row that is wrong is met. At a
lap's end its length (a cycle count, free) and its lines. The scrubber reads while the scheduler has nothing else to issue, and skips a
frozen pseudo-channel (R318). -/
def execScrubRowRead (stack : Fin 20) (pc : Fin 64) (found : List Finding) (lines : Nat) (lapEnd : Bool) (s : State) : Out1 :=
  let k := stack.val
  if s.running && !s.hep.d3hot && (s.stack k).scrubOn && (s.stack k).st ≠ 2 && (s.pc k pc.val).st != .frozen && s.schedulerIdle k pc.val then
    let first := tget 0 (s.stack k).scrubbed pc.val
    let n := min lines (pcLines - first)
    let s := (s.modStack k fun t => { t with
      lapLines := (t.lapLines + n) % 2 ^ 32, scrubbed := tput 0 t.scrubbed pc.val (first + n) }).count 0x0A (dieOf k) 0x0D {} n
    let s := s.each (found.filter fun f => first ≤ f.pcLine && f.pcLine < first + n) fun s f => s.damage k pc.val f
    let s := s.each (s.wrongIn k pc.val first n) fun s l => s.meet k pc.val l true
    .next (if lapEnd && s.lapRead k then
      let f := s.takeFree
      f.2.modStack k fun t => { t with
        lastLap := BitVec.ofNat 48 f.1, lapCount := (t.lapCount + 1) % 65536, lastLines := t.lapLines, lapLines := 0, late := false, scrubbed := []
        pcs := (t.pcs.map fun e => (e.1, { e.2 with ceBefore := (e.2.ceBefore ++ e.2.ceLap.map (·.1)).eraseDups, ceLap := [] })) }
    else s)
  else .next s

/-- SCRUB_LATE (R314). -/
def execScrubLate (stack : Fin 20) (s : State) : Out1 :=
  let k := stack.val
  .next (if s.running && !(s.stack k).late then
      (s.modStack k fun t => { t with err := orBit t.err 5, late := true }).log
        { event := 0x07, kind := 3, index := k, reason := 4 }
    else s)

/-- CE_REPORT (R315): the finding was met by the read or by the scrubber's row that reports it, or is met here. The decision waits
while the cluster core restarts, and the event stands for the time it is taken (log 57). -/
def execCeReport (stack : Fin 20) (pc : Fin 64) (f : Finding) (met : Bool) (s : State) : Out1 :=
  let k := stack.val
  .next (if s.running && (s.stack k).st = 0 && s.coreRuns k then
      (if met then s else (s.damage k pc.val f).meet k pc.val f.pcLine false).coreReport k pc.val f.pcLine
    else s)

/-- CA_PARITY_ERROR (R318): `resends` is how many resends failed too; the third makes the error persist. -/
def execCaParityError (stack : Fin 20) (pc : Fin 64) (pcLine : BitVec 25) (resends : Fin 4) (s : State) : Out1 :=
  .next (if s.running && resends.val = 3 then s.freezePc stack.val pc.val pcLine.toNat 1 else s)

/-- WRITE_CRC_ERROR (R318): as above; during the power-on fill it retires the pseudo-channel at once (R322). -/
def execWriteCrcError (stack : Fin 20) (pc : Fin 64) (pcLine : BitVec 25) (resends : Fin 4) (s : State) : Out1 :=
  let k := stack.val
  .next (if s.filling then
      (let s := s.retirePc k pc.val false
       if (s.stack k).st = 1 then s.stackDone k true
       else if (s.pc k pc.val).st == .retiring && (s.stack k).st = 0 then s.pcDone k pc.val else s)
    else if s.running && resends.val = 3 then s.freezePc k pc.val pcLine.toNat 2
    else s)

def execFreezeLimitExpiry (stack : Fin 20) (pc : Fin 64) (s : State) : Out1 :=
  .next (if s.running && (s.pc stack.val pc.val).st == .frozen then s.retirePc stack.val pc.val false else s)

def execPcLoopbackResult (stack : Fin 20) (pc : Fin 64) (pass : Bool) (s : State) : Out1 :=
  .next (if s.running && s.coreRuns stack.val then s.loopback stack.val pc.val pass else s)

/-- REBUILD_COMPLETE (R320, R321, R425): of a pseudo-channel (kind 2), a stack (kind 3), or a flash die that SVC_RETIRE named. -/
def execRebuildComplete (u : UnitRef) (s : State) : Out1 :=
  let k := u.index / 64
  let p := u.index % 64
  .next (if !s.running then s
    else if u.kind = 2 && k < 20 && (s.pc k p).st == .retiring && (s.stack k).st = 0 then s.pcDone k p
    else if u.kind = 3 && u.index < 20 && (s.stack u.index).st = 1 then s.stackDone u.index true
    else if u.kind = 8 then s.retireDone 8 u.index 0
    else s)

def execStackFailure (stack : Fin 20) (s : State) : Out1 :=
  .next (if s.running then s.retireStack stack.val false false else s)

def execMemoryDieFailure (die : Fin 10) (s : State) : Out1 := .next (if s.running then s.retireDie die.val false else s)

/-- FATAL_CONDITION (R417): the loss of a hub, the control die, a directory die, a carve-out stripe, or the hardware monitor. -/
def execFatalCondition (cond : Fin 5) (s : State) : Out1 :=
  .next (if s.pmc.powered && !s.pmc.fatal then s.goFatal (cond.val + 1) else s)

end Sys2Proof.Machine
end

