-- ==== Sys2Proof/Machine/HostData.lean ====
section
/-!
DEFINITION. The host data that commands read themselves (R267, R342-R345, R386, R390): KERNEL_LOAD from the host, FW_STAGE and
SPDM_RELAY. `aux` of such a command counts the bytes asked for so far.
-/

namespace Sys2Proof.Machine

/-- The host range that a command reads: address and length. -/
def hostArgs (c : Cmd) : Option (Nat × Nat) :=
  if c.opcode = 0x0500 && par c.p 8 1 = 1 then some (par c.p 16 8, par c.p 24 2)
  else if c.opcode = 0x0900 then some (par c.p 8 8, par c.p 16 4)
  else if c.opcode = 0x0B00 then some (par c.p 8 8, par c.p 16 2)
  else none

/-- Issues the reads of a list, as far as slots are free. -/
def State.askList (s : State) (c : Cmd) : List (Nat × Nat × Nat) → State
  | [] => s
  | (addr, len, off) :: rest =>
    if off < c.aux then s.askList c rest
    else
      match s.hostRead c.fn (pCtx c.p) addr len off (.cmd c.id) with
      | some s => (s.modCmd c.id fun c => { c with aux := off + len }).askList c rest
      | none => s

/-- Issues what host reads a command may issue (R343, R367). -/
def State.askCmd (s : State) (id : Nat) : State :=
  match s.cmd? id with
  | some c =>
    if c.st = .running then
      (match hostArgs c with
       | some (addr, len) => s.askList c (s.readsOf addr len)
       | none => s)
    else s
  | none => s

/-- Begins a command's host reads: its buffer is empty. -/
def State.beginHost (s : State) (c : Cmd) : State :=
  match hostArgs c with
  | some (_, len) => (s.modCmd c.id fun c => { c with aux := 0, data := List.replicate len 0 }).askCmd c.id
  | none => s

/-- Every byte a command asks for has arrived. -/
def State.hostDone (s : State) (c : Cmd) : Bool :=
  match hostArgs c with
  | some (_, len) =>
    len ≤ c.aux && !((s.fn c.fn).reads.any fun e => e.2.use == .cmd c.id)
  | none => false

/-- Bytes of a command's host data arrive. -/
def Cmd.arrived (c : Cmd) (off : Nat) (l : List Byte) : Cmd :=
  { c with data := c.data.take off ++ l ++ c.data.drop (off + l.length) }

end Sys2Proof.Machine
end

