-- ==== Sys2Proof/Machine/Fw.lean ====
section
/-!
DEFINITION. Images, staging and activation (R378-R380, R390-R395), anti-rollback (R383) and the restart of one processor
(R375-R377, R403). The restart outcomes of commands stand in Restart.lean.
-/

namespace Sys2Proof.Machine

/-! ## Images (R379, R380) -/

/-- A little-endian field of the image being staged. -/
def Fw.field (w : Fw) (off n : Nat) : Nat := leNat (readBytes w.stage off n)

/-- IMAGE_LENGTH of the staged image. -/
def Fw.imageLength (w : Fw) : Nat := w.field 16 4

/-- FW_STATUS.STAGED_COMPLETE (R390). -/
def Fw.complete (w : Fw) : Bool := decide (0 < w.stagedBytes) && decide (w.imageLength ≤ w.stagedBytes)

/-- Byte k of component entry i, 0-6, of the staged header. -/
def Fw.comp (w : Fw) (i off n : Nat) : Nat := w.field (64 + 48 * i + off) n

/-- Bytes of a range of the staged image are all zero. -/
def Fw.zeros (w : Fw) (lo hi : Nat) : Bool := !(w.stage.any fun c => lo ≤ c.1 && c.1 < hi)

/-- MAGIC, FORMAT, reserved bytes, component order and the ranges of R379. -/
def Fw.headerOk (w : Fw) : Bool :=
  let len := w.imageLength
  w.field 0 4 == 0x5A494D47 && w.field 4 1 == 0x10 && decide (1 ≤ w.field 5 1) && decide (w.field 5 1 ≤ 64) &&
  decide (1 ≤ w.field 6 1) && w.zeros 7 8 && w.zeros 14 16 && bits (w.field 12 1) 7 2 == 0 && bits (w.field 13 1) 7 2 == 0 &&
  w.zeros 20 64 && w.zeros 784 4096 && decide (65536 ≤ len) && decide (len ≤ 33554432) && len % 4096 == 0 &&
  (List.range 7).all fun i =>
    let off := w.comp i 4 4
    w.comp i 0 1 == i + 1 && w.comp i 1 3 == 0 && w.comp i 12 4 == 0 && off % 4096 == 0 && decide (4096 ≤ off) &&
      decide (off + w.comp i 8 4 ≤ len)

/-- SHA-256 of bytes as a number, first byte lowest. -/
def digestOf (l : List Byte) : BitVec 256 := BitVec.ofNat 256 (leNat (Sha.sha256 l))

/-- The digest that the header gives for component i + 1. -/
def Fw.listed (w : Fw) (i : Nat) : BitVec 256 := BitVec.ofNat 256 (w.comp i 16 32)

/-- Every component matches its digest. -/
def Fw.digestsOk (w : Fw) : Bool :=
  (List.range 7).all fun i => digestOf (readBytes w.stage (w.comp i 4 4) (w.comp i 8 4)) == w.listed i

/-- PARTS and STEPPINGS allow the part (R379, R391). -/
def State.partOk (s : State) (parts steppings : Nat) : Bool := bit parts (b2n s.variantH) && bit steppings (b2n s.stepB0)

/-- The first failure of R391 that verification meets, in the order of its reasons; 0 for none. -/
def State.verify (s : State) : Nat :=
  let w := s.fw
  if !w.complete then 1
  else if !w.headerOk then 2
  else if !Config.imageSigned (readBytes w.stage 0 784) then 3
  else if w.field 5 1 < w.fused || w.field 5 1 < w.field 6 1 then 4
  else if !s.partOk (w.field 12 1) (w.field 13 1) then 5
  else if !w.digestsOk then 6
  else 0

/-- What the device keeps of the staged image once complete. `bootable` holds the checks of R381 other than SVN and part. -/
def Fw.stagedImage (w : Fw) : ImageInfo :=
  { svn := w.field 5 1, minSvn := w.field 6 1, version := w.field 8 4, parts := w.field 12 1, steppings := w.field 13 1
    digests := (List.range 7).map w.listed
    bootable := w.headerOk && Config.imageSigned (readBytes w.stage 0 784) && w.digestsOk }

/-- The components that the staged image changes (R380). -/
def Fw.changedBy (w : Fw) : List Nat :=
  ((List.range 7).filter fun i => w.listed i != w.active.digests[i]?.getD 0).map (· + 1)

/-! ## Processors (R375, R376, R403) -/

/-- The processors of a component (R380). -/
def procsOf (comp : Nat) : List Nat :=
  match comp with
  | 3 => [1]
  | 4 => [2]
  | 5 => [3, 4, 5, 6]
  | 6 => [7, 8]
  | 7 => [9, 10]
  | _ => []

/-- An emergency of R394: thermal, supply below 44 V, or the power core restarting; D3hot counts as one (R395). -/
def State.fwEmergency (s : State) : Bool := s.pmc.emergency || s.pmc.sag || (s.proc 1).restarting || s.hep.d3hot

/-- A pending activation meets the beginning or the end of an emergency (R392, R394): it quiesces only outside one. -/
def State.fwReview (s : State) : State :=
  match s.fw.phase, s.fwEmergency with
  | .quiescing, true => s.modFw fun w => { w with phase := .waiting }
  | .waiting, false => s.modFw fun w => { w with phase := .quiescing }
  | _, _ => s

/-- An activation is pending (R395): verifying, waiting or quiescing. -/
def Fw.pending (w : Fw) : Bool := w.phase == .verifying || w.phase == .waiting || w.phase == .quiescing

/-- A pending activation is abandoned with a status, or without a reply (R392, R394, R395): its holds are released. -/
def State.fwAbandon (s : State) (status : Option Nat) : State :=
  if s.fw.pending then
    let cmd := s.fw.actCmd
    let s := s.modFw fun w => { w with phase := .idle, actCmd := none, changed := [] }
    match cmd, status with
    | some id, some st => s.replyTo id st
    | _, _ => s
  else s

/-- The Hull core restarts a processor (R375, R376, R393): the record, the AER error, and for the power core the safe cap. -/
def State.restartProc (s : State) (i cause : Nat) : State :=
  let s := s.modProc i fun p => { p with restarting := true, halted := false, cause, restarts := satAdd p.restarts 1 255 }
  let s := (s.log { event := 0x0B, reason := cause, count := i }).aerCor 0 14
  let s := if cause ≤ 3 then s.modFw fun w => { w with err := orBit w.err 3 } else s
  if i = 1 then
    let s := s.modPmc fun p => { p with safeCap := true, level := if p.emergency then 7 else 5, calm := 0 }
    ((s.pmcErr 5).rederate).fwReview
  else s

/-! ## FW_STAGE (R390) -/

/-- Finished 4 KiB units of a FW_STAGE, from the first on: their reads are issued and answered. -/
def State.unitsDone (s : State) (c : Cmd) : Nat → Nat → Nat
  | 0, k => k
  | fuel + 1, k =>
    let busy := (s.fn c.fn).reads.any fun e =>
      e.2.use == .cmd c.id && decide (e.2.off < 4096 * (k + 1)) && decide (4096 * k < e.2.off + e.2.len)
    if 4096 * (k + 1) ≤ min c.aux (par c.p 16 4) && !busy then s.unitsDone c fuel (k + 1) else k

/-- Units staged contiguously from offset 0, in bytes (FW_STATUS.STAGED_BYTES). -/
def contiguous (units : List Nat) : Nat → Nat → Nat
  | 0, k => 4096 * k
  | fuel + 1, k => if units.contains k then contiguous units fuel (k + 1) else 4096 * k

/-- Writes finished units into the inactive bank: a complete image there can be booted from (R378, R381). -/
def State.keepUnits (s : State) (c : Cmd) (n : Nat) : State :=
  if n = 0 then s
  else
    let off := par c.p 20 4
    s.modFw fun w =>
      let units := w.stagedUnits ++ ((List.range n).map (off / 4096 + ·)).filter fun u => !w.stagedUnits.contains u
      let w : Fw := { w with
        stage := writeBytes w.stage off (c.data.take (4096 * n))
        stagedUnits := units
        stagedBytes := contiguous units 8192 0
        revertOk := false }
      { w with inactive := if w.complete then some w.stagedImage else none }

/-- Ends a FW_STAGE with a status: its finished units stay. RESULT gives the bytes staged, and DETAIL counts the units of a PARTIAL
(R63, R70, R81, R390; log 86). -/
def State.endStage (s : State) (c : Cmd) (status : Nat) : State :=
  let n := s.unitsDone c 256 0
  (s.keepUnits c n).reply c status (if status = 0 then 4096 * n else 0) (if status = stPartial then n else 0)

def startFwStage (s : State) (c : Cmd) : State :=
  if s.fw.phase != .idle then s.reply c stConflict
  else
    let s := if par c.p 20 4 = 0 then
        s.modFw fun w => { w with stage := [], stagedUnits := [], stagedBytes := 0, inactive := none, revertOk := false }
      else s
    s.beginHost c

def specFwStage : CmdSpec :=
  { opcode := 0x0900, pfOnly := true, link := false, rule := .zero, cls := fun _ => .keep, defined := [(8, 24)]
    faults := fun _ p =>
      let len := par p 16 4
      [(16, len % 4096 != 0 || decide (len < 4096) || decide (1048576 < len)),
       (20, par p 20 4 % 4096 != 0 || decide (33554432 < par p 20 4 + len))]
    start := startFwStage }

/-! ## FW_ACTIVATE (R391-R394) -/

def startFwActivate (s : State) (c : Cmd) : State :=
  if s.fw.phase != .idle then s.reply c stConflict
  else
    let wait := par c.p 8 4
    s.modFw fun w => { w with
      phase := .verifying, actCmd := some c.id, actWait := if wait = 0 then w.waitReg else wait, changed := [] }

def specFwActivate : CmdSpec :=
  { opcode := 0x0901, pfOnly := true, link := false, rule := .zero, defined := [(8, 12)], start := startFwActivate }

/-- ACTIVATE_VERIFY_COMPLETE (R391). -/
def State.verified (s : State) : State :=
  match s.fw.phase, s.fw.actCmd with
  | .verifying, some id =>
    let r := s.verify
    if r ≠ 0 then
      let s := s.modFw fun w => { w with phase := .idle, actCmd := none, err := orBit w.err 0 }
      s.replyTo id stBadParam 0 (0x20000 + r)
    else (s.modFw fun w => { w with phase := .waiting, changed := w.changedBy }).fwReview
  | _, _ => s

/-- The quiesce conditions of R392; whether another SC command executes is the caller's to say. -/
def State.quiesced (s : State) (scBusy : Bool) : Bool :=
  let c := s.fw.changed
  let moving := s.dir.any fun e => e.2.st == .fetching || e.2.discard || (e.2.st == .writingBack && !e.2.queued)
  !(c.contains 4 && scBusy) &&
  !(c.contains 5 && (s.disp.runs.any (fun r => !r.engines.isEmpty) || s.cmds.any fun e => e.opcode == 0x0500 && e.st == .running)) &&
  !((c.contains 6 || c.contains 7) && moving)

/-- ACTIVATE_SWITCH_COMPLETE (R389, R392, R393): once its processors run, the bank pointer is written. -/
def State.switched (s : State) : State :=
  let w := s.fw
  if w.phase == .switching && !(w.switching.any fun i => (s.proc i).restarting) then
    let new := w.stagedImage
    let s := s.modFw fun w => { w with
      phase := .idle, actCmd := none, switching := [], changed := [], lastChanged := w.changed, activated := true
      activeBank := 1 - w.activeBank, active := new, inactive := some w.active, revertOk := true
      measured := w.measured.take 2 ++ new.digests.drop 2
      resetPending := w.resetPending || w.changed.contains 1 || w.changed.contains 2
      stage := [], stagedUnits := [], stagedBytes := 0 }
    match w.actCmd with
    | some id => s.replyTo id stOk
    | none => s
  else s

/-- A revert makes the previous bank active again (R377, R389); it ends when the processors it restarts run. -/
def State.revert (s : State) : State :=
  match s.fw.inactive with
  | none => s
  | some old =>
    let changed := s.fw.lastChanged
    let s := s.modFw fun w => { w with
      activeBank := 1 - w.activeBank, active := old, inactive := some w.active, revertOk := false, lastChanged := []
      measured := w.measured.take 2 ++ old.digests.drop 2, resetPending := false, err := orBit w.err 5
      switching := changed.flatMap procsOf }
    s.each (changed.flatMap procsOf) fun s i => s.restartProc i 5

/-- A switch or a revert is in progress (R389). -/
def State.switchingNow (s : State) : Bool := s.fw.phase == .switching || s.fw.switching.any fun i => (s.proc i).restarting

/-! ## Anti-rollback (R383) -/

/-- At READY the floor that the running image commits to waits to be blown. -/
def State.floorDue (s : State) : State :=
  s.modFw fun w => { w with pendingFloor := if w.fused < w.active.minSvn then w.active.minSvn else 0 }

/-- The fuses stand at a number; an inactive image below it is no revert target. -/
def Fw.fuse (w : Fw) (n : Nat) : Fw :=
  { w with fused := n, revertOk := w.revertOk && (match w.inactive with | some i => decide (n ≤ i.svn) | none => false) }

/-! ## Meanings -/

def execFwStage (via : Via) (p : Packet) (s : State) : Out1 := .next (s.submit specFwStage via p)
def execFwActivate (via : Via) (p : Packet) (s : State) : Out1 := .next (s.submit specFwActivate via p)
def execActivateVerifyComplete (s : State) : Out1 := .next (if s.running then s.verified else s)

/-- R394: the wait ran out while an emergency was in force. -/
def execActivateWaitExpiry (s : State) : Out1 :=
  .next (if s.running && s.fw.pending && s.fwEmergency then
      (s.modFw fun w => { w with err := orBit w.err 1 }).fwAbandon (some stDeferredExpired)
    else s)

/-- R392: the quiesce condition was not met in time. -/
def execQuiesceLimitExpiry (s : State) : Out1 :=
  .next (if s.running && s.fw.phase == .quiescing then
      (s.modFw fun w => { w with err := orBit w.err 2 }).fwAbandon (some stConflict)
    else s)

def execActivateSwitchComplete (s : State) : Out1 := .next (if s.running then s.switched else s)

/-- R383: blown at or above 44 V, with no emergency in force. -/
def execFuseBlow (s : State) : Out1 :=
  .next (if s.running && s.fw.pendingFloor ≠ 0 && !s.fwEmergency then s.modFw fun w => { w with blowing := true } else s)

def execFuseBlowComplete (s : State) : Out1 :=
  .next (if s.pmc.powered && s.fw.blowing then
      s.modFw fun w => { w.fuse w.pendingFloor with pendingFloor := 0, blowing := false }
    else s)

/-- R375: the Hull core itself is lost, which is the loss of the control die (R417). -/
def execHullMonitorTimeout (s : State) : Out1 := .next (if s.pmc.powered && !s.pmc.fatal then s.goFatal 2 else s)

end Sys2Proof.Machine
end

