-- ==== Sys2Proof/Machine/Attest.lean ====
section
/-!
DEFINITION. The SPDM responder on its three transports (R385-R389), SPDM_RELAY, and the other DOE protocols of the PF (R348, R357).
Codes and layouts that SPDM and CDAT define are theirs (log 61).
-/

namespace Sys2Proof.Machine

/-! ## SPDM (R386-R389) -/

def connOf : Transport → Nat
  | .doe => 0
  | .relay => 1
  | .mctp => 2

def State.conn (s : State) (t : Transport) : Spdm := tget {} s.fw.spdm (connOf t)
def State.modConn (s : State) (t : Transport) (f : Spdm → Spdm) : State :=
  s.modFw fun w => { w with spdm := tmod {} w.spdm (connOf t) f }

/-- The device serial number (R385): the first 8 bytes of SHA-256 over the identity public key. -/
def serial : Nat := leNat ((Sha.sha256 Config.identityKey).take 8)

/-- A measurement block's DMTF value type and value (R388). -/
def State.measurement (s : State) (i : Nat) : Nat × List Byte :=
  let w := s.fw
  let d (v : BitVec 256) : List Byte := leBytes 32 v.toNat
  if i = 1 then (0, d Config.romDigest)
  else if i ≤ 8 then (1, d (w.measured[i - 2]?.getD 0))
  else if i = 9 then (2, d Config.calibrationDigest)
  else if i = 10 then (7, leBytes 1 w.fused ++ leBytes 1 w.active.svn)
  else if i = 11 then (6, leBytes 4 w.active.version)
  else (1, if w.complete then Sha.sha256 (readBytes w.stage 0 w.imageLength) else List.replicate 32 0)

/-- A measurement block as bytes: index, specification DMTF, size, value type, value size, value. -/
def blockBytes (b : Nat × Nat × List Byte) : List Byte :=
  let v := leBytes 1 (b.2.1 + (if b.2.2.length = 32 then 0 else 128)) ++ leBytes 2 b.2.2.length ++ b.2.2
  leBytes 1 b.1 ++ [1] ++ leBytes 2 v.length ++ v

/-- The blocks of indices. -/
def State.blocks (s : State) (l : List Nat) : List (Nat × Nat × List Byte) :=
  l.map fun i => (i, (s.measurement i).1, (s.measurement i).2)

/-- The measurement summary hash covers indices 1-11 (R387). -/
def State.summary (s : State) : BitVec 256 := digestOf ((s.blocks (List.range' 1 11)).flatMap blockBytes)

/-- A nonce and a signature: the SPDM transcript is not the spec's, so both are free values (log 1). -/
def State.signed (s : State) : (BitVec 256 × BitVec 3072) × State :=
  let f := s.takeFree
  let g := f.2.takeFree
  ((BitVec.ofNat 256 f.1, BitVec.ofNat 3072 g.1), g.2.modFw fun w => { w with signing := true })

/-- The version a request names, none for GET_VERSION. -/
def SpdmReq.version : SpdmReq → BitVec 8
  | .versions => 0x10
  | .capabilities v => v
  | .algorithms v _ _ _ => v
  | .digests v => v
  | .certificate v _ _ _ => v
  | .challenge v _ _ _ => v
  | .measurements v _ _ _ => v
  | .respondIfReady v => v
  | .other v _ => v

/-- The response to a request whose turn it is (R387, R388). -/
def State.spdmAnswer (s : State) (t : Transport) (q : SpdmReq) : SpdmRsp × State :=
  let c := s.conn t
  let ready := c.negotiated && q.version == c.version
  let early : SpdmRsp := .error (if c.negotiated then 0x41 else 0x04)
  match q with
  | .versions => (.versions [0x12, 0x13], s.modConn t fun _ => { versioned := true })
  | .capabilities v =>
    if !c.versioned then (.error 0x04, s)
    else if v == 0x12 || v == 0x13 then
      (.capabilities 20 0x16 2048 2048, s.modConn t fun c => { c with version := v, negotiated := false })
    else (.error 0x41, s)
  | .algorithms v asym hash meas =>
    if c.version == 0 then (.error 0x04, s)
    else if v != c.version then (.error 0x41, s)
    else if bit asym.toNat 2 && bit hash.toNat 0 && bit meas.toNat 0 then
      (.algorithms 4 1 2 1, s.modConn t fun c => { c with negotiated := true })
    else (.error 0x01, s)
  | .digests _ => if ready then (.digests 1 (digestOf Config.certChain), s) else (early, s)
  | .certificate _ slot offset length =>
    if !ready then (early, s)
    else
      let all := Config.certChain
      let o := offset.toNat
      if slot != 0 || all.length ≤ o then (.error 0x01, s)
      else
        let l := (all.drop o).take (min length.toNat 1024)
        (.certificate 0 l (all.length - o - l.length), s)
  | .challenge _ slot summary _ =>
    if !ready then (early, s)
    else if slot != 0 || !(summary == 0 || summary == 1 || summary == 0xFF) then (.error 0x01, s)
    else
      let g := s.signed
      (.challengeAuth 0 (digestOf Config.certChain) g.1.1 (if summary == 0 then none else some s.summary) g.1.2, g.2)
  | .measurements _ index signed _ =>
    let i := index.toNat
    if !ready then (early, s)
    else if 12 < i && i ≠ 0xFF then (.error 0x01, s)
    else
      let list := if i = 0 then [] else if i = 0xFF then List.range' 1 12 else [i]
      let g := s.signed
      (.measurements (if i = 0 then 12 else 0) (s.blocks list) g.1.1 (if signed then some g.1.2 else none),
       if signed then g.2 else { s with fresh := g.2.fresh })
  | .respondIfReady _ => (.error 0x04, s)
  | .other _ _ => (.error 0x07, s)

/-- The answer to a request (R389): Busy during a switch or revert; while the Hull core still signs, which is a free choice
once it has signed (log 1), ResponseNotReady; RESPOND_IF_READY collects the response. -/
def State.spdm (s : State) (t : Transport) (q : SpdmReq) : SpdmRsp × State :=
  if s.switchingNow then (.error 0x03, s)
  else
    match q with
    | .respondIfReady _ =>
      (match (s.conn t).deferred with
       | some d => (s.modConn t fun c => { c with deferred := none }).spdmAnswer t d
       | none => s.spdmAnswer t q)
    | _ =>
      let f := s.takeFree
      let still : Bool := s.fw.signing && f.1 % 2 == 1
      let s := f.2.modFw fun w => { w with signing := still }
      if still then (.error 0x42, s.modConn t fun c => { c with deferred := some q })
      else (s.modConn t fun c => { c with deferred := none }).spdmAnswer t q

/-- Whether a transport reaches the responder: the Hull runtime runs, and the PF's configuration space or the sideband answers;
SPDM_RELAY requests come from their command (R386, R414). -/
def State.spdmReach (s : State) (t : Transport) : Bool :=
  s.pmc.powered && !s.pmc.fatal && !s.pmc.standby &&
  (match t with
   | .doe => s.hep.cfgReady && decide (1 ≤ s.pmc.stage)
   | .mctp => decide (1 ≤ s.pmc.stage)
   | .relay => s.running)

/-- A request row's meaning: the response goes out on its transport. -/
def State.spdmRow (s : State) (t : Transport) (q : SpdmReq) : State :=
  if s.spdmReach t then
    let r := s.spdm t q
    r.2.emit (.spdm t r.1)
  else s

/-! ## SPDM_RELAY (R81, R386): messages as SPDM lays them out -/

/-- The request that bytes spell. -/
def spdmParse (l : List Byte) : SpdmReq :=
  let b (i : Nat) : BitVec 8 := l[i]?.getD 0
  let n (i k : Nat) : Nat := leNat ((l.drop i).take k)
  let v := b 0
  let code := (b 1).toNat
  if code = 0x84 then .versions
  else if code = 0xE1 then .capabilities v
  else if code = 0xE3 then .algorithms v (BitVec.ofNat 32 (n 8 4)) (BitVec.ofNat 32 (n 12 4)) (b 6)
  else if code = 0x81 then .digests v
  else if code = 0x82 then .certificate v (b 2) (BitVec.ofNat 16 (n 4 2)) (BitVec.ofNat 16 (n 6 2))
  else if code = 0x83 then .challenge v (b 2) (b 3) (BitVec.ofNat 256 (n 4 32))
  else if code = 0xE0 then .measurements v (b 3) (bit (b 2).toNat 0) (BitVec.ofNat 256 (n 4 32))
  else if code = 0xFF then .respondIfReady v
  else .other v (b 1)

/-- The bytes of a response. -/
def SpdmRsp.bytes (v : BitVec 8) : SpdmRsp → List Byte
  | .error c => [v, 0x7F] ++ leBytes 1 c ++ [0]
  | .versions l => [0x10, 0x04, 0, 0, 0] ++ leBytes 1 l.length ++ l.flatMap fun e => [0, e]
  | .capabilities e f t m => [v, 0x61, 0, 0, 0] ++ leBytes 1 e ++ [0, 0] ++ leBytes 4 f.toNat ++ leBytes 4 t ++ leBytes 4 m
  | .algorithms a h m sp =>
    [v, 0x63, 0, 0] ++ leBytes 2 36 ++ [sp, 0] ++ leBytes 4 m.toNat ++ leBytes 4 a.toNat ++ leBytes 4 h.toNat ++ List.replicate 16 0
  | .digests m d => [v, 0x01, 0, m] ++ leBytes 32 d.toNat
  | .certificate sl p r => [v, 0x02, sl, 0] ++ leBytes 2 p.length ++ leBytes 2 r ++ p
  | .challengeAuth sl d n su sg =>
    [v, 0x03, sl, 1] ++ leBytes 32 d.toNat ++ leBytes 32 n.toNat ++ (match su with | some h => leBytes 32 h.toNat | none => []) ++
      [0, 0] ++ leBytes 384 sg.toNat
  | .measurements c bs n sg =>
    let r := bs.flatMap blockBytes
    [v, 0x60] ++ leBytes 1 c ++ [0] ++ leBytes 1 bs.length ++ leBytes 3 r.length ++ r ++ leBytes 32 n.toNat ++ [0, 0] ++
      (match sg with | some g => leBytes 384 g.toNat | none => [])

/-- The request of a SPDM_RELAY has arrived: the response is written and the command replies (R386). -/
def State.relayed (s : State) (c : Cmd) : State :=
  let q := spdmParse c.data
  let r := s.spdm .relay q
  let v := if (r.2.conn .relay).version == 0 then 0x10 else (r.2.conn .relay).version
  let l := r.1.bytes v
  let s := (r.2.emit (.spdm .relay r.1)).hostWrite c.fn 0 (par c.p 24 8) l false
  s.reply c 0 l.length

def specSpdmRelay : CmdSpec :=
  { opcode := 0x0B00, pfOnly := true, link := false, rule := .zero, defined := [(8, 18), (24, 34)]
    faults := fun _ p =>
      [(16, decide (par p 16 2 < 4) || decide (2048 < par p 16 2)), (32, decide (par p 32 2 < 2048))]
    start := fun s c => s.beginHost c }

/-! ## Other DOE protocols (R348, R357) -/

/-- The PF's DOE mailbox answers. -/
def State.doeReach (s : State) : Bool := s.pmc.powered && s.hep.cfgReady

/-- DOE Discovery: vendor ID, protocol type and next index of the three protocols of R348; an index beyond them names none. -/
def doeProtocol (index : Nat) : List Byte :=
  match index with
  | 0 => leBytes 2 1 ++ [0, 1]
  | 1 => leBytes 2 1 ++ [1, 2]
  | 2 => leBytes 2 0x1E98 ++ [2, 0]
  | _ => leBytes 2 0xFFFF ++ [0, 0]

/-- A DSLBIS of CDAT: data type, base unit and the values of the first entry. -/
def dslbis (kind base value : Nat) : List Byte :=
  [1, 0] ++ leBytes 2 24 ++ [0, 0] ++ leBytes 1 kind ++ [0] ++ leBytes 8 base ++ leBytes 2 value ++ leBytes 6 0

/-- The CDAT of R357 after its header: one DSMAS of 4 TiB; read latency 170 ns, write latency 75 ns (in ps), bandwidth 100 GB/s
each way (in MB/s). -/
def cdatEntries : List (List Byte) :=
  [[0, 0] ++ leBytes 2 24 ++ [0, 0, 0, 0] ++ leBytes 8 0 ++ leBytes 8 (2 ^ 42),
   dslbis 1 1000 170, dslbis 2 1000 75, dslbis 4 1000 100, dslbis 5 1000 100]

/-- The header of CDAT: length, revision, checksum, sequence. -/
def cdatHeader : List Byte :=
  let body := cdatEntries.flatMap id
  let h (sum : Nat) : List Byte := leBytes 4 (16 + body.length) ++ [1] ++ leBytes 1 sum ++ List.replicate 10 0
  h (256 - ((h 0 ++ body).map BitVec.toNat).sum % 256)

/-- The response to a read of CDAT entry n: the handle of the next, 0xFFFF after the last, then the entry. -/
def cdatRead (n : Nat) : Option (List Byte) :=
  ((cdatHeader :: cdatEntries)[n]?).map fun e =>
    [0, 0] ++ leBytes 2 (if n < cdatEntries.length then n + 1 else 0xFFFF) ++ e

/-! ## Meanings -/

def execSpdmRelay (via : Via) (p : Packet) (s : State) : Out1 := .next (s.submit specSpdmRelay via p)
def execGetVersion (t : Transport) (s : State) : Out1 := .next (s.spdmRow t .versions)
def execGetCapabilities (t : Transport) (version : BitVec 8) (s : State) : Out1 := .next (s.spdmRow t (.capabilities version))
def execNegotiateAlgorithms (t : Transport) (version : BitVec 8) (asym hash : BitVec 32) (meas : BitVec 8) (s : State) : Out1 :=
  .next (s.spdmRow t (.algorithms version asym hash meas))
def execGetDigests (t : Transport) (version : BitVec 8) (s : State) : Out1 := .next (s.spdmRow t (.digests version))
def execGetCertificate (t : Transport) (version slot : BitVec 8) (offset length : BitVec 16) (s : State) : Out1 :=
  .next (s.spdmRow t (.certificate version slot offset length))
def execChallenge (t : Transport) (version slot summary : BitVec 8) (nonce : BitVec 256) (s : State) : Out1 :=
  .next (s.spdmRow t (.challenge version slot summary nonce))
def execGetMeasurements (t : Transport) (version index : BitVec 8) (signed : Bool) (nonce : BitVec 256) (s : State) : Out1 :=
  .next (s.spdmRow t (.measurements version index signed nonce))
def execRespondIfReady (t : Transport) (version : BitVec 8) (s : State) : Out1 := .next (s.spdmRow t (.respondIfReady version))
def execSpdmUnsupportedRequest (t : Transport) (version code : BitVec 8) (s : State) : Out1 :=
  .next (s.spdmRow t (.other version code))
def execDoeDiscovery (index : BitVec 8) (s : State) : Out1 :=
  .next (if s.doeReach then s.emit (.doe (doeProtocol index.toNat)) else s)
def execCxlTableAccess (entry : BitVec 16) (s : State) : Out1 :=
  .next (if s.doeReach then
      (match cdatRead entry.toNat with
       | some l => s.emit (.doe l)
       | none => s)
    else s)

end Sys2Proof.Machine
end

