-- ==== Sys2Proof/Machine/Share.lean ====
section
/-!
DEFINITION. Shared versions (R268-R279): the catalogue, publication with its hash, subscription, withdrawal.
-/

namespace Sys2Proof.Machine

/-! ## The catalogue (R271) -/

/-- A catalogue key: SCOPE, NAME, version, and for SCOPE 0 the owning function. -/
structure ShareKey where
  scope   : Nat
  name    : BitVec 256
  version : Nat
  fn      : Nat
deriving DecidableEq, Repr

/-- The key that a packet names for a context of a function. -/
def shareKey (p : Packet) (fn : Nat) : ShareKey :=
  { scope := par p 48 1, name := BitVec.ofNat 256 (par p 16 32), version := par p 12 4, fn := if par p 48 1 = 0 then fn else 0 }

/-- The key of a version. -/
def Region.key? (r : Region) : ShareKey :=
  { scope := r.scope, name := r.name, version := r.version, fn := if r.scope = 0 then r.fn else 0 }

/-- A publication of a key is in progress (R279). -/
def State.keyBusy (s : State) (k : ShareKey) : Bool := s.regions.any fun e => e.2.share == .publishing && e.2.key? == k

/-- The PUBLISHED version of a key. -/
def State.versionOf (s : State) (k : ShareKey) : Option (Nat × Region) :=
  s.regions.find? fun e => e.2.share == .published && e.2.key? == k

/-- The reserved values of a key (R271), with their offsets. -/
def keyFaults (p : Packet) : List (Nat × Bool) :=
  [(12, par p 12 4 = 0), (16, par p 16 32 = 0), (48, decide (2 ≤ par p 48 1))]

/-! ## The order of sharing commands (R279) -/

/-- The keys that a sharing command names: its own, or that of the version whose handle it gives. -/
def State.keysOf (s : State) (c : Cmd) : List ShareKey :=
  if c.opcode = 0x0600 || c.opcode = 0x0601 then [shareKey c.p c.fn]
  else match s.named (par c.p 8 4) with
    | .region _ r => if r.share == .unpublished then [] else [r.key?]
    | .sub _ v => ((s.region? v.region).map Region.key?).toList
    | .stale => []

/-- The regions that a sharing command names: that of its handle, or the version of its key. -/
def State.sharedBy (s : State) (c : Cmd) : List Nat :=
  if c.opcode = 0x0601 then ((s.versionOf (shareKey c.p c.fn)).map (·.1)).toList
  else match s.named (par c.p 8 4) with
    | .region i _ => [i]
    | .sub _ v => [v.region]
    | .stale => []

/-- A sharing command that has been accepted and has not taken effect: it is parked, or waits for another; a publication in progress
has. -/
def State.shareWaits (s : State) (c : Cmd) : Bool :=
  0x0600 ≤ c.opcode && c.opcode ≤ 0x0603 && !(s.regions.any fun e => e.2.pubCmd == some c.id)

/-- A sharing command that was accepted before this one and names the same key or region has not taken effect (R279). -/
def State.shareBehind (s : State) (c : Cmd) : Bool :=
  s.cmds.any fun e => e.id < c.id && s.shareWaits e &&
    ((s.keysOf e).any (s.keysOf c).contains || (s.sharedBy e).any (s.sharedBy c).contains)

/-! ## SHARE_PUBLISH (R269, R271-R274) -/

/-- A host window in force maps a region with WR. -/
def State.hostWrites (s : State) (i : Nat) : Bool := s.hep.hwinOn.any fun e => e.2.w.valid && e.2.region == i && e.2.w.wr

/-- Starts a SHARE_PUBLISH: the checks of R272 in order; a key being published makes it wait (R279). The reserved values of
its key are R61's check 5, which R272's checks follow (log 47). -/
def startPublish (s : State) (c : Cmd) : State :=
  let k := shareKey c.p c.fn
  if s.shareBehind c then s
  else match s.ownRegion (par c.p 8 4) (pCtx c.p) with
  | .error st => if st = stBadParam then s.bad c 8 else s.reply c st
  | .ok (i, r) =>
    if r.kind ≠ 2 then s.bad c 8
    else if k.scope = 1 && c.fn ≠ 0 then s.reply c stNoPerm
    else if s.keyBusy k then s
    else if r.share == .published && r.key? == k then s.reply c 0 r.hash.toNat
    else if r.share != .unpublished then s.reply c stConflict
    else if s.mapped i (fun w => w.wr || w.atom) || s.hostWrites i then s.reply c stConflict
    else
      let r := { r with share := .publishing, hashing := false, digests := [], pubCmd := some c.id, name := k.name, scope := k.scope,
                        version := k.version, groupsWas := (List.range r.groups).map fun g => (g, s.group i g) }
      (s.setRegion i r).endBuilds i r.groups

def specPublish : CmdSpec := { opcode := 0x0600, defined := [(8, 49)], faults := fun _ p => keyFaults p, start := startPublish }

/-! ## SHARE_SUBSCRIBE (R275, R276) -/

def startSubscribe (s : State) (c : Cmd) : State :=
  let k := shareKey c.p c.fn
  let ctx := pCtx c.p
  let expect := par c.p 56 8
  if s.shareBehind c || s.keyBusy k then s
  else
    match s.versionOf k with
    | none => s.bad c 12
    | some (i, r) =>
      if expect ≠ 0 && expect ≠ r.hash.toNat then s.reply c stConflict
      else
        match s.subs.find? fun e => e.2.ctx == ctx && e.2.region == i with
        | some (u, _) => s.reply c 0 (s.handleOf u)
        | none =>
          if 4096 ≤ s.entriesOf ctx || 262144 ≤ s.entries then s.reply c stNoSpace
          else
            match s.pickIndex with
            | (none, s) => s.reply c stNoSpace
            | (some u, s) =>
              let s : State := { s with subs := tset s.subs u { ctx, region := i } }
              s.reply c 0 (s.handleOf u)

def specSubscribe : CmdSpec :=
  { opcode := 0x0601, defined := [(12, 49), (56, 64)], faults := fun _ p => keyFaults p, start := startSubscribe }

/-! ## SHARE_UNSUBSCRIBE and SHARE_WITHDRAW (R277, R278) -/

/-- A host window, of a kind, names a handle, in its shadow or in force (R358). -/
def State.hostNames (s : State) (h : Nat) (p : HWin → Bool) : Bool :=
  (s.hep.hwin.any fun e => e.2.valid && p e.2 && e.2.handle == h)
  || s.hep.hwinOn.any fun e => e.2.w.valid && p e.2.w && e.2.w.handle == h

def startUnsubscribe (s : State) (c : Cmd) : State :=
  let h := par c.p 8 4
  let ctx := pCtx c.p
  if s.shareBehind c then s
  else match s.named h with
  | .stale => s.bad c 8
  | .region _ _ => s.bad c 8
  | .sub u v =>
    if v.ctx ≠ ctx then s.reply c stNoPerm
    else if (s.ctx ctx).windows.any (fun w => w.2.valid && w.2.sub == some u) || s.hostNames h (fun _ => true)
        || s.usedThrough u then s.reply c stConflict
    else
      let s : State := { s with subs := tdel s.subs u }
      ((s.nextSeq u).settleVersion v.region).reply c 0

def specUnsubscribe : CmdSpec := { opcode := 0x0602, defined := [(8, 12)], start := startUnsubscribe }

def startWithdraw (s : State) (c : Cmd) : State :=
  let h := par c.p 8 4
  if s.shareBehind c then s
  else match s.ownRegion h (pCtx c.p) with
  | .error st => if st = stBadParam then s.bad c 8 else s.reply c st
  | .ok (i, r) =>
    if r.share != .published then s.bad c 8
    else if (s.ctx r.ctx).windows.any (fun w => w.2.valid && w.2.region == i) || s.hostNames h (·.ctx == r.ctx) then s.reply c stConflict
    else ((s.setRegion i { r with share := .withdrawn }).settleVersion i).reply c 0

def specWithdraw : CmdSpec := { opcode := 0x0603, defined := [(8, 12)], start := startWithdraw }

/-! ## Ends of publications -/

/-- Sharing commands that waited are checked again, in order (R279). -/
def State.wakeShare (s : State) : State :=
  s.each (s.cmds.filter fun c => s.shareWaits c && c.st == .running) fun s c => match c.opcode with
    | 0x0600 => startPublish s c
    | 0x0601 => startSubscribe s c
    | 0x0602 => startUnsubscribe s c
    | _ => startWithdraw s c

/-- The accesses of a publication's hashing. -/
def Waiter.ofHash (cmd : Nat) : Waiter → Bool
  | .hash c => c == cmd
  | _ => false

/-- A publication ends: PUBLISHED, or UNPUBLISHED again; its command replies, and those that waited are checked (R269, R279). -/
def State.endPublish (s : State) (i : Nat) (share : ShareSt) (status result : Nat) : State :=
  match s.region? i with
  | some r =>
    let s := s.setRegion i { r with
      share, hashing := false, digests := [], pubCmd := none, groupsWas := [], hash := BitVec.ofNat 64 result }
    let s := match r.pubCmd with
      | some id => (s.forgetWaits (Waiter.ofHash id)).replyTo id status result
      | none => s
    s.wakeShare
  | none => s

/-! ## Hashing (R273, R274) -/

/-- A block of a compressed region that is stored as zeros, which no write waiting in the buffer changes. -/
def State.zeroBlock (s : State) (r : Region) (block : Nat) : Bool :=
  r.auto && (tget {} s.hbm.forms block).codec = 1 && !s.buffered (64 * block) && !thas s.hbm.poison (64 * block)

/-- The hash read of a block (R274): as a transfer's source, but it waits whatever the owner's miss policy; a ZERO block is zeros without a
read. -/
def State.hashBlock (s : State) (i : Nat) (r : Region) (m : Mover) (block : Nat) : Got (List Line) × State :=
  let t : Trans := { za := 4096 * block, region := i, sub := none, keySlot := r.slot, gen := r.gen }
  if s.zeroBlock r block && !r.tiered then (.ok (List.replicate 64 0), s)
  else
    let o := s.reachRegion m t r 64 none
    match o.1 with
    | .go _ _ => if o.2.zeroBlock r block then (.ok (List.replicate 64 0), o.2) else State.readReached m 0 64 o
    | _ => State.readReached m 0 64 o

/-- The plaintext of blocks in order. -/
def State.hashBlocks (s : State) (i : Nat) (r : Region) (m : Mover) : List Nat → Got (List Line) × State
  | [] => (.ok [], s)
  | b :: rest =>
    let o := s.hashBlock i r m b
    match o.1 with
    | .ok l =>
      let q := o.2.hashBlocks i r m rest
      (match q.1 with
       | .ok d => (.ok (l ++ d), q.2)
       | e => (e, q.2))
    | e => (e, o.2)

/-- Hashes pages in order, and keeps the digest of each (R273). -/
def State.hashPages (s : State) (i : Nat) (r : Region) (m : Mover) : List Nat → Got Unit × State
  | [] => (.ok (), s)
  | p :: rest =>
    let o := s.hashBlocks i r m ((List.range 16).map (16 * p + ·))
    match o.1 with
    | .ok l =>
      let d := Sha.sha256 (l.flatMap lineBytes)
      (o.2.modRegion i fun r => { r with digests := r.digests ++ d }).hashPages i r m rest
    | .wait => (.wait, o.2)
    | .fail st la => (.fail st la, o.2)

/-- The content hash from the pages' digests (R273). -/
def contentHash (pages : Nat) (digests : List Byte) : Nat :=
  let h := leNat ((Sha.sha256 (leBytes 8 pages ++ digests)).take 8)
  if h = 0 then 1 else h

/-- The pages of a region that are still to be hashed. -/
def Region.unhashed (r : Region) : List Nat := ((List.range r.pages).drop (r.digests.length / 32)).map (r.zaPage + ·)

/-- Every page has been hashed: the outcome by the catalogue (R269). -/
def State.published (s : State) (i : Nat) : State :=
  match s.region? i with
  | some r =>
    let h := contentHash r.pages r.digests
    (match s.versionOf r.key? with
     | none => s.endPublish i .published 0 h
     | some (_, v) =>
       if v.hash.toNat = h then s.endPublish i .unpublished 0 (h + 1 <<< 64) else s.endPublish i .unpublished stConflict 0)
  | none => s

/-- PUBLISH_HASH_COMPLETE of a region (R269): the hash reads that are left, then the outcome. While a page is being fetched, the publication
goes on. -/
def State.hashed (s : State) (i : Nat) : State :=
  match s.region? i with
  | some r =>
    if r.share == .publishing && r.hashing then
      let o := s.hashPages i r { ctx := r.ctx, who := .hash (r.pubCmd.getD 0) } r.unhashed
      match o.1 with
      | .wait => o.2
      | .fail _ _ => o.2.endPublish i .unpublished stUncorrectable 0
      | .ok _ => o.2.published i
    else s
  | none => s

/-- HASH_START (R271): no write to the region is left before its order point. -/
def State.startHash (s : State) (i : Nat) : State :=
  match s.region? i with
  | some r =>
    if r.share == .publishing && !(s.held.any fun q => q.region == i && !q.op.isRead) then s.setRegion i { r with hashing := true }
    else s
  | none => s

/-! ## Meanings -/

def execSharePublish (via : Via) (p : Packet) (s : State) : Out1 := .next (s.submit specPublish via p)
def execShareSubscribe (via : Via) (p : Packet) (s : State) : Out1 := .next (s.submit specSubscribe via p)
def execShareUnsubscribe (via : Via) (p : Packet) (s : State) : Out1 := .next (s.submit specUnsubscribe via p)
def execShareWithdraw (via : Via) (p : Packet) (s : State) : Out1 := .next (s.submit specWithdraw via p)
def execHashStart (region : BitVec 20) (s : State) : Out1 := .next (if s.running then s.startHash region.toNat else s)
def execPublishHashComplete (region : BitVec 20) (s : State) : Out1 := .next (if s.running then s.hashed region.toNat else s)

end Sys2Proof.Machine
end

