-- ==== Sys2Proof/Machine/Contexts.lean ====
section
/-!
DEFINITION. Contexts (R26-R35): creation, restoring and sealing, DRAINING and its end, port bindings and windows (R36-R38).
-/

namespace Sys2Proof.Machine

/-! ## CTX_CREATE (R26, R32, R33) -/

/-- Durable contexts, live and sealed (R32). -/
def State.durables (s : State) : Nat := (s.ctxs.filter fun e => e.2.durable).length + s.sealed.length

/-- A seal ID not in use: non-zero, the device's choice (R33, log 1). -/
def State.pickSeal (s : State) : Nat × State :=
  let o := s.pick (2 ^ 32) 256 fun n =>
    n != 0 && !thas s.sealed n && !(s.ctxs.any fun e => e.2.durable && e.2.sealId == n)
  (o.1.getD 1, o.2)

/-- Creates or restores a context in a free number (R29, R32): windows and bindings are clear. -/
def State.newContext (s : State) (c : Cmd) (x : Ctx) : State :=
  match s.pick 4096 4097 fun n => n != 0 && (s.ctx n).st == .free with
  | (none, s) => s.reply c stNoSpace
  | (some n, s) =>
    let s := (s.modCtx n fun _ => x).loadKey n x.key
    s.replyAs c (BitVec.ofNat 16 n) 0 x.sealId 0

def startCtxCreate (s : State) (c : Cmd) : State :=
  let durable := bit (par c.p 8 1) 0
  let restore := bit (par c.p 8 1) 1
  let nack := par c.p 9 1 = 1
  let id := par c.p 12 4
  if (durable || restore) && c.fn ≠ 0 then s.reply c stNoPerm
  else if (durable || restore) && s.variantH then s.bad c 8
  else if restore && !durable then s.bad c 8
  else if (restore && id = 0) || (!restore && id ≠ 0) then s.bad c 12
  else if restore then
    match tfind? s.sealed id with
    | none => s.bad c 12
    | some g =>
      match s.pick 4096 4097 fun n => n != 0 && (s.ctx n).st == .free with
      | (none, s) => s.reply c stNoSpace
      | (some n, s) =>
        let s : State := { s with sealed := tdel s.sealed id }
        let s := s.each g.regions fun s i => s.modRegion i fun r => { r with ctx := n, sealedBy := 0 }
        let s := s.modCtx n fun _ => { st := .active, key := g.key, gen := g.gen, nack, durable := true, sealId := id }
        let s := s.loadKey n g.key
        s.replyAs c (BitVec.ofNat 16 n) 0 id 0
  else if durable && 64 ≤ s.durables then s.reply c stNoSpace
  else if (s.fn c.fn).maxCtx < s.ctxsUsed c.fn + 1 then s.reply c stNoSpace
  else
    let k := s.takeKey
    if durable then
      let g := k.2.pickSeal
      g.2.newContext c { st := .active, owner := 0, key := k.1, nack, durable := true, sealId := g.1 }
    else k.2.newContext c { st := .active, owner := c.fn, key := k.1, nack }

def specCtxCreate : CmdSpec :=
  { opcode := 0x0100, link := false, rule := .zero, defined := [(8, 10), (12, 16)]
    faults := fun _ p => [(8, bits (par p 8 1) 7 2 != 0), (9, decide (2 ≤ par p 9 1))]
    start := startCtxCreate }

/-! ## DRAINING (R29, R30) -/

/-- The host windows of a context stop translating, shadow and in force (R358). -/
def State.unbindHost (s : State) (p : HWin → Bool) : State :=
  s.modHep fun h => { h with
    hwin := h.hwin.filterMap fun e =>
      let w := if p e.2 then { e.2 with valid := false } else e.2
      if w = {} then none else some (e.1, w)
    hwinOn := h.hwinOn.filter fun e => !p e.2.w }

/-- A host read serves a transfer or a command of a context. -/
def ReadUse.ofCtx (s : State) (c : Nat) : ReadUse → Bool
  | .xfer id _ => s.xfers.any fun x => x.id == id && x.ctx == c
  | .cmd id => s.cmds.any fun e => e.id == id && pCtx e.p == c
  | .quarantined => false

/-- With Completion Timeout Disable set, the destruction of a context ends its host reads (R344): their slots are quarantined, so that no
late completion meets another read (log 165). -/
def State.endReadsOf (s : State) (c : Nat) : State :=
  let fn := (s.ctx c).owner
  if (s.fn fn).ctoDis then
    s.modFn fn fun f => { f with reads := f.reads.map fun e => (e.1, if e.2.use.ofCtx s c then { e.2 with use := .quarantined } else e.2) }
  else s

/-- An ACTIVE context enters DRAINING (R29, R30, R177, R256, R269, R294, R344, R358). Commands of the context that the caller has
dropped before (FLR, R66) get no reply. DESIGN CHOICE (log 151): requests that wait at a regulator, arrived and not admitted, are kept, and
execute once it lets them through; R30 speaks of admitted ones and of new ones. -/
def State.drainCtx (s : State) (c : Nat) : State :=
  if s.isActive c then
    let s := (s.modCtx c fun x => { x with st := .draining, sealing := x.durable }).endReadsOf c
    let s := s.refuseHeld fun q => q.ctx == c && (match q.hold with | .miss _ => true | _ => false)
    let s := s.abortRuns (fun r => r.ctx == c) 10
    let s := s.each ((s.xfers.filter fun x => x.ctx == c).map (·.id)) fun s x => s.failXfer x stNoPerm
    let s := s.each (s.cmds.filter fun e => e.opcode == 0x0204 && e.st == .running && pCtx e.p == c) fun s e => s.reply e stNoPerm
    let s := s.each ((s.regions.filter fun e => e.2.ctx == c && e.2.owned && e.2.share == .publishing).map (·.1)) fun s i =>
      s.endPublish i .unpublished stNoPerm 0
    s.unbindHost fun w => w.ctx == c
  else s

def startCtxDestroy (s : State) (c : Cmd) : State :=
  let id := par c.p 8 4
  if pCtx c.p ≠ 0 then
    if id ≠ 0 then s.bad c 8 else s.drainCtx (pCtx c.p)
  else if c.fn ≠ 0 then s.reply c stNoPerm
  else
    match tfind? s.sealed id with
    | some g =>
      let s := s.each g.regions State.freeRegion
      let s : State := { s with sealed := tdel s.sealed id }
      s.reply c 0
    | none =>
      if id ≠ 0 && s.ctxs.any (fun e => e.2.durable && e.2.sealId == id) then s.reply c stConflict else s.bad c 8

def specCtxDestroy : CmdSpec :=
  { opcode := 0x0101, link := false, rule := .destroy, cls := fun _ => .finish, defined := [(8, 12)], start := startCtxDestroy }

/-! ## The end of DRAINING (R29, R31, R46) -/

/-- A tier page of a region that is sealed (R31): FLASH with its committed image, or INVALID. -/
def State.sealPage (s : State) (page : Nat) : State :=
  let e := s.ent page
  let s := s.cancelPrefetch page
  let s := s.modDir (pageDir page) fun t => { t with
    demandQ := t.demandQ.filter (· != page), inFlight := t.inFlight - b2n (e.st == .fetching || e.discard) }
  let s := ((if e.framed then s.freeFrame page false else s).setFramePair page 0 0).leaveDie page
  (s.modEnt page fun _ => if thas s.fmap page then { st := .flash, onFlash := true } else {}).settlePressure (pageDir page)

/-- Seals a tiered region (R31): its content is what is committed to flash. Its blocks are no longer forced RAW (log 135). -/
def State.sealRegion (s : State) (i sealId : Nat) : State :=
  match s.region? i with
  | none => s
  | some r =>
    let hit (p : Nat) : Bool := r.zaPage ≤ p && p < r.zaPage + r.pages
    let h := s.handleOf i
    let s := s.retireTables fun t => t.region == h
    let s : State := { s with
      wbuf := s.wbuf.filter fun w => !hit (w.line / 1024)
      atoms := s.atoms.filter fun a => !hit (a.line / 1024)
      hbmStk := s.hbmStk.map fun e => (e.1, e.2.dropLines hit)
      groups := tableClear s.groups (65536 * i) 65536
      staged := s.staged.clearPages r.zaPage r.pages }
    let s := s.each (((s.dir.map (·.1)) ++ (s.refRecs.map (·.1)) ++ (s.fmap.map (·.1))).eraseDups.filter hit) State.sealPage
    let s := s.modHbm fun m => m.clearPages r.zaPage r.pages
    s.setRegion i { r with sealedBy := sealId, forceRaw := false }

/-- A region of a context that reaches FREE (R31, R46, R269): sealed, withdrawn while others subscribe, or freed. -/
def State.leaveRegion (s : State) (x : Ctx) (i : Nat) : State :=
  match s.region? i with
  | none => s
  | some r =>
    if x.sealing && r.kind = 0 then s.sealRegion i x.sealId
    else if r.share == .published || r.share == .withdrawn then
      (s.setRegion i { r with share := .withdrawn, owned := false, keySlot := r.keySlot }).settleVersion i
    else s.freeRegion i

/-- A context reaches FREE (R29, R31, R46, R206): its subscriptions end, its regions are freed or kept, its kernels and shares
go, its key is discarded or kept with the sealed image; the commands still unanswered reply: the CTX_DESTROY that began it OK,
the others NO_PERM (log 34). -/
def State.freeCtx (s : State) (c : Nat) : State :=
  let x := s.ctx c
  let mine := (s.subs.filter fun e => e.2.ctx == c).map fun e => (e.1, e.2.region)
  let s : State := { s with subs := s.subs.filter fun e => e.2.ctx != c }
  let s := s.each mine fun s e => (s.nextSeq e.1).settleVersion e.2
  let regions := (s.regions.filter fun e => e.2.ctx == c && e.2.owned && e.2.sealedBy == 0).map (·.1)
  let s := s.retireTables fun t => t.ctx == c && t.owned
  let s : State := { s with tables := s.tables.map fun e => (e.1, if e.2.ctx = c then { e.2 with owned := false } else e.2) }
  let s := s.each regions fun s i => s.leaveRegion x i
  let kept := (s.regions.filter fun e => e.2.sealedBy == x.sealId && x.sealId != 0).map (·.1)
  let img : SealedImg := { sealId := x.sealId, key := x.key, gen := x.gen, regions := kept }
  let s : State := if x.sealing then { s with sealed := tset s.sealed x.sealId img } else s
  let s := s.modDisp fun d => { d with kernels := d.kernels.filter fun e => e.2.ctx != c }
  let s := s.each (s.engines.map (·.1)) fun s e => s.modEngine e fun g => if g.lastCtx = some c then { g with lastCtx := none } else g
  let s := s.each (List.range 5) fun s r => s.modReg r fun g => { g with ctxs := tdel g.ctxs c }
  let s := ({ s with ctxs := tdel s.ctxs c } : State).loadKey c 0
  s.each (s.cmds.filter fun e => pCtx e.p == c && e.st != .replied) fun s e =>
    if e.opcode = 0x0101 && e.st == .running then s.reply e 0 else s.reply e stNoPerm

/-- Admitted work of a context is left: requests held, runs (R29). -/
def State.busyCtx (s : State) (c : Nat) : Bool :=
  (s.held.any fun q => q.ctx == c) || (s.disp.runs.any fun r => r.ctx == c)

/-- A CTX_DESTROY of the context is in flight on the scheduler core while that restarts: the restarted core finishes it (R70). -/
def State.destroyWaits (s : State) (c : Nat) : Bool :=
  (s.proc 2).restarting && s.cmds.any fun e => e.opcode == 0x0101 && e.st == .running && pCtx e.p == c

/-- The admitted work of a context is done (R29); while `destroyWaits` the event stands for the time it is taken. -/
def execCtxDrainComplete (ctx : BitVec 12) (s : State) : Out1 :=
  .next (if (s.ctx ctx.toNat).st == .draining && !s.busyCtx ctx.toNat && s.pmc.powered && !s.pmc.fatal && !s.destroyWaits ctx.toNat then
      (s.freeCtx ctx.toNat).settle
    else s)

/-! ## CTX_BIND_PORT (R34); the shares change at the next rebalance (R150) -/

def startCtxBindPort (s : State) (c : Cmd) : State :=
  let mask := BitVec.ofNat 16 (par c.p 8 2)
  let clear := par c.p 10 1 = 1
  (s.modCtx (pCtx c.p) fun x => { x with bind := if clear then x.bind &&& ~~~mask else x.bind ||| mask }).reply c 0

def specCtxBindPort : CmdSpec :=
  { opcode := 0x0102, pfOnly := true, link := false, rule := .anyActive, defined := [(8, 11)]
    faults := fun _ p => [(10, decide (2 ≤ par p 10 1))], start := startCtxBindPort }

/-! ## WIN_SET (R36, R37) -/

/-- The region that a WIN_SET's handle names, checks 1 and 2 of R37: its index, the region and the subscription. -/
def State.winTarget (s : State) (h c : Nat) : Except Nat (Nat × Region × Option Nat) :=
  match s.named h with
  | .stale => .error stBadParam
  | .region i r =>
    if r.ctx = c && r.owned && r.sealedBy = 0 && r.share != .withdrawn then .ok (i, r, none) else .error stNoPerm
  | .sub u v =>
    if v.ctx = c then
      (match s.region? v.region with
       | some r => .ok (v.region, r, some u)
       | none => .error stBadParam)
    else .error stNoPerm

/-- Check 3 of R37: the offset of the field at fault. -/
def State.winRange (s : State) (c w : Nat) (r : Region) (off pages la : Nat) : Option Nat :=
  let overlap := (s.ctx c).windows.any fun e =>
    e.1 != w && e.2.valid && la < e.2.laPage + e.2.pages && e.2.laPage < la + pages
  if r.pages < off + pages then some 16
  else if pages = 0 || 2 ^ 40 < la + pages then some 20
  else if overlap then some 20
  else none

def startWinSet (s : State) (c : Cmd) : State :=
  let ctx := pCtx c.p
  let w := par c.p 8 1
  let f := par c.p 9 1
  let put (s : State) (v : Window) : State := s.modCtx ctx fun x => { x with windows := tput {} x.windows w v }
  if !bit f 0 then (put s {}).reply c 0
  else
    let off := par c.p 16 4
    let pages := par c.p 20 4
    let la := par c.p 24 5
    match s.winTarget (par c.p 12 4) ctx with
    | .error st => if st = stBadParam then s.bad c 12 else s.reply c st
    | .ok (i, r, sub) =>
      match s.winRange ctx w r off pages la with
      | some o => s.bad c o
      | none =>
        let perms := bits f 5 1
        if perms &&& permsAllowed r sub.isSome ≠ perms then s.reply c stNoPerm
        else
          (put s { valid := true, rd := bit f 1, wr := bit f 2, atom := bit f 3, own := bit f 4, krn := bit f 5
                   laPage := la, pages, zaPage := r.zaPage + off
                   keySlot := if r.keySlot = 0 then ctx else r.keySlot, gen := r.gen, region := i, sub }).reply c 0

def specWinSet : CmdSpec :=
  { opcode := 0x0103, defined := [(8, 10), (12, 29)]
    faults := fun _ p => [(8, decide (32 ≤ par p 8 1)), (9, bits (par p 9 1) 7 6 != 0)]
    start := startWinSet }

/-! ## Meanings -/

def execCtxCreate (via : Via) (p : Packet) (s : State) : Out1 := .next (s.submit specCtxCreate via p)
def execCtxDestroy (via : Via) (p : Packet) (s : State) : Out1 := .next (s.submit specCtxDestroy via p)
def execCtxBindPort (via : Via) (p : Packet) (s : State) : Out1 := .next (s.submit specCtxBindPort via p)
def execWinSet (via : Via) (p : Packet) (s : State) : Out1 := .next (s.submit specWinSet via p)

end Sys2Proof.Machine
end

