-- ==== Sys2Proof/Machine/Counters.lean ====
section
/-!
DEFINITION. Performance counters (R429-R443): MARK, CNT_CONFIG, overflow, snapshots on demand and periodic. Island cycles are a
free value (log 20).
-/

namespace Sys2Proof.Machine

/-! ## Instances and events (R429, R432) -/

/-- Instances of a block code; 0 for a reserved one. -/
def instances (h : Bool) (blk : Nat) : Nat :=
  match blk with
  | 0x08 => 4
  | 0x09 => 2
  | 0x0A => 10
  | 0x0B => 10
  | 0x0C => 10
  | 0x0D => 4
  | 0x0E => 2
  | 0x0F => if h then 0 else 2
  | n => if n < 8 then 1 else 0

/-- Every instance, in ascending block code and instance order. -/
def allInstances (h : Bool) : List (Nat × Nat) :=
  (List.range 16).flatMap fun b => (List.range (instances h b)).map fun i => (b, i)

/-- The highest event code of a block. -/
def lastEvent (blk : Nat) : Nat :=
  match blk with
  | 0x01 => 0x0C
  | 0x03 => 0x03
  | 0x08 => 0x14
  | 0x09 => 0x03
  | 0x0A => 0x0E
  | 0x0B => 0x0C
  | 0x0C => 0x03
  | 0x0D => 0x0B
  | 0x0E => 0x0E
  | 0x0F => 0x09
  | _ => 0

/-- An event code is defined in a block. -/
def eventOk (blk code : Nat) : Bool := code ≤ lastEvent blk || (0xF0 ≤ code && code ≤ 0xF2)

/-- An event carries attribute C. LNK 0x08, which carries it once check 1 has passed, counts as carrying it (log 59). -/
def eventHasCtx (blk code : Nat) : Bool :=
  0 < code && code ≤ (match blk with
    | 0x01 => 9
    | 0x03 => 3
    | 0x08 => 0x0D
    | 0x09 => 2
    | 0x0A => 0x0C
    | 0x0B => 0x0C
    | 0x0C => 3
    | 0x0D => 0x0B
    | 0x0E => 0x0E
    | 0x0F => 5
    | _ => 0)

/-- Events whose number the model does not follow: cycles, rows, decode-queue waits, channel details. Their counters read as
free values (log 20). -/
def eventOpen (blk code : Nat) : Bool :=
  code = 0xF0 || code = 0xF1 ||
  (match blk with
   | 0x08 => [0x0A, 0x12].contains code
   | 0x09 => code = 0x03
   | 0x0A => [0x03, 0x04, 0x0E].contains code
   | 0x0B => code = 0x0B
   | 0x0D => [0x07, 0x08].contains code
   | 0x0F => [0x04, 0x09].contains code
   | _ => false)

/-- Fixed counters that the model does not follow: F0 and F1 everywhere, those of HEP, and the bytes switched by HUB (log 20). -/
def fixedOpen (blk f : Nat) : Bool := f < 2 || blk = 0x01 || (blk = 0x09 && f = 3)

/-- The value of a programmable counter as it reads. -/
def State.pctrValue (s : State) (blk inst k : Nat) : Nat × State :=
  let c := tget {} s.cnt.p (8 * instOf blk inst + k)
  if c.active && eventOpen blk c.event then (let f := s.takeFree; (f.1 % 2 ^ 48, f.2)) else (c.value, s)

/-- The value of a fixed counter as it reads. -/
def State.fctrValue (s : State) (blk inst f : Nat) : Nat × State :=
  if fixedOpen blk f then (let g := s.takeFree; (g.1 % 2 ^ 48, g.2)) else (tget 0 s.cnt.f (4 * instOf blk inst + f), s)

/-! ## MARK (R442) -/

/-- Every instance records the value and its own count; the message and the MARK are events 0x00F1 and 0x00F2 of it. -/
def startMark (s : State) (c : Cmd) : State :=
  let v := par c.p 8 4
  let s := s.each (allInstances s.variantH) fun s e =>
    let f := s.takeFree
    let s := f.2.modCnt fun t => { t with marks := tmod {} t.marks (instOf e.1 e.2) fun m =>
      { value := BitVec.ofNat 32 v, at_ := BitVec.ofNat 48 f.1, count := (m.count + 1) % 65536 } }
    s.count e.1 e.2 0xF2 {}
  let f := (s.modCnt fun t => { t with mark := BitVec.ofNat 32 v }).takeFree
  f.2.reply c 0 (v + (f.1 % 2 ^ 32) <<< 32)

def specMark : CmdSpec :=
  { opcode := 0x0001, rule := .zeroOrOwn, cls := fun _ => .finish, defined := [(8, 12)], start := startMark }

/-! ## CNT_CONFIG (R433-R435) -/

/-- The encoding faults of CNT_CONFIG (R433, R434). -/
def cntFaults (s : State) (p : Packet) : List (Nat × Bool) :=
  let blk := par p 8 1
  let code := par p 12 4
  let f := par p 16 1
  let base := par p 24 8
  let limit := par p 32 8
  [(8, decide (instances s.variantH blk = 0)), (9, decide (instances s.variantH blk ≤ par p 9 1)), (10, decide (8 ≤ par p 10 1)),
   (12, !(eventOk blk (code % 65536))), (14, bits code 23 16 != 0), (15, bits code 31 24 != 0)] ++
  (if code = 0 then (List.range 32).map fun i => (16 + i, par p (16 + i) 1 != 0)
   else
    [(16, bits f 7 4 != 0 || bits f 1 0 = 3 || (bit f 3 && !([0x08, 0x0A, 0x0B, 0x0D].contains blk))),
     (17, decide (3 ≤ par p 17 1)), (19, bits (par p 18 2) 15 12 != 0),
     (18, decide (par p 17 1 = 2 && 16 ≤ par p 18 2 % 4096)), (20, par p 20 4 = 0),
     (24, base % 65536 != 0 || ((base != 0 || limit != 0) && limit ≤ base)), (32, limit % 65536 != 0),
     (47, bits (par p 46 2) 15 11 != 0)])

/-- Counters that a function owns, as keys. -/
def State.countersOf (s : State) (fn : Nat) : List Nat := (s.cnt.p.filter fun e => e.2.active && e.2.owner == fn).map (·.1)

/-- Removes the sample that a counter holds. -/
def Cnt.dropSample (t : Cnt) (inst k : Nat) : Cnt :=
  if bits (tget 0 t.samples inst).toNat 2 0 = k then { t with samples := tput 0 t.samples inst 0 } else t

/-- Releases a counter. -/
def State.releaseCounter (s : State) (key : Nat) : State :=
  s.modCnt fun t => { t.dropSample (key / 8) (key % 8) with p := tput {} t.p key {} }

/-- A vector that the owner's table does not hold is reserved (R354, R434). -/
def vectorFault (fn : Nat) (p : Packet) : List (Nat × Bool) := [(46, par p 12 4 ≠ 0 && decide (msixVectors fn ≤ par p 46 2 % 2048))]

/-- The checks of R434 at check 6, then the configuration (R435). -/
def startCntConfig (s : State) (c : Cmd) : State :=
  let p := c.p
  let inst := instOf (par p 8 1) (par p 9 1)
  let key := 8 * inst + par p 10 1
  let code := par p 12 2
  let old := tget {} s.cnt.p key
  let vf := c.fn ≠ 0
  let master := par p 18 2
  let foreign := vf && code ≠ 0 && !(bits (par p 16 1) 1 0 = 1 && par p 17 1 = 1 &&
    s.isActive master && (s.ctx master).owner = c.fn && eventHasCtx (par p 8 1) code)
  if foreign then s.reply c stNoPerm
  else if old.active && old.owner ≠ c.fn && !(!vf && code = 0) then s.reply c stConflict
  else if code = 0 then (s.releaseCounter key).reply c 0
  else if vf && !(old.active && old.owner = c.fn) && 64 ≤ (s.countersOf c.fn).length then s.reply c stNoSpace
  else
    let used := (s.cnt.p.filter fun e => e.2.active && e.2.owner == c.fn && e.1 != key).map (·.2.ownIdx)
    let idx := if old.active && old.owner = c.fn then old.ownIdx else (lowest (fun n => !used.contains n) 0 64).getD 0
    let n : Pctr :=
      { value := par p 40 6, event := code, owner := c.fn, active := true, flags := BitVec.ofNat 8 (par p 16 1)
        masterKind := par p 17 1, master, classMask := BitVec.ofNat 32 (par p 20 4), zaBase := par p 24 8, zaLimit := par p 32 8
        vec := par p 46 2, ownIdx := idx }
    (s.modCnt fun t => { t.dropSample inst (par p 10 1) with p := tput {} t.p key n }).reply c 0

def specCntConfig : CmdSpec :=
  { opcode := 0x0A00, link := false, rule := .zeroOrOwn, defined := [(8, 11), (12, 48)], faults := cntFaults, fnFaults := vectorFault
    start := startCntConfig }

/-! ## Snapshots (R438-R441) -/

/-- One record of a snapshot: block, instance, kind, flags, event, owner, value, capture and mark (R440). -/
def snapRecord (blk inst kind flags event owner value capture : Nat) (m : MarkRec) : List Byte :=
  leBytes 1 blk ++ leBytes 1 inst ++ leBytes 1 kind ++ leBytes 1 flags ++ leBytes 2 event ++ leBytes 1 owner ++ [0] ++
  leBytes 6 value ++ [0, 0] ++ leBytes 6 capture ++ leBytes 6 m.at_.toNat ++ leBytes 4 m.value.toNat

/-- The record of a sample: words 0-1 in bytes 8-23. -/
def sampleRecord (blk inst owner : Nat) (w : BitVec 128) : List Byte :=
  leBytes 1 blk ++ leBytes 1 inst ++ [16, 0, 0, 0] ++ leBytes 1 owner ++ [0] ++ leBytes 16 w.toNat ++ List.replicate 8 0

/-- The records of one instance for a function; `full` adds the fixed counters and the port windows (R439). -/
def State.instRecords (s : State) (blk inst fn : Nat) (full : Bool) : List (List Byte) × State :=
  let f := s.takeFree
  let cap := f.1 % 2 ^ 48
  let i := instOf blk inst
  let m := tget {} s.cnt.marks i
  let sample := tget 0 s.cnt.samples i
  let ps := (List.range 8).foldl (fun (acc : List (List Byte) × State) k =>
    let c := tget {} acc.2.cnt.p (8 * i + k)
    if c.active && c.owner = fn then
      let v := acc.2.pctrValue blk inst k
      let has := bit sample.toNat 3 && bits sample.toNat 2 0 = k
      (acc.1 ++ [snapRecord blk inst k (b2n c.ovf + 2 * b2n has) c.event fn v.1 cap m] ++
        (if has then [sampleRecord blk inst fn sample] else []), v.2)
    else acc) ([], f.2)
  let fs := if full then
      (List.range 4).foldl (fun (acc : List (List Byte) × State) k =>
        let v := acc.2.fctrValue blk inst k
        (acc.1 ++ [snapRecord blk inst (8 + k) 0 0 0 v.1 cap m], v.2)) ([], ps.2)
    else ([], ps.2)
  let win (p : Nat) : List Byte :=
    let w := tget {} s.cnt.wins p
    snapRecord blk inst (if blk = 0x08 then 12 + p % 4 else 12) 0 0 0 (w.inShare + w.spare) cap m
  let ws := if !full then []
    else if blk = 0x08 then (List.range 4).map fun j => win (4 * inst + j)
    else if blk = 0x01 then [win 16]
    else []
  (ps.1 ++ fs.1 ++ ws, fs.2)

/-- A snapshot for a function within a length of 64 bytes or more: its bytes (R440). -/
def State.snapshot (s : State) (fn : Nat) (full periodic : Bool) (len : Nat) : List Byte × State :=
  let f := s.takeFree
  let all := (allInstances s.variantH).foldl (fun (acc : List (List Byte) × State) e =>
    let r := acc.2.instRecords e.1 e.2 fn full
    (acc.1 ++ r.1, r.2)) ([], f.2)
  let fit := (len - 64) / 32
  let recs := all.1.take fit
  let head := leBytes 4 0x534E4331 ++ leBytes 4 s.cnt.snapSeq ++ leBytes 8 f.1 ++ leBytes 4 recs.length ++
    leBytes 1 (b2n (decide (recs.length < all.1.length)) + 2 * b2n periodic) ++ leBytes 1 fn ++ [0, 0] ++
    leBytes 4 s.cnt.mark.toNat ++ List.replicate 36 0
  (head ++ recs.flatten, all.2.modCnt fun t => { t with snapSeq := (t.snapSeq + 1) % 2 ^ 32 })

/-- The plaintext of lines of a region, within a block, as they stand now: in the frame, or in the flash image. -/
def State.peekLines (s : State) (r : Region) (line n ctx : Nat) : List Line :=
  let st := (s.ent (line / 1024)).st
  let t : State := if r.tiered && (st == .flash || st == .fetching) then { s with hbm := s.flash } else s
  (t.readLines r line n ctx 0 3 .long).1.map (·.2)

/-- The bytes of a piece as they stand now. -/
def State.peekPiece (s : State) (ctx la n : Nat) : List Byte :=
  match (s.translate ctx la n .wr false).bind fun t => (s.region? t.region).map fun r => (t, r) with
  | some (t, r) => (s.peekLines r (t.za / 64) (n / 64) ctx).flatMap lineBytes
  | none => List.replicate n 0

/-- Writes a piece for a link snapshot, through the windows of its context. -/
def State.writePart (s : State) (c : Cmd) (a : Nat) (data : List Byte) : State :=
  match s.translate (pCtx c.p) a data.length .wr false with
  | none => s.replyTo c.id stNoPerm
  | some t =>
    let id := s.takeId
    id.2.dispatchReq
      { id := id.1, src := .cmd c.id, ctx := pCtx c.p, op := .wr, la := a, za := t.za, region := t.region, lines := data.length / 64
        cls := 0, entry := s.cls 0, keySlot := t.keySlot, gen := t.gen, data := linesOf (data.length / 64) data }

/-- Writes a link snapshot's pieces while the command still runs. -/
def State.snapTo (s : State) (c : Cmd) (l : List Byte) : List (Nat × Nat) → State
  | [] => s
  | (a, n) :: rest =>
    if (s.cmd? c.id).any fun e => e.st = .running then (s.writePart c a (l.take n)).snapTo c (l.drop n) rest else s

/-- Undoes a link snapshot: the pieces already written hold again what they held (R70). -/
def State.unsnap (s : State) (c : Cmd) : State :=
  let la := par c.p 8 8
  let waits (a : Nat) : Bool := s.held.any fun q => q.src == .cmd c.id && q.la == a
  let done := (piecesOf la c.data.length).filter fun e => !waits e.1
  let s := (s.reply c stRestarted).refuseHeld fun q => q.src == .cmd c.id
  s.each done fun s e => s.writePart c e.1 ((c.data.drop (e.1 - la)).take e.2)

/-- A link snapshot writes whole lines, and whole blocks of a compressed region (R125). -/
def State.snapGranule (s : State) (c la size : Nat) : Bool :=
  la % 64 ≠ 0 || (piecesOf la size).any fun e =>
    match s.translate c e.1 e.2 .wr false with
    | some t => (match s.region? t.region with | some r => r.auto && e.2 ≠ 4096 | none => false)
    | none => false

/-- The bytes that a link snapshot writes: whole lines, with zeros after the last record (R125, log 58). -/
def snapLines (l : List Byte) : List Byte := l ++ List.replicate (64 * cdiv l.length 64 - l.length) 0

def startCntSnapshot (s : State) (c : Cmd) : State :=
  let addr := par c.p 8 8
  let len := par c.p 16 4
  if len < 64 then s.bad c 16
  else if viaLink c.via then
    let o := s.snapshot c.fn false false (len / 64 * 64)
    let l := snapLines o.1
    if !s.covered (pCtx c.p) addr l.length .wr false then s.reply c stNoPerm
    else if s.snapGranule (pCtx c.p) addr l.length then s.reply c stGranule
    else
      let ps := piecesOf addr l.length
      let old := ps.flatMap fun e => s.peekPiece (pCtx c.p) e.1 e.2
      (o.2.modCmd c.id fun c => { c with aux := ps.length, done := o.1.length, data := old }).snapTo c l ps
  else
    let o := s.snapshot c.fn (c.fn = 0) false len
    (o.2.hostWrite c.fn (pCtx c.p) addr o.1).reply c 0 o.1.length

def specCntSnapshot : CmdSpec :=
  { opcode := 0x0A01, rule := .zeroOrOwn, defined := [(8, 20)], start := startCntSnapshot }

/-- A periodic snapshot falls due (R441). -/
def State.periodic (s : State) : State :=
  let busy := s.cmds.any fun c => c.opcode == 0x0A01 && c.st == .running
  if busy || !(s.fn 0).bme then
    s.modCnt fun t => { t with skipped := satAdd t.skipped 1 0xFFFF, skipSeen := true }
  else
    let t := s.cnt
    let addr := 4096 * t.autoBase + 32768 * (t.written % 2 ^ t.log2Slots)
    let o := s.snapshot 0 true true 32768
    (o.2.hostWrite 0 0 addr o.1).modCnt fun t => { t with written := (t.written + 1) % 2 ^ 32 }

/-! ## Meanings -/

def execMark (via : Via) (p : Packet) (s : State) : Out1 := .next (s.submit specMark via p)
def execCntConfig (via : Via) (p : Packet) (s : State) : Out1 := .next (s.submit specCntConfig via p)
def execCntSnapshot (via : Via) (p : Packet) (s : State) : Out1 := .next (s.submit specCntSnapshot via p)

/-- COUNTER_OVERFLOW (R436): a configured counter wraps; one that the model's own counting has just wrapped is at 0 already. -/
def execCounterOverflow (blk inst : BitVec 8) (ctr : Fin 8) (s : State) : Out1 :=
  let i := instOf blk.toNat inst.toNat
  let key := 8 * i + ctr.val
  .next (if s.running && inst.toNat < instances s.variantH blk.toNat && (tget {} s.cnt.p key).active then
      (s.modCnt fun t => { t with p := tmod {} t.p key fun c => { c with value := 0 } }).overflow i ctr.val
    else s)

def execPeriodicSnapshot (s : State) : Out1 := .next (if s.running && s.cnt.autoOn && !s.hep.d3hot then s.periodic else s)

end Sys2Proof.Machine
end

