-- ==== Sys2Proof/Machine/HostIo.lean ====
section
/-!
DEFINITION. Completions of host reads, their timeouts and their quarantine (R343-R345, R370), and what their data bring about.
-/

namespace Sys2Proof.Machine

/-- Every host-facing piece of work goes on as far as it may (R293, R343, R367). -/
def State.hostGo (s : State) : State :=
  let s := s.pumpAll
  s.each ((s.cmds.filter fun c => c.st == .running && (hostArgs c).isSome).map (·.id)) State.askCmd

/-- All host data of a command have arrived: the image is verified, the piece staged, the SPDM request answered. -/
def State.hostArrived (s : State) (id : Nat) : State :=
  match s.cmd? id with
  | some c =>
    if c.st = .running && s.hostDone c then
      if c.opcode = 0x0500 then s.loadKernel c c.data
      else if c.opcode = 0x0900 then s.endStage c 0
      else s.relayed c
    else s
  | none => s

/-- A host read has failed (R291, R344, R390): its transfer or command ends with DATA_UNCORRECTABLE. -/
def State.readFailed (s : State) : ReadUse → State
  | .xfer xid _ => s.failXfer xid stUncorrectable
  | .cmd id =>
    (match s.cmd? id with
     | some c =>
       if c.st != .running then s
       else if c.opcode = 0x0900 then s.endStage c stUncorrectable
       else s.reply c stUncorrectable
     | none => s)
  | .quarantined => s

/-- The context that a host read is for. -/
def State.readCtx (s : State) : ReadUse → Nat
  | .xfer xid _ => ((s.xfer? xid).map (·.ctx)).getD 0
  | .cmd id => ((s.cmd? id).map fun c => pCtx c.p).getD 0
  | .quarantined => 0

/-- Data of a host read reach the unit or the command they are for (R289, R293). -/
def State.readData (s : State) (use : ReadUse) (off : Nat) (data : List Byte) : State :=
  let s := s.count 0x01 0 0x04 { ctx := some (s.readCtx use) } data.length
  match use with
  | .xfer xid k =>
    if thas ((s.xfer? xid).map (·.units) |>.getD []) k then
      s.modUnit xid k fun u => { u with
        data := ((linesOf (data.length / 64) data).mapIdx fun i v => (off / 64 + i, v)).foldl (fun t e => tset t e.1 e.2) u.data }
    else s
  | .cmd id => s.modCmd id fun c => if c.data.length < off + data.length then c else c.arrived off data
  | .quarantined => s

/-- An unexpected completion (R345, R370). -/
def State.unexpected (s : State) (fn : Nat) : State := s.aerUnc fn 16 true

/-- HOST_COMPLETION of a function whose generation matches (R343, R345, R370). A read may be answered by several completions,
each continuing where the one before ended. -/
def State.completed (s : State) (fn slot : Nat) (status : CplStatus) (data : List Byte) : State :=
  match tfind? (s.fn fn).reads slot with
  | none => s.unexpected fn
  | some r =>
    if r.use = .quarantined then
      let s := s.modFn fn fun f => { f with late := satAdd f.late 1 0xFFFF, lateSeen := true }
      (s.unexpected fn).count 0x01 0 0x0C {}
    else
      let free (s : State) : State := s.modFn fn fun f => { f with reads := tdel f.reads slot }
      match status with
      | .error => ((free s).readFailed r.use).hostGo
      | .poisoned => (((free s).aerUnc fn 12 true).readFailed r.use).hostGo
      | .good =>
        let n := data.length
        if n = 0 || r.len < r.got + n || (n % 64 ≠ 0 && (match r.use with | .xfer _ _ => true | _ => false)) then s.unexpected fn
        else
          let s := s.readData r.use (r.off + r.got) data
          if r.got + n = r.len then
            let s := (free s).hostGo
            match r.use with
            | .cmd id => s.hostArrived id
            | _ => s
          else s.modFn fn fun f => { f with reads := tset f.reads slot { r with got := r.got + n } }

/-! ## Meanings -/

def execHostCompletion (fn : Fin 256) (tag : BitVec 14) (status : CplStatus) (data : List Byte) (s : State) : Out1 :=
  .next (
    let f := s.fn fn.val
    if !s.running then s
    else if tag.toNat / 2 ^ f.slotBits ≠ f.genField then
      (s.modHep fun h => { h with staleCpl := satAdd h.staleCpl 1 0xFFFF }).count 0x01 0 0x0B {}
    else s.completed fn.val (tag.toNat % 2 ^ f.slotBits) status data)

/-- R344: unless Completion Timeout Disable is set, an outstanding read fails and its slot is quarantined. -/
def execCompletionTimeout (fn : Fin 256) (slot : BitVec 10) (s : State) : Out1 :=
  .next (match tfind? (s.fn fn.val).reads slot.toNat with
    | some r =>
      if s.running && !(s.fn fn.val).ctoDis && r.use ≠ .quarantined then
        let s := s.modFn fn.val fun f => { f with reads := tset f.reads slot.toNat { r with use := .quarantined } }
        ((s.aerUnc fn.val 14 true).readFailed r.use).hostGo
      else s
    | none => s)

/-- R345: the slot is usable again. -/
def execHostTagQuarantineExpiry (fn : Fin 256) (slot : BitVec 10) (s : State) : Out1 :=
  .next (match tfind? (s.fn fn.val).reads slot.toNat with
    | some r =>
      if s.running && r.use = .quarantined then
        (s.modFn fn.val fun f => { f with reads := tdel f.reads slot.toNat }).hostGo
      else s
    | none => s)

end Sys2Proof.Machine
end

