-- ==== Sys2Proof/Machine/Regulation.lean ====
section
/-!
DEFINITION. The regulation commands (R137, R138, R153-R155) and the commits of the QOS, GNM and FLS blocks (R5, R158).
-/

namespace Sys2Proof.Machine

/-! ## QOS_CLASS_SET (R137) -/

def startQosClassSet (s : State) (c : Cmd) : State :=
  let e : Class := { target := par c.p 12 4, base := par c.p 16 1, slope := par c.p 17 1, tangent := par c.p 18 1 = 1 }
  (s.modQos fun q => { q with classes := tput {} q.classes (par c.p 8 1) e }).reply c 0

def specQosClassSet : CmdSpec :=
  { opcode := 0x0700, pfOnly := true, link := false, rule := .zero, defined := [(8, 9), (12, 19)]
    faults := fun _ p =>
      [(8, decide (32 ≤ par p 8 1)), (12, decide (2 ^ 20 ≤ par p 12 4)), (16, decide (64 ≤ par p 16 1)),
       (17, decide (64 ≤ par p 17 1)), (16, decide (63 < par p 16 1 + par p 17 1)), (18, decide (2 ≤ par p 18 1))]
    start := startQosClassSet }

/-! ## QOS_BUDGET_SET (R154, R155) -/

/-- A budget that raises the sum of all budgets above the window capacity (R154). -/
def State.overcommits (s : State) (old new : Nat) : Bool :=
  old < new && s.capacityNum < (s.budgets - old + new) * capacityDen

def startQosBudgetSet (s : State) (c : Cmd) : State :=
  let b := par c.p 8 8
  let ctx := pCtx c.p
  if s.overcommits (s.ctx ctx).budget b then s.reply c stOvercommit
  else
    let s := (s.modCtx ctx fun x => { x with budget := b }).splitBudget ctx
    s.reply c 0 (derated b s.qos.derate)

def specQosBudgetSet : CmdSpec :=
  { opcode := 0x0701, pfOnly := true, link := false, rule := .anyActive, defined := [(8, 16)]
    faults := fun _ p => [(8, par p 8 8 % 64 != 0 || decide (2 ^ 40 < par p 8 8))]
    start := startQosBudgetSet }

/-! ## Commits (R5) -/

/-- QOS_COMMIT: the shadowed fields of QOS_CFG and QOS_TANGENT together; a changed INTERNAL_RESERVE changes D (R155). -/
def State.commitQos (s : State) : State :=
  let old := s.qos.reserve
  let s := s.modQos fun q => { q with cfg := q.cfgSh, tan := q.tanSh }
  if s.qos.reserve = old then s else s.rederate

/-- GNM_COMMIT of a die: HIGH_WATER must be above LOW_WATER (Registers of 07); on the Z2520-H writes are ignored. -/
def State.commitGnm (s : State) (d : Nat) : State :=
  let t := s.dirDie d
  if s.variantH || t.highSh ≤ t.lowSh then s
  else (s.modDir d fun t => { t with low := t.lowSh, high := t.highSh }).settlePressure d

/-- FLS_COMMIT of a die: GC_URGENT and GC_START stay unless the first is below the second (Registers of 13). -/
def State.commitFls (s : State) (d : Nat) : State :=
  if s.variantH then s
  else s.modFls d fun t =>
    let n := t.cfgSh.toNat
    let v := if bits n 47 40 < bits n 39 32 then n else setBits n 32 16 (bits t.cfg.toNat 47 32)
    { t with cfg := BitVec.ofNat 64 v }

/-! ## Meanings -/

def execQosClassSet (via : Via) (p : Packet) (s : State) : Out1 := .next (s.submit specQosClassSet via p)
def execQosBudgetSet (via : Via) (p : Packet) (s : State) : Out1 := .next (s.submit specQosBudgetSet via p)
/-- The commits are writes of the PF's BAR0 (R5, R351). -/
def execQosCommit (s : State) : Out1 := .next (s.barWrite 0 fun s => if s.running then s.commitQos else s)
def execGnmCommit (die : Fin 2) (s : State) : Out1 := .next (s.barWrite 0 fun s => if s.running then s.commitGnm die.val else s)
def execFlsCommit (fls : Fin 2) (s : State) : Out1 := .next (s.barWrite 0 fun s => if s.running then s.commitFls fls.val else s)

end Sys2Proof.Machine
end

