-- ==== Sys2Proof/Machine/Endpoint.lean ====
section
/-!
DEFINITION. The endpoint (R343-R372, R357): CXL.mem requests and host windows, function level resets, hot reset, the reply-ring
commit, wake events and the module service capability.
-/

namespace Sys2Proof.Machine

/-! ## CXL.mem (R356, R359, R360, R371) -/

/-- The protocol error record of the CXL RAS capability. -/
def State.cxlError (s : State) : State := s.modHep fun h => h.ras 2

/-! ## HEP_HWIN_COMMIT (R358) -/

/-- The region that a host window's handle names for its context; the owner's handle of a withdrawn version names none (R278). -/
def State.hwinRegion (s : State) (w : HWin) : Option (Nat × Region × Bool) :=
  match s.named w.handle with
  | .region i r => if r.ctx = w.ctx && r.owned && r.sealedBy = 0 && r.share != .withdrawn then some (i, r, false) else none
  | .sub _ u => if u.ctx = w.ctx then (s.region? u.region).map fun r => (u.region, r, true) else none
  | .stale => none

/-- The checks of R358 on one entry, in their order: the status of the first that fails. -/
def State.hwinCheck (s : State) (n : Nat) (w : HWin) : Option Nat :=
  if !s.isActive w.ctx then some stNoPerm
  else
    match s.hwinRegion w with
    | none => some stNoPerm
    | some (_, r, sub) =>
      let overlap := s.hep.hwin.any fun e =>
        e.1 != n && e.2.valid && w.dpaPage < e.2.dpaPage + e.2.pages && e.2.dpaPage < w.dpaPage + w.pages
      if w.wr && (sub || r.frozen) then some stNoPerm
      else if r.auto then some stBadParam
      else if w.pages = 0 || r.pages < w.offset + w.pages || 2 ^ 26 < w.dpaPage + w.pages || overlap then some stBadParam
      else none

/-- Applies all entries, or reports the first that fails. -/
def State.commitHwin (s : State) : State :=
  let es := s.hep.hwin.filter fun e => e.2.valid
  match es.findSome? fun e => (s.hwinCheck e.1 e.2).map fun st => (e.1, st) with
  | some (n, st) => s.modHep fun h => { h with hwinStatus := st, hwinEntry := n }
  | none =>
    let on : Tbl HWinOn := es.filterMap fun e => (s.hwinRegion e.2).map fun r =>
      (e.1, { w := e.2, zaPage := r.2.1.zaPage + e.2.offset, region := r.1 })
    s.modHep fun h => { h with hwinOn := on, hwinStatus := 0, hwinEntry := 0 }

/-! ## Reply rings (R64) -/

/-- HEP_RPL_COMMIT: a change of ADDR or LOG2_ENTRIES starts the ring afresh. -/
def Ring.commit (r : Ring) : Ring :=
  let n : Ring := { r with base := r.baseSh, ctrl := r.ctrlSh }
  if n.base = r.base && n.log2 = r.log2 then n else { n with prod := 0, cons := 0 }

/-! ## Function level resets (R365, R366) -/

/-- A function after an FLR: the next tag generation, its quotas and its AER status kept, everything else as after reset. -/
def Fn.flrState (f : Fn) : Fn :=
  { gen := (f.gen + 1) % 16, flr := true, maxCtx := f.maxCtx, hbmQuota := f.hbmQuota, tierQuota := f.tierQuota
    aerCor := f.aerCor, aerUnc := f.aerUnc, aerCorMask := f.aerCorMask, aerUncMask := f.aerUncMask, aerUncSev := f.aerUncSev
    aerFirst := f.aerFirst, aerHdrs := f.aerHdrs }

/-- The FLR of one function (R66, R365): commands of its aperture are dropped without a reply, its counters released, its ACTIVE
contexts enter DRAINING. -/
def State.flrFn (s : State) (fn : Nat) : State :=
  let s := s.dropCmds fun c => match c.via with | .aperture a => a.val == fn | .link _ _ _ => false
  let s := s.modFn fn Fn.flrState
  let s := s.each (s.countersOf fn) State.releaseCounter
  s.each ((s.ctxs.filter fun e => e.2.st == .active && e.2.owner == fn).map (·.1)) State.drainCtx

/-- Every VF's FLR (R350). -/
def State.flrVfs (s : State) : State := (s.each ((List.range 255).map (· + 1)) State.flrFn).modHep fun h => { h with vfEnable := false }

/-- The quota table after reset: the PF's and the VFs' values (02). -/
def Fn.quotaReset (pf : Bool) (f : Fn) : Fn :=
  if pf then { f with maxCtx := 0xFFF, hbmQuota := 0x3FFFFFF, tierQuota := 0xFFFFFFFF }
  else { f with maxCtx := 0, hbmQuota := 0, tierQuota := 0 }

/-- A PF FLR (R138, R365, R366, R395, R435): the PF's function block, its own registers of it included, is as after reset. -/
def State.flrPf (s : State) : State :=
  let s := if s.hep.vfEnable then s.flrVfs else s
  let s := (s.flrFn 0).fwAbandon none
  let s := s.each ((List.range 255).map (· + 1)) fun s n => s.modFn n (Fn.quotaReset false)
  let s := s.modFn 0 (Fn.quotaReset true)
  let s := s.modQos fun q => { q with classes := ({} : Qos).classes }
  let s := s.each (List.range 2) fun s d => s.modDir d fun t => { t with heldMax := [] }
  let s := s.modHep fun h => { h with
    hwin := [], hwinOn := [], hwinStatus := 0, hwinEntry := 0, msvcCtrl := 7, staleCpl := 0, ptlDropped := 0, cxlRefused := 0
    ptlSeen := false, refusedSeen := false, portWake := 0, btnWake := false }
  s.modCnt fun t => { t with p := [], samples := [], autoOn := false }

/-- A function with its configuration space at its defaults (R363, log 16). -/
def Fn.configDefaults (f : Fn) : Fn :=
  { f with tag10 := false, tag14 := false, ctoEnc := 0, ctoDis := false, relaxed := true, bme := false, mse := false
           msixOn := false, msixMask := false }

/-- Configuration space of every function returns to its defaults. -/
def State.configDefaults (s : State) : State :=
  let s : State := { s with fns := s.fns.map fun e => (e.1, e.2.configDefaults) }
  s.modHep fun h => { h with
    vfEnable := false, memEnable := false, cxlWait := [], hdm := {}, bar0 := 0, bar2 := 0, vfBar0 := 0, vfBar2 := 0, numVfs := 0
    ariHier := false, pageSize := 1, mps := 0, mrrs := 2, aspm := 0 }

/-! ## Wake and the module service capability (R369, R372) -/

/-- A PME event. -/
def State.pme (s : State) (src : PmeSource) : State :=
  let on := match src with
    | .button => s.hep.btnWake
    | .port p => s.hep.portWake.getLsbD p.val
  if !on then s
  else if s.hep.l2 then s.modHep fun h => { h with wake := true, pmeStatus := true }
  else if s.hep.d3hot then
    let s := s.modHep fun h => { h with pmeStatus := true }
    if s.hep.pmeEn then s.emit .pmPme else s
  else s

/-- A counted button press. -/
def State.press (s : State) : State :=
  let s := s.modHep fun h => { h with btnPressed := true, btnLevel := true, pressCount := (h.pressCount + 1) % 256 }
  let c := s.hep.msvcCtrl.toNat
  if bit c 4 && s.running then s.raise 0 (bits c 15 5) else s

/-- Bus Master Enable of a function is cleared (R367). -/
def State.clearBme (s : State) (fn : Nat) : State :=
  if (s.fn fn).bme then s.modFn fn fun f => { f with bme := false, paused := true } else s

/-! ## Meanings -/

def execMemRd (dpa : BitVec 42) (tag : BitVec 16) (s : State) : Out1 := .next (s.cxlRequest { dpa := dpa.toNat, tag := tag.toNat })

/-- MemSpecRd is ignored (R360). -/
def execMemSpecRd (_dpa : BitVec 42) (_tag : BitVec 16) (s : State) : Out1 := .next s

def execMemInv (dpa : BitVec 42) (tag : BitVec 16) (s : State) : Out1 := .next (s.cxlRequest { kind := .inv, dpa := dpa.toNat, tag := tag.toNat })

def execMemWr (dpa : BitVec 42) (tag : BitVec 16) (data : Line) (s : State) : Out1 :=
  .next (s.cxlRequest { dpa := dpa.toNat, tag := tag.toNat, write := some data })

def execMemWrPoison (dpa : BitVec 42) (tag : BitVec 16) (data : Line) (s : State) : Out1 :=
  .next (s.cxlRequest { dpa := dpa.toNat, tag := tag.toNat, write := some data, poison := true })

def execMemWrPtl (dpa : BitVec 42) (tag : BitVec 16) (_enables : BitVec 64) (_data : Line) (s : State) : Out1 :=
  .next (s.cxlRequest { kind := .partial_, dpa := dpa.toNat, tag := tag.toNat })

def execCxlOtherOpcode (_opcode : BitVec 8) (s : State) : Out1 := .next (s.cxlSimple State.cxlError)

/-- A write of COMMIT in the PF's BAR0, as are those of the other COMMIT bits (R351, R355). -/
def execHepHwinCommit (s : State) : Out1 := .next (s.barWrite 0 fun s => if s.running then s.commitHwin else s)

def execHepRplCommit (fn : Fin 256) (s : State) : Out1 :=
  .next (s.barWrite fn.val fun s => if s.running then s.modFn fn.val fun f => { f with ring := f.ring.commit } else s)

/-- VF_FLR: Initiate FLR of a VF, which VF Enable makes be there. -/
def execVfFlr (n : Fin 256) (s : State) : Out1 := .next (if n.val = 0 then s else s.cfgAccess n.val fun s => s.flrFn n.val)

def execPfFlr (s : State) : Out1 := .next (s.cfgAccess 0 State.flrPf)

/-- FLR_COMPLETE (R365): the function's contexts have left ACTIVE and drained, and it answers again. -/
def execFlrComplete (fn : Fin 256) (s : State) : Out1 :=
  .next (if s.pmc.powered && (s.pmc.fatal || !(s.ctxs.any fun e => e.2.owner == fn.val && e.2.st == .draining)) then
      s.modFn fn.val fun f => { f with flr := false }
    else s)

def execVfEnableClear (s : State) : Out1 := .next (s.cfgAccess 0 fun s => if s.hep.vfEnable then s.flrVfs else s)

/-- BME_CLEAR (R367). -/
def execBmeClear (fn : Fin 256) (s : State) : Out1 := .next (s.cfgAccess fn.val fun s => s.clearBme fn.val)

def execMemorySpaceDisable (fn : Fin 256) (s : State) : Out1 :=
  .next (s.cfgAccess fn.val fun s => s.modFn fn.val fun f => { f with mse := false })

def execPmeEvent (src : PmeSource) (s : State) : Out1 := .next (if s.pmc.powered || s.pmc.standby then s.pme src else s)

def execAttnButtonPress (s : State) : Out1 := .next (if s.pmc.powered || s.pmc.standby then s.press else s)

/-- CONFIG_SPACE_READY (R342, R364): after PERST_N is released. The link has trained, to a speed and a width that lanes and partner
allow: free values (log 1). -/
def execConfigSpaceReady (s : State) : Out1 :=
  .next (if s.pmc.powered && s.pmc.rails && !s.pmc.perst && !s.hep.cfgReady then
      let a := s.takeFree
      let b := a.2.takeFree
      b.2.modHep fun h => { h with cfgReady := true, linkSpeed := 1 + a.1 % 6, linkWidth := 2 ^ (b.1 % 5) }
    else s)

/-- PME_TURN_OFF (R368, R413): acknowledged, toward L2. -/
def execPmeTurnOff (s : State) : Out1 :=
  .next (if s.pmc.powered && s.hep.cfgReady then (s.modHep fun h => { h with l2 := true }).emit .pmeToAck else s)

end Sys2Proof.Machine
end

