-- ==== Sys2Proof/Machine/Factor.lean ====
section
/-!
DEFINITION. Number layouts of Chord (R216-R219, R225, R233, R240-R243): packs, factor records, seed columns, expansion and the
sums whose order the spec leaves open.
-/

namespace Sys2Proof.Machine

/-! ## Sums in an open order (R242) -/

/-- Adds up to `n` exact values to an FP32 sum, in an order and grouping that the free values pick. -/
def sumExact (seed n : Nat) (l : List Num) (acc : Nat) : Nat := bits32 (sumFree seed n (num32 acc :: l))

/-- The FP32 sum of a list in an open order. -/
def sum32 (seed : Nat) (l : List Nat) : Nat := sumExact seed l.length (l.map num32) 0

/-- A product added to a value: fused or not as a free value picks; the spec does not say (log 40). -/
def madd (k a b c : Nat) : Nat := if Config.free k % 2 = 0 then f32fma a b c else f32add (f32mul a b) c

/-! ## FP32 and BF16 in bytes -/

def f32s (n : Nat) (l : List Byte) : List Nat := elements 3 n l
def bf16s (n : Nat) (l : List Byte) : List Nat := (elements 1 n l).map ofBf16
def f32Bytes (l : List Nat) : List Byte := l.flatMap (leBytes 4)
def bf16Bytes (l : List Nat) : List Byte := l.flatMap fun v => leBytes 2 (toBf16 v)

def f32One : Nat := 0x3F800000
def f32Nan : Nat := 0x7FC00000

/-- A finite FP32 pattern. -/
def f32Finite (v : Nat) : Bool := bits v 30 23 != 255

/-! ## MX packs (R241, R243) -/

/-- Splits values into groups of 32. -/
def groups32 : Nat → List Nat → List (List Nat)
  | 0, _ => []
  | n + 1, l => l.take 32 :: groups32 n (l.drop 32)

/-- Packs element codes: a byte each, or two to a byte with the even one low. -/
def packCodes (f : Mx) : List Nat → List Byte
  | [] => []
  | [a] => [BitVec.ofNat 8 a]
  | a :: b :: t => if f = .e2m1 then BitVec.ofNat 8 (a + 16 * b) :: packCodes f t
                   else BitVec.ofNat 8 a :: BitVec.ofNat 8 b :: packCodes f t

/-- A pack of up to 2,048 values: 64 scales, the elements, and how many saturated. -/
def mxPack (f : Mx) (vals : List Nat) : List Byte × Nat :=
  let qs := (groups32 (vals.length / 32) vals).map f.quantise
  (qs.map (fun q => BitVec.ofNat 8 q.1) ++ packCodes f (qs.flatMap fun q => q.2.1), (qs.map fun q => q.2.2).sum)

/-- The MX format of an output format code (R251, R263). -/
def mxOf : Nat → Mx
  | 2 => .e4m3
  | 3 => .e5m2
  | _ => .e2m1

/-- The bytes that an output format makes of 2,048 values. -/
def chunkOut (fmt : Nat) : Nat := match fmt with | 0 => 8192 | 1 => 4096 | 4 => 1088 | _ => 2112

/-- Converts values, 2,048 to a pack for MX formats: 0 FP32, 1 BF16, 2 E4M3, 3 E5M2, 4 E2M1 (R243). -/
def convert (fmt : Nat) (vals : List Nat) : List Byte × Nat :=
  if fmt = 0 then (f32Bytes vals, 0)
  else if fmt = 1 then (bf16Bytes vals, 0)
  else go (mxOf fmt) (vals.length / 2048) vals
where
  /-- One pack after another. -/
  go (f : Mx) : Nat → List Nat → List Byte × Nat
    | 0, _ => ([], 0)
    | n + 1, l =>
      let p := mxPack f (l.take 2048)
      let r := go f n (l.drop 2048)
      (p.1 ++ r.1, p.2 + r.2)

/-- Element `idx` of packed codes of `w` bits. -/
def codeAt (w idx : Nat) (l : List Byte) : Nat :=
  bits (leNat ((l.drop (w * idx / 8)).take 2)) (w * idx % 8 + w - 1) (w * idx % 8)

/-! ## Factor records (R217-R219) -/

/-- The rank of a rank code. -/
def rankOf (code : Nat) : Nat := 4 * 2 ^ code

/-- The scale bytes of an MXFP8 section, rounded up to lines. -/
def scaleArea (r : Nat) : Nat := cdiv (8 * r) 64 * 64

/-- The bytes of a section. -/
def sectionBytes (fmt r : Nat) : Nat := if fmt = 1 then 512 * r else 256 * r + scaleArea r

/-- The bytes of a record. -/
def recordBytes (fmt r : Nat) : Nat := 64 + 2 * sectionBytes fmt r

/-- The MX format of a record format. -/
def recMx (fmt : Nat) : Mx := if fmt = 2 then .e4m3 else .e5m2

/-- Element (i, k) of a section. -/
def secElem (fmt r : Nat) (sec : List Byte) (i k : Nat) : Num :=
  if fmt = 1 then num16 (leNat ((sec.drop (2 * (256 * k + i))).take 2))
  else (recMx fmt).scaledValue (sec[8 * k + i / 32]?.getD 0).toNat (sec[scaleArea r + 256 * k + i]?.getD 0).toNat

/-- Column k of a section as FP32. -/
def secCol (fmt r : Nat) (sec : List Byte) (k : Nat) : List Nat :=
  (List.range 256).map fun i => bits32 (secElem fmt r sec i k)

/-- Encodes columns into a section, with the saturated elements. -/
def encodeSection (fmt r : Nat) (cols : List (List Nat)) : List Byte × Nat :=
  if fmt = 1 then (cols.flatMap bf16Bytes, 0)
  else
    let f := recMx fmt
    let qs := cols.flatMap fun c => (groups32 8 c).map f.quantise
    let scales := qs.map fun q => BitVec.ofNat 8 q.1
    (scales ++ List.replicate (scaleArea r - scales.length) 0 ++ qs.flatMap (fun q => q.2.1.map (BitVec.ofNat 8 ·)),
     (qs.map fun q => q.2.2).sum)

/-- The sections of a record. -/
def recU (fmt r : Nat) (rec : List Byte) : List Byte := (rec.drop 64).take (sectionBytes fmt r)
def recV (fmt r : Nat) (rec : List Byte) : List Byte := (rec.drop (64 + sectionBytes fmt r)).take (sectionBytes fmt r)

/-- The header line of a record. -/
def recHeader (fmt code : Nat) (cold : Bool) (step scale n res inn : Nat) : List Byte :=
  leBytes 1 fmt ++ leBytes 1 code ++ leBytes 1 (b2n cold) ++ [0] ++ leBytes 4 step ++ leBytes 4 scale ++ leBytes 2 n ++ [0, 0]
  ++ leBytes 4 res ++ leBytes 4 inn ++ List.replicate 40 0

/-- Bytes of a header as a number. -/
def hdrNum (h : List Byte) (off n : Nat) : Nat := leNat ((h.drop off).take n)

/-- An empty record reads as all zeros, its sections with it (R218). -/
def recEmpty (rec : List Byte) : Bool := rec.all (· == 0)

/-- The header check of R221 without a given format: FORMAT, RANK and reserved bits, and a finite SCALE. -/
def recSound (h : List Byte) : Bool :=
  let f := hdrNum h 0 1
  let k := hdrNum h 1 1
  1 ≤ f && f ≤ 3 && k ≤ 4 && hdrNum h 2 1 ≤ 1 && hdrNum h 3 1 = 0 && hdrNum h 12 2 < 4096 && hdrNum h 14 2 = 0
  && ((h.drop 24).take 40).all (· == 0) && f32Finite (hdrNum h 8 4)

/-- The header check of R221 against a format and a rank code. -/
def recMatches (h : List Byte) (fmt code : Nat) : Bool := recSound h && hdrNum h 0 1 = fmt && hdrNum h 1 1 = code

/-- Element (i, j) of a record's tile (R233). -/
def expandElem (seed fmt r scale : Nat) (u v : List Byte) (i j : Nat) : Nat :=
  f32mul scale (sumExact seed r ((List.range r).map fun k => (secElem fmt r u i k).mul (secElem fmt r v j k)) 0)

/-- Elements of a record's tile from a position on, row by row. -/
def expandFrom (seed fmt code : Nat) (rec : List Byte) (pos n : Nat) : List Nat :=
  let r := rankOf code
  let u := recU fmt r rec
  let v := recV fmt r rec
  let scale := hdrNum rec 8 4
  (List.range n).map fun m => expandElem (seed + 64 * m) fmt r scale u v ((pos + m) / 256) ((pos + m) % 256)

/-- A seed value (R225): in [-1, 1) and not zero; the generator is not given (Config.seed). -/
def seedValue (sd tile col row : Nat) : Nat :=
  let v := (Config.seed sd tile col row).toNat
  let e := bits v 30 23
  if 0 < e && (e < 127 || v = 0xBF800000) then v else 0x3F000000

/-- A seed column. -/
def seedCol (sd tile col : Nat) : List Nat := (List.range 256).map (seedValue sd tile col)

end Sys2Proof.Machine
end

