-- ==== Sys2Proof/Machine/Pliust.lean ====
section
/-!
DEFINITION. Pliust (R237-R246, R261-R266): the registers and memories of an engine, the instructions, and the memory streams of
a loaded kernel.
-/

namespace Sys2Proof.Machine

/-! ## Engine registers -/

/-- X[k]. -/
def Engine.xr (g : Engine) (k : Nat) : Nat := tget 0 g.x k
def Engine.setX (g : Engine) (k v : Nat) : Engine := { g with x := tput 0 g.x k (v % 2 ^ 64) }

/-- A table with the values at keys from `k` on replaced. -/
def tsetRange (t : Tbl Nat) (k : Nat) (vals : List Nat) : Tbl Nat :=
  t.filter (fun e => e.1 < k) ++ (vals.mapIdx fun i v => (k + i, v)).filter (fun e => e.2 != 0)
  ++ t.filter fun e => k + vals.length ≤ e.1

/-- The values at `n` keys from `k` on. -/
def tgetRange (t : Tbl Nat) (k n : Nat) : List Nat :=
  let r := tableRange t k n
  (List.range n).map fun i => tget 0 r (k + i)

/-- The 512 lanes of V[k]. -/
def Engine.vr (g : Engine) (k : Nat) : List Nat := tgetRange g.v (512 * k) 512
def Engine.setV (g : Engine) (k : Nat) (l : List Nat) : Engine := { g with v := tsetRange g.v (512 * k) l }

/-- Sets every lane of V[k]. -/
def Engine.splat (g : Engine) (k v : Nat) : Engine := g.setV k (List.replicate 512 v)

/-- Slab bytes. -/
def Engine.slabRead (g : Engine) (off n : Nat) : List Byte := readBytes g.slab off n
def Engine.slabWrite (g : Engine) (off : Nat) (l : List Byte) : Engine := { g with slab := writeBytes g.slab off l }

/-- The next instruction after one that goes to `next`, with the ends of loops (R263). -/
def Engine.goto (g : Engine) (next : Nat) : Nat → Engine
  | 0 => { g with pc := next }
  | fuel + 1 =>
    match g.loops with
    | f :: rest =>
      if next = f.stop then
        if 0 < f.left then { g with pc := f.first, loops := { f with left := f.left - 1 } :: rest }
        else ({ g with loops := rest }).goto next fuel
      else { g with pc := next }
    | [] => { g with pc := next }

/-! ## Instruction words (R262) -/

def iD (w : Nat) : Nat := bits w 11 8
def iA (w : Nat) : Nat := bits w 15 12
def iB (w : Nat) : Nat := bits w 19 16
def iC (w : Nat) : Nat := bits w 23 20
def iFn (w : Nat) : Nat := bits w 27 24
def iFmt (w : Nat) : Nat := bits w 31 28
def iImm (w : Nat) : Nat := bits w 63 32

/-- IMM sign-extended to 64 bits. -/
def iSext (w : Nat) : Nat := if iImm w < 2 ^ 31 then iImm w else iImm w + (2 ^ 64 - 2 ^ 32)

/-- What an instruction works on: its engine, run and kernel, and its word. -/
structure Slot4 where
  e : Nat
  r : Run
  k : Kernel
  g : Engine
  w : Nat

/-- The instruction an engine stands at, if the engine runs a loaded kernel and the opcode is `op`; anything else leaves the
state as it is. -/
def State.issue (s : State) (e op : Nat) (f : State → Slot4 → State) : State :=
  let g := s.engine e
  match g.run.bind s.run? with
  | some r =>
    if s.running && r.failed.isNone && !g.ended && loadedHandle r.handle then
      match s.kernelOf r.handle r.ctx with
      | some k =>
        (match k.code[g.pc]? with
         | some w => if bits w.toNat 7 0 = op then f s { e, r, k, g, w := w.toNat } else s
         | none => s)
      | none => s
    else s
  | none => s

/-- Counts an instruction issued. -/
def State.issued (s : State) (i : Slot4) : State :=
  (s.count 0x0D (chdOf i.e) 0x02 { ctx := some i.r.ctx, engine := i.e % 38, instr := i.g.pc }).fixed 0x0D (chdOf i.e) 2 1

/-- An instruction completes: its effect on the engine, and the next instruction. -/
def State.retire (s : State) (i : Slot4) (f : Engine → Engine) (skip : Nat := 0) : State :=
  (s.issued i).modEngine i.e fun g => (f g).goto (i.g.pc + 1 + skip) 8

/-- A vector instruction completes, occupying the sequencer for some cycles (R263). -/
def State.retireV (s : State) (i : Slot4) (cycles : Nat) (f : Engine → Engine) : State :=
  (s.retire i f).count 0x0D (chdOf i.e) 0x04 { ctx := some i.r.ctx } cycles

/-- An instruction fails its run. -/
def State.failAt (s : State) (i : Slot4) (reason la : Nat) : State :=
  (s.issued i).failRun i.r.id { reason, engine := i.e, instr := i.g.pc, la }

/-- A slab range lies within SLAB_KB (R266). -/
def Slot4.slabOk (i : Slot4) (off n : Nat) : Bool := off + n ≤ 1024 * i.k.slabKb

/-- Ranges of the slab meet. -/
def rangesMeet (a b : List (Nat × Nat)) : Bool := a.any fun x => b.any fun y => x.1 < y.1 + y.2 && y.1 < x.1 + x.2

/-- The slab ranges that a stream reads and that it writes (R263). -/
def Stream.slabReads (st : Stream) : List (Nat × Nat) :=
  match st.op with
  | 0x08 => [(st.slab, st.len)]
  | 0x09 => [(st.slab, st.len)]
  | 0x0A => [(st.idx, 4 * st.len)]
  | 0x0B => [(st.idx, 4 * st.len), (st.slab, st.len * 64 * st.imm)]
  | _ => []
def Stream.slabWrites (st : Stream) : List (Nat × Nat) :=
  match st.op with
  | 0x07 => if st.fmt = 0 then [(st.slab, st.len)] else []
  | 0x0A => [(st.slab, st.len * 64 * st.imm)]
  | _ => []

/-- The sequencer stalls on a stream in flight (R263): an instruction reads what one writes to the slab, or writes what one reads or writes
there (log 164). -/
def Slot4.stalls (i : Slot4) (reads writes : List (Nat × Nat)) : Bool :=
  i.g.streams.any fun t => rangesMeet t.slabWrites (reads ++ writes) || rangesMeet t.slabReads writes

/-- A conversion saturated: QUANT_SAT (R243). -/
def State.quantSat (s : State) (e ctx n : Nat) : State :=
  if n = 0 then s
  else (s.modChd (chdOf e) fun c => { c with err := orBit c.err 2 }).count 0x0D (chdOf e) 0x0A { ctx := some ctx } n

/-! ## Scalar instructions -/

def signed64 (v : Nat) : Int := signed 64 v
def ofSigned64 (v : Int) : Nat := (v % (2 ^ 64 : Int)).toNat

/-- The comparison of SKIP (R264). -/
def skipHolds (fn a b : Nat) : Bool :=
  match fn with
  | 0 => a == b
  | 1 => a != b
  | 2 => decide (signed64 a < signed64 b)
  | 3 => decide (signed64 b ≤ signed64 a)
  | 4 => decide (a < b)
  | _ => decide (b ≤ a)

/-- The result of SALU (R264); a shift by 64 or more has no result in the spec: `open_` stands for it (log 41). -/
def saluResult (fn a b open_ : Nat) : Nat :=
  match fn with
  | 0 => a + b
  | 1 => a + (2 ^ 64 - b)
  | 2 => a * b
  | 3 => a &&& b
  | 4 => a ||| b
  | 5 => a ^^^ b
  | 6 => if 64 ≤ b then open_ else a <<< b
  | 7 => if 64 ≤ b then open_ else a >>> b
  | 8 => if 64 ≤ b then open_ else ofSigned64 (signed64 a >>> b)
  | 9 => if signed64 a < signed64 b then a else b
  | _ => if signed64 a < signed64 b then b else a

/-- END (R263): the engine ends once its streams are complete. -/
def State.opEnd (s : State) (i : Slot4) : State :=
  if !i.g.streams.isEmpty then s
  else
    let s := (s.issued i).modEngine i.e fun g => { g with ended := true }
    let s := if i.g.index = 0 then s.modRun i.r.id fun r => { r with x12 := i.g.xr 12, x13 := i.g.xr 13 } else s
    s.settleRun i.r.id

/-- LOOP (R263). -/
def State.opLoop (s : State) (i : Slot4) : State :=
  let len := bits (iImm i.w) 31 24
  let x := signed64 (i.g.xr (iA i.w))
  let n := (min x (bits (iImm i.w) 23 0 : Nat)).toNat
  if n = 0 then s.retire i id len
  else s.retire i fun g =>
    { g with loops := { first := i.g.pc + 1, stop := i.g.pc + 1 + len, left := n - 1 } :: g.loops }

def State.opSkip (s : State) (i : Slot4) : State :=
  s.retire i id (if skipHolds (iFn i.w) (i.g.xr (iA i.w)) (i.g.xr (iB i.w)) then bits (iImm i.w) 7 0 else 0)

def State.opLi (s : State) (i : Slot4) : State :=
  s.retire i fun g =>
    if iFn i.w = 0 then g.setX (iD i.w) (iSext i.w)
    else g.setX (iD i.w) (g.xr (iD i.w) % 2 ^ 32 + iImm i.w <<< 32)

def State.opSalu (s : State) (i : Slot4) : State :=
  let b := if bit (iFmt i.w) 0 then iSext i.w else i.g.xr (iB i.w)
  let f := s.takeFree
  f.2.retire i fun g => g.setX (iD i.w) (saluResult (iFn i.w) (g.xr (iA i.w)) b f.1)

def State.opArg (s : State) (i : Slot4) : State := s.retire i fun g => g.setX (iD i.w) (i.r.arg (iImm i.w))

/-! ## Streams: issue (R266) -/

/-- The bytes of memory that a stream of slab bytes touches. -/
def streamLen (op fmt len : Nat) : Nat :=
  match op with
  | 0x08 => if fmt = 0 then len else len / 8192 * chunkOut fmt + (if fmt = 1 then len % 8192 / 2 else 0)
  | 0x09 => if fmt = 1 then 2 * len else len
  | _ => len

/-- The permission a stream needs (R250). -/
def streamPerm (op : Nat) : Perm :=
  match op with
  | 0x08 => .wr
  | 0x09 => .atom
  | 0x0B => .atom
  | _ => .rd

/-- The indices of a GATHER or SCATTER_ADD, from the slab. -/
def Engine.indices (g : Engine) (off n : Nat) : List Nat := f32s n (g.slabRead off (4 * n))

/-- The LA ranges of a stream: one, or one per row. -/
def Engine.spans (g : Engine) (st : Stream) : List (Nat × Nat) :=
  if st.op = 0x0A || st.op = 0x0B then
    (g.indices st.idx (st.len)).map fun x => (st.la + x * 64 * st.imm, 64 * st.imm)
  else [(st.la, streamLen st.op st.fmt st.len)]

/-- A write to a compressed region covers whole aligned blocks (R266). -/
def State.granuleOk (s : State) (ctx la len : Nat) : Bool :=
  (piecesOf la len).all fun e =>
    match s.translate ctx e.1 e.2 .wr true with
    | some t => (match s.region? t.region with | some r => !r.auto || e.2 = 4096 | none => true)
    | none => true

/-- The regions that the windows of a context show in an LA range, with the bytes of each. -/
def State.shown (s : State) (ctx la len : Nat) : List (Region × Nat) :=
  (s.ctx ctx).windows.filterMap fun e =>
    let lo := max la (e.2.laPage * 65536)
    let hi := min (la + len) ((e.2.laPage + e.2.pages) * 65536)
    if e.2.valid && lo < hi then (s.region? e.2.region).map fun r => (r, hi - lo) else none

/-- No region that an LA range meets fails a test; what no window covers is left to the access. -/
def State.regionsAre (s : State) (ctx la len : Nat) (p : Region → Bool) : Bool := (s.shown ctx la len).all fun e => p e.1

/-- An LA range lies in regions that pass a test. -/
def State.liesIn (s : State) (ctx la len : Nat) (p : Region → Bool) : Bool :=
  s.regionsAre ctx la len p && ((s.shown ctx la len).map (·.2)).sum == len

/-- The reason for which a stream is refused at its issue, with the LA. A stream of records comes from factor regions (R220); that one
from elsewhere ends with ARG is the model's choice (log 142). -/
def State.streamRefused (s : State) (i : Slot4) (st : Stream) : Option (Nat × Nat) :=
  let rows := st.op = 0x0A || st.op = 0x0B
  let total := if rows then st.len * 64 * st.imm else st.len
  let slabLen := if rows then total else if st.op = 0x07 && st.fmt = 1 then 0 else st.len
  let mem := streamLen st.op st.fmt st.len
  let argBad := st.la % 64 != 0 || total = 0 || total % 64 != 0 || 2 ^ 20 < total || !i.slabOk st.slab slabLen ||
    (rows && !i.slabOk st.idx (4 * st.len)) ||
    (st.op = 0x08 && ((2 ≤ st.fmt && st.len % 8192 != 0) || mem % 64 != 0)) ||
    (st.op = 0x09 && (st.len % 4096 != 0 || st.la % (if st.fmt = 1 then 8192 else 4096) != 0))
  if argBad then some (3, 0)
  else
    match (i.g.spans st).find? fun e => !s.covered i.r.ctx e.1 e.2 (streamPerm st.op) true with
    | some e => some (1, e.1)
    | none =>
      if st.op = 0x08 && !s.granuleOk i.r.ctx st.la mem then some (2, st.la)
      else if st.op = 0x07 && st.fmt = 1 && !s.regionsAre i.r.ctx st.la st.len fun r => r.kind = 4 then some (3, st.la)
      else none

/-- Issues a stream: it waits while its tag, or every tag, is in flight, and while it depends on one that is. -/
def State.opStream (s : State) (i : Slot4) (st : Stream) : State :=
  if 16 ≤ i.g.streams.length || (st.tag < 16 && i.g.streams.any fun t => t.tag == st.tag) || i.stalls st.slabReads st.slabWrites then s
  else
    match s.streamRefused i st with
    | some (reason, la) => s.failAt i reason la
    | none => s.retire i fun g => { g with streams := g.streams ++ [st] }

/-- The stream that SIN, SOUT, SACC, GATHER or SCATTER_ADD names (R263). -/
def Slot4.stream (i : Slot4) (op : Nat) : Stream :=
  let rows := op = 0x0A || op = 0x0B
  { tag := if op = 0x07 || op = 0x08 then bits (iImm i.w) 3 0 else 16, op, pc := i.g.pc, fmt := iFmt i.w
    la := i.g.xr (iA i.w), len := i.g.xr (if rows then iC i.w else iB i.w), slab := i.g.xr (iD i.w)
    idx := if rows then i.g.xr (iB i.w) else 0, imm := if rows then iImm i.w else 0 }

/-- WAIT: every tag of the mask has completed. -/
def State.opWait (s : State) (i : Slot4) : State :=
  if i.g.streams.any fun t => t.tag < 16 && bit (iImm i.w) t.tag then s else s.retire i id

/-- FENCE: every write issued by the engine has passed its order point. -/
def State.opFence (s : State) (i : Slot4) : State :=
  if i.g.streams.any fun t => t.op = 0x08 || t.op = 0x09 || t.op = 0x0B then s else s.retire i id

/-! ## Vector instructions -/

/-- The header of the record at the front of an expansion queue is sound (R221, R234). -/
def frontSound : List (List Byte) → Bool
  | [] => true
  | rec :: _ => recSound rec

/-- VLD FMT 2: the next 512 elements of the front record of the expansion queue. The record that comes to the front after it has its header
checked there (R234). -/
def State.opExpand (s : State) (i : Slot4) : State :=
  match i.g.expQ with
  | [] => s
  | rec :: rest =>
    let n := s.fresh
    let l := expandFrom n (hdrNum rec 0 1) (hdrNum rec 1 1) rec i.g.expPos 512
    let last := 65536 ≤ i.g.expPos + 512
    let s := ({ s with fresh := n + 64 * 512 }).retireV i (max 4 (rankOf (hdrNum rec 1 1) / 4)) fun g =>
      { g.setV (iD i.w) l with expQ := if last then rest else g.expQ, expPos := if last then 0 else g.expPos + 512 }
    if last && !frontSound rest then s.failRun i.r.id { reason := 3, engine := i.e, instr := i.g.pc, la := 0 } else s

def State.opVld (s : State) (i : Slot4) : State :=
  if iFmt i.w = 2 then s.opExpand i
  else
    let off := i.g.xr (iA i.w) + iImm i.w
    let n := if iFmt i.w = 1 then 1024 else 2048
    if !i.slabOk off n then s.failAt i 3 0
    else if i.stalls [(off, n)] [] then s
    else s.retireV i 4 fun g =>
      let l := g.slabRead off n
      g.setV (iD i.w) (if iFmt i.w = 1 then bf16s 512 l else f32s 512 l)

def State.opVst (s : State) (i : Slot4) : State :=
  let off := i.g.xr (iA i.w) + iImm i.w
  let n := if iFmt i.w = 1 then 1024 else 2048
  if !i.slabOk off n then s.failAt i 3 0
  else if i.stalls [] [(off, n)] then s
  else s.retireV i 4 fun g =>
    g.slabWrite off (if iFmt i.w = 1 then bf16Bytes (g.vr (iD i.w)) else f32Bytes (g.vr (iD i.w)))

/-- sign of VALU FN 7. -/
def f32sign (a : Nat) : Nat :=
  match num32 a with
  | .nan => f32Nan
  | .inf neg => if neg then f32neg f32One else f32One
  | .fin neg m _ => if m = 0 then 0 else if neg then f32neg f32One else f32One

/-- The vector unit's minimum (fn 3) or maximum (fn 4), given the result for ordered operands: with a NaN it is the other operand or
0x7FC0_0000, of unlike zeros it is one of them; which, is open (log 68). -/
def vecPick (fn a b ordered : Nat) : Nat :=
  let first := Config.minMax fn (BitVec.ofNat 32 a) (BitVec.ofNat 32 b)
  if (num32 a).isNan || (num32 b).isNan then (if first then ordered else f32Nan)
  else if bits32 (num32 a) % 2 ^ 31 = 0 && bits32 (num32 b) % 2 ^ 31 = 0 then bits32 (if first then num32 a else num32 b)
  else ordered
def vecMin (a b : Nat) : Nat := vecPick 3 a b (f32min a b)
def vecMax (a b : Nat) : Nat := vecPick 4 a b (f32max a b)

/-- The lane result of VALU (R264). -/
def valuLane (fn a b c : Nat) : Nat :=
  match fn with
  | 0 => f32add a b
  | 1 => f32sub a b
  | 2 => f32mul a b
  | 3 => vecMin a b
  | 4 => vecMax a b
  | 5 => f32abs a
  | 6 => f32neg a
  | 7 => f32sign a
  | _ =>
    bits32 (num32 (match num32 b with
      | .nan => c
      | n => if n.lt (.fin true 0 0) then c else a))

/-- Three lists lane by lane. -/
def lanes3 (f : Nat → Nat → Nat → Nat) : List Nat → List Nat → List Nat → List Nat
  | a :: ta, b :: tb, c :: tc => f a b c :: lanes3 f ta tb tc
  | _, _, _ => []

def State.opValu (s : State) (i : Slot4) : State :=
  s.retireV i 1 fun g =>
    g.setV (iD i.w) (lanes3 (valuLane (iFn i.w)) (g.vr (iA i.w)) (g.vr (iB i.w)) (g.vr (iC i.w)))

def State.opVfma (s : State) (i : Slot4) : State :=
  let neg := bit (iFmt i.w) 0
  s.retireV i 1 fun g =>
    g.setV (iD i.w) (lanes3 (fun a b c => f32fma (if neg then f32neg a else a) b c)
      (g.vr (iA i.w)) (g.vr (iB i.w)) (g.vr (iC i.w)))

/-- The lane result of VSFU (R242): sqrt rounded; rsqrt, reciprocal, exp2 and log2 within 2 ulp. -/
def vsfuLane (fn a : Nat) : Nat :=
  let off := Config.ulpOffset fn (BitVec.ofNat 32 a)
  match fn with
  | 0 => f32sqrt a
  | 1 => nearUlp (num32 a).rsqrt off
  | 2 => nearUlp ((num32 f32One).div (num32 a)) off
  | 3 => nearUlp (num32 a).expTwo off
  | _ => nearUlp (num32 a).logTwo off

def State.opVsfu (s : State) (i : Slot4) : State :=
  s.retireV i 4 fun g => g.setV (iD i.w) ((g.vr (iA i.w)).map (vsfuLane (iFn i.w)))

/-- The reduction of VRED (R264); the order of additions is open. -/
def vredValue (seed fn : Nat) (l : List Nat) : Nat :=
  match fn with
  | 0 => sum32 seed l
  | 1 => l.tail.foldl vecMax (l.headD 0)
  | 2 => sum32 seed (l.map fun v => f32mul v v)
  | _ => (l.map f32abs).tail.foldl vecMax (f32abs (l.headD 0))

def State.opVred (s : State) (i : Slot4) : State :=
  let n := s.fresh
  ({ s with fresh := n + 512 }).retireV i 1 fun g => g.splat (iD i.w) (vredValue n (iFn i.w) (g.vr (iA i.w)))

/-- The FP32 pattern of a small number. -/
def f32OfNat (n : Nat) : Nat := bits32 (.fin false n 0)

def State.opVbcast (s : State) (i : Slot4) : State :=
  s.retireV i 1 fun g =>
    match iFmt i.w with
    | 0 => g.splat (iD i.w) (g.xr (iA i.w) % 2 ^ 32)
    | 1 => g.splat (iD i.w) (iImm i.w)
    | _ => g.setV (iD i.w) ((List.range 512).map f32OfNat)

/-- The values of 32 lanes rounded to MX and held as FP32, with the saturated ones. -/
def mxRound (f : Mx) (l : List Nat) : List Nat × Nat :=
  let q := f.quantise l
  (q.2.1.map fun c => bits32 (f.scaledValue q.1 c), q.2.2)

def State.opVcvt (s : State) (i : Slot4) : State :=
  let l := i.g.vr (iA i.w)
  if iFmt i.w = 1 then s.retireV i 1 fun g => g.setV (iD i.w) (l.map fun v => ofBf16 (toBf16 v))
  else
    let qs := (groups32 16 l).map (mxRound (mxOf (iFmt i.w)))
    (s.retireV i 1 fun g => g.setV (iD i.w) (qs.flatMap (·.1))).quantSat i.e i.r.ctx (qs.map (·.2)).sum

/-! ## The array (R265) -/

def State.opMzero (s : State) (i : Slot4) : State := s.retire i fun g => { g with acc := [] }

/-- The MX format of an MMAC type. -/
def mmacMx : Nat → Mx
  | 1 => .e4m3
  | 2 => .e5m2
  | 3 => .e3m2
  | 4 => .e2m3
  | _ => .e2m1

/-- The bytes of a panel of a type. -/
def panelBytes (ty : Nat) : Nat := if ty = 0 then 8192 else 128 + 16 * (mmacMx ty).width * 32

/-- The 32 values of row or column `n` of a panel. -/
def panelRow (ty : Nat) (p : List Byte) (n : Nat) : List Num :=
  if ty = 0 then (List.range 32).map fun k => num16 (leNat ((p.drop (64 * n + 2 * k)).take 2))
  else
    let f := mmacMx ty
    let row := (p.drop (128 + 4 * f.width * n)).take (4 * f.width)
    (List.range 32).map fun k => f.scaledValue (p[n]?.getD 0).toNat (codeAt f.width k row)

/-- The cycles of a panel (R265). -/
def panelCycles (a b : Nat) : Nat := if a = 0 then 128 else if a = 5 && b = 5 then 32 else 64

/-- The accumulator after an MMAC: each cell adds exact products in an open order. -/
def Engine.mmac (g : Engine) (seed a b aOff bOff n : Nat) : Engine :=
  let as := (List.range n).map fun p => g.slabRead (aOff + p * panelBytes a) (panelBytes a)
  let bs := (List.range n).map fun p => g.slabRead (bOff + p * panelBytes b) (panelBytes b)
  let cell (row col : Nat) : Nat :=
    let prods := (as.zip bs).flatMap fun e => ((panelRow a e.1 row).zip (panelRow b e.2 col)).map fun t => t.1.mul t.2
    sumExact (seed + 2048 * (128 * row + col)) prods.length prods (tget 0 g.acc (128 * row + col))
  { g with acc := tsetRange g.acc 0 ((List.range 16384).map fun c => cell (c / 128) (c % 128)) }

def State.opMmac (s : State) (i : Slot4) : State :=
  let n := bits (iImm i.w) 5 0
  let n := if n = 0 then 64 else n
  let a := i.g.xr (iA i.w)
  let b := i.g.xr (iB i.w)
  if !i.slabOk a (n * panelBytes (iFn i.w)) || !i.slabOk b (n * panelBytes (iFmt i.w)) then s.failAt i 3 0
  else if i.stalls [(a, n * panelBytes (iFn i.w)), (b, n * panelBytes (iFmt i.w))] [] then s
  else
    let seed := s.fresh
    (({ s with fresh := seed + 2048 * 16384 }).retire i fun g => g.mmac seed (iFn i.w) (iFmt i.w) a b n).count 0x0D
      (chdOf i.e) 0x03 { ctx := some i.r.ctx } (n * panelCycles (iFn i.w) (iFmt i.w))

def State.opMst (s : State) (i : Slot4) : State :=
  let off := i.g.xr (iD i.w) + iImm i.w
  let n := if iFmt i.w = 1 then 32768 else 65536
  if !i.slabOk off n then s.failAt i 3 0
  else if i.stalls [] [(off, n)] then s
  else s.retire i fun g =>
    let l := tgetRange g.acc 0 16384
    g.slabWrite off (if iFmt i.w = 1 then bf16Bytes l else f32Bytes l)

/-! ## Streams: completion (R246) -/

/-- Whether an access can be made now; if not, its fetch or RECALL is started, or it fails on a page that is not resident under the policy
NACK. A page to be written takes its frame. What else may be wrong, the access itself finds. -/
def State.ready (s : State) (m : Mover) (la n : Nat) (p : Perm) (write : Bool) : Got Unit × State :=
  match s.translate m.ctx la (64 * n) p m.kernel with
  | none => (.ok (), s)
  | some t =>
    match s.region? t.region with
    | none => (.ok (), s)
    | some r =>
      let e := s.ent (t.za / 65536)
      let go := !r.tiered || (match e.st with
        | .clean => true
        | .dirty => true
        | .writingBack => e.readDone || !write || (e.queued && s.tierHeld)
        | .invalid => !write
        | _ => false)
      if r.moving.isSome then (.wait, s)
      else if r.leased then
        (match s.leasedLine (t.za / 64) n with
         | some line => (.wait, s.sendRecall line)
         | none => (.ok (), s))
      else if go then (.ok (), s)
      else
        let o := s.reach m la n p (if write then some false else none)
        match o.1 with
        | .wait => (.wait, o.2)
        | .fail st => if st = stNotResident then (.fail st la, o.2) else (.ok (), o.2)
        | _ => (.ok (), o.2)

/-- The worse of two answers: the first failure, else a wait. -/
def Got.worse {α : Type} : Got α → Got α → Got α
  | .fail st la, _ => .fail st la
  | _, .fail st la => .fail st la
  | .wait, _ => .wait
  | _, b => b

/-- Whether every piece of a list of ranges can be accessed now. -/
def State.allReady (s : State) (m : Mover) (l : List (Nat × Nat)) (p : Perm) (write : Bool) : Got Unit × State :=
  (l.flatMap fun e => piecesOf e.1 e.2).foldl (fun a e =>
    let o := a.2.ready m e.1 (e.2 / 64) p write
    (a.1.worse o.1, o.2)) (.ok (), s)

/-- The mover of the accesses of a kernel on an engine (R144, R193, R250): blocks are decoded at the operand ports of its CHD die. -/
def State.kernelMover (s : State) (e ctx : Nat) (who : Waiter) : Mover :=
  { ctx, who, kernel := true, src := 2, kind := .chord, fetch := .chord (chdOf e), nack := (s.ctx ctx).nack }

/-- A stream's access: that of its tag on its engine. -/
def Stream.waiter (st : Stream) (r : Run) (e : Nat) : Waiter := .run r.id (32 * e + st.tag)

/-- A failed access of a line of a compressed block met a decode error (R196): in the line's own segment, or, where the line itself can be read,
in another of its block. -/
def State.undecodable (s : State) (r : Region) (line ctx : Nat) : Bool :=
  let read (a b : Nat) := (s.readBlock r (line / 64) a b 0 ctx 2 .long).1
  let code (l : List (Nat × Segment)) : Bool := l.any fun e => match e.2 with | .codeError _ => true | _ => false
  let own := read (line % 64) (line % 64)
  code own || (own.all (fun e => e.2.status == 0) && code (read 0 63))

/-- The reason of a kernel's failed access (R256): a decode error where the block's segment cannot be decoded. -/
def State.failReason (s : State) (ctx status la : Nat) : Nat :=
  if status = stNoPerm then 1
  else if status = stGranule then 2
  else if status = stLeaseLost then 6
  else if status = stNotResident then 7
  else
    match s.translate ctx (la / 64 * 64) 64 .rd true with
    | some t =>
      (match s.region? t.region with
       | some r => if r.auto && s.undecodable r (t.za / 64) ctx then 5 else 4
       | none => 4)
    | none => 4

/-- A stream is over: its tag is free. -/
def State.endStream (s : State) (e : Nat) (st : Stream) (f : Engine → Engine) : State :=
  let s := s.modEngine e fun g => f { g with streams := g.streams.erase st }
  match (s.engine e).run with
  | some id => s.settleRun id
  | none => s

/-- A stream's access fails its run; a run that has failed already may be over with it (R258). -/
def State.failStream (s : State) (e : Nat) (r : Run) (st : Stream) (reason la : Nat) : State :=
  ((s.modEngine e fun g => { g with streams := g.streams.erase st }).failRun r.id { reason, engine := e, instr := st.pc, la }).settleRun r.id

/-- Counts stream bytes (R430, R432). -/
def State.streamed (s : State) (e ctx n : Nat) (write : Bool) : State :=
  let s := s.count 0x0D (chdOf e) (if write then 0x06 else 0x05) { ctx := some ctx } n
  if write then s else s.fixed 0x0D (chdOf e) 3 n

/-- The bytes of lines. -/
def bytesOf (l : List Line) : List Byte := l.flatMap lineBytes

/-- Splits the bytes of factor records at the sizes that their headers give; what no header explains stays one record. -/
def splitRecords : Nat → List Byte → List (List Byte)
  | 0, _ => []
  | fuel + 1, l =>
    if l.isEmpty then []
    else
      let n := if recSound l then recordBytes (hdrNum l 0 1) (rankOf (hdrNum l 1 1)) else l.length
      l.take n :: splitRecords fuel (l.drop n)

/-- Completes a SIN: plaintext into the slab, or as many records as the expansion queue has room for. Records come from factor regions alone, also
where a window has changed since the stream was issued (R220, log 142); the header of one that reaches the front of the queue is checked
there (R221, R234). -/
def State.doneSin (s : State) (e : Nat) (r : Run) (g : Engine) (st : Stream) : State :=
  if st.fmt = 1 && !s.regionsAre r.ctx st.la st.len fun g => g.kind = 4 then s.failStream e r st 3 st.la else
  let o := s.moverRead (s.kernelMover e r.ctx (st.waiter r e)) st.la st.len
  match o.1 with
  | .wait => if r.failed.isSome then o.2.endStream e st id else o.2
  | .fail status la => o.2.failStream e r st (o.2.failReason r.ctx status la) la
  | .ok lines =>
    let s := o.2
    if st.fmt = 0 then (s.streamed e r.ctx st.len false).endStream e st fun g => g.slabWrite st.slab (bytesOf lines)
    else
      let go := (splitRecords 512 (bytesOf lines)).take (16 - g.expQ.length)
      let n := (go.map List.length).sum
      let s := s.streamed e r.ctx n false
      if !frontSound (g.expQ ++ go) then s.failStream e r st 3 st.la
      else if n = st.len then s.endStream e st fun g => { g with expQ := g.expQ ++ go }
      else if r.failed.isSome then s.endStream e st id
      else s.modEngine e fun g => { g with
        expQ := g.expQ ++ go
        streams := g.streams.map fun t => if t = st then { t with la := t.la + n, len := t.len - n } else t }

/-- Performs operations in order until one does not succeed: how that one ends, and how many were performed, `n` before them. -/
def State.doAll {α : Type} (s : State) (f : State → α → Got Unit × State) : List α → Nat → (Got Unit × Nat) × State
  | [], n => ((.ok (), n), s)
  | a :: t, n =>
    let o := f s a
    match o.1 with
    | .ok _ => o.2.doAll f t (n + 1)
    | .wait => ((.wait, n), o.2)
    | .fail st la => ((.fail st la, n), o.2)

/-- Writes the pieces of a stream that are not written yet, once they can be accessed; where the write buffer has no room for the next one, the
rest follow later (R302). -/
def State.putStream {α : Type} (s : State) (e : Nat) (r : Run) (st : Stream) (p : Perm) (ranges : List (Nat × Nat)) (ops : List α)
    (f : State → α → Got Unit × State) (bytes sat : Nat) : State :=
  let rdy := s.allReady (s.kernelMover e r.ctx (st.waiter r e)) (ranges.drop st.done) p true
  match rdy.1 with
  | .wait => rdy.2
  | .fail status la => rdy.2.failStream e r st (rdy.2.failReason r.ctx status la) la
  | .ok _ =>
    let o := rdy.2.doAll f (ops.drop st.done) st.done
    match o.1.1 with
    | .wait => o.2.modEngine e fun g => { g with streams := g.streams.map fun t => if t = st then { t with done := o.1.2 } else t }
    | .fail status la => o.2.failStream e r st (o.2.failReason r.ctx status la) la
    | .ok _ => ((o.2.streamed e r.ctx bytes true).quantSat e r.ctx sat).endStream e st id

/-- The lines of each piece of a range. -/
def pieceLines : List (Nat × Nat) → List Line → List (Nat × List Line)
  | [], _ => []
  | (la, n) :: t, l => (la, l.take (n / 64)) :: pieceLines t (l.drop (n / 64))

/-- Completes a SOUT: the slab bytes, converted, are written. -/
def State.doneSout (s : State) (e : Nat) (r : Run) (g : Engine) (st : Stream) : State :=
  let src := g.slabRead st.slab st.len
  let c := if st.fmt = 0 then (src, 0) else convert st.fmt (f32s (st.len / 4) src)
  let ps := piecesOf st.la c.1.length
  let m := s.kernelMover e r.ctx (st.waiter r e)
  s.putStream e r st .wr ps (pieceLines ps (linesOf (c.1.length / 64) c.1)) (fun s x => s.writePiece m x.1 x.2 false) c.1.length c.2

/-- Completes a SACC: one ACC per 4 KiB of source (R106). -/
def State.doneSacc (s : State) (e : Nat) (r : Run) (g : Engine) (st : Stream) : State :=
  let m := s.kernelMover e r.ctx (st.waiter r e)
  let size := if st.fmt = 1 then 8192 else 4096
  let ks := List.range (st.len / 4096)
  s.putStream e r st .atom (ks.map fun k => (st.la + size * k, size)) ks
    (fun s k => s.moverAcc m (st.la + size * k) (if st.fmt = 1 then 3 else 2) (linesOf 64 (g.slabRead (st.slab + 4096 * k) 4096))) st.len 0

/-- Completes a GATHER: each row read into the slab. -/
def State.doneGather (s : State) (e : Nat) (r : Run) (g : Engine) (st : Stream) : State :=
  let o := s.readPieces (s.kernelMover e r.ctx (st.waiter r e)) ((g.spans st).flatMap fun x => piecesOf x.1 x.2)
  match o.1 with
  | .wait => if r.failed.isSome then o.2.endStream e st id else o.2
  | .fail status la => o.2.failStream e r st (o.2.failReason r.ctx status la) la
  | .ok lines => (o.2.streamed e r.ctx (64 * lines.length) false).endStream e st fun g =>
      g.slabWrite st.slab (bytesOf lines)

/-- Completes a SCATTER_ADD: each line of each row added by VADD (R105). -/
def State.doneScatter (s : State) (e : Nat) (r : Run) (g : Engine) (st : Stream) : State :=
  let m := s.kernelMover e r.ctx (st.waiter r e)
  let targets := (g.spans st).flatMap fun x => (List.range st.imm).map fun l => x.1 + 64 * l
  s.putStream e r st .atom (targets.map fun la => (la, 64)) (targets.mapIdx fun n la => (n, la))
    (fun s (t : Nat × Nat) => s.moverVadd m t.2 2 (lineOf (g.slabRead (st.slab + 64 * t.1) 64))) (64 * targets.length) 0

/-- Two streams touch a common line (R246). -/
def State.streamsMeet (s : State) (ctx : Nat) (g : Engine) (a b : Stream) : Bool :=
  let za (st : Stream) := (g.spans st).flatMap fun e => s.segments ctx e.1 e.2 33
  (za a).any fun x => (za b).any fun y => x.1 < y.1 + y.2.1 && y.1 < x.1 + x.2.1

/-- A stream of an engine of a loaded kernel completes, unless an earlier one of the engine to the same line is in flight. -/
def State.streamStep (s : State) (e tag : Nat) (r : Run) : State :=
  let g := s.engine e
  match g.streams.find? fun t => t.tag == tag with
  | none => s
  | some st =>
    if (g.streams.takeWhile fun t => t != st).any fun t => s.streamsMeet r.ctx g t st then s
    else
      match st.op with
      | 0x07 => s.doneSin e r g st
      | 0x08 => s.doneSout e r g st
      | 0x09 => s.doneSacc e r g st
      | 0x0A => s.doneGather e r g st
      | _ => s.doneScatter e r g st

/-! ## Meanings -/

def execEndOp (engine : Fin 152) (s : State) : Out1 := .next (s.issue engine.val 0x01 State.opEnd)
def execLoop (engine : Fin 152) (s : State) : Out1 := .next (s.issue engine.val 0x02 State.opLoop)
def execSkip (engine : Fin 152) (s : State) : Out1 := .next (s.issue engine.val 0x03 State.opSkip)
def execLi (engine : Fin 152) (s : State) : Out1 := .next (s.issue engine.val 0x04 State.opLi)
def execSalu (engine : Fin 152) (s : State) : Out1 := .next (s.issue engine.val 0x05 State.opSalu)
def execArg (engine : Fin 152) (s : State) : Out1 := .next (s.issue engine.val 0x06 State.opArg)
def execSin (engine : Fin 152) (s : State) : Out1 :=
  .next (s.issue engine.val 0x07 fun s i => s.opStream i (i.stream 0x07))
def execSout (engine : Fin 152) (s : State) : Out1 :=
  .next (s.issue engine.val 0x08 fun s i => s.opStream i (i.stream 0x08))
def execSacc (engine : Fin 152) (s : State) : Out1 :=
  .next (s.issue engine.val 0x09 fun s i => s.opStream i (i.stream 0x09))
def execGather (engine : Fin 152) (s : State) : Out1 :=
  .next (s.issue engine.val 0x0A fun s i => s.opStream i (i.stream 0x0A))
def execScatterAdd (engine : Fin 152) (s : State) : Out1 :=
  .next (s.issue engine.val 0x0B fun s i => s.opStream i (i.stream 0x0B))
def execWait (engine : Fin 152) (s : State) : Out1 := .next (s.issue engine.val 0x0C State.opWait)
def execVld (engine : Fin 152) (s : State) : Out1 := .next (s.issue engine.val 0x0D State.opVld)
def execVst (engine : Fin 152) (s : State) : Out1 := .next (s.issue engine.val 0x0E State.opVst)
def execValu (engine : Fin 152) (s : State) : Out1 := .next (s.issue engine.val 0x0F State.opValu)
def execVfma (engine : Fin 152) (s : State) : Out1 := .next (s.issue engine.val 0x10 State.opVfma)
def execVsfu (engine : Fin 152) (s : State) : Out1 := .next (s.issue engine.val 0x11 State.opVsfu)
def execVred (engine : Fin 152) (s : State) : Out1 := .next (s.issue engine.val 0x12 State.opVred)
def execVbcast (engine : Fin 152) (s : State) : Out1 := .next (s.issue engine.val 0x13 State.opVbcast)
def execVcvt (engine : Fin 152) (s : State) : Out1 := .next (s.issue engine.val 0x14 State.opVcvt)
def execMzero (engine : Fin 152) (s : State) : Out1 := .next (s.issue engine.val 0x15 State.opMzero)
def execMmac (engine : Fin 152) (s : State) : Out1 := .next (s.issue engine.val 0x16 State.opMmac)
def execMst (engine : Fin 152) (s : State) : Out1 := .next (s.issue engine.val 0x17 State.opMst)
def execFence (engine : Fin 152) (s : State) : Out1 := .next (s.issue engine.val 0x18 State.opFence)

end Sys2Proof.Machine
end

