-- ==== Sys2Proof/Machine/Kernels.lean ====
section
/-!
DEFINITION. The built-in kernels (R216-R229, R249-R256): their argument checks, one unit of each, and STREAM_COMPLETE and
KERNEL_DISPATCH, which need them. A unit is read and computed in one step once every page it reads can be accessed; its writes follow when
every unit below it has retired (log 44).
-/

namespace Sys2Proof.Machine

/-! ## Accesses of a unit -/

/-- An access that can wait or fail. -/
abbrev KM (α : Type) := State → Got α × State

/-- One access after another. -/
def andThen {α β : Type} (x : KM α) (f : α → KM β) : KM β := fun s =>
  let o := x s
  match o.1 with
  | .ok a => f a o.2
  | .wait => (.wait, o.2)
  | .fail st la => (.fail st la, o.2)

/-- A value. -/
def kPure {α : Type} (a : α) : KM α := fun s => (.ok a, s)

/-- A failure with reason ARG. -/
def kArg {α : Type} : KM α := fun s => (.fail stBadParam 0, s)

/-- Work on a value, if there is one; else a failure with reason ARG. -/
def kSome {α β : Type} (o : Option α) (f : α → KM β) : KM β := fun s =>
  match o with
  | some a => f a s
  | none => kArg s

/-- Who works on a unit. -/
structure Worker where
  m   : Mover
  e   : Nat
  ctx : Nat
  run : Nat

/-- Reads bytes; a factor record must lie in a factor region (R220). -/
def kRead (w : Worker) (la len : Nat) (factor : Bool := false) : KM (List Byte) := fun s =>
  if factor && !s.regionsAre w.ctx la len (fun r => r.kind = 4) then (.fail stBadParam 0, s)
  else
    let o := s.moverRead w.m la len
    match o.1 with
    | .ok l => (.ok (bytesOf l), o.2.streamed w.e w.ctx len false)
    | .wait => (.wait, o.2)
    | .fail st a => (.fail st a, o.2)

/-- Reads and zeroes pieces, each with the bytes it gave; one taken in an earlier step of the unit is not taken again. -/
def takePieces (w : Worker) (slot : Nat) : List (Nat × Nat) → KM (List Byte)
  | [] => kPure []
  | (la, n) :: rest => fun s =>
    match ((s.run? w.run).bind fun r => r.taken.find? fun t => t.1 == (slot, la)) with
    | some t => andThen (takePieces w slot rest) (fun l => kPure (t.2 ++ l)) s
    | none =>
      let o := s.moverReadZero w.m la n
      match o.1 with
      | .ok l =>
        andThen (takePieces w slot rest) (fun x => kPure (bytesOf l ++ x))
          ((o.2.streamed w.e w.ctx n false).modRun w.run fun r => { r with taken := r.taken ++ [((slot, la), bytesOf l)] })
      | .wait => (.wait, o.2)
      | .fail st a => (.fail st a, o.2)

/-- Reads the bytes of an operand, and zeroes them if asked; the blocks zeroed lie in an accumulate region (R228, R251). -/
def kTake (w : Worker) (clear : Bool) (slot la len : Nat) : KM (List Byte) := fun s =>
  if !clear then kRead w la len false s
  else if !s.regionsAre w.ctx la len (fun r => r.kind = 3) then (.fail stBadParam 0, s)
  else takePieces w slot (piecesOf la len) s

/-- A write of bytes, whole lines. -/
def put (la : Nat) (data : List Byte) : UnitWrite := { la, data }

/-- What a unit adds to the run's results: Σg² or a norm, a count or a norm, and the elements that saturated; and its writes, in groups. -/
structure UnitOut where
  a      : Nat := 0
  b      : Nat := 0
  sat    : Nat := 0
  writes : List (List UnitWrite) := []

/-! ## Optimisers (R250-R253) -/

/-- The factor format and rank of a factor input (R251). -/
def Run.recFmt (r : Run) : Nat := r.inFmt - 1
def Run.rankCode (r : Run) : Nat := bits (r.arg 5) 38 36
def Run.clearG (r : Run) : Bool := bit (r.arg 5) 39

/-- Elements of a unit. -/
def Run.unitElems (r : Run) : Nat := if r.tiled then 65536 else 2048

/-- The bytes of a unit's gradient. -/
def Run.gradBytes (r : Run) : Nat :=
  if 2 ≤ r.inFmt then recordBytes r.recFmt (rankOf r.rankCode) else if r.inFmt = 1 then 2 * r.unitElems else 4 * r.unitElems

/-- FP32 field k of the descriptor (R252). -/
def Run.par (r : Run) (k : Nat) : Nat := hdrNum r.desc (4 * k) 4

/-- The outputs of the descriptor: LA and format. -/
def Run.outs (r : Run) : List (Nat × Nat) :=
  ([(hdrNum r.desc 32 8, hdrNum r.desc 40 1), (hdrNum r.desc 48 8, hdrNum r.desc 56 1)]).filter fun o => o.1 != 0

/-- The descriptor check (R252, R253): formats, pairs, reserved bytes, alignment, and BETA1 = 0 where FACTORED has no M1. -/
def Run.descOk (r : Run) : Bool :=
  let ok (la fmt : Nat) : Bool := fmt ≤ 4 && (la == 0) == (fmt == 0) && la % 4096 == 0
  ok (hdrNum r.desc 32 8) (hdrNum r.desc 40 1) && ok (hdrNum r.desc 48 8) (hdrNum r.desc 56 1)
  && hdrNum r.desc 41 7 = 0 && hdrNum r.desc 57 71 = 0
  && !(r.handle = 4 && r.arg 1 = 0 && r.par 1 % 2 ^ 31 != 0)

/-- 1 - x. -/
def oneMinus (x : Nat) : Nat := f32sub f32One x

/-- The new w, m, v of an element of the kernels other than FACTORED (R253); `k` numbers the open roundings. -/
def adamElem (r : Run) (k w m v g : Nat) : Nat × Nat × Nat :=
  let lr := r.par 0
  let b1 := r.par 1
  let b2 := r.par 2
  let wd := r.par 4
  match r.handle with
  | 1 =>
    let m' := madd k (oneMinus b1) g (f32mul b1 m)
    let v' := madd (k + 1) (oneMinus b2) (f32mul g g) (f32mul b2 v)
    let q := f32div (f32mul (r.par 5) m') (f32add (f32sqrt (f32mul (r.par 6) v')) (r.par 3))
    (madd (k + 3) (f32neg lr) (madd (k + 2) wd w q) w, m', v')
  | 2 =>
    let c := madd k (oneMinus b1) g (f32mul b1 m)
    (madd (k + 3) (f32neg lr) (madd (k + 2) wd w (f32sign c)) w, madd (k + 1) (oneMinus b2) g (f32mul b2 m), v)
  | _ =>
    let m' := madd k b1 m g
    (madd (k + 3) (f32neg lr) (madd (k + 2) wd w m') w, m', v)

/-- The mean of a list. -/
def mean32 (seed : Nat) (l : List Nat) : Nat := f32div (sum32 seed l) (f32OfNat l.length)

/-- FACTORED of a tile (R253): the new row state, column state, w and m. -/
def factoredTile (r : Run) (seed : Nat) (w m g rho kap : List Nat) : List Nat × List Nat × List Nat × List Nat :=
  let b1 := r.par 1
  let b2 := r.par 2
  let sq := g.map fun x => f32add (f32mul x x) (r.par 3)
  let row (i : Nat) : List Nat := (sq.drop (256 * i)).take 256
  let col (j : Nat) : List Nat := (List.range 256).map fun i => sq[256 * i + j]?.getD 0
  let upd (k old mean : Nat) : Nat := madd k (oneMinus b2) mean (f32mul b2 old)
  let rho' := rho.mapIdx fun i x => upd (seed + i) x (mean32 (seed + 1024 + 256 * i) (row i))
  let kap' := kap.mapIdx fun j x => upd (seed + 256 + j) x (mean32 (seed + 131072 + 256 * j) (col j))
  let mr := mean32 (seed + 512) rho'
  let u := g.mapIdx fun n x =>
    f32div x (f32sqrt (f32div (f32mul (rho'[n / 256]?.getD 0) (kap'[n % 256]?.getD 0)) mr))
  let m' := if r.arg 1 = 0 then u
    else lanes3 (fun a b k => madd (seed + 262144 + 4 * k) (oneMinus b1) b (f32mul b1 a)) m u (List.range m.length)
  let w' := lanes3 (fun a b k =>
    madd (seed + 262144 + 4 * k + 2) (f32neg (r.par 0)) (madd (seed + 262144 + 4 * k + 1) (r.par 4) a b) a)
    w m' (List.range w.length)
  (rho', kap', w', m')

/-- Reads a unit's gradient as FP32 elements before GSCALE: dense, or expanded from a record (R221, R233). -/
def gradOf (k : Worker) (r : Run) (seed : Nat) : KM (List Nat) :=
  let la := r.arg 3 + r.units * r.gradBytes
  if 2 ≤ r.inFmt then
    if r.clearG then kArg
    else andThen (kRead k la r.gradBytes true) fun rec =>
      if recMatches rec r.recFmt r.rankCode then kPure (expandFrom seed r.recFmt r.rankCode rec 0 65536) else kArg
  else andThen (kTake k r.clearG 0 la r.gradBytes) fun l =>
    kPure (if r.inFmt = 1 then bf16s r.unitElems l else f32s r.unitElems l)

/-- The writes of the outputs of a unit's new w, and the elements that saturated. -/
def writeOuts (r : Run) (w : List Nat) : List UnitWrite × Nat :=
  let cs := r.outs.map fun o => (o, convert o.2 w)
  (cs.map fun c => put (c.1.1 + r.units * (r.unitElems / 2048) * chunkOut c.1.2) c.2.1, (cs.map (·.2.2)).sum)

/-- One unit of an optimiser. -/
def optimiserUnit (k : Worker) (r : Run) (seed : Nat) : KM UnitOut :=
  let n := r.unitElems
  let at_ (b : Nat) : Nat := r.arg b + r.units * 4 * n
  let hasM := !(r.handle = 4 && r.arg 1 = 0)
  andThen (kRead k (at_ 0) (4 * n)) fun wB =>
  andThen (if hasM then kRead k (at_ 1) (4 * n) else kPure []) fun mB =>
  andThen (if r.handle = 1 then kRead k (at_ 2) (4 * n)
           else if r.handle = 4 then kRead k (r.arg 2 + 2048 * r.units) 2048 else kPure []) fun vB =>
  andThen (gradOf k r seed) fun raw =>
    let g := raw.map (f32mul (r.par 7))
    let w := f32s n wB
    let m := f32s n mB
    let base := seed + 2 ^ 24
    let out : UnitOut :=
      { a := sum32 (seed + 2 ^ 23) (g.map fun x => f32mul x x), b := (g.filter fun x => !f32Finite x).length }
    if r.handle = 4 then
      let f := factoredTile r base w m g (f32s 256 (vB.take 1024)) (f32s 256 (vB.drop 1024))
      let o := writeOuts r f.2.2.1
      kPure { out with
        sat := o.2
        writes := [put (at_ 0) (f32Bytes f.2.2.1) :: (if hasM then [put (at_ 1) (f32Bytes f.2.2.2)] else [])
          ++ put (r.arg 2 + 2048 * r.units) (f32Bytes (f.1 ++ f.2.1)) :: o.1] }
    else
      let v := if r.handle = 1 then f32s n vB else List.replicate n 0
      let res := (List.range n).map fun i =>
        adamElem r (base + 4 * i) (w[i]?.getD 0) (m[i]?.getD 0) (v[i]?.getD 0) (g[i]?.getD 0)
      let w' := res.map (·.1)
      let o := writeOuts r w'
      kPure { out with
        sat := o.2
        writes := [put (at_ 0) (f32Bytes w') :: put (at_ 1) (f32Bytes (res.map (·.2.1)))
          :: (if r.handle = 1 then [put (at_ 2) (f32Bytes (res.map (·.2.2)))] else []) ++ o.1] }

/-! ## REDUCE, QUANTISE, GATHER, SCATTER_ADD (R254) -/

def Run.outFmt (r : Run) : Nat := bits (r.arg 5) 43 40
def Run.kArgument (r : Run) : Nat := bits (r.arg 5) 51 44

/-- Reads the chunks of a list of inputs, numbered from `slot` on. -/
def readInputs (k : Worker) (r : Run) : Nat → List Nat → KM (List (List Nat))
  | _, [] => kPure []
  | slot, la :: t =>
    andThen (kTake k r.clearG slot la r.gradBytes) fun l =>
    andThen (readInputs k r (slot + 1) t) fun rest => kPure ((if r.inFmt = 1 then bf16s 2048 l else f32s 2048 l) :: rest)

def reduceUnit (k : Worker) (r : Run) (seed : Nat) : KM UnitOut :=
  let las := (List.range r.kArgument).map fun i => r.arg 1 + i * r.arg 2 + r.units * r.gradBytes
  andThen (readInputs k r 0 las) fun ins =>
    let sums := (List.range 2048).map fun i => sum32 (seed + 256 * i) (ins.map fun l => l[i]?.getD 0)
    kPure { writes := [[put (r.arg 0 + r.units * chunkOut r.outFmt) (convert r.outFmt sums).1]] }

def quantiseUnit (k : Worker) (r : Run) : KM UnitOut :=
  andThen (readInputs k r 0 [r.arg 1 + r.units * r.gradBytes]) fun ins =>
    let c := convert r.outFmt (ins.headD [])
    kPure { a := c.2, sat := c.2, writes := [[put (r.arg 0 + r.units * chunkOut r.outFmt) c.1]] }

/-- Index j of the index list. -/
def readIndex (k : Worker) (r : Run) : KM Nat :=
  andThen (kRead k (r.arg 2 + 4 * r.units / 64 * 64) 64) fun l =>
    let v := hdrNum l (4 * r.units % 64) 4
    if r.arg 3 ≤ v then kArg else kPure v

def gatherUnit (k : Worker) (r : Run) : KM UnitOut :=
  let row := 64 * r.kArgument
  andThen (readIndex k r) fun i =>
  andThen (kRead k (r.arg 1 + i * row) row) fun l => kPure { writes := [[put (r.arg 0 + r.units * row) l]] }

def scatterUnit (k : Worker) (r : Run) : KM UnitOut :=
  let row := 64 * r.kArgument
  andThen (readIndex k r) fun i =>
  andThen (kRead k (r.arg 1 + r.units * row) row) fun l =>
    kPure { writes := [(List.range r.kArgument).map fun n => { la := r.arg 0 + i * row + 64 * n, data := (l.drop (64 * n)).take 64, add := true }] }

/-! ## Low-rank kernels (R216-R229) -/

def Run.tiles (r : Run) : Nat := bits (r.arg 4) 31 0
def Run.lrCode (r : Run) : Nat := bits (r.arg 4) 34 32
def Run.lrRank (r : Run) : Nat := rankOf r.lrCode
def Run.lrFmt (r : Run) : Nat := bits (r.arg 4) 38 35
def Run.resBf16 (r : Run) : Bool := bit (r.arg 4) 39
def Run.clearInput (r : Run) : Bool := bit (r.arg 4) 40
def Run.coldArg (r : Run) : Bool := bit (r.arg 4) 41
def Run.step (r : Run) : Nat := bits (r.arg 5) 31 0
def Run.modules (r : Run) : Nat := bits (r.arg 5) 43 32
def Run.seedArg (r : Run) : Nat := bits (r.arg 5) 63 44

/-- SCALE: 1/N rounded (R227). -/
def Run.scale (r : Run) : Nat := f32div f32One (f32OfNat r.modules)

/-- The bytes of a residual tile and its elements. -/
def Run.eBytes (r : Run) : Nat := if r.resBf16 then 131072 else 262144
def Run.decodeE (r : Run) (l : List Byte) : List Nat := if r.resBf16 then bf16s 65536 l else f32s 65536 l
def Run.encodeE (r : Run) (l : List Nat) : List Byte := if r.resBf16 then bf16Bytes l else f32Bytes l

/-- Values as they are stored in E: rounded to BF16 if it is. -/
def Run.roundE (r : Run) (l : List Nat) : List Nat := if r.resBf16 then l.map fun v => ofBf16 (toBf16 v) else l

/-- Column j of a tile. -/
def tileCol (t : List Nat) (j : Nat) : List Nat := (List.range 256).map fun i => t[256 * i + j]?.getD 0

/-- Row i of a tile. -/
def tileRow (t : List Nat) (i : Nat) : List Nat := (t.drop (256 * i)).take 256

/-- The FP32 dot product, in an open order. -/
def dot32 (seed : Nat) (a b : List Nat) : Nat := sum32 seed ((a.zip b).map fun p => f32mul p.1 p.2)

/-- M Q as columns (R226). -/
def project (seed : Nat) (m : List Nat) (q : List (List Nat)) : List (List Nat) :=
  q.mapIdx fun k c => (List.range 256).map fun i => dot32 (seed + 256 * (256 * k + i)) (tileRow m i) c

/-- Mᵀ U as columns (R226). -/
def backProject (seed : Nat) (m : List Nat) (u : List (List Nat)) : List (List Nat) :=
  u.mapIdx fun k c => (List.range 256).map fun j => dot32 (seed + 256 * (256 * k + j)) (tileCol m j) c

def norm32 (seed : Nat) (l : List Nat) : Nat := f32sqrt (dot32 seed l l)

/-- a ≤ b; false with a NaN. -/
def f32le (a b : Nat) : Bool := !(num32 a).isNan && !(num32 b).isNan && !(num32 b).lt (num32 a)

/-- Gram-Schmidt with two passes (R226). -/
def gramSchmidt (seed : Nat) : List (List Nat) → List (List Nat) → List (List Nat)
  | done, [] => done
  | done, c :: t =>
    let k := done.length
    let sd := seed + 2 ^ 20 * k
    let pass (p : Nat) (w : List Nat) : List Nat :=
      (done.mapIdx fun j u => (j, u)).foldl (fun w ju =>
        let base := sd + 2 ^ 17 * (p + 1) + 1024 * ju.1
        let d := f32neg (dot32 base ju.2 w)
        lanes3 (fun a b i => madd (base + 256 + i) d b a) w ju.2 (List.range 256)) w
    let before := norm32 sd c
    let w := pass 1 (pass 0 c)
    let after := norm32 (sd + 256) w
    let zero := before % 2 ^ 31 = 0 || f32le after (f32mul before 0x35800000)
    gramSchmidt seed (done ++ [if zero then List.replicate 256 0 else w.map fun v => f32div v after]) t

/-- Encodes columns and reads them back as the converted factors. -/
def toSection (r : Run) (cols : List (List Nat)) : List Byte × Nat := encodeSection r.lrFmt r.lrRank cols
def ofSection (r : Run) (sec : List Byte) : List (List Nat) := (List.range r.lrRank).map (secCol r.lrFmt r.lrRank sec)

/-- The seed columns of a tile (R225). -/
def Run.seeds (r : Run) : List (List Nat) := (List.range r.lrRank).map (seedCol r.seedArg r.units)

/-- The warm start of a tile from its record (R221, R225): the columns and whether it is a cold start; none: the header check fails. -/
def warmStart (r : Run) (rec : List Byte) : Option (List (List Nat) × Bool) :=
  if recEmpty rec then some (r.seeds, true)
  else if recMatches rec r.lrFmt r.lrCode then
    some ((ofSection r (recV r.lrFmt r.lrRank rec)).mapIdx fun k c =>
      if c.all fun v => v % 2 ^ 31 = 0 then seedCol r.seedArg r.units k else c, false)
  else none

/-- The residual of a tile: M - SCALE U Vᵀ from the converted sections (R227). -/
def residual (r : Run) (seed : Nat) (m : List Nat) (u v : List Byte) : List Nat :=
  r.roundE ((List.range 65536).map fun n =>
    f32sub (m[n]?.getD 0) (expandElem (seed + 64 * n) r.lrFmt r.lrRank r.scale u v (n / 256) (n % 256)))

def Run.recLa (r : Run) (arg : Nat) : Nat := r.arg arg + r.units * recordBytes r.lrFmt r.lrRank
def Run.gLa (r : Run) : Nat := r.arg 0 + r.units * 262144
def Run.eLa (r : Run) (arg : Nat) : Nat := r.arg arg + r.units * r.eBytes
def Run.secLen (r : Run) : Nat := sectionBytes r.lrFmt r.lrRank
def Run.xU (r : Run) (arg : Nat) : Nat := r.arg arg + r.units * r.secLen
def Run.xV (r : Run) (arg : Nat) : Nat := r.arg arg + (r.tiles + r.units) * r.secLen

/-- The fold (R227): M, as it is stored in E. -/
def fold (k : Worker) (r : Run) (e : List Byte) : KM (List Nat) :=
  andThen (kTake k r.clearInput 0 r.gLa 262144) fun g =>
    kPure (r.roundE (((f32s 65536 g).zip (r.decodeE e)).map fun p => f32add p.1 p.2))

/-- The record of a tile in F. -/
def readRecord (k : Worker) (r : Run) (arg : Nat) : KM (List Byte) := kRead k (r.recLa arg) (recordBytes r.lrFmt r.lrRank) true

/-- The warm start of a tile, or its cold start (R225); with COLD set the record in F is not read. -/
def startOf (k : Worker) (r : Run) : KM (List (List Nat) × Bool) :=
  if r.coldArg then kPure (r.seeds, true)
  else andThen (readRecord k r 2) fun rec => kSome (warmStart r rec) kPure

/-- The writes of a record: its U and V lines, and its header line, which follows them (R222). -/
def recordLines (r : Run) (arg : Nat) (u v : List Byte) : UnitWrite := put (r.recLa arg + 64) (u ++ v)
def recordHead (r : Run) (arg : Nat) (cold : Bool) (res inn : Nat) : UnitWrite :=
  put (r.recLa arg) (recHeader r.lrFmt r.lrCode cold r.step r.scale r.modules res inn)

def lrLocal (k : Worker) (r : Run) (seed : Nat) : KM UnitOut :=
  andThen (startOf k r) fun w =>
    let q := w.1
    andThen (kRead k (r.eLa 1) r.eBytes) fun eB =>
    andThen (fold k r eB) fun m =>
      let u := toSection r (gramSchmidt (seed + 2 ^ 28) [] (project seed m q))
      let v := toSection r (backProject (seed + 2 ^ 24) m (ofSection r u.1))
      let e := residual r (seed + 2 ^ 25) m u.1 v.1
      let res := dot32 (seed + 2 ^ 26) e e
      let inn := dot32 (seed + 2 ^ 27) m m
      kPure { a := res, b := inn, sat := u.2 + v.2
              writes := [[put (r.eLa 1) (r.encodeE e), recordLines r 2 u.1 v.1], [recordHead r 2 w.2 res inn]] }

def lrProject (k : Worker) (r : Run) (seed : Nat) : KM UnitOut :=
  andThen (startOf k r) fun w =>
    andThen (kRead k (r.eLa 1) r.eBytes) fun eB =>
    andThen (fold k r eB) fun m =>
      kPure { writes := [[put (r.eLa 1) (r.encodeE m), put (r.arg 3 + r.units * 512 * r.lrRank) ((project seed m w.1).flatMap bf16Bytes)]] }

/-- The columns of a pool's tile, read and zeroed (R228, R229). -/
def poolCols (k : Worker) (r : Run) : KM (List (List Nat)) :=
  andThen (kTake k true 0 (r.arg 0 + r.units * 1024 * r.lrRank) (1024 * r.lrRank)) fun l =>
    kPure ((List.range r.lrRank).map fun c => f32s 256 (l.drop (1024 * c)))

def lrOrtho (k : Worker) (r : Run) (seed : Nat) : KM UnitOut :=
  andThen (poolCols k r) fun p =>
    let u := toSection r (gramSchmidt seed [] p)
    kPure { sat := u.2, writes := [[put (r.xU 1) u.1]] }

def lrBack (k : Worker) (r : Run) (seed : Nat) : KM UnitOut :=
  andThen (kRead k (r.eLa 0) r.eBytes) fun eB =>
  andThen (kRead k (r.xU 1) r.secLen) fun u =>
    let v := backProject seed (r.decodeE eB) (ofSection r u)
    kPure { writes := [[put (r.arg 3 + r.units * 512 * r.lrRank) (v.flatMap bf16Bytes)]] }

def lrFinish (k : Worker) (r : Run) : KM UnitOut :=
  andThen (poolCols k r) fun p =>
    let v := toSection r p
    kPure { sat := v.2, writes := [[put (r.xV 1) v.1]] }

/-- LR_RESIDUAL writes the record in F, then E (R230). It marks the header as a cold start's where COLD is set or the old record is empty, as the kernels that project do (R225;
log 136). -/
def lrResidual (k : Worker) (r : Run) (seed : Nat) : KM UnitOut :=
  andThen (kRead k (r.eLa 0) r.eBytes) fun eB =>
  andThen (kRead k (r.xU 1) r.secLen) fun u =>
  andThen (kRead k (r.xV 1) r.secLen) fun v =>
  andThen (if r.coldArg then kPure true else andThen (readRecord k r 2) fun old => kPure (recEmpty old)) fun cold =>
    let m := r.decodeE eB
    let e := residual r seed m u v
    let res := dot32 (seed + 2 ^ 26) e e
    let inn := dot32 (seed + 2 ^ 27) m m
    kPure { a := res, b := inn
            writes := [[recordLines r 2 u v], [recordHead r 2 cold res inn, put (r.eLa 0) (r.encodeE e)]] }

def lrExpand (k : Worker) (r : Run) (seed : Nat) : KM UnitOut :=
  andThen (kRead k (r.recLa 0) (recordBytes r.lrFmt r.lrRank) true) fun rec =>
    if recMatches rec r.lrFmt r.lrCode then
      kPure { writes := [[put (r.arg 1 + r.units * 262144) (f32Bytes (expandFrom seed r.lrFmt r.lrCode rec 0 65536))]] }
    else kArg

/-! ## The pages that a unit reads -/

/-- The ranges a unit reads, as far as they can wait: LA and bytes. -/
def Run.touches (r : Run) : List (Nat × Nat) :=
  let n := r.unitElems
  let row := 64 * r.kArgument
  let sec := r.secLen
  let rec_ := if r.coldArg then [] else [(r.recLa 2, recordBytes r.lrFmt r.lrRank)]
  match r.handle with
  | 0x10 => (List.range r.kArgument).map fun i => (r.arg 1 + i * r.arg 2 + r.units * r.gradBytes, r.gradBytes)
  | 0x11 => [(r.arg 1 + r.units * r.gradBytes, r.gradBytes)]
  | 0x12 => [(r.arg 2 + 4 * r.units / 64 * 64, 64)]
  | 0x13 => [(r.arg 2 + 4 * r.units / 64 * 64, 64), (r.arg 1 + r.units * row, row)]
  | 0x20 => [(r.eLa 1, r.eBytes), (r.gLa, 262144)] ++ rec_
  | 0x21 => [(r.eLa 1, r.eBytes), (r.gLa, 262144)] ++ rec_
  | 0x22 => []
  | 0x23 => [(r.eLa 0, r.eBytes), (r.xU 1, sec)]
  | 0x24 => []
  | 0x25 => [(r.eLa 0, r.eBytes), (r.xU 1, sec), (r.xV 1, sec)] ++ rec_
  | 0x26 => [(r.recLa 0, recordBytes r.lrFmt r.lrRank)]
  | _ =>
    let four (b : Nat) := [(r.arg b + r.units * 4 * n, 4 * n)]
    four 0 ++ (if r.handle = 4 && r.arg 1 = 0 then [] else four 1)
    ++ (if r.handle = 1 then four 2 else if r.handle = 4 then [(r.arg 2 + 2048 * r.units, 2048)] else [])
    ++ [(r.arg 3 + r.units * r.gradBytes, r.gradBytes)]

/-! ## Argument checks before any memory access (R224, R250, R251) -/

/-- Arguments that must be zero. -/
def Run.zeros (r : Run) (l : List Nat) : Bool := l.all fun k => r.arg k = 0

/-- Arguments that must be aligned. -/
def Run.aligned (r : Run) (n : Nat) (l : List Nat) : Bool := l.all fun k => r.arg k % n = 0

/-- The check of a low-rank kernel (R223, R224). R229 gives S and X regions that are neither shared nor factor, and R224 lists no refusal
of others: the run goes on (log 137). -/
def lrCheck (s : State) (r : Run) : Bool :=
  let n := r.tiles
  let common := 1 ≤ n && n ≤ 1048576 && r.lrCode ≤ 4 && 1 ≤ r.lrFmt && r.lrFmt ≤ 3 && bits (r.arg 4) 63 42 = 0 &&
    1 ≤ r.modules
  let factorF (a : Nat) : Bool := s.liesIn r.ctx (r.arg a) (n * recordBytes r.lrFmt r.lrRank) fun g => g.kind = 4
  let plain (a len : Nat) : Bool := s.regionsAre r.ctx (r.arg a) (n * len) fun g => g.kind ≠ 2 && g.kind ≠ 4
  let accum (a len : Nat) : Bool := s.liesIn r.ctx (r.arg a) (n * len) fun g => g.kind = 3
  let eight := r.lrRank * n % 8 = 0
  let gOk := r.aligned 4096 [0] && plain 0 262144 && (!r.clearInput || accum 0 262144)
  let poolOk := r.aligned 8192 [0] && s.regionsAre r.ctx (r.arg 0) (n * (1024 * r.lrRank)) fun g => g.kind = 3
  common && (match r.handle with
    | 0x20 => r.zeros [3] && r.modules = 1 && gOk && r.aligned 4096 [1] && r.aligned 64 [2] && factorF 2
    | 0x21 => gOk && r.aligned 4096 [1] && r.aligned 64 [2, 3] && factorF 2 && eight
    | 0x22 => r.zeros [2, 3] && poolOk && r.aligned 64 [1] && eight
    | 0x23 => r.zeros [2] && r.aligned 4096 [0] && r.aligned 64 [1, 3] && eight
    | 0x24 => r.zeros [2, 3] && poolOk && r.aligned 64 [1] && eight
    | 0x25 => r.zeros [3] && r.aligned 4096 [0] && r.aligned 64 [1, 2] && factorF 2 && eight
    | _ => r.zeros [2, 3] && r.aligned 64 [0] && r.aligned 4096 [1] && factorF 0 && plain 1 262144)

/-- The check of the other built-in kernels (R250, R251). -/
def Run.ctrlOk (r : Run) : Bool :=
  let factor := 2 ≤ r.inFmt
  let opt := r.handle ≤ 4
  bits (r.arg 5) 63 52 = 0 && 1 ≤ r.countArg && r.inFmt ≤ 4 && (if factor then decide (r.rankCode ≤ 4) else r.rankCode == 0) &&
  (if opt then
     r.outFmt = 0 && r.kArgument = 0 && (!r.tiled || r.countArg % 32 = 0) && !(factor && r.clearG) &&
     r.aligned 4096 [0, 1] && r.aligned (if factor then 64 else 4096) [3] && r.aligned 64 [4] &&
     (match r.handle with
      | 1 => r.aligned 4096 [2]
      | 4 => r.aligned 64 [2]
      | _ => r.zeros [2])
   else !factor &&
     (match r.handle with
      | 0x10 => r.outFmt ≤ 1 && 2 ≤ r.kArgument && r.zeros [3, 4] && r.aligned 4096 [0, 1, 2]
      | 0x11 => 1 ≤ r.outFmt && r.outFmt ≤ 4 && r.kArgument = 0 && !r.clearG && r.zeros [2, 3, 4] && r.aligned 4096 [0, 1]
      | _ => r.inFmt = 0 && r.outFmt = 0 && 1 ≤ r.kArgument && !r.clearG && r.zeros [4] && r.aligned 4096 [0, 1] &&
             r.aligned 64 [2]))

/-- What CLEAR_G zeroes lies in an accumulate region (R251). -/
def clearOk (s : State) (r : Run) : Bool :=
  let lies (la : Nat) : Bool := s.liesIn r.ctx la (r.total * r.gradBytes) fun g => g.kind = 3
  !r.clearG ||
    (if r.handle = 0x10 then (List.range r.kArgument).all fun i => lies (r.arg 1 + i * r.arg 2) else r.handle ≤ 4 && lies (r.arg 3))

/-- The argument check of a built-in run (R224, R251, R285). -/
def builtinCheck (s : State) (r : Run) : Bool := if r.lowRank then lrCheck s r else r.ctrlOk && clearOk s r

/-! ## Units -/

/-- One unit of a run. -/
def unitOf (k : Worker) (r : Run) (seed : Nat) : KM UnitOut := fun s =>
  match r.handle with
  | 0x10 => reduceUnit k r seed s
  | 0x11 => quantiseUnit k r s
  | 0x12 => gatherUnit k r s
  | 0x13 => scatterUnit k r s
  | 0x20 => lrLocal k r seed s
  | 0x21 => lrProject k r seed s
  | 0x22 => lrOrtho k r seed s
  | 0x23 => lrBack k r seed s
  | 0x24 => lrFinish k r s
  | 0x25 => lrResidual k r seed s
  | 0x26 => lrExpand k r seed s
  | _ => optimiserUnit k r seed s

/-- A unit reads and zeroes operands: it begins only when every unit below it has retired, since it writes (R228, R249). -/
def Run.clears (r : Run) : Bool :=
  match r.handle with
  | 0x20 => r.clearInput
  | 0x21 => r.clearInput
  | 0x22 => true
  | 0x24 => true
  | _ => !r.lowRank && r.clearG

/-- The failure of a unit: its reason from the access. -/
def State.unitFault (s : State) (e : Nat) (r : Run) (status la : Nat) : RunFail :=
  { reason := if status = stBadParam then 3 else s.failReason r.ctx status la, engine := e, instr := 0xFFFF, la }

/-- The run ends with the failure of its lowest unit that has not retired, if that has failed (R256). -/
def State.failNext (s : State) (id : Nat) : State :=
  match (s.run? id).bind fun r => (r.work.find? fun w => w.unit == r.units).bind (·.failed) with
  | some f => s.failRun id f
  | none => s

/-- An engine has finished a unit, or failed in it; it holds it until every unit below has retired (R249, R256). -/
def State.unitFinished (s : State) (id : Nat) (w : UnitWork) : State :=
  (s.modRun id fun r => { r with busy := tdel r.busy w.engine, taken := [], work := r.work ++ [w] }).failNext id

/-- A unit retires (R249, R255): its results are added, and after the last one the run's engines end. RES_NORM2 and IN_NORM2 are added in
tile order, in which units retire (log 138). -/
def State.unitRetired (s : State) (r : Run) (w : UnitWork) : State :=
  let s := s.modRun r.id fun r => { r with
    units := r.units + 1
    work := r.work.filter (·.unit != w.unit)
    res1 := if r.handle ≤ 4 || r.lowRank then f32add r.res1 w.a else r.res1 + w.a
    res2 := if r.lowRank then f32add r.res2 w.b else min (r.res2 + w.b) (2 ^ 32 - 1) }
  let s := s.quantSat w.engine r.ctx w.sat
  if r.units + 1 = r.total then
    (s.each r.engines fun s e => s.modEngine e fun g => { g with ended := true }).settleRun r.id
  else s.failNext r.id

/-- The writes of a unit, each within a 4 KiB block. -/
def UnitWrite.split (w : UnitWrite) : List UnitWrite :=
  if w.add then [w] else (piecesOf w.la w.data.length).map fun p => put p.1 ((w.data.drop (p.1 - w.la)).take p.2)

/-- One write of a unit. -/
def State.putWrite (k : Worker) (s : State) (w : UnitWrite) : Got Unit × State :=
  let o := if w.add then s.moverVadd k.m w.la 2 (lineOf w.data) else s.writePiece k.m w.la (linesOf (w.data.length / 64) w.data) false
  (o.1, match o.1 with | .ok _ => o.2.streamed k.e k.ctx w.data.length true | _ => o.2)

/-- A write of a unit would meet an error of the stored data (R134, R318). -/
def State.badWrite (s : State) (k : Worker) (w : UnitWrite) : Bool :=
  match (s.reach k.m w.la (w.data.length / 64) (if w.add then .atom else .wr) (some false)).1 with
  | .go t r =>
    (s.writeBlocked (t.za / 64) (w.data.length / 64) r.auto).isSome
      || (w.add && (s.readLines r (t.za / 64) 1 k.ctx 0 k.m.src k.m.fetch).1.any fun e => e.1 != 0)
  | _ => false

/-- The next writes of the lowest finished unit: a group, once every page that the unit has still to write can be accessed. An error of the
stored data is met before the first of them, so that the unit is not written (R256). After the last group the unit retires. -/
def State.writeStep (s : State) (k : Worker) (r : Run) (w : UnitWork) : State :=
  match w.groups with
  | [] => s.unitRetired r w
  | g :: rest =>
    let perm : Perm := if g.any (·.add) then .atom else .wr
    let rdy := s.allReady k.m (w.groups.flatten.map fun x => (x.la, x.data.length)) perm true
    match rdy.1 with
    | .wait => rdy.2
    | .fail st la => rdy.2.failRun r.id (rdy.2.unitFault w.engine r st la)
    | .ok _ =>
      let ops := match g.find? (rdy.2.badWrite k) with | some x => [x] | none => g
      let o := rdy.2.doAll (State.putWrite k) ops 0
      let left (gs : List (List UnitWrite)) (s : State) : State :=
        s.modRun r.id fun r => { r with work := r.work.map fun x => if x.unit = w.unit then { x with groups := gs } else x }
      match o.1.1 with
      | .wait => left (g.drop o.1.2 :: rest) o.2
      | .fail st la => o.2.failRun r.id (o.2.unitFault w.engine r st la)
      | .ok _ => if rest.isEmpty then o.2.unitRetired r w else left rest o.2

/-- An engine reads and computes a unit, once every page that it reads can be accessed. -/
def State.readStep (s : State) (k : Worker) (r : Run) (u : Nat) : State :=
  let at_ : Run := { r with units := u }
  let lost (s : State) (st la : Nat) : State := s.unitFinished r.id { unit := u, engine := k.e, failed := some (s.unitFault k.e r st la) }
  let rdy := s.allReady k.m at_.touches .rd false
  match rdy.1 with
  | .wait => rdy.2
  | .fail st la => lost rdy.2 st la
  | .ok _ =>
    let seed := rdy.2.fresh
    let o := unitOf k at_ seed { rdy.2 with fresh := seed + 2 ^ 32 }
    match o.1 with
    | .wait => o.2
    | .fail st la => lost o.2 st la
    | .ok out =>
      o.2.unitFinished r.id
        { unit := u, engine := k.e, a := out.a, b := out.b, sat := out.sat, groups := out.writes.map fun g => g.flatMap UnitWrite.split }

/-- The unit that an engine works on: the one dealt to it, or the next one, unless it holds four that wait to retire (R249). None is dealt once one
has failed (R258). -/
def Run.unitFor (r : Run) (e : Nat) : Option Nat :=
  match tfind? r.busy e with
  | some u => some u
  | none =>
    if r.dealt < r.total && r.work.all (·.failed.isNone) && (r.work.filter fun w => w.engine == e).length < 4 then some r.dealt else none

/-- A built-in run goes on on an engine: the descriptor first; then the writes of the lowest unit, if this engine holds it finished; else the unit
that the engine works on. -/
def State.builtinStep (s : State) (e : Nat) (r : Run) : State :=
  let worker (u : Nat) : Worker := { m := s.kernelMover e r.ctx (.run r.id u), e, ctx := r.ctx, run := r.id }
  if r.handle ≤ 4 && r.desc.isEmpty then
    let o := kRead (worker 0) (r.arg 4) 128 false s
    match o.1 with
    | .wait => o.2
    | .fail st la => o.2.failRun r.id (o.2.unitFault e r st la)
    | .ok d =>
      let r' := { r with desc := d }
      if r'.descOk then o.2.modRun r.id fun r => { r with desc := d }
      else o.2.failRun r.id { reason := 3, engine := e, instr := 0xFFFF, la := 0 }
  else
    match r.work.find? fun w => w.unit == r.units && w.engine == e with
    | some w => s.writeStep (worker w.unit) r w
    | none =>
      match r.unitFor e with
      | none => s
      | some u =>
        let s := s.modRun r.id fun r => { r with dealt := max r.dealt (u + 1), busy := tset r.busy e u }
        if r.clears && r.units < u then s else s.readStep (worker u) r u

/-! ## Meanings -/

/-- STREAM_COMPLETE (R246, R249): a stream of a loaded kernel, or the next unit of a built-in one. -/
def execStreamComplete (engine : Fin 152) (tag : Fin 17) (s : State) : Out1 :=
  .next (match (s.engine engine.val).run.bind s.run? with
    | some r =>
      if !s.running then s
      else if loadedHandle r.handle then s.streamStep engine.val tag.val r
      else if r.failed.isNone && r.units < r.total then s.builtinStep engine.val r
      else s
    | none => s)

def execKernelDispatch (s : State) : Out1 := .next (if s.running && !s.hep.d3hot && !s.fwHolds 5 then s.dispatchRun builtinCheck else s)

end Sys2Proof.Machine
end

