-- ==== Sys2Proof/Machine/Power.lean ====
section
/-!
DEFINITION. Supply, power-off and journal flush (R340, R396-R399), throttling and thermal limits (R400-R406), resets and what
survives them (R31, R214, R341, R363, R411, R413), and the boot chain (R381-R383, R407-R410).
-/

namespace Sys2Proof.Machine

/-! ## What survives a reset or a power loss (R31, R214, R341, R378, R399, R451) -/

/-- The sealed images afterwards: those there were, and each durable context (R31). -/
def State.sealedAfter (s : State) : Tbl SealedImg :=
  (s.ctxs.filter fun e => e.2.durable && e.2.st != .free).foldl (fun t e =>
    tset t e.2.sealId
      { sealId := e.2.sealId, key := e.2.key, gen := e.2.gen
        regions := (s.regions.filter fun r => r.2.ctx == e.1 && r.2.owned && r.2.sealedBy == 0 && r.2.kind == 0).map (·.1) }) s.sealed

/-- The tiered regions of sealed contexts; their blocks are no longer forced RAW (log 135). -/
def State.regionsAfter (s : State) : Tbl Region :=
  s.regions.filterMap fun e =>
    let x := s.ctx e.2.ctx
    if e.2.sealedBy ≠ 0 then some e
    else if e.2.kind = 0 && e.2.owned && x.durable && x.st != .free then
      some (e.1, { e.2 with sealedBy := x.sealId, forceRaw := false })
    else none

/-- The sequence numbers afterwards: those of the handles that end have advanced (R29, R39, R45). -/
def State.seqsAfter (s : State) : Tbl Nat :=
  let kept := s.regionsAfter
  ((s.regions.map (·.1)).filter (fun i => !thas kept i) ++ s.subs.map (·.1)).foldl (fun t i => tmod 0 t i fun n => (n + 1) % 4096) s.seqs

/-- A store with the pages of a test alone. -/
def Store.only (st : Store) (p : Nat → Bool) : Store :=
  { mem := st.mem.filter fun c => p (c.1 / 65536), forms := st.forms.filter fun e => p (e.1 / 16)
    poison := st.poison.filter fun e => p (e.1 / 1024), flips := st.flips.filter fun e => p (e.1 / 1024)
    wrong := st.wrong.filter fun e => p (e.1 / 1024) }

/-- An FLS die after a reset: what its NAND and its system area hold (R330, R332, R337-R339). -/
def Fls.kept (t : Fls) (stop : Bool) : Fls :=
  { lost := t.lost, lowSpare := t.lowSpare, worn := t.worn, pagesWritten := t.pagesWritten
    diesOut := t.diesOut, blocks := t.blocks, segRecs := t.segRecs, segDone := t.segDone, areas := t.areas, stopped := stop }

/-- The state after a fundamental reset or a power loss, with the main domains powered or not: every register at its reset value
(R363); sealed contexts with their committed flash images, the tables that those name (R214); the non-volatile store (R451); the
pins. -/
def State.afterReset (s : State) (power : Bool) : State :=
  let regions := s.regionsAfter
  let hit (p : Nat) : Bool := regions.any fun e => e.2.zaPage ≤ p && p < e.2.zaPage + e.2.pages
  let fmap := s.fmap.filter fun e => hit e.1 && e.2.mapped
  let recs : Tbl RefRec := s.refRecs.filterMap fun e =>
    if hit e.1 && (e.2.flashA ≠ 0 || e.2.flashB ≠ 0) then some (e.1, { flashA := e.2.flashA, flashB := e.2.flashB }) else none
  let named (id : Nat) : Nat := (recs.map fun e => b2n (e.2.flashA == id) + b2n (e.2.flashB == id)).sum
  { State.reset with
    pending := s.pending, fresh := s.fresh, out := s.out, nextId := s.nextId, nextKey := s.nextKey
    variantH := s.variantH, stepB0 := s.stepB0
    sealed := s.sealedAfter, regions, seqs := s.seqsAfter
    flash := s.flash.only hit, fmap, images := s.images.filter fun e => thas fmap e.1
    dir := fmap.map fun e => (e.1, ({ st := .flash, onFlash := true } : DirEnt))
    refRecs := recs
    tables := s.tables.filterMap fun e =>
      if named e.1 = 0 then none else some (e.1, { e.2 with st := .retired, refs := named e.1, owned := false })
    flss := (List.range 2).filterMap fun d =>
      let t := (s.fls d).kept (s.pmc.sag && !s.variantH)
      if t = {} then none else some (d, t)
    repairs := s.repairs, repairRows := s.repairRows
    elog := { prior := if s.elog.fatal.isEmpty then s.elog.prior else s.elog.fatal }
    disp := { kernelSeq := s.disp.kernelSeq }
    fw := { activeBank := s.fw.activeBank, active := s.fw.active, inactive := s.fw.inactive, revertOk := s.fw.revertOk
            stage := s.fw.stage, stagedUnits := s.fw.stagedUnits, stagedBytes := s.fw.stagedBytes, fused := s.fw.fused }
    pmc := { powered := power, rails := power, perst := s.pmc.perst, supplyOk := s.pmc.supplyOk, tripLatch := s.pmc.tripLatch
             sag := s.pmc.sag, holdup := s.pmc.holdup, overvolt := s.pmc.overvolt
             lastOff := s.pmc.lastOff, offSensor := s.pmc.offSensor, smbAddr := s.pmc.smbAddr } }

/-- A fuse blow that loses power leaves the old number or the new one, a free choice (R383, log 1). -/
def State.tornFuse (s : State) : State :=
  if s.fw.blowing then
    let f := s.takeFree
    if f.1 % 2 = 1 then f.2.modFw fun w => w.fuse w.pendingFloor else f.2
  else s

/-! ## Flush, reset and power-off (R340, R397, R399, R411, R413) -/

/-- A journal buffer can hold records: the Z2520-F past stage 4 of its boot (R398, R410). -/
def State.hasJournal (s : State) : Bool := !s.variantH && decide (5 ≤ s.pmc.stage)

/-- A flush is due or in progress. -/
def State.flushPending (s : State) : Bool := (List.range 2).any fun d => (s.fls d).flushDue || (s.fls d).flushing

/-- The standby domain alone stays up (R413): PME, HEP_PME_CFG, MSVC_CTRL and the button. -/
def State.toStandby (s : State) : State :=
  let h := s.hep
  let s := (s.modPmc fun p => { p with lastOff := 4 }).afterReset false
  (s.modPmc fun p => { p with standby := true }).modHep fun n =>
    { n with l2 := true, pmeEn := h.pmeEn, pmeStatus := h.pmeStatus, portWake := h.portWake, btnWake := h.btnWake, msvcCtrl := h.msvcCtrl
             btnLevel := h.btnLevel, wake := h.wake }

/-- What waited for the journal takes place: the loss of power, standby, or the fundamental reset. -/
def State.settleReset (s : State) : State :=
  if s.flushPending then s
  else if !s.pmc.powered && !s.pmc.standby then s.tornFuse.afterReset false
  else if s.pmc.resetWait then (if s.hep.l2 then s.tornFuse.toStandby else s.tornFuse.afterReset true)
  else s

/-- Fetches end with the power: a program that one of them suspended goes on (R334, R340). -/
def State.endReads (s : State) : State :=
  s.each (List.range 2) fun s d => s.modFls d fun t => { t with
    nand := t.nand.filterMap fun n =>
      let m := { n.2 with reading := [], demand := [], prefetch := [] }
      if m = {} then none else some (n.1, m) }

/-- The 40 V crossing of R340 on both FLS dies. -/
def State.dueFlush (s : State) : State :=
  s.each (List.range 2) fun s d => s.modFls d fun t =>
    if t.lost || t.flushing then t else { t with flushDue := true, stopped := true }

/-- A power-off (R399): the main domains go, a flush runs on beneath them, and then all that does not survive is lost. -/
def State.powerOff (s : State) (reason sensor : Nat) : State :=
  if s.pmc.powered then
    let s := s.modPmc fun p => { p with powered := false, lastOff := reason, offSensor := if reason = 3 then sensor else p.offSensor }
    let s := s.endReads
    (if s.hasJournal && !s.hep.d3hot then s.dueFlush else s).settleReset
  else s

/-- A fundamental reset (R411): programs in flight complete and the journal is flushed before it acts. -/
def State.assertReset (s : State) : State :=
  let s := s.modPmc fun p => { p with perst := true }
  if s.pmc.powered && !s.pmc.resetWait then
    let s := (s.modPmc fun p => { p with resetWait := true }).endReads
    (if s.hasJournal && !s.hep.d3hot then s.dueFlush else s).settleReset
  else s

/-- JOURNAL_FLUSH (R340): once the programs in flight have ended. -/
def State.beginFlush (s : State) : State :=
  if (List.range 2).all fun d => !(s.fls d).flushDue || (s.fls d).nand.all fun n => n.2.program.isNone then
    s.each (List.range 2) fun s d => s.modFls d fun t => if t.flushDue then { t with flushDue := false, flushing := true } else t
  else s

/-- JOURNAL_FLUSH_COMPLETE (R340, R397). -/
def State.endFlush (s : State) : State :=
  let s := s.each (List.range 2) fun s d =>
    if (s.fls d).flushing then (s.journalSaved d).modFls d fun t => { t with flushing := false, err := orBit t.err 5 } else s
  s.settleReset

/-- FLUSH_DOMAIN_POWER_LOSS (R341, R397): records that had not reached the system area are lost with their write-backs. -/
def State.loseFlush (s : State) : State :=
  if s.pmc.powered || s.pmc.standby then s
  else
    let s := s.each (List.range 2) fun s d =>
      if (s.fls d).flushDue || (s.fls d).flushing then (s.journalLost d).modFls d fun t => { t with flushDue := false, flushing := false }
      else s
    s.settleReset

/-! ## Supply (R396) -/

/-- FLS dies stop new programs and erases below 44 V or while a NAND package is past its emergency limit (R340, R405), and go on
otherwise. Those of a Z2520-H are held in reset (R23). -/
def State.settleStops (s : State) : State :=
  let stop := s.pmc.sag || s.pmc.resetWait || s.pmc.hot.any fun i => 25 ≤ i && i ≤ 48
  if s.variantH then s
  else
    s.each (List.range 2) fun s d =>
      let s := s.modFls d fun t => { t with stopped := stop }
      if stop || !s.pmc.powered then s else (s.closeFull d).serve d

/-- The effective cap (R396, R400, R403). -/
def Pmc.effCap (p : Pmc) : Nat :=
  if p.safeCap || p.holdup then 900 else if p.sag then min p.capOn (35 * p.vin / 100) else p.capOn

/-- The supply enters Sag. -/
def State.enterSag (s : State) : State :=
  if s.pmc.sag then s else (((s.modPmc fun p => { p with sag := true, overvolt := false }).pmcErr 1).settleStops).fwReview

/-- The supply enters Hold-up: the cap falls to 900 W, and the journal is flushed unless tier scheduling has stopped (R412). -/
def State.enterHoldup (s : State) : State :=
  if s.pmc.holdup then s
  else
    let s := (s.enterSag.modPmc fun p => { p with holdup := true }).pmcErr 2
    if s.hasJournal && !s.hep.d3hot then s.dueFlush else s

/-- The supply is back at or above 44 V through the upward filter: a flush not yet begun is not needed any more. -/
def State.recoverSupply (s : State) : State :=
  let s := s.modPmc fun p => { p with supplyOk := true }
  if s.pmc.powered then
    let s := s.modPmc fun p => { p with sag := false, holdup := false, bootPaused := false }
    let s := if s.pmc.resetWait then s
      else s.each (List.range 2) fun s d => s.modFls d fun t => { t with flushDue := false }
    s.settleStops.fwReview
  else s

/-! ## Throttling and temperature (R400-R406) -/

/-- The throttle, release, emergency, end and trip limits of a sensor (R404). -/
def limits (i : Nat) : Nat × Nat × Nat × Nat × Nat :=
  if 49 ≤ i then (100, 95, 105, 100, 115)
  else if 25 ≤ i then (75, 70, 80, 75, 90)
  else (100, 95, 110, 105, 125)

/-- A sensor of a NAND package: it does not move the ladder (R404). -/
def nandSensor (i : Nat) : Bool := 25 ≤ i && i ≤ 48

/-- The reading of a sensor: a stack's mirrors MEM_BAND.TEMP, a Z2520-H has no NAND. -/
def State.reading (s : State) (temps : List (BitVec 8)) (i : Nat) : Nat :=
  if 49 ≤ i then (s.stack (i - 49)).temp
  else if s.variantH && nandSensor i then 0
  else (temps[i]?.map BitVec.toNat).getD (tget 0 s.pmc.temps i)

/-- Sensors past a limit and not yet back below the lower one. -/
def pastLimit (now : Nat → Nat) (past : List Nat) (hi lo : Nat → Nat) : List Nat :=
  (List.range 69).filter fun i => hi i ≤ now i || (past.contains i && lo i ≤ now i)

/-- New readings (R404, R405): an emergency begins with level 7, and ends once every sensor is below its end limit. -/
def State.readSensors (s : State) (temps : List (BitVec 8)) : State :=
  let now := s.reading temps
  let hot := pastLimit now s.pmc.hot (fun i => (limits i).2.2.1) (fun i => (limits i).2.2.2.1)
  let begins := s.pmc.hot.isEmpty && !hot.isEmpty
  let s := s.modPmc fun p => { p with
    temps := (List.range 69).foldl (fun t i => tput 0 t i (now i)) p.temps
    tempMax := (List.range 69).foldl (fun t i => tput 0 t i (max (tget 0 t i) (now i))) p.tempMax
    throttled := pastLimit now p.throttled (fun i => (limits i).1) (fun i => (limits i).2.1)
    hot, emergency := !hot.isEmpty, level := if hot.isEmpty then p.level else 7, calm := if hot.isEmpty then p.calm else 0 }
  let s := if begins then s.pmcErr 4 else s
  s.settleStops.fwReview

/-- POWER_EVALUATION (R401): one step of the ladder. The power core also takes a written cap into force. -/
def State.evaluate (s : State) (pin : Nat) (temps : List (BitVec 8)) : State :=
  let s := (s.modPmc fun p => { p with capOn := p.cap, pin }).readSensors temps
  let p := s.pmc
  let cap := p.effCap
  let tooMuch := cap < pin
  let warm := (List.range 69).any fun i => !nandSensor i && (limits i).1 ≤ tget 0 p.temps i
  let cool := (List.range 69).all fun i => nandSensor i || tget 0 p.temps i < (limits i).2.1
  let s :=
    if tooMuch || warm then
      let s := s.modPmc fun p => { p with level := min 7 (p.level + 1), calm := 0 }
      if p.level < 7 then
        let s := if tooMuch then s.pmcErr 0 else s
        if warm then s.pmcErr 3 else s
      else s
    else if 100 * pin < 95 * cap && cool then
      let floor := if p.emergency then 7 else 0
      if p.calm + 1 < 10 then s.modPmc fun p => { p with calm := p.calm + 1 }
      else s.modPmc fun p => { p with calm := 0, level := max floor (p.level - 1) }
    else s.modPmc fun p => { p with calm := 0 }
  s.rederate

/-- FAST_LIMIT (R402, R403). -/
def State.fastLimit (s : State) (power : Nat) : State :=
  if (if s.pmc.safeCap then 900 < power else 11 * s.pmc.effCap < 10 * power) then
    ((s.modPmc fun p => { p with level := 7, calm := 0 }).pmcErr 7).rederate
  else s

/-! ## Boot (R381-R383, R407-R410) -/

/-- The boot chain begins at stage 0. -/
def State.startBoot (s : State) : State := s.modPmc fun p => { p with booting := true, stage := 0 }

/-- The boot stops (R382). -/
def State.bootStop (s : State) (reason : Nat) : State :=
  s.modPmc fun p => { p with booting := false, fatal := true, stopReason := reason }

/-- An image passes the checks of stages 0 and 1 that follow from its header and the part (R381, R383). -/
def State.imageOk (s : State) (i : ImageInfo) : Bool := i.bootable && decide (s.fw.fused ≤ i.svn) && s.partOk i.parts i.steppings

/-- The other bank is tried, once in a boot (R381): it becomes active if it passes, else the boot stops. -/
def State.fallBack (s : State) (go : State → State) : State :=
  match s.fw.inactive with
  | some i =>
    if s.imageOk i && !bit s.fw.err.toNat 4 then
      go (s.modFw fun w => { w with
        activeBank := 1 - w.activeBank, active := i, inactive := some w.active, revertOk := false, err := orBit w.err 4 })
    else s.bootStop 1
  | none => s.bootStop 1

/-- The next stage begins. -/
def State.nextStage (s : State) (n : Nat) : State := s.modPmc fun p => { p with stage := n }

/-- A stack that fails its loop-back checks is retired before the fill (R305, R381). -/
def State.bootRetire (s : State) (k : Nat) : State :=
  let s := s.modStack k fun t => { t with st := 2, carveMoved := carveBlocks, spareFree := 0, err := orBit t.err 6 }
  (s.log { event := 0x08, kind := 3, index := k, reason := 1 }).checkCarve

/-- The repairs of a stack at boot (R317): of its listed rows those that still have a repair resource, a free choice (log 1), leave the
list, at most 16; a listed pseudo-channel without a row left returns if it passes its check, the others stay retired. -/
def State.bootRepair (s : State) (k : Nat) : State :=
  if (s.stack k).st ≠ 0 then s
  else
    let rows (s : State) : List Nat := ((s.repairRows.filter fun a => a % 32 == k).map rowOf).eraseDups
    let all := rows s
    let s := s.each all fun s a =>
      let f := s.takeFree
      if f.1 % 2 = 1 && all.length < (rows s).length + 16 then { f.2 with repairRows := f.2.repairRows.filter fun x => rowOf x != a } else f.2
    s.each (s.repairs.filter fun e => e / 64 == k) fun s e =>
      let p := e % 64
      let left := s.repairRows.any fun a => a % 32 == k && a / 32 % 64 == p
      let f := s.takeFree
      let s := f.2
      if !left && f.1 % 2 = 1 then
        ({ s with repairs := s.repairs.filter (· != e) }).log { event := 0x09, kind := 2, index := e, reason := 2 }
      else s.modPc k p fun c => { c with st := .retired, relocated := true }

/-- The power-on fill is complete (R296, R316, R317, R322): memory is zero, the spare shares and the tier cache are whole but for
what is retired, and rows without a repair resource have their remap entries back. -/
def State.fillDone (s : State) : State :=
  let s := s.each (List.range 20) fun s k =>
    if (s.stack k).st ≠ 0 then s
    else
      let gone := ((s.stack k).pcs.filter fun e => e.2.st == .retired).length
      let sib := if (s.stack (siblingOf k)).st = 2 then (s.stack (siblingOf k)).carveMoved else 0
      let rows := (s.repairRows.filter fun a => a % 32 == k && (s.pc k (a / 32 % 64)).st == .running).take 16
      s.modStack k fun t => { t with
        spareFree := 1562500 - 488281 * gone - sib
        remap := (rows.mapIdx fun i a =>
          (i, ({ valid := true, pending := true, pc := a / 32 % 64, pcLine := a / 2048, slot := i } : Remap))) }
  let s := s.each (List.range 2) fun s d => s.modDir d fun t => { t with cacheFrames := halfFrames }
  let s := s.each ((List.range 20).filter fun k => (s.stack k).st = 2) fun s k => s.chargeCache (userFrames k)
  s.rederate

/-- A boot stage passes (R381, R408). -/
def State.stagePassed (s : State) : State :=
  match s.pmc.stage with
  | 0 => if s.imageOk s.fw.active then s.nextStage 1 else s.fallBack fun s => s.nextStage 1
  | 1 => ((s.modFw fun w => { w with measured := w.active.digests }).each (List.range 20) fun s k => s.modStack k fun t => { t with delays := true }).nextStage 2
  | 2 => (s.each (List.range 20) State.bootRepair).nextStage 3
  | 3 => s.fillDone.nextStage (if s.variantH then 5 else 4)
  | 4 => s.nextStage 5
  | 5 => (s.nextStage 6).each (List.range 16) fun s p => s.modPort p fun t => if t.enable then t.detect else t
  | _ => s

/-- BOOT_STAGE_END (R381, R382, R410): in Hold-up the boot pauses at this boundary. -/
def State.stageEnd (s : State) (o : BootOutcome) : State :=
  if !(s.pmc.powered && s.pmc.booting && !s.pmc.fatal && !s.pmc.bootPaused) then s
  else if s.pmc.holdup then s.modPmc fun p => { p with bootPaused := true }
  else
    match s.pmc.stage, o with
    | _, .passed => s.stagePassed
    | 0, .imageBad => s.fallBack fun s => s.nextStage 1
    | 1, .componentBad => s.fallBack fun s => s.nextStage 0
    | 1, .calibrationBad => s.bootStop 2
    | 1, .repairListBad => s.bootStop 3
    | 2, .stackBad k => if (s.stack k.val).st = 0 then s.bootRetire k.val else s
    | _, _ => s

/-- READY (R381, R383, R409): stage 6 has ended, and a fuse floor that the image commits to waits to be blown. -/
def State.bootReady (s : State) : State :=
  (s.modPmc fun p => { p with stage := 7, ready := true, booting := false }).floorDue

/-! ## Meanings -/

/-- A supply event while the device has power. -/
def State.onSupply (s : State) (ok : Bool) (vin : Nat) (f : State → State) : Out1 :=
  .next (if ok && s.pmc.powered then f (s.modPmc fun p => { p with vin }) else s)

def execSupplyHigh (vin : BitVec 16) (s : State) : Out1 :=
  s.onSupply (6000 ≤ vin.toNat && vin.toNat ≤ 6300) vin.toNat fun s =>
    if s.pmc.overvolt then s else (s.modPmc fun p => { p with overvolt := true }).pmcErr 6

def execSupplyHighExit (vin : BitVec 16) (s : State) : Out1 :=
  s.onSupply (vin.toNat < 6000) vin.toNat fun s => s.modPmc fun p => { p with overvolt := false }

/-- Above 63 V (R396, R399): the device is off until the supply is back in its range. -/
def execSupplyOvervoltage (vin : BitVec 16) (s : State) : Out1 :=
  s.onSupply (6300 < vin.toNat) vin.toNat fun s => (s.modPmc fun p => { p with supplyOk := false }).powerOff 2 0

def execSupplySag (vin : BitVec 16) (s : State) : Out1 := s.onSupply (vin.toNat < 4400) vin.toNat State.enterSag

def execSupplyHoldup (vin : BitVec 16) (s : State) : Out1 := s.onSupply (vin.toNat < 4000) vin.toNat State.enterHoldup

/-- Below 38 V (R396, R399, R413): the device powers off; a device in standby is simply off; after a thermal trip it may start
again (log 62). -/
def execSupplyUndervoltage (vin : BitVec 16) (s : State) : Out1 :=
  .next (if 3800 ≤ vin.toNat then s
    else
      let s := s.modPmc fun p => { p with supplyOk := false }
      if s.pmc.powered then s.powerOff 1 0
      else if s.pmc.standby then s.afterReset false
      else s.modPmc fun p => { p with tripLatch := false })

def execSupplyRecovery (vin : BitVec 16) (s : State) : Out1 :=
  .next (if 4400 ≤ vin.toNat && vin.toNat ≤ 6300 then
      (if s.pmc.powered then s.modPmc fun p => { p with vin := vin.toNat } else s).recoverSupply
    else s)

def execJournalFlush (s : State) : Out1 := .next s.beginFlush

def execJournalFlushComplete (s : State) : Out1 := .next (if s.flushPending then s.endFlush else s)

def execFlushDomainPowerLoss (s : State) : Out1 := .next s.loseFlush

/-- The power core runs from stage 1 on. -/
def execPowerEvaluation (pin : BitVec 11) (temps : List (BitVec 8)) (s : State) : Out1 :=
  .next (if s.pmc.powered && 1 ≤ s.pmc.stage && !(s.proc 1).restarting then s.evaluate pin.toNat temps else s)

def execFastLimit (power : BitVec 11) (s : State) : Out1 := .next (if s.pmc.powered then s.fastLimit power.toNat else s)

/-- R403: level 5 again while the power core restarts; a thermal emergency keeps its floor (R405). -/
def execSafeCapRelease (s : State) : Out1 :=
  .next (if s.pmc.powered && s.pmc.safeCap && !s.pmc.emergency then (s.modPmc fun p => { p with level := 5 }).rederate else s)

def execThermalTrip (sensor : Fin 69) (s : State) : Out1 :=
  .next (if s.pmc.powered && !(s.variantH && nandSensor sensor.val) then
      (s.modPmc fun p => { p with tripLatch := true }).powerOff 3 sensor.val
    else s)

/-- RAILS_GOOD (R407, R453): the supply allows a start, and no flush still runs (R397). -/
def execRailsGood (addr : BitVec 2) (s : State) : Out1 :=
  .next (if s.pmc.supplyOk && !s.pmc.tripLatch && !s.pmc.standby && !(s.pmc.powered && s.pmc.rails) && !s.flushPending then
      let s := s.modPmc fun p => { p with powered := true, rails := true, smbAddr := addr }
      if s.pmc.perst then s else s.startBoot
    else s)

/-- PERST_N_RELEASE (R381, R407, R413): from standby the main domains come up first. -/
def execPerstNRelease (s : State) : Out1 :=
  .next (if !s.pmc.perst || s.pmc.resetWait then s
    else
      let s := s.modPmc fun p => { p with perst := false }
      let s := if s.pmc.standby then
          (s.modPmc fun p => { p with standby := false, powered := true, rails := true }).modHep fun h => { h with l2 := false, wake := false }
        else s
      if s.pmc.powered && s.pmc.rails then s.startBoot else s)

def execPerstNAssert (s : State) : Out1 := .next s.assertReset

def execBootStageEnd (outcome : BootOutcome) (s : State) : Out1 := .next (s.stageEnd outcome)

/-- LINK_TRAINING_STAGE_END (R409): every port is settled, or the 100 ms of stage 6 are over; which of the two, the event does
not say. -/
def execLinkTrainingStageEnd (s : State) : Out1 :=
  .next (if s.pmc.powered && s.pmc.booting && !s.pmc.fatal && s.pmc.stage = 6 && !s.pmc.bootPaused then
      (if s.pmc.holdup then s.modPmc fun p => { p with bootPaused := true } else s.bootReady)
    else s)

end Sys2Proof.Machine
end

