-- ==== Sys2Proof/Machine/Svc.lean ====
section
/-!
DEFINITION. Service commands (R415, R423-R428): SVC_TEST and its completion, SVC_RETIRE, SVC_REMAP, SVC_CLEAR_POISON.
-/

namespace Sys2Proof.Machine

/-! ## Units (R415, R423) -/

/-- The indices of a kind; none for the kinds that a command may not name by an index. -/
def unitCount (kind : Nat) : Nat :=
  match kind with
  | 1 => 152 | 2 => 1280 | 3 => 20 | 4 => 1 | 5 => 10 | 6 => 64 | 7 => 16 | 8 => 384 | 9 => 24 | 10 => 2 | 11 => 2 | 12 => 2 | 13 => 1
  | _ => 0

/-- The unit that a service command names. -/
def unitOfCmd (p : Packet) : Nat × Nat := (par p 8 1, par p 12 4)

/-- One unit contains another: a stack its pseudo-channels, a memory die its stacks and their pseudo-channels. -/
def contains (a b : Nat × Nat) : Bool :=
  a == b || (a.1 == 3 && b.1 == 2 && b.2 / 64 == a.2) || (a.1 == 5 && b.1 == 2 && b.2 / 128 == a.2) || (a.1 == 5 && b.1 == 3 && b.2 / 2 == a.2)

/-- Another SVC_TEST or SVC_RETIRE acts on the unit or on one that overlaps it (R428). -/
def State.unitBusy (s : State) (c : Cmd) : Bool :=
  s.cmds.any fun e => e.id != c.id && e.st == .running && (e.opcode == 0x0800 || e.opcode == 0x0801) &&
    (contains (unitOfCmd c.p) (unitOfCmd e.p) || contains (unitOfCmd e.p) (unitOfCmd c.p))

/-- The unit is being rebuilt or relocated (R428). -/
def State.rebuilding (s : State) (u : Nat × Nat) : Bool :=
  match u.1 with
  | 2 => (s.pc (u.2 / 64) (u.2 % 64)).st == .retiring || (s.stack (u.2 / 64)).st == 1
  | 3 => (s.stack u.2).st == 1 || ((s.stack u.2).st == 0 && (s.stack u.2).pcs.any fun e => e.2.st == .retiring)
  | 5 => (List.range 2).any fun j => (s.stack (2 * u.2 + j)).st == 1 || (s.stack (2 * u.2 + j)).pcs.any fun e => e.2.st == .retiring
  | _ => false

/-- The handler of a service command (R424, R425). -/
def unitCore (_ : State) (p : Packet) : Handler :=
  let u := unitOfCmd p
  match u.1 with
  | 1 => .cc (min 3 (u.2 / 38))
  | 2 => .cc (ccOfMem (u.2 / 128))
  | 3 => .cc (ccOfMem (u.2 / 2))
  | 5 => .cc (ccOfMem u.2)
  | 8 => .cc (if u.2 < 192 then 4 else 5)
  | _ => .sc

/-- A flash die is in service. -/
def State.flashDieUp (s : State) (i : Nat) : Bool := !bit (tget 0 (s.fls (i / 16 / 12)).diesOut (i / 16 % 12)) (i % 16)

/-- A unit's state as its status register encodes it (R424): CHD_ENG_MAP, MEM_PC_STATE, LNK_PORT_LANES, FLS_DIE_MAP. -/
def State.unitState (s : State) (u : Nat × Nat) : Nat :=
  match u.1 with
  | 1 => b2n (s.engine u.2).inService
  | 2 => (match (s.pc (u.2 / 64) (u.2 % 64)).st with | .running => 0 | .frozen => 1 | .retiring => 2 | .retired => 3)
  | 6 => b2n ((s.port (u.2 / 4)).lanes.getLsbD (u.2 % 4))
  | 8 => b2n (s.flashDieUp u.2)
  | _ => 0

/-! ## SVC_TEST (R424) -/

/-- Encoding faults: a kind that is not tested in service, an index out of range, a reserved type. -/
def testFaults (s : State) (p : Packet) : List (Nat × Bool) :=
  let u := unitOfCmd p
  [(8, !([1, 2, 6, 8].contains u.1)), (12, decide (unitCount u.1 ≤ u.2) || (u.1 == 8 && s.variantH)), (16, decide (3 ≤ par p 16 1))]

/-- Whether a test of a type applies to the unit as it stands: none, or the byte at fault. -/
def State.testOff (s : State) (u : Nat × Nat) (type : Nat) : Option Nat :=
  if type = 0 then none
  else
    match u.1 with
    | 1 => if type = 2 && (s.engine u.2).inService then some 16 else none
    | 2 =>
      (match (s.pc (u.2 / 64) (u.2 % 64)).st with
       | .frozen => none
       | .retired => if type = 2 then some 16 else none
       | _ => some 12)
    | 6 =>
      let p := s.port (u.2 / 4)
      if type = 2 then some 16 else if p.st == .active && !p.lanes.getLsbD (u.2 % 4) then none else some 12
    | _ => if type = 2 && s.flashDieUp u.2 then some 16 else none

def startSvcTest (s : State) (c : Cmd) : State :=
  let u := unitOfCmd c.p
  let type := par c.p 16 1
  if s.unitBusy c || (type ≠ 0 && s.rebuilding u) then s.reply c stConflict
  else
    match s.testOff u type with
    | some o => s.bad c o
    | none =>
      if type = 0 then s.reply c 0 (testResult false (s.unitState u) 0)
      else if u.1 = 6 then s.modPort (u.2 / 4) fun p => { p with testLanes := orBit p.testLanes (u.2 % 4) }
      else s

def specSvcTest : CmdSpec :=
  { opcode := 0x0800, pfOnly := true, link := false, rule := .zero, handler := unitCore
    cls := fun p => if par p 8 1 = 6 then .rollback else .keep
    defined := [(8, 9), (12, 17)], faults := testFaults, start := startSvcTest }

/-- A flash die returns with every block erased into the free pool (R424). -/
def State.restoreFlashDie (s : State) (i : Nat) : State :=
  let c := i / 16
  let s := s.modFls (c / 12) fun t => { t with
    diesOut := tmod 0 t.diesOut (c % 12) fun m => m &&& (2 ^ 16 - 1 - 1 <<< (i % 16)) }
  s.settleSpare.log { event := 0x09, kind := 8, index := i, reason := 1 }

/-- What the end of a test brings about (R424): a pass of type 2 restores, a fail of a unit in service retires. -/
def State.afterTest (s : State) (u : Nat × Nat) (type : Nat) (pass : Bool) : State :=
  match u.1 with
  | 1 =>
    if pass then
      if type = 2 then
        (s.modEngine u.2 fun g => { g with inService := true }).log { event := 0x09, kind := 1, index := u.2, reason := 1 }
      else s
    else if (s.engine u.2).inService then s.engineFails u.2
    else s
  | 2 =>
    let k := u.2 / 64
    let p := u.2 % 64
    if (s.pc k p).st != .frozen then s
    else if pass then (if type = 2 then s.unfreeze k p else s)
    else s.retirePc k p false
  | 8 => if pass then (if type = 2 then s.restoreFlashDie u.2 else s) else if s.flashDieUp u.2 then s.loseFlashDie u.2 else s
  | _ => s

/-- The test of a unit has ended: the effect first, then the reply with the state afterwards. An engine's test waits for its
current run. -/
def State.testDone (s : State) (u : Nat × Nat) (r : TestResult) : State :=
  if u.1 = 1 && (s.engine u.2).run.isSome then s
  else
    match s.unitCmds 0x0800 u.1 u.2 with
    | [] => s
    | c :: _ =>
      let pass := r.pass && (u.1 != 6 || decide (r.errors.toNat ≤ 22400))
      let s := if u.1 = 6 then
          s.modPort (u.2 / 4) fun p => { p with testLanes := p.testLanes &&& ~~~(BitVec.ofNat 4 (1 <<< (u.2 % 4))) }
        else s
      -- the command leaves the running state first, so that the retirement does not end it as a fault of its unit would (R428)
      let t := (s.modCmd c.id fun c => { c with st := .parked }).afterTest u (par c.p 16 1) pass
      (t.modCmd c.id fun c => { c with st := .running }).reply c 0 (testResult pass (t.unitState u) r.errors.toNat)

/-! ## SVC_RETIRE (R425) -/

def retireFaults (s : State) (p : Packet) : List (Nat × Bool) :=
  let u := unitOfCmd p
  [(8, !([1, 2, 3, 5, 8].contains u.1)), (12, decide (unitCount u.1 ≤ u.2) || (u.1 == 8 && s.variantH))]

/-- The unit is already retired. -/
def State.gone (s : State) (u : Nat × Nat) : Bool :=
  match u.1 with
  | 1 => !(s.engine u.2).inService
  | 2 => (s.pc (u.2 / 64) (u.2 % 64)).st == .retired || (s.stack (u.2 / 64)).st == 2
  | 3 => (s.stack u.2).st == 2
  | 5 => (List.range 2).all fun j => (s.stack (2 * u.2 + j)).st == 2
  | _ => !s.flashDieUp u.2

def startSvcRetire (s : State) (c : Cmd) : State :=
  let u := unitOfCmd c.p
  if s.unitBusy c || s.rebuilding u then s.reply c stConflict
  else if s.gone u then s.reply c 0
  else
    match u.1 with
    | 1 => if s.enginesUp ≤ 1 then s.reply c stConflict else s.retireIdle u.2
    | 2 => if s.carveLost [u.2 / 64] then s.reply c stConflict else s.retirePc (u.2 / 64) (u.2 % 64) true
    | 3 => if s.carveLost [u.2] then s.reply c stConflict else s.retireStack u.2 true false
    | 5 => if s.carveLost [2 * u.2, 2 * u.2 + 1] then s.reply c stConflict else s.retireDie u.2 true
    | _ => s.loseFlashDie u.2 2

def specSvcRetire : CmdSpec :=
  { opcode := 0x0801, pfOnly := true, link := false, rule := .zero, handler := unitCore, cls := fun _ => .keep
    defined := [(8, 9), (12, 16)], faults := retireFaults, start := startSvcRetire }

/-! ## SVC_REMAP (R297, R316, R426) -/

/-- The stack, pseudo-channel and line of a physical line address. -/
def physOf (a : Nat) : Nat × Nat × Nat := (a % 32, a / 32 % 64, bits a 35 11)

def startSvcRemap (s : State) (c : Cmd) : State :=
  let (k, p, l) := physOf (par c.p 8 8)
  match s.remapLine k p l 2 with
  | some (e, s) => s.reply c 0 e
  | none =>
    if (List.range 16).all fun e => (tget {} (s.stack k).remap e).valid then s.reply c stNoSpace else s.reply c stConflict

def specSvcRemap : CmdSpec :=
  { opcode := 0x0802, pfOnly := true, link := false, rule := .zero
    handler := fun _ p => .cc (ccOfMem (par p 8 8 % 32 / 2))
    defined := [(8, 16)]
    faults := fun _ p => let a := physOf (par p 8 8)
      [(8, decide (20 ≤ a.1) || decide (31250000 ≤ a.2.2)), (12, bits (par p 8 8) 39 36 != 0), (13, par p 13 1 != 0), (14, par p 14 1 != 0),
       (15, par p 15 1 != 0)]
    start := startSvcRemap }

/-! ## SVC_CLEAR_POISON (R311, R427) -/

/-- SVC_CLEAR_POISON (R80). DESIGN CHOICE (log 152): an LA within a line names its line. -/
def startSvcClear (s : State) (c : Cmd) : State :=
  let la := par c.p 8 8 / 64 * 64
  match s.translate (pCtx c.p) la 64 .wr false with
  | none => s.reply c stNoPerm
  | some t =>
    let n := s.takeId
    n.2.dispatchReq
      { id := n.1, src := .cmd c.id, ctx := pCtx c.p, op := .clear, la, za := t.za, region := t.region, lines := 1, cls := 0
        entry := s.cls 0, keySlot := t.keySlot, gen := t.gen }

def specSvcClear : CmdSpec :=
  { opcode := 0x0803
    handler := fun s p => match s.translate (pCtx p) (par p 8 8 / 64 * 64) 64 .wr false with
      | some t => .cc (ccOfMem (dieOf (s.stackOf t.za)))
      | none => .sc
    defined := [(8, 16)], start := startSvcClear }

/-! ## Meanings -/

def execSvcTest (via : Via) (p : Packet) (s : State) : Out1 := .next (s.submit specSvcTest via p)
def execSvcRetire (via : Via) (p : Packet) (s : State) : Out1 := .next (s.submit specSvcRetire via p)
def execSvcRemap (via : Via) (p : Packet) (s : State) : Out1 := .next (s.submit specSvcRemap via p)
def execSvcClearPoison (via : Via) (p : Packet) (s : State) : Out1 := .next (s.submit specSvcClear via p)
def execSvcTestComplete (u : UnitRef) (r : TestResult) (s : State) : Out1 :=
  .next (if s.running then s.testDone (u.kind, u.index) r else s)

end Sys2Proof.Machine
end

