-- ==== Sys2Proof/Machine/Tables.lean ====
section
/-!
DEFINITION. Table commands and events (R198-R215), and KERNEL_LOAD (R267).
-/

namespace Sys2Proof.Machine

/-! ## Building a table (R199) -/

/-- Merges two lists sorted by weight. -/
def mergeCoins : Nat → List (Nat × List Nat) → List (Nat × List Nat) → List (Nat × List Nat)
  | 0, a, b => a ++ b
  | _ + 1, [], b => b
  | _ + 1, a, [] => a
  | n + 1, x :: a, y :: b =>
    if x.1 ≤ y.1 then x :: mergeCoins n a (y :: b) else y :: mergeCoins n (x :: a) b

/-- Packages neighbours of a sorted list. -/
def packageCoins : List (Nat × List Nat) → List (Nat × List Nat)
  | x :: y :: t => (x.1 + y.1, x.2 ++ y.2) :: packageCoins t
  | _ => []

/-- Package-merge: `n` levels above the leaves. -/
def packageMerge (leaves : List (Nat × List Nat)) : Nat → List (Nat × List Nat)
  | 0 => leaves
  | n + 1 =>
    let pairs := packageCoins (packageMerge leaves n)
    mergeCoins (leaves.length + pairs.length) leaves pairs

/-- Optimal code lengths of at most 12 bits for symbol counts, by package-merge (R199). Among equally good lengths the
earlier symbol comes first (R199 leaves the choice to the builder: log 49). -/
def codeLengths (counts : List Nat) : List Nat :=
  let leaves := (counts.mapIdx fun i n => (n, [i])).mergeSort fun a b => a.1 ≤ b.1
  let chosen := ((packageMerge leaves 11).take (2 * counts.length - 2)).flatMap (·.2)
  let total := chosen.foldl (fun t i => tmod 0 t i (· + 1)) ([] : Tbl Nat)
  (List.range counts.length).map fun i => tget 0 total i

/-- The lengths of a view from a build's counts (each symbol starts at 1), and its bits (R199). -/
def Group.build (g : Group) (view : Nat) : List Nat × Nat :=
  let n := viewSymbols view
  let codes := if view = 0 then 4 else 1
  let counts := (List.range codes).map fun c => (List.range n).map fun i => 1 + tget 0 g.counts (countKey view (n * c + i))
  let lens := counts.map codeLengths
  let bits := ((counts.flatten.zip lens.flatten).map fun e => e.1 * e.2).sum
  (lens.flatten, tget 0 g.bits view + bits)

/-- The view and the lengths of the new table: the view with the fewest bits, the lowest on a tie. -/
def Group.best (g : Group) : Nat × List Nat :=
  let all := (List.range 4).map fun v => (v, g.build v)
  let b := all.foldl (fun (b : Nat × List Nat × Nat) e => if e.2.2 < b.2.2 then e else b) (all.headD (0, [], 0))
  (b.1, b.2.1)

/-! ## TABLE_PUBLISH, TABLE_FREE, TABLE_PERSIST (R198, R200, R205, R213) -/

/-- A finished build is published, or abandoned for want of an ID (R198, R200, R206). No die's copy of the group record names the
new table yet. -/
def State.publishTable (s : State) (i gi : Nat) : State :=
  match s.region? i with
  | none => s
  | some r =>
    let g := s.group i gi
    if g.st == .sampling && 64 ≤ g.samples then
      let o := s.pick 65536 65537 fun n => n != 0 && (s.table n).st == .free
      match if 4096 ≤ s.tablesOwned r.ctx then none else o.1 with
      | none => s.abandonBuild i gi
      | some id =>
        let f := o.2.takeFree
        let s := f.2
        let b := g.best
        let s := s.modTable id fun _ =>
          { st := .current, slotSeal := f.1 % 65535 + 1, view := b.1, region := s.handleOf i, group := gi, ctx := r.ctx,
            owned := true, lengths := b.2 }
        let s := if g.current ≠ 0 && (s.table g.current).st == .current then
            (s.modTable g.current fun t => { t with st := .retired }).settleTable g.current
          else s
        s.modGroup i gi fun t =>
          { t with st := .idle, current := id, prior := g.current, stale := List.range 10, samples := 0, counts := [], bits := [] }
    else s

/-- Every cache drops a FREEING table, and no group record names it any more; its slot is zeroed (R205). -/
def State.freeTable (s : State) (id : Nat) : State :=
  if (s.table id).st == .freeing then
    let s := s.modTable id fun _ => {}
    let s : State := { s with groups := s.groups.map fun e => (e.1, if e.2.prior = id then { e.2 with prior := 0 } else e.2) }
    let s : State := { s with mems := s.mems.map fun e => (e.1, { e.2 with cache := e.2.cache.filter (· != id) }) }
    { s with chds := s.chds.map fun e => (e.1, { e.2 with cache := e.2.cache.filter (· != id) }) }
  else s

/-- A published table has been programmed into the flash system area (R213). -/
def State.persistTable (s : State) (id : Nat) : State :=
  if !s.variantH && ((s.table id).st == .current || (s.table id).st == .retired) then
    s.modTable id fun t => { t with persisted := true }
  else s

/-! ## Commands (R76, R210, R211, R215) -/

/-- The cluster core of the codec commands: the spec names none of the two that serve the memory dies (log 48). -/
def codecCore : State → Packet → Handler := fun _ _ => .cc 6

def startTableBuild (s : State) (c : Cmd) : State :=
  match s.ownRegion (par c.p 8 4) (pCtx c.p) with
  | .error st => if st = stBadParam then s.bad c 8 else s.reply c st
  | .ok (i, r) =>
    let g := par c.p 12 2
    if !r.auto then s.bad c 8
    else if r.groups ≤ g then s.bad c 12
    else if r.frozen then s.reply c stConflict
    else if 4096 ≤ s.tablesOwned r.ctx || 65535 ≤ (s.tables.filter fun e => e.2.st != .free && e.1 != 0).length then
      s.reply c stNoSpace
    else
      let s := if (s.group i g).st == .idle then s.modGroup i g fun t => { t with st := .armed } else s
      s.reply c 0 g

def specTableBuild : CmdSpec := { opcode := 0x0400, handler := codecCore, defined := [(8, 14)], start := startTableBuild }

/-- TABLE_RETIRE (R211, R278; log 157). Every die's copy of the group record follows at once: new blocks of the group name no table. -/
def startTableRetire (s : State) (c : Cmd) : State :=
  match s.ownRegion (par c.p 8 4) (pCtx c.p) with
  | .error st => if st = stBadParam then s.bad c 8 else s.reply c st
  | .ok (i, r) =>
    let id := par c.p 12 2
    let t := s.table id
    if r.share == .withdrawn then s.reply c stNoPerm
    else if t.st == .free || t.region ≠ par c.p 8 4 then s.bad c 12
    else
      let s := if t.st == .current then
          ((s.modTable id fun t => { t with st := .retired }).modGroup i t.group fun g =>
            { g with current := if g.current = id then 0 else g.current, stale := [] }).settleTable id
        else s
      s.reply c 0

def specTableRetire : CmdSpec := { opcode := 0x0401, handler := codecCore, defined := [(8, 14)], start := startTableRetire }

def startCodecSet (s : State) (c : Cmd) : State :=
  match s.ownRegion (par c.p 8 4) (pCtx c.p) with
  | .error st => if st = stBadParam then s.bad c 8 else s.reply c st
  | .ok (i, r) =>
    if !r.auto then s.bad c 8
    else if r.frozen then s.reply c stConflict
    else (s.setRegion i { r with forceRaw := par c.p 12 1 = 1 }).reply c 0

def specCodecSet : CmdSpec :=
  { opcode := 0x0402, handler := codecCore, defined := [(8, 13)], faults := fun _ p => [(12, decide (2 ≤ par p 12 1))]
    start := startCodecSet }

/-! ## KERNEL_LOAD (R267) -/

/-- Reads an image's lines through the windows of the context, while the command still runs. -/
def State.loadFrom (s : State) (c : Cmd) (base : Nat) : List (Nat × Nat) → State
  | [] => s
  | (la, n) :: rest =>
    if (s.cmd? c.id).any fun e => e.st = .running then
      match s.translate (pCtx c.p) la n .rd false with
      | none => s.replyTo c.id stNoPerm
      | some t =>
        let id := s.takeId
        (id.2.dispatchReq
          { id := id.1, src := .cmd c.id, ctx := pCtx c.p, op := .rd, la, za := t.za, region := t.region, lines := n / 64, cls := 0
            entry := s.cls 0, keySlot := t.keySlot, gen := t.gen, a := BitVec.ofNat 64 (la - base) }).loadFrom c base rest
    else s

def startKernelLoad (s : State) (c : Cmd) : State :=
  let addr := par c.p 16 8
  let len := par c.p 24 2
  if par c.p 8 1 = 1 then
    if viaLink c.via then s.reply c stNoPerm
    else if len = 0 then s.loadKernel c []
    else s.beginHost c
  else if len = 0 then s.loadKernel c []
  else if 2 ^ 56 < addr + len || !s.covered (pCtx c.p) addr len .rd false then s.reply c stNoPerm
  else
    let base := addr / 64 * 64
    let size := 64 * cdiv (addr % 64 + len) 64
    let ps := piecesOf base size
    (s.modCmd c.id fun c => { c with aux := ps.length + 1, data := List.replicate size 0 }).loadFrom c base ps

def specKernelLoad : CmdSpec :=
  { opcode := 0x0500, handler := fun _ p => .cc (pCtx p % 4), defined := [(8, 9), (16, 26)]
    faults := fun _ p => [(8, decide (2 ≤ par p 8 1))], start := startKernelLoad }

/-! ## Meanings -/

def execTableBuild (via : Via) (p : Packet) (s : State) : Out1 := .next (s.submit specTableBuild via p)
def execTableRetire (via : Via) (p : Packet) (s : State) : Out1 := .next (s.submit specTableRetire via p)
def execCodecSet (via : Via) (p : Packet) (s : State) : Out1 := .next (s.submit specCodecSet via p)
def execKernelLoad (via : Via) (p : Packet) (s : State) : Out1 := .next (s.submit specKernelLoad via p)
def execTablePublish (region : BitVec 20) (group : BitVec 16) (s : State) : Out1 :=
  .next (if s.running then s.publishTable region.toNat group.toNat else s)
/-- A FREEING table waits while a memory cluster core (CC6, CC7) restarts (R376). -/
def execTableFree (id : BitVec 16) (s : State) : Out1 :=
  .next (if s.running && !(s.proc 9).restarting && !(s.proc 10).restarting then s.freeTable id.toNat else s)
def execTablePersist (id : BitVec 16) (s : State) : Out1 := .next (if s.running then s.persistTable id.toNat else s)

end Sys2Proof.Machine
end

