-- ==== Sys2Proof/Machine/Start.lean ====
section
/-!
DEFINITION. The opcode catalogue (R72-R81) and what it starts: IDENTIFY (R72), aperture slots (R56), packets and messages on the
link (R57, R93, R100-R108), parked commands (R54, R66, R71), Bus Master Enable (R367) and D3hot (R368, R412).
-/

namespace Sys2Proof.Machine

/-! ## IDENTIFY (R19, R72) -/

/-- Pinned frames that an allocation may still take: the Z2520-F keeps the tier-cache floor (R42, log 63). -/
def State.freePinned (s : State) : Nat := if s.variantH then s.cacheTotal else s.cacheTotal - cacheFloor

/-- Tier pages that no region holds; the Z2520-H has none (R2, R19, log 63). -/
def State.freeTierPages (s : State) : Nat :=
  if s.variantH then 0 else tierCapacity - ((s.regions.filter fun e => e.2.tiered).map fun e => e.2.pages).sum

/-- RESULT of a page of IDENTIFY (R72). -/
def State.identity (s : State) (c : Cmd) : Nat :=
  if par c.p 8 1 = 0 then s.ident.toNat + 0x10 <<< 64 + c.fn <<< 72
  else s.freePinned + s.freeTierPages <<< 32 + (65536 - s.leases.length) <<< 64 + (262144 - s.entries) <<< 96

def startIdentify (s : State) (c : Cmd) : State := s.reply c 0 (s.identity c)

def specIdentify : CmdSpec :=
  { opcode := 0x0000, rule := .zeroOrOwn, defined := [(8, 9)], faults := fun _ p => [(8, decide (2 ≤ par p 8 1))], start := startIdentify }

/-! ## The catalogue (R72-R81) -/

/-- The specification of every opcode that Fraist 1.0 defines. -/
def specs : List CmdSpec :=
  [specIdentify, specMark, specCtxCreate, specCtxDestroy, specCtxBindPort, specWinSet, specRegionAlloc, specRegionFree, specRegionAttr,
   specHintPrefetch, specHintPin, specHintUnpin, specHintEvict, specCkpt] ++
  [specXferCopy, specXferMove, specXferFill, specXferReduce, specXferAtom, specTableBuild, specTableRetire, specCodecSet,
   specKernelLoad, specKernelRun, specKernelAbort, specPublish, specSubscribe, specUnsubscribe, specWithdraw] ++
  [specQosClassSet, specQosBudgetSet, specSvcTest, specSvcRetire, specSvcRemap, specSvcClear, specFwStage, specFwActivate,
   specCntConfig, specCntSnapshot, specSpdmRelay]

/-- The specification of an opcode; none where Fraist 1.0 does not define it. -/
def specOf (opcode : Nat) : Option CmdSpec := specs.find? fun c => c.opcode == opcode

/-- A packet of any opcode arrives (R56, R57, R61). -/
def State.submitPacket (s : State) (opcode : Nat) (via : Via) (p : Packet) : State :=
  match specOf opcode with
  | some spec => s.submit spec via p
  | none => s.submitUndefined opcode via p

/-- Starts the parked commands that may start now, oldest first (R54, R66, R71, R367, R412), and the sharing commands that waited for one
of them (R279). -/
def State.releaseParked (s : State) : State :=
  (s.each ((s.cmds.filter fun c => c.st == .parked).map (·.id)) fun s id =>
    match s.cmd? id with
    | some c =>
      (match specOf c.opcode with
       | some spec => if c.st = .parked then s.tryStart spec c else s
       | none => s)
    | none => s).wakeShare

/-! ## Packets as bytes (R52, R56) -/

/-- The opcode and the packet that 64 bytes spell. -/
def packetOf (b : BitVec 512) : Nat × Packet :=
  (b.toNat % 65536,
   { version := b.extractLsb' 16 8, flags := b.extractLsb' 24 8, context := b.extractLsb' 32 16, tag := b.extractLsb' 48 16
     params := b.extractLsb' 64 448 })

/-- A slot after bytes were written from a place in it on: bytes beyond its end belong to other slots. -/
def Slot.write (t : Slot) (at_ : Nat) (l : List Byte) : Slot :=
  (l.take (64 - at_)).foldl (fun (a : Slot × Nat) b =>
    let data : BitVec 512 := (a.1.data &&& ~~~((0xFF : BitVec 512) <<< (8 * a.2))) ||| ((b.setWidth 512 : BitVec 512) <<< (8 * a.2))
    ({ mask := a.1.mask ||| (1 <<< a.2), data }, a.2 + 1)) (t, at_) |>.1

/-- Slots of an aperture (R56). -/
def apertureSlots (fn : Nat) : Nat := if fn = 0 then 16384 else 1024

/-- The bytes of one slot arrive; the write that completes it submits its packet (R56). -/
def State.slotWrite (s : State) (fn : Fin 256) (slot at_ : Nat) (l : List Byte) : State :=
  if apertureSlots fn.val ≤ slot then s.aerUnc fn.val 20 false
  else
    let t := (tget {} (s.fn fn.val).slots slot).write at_ l
    if t.mask = BitVec.allOnes 64 then
      let q := packetOf t.data
      (s.modFn fn.val fun f => { f with slots := tput {} f.slots slot {} }).submitPacket q.1 (.aperture fn) q.2
    else s.modFn fn.val fun f => { f with slots := tput {} f.slots slot t }

/-- A write to an aperture, slot by slot. -/
def State.apertureBytes (s : State) (fn : Fin 256) : Nat → Nat → List Byte → State
  | 0, _, _ => s
  | fuel + 1, off, l =>
    if l.isEmpty then s
    else
      let n := 64 - off % 64
      (s.slotWrite fn (off / 64) (off % 64) (l.take n)).apertureBytes fn fuel (off + n) (l.drop n)

/-! ## Messages of a link (R100-R108) -/

/-- The request header of a message's first slot. -/
def hdrOf (v : BitVec 256) : Hdr :=
  { vc := v.extractLsb' 6 2, ctx := v.extractLsb' 8 12, cls := v.extractLsb' 20 5, ro := v.getLsbD 25, nodata := v.getLsbD 26
    tag := v.extractLsb' 32 12, la := v.extractLsb' 48 56, len := v.extractLsb' 104 6, atop := v.extractLsb' 112 4
    awidth := v.extractLsb' 116 3, a := v.extractLsb' 128 64, b := v.extractLsb' 192 64 }

/-- The response header of a message's first slot. -/
def rspOf (v : BitVec 256) : Rsp :=
  { vc := v.extractLsb' 6 2, ctx := v.extractLsb' 8 12, tag := v.extractLsb' 32 12, status := v.extractLsb' 48 8
    lineOffset := v.extractLsb' 56 6, dkind := v.extractLsb' 62 2, lines := v.extractLsb' 64 6, last := v.getLsbD 70
    retryAfter := v.extractLsb' 80 16, value := v.extractLsb' 128 64 }

/-- The lines that the slots after the first hold, two slots each. -/
def slotLines : List (BitVec 256) → List Line
  | a :: b :: t => BitVec.ofNat 512 (a.toNat + b.toNat <<< 256) :: slotLines t
  | _ => []

/-- A CMD on another VC than 2 is refused under R107 as any request, at check 1 or 4. -/
def State.strayCmd (s : State) (port : Nat) (h : Hdr) : State :=
  if !(s.running && (s.port port).st == .active) then s
  else if (s.port port).tags.contains h.tag.toNat then (s.tagReuse port).owe port h.vc.toNat 3
  else
    let s := (s.modPort port fun p => { p with tags := h.tag.toNat :: p.tags }).fixed 0x08 (port / 4) 2 1
    let ok := s.isActive h.ctx.toNat && bit (s.ctx h.ctx.toNat).bind.toNat port
    (s.refuseLink port h (if ok then stBadParam else stNoPerm) ok).owe port h.vc.toNat 3

/-- A CMD message (R57, R107): on VC2 it is answered by a Fraist reply, whatever refuses it; past check 1 a LEN other than 0 is
BAD_PARAM (log 65). -/
def State.cmdMessage (s : State) (port : Nat) (h : Hdr) (packet : BitVec 512) : State :=
  let q := packetOf packet
  let via : Via := .link (Fin.ofNat 16 port) h.ctx h.tag
  if h.vc ≠ 2 then s.strayCmd port h
  else if h.len ≠ 0 then
    (if s.reaches via then
      (match s.arrive via with
       | some s => ((s.cmdHop q.2).countRefusal via).refuse via q.1 q.2 false (if s.unbound via then stNoPerm else stBadParam) 0 0 h.len.toNat
       | none => (s.tagReuse port).owe port 2 3)
     else s)
  else s.submitPacket q.1 via q.2

/-- A whole message has arrived (R98, R100, R102, R109). -/
def State.message (s : State) (port : Nat) (m : List (BitVec 256)) : State :=
  let v := m.headD 0
  let h := hdrOf v
  let r := rspOf v
  let data := slotLines (m.drop 1)
  match v.toNat % 64 with
  | 0x01 => s.linkRequest port (some .rd) h []
  | 0x02 => s.linkRequest port (some .rdOwn) h []
  | 0x03 => s.linkRequest port (some .wr) h data
  | 0x04 => s.linkRequest port (some (.wrRelease h.nodata)) h data
  | 0x05 => s.linkRequest port (some (atomOp h)) h data
  | 0x06 => s.linkRequest port (some .acc) h data
  | 0x07 => s.cmdMessage port h (data.headD 0)
  | 0x20 => s.cplData port r data
  | 0x21 => s.respond port 0 fun s => s.peerOk port r.tag.toNat
  | 0x22 => s.respond port 0 fun s => s.peerErr port r.tag.toNat r.status.toNat r.last
  | 0x23 => s.respond port 0 fun s => s.peerRetry port r.tag.toNat r.retryAfter.toNat
  | n => if 0x24 ≤ n then s.reservedResponse port else s.linkRequest port none h []

/-! ## Bus Master Enable and D3hot (R66, R367, R368, R412) -/

/-- What was paused goes on: pending interrupts, host work, parked commands. -/
def State.resume (s : State) : State :=
  if s.running && !s.hep.d3hot then ((s.each (List.range 256) State.sendPending).hostGo).releaseParked else s

/-- Bus Master Enable of a function is set. -/
def State.setBme (s : State) (fn : Nat) : State := (s.modFn fn fun f => { f with bme := true, paused := false }).resume

/-- D3hot is entered (R118, R258, R368, R395, R412): partner loss, aborted runs, and everything else pauses. What the journal holds is
written (log 64). -/
def State.enterD3 (s : State) : State :=
  let s := s.each (List.range 16) fun s p =>
    match (s.port p).st with
    | .active => s.loseLink p 6
    | .recovery => s.loseLink p 6
    | .lost => s
    | _ => s.modPort p Port.off
  let s := s.abortRuns (·.started) 9
  ((((s.modHep fun h => { h with d3hot := true }).journalSaved 0).journalSaved 1)).fwReview

/-- D0 is entered again: ports train, paused work resumes (R368, R412). A fatal device's ports stay idle (R121). -/
def State.leaveD3 (s : State) : State :=
  let s := s.modHep fun h => { h with d3hot := false }
  let s := if s.pmc.fatal then s else s.each (List.range 16) fun s p => s.modPort p fun t => if t.st == .off && t.enable then t.detect else t
  s.fwReview.resume

/-! ## Meanings -/

def execIdentify (via : Via) (p : Packet) (s : State) : Out1 := .next (s.submit specIdentify via p)

/-- A packet of an opcode that is not defined; a defined opcode is another row's. -/
def execUndefinedOpcode (via : Via) (opcode : BitVec 16) (p : Packet) (s : State) : Out1 :=
  if (specOf opcode.toNat).isNone then .next (s.submitUndefined opcode.toNat via p) else .fault .malformedCommand

/-- A held reply is written once the ring has room; fences that waited for it are met (R54, R64). -/
def execReplyRingWrite (fn : Fin 256) (s : State) : Out1 := .next (s.ringWrite fn.val).releaseParked

/-- A flit arrives that the partner sent with a type. -/
def State.flitRx (s : State) (port : Fin 16) (ftype : Nat) (f : Flit) : Out1 :=
  s.portEvent port.val fun _ => s.rxFlit port.val ftype f State.message

def execFlitDataRx (port : Fin 16) (f : Flit) (s : State) : Out1 := s.flitRx port 1 f

def execFlitIdleRx (port : Fin 16) (f : Flit) (s : State) : Out1 := s.flitRx port 0 f

def execFlitCapsRx (port : Fin 16) (f : Flit) (s : State) : Out1 := s.flitRx port 2 f

def execFlitRetryReqRx (port : Fin 16) (f : Flit) (s : State) : Out1 := s.flitRx port 3 f

def execFlitReservedRx (port : Fin 16) (r : RsvFlit) (s : State) : Out1 :=
  if 4 ≤ r.ftype.toNat then s.flitRx port r.ftype.toNat r.flit else .fault .malformedCommand

def execFlitTransmit (port : Fin 16) (s : State) : Out1 := s.portEvent port.val fun _ => (s.transmit port.val).releaseParked

/-- A write TLP to an aperture; what reaches beyond it hits no BAR (R351). -/
def execApertureSlotWrite (fn : Fin 256) (offset : BitVec 20) (bytes : List Byte) (s : State) : Out1 :=
  if bytes.isEmpty then .fault .malformedCommand
  else .next (s.barWrite fn.val fun s => if s.running then s.apertureBytes fn (bytes.length + 1) offset.toNat bytes else s)

/-- Configuration requests during an FLR get Request Retry Status (R365). -/
def execBmeSet (fn : Fin 256) (s : State) : Out1 := .next (s.cfgAccess fn.val fun s => s.setBme fn.val)

/-- PowerState of the PF is written (R368). -/
def State.powerState (s : State) (d3 : Bool) : State :=
  if d3 && !s.hep.d3hot then s.enterD3 else if !d3 && s.hep.d3hot then s.leaveD3 else s

def execD3hotEntry (s : State) : Out1 := .next (s.cfgAccess 0 fun s => s.powerState true)

def execD3hotExit (s : State) : Out1 := .next (s.cfgAccess 0 fun s => s.powerState false)

/-- HOT_RESET (R363): as a PF FLR, and configuration space of every function at its defaults, PowerState among it. -/
def execHotReset (s : State) : Out1 :=
  .next (if s.pmc.powered && s.pmc.rails && !s.pmc.perst && !s.hep.l2 then (s.flrPf.configDefaults).powerState false else s)

end Sys2Proof.Machine
end

