-- ==== Sys2Proof/Machine/Regs.lean ====
section
/-!
DEFINITION. REGISTER_WRITE: the writable registers of BAR0 and of configuration space, by their access and update classes
(R4-R9, R351-R355), block by block in the order of R353.
-/

namespace Sys2Proof.Machine

/-! ## Writes (R4, R5, R352) -/

/-- A write as one 64-bit register meets it: the bits covered start at `lo`, are `n`, and take the low bits of `v`. -/
structure RegW where
  lo : Nat
  n  : Nat
  v  : Nat

/-- A register's bits after the write, before reserved values and classes are looked at. -/
def RegW.merge (w : RegW) (old : Nat) : Nat := setBits old w.lo w.n w.v

/-- The write covers all of a field [hi:lo]. -/
def RegW.full (w : RegW) (hi lo : Nat) : Bool := w.lo ≤ lo && hi < w.lo + w.n

/-- The bits written as 1, in the register. -/
def RegW.ones (w : RegW) : Nat := (w.v % 2 ^ w.n) <<< w.lo

/-- A WO action (R4, R352): its bit is covered and written as 1. DESIGN CHOICE (log 133): R4 says that a write triggers the action, not
what a write of 0 over the bit does; here it does nothing. -/
def RegW.act (w : RegW) (k : Nat) : Bool := bit w.ones k

/-- A W1C flag after the write. -/
def RegW.keep (w : RegW) (k : Nat) (old : Bool) : Bool := old && !bit w.ones k

/-- A field [hi:lo] after the write; a reserved value leaves it (R9). -/
def RegW.field (w : RegW) (hi lo old : Nat) (ok : Nat → Bool := fun _ => true) : Nat :=
  let v := bits (w.merge (old <<< lo)) hi lo
  if ok v then v else old

/-- A one-bit field. -/
def RegW.flag (w : RegW) (k : Nat) (old : Bool) : Bool := w.field k k (b2n old) = 1

/-- A W1C register of flags from bit 0 on. -/
def RegW.clear {m : Nat} (w : RegW) (old : BitVec m) : BitVec m := w1c old (BitVec.ofNat m w.ones)

/-- Places a field's value. -/
def place (n hi lo v : Nat) : Nat := setBits n lo (hi + 1 - lo) v

/-! ## GLB, PMC, CNT, FW (chapters 15-18) -/

def State.writeGlb (s : State) (o : Nat) (w : RegW) : State :=
  if o = 0x100 then s.modElog fun l => { l with sel := w.field 31 0 l.sel } else s

def State.writePmc (s : State) (o : Nat) (w : RegW) : State :=
  s.modPmc fun p =>
    if o = 0x00 then { p with cap := w.field 10 0 p.cap fun v => 900 ≤ v && v ≤ 1700 }
    else if o = 0x18 then { p with err := w.clear p.err }
    else if o = 0x20 then
      { p with irqMask := BitVec.ofNat 8 (w.field 7 0 p.irqMask.toNat), irqVec := w.field 18 8 p.irqVec fun v => v < msixVectors 0 }
    else p

def State.writeCnt (s : State) (o : Nat) (w : RegW) : State :=
  s.modCnt fun t =>
    if o = 0x00 then { t with autoBase := w.field 63 12 t.autoBase }
    else if o = 0x08 then
      { t with autoOn := w.flag 0 t.autoOn, log2Slots := w.field 3 1 t.log2Slots, period := w.field 63 16 t.period fun v => 100000 ≤ v }
    else if o = 0x10 then { t with skipSeen := w.keep 48 t.skipSeen }
    else t

def State.writeFw (s : State) (o : Nat) (w : RegW) : State :=
  s.modFw fun t =>
    if o = 0x10 then { t with waitReg := w.field 47 0 t.waitReg fun v => v != 0 }
    else if o = 0x18 then { t with quiesceLimit := w.field 47 0 t.quiesceLimit fun v => v != 0 }
    else if o = 0x20 then { t with err := w.clear t.err }
    else t

/-! ## Function blocks (chapters 03, 06, 14, 17) -/

/-- HEP_RPL_CTRL's shadow after a write. -/
def ringCtrl (fn : Nat) (w : RegW) (old : Nat) : Nat :=
  let a := place (place (place 0 0 0 (w.field 0 0 (bits old 0 0))) 1 1 (w.field 1 1 (bits old 1 1)))
    11 8 (w.field 11 8 (bits old 11 8) fun v => v ≤ 10)
  place a 26 16 (w.field 26 16 (bits old 26 16) fun v => v < msixVectors fn)

/-- HEP_ERR_EVENT after a write: NEW and OVERRUN are W1C, NEXT_SEQ is read-only. -/
def errEventWrite (fn : Nat) (w : RegW) (old : Nat) : Nat :=
  let a := place (place old 16 16 (b2n (w.keep 16 (bit old 16)))) 17 17 (b2n (w.keep 17 (bit old 17)))
  let b := place a 42 32 (w.field 42 32 (bits old 42 32) fun v => v < msixVectors fn)
  place (place b 43 43 (w.field 43 43 (bits old 43 43))) 63 48 (w.field 63 48 (bits old 63 48))

/-- The registers of every function block. COMMIT of the ring acts while the device runs. -/
def State.writeFnBlock (s : State) (fn o : Nat) (w : RegW) : State :=
  s.modFn fn fun f =>
    let g := f.ring
    if o = 0x100 then { f with ring := { g with baseSh := BitVec.ofNat 52 (w.field 63 12 g.baseSh.toNat) } }
    else if o = 0x108 then { f with ring := { g with ctrlSh := BitVec.ofNat 32 (ringCtrl fn w g.ctrlSh.toNat) } }
    else if o = 0x118 then { f with ring := { g with cons := BitVec.ofNat 32 (w.field 31 0 g.cons.toNat) } }
    else if o = 0x120 then (if w.act 0 && s.running then { f with ring := g.commit } else f)
    else if o = 0x130 then { f with ring := { g with dropSeen := w.keep 32 g.dropSeen } }
    else if o = 0x140 then
      { f with qosChanged := w.keep 16 f.qosChanged, qosVec := w.field 42 32 f.qosVec fun v => v < msixVectors fn
               qosIrq := w.flag 43 f.qosIrq }
    else if o = 0x150 then { f with lateSeen := w.keep 48 f.lateSeen }
    else if o = 0x160 then { f with errEvent := BitVec.ofNat 64 (errEventWrite fn w f.errEvent.toNat) }
    else f

/-- One of the four words of a HEP_HWIN shadow entry after a write. -/
def HWin.write (h : HWin) (word : Nat) (w : RegW) : HWin :=
  match word with
  | 0 => { h with valid := w.flag 0 h.valid, rd := w.flag 1 h.rd, wr := w.flag 2 h.wr, cls := w.field 7 3 h.cls
                  ctx := w.field 19 8 h.ctx, pages := w.field 63 32 h.pages }
  | 1 => { h with dpaPage := w.field 41 16 h.dpaPage }
  | 2 => { h with handle := w.field 31 0 h.handle, offset := w.field 63 32 h.offset }
  | _ => h

/-- The registers that the PF's block alone has. -/
def State.writePfBlock (s : State) (o : Nat) (w : RegW) : State :=
  if 0x2000 ≤ o && o < 0x2800 then
    s.modHep fun h => { h with hwin := tmod {} h.hwin ((o - 0x2000) / 32) fun e => e.write (o % 32 / 8) w }
  else if o = 0x2800 then (if w.act 0 && s.running then s.commitHwin else s)
  else if o = 0x3000 then s.modHep fun h => { h with ptlSeen := w.keep 48 h.ptlSeen, refusedSeen := w.keep 49 h.refusedSeen }
  else if o = 0x3008 then
    s.modHep fun h => { h with portWake := BitVec.ofNat 16 (w.field 15 0 h.portWake.toNat), btnWake := w.flag 16 h.btnWake }
  else s.writeFnBlock 0 o w

/-- The quota table (02): registers A and B of function n. -/
def State.writeQuota (s : State) (o : Nat) (w : RegW) : State :=
  let n := o / 32
  if 256 ≤ n then s
  else if o % 32 = 0 then s.modFn n fun f => { f with maxCtx := w.field 11 0 f.maxCtx, hbmQuota := w.field 57 32 f.hbmQuota }
  else if o % 32 = 8 then s.modFn n fun f => { f with tierQuota := w.field 31 0 f.tierQuota }
  else s

/-- An entry of an MSI-X table: 16 bytes; reserved bits read as zero. An unmasked vector that is pending is sent (R367, log 21). -/
def State.writeMsix (s : State) (fn o : Nat) (w : RegW) : State :=
  let k := o / 16
  let s := s.modFn fn fun f =>
    let old := (tget msixEntry0 f.msix k).toNat
    let half := bits old (64 * (o / 8 % 2) + 63) (64 * (o / 8 % 2))
    let v := if o / 8 % 2 = 0 then w.merge half / 4 * 4 else w.merge half % 2 ^ 33
    { f with msix := tput msixEntry0 f.msix k (BitVec.ofNat 128 (setBits old (64 * (o / 8 % 2)) 64 v)) }
  s.sendPending fn

/-! ## CTL: QOS and the dispatcher (chapters 06, 10) -/

/-- QOS_CFG's shadow after a write. -/
def qosCfgWrite (w : RegW) (old : Nat) : Nat :=
  place (place (place (place 0 19 0 (w.field 19 0 (bits old 19 0) fun v => 200 ≤ v)) 31 24 (w.field 31 24 (bits old 31 24)))
    43 32 (w.field 43 32 (bits old 43 32) fun v => v != 0)) 63 48 (w.field 63 48 (bits old 63 48) fun v => v != 0)

/-- QOS_TANGENT's shadow after a write. -/
def qosTangentWrite (w : RegW) (old : Nat) : Nat :=
  place (place (place 0 15 0 (w.field 15 0 (bits old 15 0))) 31 16 (w.field 31 16 (bits old 31 16)))
    63 32 (w.field 63 32 (bits old 63 32) fun v => 10000 ≤ v)

def State.writeQos (s : State) (o : Nat) (w : RegW) : State :=
  if o = 0x00 then s.modQos fun q => { q with cfgSh := BitVec.ofNat 64 (qosCfgWrite w q.cfgSh.toNat) }
  else if o = 0x08 then s.modQos fun q => { q with tanSh := BitVec.ofNat 64 (qosTangentWrite w q.tanSh.toNat) }
  else if o = 0x10 then (if w.act 0 && s.running then s.commitQos else s)
  else s

def State.writeDispatch (s : State) (o : Nat) (w : RegW) : State :=
  if o = 0 then
    s.modDisp fun d => { d with backfill := w.field 31 0 d.backfill, engineCap := w.field 39 32 d.engineCap fun v => v ≤ 152 }
  else s

/-! ## Ports (chapter 04) -/

/-- A Q field of a port after a write (R5): a change while the port runs is rejected. Answers the value and whether it was. -/
def qField (running : Bool) (old new : Nat) : Nat × Bool := if running && new != old then (old, true) else (new, false)

/-- LNK_PORT_CTRL: the Q fields under the state the port is in, then ENABLE, then RETRAIN. -/
def State.writePortCtrl (s : State) (p : Nat) (w : RegW) : State :=
  let t := s.port p
  let on := t.st != .off
  let a := qField on t.maxWidth (w.field 3 2 t.maxWidth fun v => v != 3)
  let b := qField on t.retryTimeout (w.field 31 16 t.retryTimeout fun v => v != 0)
  let s := s.modPort p fun t =>
    { t with maxWidth := a.1, retryTimeout := b.1, err := if a.2 || b.2 then orBit t.err 7 else t.err }
  let s := if !w.full 0 0 then s else if w.act 0 then s.enablePort p else s.disablePort p
  if w.act 1 && s.running then s.retrainPort p else s

def State.writePort (s : State) (p o : Nat) (w : RegW) : State :=
  if o = 0x00 then s.writePortCtrl p w
  else if o = 0x10 then
    s.modPort p fun t => { t with
      reqTimeout := w.field 31 0 t.reqTimeout fun v => 20000 ≤ v
      recallTimeout := w.field 63 32 t.recallTimeout fun v => v != 0 }
  else if o = 0x18 then s.modPort p fun t => { t with err := w.clear t.err }
  else s

/-! ## Memory dies, Chord dies, directory dies, FLS dies (chapters 06-08, 10, 12, 13) -/

def State.writeStack (s : State) (k o : Nat) (w : RegW) : State :=
  s.modStack k fun t =>
    if o = 0x300 then { t with scrubOn := w.flag 0 t.scrubOn, minLap := w.field 55 8 t.minLap }
    else if o = 0x308 then { t with maxLap := w.field 47 0 t.maxLap }
    else if o = 0x510 then { t with err := w.clear t.err }
    else t

/-- The FCT block of a die. It runs while its decode queue or its encode pipeline holds work (chapter 08): a step decodes and encodes
whole blocks, so between steps neither holds any, and a write of TANGENT_RESERVE is taken (log 67). -/
def State.writeFct (s : State) (die o : Nat) (w : RegW) : State :=
  if o = 0x08 then
    s.modMem die fun t => { t with tanReserve := w.field 2 0 t.tanReserve, sampleEn := w.flag 3 t.sampleEn }
  else if o = 0x10 then s.modMem die fun t => { t with fctErr := w.clear t.fctErr }
  else s

def State.writeMeas (s : State) (die o : Nat) (w : RegW) : State :=
  if o = 0 then s.modMem die fun t => { t with shift := w.field 3 0 t.shift fun v => 1 ≤ v && v ≤ 8 } else s

def State.writeChd (s : State) (d o : Nat) (w : RegW) : State :=
  if o = 0x10 then s.modChd d fun t => { t with err := w.clear t.err } else s

/-- The Z2520-H ignores writes to the GNM and FLS blocks (R2). -/
def State.writeGnm (s : State) (d o : Nat) (w : RegW) : State :=
  if s.variantH then s
  else if o = 0x00 then s.modDir d fun t => { t with holdLimit := w.field 31 0 t.holdLimit fun v => 2000 ≤ v }
  else if o = 0x08 then s.modDir d fun t => { t with lowSh := w.field 25 0 t.lowSh, highSh := w.field 57 32 t.highSh }
  else if o = 0x10 then (if w.act 0 && s.running then s.commitGnm d else s)
  else if 0x1000 ≤ o && o < 0x2000 && o % 16 = 0 then
    s.modDir d fun t => { t with heldMax := tmod 0x3FFFFFF t.heldMax ((o - 0x1000) / 16) fun v => w.field 25 0 v }
  else s

/-- FLS_CFG's shadow after a write. -/
def flsCfgWrite (w : RegW) (old : Nat) : Nat :=
  place (place (place (place 0 23 0 (w.field 23 0 (bits old 23 0) fun v => v != 0)) 39 32 (w.field 39 32 (bits old 39 32)))
    47 40 (w.field 47 40 (bits old 47 40))) 55 48 (w.field 55 48 (bits old 55 48))

def State.writeFls (s : State) (d o : Nat) (w : RegW) : State :=
  if s.variantH then s
  else if o = 0x00 then s.modFls d fun t => { t with cfgSh := BitVec.ofNat 64 (flsCfgWrite w t.cfgSh.toNat) }
  else if o = 0x08 then (if w.act 0 && s.running then s.commitFls d else s)
  else if o = 0x30 then s.modFls d fun t => { t with err := w.clear t.err }
  else s

/-! ## CXL component registers (R353) -/

/-- The control of the HDM decoder (CXL: log 16): a decoder that is locked and committed takes nothing; Commit checks the size and the
alignment to 256 MiB times the ways, 1, 2, 4, 8 or 16 of 256 B to 16 KiB (R357); clearing it ends the decoding. -/
def Hdm.control (h : Hdm) (w : RegW) : Hdm :=
  if h.lock && h.committed then h
  else
    let h := if h.committed then h else { h with ig := w.field 3 0 h.ig, iw := w.field 7 4 h.iw, lock := w.flag 8 h.lock }
    if !w.full 9 9 then h
    else if !w.act 9 then { h with committed := false, refused := false }
    else if h.committed then h
    else
      let ok := h.iw ≤ 4 && h.ig ≤ 6 && h.size != 0 && h.size % 2 ^ h.iw == 0 && h.base % 2 ^ h.iw == 0 && h.size ≤ 2 ^ (14 + h.iw)
      { h with committed := ok, refused := !ok }

/-- The CXL component registers (R353, R356, R357, R359): where the capabilities lie, and their layouts, are those of log 16. -/
def State.writeCxl (s : State) (o : Nat) (w : RegW) : State :=
  s.modHep fun h =>
    if o = 0x1100 then
      let n := h.rasStatus &&& ~~~(BitVec.ofNat 32 w.ones)
      { h with rasStatus := n, rasMask := BitVec.ofNat 32 (w.field 63 32 h.rasMask.toNat)
               rasFirst := h.rasFirst.filter fun e => n.getLsbD e.1 }
    else if o = 0x1108 then { h with rasSev := BitVec.ofNat 32 (w.field 31 0 h.rasSev.toNat) }
    else if o = 0x1200 then { h with hdm := { h.hdm with enable := w.flag 33 h.hdm.enable } }
    else if o = 0x1210 then (if h.hdm.committed then h else { h with hdm := { h.hdm with base := w.field 63 28 h.hdm.base } })
    else if o = 0x1218 then (if h.hdm.committed then h else { h with hdm := { h.hdm with size := w.field 63 28 h.hdm.size } })
    else if o = 0x1220 then { h with hdm := h.hdm.control w }
    else h

/-! ## BAR0 (R351-R355) -/

/-- PF BAR0 (R353): the slot of the offset chooses the block; an offset that names no writable register is ignored. -/
def State.writePfBar (s : State) (off : Nat) (w : RegW) : State :=
  let slot := off / 65536
  let o := off % 65536
  if slot = 0x08 then (if o < 0x8000 then s.writeMsix 0 o w else s)
  else if !s.pmc.ready then s
  else if slot = 0x0A then s.writeCxl o w
  else if slot = 0x00 then s.writeGlb o w
  else if slot = 0x10 then s.writePfBlock o w
  else if slot = 0x11 then s.writeQuota o w
  else if slot = 0x20 then s.writeQos o w
  else if slot = 0x21 then s.writeDispatch o w
  else if slot = 0x22 then s.writePmc o w
  else if slot = 0x23 then s.writeCnt o w
  else if slot = 0x25 then s.writeFw o w
  else if 0x100 ≤ slot && slot < 0x104 then s.writePort (4 * (slot - 0x100) + o / 0x4000) (o % 0x4000) w
  else if 0x110 ≤ slot && slot < 0x11A then s.writeStack (2 * (slot - 0x110) + o / 0x8000) (o % 0x8000) w
  else if 0x120 ≤ slot && slot < 0x12A then s.writeFct (slot - 0x120) o w
  else if 0x130 ≤ slot && slot < 0x13A then s.writeMeas (slot - 0x130) o w
  else if 0x140 ≤ slot && slot < 0x144 then s.writeChd (slot - 0x140) o w
  else if 0x150 ≤ slot && slot < 0x152 then s.writeGnm (slot - 0x150) o w
  else if 0x160 ≤ slot && slot < 0x162 then s.writeFls (slot - 0x160) o w
  else s

/-- VF BAR0 (R354). -/
def State.writeVfBar (s : State) (fn off : Nat) (w : RegW) : State :=
  if 0x8000 ≤ off && off < 0x8400 then s.writeMsix fn (off - 0x8000) w
  else if s.pmc.ready && off < 0x2000 then s.writeFnBlock fn off w
  else s

/-- A BAR0 write of a function: another size or alignment, or an offset beyond its BAR, is an Unsupported Request (R351, R352). -/
def State.writeBar (s : State) (fn off size v : Nat) : State :=
  s.barWrite fn fun s =>
    if !(size = 4 || size = 8) || off % size ≠ 0 || (fn ≠ 0 && 65536 ≤ off) then s.aerUnc fn 20 false
    else
      let w : RegW := { lo := 8 * (off % 8), n := 8 * size, v }
      let o := off / 8 * 8
      if fn = 0 then s.writePfBar o w else s.writeVfBar fn o w

/-! ## Configuration space (R343-R348, R350, R356, R369, R370, R372; layouts of PCIe and CXL: log 16) -/

/-- Command register: Memory Space Enable and Bus Master Enable. -/
def State.writeCommand (s : State) (fn : Nat) (w : RegW) : State :=
  let f := s.fn fn
  let bme := w.flag 34 f.bme
  let s := s.modFn fn fun f => { f with mse := w.flag 33 f.mse }
  if bme && !f.bme then s.setBme fn else if !bme && f.bme then s.clearBme fn else s

/-- Device Control of a function (R342, R346, R365): the PF's sizes hold for every function. -/
def State.writeDevCtl (s : State) (fn : Nat) (w : RegW) : State :=
  let s := s.modFn fn fun f => { f with relaxed := w.flag 4 f.relaxed }
  let s := if fn ≠ 0 then s
    else s.modHep fun h => { h with
      mps := w.field 7 5 h.mps fun v => v ≤ 2
      mrrs := w.field 14 12 h.mrrs fun v => v ≤ 5 }
  if w.act 15 then (if fn = 0 then s.flrPf else s.flrFn fn) else s

/-- A write of an AER structure: status is W1C; a cleared first error frees the First Error Pointer (R370). -/
def Fn.writeAer (f : Fn) (o : Nat) (w : RegW) : Fn :=
  if o = 0x00 then
    let n := f.aerUnc &&& ~~~(BitVec.ofNat 32 (w.ones / 2 ^ 32))
    { f with aerUnc := n, aerFirst := f.aerFirst.filter fun k => n.getLsbD k }
  else if o = 0x08 then
    { f with aerUncMask := BitVec.ofNat 32 (w.field 31 0 f.aerUncMask.toNat)
             aerUncSev := BitVec.ofNat 32 (w.field 63 32 f.aerUncSev.toNat) }
  else if o = 0x10 then
    { f with aerCor := f.aerCor &&& ~~~(BitVec.ofNat 32 w.ones)
             aerCorMask := BitVec.ofNat 32 (w.field 63 32 f.aerCorMask.toNat) }
  else f

/-- The 8 bytes at an aligned offset within a space. -/
def State.writeConfig (s : State) (space : RegSpace) (fn o : Nat) (w : RegW) : State :=
  match space, o with
  | .header, 0 => s.writeCommand fn w
  | .header, 0x10 => if fn ≠ 0 then s else s.modHep fun h => { h with bar0 := w.field 63 26 h.bar0 }
  | .header, 0x18 => if fn ≠ 0 then s else s.modHep fun h => { h with bar2 := w.field 63 20 h.bar2 }
  | .pmCap, 0 =>
    if fn ≠ 0 then s
    else
      let s := s.modHep fun h => { h with pmeEn := w.flag 40 h.pmeEn, pmeStatus := w.keep 47 h.pmeStatus }
      let d := w.field 33 32 (if s.hep.d3hot then 3 else 0) fun v => v = 0 || v = 3
      s.powerState (d = 3)
  | .msixCap, 0 => (s.modFn fn fun f => { f with msixMask := w.flag 30 f.msixMask, msixOn := w.flag 31 f.msixOn }).sendPending fn
  | .pcieCap, 8 => s.writeDevCtl fn w
  | .pcieCap, 0x10 => if fn ≠ 0 then s else s.modHep fun h => { h with aspm := w.field 1 0 h.aspm fun v => v % 2 = 0 }
  | .pcieCap, 0x28 =>
    s.modFn fn fun f => { f with ctoEnc := w.field 3 0 f.ctoEnc, ctoDis := w.flag 4 f.ctoDis, tag10 := w.flag 12 f.tag10 }
  | .device3Cap, 8 => s.modFn fn fun f => { f with tag14 := w.flag 2 f.tag14 }
  | .aerCap, o => s.modFn fn fun f => f.writeAer o w
  | .sriovCap, 8 =>
    if fn ≠ 0 then s
    else
      let s := s.modHep fun h => { h with ariHier := w.flag 4 h.ariHier }
      if w.flag 0 s.hep.vfEnable then s.modHep fun h => { h with vfEnable := true }
      else if s.hep.vfEnable then s.flrVfs
      else s
  | .sriovCap, 0x10 =>
    if fn ≠ 0 || s.hep.vfEnable then s else s.modHep fun h => { h with numVfs := w.field 15 0 h.numVfs fun v => v ≤ 255 }
  | .sriovCap, 0x20 =>
    if fn ≠ 0 then s
    else
      let size := if s.hep.vfEnable then s.hep.pageSize else w.field 31 0 s.hep.pageSize fun v => [1, 2, 4, 8, 16].contains v
      s.modHep fun h => { h with pageSize := size, vfBar0 := w.field 63 48 (h.vfBar0 % 2 ^ 16) + h.vfBar0 / 2 ^ 16 * 2 ^ 16 }
  | .sriovCap, 0x28 =>
    if fn ≠ 0 then s
    else s.modHep fun h => { h with
      vfBar0 := h.vfBar0 % 2 ^ 16 + w.field 31 0 (h.vfBar0 / 2 ^ 16) * 2 ^ 16
      vfBar2 := w.field 63 48 (h.vfBar2 % 2 ^ 16) + h.vfBar2 / 2 ^ 16 * 2 ^ 16 }
  | .sriovCap, 0x30 =>
    if fn ≠ 0 then s else s.modHep fun h => { h with vfBar2 := h.vfBar2 % 2 ^ 16 + w.field 31 0 (h.vfBar2 / 2 ^ 16) * 2 ^ 16 }
  | .cxlDvsec, 8 => if fn ≠ 0 then s else s.modHep fun h => { h with memEnable := w.flag 34 h.memEnable }
  | .serviceDvsec, 8 =>
    if fn ≠ 0 then s
    else s.modHep fun h =>
      let c := h.msvcCtrl.toNat <<< 32
      let n := place (place (place c 33 32 (w.field 33 32 (bits c 33 32) fun v => v != 0))
        35 34 (w.field 35 34 (bits c 35 34) fun v => v != 0)) 36 36 (w.field 36 36 (bits c 36 36))
      { h with msvcCtrl := BitVec.ofNat 16 (place n 47 37 (w.field 47 37 (bits c 47 37) fun v => v < msixVectors 0) / 2 ^ 32) }
  | .serviceDvsec, 0x10 => if fn ≠ 0 then s else s.modHep fun h => { h with btnPressed := w.keep 0 h.btnPressed }
  | _, _ => s

/-- A configuration write of 1, 2 or 4 bytes, naturally aligned; others do not exist. A function in FLR and a device without
configuration space answer Request Retry Status (R364, R365). -/
def State.configWrite (s : State) (space : RegSpace) (fn off size v : Nat) : State :=
  if !(size = 1 || size = 2 || size = 4) || off % size ≠ 0 then s
  else s.cfgAccess fn fun s => s.writeConfig space fn (off / 8 * 8) { lo := 8 * (off % 8), n := 8 * size, v }

/-! ## Meaning -/

def execRegisterWrite (space : RegSpace) (fn : Fin 256) (offset : BitVec 26) (size : BitVec 4) (value : BitVec 64) (s : State) : Out1 :=
  .next (if space = .bar0 then s.writeBar fn.val offset.toNat size.toNat value.toNat
    else s.configWrite space fn.val offset.toNat size.toNat value.toNat)

end Sys2Proof.Machine
end

