-- ==== Sys2Proof/Machine/Restart.lean ====
section
/-!
DEFINITION. Restarts of firmware processors and what becomes of the commands in flight on them (R70, R71, R375-R377, R393).
-/

namespace Sys2Proof.Machine

/-- A command executes on a processor. -/
def Cmd.onProc (i : Nat) (c : Cmd) : Bool :=
  c.st == .running && c.proc == some i

/-- Class R (R70): what the command has done so far is undone, and it replies RESTARTED. -/
def State.rollBack (s : State) (c : Cmd) : State :=
  if c.opcode = 0x0104 then (s.freeRegion c.aux).replyTo c.id stRestarted
  else if c.opcode = 0x0600 then
    match s.regions.find? fun e => e.2.pubCmd == some c.id with
    | some e => (s.endPublish e.1 .unpublished stRestarted 0).restoreGroups e.1 e.2.groupsWas
    | none => s.reply c stRestarted
  else if c.opcode = 0x0800 then
    let l := par c.p 12 4
    (s.modPort (l / 4) fun p => { p with testLanes := p.testLanes &&& ~~~(BitVec.ofNat 4 (1 <<< (l % 4))) }).reply c stRestarted
  else if c.opcode = 0x0A01 then s.unsnap c
  else if c.opcode = 0x0106 then
    match s.regions.find? fun e => (e.2.moving.map (·.1)) == some c.id with
    | some e => (((s.setRegion e.1 { e.2 with moving := none }).rerouted fun q => q.hold == .move e.1).settle).reply c stRestarted
    | none => s.reply c stRestarted
  else (s.reply c stRestarted).refuseHeld fun q => q.src == .cmd c.id

/-- The most progress units that a test or a retirement can have finished (R424, R425). -/
def State.progressBound (s : State) (c : Cmd) : Nat :=
  let u := unitOfCmd c.p
  if c.opcode = 0x0800 then (if u.1 = 2 then 2 else 4)
  else
    match u.1 with
    | 2 => (s.pc (u.2 / 64) (u.2 % 64)).lines
    | 3 => (s.stack u.2).lines
    | 5 => (s.stack (2 * u.2)).lines + (s.stack (2 * u.2 + 1)).lines
    | _ => 0

/-- Class P (R70): the work done stays, and DETAIL counts finished units. How many of a test or of a retirement have finished is a
free value within their number (log 1). -/
def State.keepWork (s : State) (c : Cmd) : State :=
  if c.opcode = 0x0900 then s.endStage c stPartial
  else
    let f := s.takeFree
    f.2.reply c stPartial 0 (f.1 % (s.progressBound c + 1))

/-- The outcome of one command in flight (R70). A switch that has begun completes: FW_ACTIVATE then goes on (R393). -/
def State.cmdOutcome (s : State) (id : Nat) : State :=
  match s.cmd? id with
  | none => s
  | some c =>
    if c.st != .running || c.opcode = 0x0901 then s
    else
      match specOf c.opcode with
      | none => s
      | some spec =>
        match spec.cls c.p with
        | .rollback => s.rollBack c
        | .keep => s.keepWork c
        | .finish => s

/-- The outcomes of the commands in flight on a processor (R376); a pending activation is the scheduler core's (R395). A publication
ends after the commands that wait for it. -/
def State.outcomes (s : State) (i : Nat) : State :=
  let s := if i = 2 then s.fwAbandon (some stRestarted) else s
  let mine := s.cmds.filter (Cmd.onProc i)
  let pub (c : Cmd) : Bool := s.regions.any fun e => e.2.pubCmd == some c.id
  (s.each ((mine.filter fun c => !pub c).map (·.id)) State.cmdOutcome).each ((mine.filter pub).map (·.id)) State.cmdOutcome

/-- A processor restarts, and its commands in flight take their outcomes. -/
def State.crash (s : State) (i cause : Nat) : State := (s.restartProc i cause).outcomes i

/-- A crash loop (R377, R395, R417): the previous bank is taken again if there is one, else the device is fatal. -/
def State.crashLoop (s : State) (i cause : Nat) : State :=
  let s := s.fwAbandon (some stRestarted)
  if s.fw.activated && s.fw.revertOk && s.fw.inactive.isSome then
    let s := s.revert
    let s := s.each s.fw.switching State.outcomes
    if s.fw.switching.contains i then s else s.crash i cause
  else s.goFatal 2

/-- HEARTBEAT_TIMEOUT (R375, R377) of a processor that runs; the Hull core is the hardware monitor's. Nothing is reverted while a
switch is in progress (log 66). -/
def State.heartbeat (s : State) (i cause : Nat) (loop : Bool) : State :=
  if (s.proc i).restarting then s
  else if loop && s.fw.phase != .switching then s.crashLoop i cause
  else s.crash i cause

/-- ACTIVATE_QUIESCED (R392-R394): the switch begins. -/
def State.beginSwitch (s : State) : State :=
  let busy := s.cmds.any fun c => some c.id != s.fw.actCmd && c.onProc 2
  if s.fw.phase == .quiescing && !s.fwEmergency && s.quiesced busy then
    let procs := s.fw.changed.flatMap procsOf
    (s.modFw fun w => { w with phase := .switching, switching := procs }).each procs fun s i => s.crash i 4
  else s

/-- PROC_RESTART_COMPLETE (R71, R150, R376, R403): the processor runs again, and what waited for it goes on. -/
def State.restarted (s : State) (i : Nat) : State :=
  if !(s.proc i).restarting then s
  else
    let s := s.modProc i fun p => { p with restarting := false }
    let s := if i = 1 then ((s.modPmc fun p => { p with safeCap := false }).rederate).fwReview
      else if i = 2 then s.rederate.settleAborts
      else s.settleRuns
    if s.running && !s.hep.d3hot then s.releaseParked else s

/-! ## Meanings -/

/-- Causes 1-3 are those of a heartbeat, an exception and an SRAM error; the cluster cores run from stage 5 on (R381). CC4 and CC5 are
idle on the Z2520-H (R23). -/
def execHeartbeatTimeout (proc : Fin 11) (cause : BitVec 4) (crashLoop : Bool) (s : State) : Out1 :=
  .next (if s.pmc.powered && !s.pmc.fatal && proc.val ≠ 0 && !(s.variantH && (proc.val = 7 || proc.val = 8)) && (if proc.val ≤ 2 then 1 else 5) ≤ s.pmc.stage &&
        1 ≤ cause.toNat && cause.toNat ≤ 3 then s.heartbeat proc.val cause.toNat crashLoop
    else s)

def execProcRestartComplete (proc : Fin 11) (s : State) : Out1 :=
  .next (if s.pmc.powered && !s.pmc.fatal then s.restarted proc.val else s)

def execActivateQuiesced (s : State) : Out1 := .next (if s.running then s.beginSwitch else s)

end Sys2Proof.Machine
end

