-- ==== Sys2Proof/Machine/Sideband.lean ====
section
/-!
DEFINITION. The SMBus sideband (R453-R455): MCTP control messages, Olfamen's vendor commands, the alert. MCTP's own fields are
its standard's (log 61).
-/

namespace Sys2Proof.Machine

/-- The device answers at its address (R414, R454): unpowered it does not, nor before stage 1 of a boot that runs. -/
def State.sideUp (s : State) : Bool :=
  s.pmc.standby || (s.pmc.powered && s.pmc.rails && (decide (1 ≤ s.pmc.stage) || s.pmc.fatal))

/-- After a boot stop at stage 0 the Hull ROM answers alone (R454). -/
def State.romOnly (s : State) : Bool := s.pmc.powered && s.pmc.fatal && s.pmc.stopReason ≠ 0 && s.pmc.stage = 0

/-- Answers a sideband message. -/
def State.side (s : State) (l : List Byte) : Out1 := .next (if s.sideUp then s.emit (.smbus l) else s)

/-- Answers a vendor command: completion code and data, or 0x02 while only the ROM answers. -/
def State.vendor (s : State) (rom : Bool) (l : List Byte) : Out1 := s.side (if s.romOnly && !rom then [2] else l)

/-- The 7-bit SMBus address (R453). -/
def State.address (s : State) : Nat := 0x60 + s.pmc.smbAddr.toNat

/-- SMB_ALERT_N is asserted (R455). -/
def State.alert (s : State) : Bool := s.pmc.powered && (s.pmc.fatal || s.pmc.emergency || s.pmc.holdup || s.pmc.overvolt)

/-- The flags of GET_POWER. -/
def Pmc.flags (p : Pmc) : Nat := b2n p.sag + 2 * b2n p.holdup + 4 * b2n p.emergency + 8 * b2n p.safeCap + 16 * b2n p.overvolt

/-! ## FRU data (R444, R452) -/

/-- The ordering code of the device (R444), as ASCII bytes. -/
def State.orderingCode (s : State) : List Byte :=
  [0x5A, 0x32, 0x35, 0x32, 0x30, 0x2D, if s.variantH then 0x48 else 0x46, 0x2D]
    ++ (if s.stepB0 then [0x42, 0x30] else [0x41, 0x30, 0x45])

/-- The Subsystem ID (R444). -/
def State.subsystemId (s : State) : Nat := if s.variantH then 0x0F21 else 0x0F20

/-- The Olfamen multirecord (R452), bytes 0-32. -/
def State.fruRecord (s : State) : List Byte :=
  leBytes 3 0x001F3D ++ leBytes 8 s.ident.toNat ++ leBytes 8 serial ++ leBytes 2 0x1F3D ++ leBytes 2 s.subsystemId
    ++ leBytes 4 2368 ++ leBytes 4 (if s.variantH then 0 else 150) ++ leBytes 2 (if s.variantH then 1580 else 1700)

/-- The byte that makes bytes add up to 0 modulo 256. -/
def zeroSum (l : List Byte) : Byte := - l.foldl (· + ·) 0

/-- The FRU data: its areas, then the multirecord of type 0xC0 under the IPMI record header, the last of its list: format 2, length,
record checksum, header checksum (log 115). -/
def State.fru (s : State) : List Byte :=
  let h : List Byte := [0xC0, 0x82, BitVec.ofNat 8 s.fruRecord.length, zeroSum s.fruRecord]
  Config.fruAreas s.orderingCode serial ++ h ++ [zeroSum h] ++ s.fruRecord

/-! ## Meanings -/

/-- Set Endpoint ID: 0x00 and 0xFF are no endpoint IDs of MCTP. -/
def execSetEndpointId (eid : BitVec 8) (s : State) : Out1 :=
  if !s.sideUp then .next s
  else if eid == 0 || eid == 0xFF then s.side [2]
  else (s.modPmc fun p => { p with eid }).side [0, 0, eid, 0]

def execGetEndpointId (s : State) : Out1 := s.side [0, s.pmc.eid, 0, 0]

/-- One version, 1.3. -/
def execGetMctpVersionSupport (s : State) : Out1 := s.side [0, 1, 0xF1, 0xF3, 0xF1, 0]

/-- SPDM and vendor-defined PCI. -/
def execGetMessageTypeSupport (s : State) : Out1 := s.side [0, 2, 0x05, 0x7E]

/-- Discarded (R453). -/
def execMctpOtherType (_ty : BitVec 8) (s : State) : Out1 := .next s

def execGetIdent (s : State) : Out1 := s.vendor true ([0] ++ leBytes 8 s.ident.toNat ++ leBytes 8 serial)

def execGetTemps (first count : BitVec 8) (s : State) : Out1 :=
  let f := first.toNat
  let n := count.toNat
  s.vendor false (if n = 0 || 32 < n || 69 < f + n then [1] else [0] ++ (List.range n).map fun i => BitVec.ofNat 8 (tget 0 s.pmc.temps (f + i)))

def execGetPower (s : State) : Out1 :=
  let p := s.pmc
  s.vendor false ([0] ++ leBytes 2 p.vin ++ leBytes 2 p.pin ++ leBytes 2 p.effCap ++ leBytes 1 p.level ++ leBytes 1 p.flags)

def execGetFru (offset : BitVec 16) (length : BitVec 8) (s : State) : Out1 :=
  let o := offset.toNat
  let n := length.toNat
  s.vendor false (if n = 0 || 48 < n || s.fru.length < o + n then [1] else [0] ++ (s.fru.drop o).take n)

def execGetBoot (s : State) : Out1 :=
  let p := s.pmc
  s.vendor true ([0] ++ leBytes 1 p.stage ++ leBytes 1 (b2n p.fatal) ++ leBytes 1 p.stopReason ++ leBytes 1 p.lastOff ++ leBytes 1 p.offSensor)

def execGetFatal (index : BitVec 8) (s : State) : Out1 :=
  s.vendor false (if 16 ≤ index.toNat then [1] else [0] ++ leBytes 32 (s.elog.prior[index.toNat]?.getD 0).toNat)

/-- Command codes 0x00 and 0x07-0xFF; the others have rows of their own. -/
def execVendorUnsupportedCommand (code : BitVec 8) (s : State) : Out1 :=
  if code == 0 || 7 ≤ code.toNat then s.vendor false [5] else .next s

/-- The Alert Response Address (R455). -/
def execAlertResponse (s : State) : Out1 := if s.alert then s.side (leBytes 1 s.address) else .next s

end Sys2Proof.Machine
end

