-- ==== Sys2Proof/Machine/Dispatch.lean ====
section
/-!
DEFINITION. The dispatch: one arm per command of the table, each a direct call of its meaning.
-/

namespace Sys2Proof.Machine

open Sys2Proof

def exec (i : Instr) (s : State) : Host.Outcome State Fault Refusal :=
  match i with
  | .identify via p => Sys2Proof.Machine.execIdentify via p s
  | .mark via p => Sys2Proof.Machine.execMark via p s
  | .ctxCreate via p => Sys2Proof.Machine.execCtxCreate via p s
  | .ctxDestroy via p => Sys2Proof.Machine.execCtxDestroy via p s
  | .ctxBindPort via p => Sys2Proof.Machine.execCtxBindPort via p s
  | .winSet via p => Sys2Proof.Machine.execWinSet via p s
  | .regionAlloc via p => Sys2Proof.Machine.execRegionAlloc via p s
  | .regionFree via p => Sys2Proof.Machine.execRegionFree via p s
  | .regionAttrReport via p => Sys2Proof.Machine.execRegionAttrReport via p s
  | .regionAttrSetLease via p => Sys2Proof.Machine.execRegionAttrSetLease via p s
  | .regionAttrSetMissPolicy via p => Sys2Proof.Machine.execRegionAttrSetMissPolicy via p s
  | .hintPrefetch via p => Sys2Proof.Machine.execHintPrefetch via p s
  | .hintPin via p => Sys2Proof.Machine.execHintPin via p s
  | .hintUnpin via p => Sys2Proof.Machine.execHintUnpin via p s
  | .hintEvict via p => Sys2Proof.Machine.execHintEvict via p s
  | .ckptCommit via p => Sys2Proof.Machine.execCkptCommit via p s
  | .xferCopy via p => Sys2Proof.Machine.execXferCopy via p s
  | .xferMove via p => Sys2Proof.Machine.execXferMove via p s
  | .xferFill via p => Sys2Proof.Machine.execXferFill via p s
  | .xferReduce via p => Sys2Proof.Machine.execXferReduce via p s
  | .xferAtom via p => Sys2Proof.Machine.execXferAtom via p s
  | .tableBuild via p => Sys2Proof.Machine.execTableBuild via p s
  | .tableRetire via p => Sys2Proof.Machine.execTableRetire via p s
  | .codecSet via p => Sys2Proof.Machine.execCodecSet via p s
  | .kernelLoad via p => Sys2Proof.Machine.execKernelLoad via p s
  | .kernelRun via p => Sys2Proof.Machine.execKernelRun via p s
  | .kernelAbort via p => Sys2Proof.Machine.execKernelAbort via p s
  | .sharePublish via p => Sys2Proof.Machine.execSharePublish via p s
  | .shareSubscribe via p => Sys2Proof.Machine.execShareSubscribe via p s
  | .shareUnsubscribe via p => Sys2Proof.Machine.execShareUnsubscribe via p s
  | .shareWithdraw via p => Sys2Proof.Machine.execShareWithdraw via p s
  | .qosClassSet via p => Sys2Proof.Machine.execQosClassSet via p s
  | .qosBudgetSet via p => Sys2Proof.Machine.execQosBudgetSet via p s
  | .svcTest via p => Sys2Proof.Machine.execSvcTest via p s
  | .svcRetire via p => Sys2Proof.Machine.execSvcRetire via p s
  | .svcRemap via p => Sys2Proof.Machine.execSvcRemap via p s
  | .svcClearPoison via p => Sys2Proof.Machine.execSvcClearPoison via p s
  | .fwStage via p => Sys2Proof.Machine.execFwStage via p s
  | .fwActivate via p => Sys2Proof.Machine.execFwActivate via p s
  | .cntConfig via p => Sys2Proof.Machine.execCntConfig via p s
  | .cntSnapshot via p => Sys2Proof.Machine.execCntSnapshot via p s
  | .spdmRelay via p => Sys2Proof.Machine.execSpdmRelay via p s
  | .undefinedOpcode via opcode p => Sys2Proof.Machine.execUndefinedOpcode via opcode p s
  | .replyRingWrite fn => Sys2Proof.Machine.execReplyRingWrite fn s
  | .rd port h => Sys2Proof.Machine.execRd port h s
  | .rdOwn port h => Sys2Proof.Machine.execRdOwn port h s
  | .wr port h data => Sys2Proof.Machine.execWr port h data s
  | .wrRelease port h data => Sys2Proof.Machine.execWrRelease port h data s
  | .atom port h v => Sys2Proof.Machine.execAtom port h v s
  | .acc port h data => Sys2Proof.Machine.execAcc port h data s
  | .recallReceived port h => Sys2Proof.Machine.execRecallReceived port h s
  | .reservedRequest port opcode h => Sys2Proof.Machine.execReservedRequest port opcode h s
  | .reservedResponse port opcode r => Sys2Proof.Machine.execReservedResponse port opcode r s
  | .cplData port r data => Sys2Proof.Machine.execCplData port r data s
  | .cplOk port r => Sys2Proof.Machine.execCplOk port r s
  | .cplErr port r => Sys2Proof.Machine.execCplErr port r s
  | .cplRetry port r => Sys2Proof.Machine.execCplRetry port r s
  | .flitDataRx port f => Sys2Proof.Machine.execFlitDataRx port f s
  | .flitIdleRx port f => Sys2Proof.Machine.execFlitIdleRx port f s
  | .flitCapsRx port f => Sys2Proof.Machine.execFlitCapsRx port f s
  | .flitRetryReqRx port f => Sys2Proof.Machine.execFlitRetryReqRx port f s
  | .flitReservedRx port r => Sys2Proof.Machine.execFlitReservedRx port r s
  | .flitTransmit port => Sys2Proof.Machine.execFlitTransmit port s
  | .capsResendTimer port => Sys2Proof.Machine.execCapsResendTimer port s
  | .retryTimeout port => Sys2Proof.Machine.execRetryTimeout port s
  | .signalDetect port lanes => Sys2Proof.Machine.execSignalDetect port lanes s
  | .trainLock port lanes => Sys2Proof.Machine.execTrainLock port lanes s
  | .trainTimeout port => Sys2Proof.Machine.execTrainTimeout port s
  | .capsTimeout port => Sys2Proof.Machine.execCapsTimeout port s
  | .laneLockLoss port lanes => Sys2Proof.Machine.execLaneLockLoss port lanes s
  | .recoveryLock port lanes => Sys2Proof.Machine.execRecoveryLock port lanes s
  | .recoveryTimeout port => Sys2Proof.Machine.execRecoveryTimeout port s
  | .lockLossHoldExpiry port => Sys2Proof.Machine.execLockLossHoldExpiry port s
  | .lostCleanupComplete port => Sys2Proof.Machine.execLostCleanupComplete port s
  | .lossOfSignal port => Sys2Proof.Machine.execLossOfSignal port s
  | .portEnable port => Sys2Proof.Machine.execPortEnable port s
  | .portDisable port => Sys2Proof.Machine.execPortDisable port s
  | .retrain port => Sys2Proof.Machine.execRetrain port s
  | .peerRequestSend xfer unit => Sys2Proof.Machine.execPeerRequestSend xfer unit s
  | .reqTimeout port tag => Sys2Proof.Machine.execReqTimeout port tag s
  | .retryReissue port tag => Sys2Proof.Machine.execRetryReissue port tag s
  | .tagQuarantineExpiry port tag => Sys2Proof.Machine.execTagQuarantineExpiry port tag s
  | .recallTimeout port tag => Sys2Proof.Machine.execRecallTimeout port tag s
  | .writeBufferDrain stack => Sys2Proof.Machine.execWriteBufferDrain stack s
  | .parityDelta stack => Sys2Proof.Machine.execParityDelta stack s
  | .atomicLineRelease die line => Sys2Proof.Machine.execAtomicLineRelease die line s
  | .commandAgeEscalation stack entry => Sys2Proof.Machine.execCommandAgeEscalation stack entry s
  | .regulatorWindowBoundary reg => Sys2Proof.Machine.execRegulatorWindowBoundary reg s
  | .spareSlotRelease reg hub => Sys2Proof.Machine.execSpareSlotRelease reg hub s
  | .budgetRebalance => Sys2Proof.Machine.execBudgetRebalance s
  | .holdLimitExpiry held => Sys2Proof.Machine.execHoldLimitExpiry held s
  | .fetchDispatch die => Sys2Proof.Machine.execFetchDispatch die s
  | .fetchComplete f => Sys2Proof.Machine.execFetchComplete f s
  | .fetchFailed f reason => Sys2Proof.Machine.execFetchFailed f reason s
  | .victimSelection die => Sys2Proof.Machine.execVictimSelection die s
  | .writebackReadoutComplete page => Sys2Proof.Machine.execWritebackReadoutComplete page s
  | .writebackCommit page => Sys2Proof.Machine.execWritebackCommit page s
  | .frameZeroing die => Sys2Proof.Machine.execFrameZeroing die s
  | .regionFillComplete region => Sys2Proof.Machine.execRegionFillComplete region s
  | .ctxDrainComplete ctx => Sys2Proof.Machine.execCtxDrainComplete ctx s
  | .tablePublish region group => Sys2Proof.Machine.execTablePublish region group s
  | .tableFree id => Sys2Proof.Machine.execTableFree id s
  | .tablePersist id => Sys2Proof.Machine.execTablePersist id s
  | .kernelDispatch => Sys2Proof.Machine.execKernelDispatch s
  | .backfillLimitExpiry => Sys2Proof.Machine.execBackfillLimitExpiry s
  | .endOp engine => Sys2Proof.Machine.execEndOp engine s
  | .loop engine => Sys2Proof.Machine.execLoop engine s
  | .skip engine => Sys2Proof.Machine.execSkip engine s
  | .li engine => Sys2Proof.Machine.execLi engine s
  | .salu engine => Sys2Proof.Machine.execSalu engine s
  | .arg engine => Sys2Proof.Machine.execArg engine s
  | .sin engine => Sys2Proof.Machine.execSin engine s
  | .sout engine => Sys2Proof.Machine.execSout engine s
  | .sacc engine => Sys2Proof.Machine.execSacc engine s
  | .gather engine => Sys2Proof.Machine.execGather engine s
  | .scatterAdd engine => Sys2Proof.Machine.execScatterAdd engine s
  | .wait engine => Sys2Proof.Machine.execWait engine s
  | .vld engine => Sys2Proof.Machine.execVld engine s
  | .vst engine => Sys2Proof.Machine.execVst engine s
  | .valu engine => Sys2Proof.Machine.execValu engine s
  | .vfma engine => Sys2Proof.Machine.execVfma engine s
  | .vsfu engine => Sys2Proof.Machine.execVsfu engine s
  | .vred engine => Sys2Proof.Machine.execVred engine s
  | .vbcast engine => Sys2Proof.Machine.execVbcast engine s
  | .vcvt engine => Sys2Proof.Machine.execVcvt engine s
  | .mzero engine => Sys2Proof.Machine.execMzero engine s
  | .mmac engine => Sys2Proof.Machine.execMmac engine s
  | .mst engine => Sys2Proof.Machine.execMst engine s
  | .fence engine => Sys2Proof.Machine.execFence engine s
  | .streamComplete engine tag => Sys2Proof.Machine.execStreamComplete engine tag s
  | .engineFailure engine => Sys2Proof.Machine.execEngineFailure engine s
  | .hashStart region => Sys2Proof.Machine.execHashStart region s
  | .publishHashComplete region => Sys2Proof.Machine.execPublishHashComplete region s
  | .xferStart engine => Sys2Proof.Machine.execXferStart engine s
  | .xferUnitComplete xfer unit => Sys2Proof.Machine.execXferUnitComplete xfer unit s
  | .refresh stack pc bank => Sys2Proof.Machine.execRefresh stack pc bank s
  | .tempSensorRead stack temp => Sys2Proof.Machine.execTempSensorRead stack temp s
  | .scrubRowRead stack pc found lines lapEnd => Sys2Proof.Machine.execScrubRowRead stack pc found lines lapEnd s
  | .scrubLate stack => Sys2Proof.Machine.execScrubLate stack s
  | .ceReport stack pc f met => Sys2Proof.Machine.execCeReport stack pc f met s
  | .caParityError stack pc pcLine resends => Sys2Proof.Machine.execCaParityError stack pc pcLine resends s
  | .writeCrcError stack pc pcLine resends => Sys2Proof.Machine.execWriteCrcError stack pc pcLine resends s
  | .freezeLimitExpiry stack pc => Sys2Proof.Machine.execFreezeLimitExpiry stack pc s
  | .pcLoopbackResult stack pc pass => Sys2Proof.Machine.execPcLoopbackResult stack pc pass s
  | .rebuildComplete u => Sys2Proof.Machine.execRebuildComplete u s
  | .stackFailure stack => Sys2Proof.Machine.execStackFailure stack s
  | .flushCyclesExpiry fls => Sys2Proof.Machine.execFlushCyclesExpiry fls s
  | .programComplete fls => Sys2Proof.Machine.execProgramComplete fls s
  | .programFailure fls member => Sys2Proof.Machine.execProgramFailure fls member s
  | .flashRelocation fls die block => Sys2Proof.Machine.execFlashRelocation fls die block s
  | .patrolRead fls die block retried => Sys2Proof.Machine.execPatrolRead fls die block retried s
  | .eraseComplete fls die block => Sys2Proof.Machine.execEraseComplete fls die block s
  | .eraseFailure fls die block member => Sys2Proof.Machine.execEraseFailure fls die block member s
  | .flashDieLost die => Sys2Proof.Machine.execFlashDieLost die s
  | .flsDieLost fls => Sys2Proof.Machine.execFlsDieLost fls s
  | .supplyHigh vin => Sys2Proof.Machine.execSupplyHigh vin s
  | .supplyOvervoltage vin => Sys2Proof.Machine.execSupplyOvervoltage vin s
  | .supplySag vin => Sys2Proof.Machine.execSupplySag vin s
  | .supplyHoldup vin => Sys2Proof.Machine.execSupplyHoldup vin s
  | .supplyUndervoltage vin => Sys2Proof.Machine.execSupplyUndervoltage vin s
  | .supplyRecovery vin => Sys2Proof.Machine.execSupplyRecovery vin s
  | .journalFlush => Sys2Proof.Machine.execJournalFlush s
  | .journalFlushComplete => Sys2Proof.Machine.execJournalFlushComplete s
  | .powerEvaluation pin temps => Sys2Proof.Machine.execPowerEvaluation pin temps s
  | .fastLimit power => Sys2Proof.Machine.execFastLimit power s
  | .safeCapRelease => Sys2Proof.Machine.execSafeCapRelease s
  | .thermalTrip sensor => Sys2Proof.Machine.execThermalTrip sensor s
  | .railsGood addr => Sys2Proof.Machine.execRailsGood addr s
  | .perstNRelease => Sys2Proof.Machine.execPerstNRelease s
  | .perstNAssert => Sys2Proof.Machine.execPerstNAssert s
  | .configSpaceReady => Sys2Proof.Machine.execConfigSpaceReady s
  | .bootStageEnd outcome => Sys2Proof.Machine.execBootStageEnd outcome s
  | .detectNoSignalTimeout port => Sys2Proof.Machine.execDetectNoSignalTimeout port s
  | .linkTrainingStageEnd => Sys2Proof.Machine.execLinkTrainingStageEnd s
  | .fuseBlow => Sys2Proof.Machine.execFuseBlow s
  | .fuseBlowComplete => Sys2Proof.Machine.execFuseBlowComplete s
  | .heartbeatTimeout proc cause crashLoop => Sys2Proof.Machine.execHeartbeatTimeout proc cause crashLoop s
  | .procRestartComplete proc => Sys2Proof.Machine.execProcRestartComplete proc s
  | .hullMonitorTimeout => Sys2Proof.Machine.execHullMonitorTimeout s
  | .fatalCondition cond => Sys2Proof.Machine.execFatalCondition cond s
  | .activateVerifyComplete => Sys2Proof.Machine.execActivateVerifyComplete s
  | .activateQuiesced => Sys2Proof.Machine.execActivateQuiesced s
  | .activateWaitExpiry => Sys2Proof.Machine.execActivateWaitExpiry s
  | .quiesceLimitExpiry => Sys2Proof.Machine.execQuiesceLimitExpiry s
  | .activateSwitchComplete => Sys2Proof.Machine.execActivateSwitchComplete s
  | .getVersion t => Sys2Proof.Machine.execGetVersion t s
  | .getCapabilities t version => Sys2Proof.Machine.execGetCapabilities t version s
  | .negotiateAlgorithms t version asym hash meas => Sys2Proof.Machine.execNegotiateAlgorithms t version asym hash meas s
  | .getDigests t version => Sys2Proof.Machine.execGetDigests t version s
  | .getCertificate t version slot offset length => Sys2Proof.Machine.execGetCertificate t version slot offset length s
  | .challenge t version slot summary nonce => Sys2Proof.Machine.execChallenge t version slot summary nonce s
  | .getMeasurements t version index signed nonce => Sys2Proof.Machine.execGetMeasurements t version index signed nonce s
  | .respondIfReady t version => Sys2Proof.Machine.execRespondIfReady t version s
  | .spdmUnsupportedRequest t version code => Sys2Proof.Machine.execSpdmUnsupportedRequest t version code s
  | .setEndpointId eid => Sys2Proof.Machine.execSetEndpointId eid s
  | .getEndpointId => Sys2Proof.Machine.execGetEndpointId s
  | .getMctpVersionSupport => Sys2Proof.Machine.execGetMctpVersionSupport s
  | .getMessageTypeSupport => Sys2Proof.Machine.execGetMessageTypeSupport s
  | .mctpOtherType ty => Sys2Proof.Machine.execMctpOtherType ty s
  | .getIdent => Sys2Proof.Machine.execGetIdent s
  | .getTemps first count => Sys2Proof.Machine.execGetTemps first count s
  | .getPower => Sys2Proof.Machine.execGetPower s
  | .getFru offset length => Sys2Proof.Machine.execGetFru offset length s
  | .getBoot => Sys2Proof.Machine.execGetBoot s
  | .getFatal index => Sys2Proof.Machine.execGetFatal index s
  | .vendorUnsupportedCommand code => Sys2Proof.Machine.execVendorUnsupportedCommand code s
  | .alertResponse => Sys2Proof.Machine.execAlertResponse s
  | .vfFlr n => Sys2Proof.Machine.execVfFlr n s
  | .pfFlr => Sys2Proof.Machine.execPfFlr s
  | .flrComplete fn => Sys2Proof.Machine.execFlrComplete fn s
  | .vfEnableClear => Sys2Proof.Machine.execVfEnableClear s
  | .hotReset => Sys2Proof.Machine.execHotReset s
  | .bmeClear fn => Sys2Proof.Machine.execBmeClear fn s
  | .bmeSet fn => Sys2Proof.Machine.execBmeSet fn s
  | .memorySpaceDisable fn => Sys2Proof.Machine.execMemorySpaceDisable fn s
  | .d3hotEntry => Sys2Proof.Machine.execD3hotEntry s
  | .d3hotExit => Sys2Proof.Machine.execD3hotExit s
  | .pmeTurnOff => Sys2Proof.Machine.execPmeTurnOff s
  | .pmeEvent src => Sys2Proof.Machine.execPmeEvent src s
  | .attnButtonPress => Sys2Proof.Machine.execAttnButtonPress s
  | .hostCompletion fn tag status data => Sys2Proof.Machine.execHostCompletion fn tag status data s
  | .completionTimeout fn slot => Sys2Proof.Machine.execCompletionTimeout fn slot s
  | .hostTagQuarantineExpiry fn slot => Sys2Proof.Machine.execHostTagQuarantineExpiry fn slot s
  | .memRd dpa tag => Sys2Proof.Machine.execMemRd dpa tag s
  | .memSpecRd dpa tag => Sys2Proof.Machine.execMemSpecRd dpa tag s
  | .memInv dpa tag => Sys2Proof.Machine.execMemInv dpa tag s
  | .memWr dpa tag data => Sys2Proof.Machine.execMemWr dpa tag data s
  | .memWrPoison dpa tag data => Sys2Proof.Machine.execMemWrPoison dpa tag data s
  | .memWrPtl dpa tag enables data => Sys2Proof.Machine.execMemWrPtl dpa tag enables data s
  | .cxlOtherOpcode opcode => Sys2Proof.Machine.execCxlOtherOpcode opcode s
  | .hepHwinCommit => Sys2Proof.Machine.execHepHwinCommit s
  | .hepRplCommit fn => Sys2Proof.Machine.execHepRplCommit fn s
  | .qosCommit => Sys2Proof.Machine.execQosCommit s
  | .gnmCommit die => Sys2Proof.Machine.execGnmCommit die s
  | .flsCommit fls => Sys2Proof.Machine.execFlsCommit fls s
  | .registerWrite space fn offset size value => Sys2Proof.Machine.execRegisterWrite space fn offset size value s
  | .svcTestComplete u r => Sys2Proof.Machine.execSvcTestComplete u r s
  | .counterOverflow blk inst ctr => Sys2Proof.Machine.execCounterOverflow blk inst ctr s
  | .periodicSnapshot => Sys2Proof.Machine.execPeriodicSnapshot s
  | .apertureSlotWrite fn offset bytes => Sys2Proof.Machine.execApertureSlotWrite fn offset bytes s
  | .memoryDieFailure die => Sys2Proof.Machine.execMemoryDieFailure die s
  | .supplyHighExit vin => Sys2Proof.Machine.execSupplyHighExit vin s
  | .flushDomainPowerLoss => Sys2Proof.Machine.execFlushDomainPowerLoss s
  | .cxlTableAccess entry => Sys2Proof.Machine.execCxlTableAccess entry s
  | .doeDiscovery index => Sys2Proof.Machine.execDoeDiscovery index s

end Sys2Proof.Machine
end

