-- ==== Sys2Proof/Machine/RegRead.lean ====
section
/-!
DEFINITION. What a read of a register returns (R4, R6, R7, R351-R355): the current value, zero for WO fields, reserved bits and offsets
that name no register, the shadow copy for C fields and the values in force for the ACTIVE registers. The table of commands has no row
for a read: a read changes no register (log 118).
-/

namespace Sys2Proof.Machine

/-- The 64 bits of a register word, or nothing where the offset names no register, which reads as zero (R352). -/
abbrev RegWord := Option Nat

/-- A register word from its fields: the lowest bit, the width and the value of each; all other bits are reserved and read as zero
(R7). -/
def fields (l : List (Nat × Nat × Nat)) : RegWord := some (l.foldr (fun e a => (e.2.2 % 2 ^ e.2.1) <<< e.1 + a) 0)

/-- A field of one bit. -/
def flagAt (k : Nat) (b : Bool) : Nat × Nat × Nat := (k, 1, b2n b)

/-- A register that holds a whole bit vector. -/
def whole {n : Nat} (v : BitVec n) : RegWord := some v.toNat

/-- The 64-bit word `i` of a register of several. -/
def wordOf {n : Nat} (v : BitVec n) (i : Nat) : RegWord := some (v.toNat >>> (64 * i) % 2 ^ 64)

/-- The 64-bit word of a register of several whose fields lie in words. -/
def pickWord (l : List RegWord) (i : Nat) : RegWord := (l[i]?).join

/-! ## GLB, PMC, CNT, FW, SEC (chapters 14-18) -/

def State.readGlb (s : State) (o : Nat) : RegWord :=
  if o = 0x000 then whole s.ident
  else if o = 0x008 then fields [flagAt 0 s.pmc.ready, flagAt 1 s.pmc.fatal, (4, 4, s.pmc.stage)]
  else if o = 0x100 then fields [(0, 32, s.elog.sel)]
  else if o = 0x108 then fields [(0, 32, s.elog.next), flagAt 32 !s.elog.prior.isEmpty]
  else if 0x120 ≤ o && o < 0x140 then wordOf (s.elog.get s.elog.sel) ((o - 0x120) / 8)
  else if 0x200 ≤ o && o < 0x400 then wordOf ((s.elog.prior[(o - 0x200) / 32]?).getD 0) (o % 32 / 8)
  else none

/-- The Chord clock in MHz, the fabric clock in MHz and CHORD_ISSUE at a level (R400). -/
def levelClocks (level : Nat) : Nat × Nat × Nat :=
  (match level with | 0 => 2100 | 1 => 1800 | 2 => 1500 | _ => 1200,
   if 6 ≤ level then 1600 else 2000, if level = 7 then 2 else if level = 6 then 1 else 0)

/-- PMC (chapter 16). -/
def State.readPmc (s : State) (o : Nat) : RegWord :=
  let p := s.pmc
  let c := levelClocks p.level
  if o = 0x00 then fields [(0, 11, p.cap)]
  else if o = 0x08 then
    fields [(0, 16, p.vin), (16, 11, p.pin), (32, 13, s.hFrac), (45, 3, p.level), flagAt 48 p.sag, flagAt 49 p.holdup
            , flagAt 50 p.emergency, flagAt 51 p.safeCap, flagAt 52 p.overvolt]
  else if o = 0x10 then fields [(0, 12, c.1), (16, 12, c.2.1), (32, 2, c.2.2)]
  else if o = 0x18 then whole p.err
  else if o = 0x20 then fields [(0, 8, p.irqMask.toNat), (8, 11, p.irqVec)]
  else if o = 0x28 then fields [(0, 3, p.lastOff), (8, 7, p.offSensor)]
  else if 0x100 ≤ o && o < 0x100 + 8 * 69 then
    let i := (o - 0x100) / 8
    fields [(0, 8, tget 0 p.temps i), (8, 8, tget 0 p.tempMax i)]
  else none

def State.readCnt (s : State) (o : Nat) : RegWord :=
  let t := s.cnt
  if o = 0x00 then fields [(12, 52, t.autoBase)]
  else if o = 0x08 then fields [flagAt 0 t.autoOn, (1, 3, t.log2Slots), (16, 48, t.period)]
  else if o = 0x10 then fields [(0, 32, t.written), (32, 16, t.skipped), flagAt 48 t.skipSeen]
  else none

/-- FW_STATUS.PHASE. -/
def FwPhase.code : FwPhase → Nat
  | .idle => 0
  | .verifying => 0
  | .waiting => 1
  | .quiescing => 2
  | .switching => 3

def State.readFw (s : State) (o : Nat) : RegWord :=
  let t := s.fw
  if o = 0x00 then
    fields [(0, 1, t.activeBank), flagAt 1 t.complete, flagAt 2 (t.phase != .idle), (3, 2, t.phase.code), flagAt 5 t.resetPending
            , flagAt 6 t.revertOk, (8, 26, t.stagedBytes)]
  else if o = 0x08 then fields [(0, 32, t.active.version), (32, 32, if t.complete then t.stagedImage.version else 0)]
  else if o = 0x10 then fields [(0, 48, t.waitReg)]
  else if o = 0x18 then fields [(0, 48, t.quiesceLimit)]
  else if o = 0x20 then whole t.err
  else if 0x100 ≤ o && o < 0x100 + 8 * 11 then
    let p := s.proc ((o - 0x100) / 8)
    fields [(0, 2, if p.halted then 2 else b2n p.restarting), (4, 4, p.cause), (8, 8, p.restarts)]
  else none

/-- SEC. Production parts have debug locked (R374). -/
def State.readSec (s : State) (o : Nat) : RegWord :=
  if o = 0x00 then fields [(0, 7, s.fw.fused), (8, 7, s.fw.active.svn), (16, 7, s.fw.pendingFloor)]
  else if o = 0x08 then fields [(0, 64, serial)]
  else if o = 0x10 then fields [(0, 1, 1)]
  else none

/-! ## Function blocks (chapters 02, 03, 06, 14, 17) -/

/-- The registers of every function block; C fields read as last written (R6). -/
def State.readFnBlock (s : State) (fn o : Nat) : RegWord :=
  let f := s.fn fn
  let g := f.ring
  if o = 0x000 then fields [(0, 8, fn)]
  else if o = 0x008 then whole s.ident
  else if o = 0x100 then fields [(12, 52, g.baseSh.toNat)]
  else if o = 0x108 then whole g.ctrlSh
  else if o = 0x110 then whole g.prod
  else if o = 0x118 then whole g.cons
  else if o = 0x128 then whole g.ctrl
  else if o = 0x130 then fields [(0, 16, g.held.length), (16, 16, g.dropped), flagAt 32 g.dropSeen]
  else if o = 0x140 then fields [(0, 13, f.derate), flagAt 16 f.qosChanged, (32, 11, f.qosVec), flagAt 43 f.qosIrq]
  else if o = 0x150 then
    fields [(0, 11, (f.reads.filter fun e => e.2.use != .quarantined).length), flagAt 16 f.paused, (32, 16, f.late), flagAt 48 f.lateSeen]
  else if o = 0x160 then whole f.errEvent
  else if 0x200 ≤ o && o < 0x400 then wordOf (tget 0 f.errRing ((o - 0x200) / 32)) (o % 32 / 8)
  else none

/-- A word of a HEP_HWIN entry: the shadow in words 0-2, what is in force in word 3. -/
def State.readHwin (s : State) (i word : Nat) : RegWord :=
  let h := tget {} s.hep.hwin i
  let on := tget {} s.hep.hwinOn i
  match word with
  | 0 => fields [flagAt 0 h.valid, flagAt 1 h.rd, flagAt 2 h.wr, (3, 5, h.cls), (8, 12, h.ctx), (32, 32, h.pages)]
  | 1 => fields [(16, 26, h.dpaPage)]
  | 2 => fields [(0, 32, h.handle), (32, 32, h.offset)]
  | _ => fields [(0, 33, on.zaPage), flagAt 33 on.w.valid, flagAt 34 on.w.rd, flagAt 35 on.w.wr]

/-- The registers that the PF's block alone has. -/
def State.readPfBlock (s : State) (o : Nat) : RegWord :=
  let h := s.hep
  if 0x2000 ≤ o && o < 0x2800 then s.readHwin ((o - 0x2000) / 32) (o % 32 / 8)
  else if o = 0x2808 then fields [(0, 8, h.hwinStatus), (8, 6, h.hwinEntry)]
  else if o = 0x3000 then
    fields [(0, 16, h.staleCpl), (16, 16, h.ptlDropped), (32, 16, h.cxlRefused), flagAt 48 h.ptlSeen, flagAt 49 h.refusedSeen]
  else if o = 0x3008 then fields [(0, 16, h.portWake.toNat), flagAt 16 h.btnWake]
  else s.readFnBlock 0 o

/-- The quota table (02). -/
def State.readQuota (s : State) (o : Nat) : RegWord :=
  let n := o / 32
  let f := s.fn n
  if 256 ≤ n then none
  else if o % 32 = 0 then fields [(0, 12, f.maxCtx), (32, 26, f.hbmQuota)]
  else if o % 32 = 8 then fields [(0, 32, f.tierQuota)]
  else if o % 32 = 16 then fields [(0, 12, s.ctxsUsed n), (32, 26, s.hbmUsed n)]
  else fields [(0, 32, s.tierUsed n)]

/-- An MSI-X table and its pending bits. -/
def State.readMsix (s : State) (fn o : Nat) : RegWord := wordOf (tget msixEntry0 (s.fn fn).msix (o / 16)) (o % 16 / 8)
def State.readPba (s : State) (fn o : Nat) : RegWord :=
  fields (((s.fn fn).pba.filter fun v => v / 64 = o / 8).map fun v => (v % 64, 1, 1))

/-! ## CTL, ports (chapters 04, 06, 10) -/

def State.readQos (s : State) (o : Nat) : RegWord :=
  let q := s.qos
  if o = 0x00 then whole q.cfgSh
  else if o = 0x08 then whole q.tanSh
  else if o = 0x18 then whole q.cfg
  else if o = 0x20 then whole q.tan
  else if o = 0x28 then fields [(0, 16, s.deliverable), (16, 13, q.derate)]
  else none

def State.readDispatch (s : State) (o : Nat) : RegWord :=
  let d := s.disp
  if o = 0x00 then fields [(0, 32, d.backfill), (32, 8, d.engineCap)]
  else if o = 0x08 then fields [(0, 11, (d.runs.filter Run.queued).length), (16, 8, (d.runs.filter (·.started)).length)]
  else none

/-- LNK_PORT_STATUS.STATE. -/
def PortSt.code : PortSt → Nat
  | .off => 0
  | .detect => 1
  | .train => 2
  | .caps => 3
  | .active => 4
  | .recovery => 5
  | .versionMismatch => 6
  | .lost => 7

def State.readPort (s : State) (p o : Nat) : RegWord :=
  let t := s.port p
  if o = 0x00 then fields [flagAt 0 t.enable, (2, 2, t.maxWidth), (16, 16, t.retryTimeout)]
  else if o = 0x08 then
    fields [(0, 4, t.st.code), (4, 3, ((List.range 4).filter t.lanes.getLsbD).length), (8, 4, t.laneOk.toNat), (12, 8, t.partnerVersion.toNat)
            , (20, 2, t.partnerRole.toNat), (32, 16, t.partnerDev.toNat), (48, 16, t.linkUps)]
  else if o = 0x10 then fields [(0, 32, t.reqTimeout), (32, 32, t.recallTimeout)]
  else if o = 0x18 then whole t.err
  else if o = 0x20 then fields [(0, 4, t.lossReason), (16, 17, t.leasesRevoked), (33, 31, t.lossCount)]
  else none

/-! ## Memory dies, Chord dies, directory dies, FLS dies (chapters 06-08, 10, 12, 13) -/

/-- MEM_PC_STATE.STATE. -/
def PcSt.code : PcSt → Nat
  | .running => 0
  | .frozen => 1
  | .retiring => 2
  | .retired => 3

def State.readStack (s : State) (k o : Nat) : RegWord :=
  let t := s.stack k
  if o < 0x200 then
    let p := s.pc k (o / 8)
    fields [(0, 3, p.st.code), flagAt 3 p.laneFault, (4, 6, p.faultPin), (12, 4, p.freezeCount), (32, 32, p.ceCount)]
  else if o < 0x210 then wordOf t.snapshot ((o - 0x200) / 8)
  else if o = 0x300 then fields [flagAt 0 t.scrubOn, (8, 48, t.minLap)]
  else if o = 0x308 then fields [(0, 48, t.maxLap)]
  else if o = 0x310 then fields [(0, 48, t.lastLap.toNat), (48, 16, t.lapCount)]
  else if o = 0x318 then fields [(0, 32, t.lapLines), (32, 32, t.lastLines)]
  else if o = 0x320 then fields [(0, 2, t.band), (8, 8, t.temp), (16, 16, t.switches)]
  else if 0x400 ≤ o && o < 0x480 then
    let e := tget {} t.remap ((o - 0x400) / 8)
    fields [flagAt 0 e.valid, flagAt 1 e.pending, (2, 6, e.pc), (8, 25, e.pcLine), (33, 4, e.slot)]
  else if o = 0x500 then
    fields [(0, 2, t.st), (8, 7, t.running), (16, 5, 16 - (t.remap.filter (·.2.valid)).length), (32, 32, t.spareFree)]
  else if o = 0x508 then fields [(0, 32, t.remaining), (32, 32, t.degraded)]
  else if o = 0x510 then whole t.err
  else if o = 0x518 then whole t.errLog
  else none

/-- FCT. A step decodes and encodes whole blocks, so between steps the decode queue is empty and nothing is pinned (log 67). -/
def State.readFct (s : State) (die o : Nat) : RegWord :=
  let t := s.mem die
  if o = 0x00 then fields [(0, 7, 0), (8, 9, t.cache.length), (17, 9, 0), (32, 7, s.builds die)]
  else if o = 0x08 then fields [(0, 3, t.tanReserve), flagAt 3 t.sampleEn]
  else if o = 0x10 then whole t.fctErr
  else if o = 0x18 then whole t.fctLog
  else none

/-- QOS_CLASS_STAT. AVG_LAT is the integer part of an average with 16 fractional bits (R139). -/
def State.readMeas (s : State) (die o : Nat) : RegWord :=
  let t := s.mem die
  if o = 0 then fields [(0, 4, t.shift)]
  else if 0x100 ≤ o && o < 0x300 then
    let c := (o - 0x100) / 16
    if o % 16 = 0 then fields [(0, 32, tget 0 t.avg c / 2 ^ 16), (32, 6, s.effPriority die c)] else fields [(0, 48, tget 0 t.missed c)]
  else none

def State.readChd (s : State) (d o : Nat) : RegWord :=
  let t := s.chd d
  let map (p : Engine → Bool) : RegWord := fields ((List.range 38).map fun e => flagAt e (p (s.engine (38 * d + e))))
  if o = 0x00 then map (·.inService)
  else if o = 0x08 then map fun e => e.run.isSome
  else if o = 0x10 then whole t.err
  else if o = 0x18 then whole t.log
  else if o = 0x20 then fields [(0, 56, t.la)]
  else none

/-- The GNM registers at reset, as they read on the Z2520-H. -/
def gnmReset (o : Nat) : RegWord :=
  if o = 0x00 then fields [(0, 32, 0x00061A80)]
  else if o = 0x08 || o = 0x18 then fields [(0, 26, 0x10000), (32, 26, 0x20000)]
  else if 0x1000 ≤ o && o < 0x2000 && o % 16 = 0 then fields [(0, 26, 0x3FFFFFF)]
  else none

def State.readGnm (s : State) (d o : Nat) : RegWord :=
  let t := s.dirDie d
  if s.variantH then gnmReset o
  else if o = 0x00 then fields [(0, 32, t.holdLimit)]
  else if o = 0x08 then fields [(0, 26, t.lowSh), (32, 26, t.highSh)]
  else if o = 0x18 then fields [(0, 26, t.low), (32, 26, t.high)]
  else if o = 0x20 then fields [(0, 26, s.freeFrames d), flagAt 26 t.pressure, (32, 26, t.cacheFrames)]
  else if o = 0x28 then
    fields [(0, 26, s.heldPages d)
            , (32, 26, (s.dir.filter fun e => pageDir e.1 == d && (e.2.st == .dirty || e.2.st == .writingBack)).length)]
  else if 0x1000 ≤ o && o < 0x2000 then
    let n := (o - 0x1000) / 16
    if o % 16 = 0 then fields [(0, 26, tget 0x3FFFFFF t.heldMax n), (32, 26, s.fnHeld d n)] else fields [(0, 26, s.fnResident d n)]
  else none

/-- The highest erase count of an FLS die's blocks, and the sum of all. -/
def Fls.wear (t : Fls) : Nat × Nat := t.blocks.foldl (fun a e => (max a.1 e.2.erases, a.2 + e.2.erases)) (0, 0)

/-- FLS. FREE_BLOCKS has 16 bits for up to 131,072 stripe blocks: beyond 65,535 it reads `free`, a free value. PE_AVG and LIFE_USED are
rounded down (log 144). The dies of a Z2520-H are in reset. -/
def State.readFls (s : State) (d o free : Nat) : RegWord :=
  let t := s.fls d
  let n := 131072 - systemTotal - (t.blocks.filter fun e => !e.2.free).length
  let w := t.wear
  if o = 0x00 then whole t.cfgSh
  else if o = 0x10 then whole t.cfg
  else if o = 0x18 then
    if s.variantH then fields []
    else
      fields [(0, 2, if t.lost then 2 else b2n t.stopped), flagAt 2 t.lowSpare, flagAt 3 t.worn, (16, 16, if n < 65536 then n else free)
              , (32, 32, t.spare)]
  else if o = 0x20 then fields [(0, 48, t.pagesWritten)]
  else if o = 0x28 then fields [(0, 16, w.2 / 131072), (16, 16, w.1), (32, 8, min 255 (w.1 * 100 / 7000))]
  else if o = 0x30 then whole t.err
  else if o = 0x38 then whole t.errLog
  else if 0x100 ≤ o && o < 0x160 then fields [(0, 16, 0xFFFF - tget 0 t.diesOut ((o - 0x100) / 8))]
  else none

/-! ## Counter pages (R429, R434-R437) -/

/-- The counter page of an instance, at 0xF000 of its slot. Counters that the model does not follow read `free` (log 20). -/
def State.readCounters (s : State) (blk inst o free : Nat) : RegWord :=
  let i := instOf blk inst
  let win (p : Nat) : RegWord :=
    let w := tget {} s.cnt.wins p
    if o % 16 = 0 then fields [(0, 32, w.inShare), (32, 32, w.spare)] else fields [(0, 48, w.windows)]
  if 0xF000 ≤ o && o < 0xF080 then
    let k := (o - 0xF000) / 16
    let c := tget {} s.cnt.p (8 * i + k)
    if o % 16 = 0 then fields [(0, 48, if c.active && eventOpen blk c.event then free else c.value)]
    else fields [(0, 16, c.event), (16, 8, c.owner), flagAt 24 c.active, flagAt 25 c.ovf]
  else if 0xF100 ≤ o && o < 0xF120 then
    let f := (o - 0xF100) / 8
    fields [(0, 48, if fixedOpen blk f then free else tget 0 s.cnt.f (4 * i + f))]
  else if 0xF140 ≤ o && o < 0xF150 then wordOf (tget 0 s.cnt.samples i) ((o - 0xF140) / 8)
  else if 0xF160 ≤ o && o < 0xF170 then
    let m := tget {} s.cnt.marks i
    if o % 16 = 0 then fields [(0, 32, m.value.toNat)] else fields [(0, 48, m.at_.toNat), (48, 16, m.count)]
  else if blk = 0x08 && 0xF200 ≤ o && o < 0xF240 then win (4 * inst + (o - 0xF200) / 16)
  else if blk = 0x01 && 0xF200 ≤ o && o < 0xF210 then win 16
  else none

/-- A VF's counter page: CNT_OWN, one entry for each counter the function owns. -/
def State.readOwn (s : State) (fn o free : Nat) : RegWord :=
  match s.cnt.p.find? fun e => e.2.active && e.2.owner == fn && e.2.ownIdx == o / 64 with
  | none => none
  | some (key, c) =>
    let i := key / 8
    match o % 64 / 8 with
    | 0 => fields [(0, 8, i / 16), (8, 8, i % 16), (16, 3, key % 8), flagAt 19 true, flagAt 20 c.ovf]
    | 1 => fields [(0, 48, if eventOpen (i / 16) c.event then free else c.value)]
    | 2 => wordOf c.last 0
    | 3 => wordOf c.last 1
    | _ => none

/-! ## BAR0 (R351-R355) -/

/-- The block code and the instance whose slot of PF BAR0 this is (R353, R429). -/
def slotInst (slot : Nat) : Option (Nat × Nat) :=
  match slot with
  | 0x00 => some (0x00, 0)
  | 0x10 => some (0x01, 0)
  | 0x20 => some (0x02, 0)
  | 0x21 => some (0x03, 0)
  | 0x22 => some (0x04, 0)
  | 0x23 => some (0x05, 0)
  | 0x24 => some (0x06, 0)
  | 0x25 => some (0x07, 0)
  | n =>
    let c := n / 16
    let i := n % 16
    if 0x10 ≤ c && c ≤ 0x16 then
      let blk := [0x08, 0x0A, 0x0B, 0x0C, 0x0D, 0x0E, 0x0F].getD (c - 0x10) 0
      if c = 0x10 then (if i < 4 then some (0x08, i) else if 8 ≤ i && i < 10 then some (0x09, i - 8) else none)
      else if i < instances false blk then some (blk, i) else none
    else none

/-- A VF's BAR0 (R354); the PF's view of it shows no MSI-X structure (R353). -/
def State.readVfBar (s : State) (fn o free : Nat) (view : Bool) : RegWord :=
  if 0x8000 ≤ o && o < 0x8400 then (if view then none else s.readMsix fn (o - 0x8000))
  else if 0x9000 ≤ o && o < 0x9008 then (if view then none else s.readPba fn (o - 0x9000))
  else if !s.pmc.ready then none
  else if 0xF000 ≤ o then s.readOwn fn (o - 0xF000) free
  else if o < 0x2000 then s.readFnBlock fn o
  else none

/-- An instance's own registers, below its counter page. -/
def State.readInst (s : State) (blk inst o free : Nat) : RegWord :=
  match blk with
  | 0x00 => s.readGlb o
  | 0x01 => s.readPfBlock o
  | 0x02 => s.readQos o
  | 0x03 => s.readDispatch o
  | 0x04 => s.readPmc o
  | 0x05 => s.readCnt o
  | 0x06 => s.readSec o
  | 0x07 => s.readFw o
  | 0x08 => s.readPort (4 * inst + o / 0x4000) (o % 0x4000)
  | 0x0A => s.readStack (2 * inst + o / 0x8000) (o % 0x8000)
  | 0x0B => s.readFct inst o
  | 0x0C => s.readMeas inst o
  | 0x0D => s.readChd inst o
  | 0x0E => s.readGnm inst o
  | 0x0F => s.readFls inst o free
  | _ => none

/-- The CXL component registers (R353, R357, R359): the header of the capability array, RAS at 0x100 of the CXL.mem registers, Link at
0x180, HDM Decoder at 0x200 (log 16). The Link capability is CXL's, which the spec does not restate: `free`. -/
def State.readCxl (s : State) (o free : Nat) : RegWord :=
  let h := s.hep
  if o = 0x1000 then fields [(0, 16, 1), (16, 4, 1), (20, 4, 1), (24, 8, 3), (32, 16, 2), (48, 4, 3), (52, 12, 0x100)]
  else if o = 0x1008 then fields [(0, 16, 4), (16, 4, 2), (20, 12, 0x180), (32, 16, 5), (48, 4, 3), (52, 12, 0x200)]
  else if o = 0x1100 then fields [(0, 32, h.rasStatus.toNat), (32, 32, h.rasMask.toNat)]
  else if o = 0x1108 then fields [(0, 32, h.rasSev.toNat)]
  else if o = 0x1110 then fields [(32, 6, (h.rasFirst.map (·.1)).getD 0)]
  else if 0x1118 ≤ o && o < 0x1158 then
    wordOf (match h.rasFirst with | some (_, n) => Config.cxlHeader n | none => 0) ((o - 0x1118) / 8)
  else if 0x1180 ≤ o && o < 0x1200 then some (free % 2 ^ 64)
  else if o = 0x1200 then fields [(8, 2, 3), (12, 1, 1), flagAt 33 h.hdm.enable]
  else if o = 0x1210 then fields [(28, 36, h.hdm.base)]
  else if o = 0x1218 then fields [(28, 36, h.hdm.size)]
  else if o = 0x1220 then
    fields [(0, 4, h.hdm.ig), (4, 4, h.hdm.iw), flagAt 8 h.hdm.lock, flagAt 9 h.hdm.committed, flagAt 10 h.hdm.committed, flagAt 11 h.hdm.refused]
  else none

/-- The aligned 64-bit word at an offset of PF BAR0. Before READY only GLB_IDENT, GLB_STATUS and the MSI-X structures respond (R355). -/
def State.readPfBar (s : State) (off free : Nat) : RegWord :=
  let slot := off / 65536
  let o := off % 65536
  if slot = 0x08 then (if o < 0x8000 then s.readMsix 0 o else none)
  else if slot = 0x09 then (if o < 0x100 then s.readPba 0 o else none)
  else if !s.pmc.ready then (if slot = 0 && o < 0x10 then s.readGlb o else none)
  else if slot = 0x0A then s.readCxl o free
  else if slot = 0x11 then s.readQuota o
  else if 0x201 ≤ slot && slot < 0x300 then s.readVfBar (slot - 0x200) o free true
  else
    match slotInst slot with
    | none => none
    | some (blk, inst) => if 0xF000 ≤ o then s.readCounters blk inst o free else s.readInst blk inst o free

/-- What a BAR0 read answers: the bytes asked for, or an Unsupported Request. -/
inductive BarAnswer where
  | value (v : Nat)
  | unsupported
deriving DecidableEq, Repr

/-- A BAR0 read of a function (R351, R352, R355): its answer, and the state, in which at most AER has logged something and a free
value has been used. -/
def State.readBar (s : State) (fn off size : Nat) : BarAnswer × State :=
  let bad : Bool := !s.barOpen fn || !(size = 4 || size = 8) || off % size ≠ 0 || (fn ≠ 0 && 65536 ≤ off)
  if bad then (.unsupported, s.barWrite fn fun s => s.aerUnc fn 20 false)
  else
    let f := s.takeFree
    let o := off / 8 * 8
    let w := if fn = 0 then s.readPfBar o f.1 else s.readVfBar fn o f.1 false
    (.value ((w.getD 0) >>> (8 * (off % 8)) % 2 ^ (8 * size)), f.2)

/-! ## Configuration space (R347, R350, R372) -/

/-- A live context that is not durable: a tenant's, for READY_TO_REMOVE (log 143). -/
def Ctx.tenant (x : Ctx) : Bool := x.st != .free && !x.durable

/-- READY_TO_REMOVE (R372): no tenant context, no dirty page of a durable context, no flash program in flight. -/
def State.readyToRemove (s : State) : Bool :=
  !(s.ctxs.any fun e => e.2.tenant)
    && !(s.dir.any fun e => (e.2.st == .dirty || e.2.st == .writingBack) &&
        (match s.pageRegion e.1 with | some (_, r) => r.sealedBy != 0 || (s.ctx r.ctx).durable | none => false))
    && (List.range 2).all fun d => (s.fls d).programming.isEmpty

/-- The header of a structure of the standard list (an identifier, the next structure) or of the extended list (version and a longer
pointer): where the next lies, software finds by walking the lists (R348). -/
def capHeader (fn id : Nat) : List (Nat × Nat × Nat) := [(0, 8, id), (8, 8, Config.nextCap fn id)]
def extHeader (fn id version : Nat) : List (Nat × Nat × Nat) := [(0, 16, id), (16, 4, version), (20, 12, Config.nextCap fn (id + 256))]

/-- The two header words of a DVSEC: vendor, revision, length, and its ID. -/
def dvsecHeader (fn vendor rev len id : Nat) : List (Nat × Nat × Nat) :=
  [(0, 16, 0x23), (16, 4, 1), (20, 12, Config.nextCap fn (0x10000 + 16 * vendor + id)), (32, 16, vendor), (48, 4, rev), (52, 12, len)]

/-- The type 0 header (R347, R350). A VF's identifiers read as ones, its BARs as zeros. -/
def State.readHeader (s : State) (fn o : Nat) : RegWord :=
  let f := s.fn fn
  let h := s.hep
  let vf := fn ≠ 0
  match o with
  | 0x00 =>
    fields [(0, 16, if vf then 0xFFFF else 0x1F3D), (16, 16, if vf then 0xFFFF else 0x2520), flagAt 33 f.mse, flagAt 34 f.bme, (52, 1, 1)]
  | 0x08 => fields [(0, 8, if s.stepB0 then 0xB0 else 0xA0), (8, 24, 0x058000)]
  | 0x10 => if vf then none else fields [(2, 1, 1), (26, 38, h.bar0)]
  | 0x18 => if vf then none else fields [(2, 2, 3), (20, 44, h.bar2)]
  | 0x28 => fields [(32, 16, 0x1F3D), (48, 16, s.subsystemId)]
  | 0x30 => fields [(32, 8, 0x40)]
  | _ => none

/-- The PCI Express capability (R342, R344, R346, R348, R368): FLR, payloads of 512 B, 10-bit tags, ASPM L1 with an exit latency of 4 to
8 us, completion timeout ranges A to D. -/
def State.readPcie (s : State) (fn o : Nat) : RegWord :=
  let f := s.fn fn
  let h := s.hep
  let own (v : Nat) : Nat := if fn = 0 then v else 0
  match o with
  | 0x00 => fields (capHeader fn 0x10 ++ [(16, 4, 2), (32, 3, 2), (37, 1, 1), (47, 1, 1), (60, 1, 1)])
  | 0x08 =>
    fields [flagAt 4 f.relaxed, (5, 3, own h.mps), (12, 3, own h.mrrs), flagAt 21 (f.outstanding != 0), (32, 4, 6), (36, 6, 16), (42, 2, 2)
            , (47, 3, 3)]
  | 0x10 => fields [(0, 2, own h.aspm), (16, 4, h.linkSpeed), (20, 6, h.linkWidth)]
  | 0x20 => fields [(32, 4, 15), (36, 1, 1), (48, 2, 3)]
  | 0x28 => fields [(0, 4, f.ctoEnc), flagAt 4 f.ctoDis, flagAt 12 f.tag10]
  | _ => none

/-- Advanced Error Reporting (R370). -/
def State.readAer (s : State) (fn o : Nat) : RegWord :=
  let f := s.fn fn
  let log : BitVec 128 := if f.aerHdrs = 0 then 0 else Config.tlpHeader fn f.aerHdrs
  match o with
  | 0x00 => fields (extHeader fn 0x01 2 ++ [(32, 32, f.aerUnc.toNat)])
  | 0x08 => fields [(0, 32, f.aerUncMask.toNat), (32, 32, f.aerUncSev.toNat)]
  | 0x10 => fields [(0, 32, f.aerCor.toNat), (32, 32, f.aerCorMask.toNat)]
  | 0x18 => fields [(0, 5, f.aerFirst.getD 0), (32, 32, log.toNat)]
  | 0x20 => fields [(0, 64, log.toNat >>> 32)]
  | 0x28 => fields [(0, 32, log.toNat >>> 96)]
  | _ => none

/-- SR-IOV (R350). -/
def State.readSriov (s : State) (o : Nat) : RegWord :=
  let h := s.hep
  match o with
  | 0x00 => fields (extHeader 0 0x10 1)
  | 0x08 => fields [flagAt 0 h.vfEnable, flagAt 4 h.ariHier, (32, 16, 255), (48, 16, 255)]
  | 0x10 => fields [(0, 16, h.numVfs), (32, 16, 1), (48, 16, 1)]
  | 0x18 => fields [(16, 16, 0x2521), (32, 32, 0x1F)]
  | 0x20 => fields [(0, 32, h.pageSize), (34, 1, 1), (48, 16, h.vfBar0)]
  | 0x28 => fields [(0, 32, h.vfBar0 / 2 ^ 16), (34, 2, 3), (48, 16, h.vfBar2)]
  | 0x30 => fields [(0, 32, h.vfBar2 / 2 ^ 16)]
  | _ => none

/-- The DVSECs of CXL: for CXL Devices (R357: CXL.io and CXL.mem, one HDM decoder, a range of 4 TiB, an activation timeout of code 2), for
the Flex Bus Port, and the Register Locator, which names BAR0 at 0x000A_0000 (R348, R353). -/
def State.readCxlDvsec (s : State) (space : RegSpace) (o : Nat) : RegWord :=
  let h := s.hep
  match space, o with
  | .cxlDvsec, 0x00 => fields (dvsecHeader 0 0x1E98 3 0x3C 0)
  | .cxlDvsec, 0x08 => fields [(17, 2, 3), (20, 2, 1), (33, 1, 1), flagAt 34 h.memEnable]
  | .cxlDvsec, 0x18 => fields [(0, 32, 0x400), flagAt 32 h.cfgReady, flagAt 33 s.pmc.ready, (45, 3, 2)]
  | .flexBusDvsec, 0x00 => fields (dvsecHeader 0 0x1E98 2 0x20 7)
  | .flexBusDvsec, 0x08 => fields [(0, 16, 7), (17, 2, 3)]
  | .regLocator, 0x00 => fields (dvsecHeader 0 0x1E98 0 0x14 8)
  | .regLocator, 0x08 => fields [(0, 16, 8), (40, 8, 1), (48, 16, 0x000A)]
  | _, _ => none

/-- The registers of configuration space (R342-R350, R357, R370, R372; the layouts are the standards': log 16). BTN_LEVEL after a press is
a free value, `free`: no event tells when the button is let go (log 81). -/
def State.readConfig (s : State) (space : RegSpace) (fn o free : Nat) : RegWord :=
  let f := s.fn fn
  let h := s.hep
  let pf (w : RegWord) : RegWord := if fn = 0 then w else none
  match space, o with
  | .bar0, _ => none
  | .header, o => s.readHeader fn o
  | .pmCap, 0 =>
    pf (fields (capHeader fn 0x01 ++ [(16, 16, 0xC003), (32, 2, if h.d3hot then 3 else 0), (35, 1, 1), flagAt 40 h.pmeEn, flagAt 47 h.pmeStatus]))
  | .msixCap, 0 =>
    fields (capHeader fn 0x11 ++ [(16, 11, msixVectors fn - 1), flagAt 30 f.msixMask, flagAt 31 f.msixOn
                                  , (32, 32, if fn = 0 then 0x00080000 else 0x8000)])
  | .msixCap, 8 => fields [(0, 32, if fn = 0 then 0x00090000 else 0x9000)]
  | .pcieCap, o => s.readPcie fn o
  | .device3Cap, 0 => fields (extHeader fn 0x2F 1 ++ [(35, 2, 3)])
  | .device3Cap, 8 => fields [flagAt 2 f.tag14]
  | .aerCap, o => s.readAer fn o
  | .ariCap, 0 => fields (extHeader fn 0x0E 1)
  | .serialCap, 0 => pf (fields (extHeader fn 0x03 1 ++ [(32, 32, serial)]))
  | .serialCap, 8 => pf (fields [(0, 32, serial >>> 32)])
  | .sriovCap, o => pf (s.readSriov o)
  | .serviceDvsec, 0 => pf (fields (dvsecHeader 0 0x1F3D 0 0x14 1))
  | .serviceDvsec, 8 => pf (fields [(0, 16, 1), (32, 16, h.msvcCtrl.toNat)])
  | .serviceDvsec, 0x10 =>
    pf (fields [flagAt 0 h.btnPressed, flagAt 1 (h.btnLevel && free % 2 = 1), flagAt 2 s.readyToRemove, (8, 8, h.pressCount)])
  | space, o => pf (s.readCxlDvsec space o)

end Sys2Proof.Machine
end

