-- ==== Sys2Proof/Safety.lean ====
section
/-!
DEFINITION. The terms that statements use: which pieces of the state a command leaves as they were, the canonical form of
the stored data, and when a Fraist packet is accepted and its command starts.
-/

namespace Sys2Proof.Machine

/-! ## Frames -/

/-- The pieces of the state: one per field. -/
inductive Piece where
  | pending | fresh | out | variantH | stepB0 | nextId | nextKey | pmc | fw | hep
  | fns | ctxs | sealed | regions | subs | seqs | cmds | ports | held | leases
  | hbm | staged | flash | wbuf | atoms | qos | dir | dirs | groups | tables
  | refRecs | mems | engines | chds | disp | xfers | hbmStk | repairs | repairRows | flss
  | fmap | images | saved | journals | elog | cnt | keys
deriving DecidableEq, Repr

/-- Two states agree on a piece. -/
def Piece.same : Piece → State → State → Prop
  | .pending, s, t => t.pending = s.pending
  | .fresh, s, t => t.fresh = s.fresh
  | .out, s, t => t.out = s.out
  | .variantH, s, t => t.variantH = s.variantH
  | .stepB0, s, t => t.stepB0 = s.stepB0
  | .nextId, s, t => t.nextId = s.nextId
  | .nextKey, s, t => t.nextKey = s.nextKey
  | .pmc, s, t => t.pmc = s.pmc
  | .fw, s, t => t.fw = s.fw
  | .hep, s, t => t.hep = s.hep
  | .fns, s, t => t.fns = s.fns
  | .ctxs, s, t => t.ctxs = s.ctxs
  | .sealed, s, t => t.sealed = s.sealed
  | .regions, s, t => t.regions = s.regions
  | .subs, s, t => t.subs = s.subs
  | .seqs, s, t => t.seqs = s.seqs
  | .cmds, s, t => t.cmds = s.cmds
  | .ports, s, t => t.ports = s.ports
  | .held, s, t => t.held = s.held
  | .leases, s, t => t.leases = s.leases
  | .hbm, s, t => t.hbm = s.hbm
  | .staged, s, t => t.staged = s.staged
  | .flash, s, t => t.flash = s.flash
  | .wbuf, s, t => t.wbuf = s.wbuf
  | .atoms, s, t => t.atoms = s.atoms
  | .qos, s, t => t.qos = s.qos
  | .dir, s, t => t.dir = s.dir
  | .dirs, s, t => t.dirs = s.dirs
  | .groups, s, t => t.groups = s.groups
  | .tables, s, t => t.tables = s.tables
  | .refRecs, s, t => t.refRecs = s.refRecs
  | .mems, s, t => t.mems = s.mems
  | .engines, s, t => t.engines = s.engines
  | .chds, s, t => t.chds = s.chds
  | .disp, s, t => t.disp = s.disp
  | .xfers, s, t => t.xfers = s.xfers
  | .hbmStk, s, t => t.hbmStk = s.hbmStk
  | .repairs, s, t => t.repairs = s.repairs
  | .repairRows, s, t => t.repairRows = s.repairRows
  | .flss, s, t => t.flss = s.flss
  | .fmap, s, t => t.fmap = s.fmap
  | .images, s, t => t.images = s.images
  | .saved, s, t => t.saved = s.saved
  | .journals, s, t => t.journals = s.journals
  | .elog, s, t => t.elog = s.elog
  | .cnt, s, t => t.cnt = s.cnt
  | .keys, s, t => t.keys = s.keys

/-- Every piece. -/
def Piece.all : List Piece :=
  [.pending, .fresh, .out, .variantH, .stepB0, .nextId, .nextKey, .pmc, .fw, .hep, .fns, .ctxs] ++
  [.sealed, .regions, .subs, .seqs, .cmds, .ports, .held, .leases, .hbm, .staged, .flash, .wbuf] ++
  [.atoms, .qos, .dir, .dirs, .groups, .tables, .refRecs, .mems, .engines, .chds, .disp, .xfers] ++
  [.hbmStk, .repairs, .repairRows, .flss, .fmap, .images, .saved, .journals, .elog, .cnt, .keys]

/-- Every piece but those listed. -/
def Piece.allBut (l : List Piece) : List Piece := Piece.all.filter fun f => !l.contains f

/-- What serving the requests that wait may change: what they read and write, the pages that they make move, the routes that wait for
them, and their answers. -/
def Piece.served : List Piece :=
  [.fresh, .out, .nextId, .fns, .regions, .cmds, .ports, .held, .leases, .hbm, .wbuf, .atoms, .dir, .dirs, .groups, .tables] ++
  [.refRecs, .mems, .chds, .disp, .hbmStk, .flss, .elog, .cnt]

/-- From `s` to `t` no piece changes but those listed. -/
structure Frame (l : List Piece) (s t : State) : Prop where
  same : ∀ f : Piece, l.contains f = false → f.same s t

/-! ## Stored data -/

/-- The content that a journal record keeps is in the canonical form of a memory. -/
def JRec.wf (r : JRec) : Prop := Memory.wf r.data.mem = true

/-- The stored bytes of HBM, of the images read out, of the committed flash images and of those that the records of the journal keep
are in the canonical form of a memory. -/
def State.memWf (s : State) : Prop :=
  Memory.wf s.hbm.mem = true ∧ Memory.wf s.staged.mem = true ∧ Memory.wf s.flash.mem = true ∧
    (∀ e, e ∈ s.saved → e.2.wf) ∧ ∀ r, r ∈ s.journals → r.wf

/-! ## Bounds of the command unit -/

/-- No account holds more than its 64 credits (R60). -/
def State.credits (s : State) : Prop := ∀ acct : Nat, s.outstanding acct ≤ 64

/-- The refusals that a function's buffer holds (R62). -/
def State.refusals (s : State) (fn : Nat) : Nat := ((s.fn fn).ring.held.filter fun r => r.cmd.isNone).length

/-- No function's refusal buffer holds more than its 256 places (R62). -/
def State.bufferOk (s : State) : Prop := ∀ fn : Nat, s.refusals fn ≤ 256

/-- No region changes its route (R44). -/
def State.still (s : State) : Prop := ∀ e, e ∈ s.regions → e.2.moving = none

/-! ## Fraist commands -/

/-- The catalogue entry, the path and the packet of a command that a Fraist packet of a defined opcode brings (R72-R81). -/
def fraistOf : Instr → Option (CmdSpec × Via × Packet)
  | .identify via p => some (specIdentify, via, p)
  | .mark via p => some (specMark, via, p)
  | .ctxCreate via p => some (specCtxCreate, via, p)
  | .ctxDestroy via p => some (specCtxDestroy, via, p)
  | .ctxBindPort via p => some (specCtxBindPort, via, p)
  | .winSet via p => some (specWinSet, via, p)
  | .regionAlloc via p => some (specRegionAlloc, via, p)
  | .regionFree via p => some (specRegionFree, via, p)
  | .regionAttrReport via p => some (specRegionAttr, via, p)
  | .regionAttrSetLease via p => some (specRegionAttr, via, p)
  | .regionAttrSetMissPolicy via p => some (specRegionAttr, via, p)
  | .hintPrefetch via p => some (specHintPrefetch, via, p)
  | .hintPin via p => some (specHintPin, via, p)
  | .hintUnpin via p => some (specHintUnpin, via, p)
  | .hintEvict via p => some (specHintEvict, via, p)
  | .ckptCommit via p => some (specCkpt, via, p)
  | .xferCopy via p => some (specXferCopy, via, p)
  | .xferMove via p => some (specXferMove, via, p)
  | .xferFill via p => some (specXferFill, via, p)
  | .xferReduce via p => some (specXferReduce, via, p)
  | .xferAtom via p => some (specXferAtom, via, p)
  | .tableBuild via p => some (specTableBuild, via, p)
  | .tableRetire via p => some (specTableRetire, via, p)
  | .codecSet via p => some (specCodecSet, via, p)
  | .kernelLoad via p => some (specKernelLoad, via, p)
  | .kernelRun via p => some (specKernelRun, via, p)
  | .kernelAbort via p => some (specKernelAbort, via, p)
  | .sharePublish via p => some (specPublish, via, p)
  | .shareSubscribe via p => some (specSubscribe, via, p)
  | .shareUnsubscribe via p => some (specUnsubscribe, via, p)
  | .shareWithdraw via p => some (specWithdraw, via, p)
  | .qosClassSet via p => some (specQosClassSet, via, p)
  | .qosBudgetSet via p => some (specQosBudgetSet, via, p)
  | .svcTest via p => some (specSvcTest, via, p)
  | .svcRetire via p => some (specSvcRetire, via, p)
  | .svcRemap via p => some (specSvcRemap, via, p)
  | .svcClearPoison via p => some (specSvcClear, via, p)
  | .fwStage via p => some (specFwStage, via, p)
  | .fwActivate via p => some (specFwActivate, via, p)
  | .cntConfig via p => some (specCntConfig, via, p)
  | .cntSnapshot via p => some (specCntSnapshot, via, p)
  | .spdmRelay via p => some (specSpdmRelay, via, p)
  | _ => none

/-- The packet reaches the command unit: the state in which it is checked, after it has crossed HUB0 (R16). -/
def State.atUnit (s : State) (via : Via) (p : Packet) : Option State :=
  if s.reaches via then (s.arrive via).map (·.cmdHop p) else none

/-- Checks 1 to 3 of R61 pass, after check 1 of R107 on a link: the version, the path and the context. -/
def State.allows (s : State) (spec : CmdSpec) (via : Via) (p : Packet) : Bool :=
  !s.unbound via && p.version == 0x10 && spec.allowed s via p

/-- Check 4 of R61 holds: a credit is free, the scheduler core runs, and no activation holds new commands (R60, R71, R392). -/
def State.credit (s : State) (via : Via) (p : Packet) : Bool :=
  s.outstanding (acctOf (s.viaFn via) p) < 64 && s.scRunning && !s.fwHolds 4

/-- The offset that check 5 of R61 names, if a field is at fault (R55). -/
def State.badField (s : State) (spec : CmdSpec) (via : Via) (p : Packet) : Option Nat :=
  let a := s.admission spec via p
  check5 p spec.defined (spec.faults a.2 p ++ spec.fnFaults a.1.fn p)

/-- The state in which the command of a packet starts, and the command: the packet has reached the unit, checks 1 to 5 of R61 have
passed, and nothing makes it wait (R54, R66, R71, R367, R412). -/
def State.begun (s : State) (spec : CmdSpec) (via : Via) (p : Packet) : Option (State × Cmd) :=
  match s.atUnit via p with
  | none => none
  | some s =>
    let a := s.admission spec via p
    if s.allows spec via p && s.credit via p && (s.badField spec via p).isNone && a.2.mayStart a.1
        && (pCtx p = 0 || a.2.isActive (pCtx p)) then
      some (a.2.modCmd a.1.id fun c => { c with st := .running }, { a.1 with st := .running })
    else none

/-- A reply says what R63 has it say: fields copied from the packet, and those given. -/
def Reply.tells (r : Reply) (opcode : Nat) (p : Packet) (context : BitVec 16) (status result detail : Nat) : Prop :=
  r.opcode = opcode ∧ r.tag = p.tag ∧ r.context = context ∧ r.status = status ∧ r.result = BitVec.ofNat 128 result ∧ r.detail = detail

/-- From `s` to `t` events were counted: counters, what an overflow raises, and nothing else (R436). -/
structure Counted (s t : State) : Prop where
  fns   : ∀ n, t.fn n = { s.fn n with pba := (t.fn n).pba }
  frame : Frame [.out, .fns, .cnt] s t

/-- From `s` to `t` a reply joined those of its path, and functions and ports are otherwise as before: it is the last of the
replies that wait for the function's ring, or the message queued last on the port, CPL_DATA on VC2 with DKIND 2, which frees the
packet's tag when it is sent (R57, R62, R64, R103, R108). -/
def Joined (s t : State) (via : Via) (r : Reply) : Prop :=
  match via with
  | .aperture fn => t.ports = s.ports ∧ ∀ n, t.fn n =
      if n = fn.val then { s.fn n with ring := { (s.fn n).ring with held := (s.fn n).ring.held ++ [r] } } else s.fn n
  | .link port ctx tag => t.fns = s.fns ∧ ∃ m : TxMsg, m.vc = 2 ∧ m.cmd = r.cmd ∧ m.frees = some tag.toNat ∧
      m.slots = [rspSlot 0x20 2 ctx.toNat tag.toNat 0 0 2 0 true 0 0, BitVec.ofNat 256 (leNat (r.bytes false))] ∧
      ∀ n, t.port n = if n = port.val then { s.port n with txOrd := (s.port n).txOrd ++ [m] } else s.port n

/-- From `s` to `t` a reply crossed HUB0, where it is counted, and joined those of its path (R16, R432). -/
def Handed (s t : State) (via : Via) (r : Reply) : Prop := ∃ v, Counted s v ∧ Joined v t via r

/-- From `s` to `t` a packet was refused at checks 1 to 4 with a status, RESULT and DETAIL (R61, R62): no command is outstanding for it,
and nothing but the answer changed. -/
structure Refused (s t : State) (via : Via) (opcode : Nat) (p : Packet) (status result detail : Nat) : Prop where
  reply : ∃ r : Reply, r.tells opcode p p.context status result detail ∧ r.cmd = none ∧ Handed s t via r
  cmds  : t.cmds = s.cmds
  frame : Frame [.fresh, .out, .fns, .ports, .cnt] s t

/-- From `s` to `t` a command was answered with a status, RESULT and DETAIL, and nothing but the answer changed. -/
structure Answered (s t : State) (c : Cmd) (context : BitVec 16) (status result detail : Nat) : Prop where
  cmds  : t.cmds = s.cmds.map fun e => if e.id == c.id then { e with st := .replied } else e
  reply : ∃ r : Reply, r.tells c.opcode c.p context status result detail ∧ r.cmd = some c.id ∧ Handed s t c.via r
  frame : Frame [.fresh, .out, .cmds, .fns, .ports, .cnt] s t

/-- A flit that a port sends: its bytes with CRC and FEC, and what each of its lanes carries of them (R84, R88-R91). -/
def State.flitOut (s : State) (port ftype seq slotcode : Nat) (payload : BitVec 1792) (credits : List (Nat × Nat)) : Out :=
  let p := s.port port
  let b := flitBytes (p.header ftype seq slotcode credits) payload
  .flit port ftype b (dealt p.scrambler (leBytes 256 b.toNat) (laneCount p.lanes))

/-- A hint names one page, which its context's own region holds, whose entry is in the entry cache and can be read; no request waits
(R74, R161, R180). -/
def State.onePage (s : State) (p : Packet) (page : Nat) (w : Window) (r : Region) : Prop :=
  par p 16 4 = 1 ∧ s.held = [] ∧ (s.dirDie (pageDir page)).cache.contains (page / 16) = true ∧ (s.ent page).bad = false ∧
    w.sub = none ∧ r.ctx = pCtx p ∧ r.owned = true

/-- From `s` to `t` a command has begun to read its host data, `len` bytes from an address: its buffer is empty, and where its
function may use the host and has a slot free the first read goes out, up to the first boundary of its longest request (R342, R343,
R365). -/
structure ReadsHost (s t : State) (c : Cmd) (addr len : Nat) : Prop where
  buffer : ∀ e, e ∈ t.cmds → e.id = c.id → e.data = List.replicate len 0 ∧ e.st = .running
  others : ∀ e, e ∈ s.cmds → e.id ≠ c.id → e ∈ t.cmds
  asks   : s.hostOk c.fn = true → (s.fn c.fn).reads.length < 2 ^ (s.fn c.fn).slotBits →
    (s.fns.map fun e => e.2.outstanding).sum < 4096 →
    ∃ tag, Out.hostRead c.fn tag addr (min len (s.hep.readMax - addr % s.hep.readMax)) ∈ t.out
  fns    : ∀ n, n ≠ c.fn → t.fn n = { s.fn n with pba := (t.fn n).pba }
  frame  : Frame [.fresh, .out, .fns, .fw, .cmds, .cnt] s t

/-! ## Pliust -/

/-- An engine of a running device stands at an instruction of a loaded kernel, and its run goes on: the engine, the run, the kernel and
the word (R247, R248, R256, R262). -/
structure Stands (s : State) (i : Slot4) (op : Nat) : Prop where
  runs   : s.running = true
  engine : s.engine i.e = i.g
  run    : i.g.run.bind s.run? = some i.r
  good   : i.r.failed = none
  going  : i.g.ended = false
  loaded : loadedHandle i.r.handle = true
  kernel : s.kernelOf i.r.handle i.r.ctx = some i.k
  word   : ∃ w : BitVec 64, i.k.code[i.g.pc]? = some w ∧ w.toNat = i.w
  code   : bits i.w 7 0 = op

/-- From `s` to `t` the instruction completed with its engine as `g`, which goes on `skip` instructions after the next: events were
counted, and nothing else changed but what is listed (R262, R263). -/
structure Retired (s t : State) (i : Slot4) (g : Engine) (skip : Nat) (also : List Piece) : Prop where
  engine : t.engine i.e = g.goto (i.g.pc + 1 + skip) 8
  others : ∀ n, n ≠ i.e → t.engine n = s.engine n
  fns    : ∀ n, t.fn n = { s.fn n with pba := (t.fn n).pba }
  frame  : Frame ([.fresh, .out, .fns, .engines, .cnt] ++ also) s t

/-- In `t` the run of an instruction has failed, or is over with that failure (R256). -/
def RunFails (t : State) (i : Slot4) : Prop := ∀ q, t.run? i.r.id = some q → q.failed.isSome = true

/-! ## Link requests -/

/-- The port sends one message more on the response VC of a request: the last response, with which the tag of the request, until
then outstanding, becomes free again (R103, R104, R108). -/
def Sent (s t : State) (port vc tag : Nat) (slots : List (BitVec 256)) : Prop :=
  (t.port port).tags = tag :: (s.port port).tags ∧
  (if vc = 3 then
    (t.port port).txTan = (s.port port).txTan ++ [{ vc := 3, slots, frees := some tag }] ∧ (t.port port).txOrd = (s.port port).txOrd
  else (t.port port).txOrd = (s.port port).txOrd ++ [{ vc := 1, slots, frees := some tag }] ∧ (t.port port).txTan = (s.port port).txTan)

/-- A request arrives on an ACTIVE port of a running device under a tag that is not outstanding (R85, R108). -/
structure LinkArrives (s : State) (port : Nat) (h : Hdr) : Prop where
  runs  : s.running = true
  up    : (s.port port).st = .active
  fresh : (s.port port).tags.contains h.tag.toNat = false

/-- Check 1 of R107: the context is ACTIVE and bound to the port. -/
def State.linkBound (s : State) (port : Nat) (h : Hdr) : Bool :=
  s.isActive h.ctx.toNat && bit (s.ctx h.ctx.toNat).bind.toNat port

/-- A request meets the checks of R107: where it leads, and the region. -/
structure LinkOk (s : State) (port : Nat) (op : ReqOp) (h : Hdr) (t : Trans) (r : Region) : Prop extends LinkArrives s port h where
  bound   : s.linkBound port h = true
  trans   : s.translate h.ctx.toNat h.la.toNat 1 op.perm false = some t
  region  : s.region? t.region = some r
  shape   : check4 op h = true
  granule : check5Link op h r = true

/-- It goes straight to the memory dies: nothing is held, no region changes its route, its context has allowance at the port's regulator, and its region lies in
pinned space with no lease of another in the way (R111, R112, R123, R147). -/
structure LinkDirect (s : State) (port : Nat) (op : ReqOp) (h : Hdr) (t : Trans) (r : Region) : Prop extends LinkOk s port op h t r where
  quiet  : s.held = []
  still  : s.still
  share  : 0 < ((s.regulator (port / 4)).get h.ctx.toNat).allow
  pinned : r.tiered = false
  lease  : ∀ i l, i < 128 → tfind? s.leases (t.za / 64 + i) = some l → l.port = port ∧ l.ctx = h.ctx.toNat
  room   : op = .rdOwn → s.leases.length < 65536

/-- A line of an uncompressed region reads as it is stored: no record stands against it and no wrong correction is left in it, and the
write buffer holds it, or its unit serves it, no pin of its pseudo-channel has failed and no bit of its stored copy is wrong (R126, R134,
R306-R311, R315, R318-R321). -/
def State.clean (s : State) (line : Nat) : Bool :=
  (tfind? s.hbm.poison line).isNone && tget 0 s.hbm.wrong line = 0 &&
    (s.buffered line || (s.lineAvail line == .ok && !s.laneLost true (s.pcOf line).1 (s.pcOf line).2 && tget 0 s.hbm.flips line = 0))

/-- The write buffer of every memory die's stack takes so many lines more without draining (R302). -/
def State.vacant (s : State) (n : Nat) : Prop := ∀ k, s.bufferLines k + n ≤ 1024

/-! ## Flash -/

/-- No block waits to be relocated on an FLS die (R334, R335). -/
def State.noReloc (s : State) (d : Nat) : Prop := ∀ n : Nat, (s.nand d n).reloc = [] ∧ (s.nand d n).patrol = []

/-- An FLS die programs the stripe wordline of one image, and its die indices have no other work (R331, R334). -/
structure Programs (s : State) (d : Nat) (i : Image) : Prop where
  alone : (s.fls d).programming = [i]
  nand  : ∀ n : Nat, s.nand d n = if n = i.place.die then
    { program := some (i.place.key, i.place.lastWl), suspends := (s.nand d n).suspends } else {}

end Sys2Proof.Machine
end

