-- ==== Sys2Proof/Certificates/Slice0/Obligations.lean ====
section
/-!
DEFINITION. The statements for the provers. In those about Fraist commands `u` and `c` are the state and the command on which the
command starts (`State.begun`): what a packet meets before that, and what an answer is, are statements of their own.
-/

section
open Sys2Proof Sys2Proof.Machine

/-! ## The step and the whole machine -/

/-- A step runs the command at the front of the queue on the state with the queue's rest; on an empty queue the block idles (the
model's choice: log 5). -/
def Obligations.StepRunsFront : Prop :=
  (∀ (c : Instr) (rest : List Instr) (s : State), s.pending = c :: rest → step s = exec c { s with pending := rest }) ∧
  (∀ s : State, s.pending = [] → step s = .next s)

/-- Every command that a message can spell runs; any other is the fault `malformedCommand`, and nothing else faults or is
refused. The model's reading: log 112. -/
def Obligations.WellFormedRuns : Prop :=
  ∀ (i : Instr) (s : State), (i.wellFormed = true → ∃ t, exec i s = .next t) ∧
    (i.wellFormed = false → exec i s = .fault .malformedCommand)

/-- A step takes exactly the front command from the queue; variant and stepping never change. -/
def Obligations.StepTakesOne : Prop :=
  ∀ s t : State, step s = .next t → t.pending = s.pending.tail ∧ t.variantH = s.variantH ∧ t.stepB0 = s.stepB0

/-- Every step keeps the stored data in the canonical form of a memory. -/
def Obligations.StepKeepsMemory : Prop := ∀ s t : State, s.memWf → step s = .next t → t.memWf

/-- No step takes an account above its 64 credits, nor fills a refusal buffer beyond its 256 places (R60, R62). The model's
reading: log 71. -/
def Obligations.StepKeepsBounds : Prop :=
  (∀ s t : State, s.credits → step s = .next t → t.credits) ∧ (∀ s t : State, s.bufferOk → step s = .next t → t.bufferOk)

/-- What reset leaves: an empty queue, a device that does not run yet, every context FREE, every port OFF, the PF's quotas, and
the three bounds. Model's readings: logs 18, 110. -/
def Obligations.ResetState : Prop :=
  State.reset.pending = [] ∧ State.reset.running = false ∧ (∀ c, (State.reset.ctx c).st = .free) ∧
  (∀ p, (State.reset.port p).st = .off ∧ (State.reset.port p).enable = true) ∧
  ((State.reset.fn 0).maxCtx = 0xFFF ∧ (State.reset.fn 0).hbmQuota = 0x3FFFFFF ∧ (State.reset.fn 0).tierQuota = 0xFFFFFFFF) ∧
  (∀ n, n ≠ 0 → (State.reset.fn n).maxCtx = 0 ∧ (State.reset.fn n).hbmQuota = 0 ∧ (State.reset.fn n).tierQuota = 0) ∧
  (∀ n, (State.reset.fn n).ring.prod = 0 ∧ (State.reset.fn n).ring.cons = 0 ∧ (State.reset.fn n).ring.ctrl = 0 ∧
    (State.reset.fn n).ring.base = 0 ∧ (State.reset.fn n).ring.held = []) ∧
  (∀ a, readByte State.reset.hbm.mem a = 0) ∧ State.reset.memWf ∧ State.reset.credits ∧ State.reset.bufferOk

/-! ## Fraist: acceptance, refusal, answers (R52-R66, R108) -/

/-- A packet that does not reach the command unit changes nothing: an aperture without Memory Space Enable, under FLR, of a VF
that is not enabled or in D3hot, a port that is not ACTIVE, a device that does not run. With a full refusal buffer a refused
aperture packet gets no reply, and is counted in DROPPED, which saturates, with DROP_SEEN (R62). The model's reading: log 104. -/
def Obligations.PacketUnanswered : Prop :=
  (∀ (i : Instr) (spec : CmdSpec) (via : Via) (p : Packet) (s : State), fraistOf i = some (spec, via, p) →
      s.reaches via = false → exec i s = .next s) ∧
  (∀ (i : Instr) (spec : CmdSpec) (fn : Fin 256) (p : Packet) (s : State), fraistOf i = some (spec, .aperture fn, p) →
      s.reaches (.aperture fn) = true → 256 ≤ s.refusals fn.val → p.version ≠ 0x10 →
      ∃ t, exec i s = .next t ∧ Frame [.out, .fns, .cnt] s t ∧ (t.fn fn.val).ring.held = (s.fn fn.val).ring.held ∧
        (t.fn fn.val).ring.dropped = min ((s.fn fn.val).ring.dropped + 1) 0xFFFF ∧ (t.fn fn.val).ring.dropSeen = true)

/-- Checks 1 to 3 of R61 in order, on a link after check 1 of R107 (R35): a CMD of a context that is not ACTIVE or not bound to the port
is refused with NO_PERM whatever its packet; a version other than 1.0 with VERSION, and RESULT byte 8 holds 0x10; an opcode that
Fraist 1.0 does not define with BAD_OPCODE, before its path is looked at; a path or CONTEXT that R58 and R59 do not allow with
NO_PERM. No credit is taken, and no command is outstanding. -/
def Obligations.PacketRefused : Prop :=
  (∀ (i : Instr) (spec : CmdSpec) (via : Via) (p : Packet) (s a : State), fraistOf i = some (spec, via, p) → s.atUnit via p = some a →
      (∀ fn, via = .aperture fn → a.refusals fn.val < 256) →
      (a.unbound via = true → ∃ t, exec i s = .next t ∧ Refused a t via spec.opcode p stNoPerm 0 0) ∧
      (a.unbound via = false → p.version ≠ 0x10 → ∃ t, exec i s = .next t ∧ Refused a t via spec.opcode p stVersion 0x10 0) ∧
      (a.unbound via = false → p.version = 0x10 → spec.allowed a via p = false →
        ∃ t, exec i s = .next t ∧ Refused a t via spec.opcode p stNoPerm 0 0)) ∧
  (∀ (via : Via) (o : BitVec 16) (p : Packet) (s a : State), fraistDefined o.toNat = false → s.atUnit via p = some a →
      (∀ fn, via = .aperture fn → a.refusals fn.val < 256) →
      (a.unbound via = true → ∃ t, exec (.undefinedOpcode via o p) s = .next t ∧ Refused a t via o.toNat p stNoPerm 0 0) ∧
      (a.unbound via = false → p.version = 0x10 →
        ∃ t, exec (.undefinedOpcode via o p) s = .next t ∧ Refused a t via o.toNat p stBadOpcode 0 0) ∧
      (a.unbound via = false → p.version ≠ 0x10 →
        ∃ t, exec (.undefinedOpcode via o p) s = .next t ∧ Refused a t via o.toNat p stVersion 0x10 0))

/-- Checks 4 and 5 of R61. Without a credit, or while the scheduler core restarts or an activation holds new commands, the packet
is refused with BUSY, DETAIL 0 while the scheduler core runs. With a field at fault it takes a credit and is answered BAD_PARAM
with an offset in DETAIL that is at fault and below which none is (R55). The model's reading: log 71. -/
def Obligations.PacketTurnedAway : Prop :=
  (∀ (i : Instr) (spec : CmdSpec) (via : Via) (p : Packet) (s a : State), fraistOf i = some (spec, via, p) → s.atUnit via p = some a →
      (∀ fn, via = .aperture fn → a.refusals fn.val < 256) → a.allows spec via p = true → a.credit via p = false →
      ∃ t hint, exec i s = .next t ∧ hint ≤ 50000 ∧ (a.scRunning = true → hint = 0) ∧
        Refused a t via spec.opcode p stBusy 0 hint) ∧
  (∀ (i : Instr) (spec : CmdSpec) (via : Via) (p : Packet) (s a : State) (off : Nat), fraistOf i = some (spec, via, p) →
      s.atUnit via p = some a → a.allows spec via p = true → a.credit via p = true → a.badField spec via p = some off →
      ∃ t, exec i s = .next t ∧ Answered (a.admission spec via p).2 t (a.admission spec via p).1 p.context stBadParam 0 off) ∧
  (∀ (l : List (Nat × Bool)) (off : Nat), lowestBad l = some off ↔ ((off, true) ∈ l ∧ ∀ o, (o, true) ∈ l → off ≤ o))

/-- The start of a command: it takes the next number and a credit of its account, and every path but the port's tag and the
counters is as before. -/
def Obligations.CommandBegins : Prop :=
  ∀ (spec : CmdSpec) (via : Via) (p : Packet) (s u : State) (c : Cmd), s.begun spec via p = some (u, c) →
    c.id = s.nextId ∧ c.via = via ∧ c.p = p ∧ c.opcode = spec.opcode ∧ c.st = .running ∧ c.lost = false ∧ u.nextId = s.nextId + 1 ∧
    c.acct = (if pCtx p = 0 then 4096 + s.viaFn via else pCtx p) ∧ s.outstanding c.acct < 64 ∧
    u.outstanding c.acct = s.outstanding c.acct + 1 ∧ (∀ n, (u.fn n).ring = (s.fn n).ring) ∧
    Frame [.out, .nextId, .fns, .cmds, .cnt, .ports] s u

/-- A link request or a CMD that arrives under a tag already outstanding on its port is discarded without a response and counted
as TAG_REUSE, event 0x14 of LNK; the tag stays outstanding, and what the earlier request holds is as before (R108). -/
def Obligations.TagReuse : Prop :=
  ∀ (port : Fin 16) (h : Hdr) (data : List Line) (ctx : BitVec 12) (p : Packet) (o : BitVec 6) (op : BitVec 16) (i : Instr) (s : State),
    s.running = true → (s.port port.val).st = .active → (s.port port.val).tags.contains h.tag.toNat = true → i.wellFormed = true →
    (i ∈ [Instr.rd port h, .rdOwn port h, .wr port h data, .wrRelease port h (data.headD 0), .atom port h (data.headD 0),
        .acc port h data, .recallReceived port h, .reservedRequest port o h, .undefinedOpcode (.link port ctx h.tag) op p] ∨
      ∃ spec, fraistOf i = some (spec, .link port ctx h.tag, p)) →
    ∃ t, exec i s = .next t ∧ (t.port port.val).tags = (s.port port.val).tags ∧ (t.port port.val).txOrd = (s.port port.val).txOrd ∧
      (t.port port.val).txTan = (s.port port.val).txTan ∧ (t.port port.val).err = orBit (s.port port.val).err 4 ∧
      (∀ k c, k < 8 → c = tget {} s.cnt.p (8 * instOf 0x08 (port.val / 4) + k) → c.active = true → c.event = 0x14 →
        c.admits { port := some port.val } = true →
        (tget {} t.cnt.p (8 * instOf 0x08 (port.val / 4) + k)).value = (c.value + 1) % 2 ^ 48) ∧
      (∀ n, n ≠ port.val → t.port n = s.port n) ∧ Frame [.out, .fns, .ports, .cnt] s t

/-! ## Device, counters and contexts (R26-R38, R72, R73, R429-R442) -/

/-- IDENTIFY answers page 0 with the build, the Fraist version and the function, page 1 with what is free, and changes nothing
else. MARK leaves its value and one more MARK in every instance's record, keeps it as the last one, and answers it in RESULT
bytes 8-11 with a cycle count above it (R442). CNT_CONFIG with an event configures a counter that is free or the function's own,
within the 64 of a VF and its right to count; with event 0 it releases one; every other counter is as before (R433-R435). Model's
readings: logs 20, 63. -/
def Obligations.DeviceCommands : Prop :=
  (∀ (via : Via) (p : Packet) (s u : State) (c : Cmd), s.begun specIdentify via p = some (u, c) →
      ∃ t, exec (.identify via p) s = .next t ∧
        (par p 8 1 = 0 → Answered u t c p.context 0 (u.ident.toNat + 0x10 <<< 64 + c.fn <<< 72) 0) ∧
        (par p 8 1 ≠ 0 → Answered u t c p.context 0
          (u.freePinned + u.freeTierPages <<< 32 + (65536 - u.leases.length) <<< 64 + (262144 - u.entries) <<< 96) 0)) ∧
  (∀ (via : Via) (p : Packet) (s u : State) (c : Cmd), s.begun specMark via p = some (u, c) →
      ∃ t v cyc, exec (.mark via p) s = .next t ∧ cyc < 2 ^ 32 ∧ Answered v t c p.context 0 (par p 8 4 + cyc <<< 32) 0 ∧
        (∀ blk inst, (blk, inst) ∈ allInstances u.variantH →
          (tget {} v.cnt.marks (instOf blk inst)).value = BitVec.ofNat 32 (par p 8 4) ∧
          (tget {} v.cnt.marks (instOf blk inst)).count = ((tget {} u.cnt.marks (instOf blk inst)).count + 1) % 65536) ∧
        v.cnt.mark = BitVec.ofNat 32 (par p 8 4) ∧ (∀ n, v.fn n = { u.fn n with pba := (v.fn n).pba }) ∧
        Frame [.fresh, .out, .fns, .cnt] u v) ∧
  (∀ (via : Via) (p : Packet) (s u : State) (c : Cmd) (key : Nat), s.begun specCntConfig via p = some (u, c) →
      key = 8 * instOf (par p 8 1) (par p 9 1) + par p 10 1 →
      (par p 12 2 = 0 → ((tget {} u.cnt.p key).active = true → (tget {} u.cnt.p key).owner = c.fn ∨ c.fn = 0) →
        ∃ t v, exec (.cntConfig via p) s = .next t ∧ Answered v t c p.context 0 0 0 ∧ tget {} v.cnt.p key = {} ∧
          (∀ k, k ≠ key → tget {} v.cnt.p k = tget {} u.cnt.p k) ∧ v.cnt.f = u.cnt.f ∧ Frame [.cnt] u v) ∧
      (par p 12 2 ≠ 0 → par p 46 2 < msixVectors c.fn → ((tget {} u.cnt.p key).active = true → (tget {} u.cnt.p key).owner = c.fn) →
        (c.fn ≠ 0 → bits (par p 16 1) 1 0 = 1 ∧ par p 17 1 = 1 ∧ u.isActive (par p 18 2) = true ∧ (u.ctx (par p 18 2)).owner = c.fn ∧
          eventHasCtx (par p 8 1) (par p 12 2) = true) →
        (c.fn ≠ 0 → (tget {} u.cnt.p key).active = false → (u.countersOf c.fn).length < 64) →
        ∃ t v, exec (.cntConfig via p) s = .next t ∧ Answered v t c p.context 0 0 0 ∧
          (tget {} v.cnt.p key).event = par p 12 2 ∧ (tget {} v.cnt.p key).owner = c.fn ∧ (tget {} v.cnt.p key).active = true ∧
          (tget {} v.cnt.p key).value = par p 40 6 ∧ (tget {} v.cnt.p key).vec = par p 46 2 ∧
          (∀ k, k ≠ key → tget {} v.cnt.p k = tget {} u.cnt.p k) ∧ v.cnt.f = u.cnt.f ∧ Frame [.cnt] u v))

/-- CNT_SNAPSHOT by an aperture writes one snapshot of at most LEN bytes to the host, for the caller's function and context, and
answers its length; by a link it writes its whole lines through the context's windows, piece by piece, and the command runs on,
or is refused GRANULE (R125, R438-R440). A
counter that overflows is at 0 with OVF, and leaves its sample where it takes one (R436, R437). A periodic snapshot is written to
its slot and counted, or skipped and counted while another is collected or the PF's BME is clear (R441). Model's readings: logs
20, 58. -/
def Obligations.SnapshotsAndOverflows : Prop :=
  (∀ (via : Via) (p : Packet) (s u : State) (c : Cmd), s.begun specCntSnapshot via p = some (u, c) → 64 ≤ par p 16 4 →
      (viaLink via = false → ∃ t v w l, exec (.cntSnapshot via p) s = .next t ∧ Answered v t c p.context 0 l.length 0 ∧
        64 ≤ l.length ∧ l.length ≤ par p 16 4 ∧ l.take 4 = leBytes 4 0x534E4331 ∧ v = w.hostWrite c.fn (pCtx p) (par p 8 8) l ∧
        w.cnt = { u.cnt with snapSeq := (u.cnt.snapSeq + 1) % 2 ^ 32 } ∧ Frame [.fresh, .cnt] u w) ∧
      (viaLink via = true →
        let o := u.snapshot c.fn false false (par p 16 4 / 64 * 64)
        let l := snapLines o.1
        let ps := piecesOf (par p 8 8) l.length
        l.take o.1.length = o.1 ∧ l.length % 64 = 0 ∧ l.length ≤ par p 16 4 ∧
        (u.covered (pCtx p) (par p 8 8) l.length .wr false = true → u.snapGranule (pCtx p) (par p 8 8) l.length = false →
          exec (.cntSnapshot via p) s = .next ((o.2.modCmd c.id fun e => { e with
            aux := ps.length, done := o.1.length, data := ps.flatMap fun e => u.peekPiece (pCtx p) e.1 e.2 }).snapTo c l ps)) ∧
        (u.covered (pCtx p) (par p 8 8) l.length .wr false = true → u.snapGranule (pCtx p) (par p 8 8) l.length = true →
          ∃ t, exec (.cntSnapshot via p) s = .next t ∧ Answered u t c p.context stGranule 0 0))) ∧
  ((∀ (blk inst : BitVec 8) (ctr : Fin 8) (s : State) (key : Nat) (c : Pctr), s.running = true →
      inst.toNat < instances s.variantH blk.toNat → key = 8 * instOf blk.toNat inst.toNat + ctr.val → c = tget {} s.cnt.p key →
      (c.active = false → exec (.counterOverflow blk inst ctr) s = .next s) ∧
      (c.active = true → ∃ t, exec (.counterOverflow blk inst ctr) s = .next t ∧
        tget {} t.cnt.p key = { c with value := 0, ovf := true } ∧ (∀ k, k ≠ key → tget {} t.cnt.p k = tget {} s.cnt.p k) ∧
        (bit c.flags.toNat 3 = true → tget 0 t.cnt.samples (instOf blk.toNat inst.toNat) = (c.last ||| BitVec.ofNat 128 (ctr.val + 8))) ∧
        (bit c.flags.toNat 3 = false → t.cnt.samples = s.cnt.samples) ∧ (bit c.flags.toNat 2 = false → Frame [.cnt] s t) ∧
        t.cnt.f = s.cnt.f ∧ Counted s t)) ∧
    (∀ s : State, s.running = true →
      (s.cnt.autoOn = false ∨ s.hep.d3hot = true → exec .periodicSnapshot s = .next s) ∧
      (s.cnt.autoOn = true → s.hep.d3hot = false →
        ((s.fn 0).bme = false ∨ (∃ c, c ∈ s.cmds ∧ c.opcode = 0x0A01 ∧ c.st = .running) →
          exec .periodicSnapshot s = .next { s with cnt := { s.cnt with skipped := min (s.cnt.skipped + 1) 0xFFFF, skipSeen := true } }) ∧
        ((s.fn 0).bme = true → (∀ c, c ∈ s.cmds → c.opcode = 0x0A01 → c.st ≠ .running) →
          ∃ (w : State) (l : List Byte), exec .periodicSnapshot s = .next ((w.hostWrite 0 0
              (4096 * s.cnt.autoBase + 32768 * (s.cnt.written % 2 ^ s.cnt.log2Slots)) l).modCnt fun t => { t with
                written := (t.written + 1) % 2 ^ 32 }) ∧
            64 ≤ l.length ∧ l.length ≤ 32768 ∧ l.take 4 = leBytes 4 0x534E4331 ∧
            w.cnt = { s.cnt with snapSeq := (s.cnt.snapSeq + 1) % 2 ^ 32 } ∧ Frame [.fresh, .cnt] s w))))

/-- CTX_CREATE within its function's quota makes a FREE number ACTIVE, with a new key in the key slot of that number, no windows and
no bindings, and answers in its CONTEXT; a durable one takes a seal ID and answers it; RESTORE brings back a sealed image with its key, its generation and
its regions (R29, R32, R33, R63). The model's reading: log 35. -/
def Obligations.ContextCreated : Prop :=
  ∀ (via : Via) (p : Packet) (s u : State) (c : Cmd), s.begun specCtxCreate via p = some (u, c) →
    (∃ n, 1 ≤ n ∧ n < 4096 ∧ (u.ctx n).st = .free) →
    (par p 8 1 % 4 = 0 → par p 12 4 = 0 → u.ctxsUsed c.fn < (u.fn c.fn).maxCtx →
      ∃ t v n, exec (.ctxCreate via p) s = .next t ∧ 1 ≤ n ∧ n < 4096 ∧ (u.ctx n).st = .free ∧
        Answered v t c (BitVec.ofNat 16 n) 0 0 0 ∧ v.nextKey = u.nextKey + 1 ∧
        (∀ m, v.ctx m = if m = n then { st := .active, owner := c.fn, key := u.nextKey, nack := decide (par p 9 1 = 1) } else u.ctx m) ∧
        (∀ k, tget 0 v.keys k = if k = n then u.nextKey else tget 0 u.keys k) ∧ Frame [.fresh, .nextKey, .ctxs, .keys] u v) ∧
    (par p 8 1 % 4 = 1 → par p 12 4 = 0 → c.fn = 0 → u.variantH = false → u.durables < 64 → u.ctxsUsed 0 < (u.fn 0).maxCtx →
      ∃ t v n id, exec (.ctxCreate via p) s = .next t ∧ 1 ≤ n ∧ n < 4096 ∧ (u.ctx n).st = .free ∧
        Answered v t c (BitVec.ofNat 16 n) 0 id 0 ∧ v.nextKey = u.nextKey + 1 ∧
        (∀ m, v.ctx m = if m = n then
          { st := .active, key := u.nextKey, nack := decide (par p 9 1 = 1), durable := true, sealId := id } else u.ctx m) ∧
        (∀ k, tget 0 v.keys k = if k = n then u.nextKey else tget 0 u.keys k) ∧ Frame [.fresh, .nextKey, .ctxs, .keys] u v) ∧
    (∀ g, par p 8 1 % 4 = 3 → par p 12 4 ≠ 0 → c.fn = 0 → u.variantH = false → tfind? u.sealed (par p 12 4) = some g →
      ∃ t v n, exec (.ctxCreate via p) s = .next t ∧ 1 ≤ n ∧ n < 4096 ∧ (u.ctx n).st = .free ∧
        Answered v t c (BitVec.ofNat 16 n) 0 (par p 12 4) 0 ∧ v.sealed = tdel u.sealed (par p 12 4) ∧
        (∀ m, v.ctx m = if m = n then
          { st := .active, key := g.key, gen := g.gen, nack := decide (par p 9 1 = 1), durable := true, sealId := par p 12 4 }
          else u.ctx m) ∧
        (∀ i r, i ∈ g.regions → v.region? i = some r → r.ctx = n ∧ r.sealedBy = 0) ∧
        (∀ k, tget 0 v.keys k = if k = n then g.key else tget 0 u.keys k) ∧ Frame [.fresh, .sealed, .ctxs, .regions, .keys] u v)

/-- CTX_DESTROY of the packet's own context makes it DRAINING, and its answer waits for the end of that; of a seal ID it frees
the sealed image and its regions (R29-R33). -/
def Obligations.ContextDestroyed : Prop :=
  ∀ (via : Via) (p : Packet) (s u : State) (c : Cmd), s.begun specCtxDestroy via p = some (u, c) →
    (pCtx p ≠ 0 → par p 8 4 = 0 → ∃ t, exec (.ctxDestroy via p) s = .next t ∧
      (∀ m, t.ctx m = if m = pCtx p then { u.ctx m with st := .draining, sealing := (u.ctx m).durable } else u.ctx m) ∧
      t.sealed = u.sealed ∧ (∀ e, e ∈ t.hep.hwinOn → e.2.w.ctx ≠ pCtx p) ∧
      ((∀ e, e ∈ u.cmds → u.shareWaits e = false) → t.flash = u.flash ∧ t.fmap = u.fmap) ∧
      t.qos = u.qos ∧ t.pmc = u.pmc ∧ t.fw = u.fw) ∧
    (∀ g, pCtx p = 0 → c.fn = 0 → tfind? u.sealed (par p 8 4) = some g → ∃ t v, exec (.ctxDestroy via p) s = .next t ∧
      Answered v t c p.context 0 0 0 ∧ v.sealed = tdel u.sealed (par p 8 4) ∧ (∀ i, i ∈ g.regions → v.region? i = none) ∧
      v.ctxs = u.ctxs ∧ v.qos = u.qos ∧ v.pmc = u.pmc ∧ v.fw = u.fw)

/-- CTX_BIND_PORT sets or clears the bindings of its mask in the named context; the shares of its budget stay until the next
rebalance. WIN_SET without VALID clears the window; with VALID it maps it onto a region of the context that may carry its
permissions: pages, ZA, key slot and generation are the region's. No other window changes (R34, R36, R37, R150). -/
def Obligations.BindingsAndWindows : Prop :=
  (∀ (via : Via) (p : Packet) (s u : State) (c : Cmd), s.begun specCtxBindPort via p = some (u, c) →
      ∃ t v, exec (.ctxBindPort via p) s = .next t ∧ Answered v t c p.context 0 0 0 ∧
        (∀ m, v.ctx m = if m = pCtx p then
          { u.ctx m with bind := if par p 10 1 = 1 then (u.ctx m).bind &&& ~~~BitVec.ofNat 16 (par p 8 2)
                                 else (u.ctx m).bind ||| BitVec.ofNat 16 (par p 8 2) } else u.ctx m) ∧ Frame [.ctxs] u v) ∧
  (∀ (via : Via) (p : Packet) (s u : State) (c : Cmd), s.begun specWinSet via p = some (u, c) →
      (bit (par p 9 1) 0 = false → ∃ t v, exec (.winSet via p) s = .next t ∧ Answered v t c p.context 0 0 0 ∧
        (∀ m w, tget {} (v.ctx m).windows w = if m = pCtx p ∧ w = par p 8 1 then {} else tget {} (u.ctx m).windows w) ∧
        (∀ m, v.ctx m = { u.ctx m with windows := (v.ctx m).windows }) ∧ Frame [.ctxs] u v) ∧
      (∀ i r sub, bit (par p 9 1) 0 = true → u.winTarget (par p 12 4) (pCtx p) = .ok (i, r, sub) →
        u.winRange (pCtx p) (par p 8 1) r (par p 16 4) (par p 20 4) (par p 24 5) = none →
        bits (par p 9 1) 5 1 &&& permsAllowed r sub.isSome = bits (par p 9 1) 5 1 →
        ∃ t v, exec (.winSet via p) s = .next t ∧ Answered v t c p.context 0 0 0 ∧
          (∀ m w, tget {} (v.ctx m).windows w = if m = pCtx p ∧ w = par p 8 1 then
            { valid := true, rd := bit (par p 9 1) 1, wr := bit (par p 9 1) 2, atom := bit (par p 9 1) 3, own := bit (par p 9 1) 4
              krn := bit (par p 9 1) 5, laPage := par p 24 5, pages := par p 20 4, zaPage := r.zaPage + par p 16 4
              keySlot := if r.keySlot = 0 then pCtx p else r.keySlot, gen := r.gen, region := i, sub } else tget {} (u.ctx m).windows w) ∧
          (∀ m, v.ctx m = { u.ctx m with windows := (v.ctx m).windows }) ∧ Frame [.ctxs] u v))

/-! ## Regions (R39-R46, R74, R157, R169-R171, R177) -/

/-- REGION_ALLOC of an admitted attribute word, with room, gives the context's region an unused index and its generation: in
tiered space it is answered at once with the handle and the ZA base, in pinned space its frames are charged to the cache and the
command waits for the fill. REGION_FILL_COMPLETE of a region being filled, once the tier pages fit the smaller cache and no stack of it
has a frozen pseudo-channel (R318), makes it live, and answers the REGION_ALLOC that waits (R39-R43, R157). Model's readings: logs 4, 37. -/
def Obligations.RegionAllocated : Prop :=
  (∀ (via : Via) (p : Packet) (s u : State) (c : Cmd) (attr : BitVec 32) (r : Region), s.begun specRegionAlloc via p = some (u, c) →
      attr = BitVec.ofNat 32 (par p 12 4) →
      r = { ctx := pCtx p, fn := c.fn, attr, pages := par p 8 4, gen := (u.ctx (pCtx p)).gen } →
      attrAllowed u.variantH attr = true → u.noRoom (pCtx p) c.fn r = false →
      (∀ base, (u.placeRegion attr r.pages).1 = some base → (attrTiered attr = true ∨ u.deadStacks { r with zaPage := base } = false) →
        (u.placeRegion attr r.pages).2.pickIndex.1.isSome = true →
        ∃ t v i q, exec (.regionAlloc via p) s = .next t ∧ u.region? i = none ∧ tfind? u.subs i = none ∧ v.region? i = some q ∧
          q.ctx = pCtx p ∧ q.fn = c.fn ∧ q.attr = attr ∧ q.pages = par p 8 4 ∧ q.gen = (u.ctx (pCtx p)).gen ∧ q.zaPage = base ∧
          (∀ j, j ≠ i → v.region? j = u.region? j) ∧
          (∀ m, v.ctx m = if m = pCtx p then { u.ctx m with gen := (u.ctx m).gen + 1 } else u.ctx m) ∧
          (attrTiered attr = true → q.filling = false ∧ Answered v t c p.context 0 (u.handleOf i + (base * 65536) <<< 64) 0 ∧
            Frame [.fresh, .nextKey, .ctxs, .regions, .keys] u v) ∧
          (attrTiered attr = false → q.filling = true ∧ t = v.modCmd c.id (fun e => { e with aux := i }) ∧
            (v.dirDie 0).cacheFrames + (v.dirDie 1).cacheFrames + q.charge = u.cacheTotal ∧
            Frame [.fresh, .nextKey, .ctxs, .regions, .dirs, .hbmStk, .keys] u v))) ∧
  (∀ (region : BitVec 20) (s : State) (r : Region), s.running = true → s.region? region.toNat = some r → r.filling = true →
      s.framesUsed 0 ≤ (s.dirDie 0).cacheFrames → s.framesUsed 1 ≤ (s.dirDie 1).cacheFrames → s.fillFrozen r = false →
      ∃ t, exec (.regionFillComplete region) s = .next t ∧ t.region? region.toNat = some { r with filling := false } ∧
        (∀ j, j ≠ region.toNat → t.region? j = s.region? j) ∧
        (∀ c, s.cmds.find? (fun c => c.opcode == 0x0104 && c.st == .running && c.aux == region.toNat && pCtx c.p == r.ctx) = some c →
          c.lost = false → (∀ port ctx tag, c.via = .link port ctx tag → (s.port port.val).live = true) →
          ∃ v, Answered v t c c.p.context 0 (s.handleOf region.toNat + (r.zaPage * 65536) <<< 64) 0 ∧ v.cmds = s.cmds) ∧
        Frame [.fresh, .out, .cmds, .fns, .ports, .regions, .hbmStk, .cnt] s t)

/-- REGION_FREE of the context's own region that nothing maps, leases, publishes or commits answers OK; the region is gone, its
handle stale, its leases ended and its bytes in HBM and flash read as zeros (R45). -/
def Obligations.RegionFreed : Prop :=
  ∀ (via : Via) (p : Packet) (s u : State) (c : Cmd) (i : Nat) (r : Region), s.begun specRegionFree via p = some (u, c) →
    u.ownRegion (par p 8 4) (pCtx p) = .ok (i, r) → u.freeConflict i r = false → u.still →
    ∃ t v, exec (.regionFree via p) s = .next t ∧ Answered v t c p.context 0 0 0 ∧ v.region? i = none ∧
      (∀ j, j ≠ i → v.region? j = u.region? j) ∧ tget 0 v.seqs i = (tget 0 u.seqs i + 1) % 4096 ∧
      (∀ a, 65536 * r.zaPage ≤ a → a < 65536 * (r.zaPage + r.pages) → readByte v.flash.mem a = 0) ∧
      v.ctxs = u.ctxs ∧ v.subs = u.subs ∧ v.qos = u.qos ∧ v.pmc = u.pmc ∧ v.fw = u.fw

/-- REGION_ATTR: op 0 answers the attribute word, the size and the ZA base and changes nothing; op 1 sets LEASE of an
uncompressed pinned region, or clears it where no lease and no OWN window remains, at once where no request is held on the old route, and
waits while the region's last change is under way; op 2 sets the context's miss policy (R44, R73). The model's reading: log 149. -/
def Obligations.RegionAttributes : Prop :=
  ∀ (via : Via) (p : Packet) (s u : State) (c : Cmd), s.begun specRegionAttr via p = some (u, c) →
    (∀ i r, par p 12 1 = 0 → u.ownRegion (par p 8 4) (pCtx p) = .ok (i, r) →
      ∃ t, exec (.regionAttrReport via p) s = .next t ∧
        Answered u t c p.context 0 (r.attr.toNat + r.pages <<< 32 + (r.zaPage * 65536) <<< 64) 0) ∧
    (∀ i w r, par p 12 1 = 0 → u.named (par p 8 4) = .sub i w → w.ctx = pCtx p → u.region? w.region = some r →
      ∃ t, exec (.regionAttrReport via p) s = .next t ∧
        Answered u t c p.context 0 (r.attr.toNat + r.pages <<< 32 + (r.zaPage * 65536) <<< 64) 0) ∧
    (∀ i r on attr, par p 12 1 = 1 → par p 13 1 = b2n on → u.ownRegion (par p 8 4) (pCtx p) = .ok (i, r) → r.share ≠ .withdrawn →
      (on = true → r.kind = 1 ∧ r.auto = false) →
      (on = false → (∀ e, e ∈ u.leases → ¬(r.zaPage ≤ e.1 / 1024 ∧ e.1 / 1024 < r.zaPage + r.pages)) ∧ u.mapped i (·.own) = false) →
      attr = (if on then r.attr ||| 0x80 else r.attr &&& ~~~0x80) →
      (r.moving.isSome = true →
        exec (.regionAttrSetLease via p) s = .next (u.modCmd c.id fun e => { e with st := .parked })) ∧
      (u.held = [] → u.still → u.cmd? c.id = some c →
        ∃ t v, exec (.regionAttrSetLease via p) s = .next t ∧
          Answered v t c p.context 0 (attr.toNat + r.pages <<< 32 + (r.zaPage * 65536) <<< 64) 0 ∧
          v.region? i = some { r with attr } ∧ (∀ j, j ≠ i → v.region? j = u.region? j) ∧ Frame [.regions] u v)) ∧
    (par p 12 1 = 2 →
      ∃ t v, exec (.regionAttrSetMissPolicy via p) s = .next t ∧ Answered v t c p.context 0 ((par p 13 1) <<< 64) 0 ∧
        (∀ m, v.ctx m = if m = pCtx p then { u.ctx m with nack := decide (par p 13 1 = 1) } else u.ctx m) ∧ Frame [.ctxs] u v)

/-- Each of the four hints on a range within one readable window onto tiered space is answered OK with the number of pages it was
applied to; it changes no flash image, window, context or share of bandwidth. On one resident page of the owner a prefetch
sets REF, a pin adds a hold where it may, an unpin takes one, and an eviction is deferred by a hold or begins a write-back (R74,
R163, R168-R171). CKPT_COMMIT on a writable tiered range
without dirty data is answered at once; with dirty pages it begins their write-backs and keeps the pages whose commits it waits
for (R177). The model's reading: log 109. -/
def Obligations.HintsAndCheckpoints : Prop :=
  (∀ (via : Via) (p : Packet) (s u : State) (c : Cmd) (page : Nat) (w : Window) (r : Region), u.variantH = false →
      u.hintRange c false = .ok (page, w, r) →
      (s.begun specHintPrefetch via p = some (u, c) →
        ∃ v k, exec (.hintPrefetch via p) s = .next (v.reply c 0 k) ∧ k ≤ par p 16 4 ∧ Frame Piece.served u v ∧
          (u.onePage p page w r → (u.ent page).st = .clean ∨ (u.ent page).st = .dirty →
            k = 1 ∧ v.ent page = { u.ent page with ref := true, deferEvict := false })) ∧
      (s.begun specHintPin via p = some (u, c) →
        ∃ v k, exec (.hintPin via p) s = .next (v.reply c 0 k) ∧ k ≤ par p 16 4 ∧ Frame Piece.served u v ∧
          (u.onePage p page w r → (u.ent page).st = .clean ∨ (u.ent page).st = .dirty →
            ((u.ent page).holds < 255 → (u.ent page).holds ≠ 0 ∨ u.mayHold page r.fn = true →
              k = 1 ∧ v.ent page = { u.ent page with holds := (u.ent page).holds + 1, ref := true, deferEvict := false }) ∧
            (255 ≤ (u.ent page).holds ∨ ((u.ent page).holds = 0 ∧ u.mayHold page r.fn = false) →
              k = 0 ∧ v.ent page = u.ent page))) ∧
      (s.begun specHintUnpin via p = some (u, c) →
        ∃ v k, exec (.hintUnpin via p) s = .next (v.reply c 0 k) ∧ k ≤ par p 16 4 ∧ Frame Piece.served u v ∧
          (u.onePage p page w r →
            ((u.ent page).holds = 0 → k = 0 ∧ v.ent page = u.ent page) ∧
            (1 < (u.ent page).holds → k = 1 ∧ v.ent page = { u.ent page with holds := (u.ent page).holds - 1 }))) ∧
      (s.begun specHintEvict via p = some (u, c) →
        ∃ v k, exec (.hintEvict via p) s = .next (v.reply c 0 k) ∧ k ≤ par p 16 4 ∧ Frame Piece.served u v ∧
          (u.onePage p page w r →
            ((u.ent page).st = .invalid → k = 0 ∧ v.ent page = u.ent page) ∧
            ((u.ent page).st = .dirty → (u.ent page).holds ≠ 0 → k = 1 ∧ v.ent page = { u.ent page with deferEvict := true }) ∧
            ((u.ent page).st = .dirty → (u.ent page).holds = 0 → k = 1 ∧ (v.ent page).st = .writingBack ∧
              (v.ent page).evicting = true ∧ (v.ent page).snapshot = (u.ent page).dirty ∧ (v.ent page).dirty = 0)))) ∧
  (∀ (via : Via) (p : Packet) (s u : State) (c : Cmd) (page : Nat) (w : Window) (r : Region), s.begun specCkpt via p = some (u, c) →
      u.variantH = false → u.hintRange c true = .ok (page, w, r) →
      ((∀ j, j < par p 16 4 → (u.ent (page + j)).bad = true ∨ ((u.ent (page + j)).st ≠ .dirty ∧
          ((u.ent (page + j)).st = .writingBack → (u.ent (page + j)).dirty = 0 ∧ ((u.ent (page + j)).queued && u.tierHeld) = false))) →
        ∃ t, exec (.ckptCommit via p) s = .next t ∧ Answered u t c p.context 0 0 0) ∧
      (∀ k, k < par p 16 4 → (u.ent (page + k)).st = .dirty → (u.ent (page + k)).bad = false → u.carveOutBad = false →
        ∃ t, exec (.ckptCommit via p) s = .next t ∧ Frame [.out, .fns, .dir, .dirs, .cmds, .cnt] u t ∧
          (∀ j, j < par p 16 4 → (u.ent (page + j)).st = .dirty → (u.ent (page + j)).bad = false →
            (t.ent (page + j)).st = .writingBack ∧ (t.ent (page + j)).snapshot = (u.ent (page + j)).dirty ∧ (t.ent (page + j)).dirty = 0) ∧
          (∀ e, e ∈ t.cmds → e.id = c.id → page + k ∈ e.pages ∧ e.done = e.pages.length)))

/-! ## Transfers, tables, kernels and shared versions (R198-R215, R247-R259, R267-R294, R460) -/

/-- XFER_COPY, XFER_MOVE, XFER_FILL and XFER_REDUCE that pass the checks of R460 join the queue of their engine as the packet
describes them, and stay outstanding; nothing else changes. XFER_ATOM makes one atomic request of its context at the ZA that its
window gives (R280, R286-R288). The model's reading: log 28. -/
def Obligations.TransferQueued : Prop :=
  (∀ (via : Via) (p : Packet) (s u : State) (c : Cmd) (i : Instr) (spec : CmdSpec) (kind : XferKind),
    (i, kind) ∈ [(Instr.xferCopy via p, XferKind.copy), (.xferMove via p, .move), (.xferFill via p, .fill), (.xferReduce via p, .reduce)] →
    fraistOf i = some (spec, via, p) → s.begun spec via p = some (u, c) → u.xferCheck (xferOf kind c u.nextId) = none →
    exec i s = .next { u with
      nextId := u.nextId + 1
      xfers := u.xfers ++ [{ id := u.nextId, cmd := c.id, ctx := pCtx p, kind, src := endpointAt p 8, dst := endpointAt p 24
                             len := par p 40 8, pattern := BitVec.ofNat 64 (par p 48 8)
                             fmt := if kind = .reduce then par p 49 1 else 2
                             engine := xferEngine kind (endpointAt p 8) (endpointAt p 24) (pCtx p) }] }) ∧
  (∀ (via : Via) (p : Packet) (s u : State) (c : Cmd) (t : Trans), s.begun specXferAtom via p = some (u, c) →
    u.translate (pCtx p) (par p 8 8) (atomBytes (par p 17 1)) .atom false = some t →
    ∃ v, exec (.xferAtom via p) s = .next v ∧ Frame Piece.served u v ∧
      v = { u with nextId := u.nextId + 1 }.dispatchReq
        { id := u.nextId, src := .cmd c.id, ctx := pCtx p, op := .atom, la := par p 8 8, za := t.za, region := t.region, lines := 1
          cls := 0, entry := u.cls 0, keySlot := t.keySlot, gen := t.gen, atop := par p 16 1, awidth := par p 17 1
          a := BitVec.ofNat 64 (par p 24 8), b := BitVec.ofNat 64 (par p 32 8) })

/-- TABLE_BUILD of a group of a compressed region that is not frozen arms an IDLE group and answers its number; TABLE_RETIRE
retires a CURRENT table of the region; CODEC_SET sets or clears FORCE_RAW (R210, R211, R215). The model's reading: log 48. -/
def Obligations.CodecCommands : Prop :=
  (∀ (via : Via) (p : Packet) (s u : State) (c : Cmd) (i : Nat) (r : Region), s.begun specTableBuild via p = some (u, c) →
    u.ownRegion (par p 8 4) (pCtx p) = .ok (i, r) → r.auto = true → par p 12 2 < r.groups → r.frozen = false →
    u.tablesOwned r.ctx < 4096 → (u.tables.filter fun e => e.2.st != .free && e.1 != 0).length < 65535 →
    ∃ t v, exec (.tableBuild via p) s = .next t ∧ Answered v t c p.context 0 (par p 12 2) 0 ∧
      v.group i (par p 12 2) = (if (u.group i (par p 12 2)).st = .idle then { u.group i (par p 12 2) with st := .armed }
        else u.group i (par p 12 2)) ∧ Frame [.groups] u v) ∧
  (∀ (via : Via) (p : Packet) (s u : State) (c : Cmd) (i : Nat) (r : Region), s.begun specTableRetire via p = some (u, c) →
    u.ownRegion (par p 8 4) (pCtx p) = .ok (i, r) → (u.table (par p 12 2)).st ≠ .free → (u.table (par p 12 2)).region = par p 8 4 →
    r.share ≠ .withdrawn →
    ∃ t v, exec (.tableRetire via p) s = .next t ∧ Answered v t c p.context 0 0 0 ∧ (v.table (par p 12 2)).st ≠ .current ∧
      ((u.table (par p 12 2)).st ≠ .current → v = u) ∧ Frame [.groups, .tables] u v) ∧
  (∀ (via : Via) (p : Packet) (s u : State) (c : Cmd) (i : Nat) (r : Region), s.begun specCodecSet via p = some (u, c) →
    u.ownRegion (par p 8 4) (pCtx p) = .ok (i, r) → r.auto = true → r.frozen = false →
    ∃ t v, exec (.codecSet via p) s = .next t ∧ Answered v t c p.context 0 0 0 ∧
      v.region? i = some { r with forceRaw := decide (par p 12 1 = 1) } ∧ (∀ j, j ≠ i → v.region? j = u.region? j) ∧
      Frame [.regions] u v)

/-- KERNEL_LOAD, FW_STAGE and SPDM_RELAY with host data begin with an empty buffer of the length they name, and their first host
read goes out; they stay outstanding. A FW_STAGE at offset 0 empties what was staged. KERNEL_LOAD from a window that its context may
read becomes the reads of the image's lines, with a buffer of whole lines; an image in one block of clean lines of pinned space comes
to the verifier in the same step, with the bytes stored (R267, R342, R343, R386, R390). The model's reading: log 88. -/
def Obligations.HostDataBegins : Prop :=
  (∀ (via : Via) (p : Packet) (s u : State) (c : Cmd), (∀ e, e ∈ u.cmds → e.id = c.id → e = c) →
      (s.begun specKernelLoad via p = some (u, c) → par p 8 1 = 1 → viaLink via = false → par p 24 2 ≠ 0 →
        ∃ t, exec (.kernelLoad via p) s = .next t ∧ ReadsHost u t c (par p 16 8) (par p 24 2) ∧ t.fw = u.fw) ∧
      (s.begun specFwStage via p = some (u, c) → u.fw.phase = .idle →
        ∃ t, exec (.fwStage via p) s = .next t ∧ ReadsHost u t c (par p 8 8) (par p 16 4) ∧
          t.fw = if par p 20 4 = 0 then { u.fw with
            stage := [], stagedUnits := [], stagedBytes := 0, inactive := none, revertOk := false } else u.fw) ∧
      (s.begun specSpdmRelay via p = some (u, c) →
        ∃ t, exec (.spdmRelay via p) s = .next t ∧ ReadsHost u t c (par p 8 8) (par p 16 2) ∧ t.fw = u.fw)) ∧
  (∀ (via : Via) (p : Packet) (s u : State) (c : Cmd), s.begun specKernelLoad via p = some (u, c) → par p 8 1 = 0 → par p 24 2 ≠ 0 →
      par p 16 8 + par p 24 2 ≤ 2 ^ 56 → u.covered (pCtx p) (par p 16 8) (par p 24 2) .rd false = true →
      let base := par p 16 8 / 64 * 64
      let size := 64 * cdiv (par p 16 8 % 64 + par p 24 2) 64
      (∃ t, exec (.kernelLoad via p) s = .next t ∧ Frame Piece.served u t ∧
        t = (u.modCmd c.id fun e => { e with aux := (piecesOf base size).length + 1, data := List.replicate size 0 }).loadFrom c base
          (piecesOf base size)) ∧
      (∀ (t : Trans) (r : Region), (∀ e, e ∈ u.cmds → e.id = c.id → e = c) → piecesOf base size = [(base, size)] →
        u.translate (pCtx p) base size .rd false = some t → u.region? t.region = some r →
        r.tiered = false → r.leased = false → r.auto = false → u.held = [] → u.still →
        (∀ i, i < size / 64 → u.clean (t.za / 64 + i) = true) →
        ∃ v e, exec (.kernelLoad via p) s = .next (v.loadKernel e
            ((((List.range (size / 64)).flatMap fun i => lineBytes (readLine u.hbm.mem (t.za / 64 + i))).drop (par p 16 8 % 64)).take
              (par p 24 2))) ∧
          e.id = c.id ∧ e.p = p ∧ e.via = via ∧ e.opcode = c.opcode ∧ e.lost = false ∧ v.hbm = u.hbm ∧ v.held = [] ∧ v.disp = u.disp ∧
          Frame Piece.served u v))

/-- KERNEL_RUN of a handle of its context, with engines enough in service and within the cap, joins the queue and is counted;
while 1,024 wait it is refused BUSY. KERNEL_ABORT fails the run that it names, or answers 0 where there is none (R247, R248,
R259). The model's reading: log 108. -/
def Obligations.KernelCommands : Prop :=
  (∀ (via : Via) (p : Packet) (s u : State) (c : Cmd), s.begun specKernelRun via p = some (u, c) →
    (builtinHandle (par p 8 4) || (u.kernelOf (par p 8 4) (pCtx p)).isSome) = true → par p 12 2 ≤ u.enginesUp →
    (u.disp.engineCap = 0 ∨ par p 12 2 ≤ u.disp.engineCap) →
    ((u.disp.runs.filter Run.queued).length < 1024 →
      ∃ t r, exec (.kernelRun via p) s = .next t ∧ r.id = u.disp.nextRun ∧ r.cmd = c.id ∧ r.ctx = pCtx p ∧ r.tag = p.tag.toNat ∧
        r.handle = par p 8 4 ∧ r.want = par p 12 2 ∧ (∀ k, k < 6 → r.arg k = par p (16 + 8 * k) 8) ∧ r.started = false ∧
        r.failed = none ∧ Counted { u with disp := { u.disp with runs := u.disp.runs ++ [r], nextRun := u.disp.nextRun + 1 } } t) ∧
    (1024 ≤ (u.disp.runs.filter Run.queued).length →
      ∃ t, exec (.kernelRun via p) s = .next t ∧ Answered u t c p.context stBusy 0 0)) ∧
  (∀ (via : Via) (p : Packet) (s u : State) (c : Cmd), s.begun specKernelAbort via p = some (u, c) →
    (u.disp.runs.find? (fun r => r.ctx == pCtx p && r.tag == par p 8 2) = none →
      ∃ t, exec (.kernelAbort via p) s = .next t ∧ Answered u t c p.context 0 0 0) ∧
    (∀ r, u.disp.runs.find? (fun r => r.ctx == pCtx p && r.tag == par p 8 2) = some r → u.run? r.id = some r →
      ∃ t, exec (.kernelAbort via p) s = .next t ∧ (∀ q, t.run? r.id = some q → q.failed.isSome = true) ∧
        Frame [.fresh, .out, .fns, .cmds, .ports, .dir, .engines, .chds, .disp, .elog, .cnt] u t))

/-- SHARE_PUBLISH of an unpublished shared region that nobody may write begins the publication under its key; of the version
itself it answers the hash again. SHARE_SUBSCRIBE gives the context one subscription of a PUBLISHED version, under an unused
index. SHARE_UNSUBSCRIBE of the context's subscription that no window, host window, run or transfer uses ends it; SHARE_WITHDRAW
of a PUBLISHED version that its owner does not map withdraws it, and frees it once nobody subscribes. None waits where no earlier
sharing command of its key or region does (R271-R279). The model's reading: log 47. -/
def Obligations.ShareCommands : Prop :=
  ((∀ (via : Via) (p : Packet) (s u : State) (c : Cmd) (i : Nat) (r : Region), s.begun specPublish via p = some (u, c) →
      u.ownRegion (par p 8 4) (pCtx p) = .ok (i, r) → r.kind = 2 → par p 12 4 ≠ 0 → par p 16 32 ≠ 0 → par p 48 1 < 2 →
      (par p 48 1 = 1 → c.fn = 0) → u.shareBehind c = false → u.keyBusy (shareKey p c.fn) = false →
      (r.share = .published → r.key? = shareKey p c.fn →
        ∃ t, exec (.sharePublish via p) s = .next t ∧ Answered u t c p.context 0 r.hash.toNat 0) ∧
      (r.share = .unpublished → u.mapped i (fun w => w.wr || w.atom) = false → u.hostWrites i = false →
        ∃ t, exec (.sharePublish via p) s = .next t ∧ t.region? i = some { r with
            share := .publishing, hashing := false, digests := [], pubCmd := some c.id, name := BitVec.ofNat 256 (par p 16 32)
            scope := par p 48 1, version := par p 12 4, groupsWas := (List.range r.groups).map fun g => (g, u.group i g) } ∧
          (∀ j, j ≠ i → t.region? j = u.region? j) ∧ Frame [.regions, .groups] u t)) ∧
    (∀ (via : Via) (p : Packet) (s u : State) (c : Cmd) (i : Nat) (r : Region), s.begun specSubscribe via p = some (u, c) →
      u.shareBehind c = false → u.keyBusy (shareKey p c.fn) = false → u.versionOf (shareKey p c.fn) = some (i, r) →
      (par p 56 8 = 0 ∨ par p 56 8 = r.hash.toNat) →
      (∀ e, u.subs.find? (fun e => e.2.ctx == pCtx p && e.2.region == i) = some e →
        ∃ t, exec (.shareSubscribe via p) s = .next t ∧ Answered u t c p.context 0 (u.handleOf e.1) 0) ∧
      (u.subs.find? (fun e => e.2.ctx == pCtx p && e.2.region == i) = none → u.entriesOf (pCtx p) < 4096 → u.entries < 262144 →
        u.pickIndex.1.isSome = true →
        ∃ t v n, exec (.shareSubscribe via p) s = .next t ∧ u.region? n = none ∧ tfind? u.subs n = none ∧
          Answered v t c p.context 0 (u.handleOf n) 0 ∧ tfind? v.subs n = some { ctx := pCtx p, region := i } ∧
          (∀ m, m ≠ n → tfind? v.subs m = tfind? u.subs m) ∧ Frame [.fresh, .subs] u v))) ∧
  ((∀ (via : Via) (p : Packet) (s u : State) (c : Cmd) (n : Nat) (w : Sub), s.begun specUnsubscribe via p = some (u, c) →
      u.named (par p 8 4) = .sub n w → w.ctx = pCtx p → (u.ctx (pCtx p)).windows.any (fun e => e.2.valid && e.2.sub == some n) = false →
      u.hostNames (par p 8 4) (fun _ => true) = false → u.usedThrough n = false → u.shareBehind c = false → u.still →
      ∃ v : State, exec (.shareUnsubscribe via p) s = .next (v.reply c 0) ∧ v.subs = tdel u.subs n ∧
        v.ctxs = u.ctxs ∧ v.qos = u.qos ∧ v.pmc = u.pmc ∧ v.fw = u.fw ∧
        (∀ j, j ≠ w.region → v.region? j = u.region? j)) ∧
    (∀ (via : Via) (p : Packet) (s u : State) (c : Cmd) (i : Nat) (r : Region), s.begun specWithdraw via p = some (u, c) →
      u.ownRegion (par p 8 4) (pCtx p) = .ok (i, r) → r.share = .published →
      (u.ctx r.ctx).windows.any (fun w => w.2.valid && w.2.region == i) = false →
      u.hostNames (par p 8 4) (·.ctx == r.ctx) = false → u.shareBehind c = false → u.still →
      ∃ v, exec (.shareWithdraw via p) s = .next (v.reply c 0) ∧ (∀ j, j ≠ i → v.region? j = u.region? j) ∧
        ((u.subs.any fun e => e.2.region == i) = true → v.region? i = some { r with share := .withdrawn } ∧ Frame [.regions] u v) ∧
        ((u.subs.any fun e => e.2.region == i) = false → v.region? i = none) ∧ v.ctxs = u.ctxs ∧ v.subs = u.subs ∧ v.qos = u.qos))

/-- SVC_TEST of type 0 answers the unit's state, and one of type 1 or 2 that applies to the unit runs on, a lane's with its lane
under test; SVC_REMAP answers the table entry that replaces the row. SVC_RETIRE of a unit that is out of service already answers
OK; an idle engine, of more than one in service, is out of service; a pseudo-channel, a stack or a memory die starts retiring; a
flash die is out. SVC_CLEAR_POISON is one request of its context at the line (R424-R427). Model's readings: logs 57, 101. -/
def Obligations.ServiceCommands : Prop :=
  ((∀ (via : Via) (p : Packet) (s u : State) (c : Cmd), s.begun specSvcTest via p = some (u, c) → u.unitBusy c = false →
      (par p 16 1 = 0 → ∃ t, exec (.svcTest via p) s = .next t ∧
        Answered u t c p.context 0 (testResult false (u.unitState (par p 8 1, par p 12 4)) 0) 0) ∧
      (par p 16 1 ≠ 0 → u.rebuilding (par p 8 1, par p 12 4) = false → u.testOff (par p 8 1, par p 12 4) (par p 16 1) = none →
        ∃ t, exec (.svcTest via p) s = .next t ∧ Frame [.ports] u t ∧ (par p 8 1 ≠ 6 → t = u) ∧
          (par p 8 1 = 6 → ∀ n, t.port n = if n = par p 12 4 / 4 then
            { u.port n with testLanes := orBit (u.port n).testLanes (par p 12 4 % 4) } else u.port n))) ∧
    (∀ (via : Via) (p : Packet) (s u : State) (c : Cmd) (k pc l : Nat), s.begun specSvcRemap via p = some (u, c) →
      physOf (par p 8 8) = (k, pc, l) →
      (∀ e, (u.stack k).remapOf pc l = some e → ∃ t, exec (.svcRemap via p) s = .next t ∧ Answered u t c p.context 0 e 0) ∧
      (∀ e v, (u.stack k).remapOf pc l = none → u.remapLine k pc l 2 = some (e, v) →
        exec (.svcRemap via p) s = .next (v.reply c 0 e) ∧ (tget {} (u.stack k).remap e).valid = false ∧
          (tget {} (v.stack k).remap e).valid = true ∧ (tget {} (v.stack k).remap e).pc = pc ∧
          (tget {} (v.stack k).remap e).pcLine = l ∧ (tget {} (v.stack k).remap e).pending = true ∧
          (∀ j, j ≠ k → v.stack j = u.stack j) ∧ Frame [.fresh, .out, .fns, .hbmStk, .repairRows, .elog] u v))) ∧
  ((∀ (via : Via) (p : Packet) (s u : State) (c : Cmd), s.begun specSvcRetire via p = some (u, c) → u.unitBusy c = false →
      u.rebuilding (par p 8 1, par p 12 4) = false →
      (u.gone (par p 8 1, par p 12 4) = true → ∃ t, exec (.svcRetire via p) s = .next t ∧ Answered u t c p.context 0 0 0) ∧
      (u.gone (par p 8 1, par p 12 4) = false → ∃ t, exec (.svcRetire via p) s = .next t ∧
        (par p 8 1 = 1 → 1 < u.enginesUp → (u.engine (par p 12 4)).run = none → (t.engine (par p 12 4)).inService = false) ∧
        (par p 8 1 = 2 → u.carveLost [par p 12 4 / 64] = false → t = u.retirePc (par p 12 4 / 64) (par p 12 4 % 64) true) ∧
        (par p 8 1 = 3 → u.carveLost [par p 12 4] = false → t = u.retireStack (par p 12 4) true false) ∧
        (par p 8 1 = 5 → u.carveLost [2 * par p 12 4, 2 * par p 12 4 + 1] = false → t = u.retireDie (par p 12 4) true) ∧
        (par p 8 1 = 8 → t.flashDieUp (par p 12 4) = false))) ∧
    (∀ (via : Via) (p : Packet) (s u : State) (c : Cmd) (t : Trans), s.begun specSvcClear via p = some (u, c) →
      u.translate (pCtx p) (par p 8 8 / 64 * 64) 64 .wr false = some t →
      ∃ v, exec (.svcClearPoison via p) s = .next v ∧ Frame Piece.served u v ∧
        v = { u with nextId := u.nextId + 1 }.dispatchReq
          { id := u.nextId, src := .cmd c.id, ctx := pCtx p, op := .clear, la := par p 8 8 / 64 * 64, za := t.za, region := t.region
            lines := 1, cls := 0, entry := u.cls 0, keySlot := t.keySlot, gen := t.gen }))

/-- QOS_CLASS_SET writes one entry of the class table; QOS_BUDGET_SET within the capacity gives the context its budget, split
over the regulators, and answers it as derated. At a window boundary a falling share that was sent takes force, a rising one once
every falling one of its context has, none while the scheduler core restarts, and the allowance starts anew from it with the
deficit; a rebalance splits each budget wholly over the regulators and ends the period of use; a spare slot lets the one held
request toward its hub go, outside its share unless it has allowance; a held miss whose
limit ends is answered CPL_RETRY (R133, R137, R145, R149, R152, R154, R443). Model's readings: logs 60, 74. -/
def Obligations.RegulationRules : Prop :=
  ((∀ (via : Via) (p : Packet) (s u : State) (c : Cmd), s.begun specQosClassSet via p = some (u, c) →
      ∃ t v, exec (.qosClassSet via p) s = .next t ∧ Answered v t c p.context 0 0 0 ∧ Frame [.qos] u v ∧
        (∀ k, v.cls k = if k = par p 8 1 then
          { target := par p 12 4, base := par p 16 1, slope := par p 17 1, tangent := decide (par p 18 1 = 1) } else u.cls k) ∧
        v.qos = { u.qos with classes := v.qos.classes }) ∧
    (∀ (via : Via) (p : Packet) (s u : State) (c : Cmd), s.begun specQosBudgetSet via p = some (u, c) →
      (par p 8 8 ≤ (u.ctx (pCtx p)).budget ∨ (u.budgets - (u.ctx (pCtx p)).budget + par p 8 8) * capacityDen ≤ u.capacityNum →
        ∃ t v, exec (.qosBudgetSet via p) s = .next t ∧ Answered v t c p.context 0 (derated (par p 8 8) u.qos.derate) 0 ∧
          (∀ m, v.ctx m = if m = pCtx p then { u.ctx m with budget := par p 8 8 } else u.ctx m) ∧
          v.qos = { u.qos with regs := v.qos.regs } ∧ Frame [.ctxs, .qos] u v) ∧
      ((u.ctx (pCtx p)).budget < par p 8 8 → u.capacityNum < (u.budgets - (u.ctx (pCtx p)).budget + par p 8 8) * capacityDen →
        ∃ t, exec (.qosBudgetSet via p) s = .next t ∧ Answered u t c p.context stOvercommit 0 0))) ∧
  ((∀ (reg : Fin 5) (s : State), s.running = true → ((s.regulator reg.val).ctxs.map (·.1)).Nodup →
      (∀ q, q ∈ s.held → q.hold ≠ .regulator reg.val) →
      s.hep.cxlWait = [] →
      let f := if s.scRunning then (s.regulator reg.val).derate else (s.regulator reg.val).derateOn
      ∃ t, exec (.regulatorWindowBoundary reg) s = .next t ∧ Frame [.qos, .cnt] s t ∧ (t.regulator reg.val).derateOn = f ∧
        (∀ c, (t.regulator reg.val).get c =
          let g := (s.regulator reg.val).get c
          let share := if s.scRunning ∧ (g.next ≤ g.share ∨ s.confirmed c = true) then g.next else g.share
          { g with share, allow := derated share f + min g.allow 0, tanLines := 0 }) ∧
        (∀ r, r ≠ reg.val → t.regulator r = s.regulator r) ∧
        (∀ p, p ∈ (if reg.val < 4 then (List.range 4).map (4 * reg.val + ·) else [16]) →
          tget {} t.cnt.wins p = { tget {} s.cnt.wins p with
            inShare := (tget {} s.cnt.wins p).nowIn, spare := (tget {} s.cnt.wins p).nowSpare
            windows := ((tget {} s.cnt.wins p).windows + 1) % 2 ^ 48, nowIn := 0, nowSpare := 0 })) ∧
    (∀ s : State, s.running = true → s.scRunning = true → (∀ r, r < 5 → ((s.regulator r).ctxs.map (·.1)).Nodup) →
      ∃ t, exec .budgetRebalance s = .next t ∧ Frame [.qos] s t ∧
        (∀ c, (s.ctx c).budget ≠ 0 → ((List.range 5).map fun r => ((t.regulator r).get c).next).sum = (s.ctx c).budget) ∧
        (∀ r c, r < 5 → ((t.regulator r).get c).use = 0 ∧ ((t.regulator r).get c).prev = ((s.regulator r).get c).use ∧
          ((t.regulator r).get c).share = ((s.regulator r).get c).share)) ∧
    (∀ (reg : Fin 5) (hub : Fin 2) (s : State) (q : Req) (r : Region), s.running = true → s.hep.cxlWait = [] →
      ((∀ e, e ∈ s.held → ¬(e.hold = .regulator reg.val ∧ hubOf e.za = hub.val)) → exec (.spareSlotRelease reg hub) s = .next s) ∧
      (reg.val < 4 → s.held = [q] → q.hold = .regulator reg.val → hubOf q.za = hub.val → s.region? q.region = some r →
        (((s.regulator reg.val).get q.ctx).allow ≤ 0 →
          ∃ w, exec (.spareSlotRelease reg hub) s = .next (w.admitReq q r true) ∧ w.held = [] ∧ (w.regulator reg.val).wrrCtx = q.ctx ∧
            Frame [.held, .qos, .ports] s w) ∧
        (0 < ((s.regulator reg.val).get q.ctx).allow →
          ∃ w, exec (.spareSlotRelease reg hub) s = .next (w.admitReq q r false) ∧ w.held = [] ∧ Frame [.held, .ports] s w))) ∧
    (∀ (s : State) (q : Req) (page : Nat) (port : Nat) (tag vc : Nat) (tan : Bool), s.running = true → s.held = [q] → q.hold = .miss page →
      q.src = .link port tag vc tan → vc ≠ 3 → (s.port port).live = true → s.still →
      ∃ t hint, exec (.holdLimitExpiry q.id) s = .next t ∧ t.held = [] ∧
        (t.port port).txOrd = (s.port port).txOrd ++
          [{ vc := 1, slots := [rspSlot 0x23 1 q.ctx tag 0 0 0 (q.lines - 1) true hint 0], frees := some tag }] ∧
        (t.port port).tags = (s.port port).tags ∧ ((s.ent page).st ≠ .fetching → hint = 0) ∧
        t.dir = s.dir ∧ Frame [.fresh, .out, .fns, .ports, .held, .cnt] s t))

/-! ## Link requests (R101-R113, R123-R127, R147, R281) -/

/-- RD of clean lines in pinned space, straight to the memory dies, is answered with one CPL_DATA of the lines' stored values; no
stored byte changes. RD_OWN of a line also records its lease; with 65,536 leases in use it is charged and refused NO_SPACE (R104,
R107, R111, R124, R146). The model's reading: log 69. -/
def Obligations.LinkReads : Prop :=
  (∀ (port : Fin 16) (h : Hdr) (s : State) (t : Trans) (r : Region), LinkDirect s port.val .rd h t r → r.auto = false →
    (∀ i, i < h.len.toNat + 1 → s.clean (t.za / 64 + i) = true) →
    ∃ v, exec (.rd port h) s = .next v ∧ v.hbm = s.hbm ∧ v.leases = s.leases ∧ v.held = [] ∧
      Sent s v port.val h.vc.toNat h.tag.toNat (rspSlot 0x20 (rspVc h.vc.toNat) h.ctx.toNat h.tag.toNat 0 0 0 h.len.toNat true 0 0 ::
        lineSlots ((List.range (h.len.toNat + 1)).map fun i => readLine s.hbm.mem (t.za / 64 + i))) ∧
      Frame (.qos :: Piece.served) s v) ∧
  (∀ (port : Fin 16) (h : Hdr) (s : State) (t : Trans) (r : Region), LinkDirect s port.val .rdOwn h t r → r.auto = false →
    s.clean (t.za / 64) = true →
    ∃ v, exec (.rdOwn port h) s = .next v ∧ v.hbm = s.hbm ∧ v.held = [] ∧
      (tfind? s.leases (t.za / 64) = none →
        tfind? v.leases (t.za / 64) = some { port := port.val, ctx := h.ctx.toNat, la := h.la.toNat }) ∧
      (∀ l, tfind? s.leases (t.za / 64) = some l → v.leases = s.leases) ∧
      (∀ n, n ≠ t.za / 64 → tfind? v.leases n = tfind? s.leases n) ∧
      Sent s v port.val 0 h.tag.toNat
        (rspSlot 0x20 1 h.ctx.toNat h.tag.toNat 0 0 0 0 true 0 0 :: lineSlots [readLine s.hbm.mem (t.za / 64)]) ∧
      Frame (.qos :: Piece.served) s v) ∧
  (∀ (port : Fin 16) (h : Hdr) (s : State) (t : Trans) (r : Region), LinkOk s port.val .rdOwn h t r → s.held = [] →
    0 < ((s.regulator (port.val / 4)).get h.ctx.toNat).allow → r.leased = true → 65536 ≤ s.leases.length →
    tfind? s.leases (t.za / 64) = none → s.still →
    ∃ v, exec (.rdOwn port h) s = .next v ∧ v.hbm = s.hbm ∧ v.leases = s.leases ∧ v.held = [] ∧
      Sent s v port.val 0 h.tag.toNat [rspSlot 0x22 1 h.ctx.toNat h.tag.toNat stNoSpace 0 0 0 true 0 0] ∧
      ((v.regulator (port.val / 4)).get h.ctx.toNat).allow = ((s.regulator (port.val / 4)).get h.ctx.toNat).allow - 64 ∧
      Frame [.out, .nextId, .fns, .ports, .qos, .cnt] s v)

/-- WR and WR_RELEASE with data store their lines at the ZA that the window gives, clear the poison there and are answered
CPL_OK; every other byte of memory reads as before, and every other poison record stays. A WR of a compressed block puts the block in
the write buffer, which holds it until it is encoded. WR_RELEASE ends the sender's lease, with or without data, and without data no
memory die sees it. The write buffers have room: their draining is a statement of its own (R110, R111, R113, R125, R126, R192).
Model's readings: logs 11, 70. -/
def Obligations.LinkWrites : Prop :=
  ∀ (port : Fin 16) (h : Hdr) (s : State) (t : Trans) (r : Region),
    (∀ data, LinkDirect s port.val .wr h t r → data.length = h.len.toNat + 1 → s.vacant (h.len.toNat + 1) →
      s.writeBlocked (t.za / 64) (h.len.toNat + 1) r.auto = none → r.auto = true →
      ∃ v, exec (.wr port h data) s = .next v ∧ v.hbm = s.hbm ∧ v.leases = s.leases ∧ v.held = [] ∧
        (∃ e, e ∈ v.wbuf ∧ e.block = true ∧ e.line = t.za / 64 ∧ e.data = data) ∧
        (∀ e, e ∈ v.wbuf → e.block = true → e.line = t.za / 64 → e.data = data) ∧
        (∀ e, e ∈ s.wbuf → ¬(e.block = true ∧ e.line = t.za / 64) → e ∈ v.wbuf) ∧
        Sent s v port.val 0 h.tag.toNat [rspSlot 0x21 1 h.ctx.toNat h.tag.toNat 0 0 0 h.len.toNat true 0 0] ∧
        Frame (.qos :: Piece.served) s v) ∧
    (∀ data, LinkDirect s port.val .wr h t r → data.length = h.len.toNat + 1 → s.vacant (h.len.toNat + 1) →
      s.writeBlocked (t.za / 64) (h.len.toNat + 1) r.auto = none → r.auto = false →
      ∃ v, exec (.wr port h data) s = .next v ∧ v.hbm.mem = writeBytes s.hbm.mem (64 * (t.za / 64)) (data.flatMap lineBytes) ∧
        (∀ a, (a < 64 * (t.za / 64) ∨ 64 * (t.za / 64) + 64 * (h.len.toNat + 1) ≤ a) → readByte v.hbm.mem a = readByte s.hbm.mem a) ∧
        (∀ n, tfind? v.hbm.poison n =
          if t.za / 64 ≤ n ∧ n < t.za / 64 + (h.len.toNat + 1) then none else tfind? s.hbm.poison n) ∧
        v.leases = s.leases ∧ v.held = [] ∧
        Sent s v port.val 0 h.tag.toNat [rspSlot 0x21 1 h.ctx.toNat h.tag.toNat 0 0 0 h.len.toNat true 0 0] ∧
        Frame (.qos :: Piece.served) s v) ∧
    (∀ data, LinkDirect s port.val (.wrRelease h.nodata) h t r → h.nodata = false → s.writeBlocked (t.za / 64) 1 false = none →
      r.auto = false → s.vacant 1 →
      ∃ v, exec (.wrRelease port h data) s = .next v ∧ v.hbm.mem = writeBytes s.hbm.mem (64 * (t.za / 64)) (lineBytes data) ∧
        (∀ a, (a < 64 * (t.za / 64) ∨ 64 * (t.za / 64) + 64 ≤ a) → readByte v.hbm.mem a = readByte s.hbm.mem a) ∧
        tfind? v.leases (t.za / 64) = none ∧ v.held = [] ∧
        (tfind? s.leases (t.za / 64) = none →
          Sent s v port.val 0 h.tag.toNat [rspSlot 0x21 1 h.ctx.toNat h.tag.toNat 0 0 0 0 true 0 0]) ∧
        Frame (.qos :: Piece.served) s v) ∧
    (∀ data, LinkDirect s port.val (.wrRelease h.nodata) h t r → h.nodata = true →
      ∃ v, exec (.wrRelease port h data) s = .next v ∧ v.hbm = s.hbm ∧ tfind? v.leases (t.za / 64) = none ∧ v.held = [] ∧
        v.mems = s.mems ∧ (tfind? s.leases (t.za / 64) = none →
          Sent s v port.val 0 h.tag.toNat [rspSlot 0x21 1 h.ctx.toNat h.tag.toNat 0 0 0 0 true 0 0]) ∧
        Frame (.qos :: Piece.served) s v)

/-- ATOM on a clean line of an uncompressed region answers the prior value and stores the result of its operation in the
operand's place, and no other byte; VADD and ACC add into their lines and are answered CPL_OK. The write buffers have room (R105,
R106, R127, R281). -/
def Obligations.LinkAtomics : Prop :=
  ∀ (port : Fin 16) (h : Hdr) (s : State) (t : Trans) (r : Region), r.auto = false →
    (∀ v new, LinkDirect s port.val .atom h t r → h.atop.toNat < 8 → s.clean (t.za / 64) = true →
      s.writeBlocked (t.za / 64) 1 false = none → s.vacant 1 →
      let n := atomBytes h.awidth.toNat
      let old := bits (readLine s.hbm.mem (t.za / 64)).toNat (8 * (t.za % 64) + 8 * n - 1) (8 * (t.za % 64))
      atomResult h.atop.toNat h.awidth.toNat old h.a.toNat h.b.toNat = some new →
      ∃ w, exec (.atom port h v) s = .next w ∧
        w.hbm.mem = writeLine s.hbm.mem (t.za / 64)
          (BitVec.ofNat 512 (setBits (readLine s.hbm.mem (t.za / 64)).toNat (8 * (t.za % 64)) (8 * n) new)) ∧
        Sent s w port.val h.vc.toNat h.tag.toNat
          [rspSlot 0x20 (rspVc h.vc.toNat) h.ctx.toNat h.tag.toNat 0 0 1 0 true 0 old] ∧ Frame (.qos :: Piece.served) s w) ∧
    (∀ v, LinkDirect s port.val .vadd h t r → h.atop.toNat = 8 → s.clean (t.za / 64) = true →
      s.writeBlocked (t.za / 64) 1 false = none → s.vacant 1 →
      ∃ w, exec (.atom port h v) s = .next w ∧
        w.hbm.mem = writeLine s.hbm.mem (t.za / 64) (vaddLine h.awidth.toNat (readLine s.hbm.mem (t.za / 64)) v) ∧
        Sent s w port.val h.vc.toNat h.tag.toNat [rspSlot 0x21 (rspVc h.vc.toNat) h.ctx.toNat h.tag.toNat 0 0 0 0 true 0 0] ∧
        Frame (.qos :: Piece.served) s w) ∧
    (∀ data n, LinkDirect s port.val .acc h t r → data.length = 64 → n = (if h.awidth.toNat = 3 then 128 else 64) →
      (∀ i, i < n → s.clean (t.za / 64 + i) = true) → s.writeBlocked (t.za / 64) n false = none → s.vacant n →
      ∃ w, exec (.acc port h data) s = .next w ∧
        w.hbm.mem = writeBytes s.hbm.mem (64 * (t.za / 64)) ((List.range n).flatMap fun i =>
          lineBytes (accLine (readLine s.hbm.mem (t.za / 64 + i)) (((accSource h.awidth.toNat data).drop (16 * i)).take 16))) ∧
        Sent s w port.val 0 h.tag.toNat [rspSlot 0x21 1 h.ctx.toNat h.tag.toNat 0 0 0 63 true 0 0] ∧ Frame (.qos :: Piece.served) s w)

/-- The first check of R107 that a link request fails gives its CPL_ERR: NO_PERM for a context that is not ACTIVE and bound,
BAD_OPCODE for a RECALL or a reserved opcode, NO_PERM without a window, BAD_PARAM, GRANULE; nothing but the answer and counters
changes. A request whose context has no allowance at its regulator is held there as long as the context's held slots on the port
stay within HOLD_CAP; beyond that it is answered CPL_RETRY with a hint of at least 1 (R147, R148). The model's reading: log 74.
-/
def Obligations.LinkRefused : Prop :=
  (∀ (port : Fin 16) (h : Hdr) (s : State) (i : Instr) (op : Option ReqOp) (data : List Line), LinkArrives s port.val h →
      (i, op) ∈ [(Instr.rd port h, some ReqOp.rd), (.rdOwn port h, some .rdOwn), (.wr port h data, some .wr),
        (.wrRelease port h (data.headD 0), some (.wrRelease h.nodata)), (.atom port h (data.headD 0), some (atomOp h)),
        (.acc port h data, some .acc), (.recallReceived port h, none), (.reservedRequest port 0x0A h, none)] → i.wellFormed = true →
      ∀ status,
        (s.linkBound port.val h = false ∧ status = stNoPerm) ∨
        (s.linkBound port.val h = true ∧ op = none ∧ status = stBadOpcode) ∨
        (∃ o, s.linkBound port.val h = true ∧ op = some o ∧ s.translate h.ctx.toNat h.la.toNat 1 o.perm false = none ∧
          status = stNoPerm) ∨
        (∃ o t r, s.linkBound port.val h = true ∧ op = some o ∧ s.translate h.ctx.toNat h.la.toNat 1 o.perm false = some t ∧
          s.region? t.region = some r ∧ ((check4 o h = false ∧ status = stBadParam) ∨
            (check4 o h = true ∧ check5Link o h r = false ∧ status = stGranule))) →
        ∃ v, exec i s = .next v ∧
          Sent s v port.val h.vc.toNat h.tag.toNat [rspSlot 0x22 (rspVc h.vc.toNat) h.ctx.toNat h.tag.toNat status 0 0 h.len.toNat true 0 0] ∧
          (∀ n, n ≠ port.val → v.port n = s.port n) ∧ Frame [.out, .fns, .ports, .cnt] s v) ∧
  (∀ (port : Fin 16) (o : BitVec 6) (h : Hdr) (s : State), LinkArrives s port.val h → s.linkBound port.val h = true →
      (o.toNat = 0 ∨ (9 ≤ o.toNat ∧ o.toNat < 0x20)) →
      ∃ v, exec (.reservedRequest port o h) s = .next v ∧ exec (.recallReceived port h) s = .next v ∧
        Sent s v port.val h.vc.toNat h.tag.toNat [rspSlot 0x22 (rspVc h.vc.toNat) h.ctx.toNat h.tag.toNat stBadOpcode 0 0 h.len.toNat true 0 0] ∧
        Frame [.out, .fns, .ports, .cnt] s v) ∧
  (∀ (port : Fin 16) (h : Hdr) (s : State) (t : Trans) (r : Region), LinkOk s port.val .rd h t r →
      ((s.regulator (port.val / 4)).get h.ctx.toNat).allow ≤ 0 →
      (s.heldSlots h.ctx.toNat port.val + 1 ≤ s.qos.holdCap →
        ∃ v q, exec (.rd port h) s = .next v ∧ q ∈ v.held ∧ q.hold = .regulator (port.val / 4) ∧ q.id = s.nextId ∧ q.op = .rd ∧
          q.za = t.za ∧ q.lines = h.len.toNat + 1 ∧ v.held.length = s.held.length + 1 ∧ v.hbm = s.hbm ∧
          Frame [.nextId, .ports, .held, .cnt] s v) ∧
      (s.qos.holdCap < s.heldSlots h.ctx.toNat port.val + 1 →
        ∃ v hint, exec (.rd port h) s = .next v ∧ 1 ≤ hint ∧
          Sent s v port.val h.vc.toNat h.tag.toNat [rspSlot 0x23 (rspVc h.vc.toNat) h.ctx.toNat h.tag.toNat 0 0 0 h.len.toNat true hint 0] ∧
          v.held = s.held ∧ v.hbm = s.hbm ∧ Frame [.fresh, .out, .nextId, .fns, .ports, .cnt] s v))

/-! ## Wenxel ports (R82-R100, R118-R121) -/

/-- The training of a port, where the lanes may be driven: DETECT to TRAIN on a signal, TRAIN to CAPS with one of the widest
allowed sets of the lanes locked, back to DETECT on a timeout, and the CAPS flit sent again on its timer, after which a port that
has the partner's leaves CAPS. Setting ENABLE takes an
OFF port to DETECT; clearing it takes a port without a partner to OFF; a LOST port with no request left goes to DETECT, or to OFF
where it is not enabled. No other port changes (R82, R85, R95, R119, R121). The model's reading: log 100. -/
def Obligations.PortTraining : Prop :=
  (∀ (port : Fin 16) (lanes : BitVec 4) (s : State), s.linkStage = true →
      ((s.port port.val).st = .detect → lanes ≠ 0 →
        exec (.signalDetect port lanes) s = .next (s.modPort port.val fun p => { p with st := .train, noSignal := false })) ∧
      ((s.port port.val).st = .detect →
        exec (.detectNoSignalTimeout port) s = .next (s.modPort port.val fun p => { p with noSignal := true })) ∧
      ((s.port port.val).st = .train → lanes ≠ 0 →
        ∃ t l, exec (.trainLock port lanes) s = .next t ∧ l ∈ widestSets lanes (s.port port.val).limit ∧ l &&& lanes = l ∧
          t = { s with fresh := s.fresh + 1 }.modPort port.val fun p =>
            { p with st := .caps, lanes := l, laneOk := lanes, trainFails := 0, capsDue := true, capsRx := false
                     scrambler := BitVec.allOnes 23 }) ∧
      ((s.port port.val).st = .train →
        exec (.trainTimeout port) s = .next (s.modPort port.val fun p => { p with
          st := .detect, lanes := 0, laneOk := 0, noSignal := false, capsDue := false, capsRx := false, rxExpect := 0, rxAny := false
          trainFails := p.trainFails + 1
          err := if (p.trainFails + 1) % 3 = 0 then orBit p.err 3 else p.err })) ∧
      ((s.port port.val).st = .caps →
        exec (.capsTimeout port) s = .next (s.modPort port.val fun p => { p with
          st := .detect, lanes := 0, laneOk := 0, noSignal := false, capsDue := false, capsRx := false, rxExpect := 0, rxAny := false })) ∧
      ((s.port port.val).st = .versionMismatch →
        exec (.lossOfSignal port) s = .next (s.modPort port.val fun p => { p with
          st := .detect, lanes := 0, laneOk := 0, noSignal := false, capsDue := false, capsRx := false, rxExpect := 0, rxAny := false })) ∧
      ((s.port port.val).st = .caps ∨ (s.port port.val).st = .versionMismatch →
        ∃ t, exec (.capsResendTimer port) s = .next t ∧ (t.port port.val).capsDue = false ∧
          t.out = s.flitOut port.val 2 0 0 (capsPayload port.val (s.port port.val).lanes) (s.port port.val).creditReturns :: s.out ∧
          ((s.port port.val).st = .caps → (s.port port.val).capsRx = false → (t.port port.val).st = .caps) ∧
          ((s.port port.val).st = .caps → (s.port port.val).capsRx = true →
            (t.port port.val).st = if (s.port port.val).partnerVersion.toNat / 16 = 1 then .active else .versionMismatch) ∧
          (∀ n, n ≠ port.val → t.port n = s.port n) ∧ Frame [.out, .ports] s t)) ∧
  (∀ (port : Fin 16) (s : State),
      (s.barOpen 0 = true → s.running = true → s.linkStage = true → (s.port port.val).st = .off →
        exec (.portEnable port) s = .next (s.modPort port.val fun p => { p with
          enable := true, st := .detect, lanes := 0, laneOk := 0, noSignal := false, capsDue := false, capsRx := false
          rxExpect := 0, rxAny := false })) ∧
      (s.barOpen 0 = true → s.running = true → (s.port port.val).st ≠ .off →
        exec (.portEnable port) s = .next (s.modPort port.val fun p => { p with enable := true })) ∧
      (s.barOpen 0 = true → s.running = true → (s.port port.val).st ∈ [PortSt.off, .detect, .train, .caps, .versionMismatch] →
        ∃ t, exec (.portDisable port) s = .next t ∧ (t.port port.val).st = .off ∧ (t.port port.val).enable = false ∧
          (t.port port.val).lanes = 0 ∧ (t.port port.val).txOrd = [] ∧ (t.port port.val).replay = [] ∧ (t.port port.val).tags = [] ∧
          (∀ n, n ≠ port.val → t.port n = s.port n) ∧ Frame [.ports] s t) ∧
      (s.pmc.powered = true → (s.port port.val).st = .lost → (s.held.any fun q => q.port? == some port.val) = false →
        ∃ t, exec (.lostCleanupComplete port) s = .next t ∧ (t.port port.val).tags = [] ∧
          (t.port port.val).st = (if (s.port port.val).enable ∧ s.hep.d3hot = false then .detect else .off) ∧
          (∀ n, n ≠ port.val → t.port n = s.port n) ∧ Frame [.ports] s t))

/-- The recovery of an ACTIVE port: a lost lane, or RETRAIN, begins it; a lock ends it with a set no wider than before unless
RETRAIN began it, RECALLs that wait go first, and every unacknowledged flit is sent again; a narrower set is an error and an event. Partner loss with no
request held: the port is LOST with its reason, one more loss, and nothing left to send; each line that the partner held under
lease is free and poisoned LEASE_LOST, and every other poison record stays (R85, R86, R118-R120). -/
def Obligations.PortRecovery : Prop :=
  (∀ (port : Fin 16) (lanes : BitVec 4) (s : State), s.linkStage = true →
      ((s.port port.val).st = .active → (s.port port.val).lanes &&& lanes ≠ 0 →
        ∃ t, exec (.laneLockLoss port lanes) s = .next t ∧ Frame [.ports] s t ∧
          ∀ n, t.port n = if n = port.val then
            { s.port n with st := .recovery, widen := false, laneOk := (s.port n).laneOk &&& ~~~lanes } else s.port n) ∧
      ((s.port port.val).st = .recovery →
        exec (.laneLockLoss port lanes) s = .next (s.modPort port.val fun p => { p with laneOk := p.laneOk &&& ~~~lanes })) ∧
      ((s.port port.val).st = .recovery → lanes ≠ 0 →
        ∃ t limit, exec (.recoveryLock port lanes) s = .next t ∧
          limit = (if (s.port port.val).widen then (s.port port.val).limit else min (s.port port.val).limit (laneCount (s.port port.val).lanes)) ∧
          (widestSets lanes limit ≠ [] → ∃ l ∈ widestSets lanes limit, (t.port port.val).st = .active ∧ (t.port port.val).lanes = l ∧
            (t.port port.val).laneOk = lanes ∧ (t.port port.val).toReplay = (s.port port.val).replay.length ∧
            (t.port port.val).widen = false ∧ (t.port port.val).txOrd = (s.port port.val).recallsFirst.txOrd ∧
            (t.port port.val).err = (if laneCount l < laneCount (s.port port.val).lanes then orBit (s.port port.val).err 2
              else (s.port port.val).err)) ∧
          (∀ n, n ≠ port.val → t.port n = s.port n) ∧ Frame [.fresh, .out, .fns, .ports, .elog] s t) ∧
      (s.barOpen 0 = true → s.running = true → (s.port port.val).st = .active →
        exec (.retrain port) s = .next (s.modPort port.val fun p => { p with st := .recovery, widen := true }))) ∧
  (∀ (port : Fin 16) (s : State) (i : Instr) (reason : Nat), s.linkStage = true → s.held = [] → s.still →
      (i = .recoveryTimeout port ∧ reason = 4 ∧ (s.port port.val).st = .recovery) ∨
      (i = .lockLossHoldExpiry port ∧ reason = 1 ∧ (s.port port.val).st = .recovery ∧
        (s.port port.val).laneOk &&& (s.port port.val).lanes = 0) ∨
      (i = .portDisable port ∧ reason = 5 ∧ s.barOpen 0 = true ∧ s.running = true ∧ (s.port port.val).st = .active) →
      ∃ t, exec i s = .next t ∧ (t.port port.val).st = .lost ∧ (t.port port.val).lossReason = reason ∧
        (t.port port.val).lossCount = ((s.port port.val).lossCount + 1) % 2 ^ 31 ∧
        (t.port port.val).txOrd = [] ∧ (t.port port.val).txTan = [] ∧ (t.port port.val).replay = [] ∧
        (t.port port.val).leasesRevoked = (s.leases.filter fun e => e.2.port == port.val).length ∧
        (∀ n l, tfind? s.leases n = some l → l.port = port.val →
          tfind? t.leases n = none ∧ tfind? t.hbm.poison n = some { reason := 2, kind := 7 }) ∧
        (∀ n, (∀ l, (n, l) ∈ s.leases → l.port ≠ port.val) → tfind? t.hbm.poison n = tfind? s.hbm.poison n) ∧
        t.hbm.mem = s.hbm.mem ∧ t.ctxs = s.ctxs ∧ t.regions = s.regions ∧ t.qos = s.qos ∧ t.flash = s.flash)

/-- A flit that fails its FEC or CRC is answered with a request for a replay, and another is taken as the FEC leaves it. A good DATA
flit of the expected SEQ is taken, with its ACK and its credits, and its slots are taken in order; of one ahead nothing is used and a
replay is asked for, a duplicate is discarded; an IDLE flit only brings ACK and credits; a RETRY_REQ sends the replay buffer again.
The CAPS flit of a partner of version 1.x brings up a port whose own has been sent; of another version the port is in
VERSION_MISMATCH. A flit of a reserved type is counted (R87-R98). Model's readings: logs 30, 31, 33, 131. -/
def Obligations.FlitsReceived : Prop :=
  (∀ (port : Fin 16) (f : Flit) (s : State) (q : Port), s.linkStage = true → (s.port port.val).st = .active →
      (∀ i ty, (i, ty) ∈ [(Instr.flitDataRx port f, 1), (.flitIdleRx port f, 0), (.flitCapsRx port f, 2), (.flitRetryReqRx port f, 3)] →
        (received ty f = none → (s.port port.val).rxWait = false → ∃ t, exec i s = .next t ∧ (∀ n, t.port n = if n = port.val then
            { s.port n with rxWait := true, retryReqDue := true } else s.port n) ∧ Frame [.out, .fns, .ports, .cnt] s t) ∧
        (∀ tg g n, received ty f = some (tg, g, n) →
          ∃ v, Counted s v ∧ (n = 0 → v = s) ∧ exec i s = .next (v.goodFlit port.val tg g State.message))) ∧
      (f.noise = 0 → ∀ d, d = (f.seq - (s.port port.val).rxExpect).toNat →
        (0 < d → d < 512 → (s.port port.val).rxWait = false →
          exec (.flitDataRx port f) s = .next (s.modPort port.val fun p => { p with rxWait := true, retryReqDue := true })) ∧
        (3584 ≤ d → exec (.flitDataRx port f) s = .next s)) ∧
      (f.noise = 0 → (s.port port.val).takeCredits [(f.craVc.toNat, f.craCnt.toNat), (f.crbVc.toNat, f.crbCnt.toNat)] = some q →
        (f.seq = q.rxExpect → f.slotcode = 0 → exec (.flitDataRx port f) s = .next (s.modPort port.val fun _ =>
          { q.takeAck f.ackValid f.ack with rxExpect := q.rxExpect + 1, rxAny := true, rxWait := false, failedRetries := 0 })) ∧
        (f.seq = q.rxExpect → exec (.flitDataRx port f) s = .next ((s.modPort port.val fun _ =>
          { q.takeAck f.ackValid f.ack with rxExpect := q.rxExpect + 1, rxAny := true, rxWait := false, failedRetries := 0 }).takeSlots
            port.val State.message (flitSlots f))) ∧
        (q.rxOrd = [] → q.rxTan = [] →
          exec (.flitIdleRx port f) s = .next (s.modPort port.val fun _ => q.takeAck f.ackValid f.ack)) ∧
        exec (.flitCapsRx port f) s = .next (s.modPort port.val fun _ => q.takeAck f.ackValid f.ack) ∧
        (∃ t, exec (.flitRetryReqRx port f) s = .next t ∧ Frame [.ports] s t ∧
          (t.port port.val).toReplay = (t.port port.val).replay.length ∧ (t.port port.val).replay = (q.takeAck f.ackValid f.ack).replay))) ∧
  (∀ (port : Fin 16) (f : Flit) (s : State), s.linkStage = true →
      ((s.port port.val).st = .caps → f.noise = 0 → (s.port port.val).capsDue = true →
        ∃ t, exec (.flitCapsRx port f) s = .next t ∧ (t.port port.val).st = .caps ∧ (t.port port.val).capsRx = true ∧
          (t.port port.val).partnerVersion = BitVec.ofNat 8 (f.payload.toNat % 256) ∧ (∀ n, n ≠ port.val → t.port n = s.port n) ∧
          Frame [.ports] s t) ∧
      ((s.port port.val).st = .caps → f.noise = 0 → (s.port port.val).capsDue = false → f.payload.toNat % 256 / 16 = 1 →
        ∃ t, exec (.flitCapsRx port f) s = .next t ∧ (t.port port.val).st = .active ∧ (t.port port.val).version = 0x10 ∧
          (t.port port.val).partnerVersion = BitVec.ofNat 8 (f.payload.toNat % 256) ∧
          (t.port port.val).linkUps = ((s.port port.val).linkUps + 1) % 2 ^ 16 ∧ (t.port port.val).txSeq = 0 ∧
          (t.port port.val).rxExpect = 0 ∧ (t.port port.val).replay = [] ∧ (t.port port.val).tags = [] ∧
          (∀ v, v < 4 → tget 0 (t.port port.val).txCred v = (f.payload.toNat >>> (8 * (8 + 2 * v))) % 2 ^ 16) ∧
          (∀ n, n ≠ port.val → t.port n = s.port n) ∧ Frame [.ports] s t) ∧
      ((s.port port.val).st = .caps → f.noise = 0 → (s.port port.val).capsDue = false → f.payload.toNat % 256 / 16 ≠ 1 →
        ∃ t, exec (.flitCapsRx port f) s = .next t ∧ (t.port port.val).st = .versionMismatch ∧
          (t.port port.val).err = orBit (s.port port.val).err 0 ∧ (∀ n, n ≠ port.val → t.port n = s.port n) ∧ Frame [.ports] s t) ∧
      (∀ ftype : BitVec 4, 4 ≤ ftype.toNat → f.noise = 0 → (s.port port.val).st.listens = true →
        exec (.flitReservedRx port ⟨ftype, f⟩) s = .next (s.modPort port.val fun p => { p with rsvFlits := p.rsvFlits + 1 })))

/-- One flit time of an ACTIVE port, with no command parked or waiting for another: RETRY_REQ where one is due; else the flit to be replayed next; else
a new DATA flit of the next SEQ, kept for replay, where a message may be sent and the replay buffer has room; else IDLE. A
timeout counts a failed retry: that of a replay that is awaited asks for it again, that of unacknowledged flits sends them again (R60, R91,
R92, R94, R100). Model's readings: logs
32, 72. -/
def Obligations.FlitsSent : Prop :=
  ∀ (port : Fin 16) (s : State) (p : Port), s.linkStage = true → p = s.port port.val → p.st = .active →
    ((∀ c, c ∈ s.cmds → c.st ≠ .parked ∧ s.shareWaits c = false) →
      (p.retryReqDue = true → ∃ t, exec (.flitTransmit port) s = .next t ∧ s.flitOut port.val 3 0 0 0 p.creditReturns ∈ t.out ∧
        (t.port port.val).retryReqDue = false ∧ (t.port port.val).replay = p.replay ∧ Frame [.out, .fns, .ports, .cnt] s t) ∧
      (∀ f, p.retryReqDue = false → p.replay[p.replay.length - p.toReplay]? = some f →
        ∃ t, exec (.flitTransmit port) s = .next t ∧
          s.flitOut port.val 1 f.seq.toNat f.slotcode.toNat f.payload f.credits ∈ t.out ∧
          (t.port port.val).toReplay = p.toReplay - 1 ∧ (t.port port.val).replay = p.replay ∧ Frame [.out, .fns, .ports, .cnt] s t) ∧
      (p.retryReqDue = false → p.replay[p.replay.length - p.toReplay]? = none → p.replay.length < 512 →
        (p.packFlit.slots.all fun e => e.1 == 0) = false →
        ∃ t f, exec (.flitTransmit port) s = .next t ∧ f.seq = p.txSeq ∧ f.credits = p.creditReturns ∧
          (t.port port.val).replay = p.replay ++ [f] ∧ (t.port port.val).txSeq = p.txSeq + 1 ∧
          t.out = s.flitOut port.val 1 f.seq.toNat f.slotcode.toNat f.payload f.credits :: s.out ∧ Frame [.out, .cmds, .ports] s t) ∧
      (p.retryReqDue = false → p.replay[p.replay.length - p.toReplay]? = none →
        (512 ≤ p.replay.length ∨ (p.packFlit.slots.all fun e => e.1 == 0) = true) →
        ∃ t, exec (.flitTransmit port) s = .next t ∧ t.out = s.flitOut port.val 0 0 0 0 p.creditReturns :: s.out ∧
          (t.port port.val).replay = p.replay ∧ (t.port port.val).txOrd = p.txOrd ∧ Frame [.out, .ports] s t)) ∧
    (p.failedRetries < 7 → p.rxWait = true ∨ p.replay ≠ [] →
      ∃ rx, exec (.retryTimeout port) s = .next ({ s with fresh := s.fresh + 1 }.modPort port.val fun q => if rx then
          { q with failedRetries := q.failedRetries + 1, rxWait := true, retryReqDue := true }
        else { q with failedRetries := q.failedRetries + 1, toReplay := q.replay.length }) ∧
        (p.rxWait = false → rx = false) ∧ (p.replay = [] → rx = true))

/-! ## Peers and transfers (R102-R104, R112-R117, R288-R291) -/

/-- The responses of a partner: data join the unit of the RD that asked for them, CPL_OK makes the unit of a WR or ACC visible,
CPL_ERR ends the transfer, with its tag free where it is the last response and in quarantine else, CPL_RETRY delays the request; a response that names no request of a transfer is an error of the port; a
reserved one is discarded and counted. A request that times out leaves its tag quarantined and ends its transfer; a reissue sends the request again; a
quarantined tag is free once its quarantine ends; a RECALL that times out ends the lease and poisons its line LEASE_LOST (R102,
R103, R113-R117, R291). The model's reading: log 30. -/
def Obligations.PeerTraffic : Prop :=
  (∀ (port : Fin 16) (r : Rsp) (s : State), s.running = true → (s.port port.val).st = .active →
      (∀ q xid k base n data, tfind? (s.port port.val).reqs r.tag.toNat = some q → q.use = .xfer xid k base n false → r.dkind = 0 →
        data.length = r.lines.toNat + 1 → r.lineOffset.toNat + data.length ≤ n → r.last = false →
        (∀ x, s.xfer? xid = some x → thas x.units k = true) → (s.xfer? xid).isSome = true →
        ∃ t, exec (.cplData port r data) s = .next t ∧ Frame [.ports, .xfers, .cnt] s t ∧
          (∀ x, t.xfer? xid = some x → ∀ i (h : i < data.length),
            tfind? (tget {} x.units k).data (base + r.lineOffset.toNat + i) = some data[i]) ∧
          (t.port port.val).reqs = (s.port port.val).reqs) ∧
      (∀ q xid k base n, tfind? (s.port port.val).reqs r.tag.toNat = some q → q.use = .xfer xid k base n true →
        ∃ w, exec (.cplOk port r) s = .next ((w.freeReq port.val r.tag.toNat).unitDone xid k) ∧ Frame [.ports, .cnt] s w) ∧
      (∀ q xid k base n wr, tfind? (s.port port.val).reqs r.tag.toNat = some q → q.use = .xfer xid k base n wr →
        ∃ t, exec (.cplErr port r) s = .next t ∧ t.xfer? xid = none ∧
          (s.held = [] → r.last = true → tfind? (t.port port.val).reqs r.tag.toNat = none) ∧
          (s.held = [] → r.last = false → (s.xfer? xid).isSome = true →
            (∀ m, m ∈ (s.port port.val).txOrd → m.reqTag ≠ some r.tag.toNat) →
            tfind? (t.port port.val).reqs r.tag.toNat = some { use := .quarantined, sent := q.sent })) ∧
      (∀ q xid k base n wr, tfind? (s.port port.val).reqs r.tag.toNat = some q → q.use = .xfer xid k base n wr →
        ∃ t, exec (.cplRetry port r) s = .next t ∧ Frame [.ports, .cnt] s t ∧
          tfind? (t.port port.val).reqs r.tag.toNat = some { q with retry := some (2000 * max r.retryAfter.toNat 1) }) ∧
      ((tfind? (s.port port.val).reqs r.tag.toNat = none ∨
          ∃ q, tfind? (s.port port.val).reqs r.tag.toNat = some q ∧ (q.use = .quarantined ∨ ∃ line, q.use = .recallReq line)) →
        ∀ i ∈ [Instr.cplOk port r, .cplErr port r, .cplRetry port r],
        ∃ t, exec i s = .next t ∧ Frame [.out, .fns, .ports, .cnt] s t ∧ (t.port port.val).err = orBit (s.port port.val).err 5) ∧
      (∀ o : BitVec 6, 0x24 ≤ o.toNat → ∃ t, exec (.reservedResponse port o r) s = .next t ∧ Frame [.ports, .cnt] s t ∧
        ∀ n, t.port n = { s.port n with
          owed := (t.port n).owed, rsvMsgs := if n = port.val then (s.port n).rsvMsgs + 1 else (s.port n).rsvMsgs })) ∧
  (∀ (port : Fin 16) (tag : BitVec 12) (s : State) (q : PortReq), tfind? (s.port port.val).reqs tag.toNat = some q →
      (∀ xid k base n wr, s.running = true → q.use = .xfer xid k base n wr → q.sent = true →
        ∃ t, exec (.reqTimeout port tag) s = .next t ∧ t.xfer? xid = none ∧
          tfind? (t.port port.val).reqs tag.toNat = some { use := .quarantined, sent := true }) ∧
      (∀ xid k off n wr c x, s.running = true → q.use = .xfer xid k off n wr → q.retry = some c → s.xfer? xid = some x →
        (s.port port.val).live = true →
        ∃ t, exec (.retryReissue port tag) s = .next t ∧ Frame [.ports] s t ∧
          (t.port port.val).txOrd = (s.port port.val).txOrd ++ [s.peerMsg x k off n tag.toNat wr] ∧
          tfind? (t.port port.val).reqs tag.toNat = some { q with retry := none }) ∧
      (q.use = .quarantined → s.held = [] →
        ∃ t, exec (.tagQuarantineExpiry port tag) s = .next t ∧ Frame [.ports] s t ∧ tfind? (t.port port.val).reqs tag.toNat = none ∧
          ∀ n, n ≠ tag.toNat → tfind? (t.port port.val).reqs n = tfind? (s.port port.val).reqs n) ∧
      (∀ line l, s.running = true → q.use = .recallReq line → q.sent = true → tfind? s.leases line = some l → s.held = [] →
        ∃ t, exec (.recallTimeout port tag) s = .next t ∧ tfind? t.leases line = none ∧
          tfind? t.hbm.poison line = some { reason := 2, kind := 7 } ∧ t.hbm.mem = s.hbm.mem ∧
          (∀ n, n ≠ line → tfind? t.leases n = tfind? s.leases n ∧ tfind? t.hbm.poison n = tfind? s.hbm.poison n) ∧
          (t.port port.val).err = orBit (s.port port.val).err 6))

/-- XFER_START starts the oldest queued transfer of an engine that runs fewer than 256; PEER_REQUEST_SEND asks a peer for the
data of a unit that has none, under a free requester tag and with VC1 slots for its whole response. XFER_UNIT_COMPLETE of the one unit of an XFER_FILL into pinned space,
where nothing is held, stores the pattern in its range and nowhere else, ends the transfer and answers its command; toward a peer
the unit waits for the peer's answer (R115, R287-R290). The model's reading: log 28. -/
def Obligations.TransfersRun : Prop :=
  ((∀ (engine : Fin 5) (s : State) (x : Xfer), s.running = true → s.hep.d3hot = false →
      (s.xfers.filter fun x => x.engine == engine.val && x.started).length < 256 →
      s.xfers.find? (fun x => x.engine == engine.val && !x.started) = some x → s.xfer? x.id = some x →
      ∃ t, exec (.xferStart engine) s = .next t ∧ (∃ y, t.xfer? x.id = some y ∧ y.started = true ∧ y.cmd = x.cmd) ∧
        t.hbm = s.hbm ∧ t.cmds = s.cmds ∧ t.ports = s.ports ∧ Frame [.fresh, .out, .fns, .xfers, .cnt] s t) ∧
    (∀ (s : State) (x : Xfer) (k n tag : Nat), s.running = true → s.hep.d3hot = false → s.xfer? x.id = some x → thas x.units k = true →
      x.kind ≠ .fill → x.src.kind = 2 → (tget {} x.units k).data = [] → x.size k = 64 * n → 0 < n →
      piecesOf (x.src.addr + x.off k) (x.size k) = [(x.src.addr + x.off k, x.size k)] →
      s.peerBusy x.src.port x.id k 0 false = false → s.freeReqTag? x.src.port = some tag → (s.port x.src.port).live = true →
      (s.port x.src.port).reserved + 3 * n ≤ 2048 →
      ∃ t, exec (.peerRequestSend x.id k) s = .next t ∧ Frame [.ports] s t ∧
        tfind? (t.port x.src.port).reqs tag = some { use := .xfer x.id k 0 n false } ∧
        (t.port x.src.port).txOrd = (s.port x.src.port).txOrd ++
          [{ vc := 0, slots := [reqSlot 0x01 x.src.ctx tag (x.src.addr + x.off k) (n - 1) 0 0], reqTag := some tag }])) ∧
  ((∀ (s : State) (x : Xfer) (c : Cmd) (t : Trans) (r : Region) (n : Nat), s.running = true → s.hep.d3hot = false → s.held = [] →
      s.xfer? x.id = some x → thas x.units 0 = true → x.kind = .fill → x.dst.kind = 0 → x.done = [] → x.count = 1 → x.len = 64 * n → 0 < n →
      piecesOf x.dst.addr x.len = [(x.dst.addr, x.len)] → x.dst.addr % 64 = 0 →
      s.translate x.ctx x.dst.addr x.len .wr false = some t → s.region? t.region = some r → r.tiered = false → r.leased = false →
      r.moving = none →
      (r.auto = true → x.dst.addr % 4096 = 0 ∧ n = 64) → s.writeBlocked (t.za / 64) n r.auto = none → s.vacant n →
      s.cmd? x.cmd = some c → c.st = .running →
      let data := List.replicate n (lineOf ((List.replicate 8 (leBytes 8 x.pattern.toNat)).flatten))
      ∃ (w v : State), exec (.xferUnitComplete x.id 0) s = .next w ∧ w = v.replyTo x.cmd 0 x.len ∧ v.xfer? x.id = none ∧
        (r.auto = false → v.hbm.mem = writeBytes s.hbm.mem (64 * (t.za / 64)) (data.flatMap lineBytes) ∧
          ∀ a, (a < 64 * (t.za / 64) ∨ 64 * (t.za / 64) + 64 * n ≤ a) → readByte v.hbm.mem a = readByte s.hbm.mem a) ∧
        (r.auto = true → v.hbm = s.hbm ∧ ∃ e, e ∈ v.wbuf ∧ e.block = true ∧ e.line = t.za / 64 / 64 * 64 ∧ e.data = data) ∧
        v.cmds = s.cmds) ∧
    (∀ (s : State) (x : Xfer) (k : Nat), s.running = true → s.hep.d3hot = false → s.xfer? x.id = some x → thas x.units k = true →
      x.dst.kind = 2 →
      ∃ t, exec (.xferUnitComplete x.id k) s = .next t ∧ t.hbm = s.hbm ∧ t.cmds = s.cmds ∧ t.ports = s.ports ∧
        Frame [.fresh, .out, .fns, .xfers, .cnt] s t))

/-! ## The host side (R5, R56, R64, R343-R345, R350-R372, R411-R413) -/

/-- A held reply is written to its ring where the ring has room, at PROD, and its command ends; a host read takes its data, by
generation and slot, piece by piece; one that times out quarantines its slot, logs AER and fails its command; the quarantine ends
(R60, R64, R65, R343-R345, R370). No parked or waiting sharing command stands in the first two. Model's readings: logs 22, 73. -/
def Obligations.HostTraffic : Prop :=
  (∀ (fn : Fin 256) (s : State) (r : Reply) (rest : List Reply), s.running = true → (s.fn fn.val).bme = true → (s.fn fn.val).flr = false →
    s.hep.d3hot = false → (s.fn fn.val).ring.enabled = true → (s.fn fn.val).ring.full = false → (s.fn fn.val).ring.held = r :: rest →
    (∀ c, c ∈ s.cmds → c.st ≠ .parked ∧ s.shareWaits c = false) →
    ∃ t, exec (.replyRingWrite fn) s = .next t ∧
      Out.hostWrite fn.val (4096 * (s.fn fn.val).ring.base.toNat + 32 * ((s.fn fn.val).ring.prod.toNat % (s.fn fn.val).ring.size))
        (r.bytes (s.fn fn.val).ring.phase) false ∈ t.out ∧
      (t.fn fn.val).ring = { (s.fn fn.val).ring with prod := (s.fn fn.val).ring.prod + 1, held := rest } ∧
      t.cmds = s.cmds.filter (fun c => some c.id != r.cmd) ∧ Frame [.out, .fns, .cmds, .cnt] s t) ∧
  (∀ (fn : Fin 256) (s : State), (s.fn fn.val).ring.full = true ∨ (s.fn fn.val).ring.held = [] →
    (∀ c, c ∈ s.cmds → c.st ≠ .parked ∧ s.shareWaits c = false) → exec (.replyRingWrite fn) s = .next s) ∧
  (∀ (fn : Fin 256) (tag : BitVec 14) (status : CplStatus) (data : List Byte) (s : State), s.running = true →
    (tag.toNat / 2 ^ (s.fn fn.val).slotBits ≠ (s.fn fn.val).genField →
      ∃ t, exec (.hostCompletion fn tag status data) s = .next t ∧ t.hep = { s.hep with staleCpl := min (s.hep.staleCpl + 1) 0xFFFF } ∧
        (∀ n, (t.fn n).reads = (s.fn n).reads) ∧ Frame [.out, .fns, .hep, .cnt] s t) ∧
    (∀ r id, tag.toNat / 2 ^ (s.fn fn.val).slotBits = (s.fn fn.val).genField →
      tfind? (s.fn fn.val).reads (tag.toNat % 2 ^ (s.fn fn.val).slotBits) = some r → r.use = .cmd id → status = .good →
      data ≠ [] → r.got + data.length < r.len →
      ∃ t, exec (.hostCompletion fn tag status data) s = .next t ∧
        tfind? (t.fn fn.val).reads (tag.toNat % 2 ^ (s.fn fn.val).slotBits) = some { r with got := r.got + data.length } ∧
        t.cmds = (s.cmds.map fun c => if c.id == id then
          (if c.data.length < r.off + r.got + data.length then c else c.arrived (r.off + r.got) data) else c) ∧
        Frame [.out, .fns, .cmds, .cnt] s t)) ∧
  (∀ (fn : Fin 256) (slot : BitVec 10) (s : State) (r : HostRead), s.running = true → tfind? (s.fn fn.val).reads slot.toNat = some r →
    (∀ id c a, (s.fn fn.val).ctoDis = false → r.use = .cmd id → s.cmd? id = some c → c.st = .running → c.opcode ≠ 0x0900 →
      c.via = .aperture a → c.lost = false →
      ∃ w v, exec (.completionTimeout fn slot) s = .next v.hostGo ∧ Answered w v c c.p.context stUncorrectable 0 0 ∧
        tfind? (w.fn fn.val).reads slot.toNat = some { r with use := .quarantined } ∧
        (w.fn fn.val).aerUnc = orBit (s.fn fn.val).aerUnc 14 ∧ Frame [.out, .fns] s w) ∧
    (r.use = .quarantined → ∃ w, exec (.hostTagQuarantineExpiry fn slot) s = .next w.hostGo ∧ Frame [.fns] s w ∧
      ∀ k, tfind? (w.fn fn.val).reads k = if k = slot.toNat then none else tfind? (s.fn fn.val).reads k))

/-- The commits apply the shadowed fields together: of a reply ring, which starts afresh where its address or size changes; of
the regulation, where a changed reserve brings a new derating; of a directory die, where HIGH_WATER is above LOW_WATER; of an FLS
die; of the host windows, or the first entry that fails. As BAR0 writes they are taken where the function's BARs are open, and are
Unsupported Requests, with nothing applied, while Memory Space Enable is clear or an FLR is under way (R5, R64, R155, R158, R351,
R358). The model's reading: log 60. -/
def Obligations.CommitsApply : Prop :=
  (∀ (fn : Fin 256) (s : State), s.running = true → s.barOpen fn.val = true →
    ∃ t, exec (.hepRplCommit fn) s = .next t ∧ Frame [.fns] s t ∧ ∀ n, t.fn n = if n = fn.val then
      let g := (s.fn n).ring
      let same := g.baseSh = g.base ∧ bits g.ctrlSh.toNat 11 8 = bits g.ctrl.toNat 11 8
      { s.fn n with ring := { g with base := g.baseSh, ctrl := g.ctrlSh, prod := if same then g.prod else 0
                                     cons := if same then g.cons else 0 } } else s.fn n) ∧
  (∀ s : State, s.running = true → s.barOpen 0 = true →
    ∃ t, exec .qosCommit s = .next t ∧ t.qos.cfg = s.qos.cfgSh ∧ t.qos.tan = s.qos.tanSh ∧ Frame [.qos, .fns, .out] s t ∧
      (bits s.qos.cfgSh.toNat 31 24 = s.qos.reserve → t = { s with qos := { s.qos with cfg := s.qos.cfgSh, tan := s.qos.tanSh } }) ∧
      (bits s.qos.cfgSh.toNat 31 24 ≠ s.qos.reserve → s.scRunning = true → t.qos.derate = t.derateNow)) ∧
  (∀ (die : Fin 2) (s : State), s.running = true → s.barOpen 0 = true → s.variantH = false →
    ((s.dirDie die.val).highSh ≤ (s.dirDie die.val).lowSh → exec (.gnmCommit die) s = .next s) ∧
    ((s.dirDie die.val).lowSh < (s.dirDie die.val).highSh → ∃ t, exec (.gnmCommit die) s = .next t ∧ Frame [.dirs] s t ∧
      ∀ d, t.dirDie d = if d = die.val then { s.dirDie d with
        low := (s.dirDie d).lowSh, high := (s.dirDie d).highSh, pressure := (t.dirDie d).pressure } else s.dirDie d)) ∧
  (∀ (fls : Fin 2) (s : State), s.running = true → s.barOpen 0 = true → s.variantH = false →
    ∃ t, exec (.flsCommit fls) s = .next t ∧ Frame [.flss] s t ∧ (∀ d, t.fls d = { s.fls d with cfg := (t.fls d).cfg }) ∧
      (bits (s.fls fls.val).cfgSh.toNat 47 40 < bits (s.fls fls.val).cfgSh.toNat 39 32 → (t.fls fls.val).cfg = (s.fls fls.val).cfgSh)) ∧
  (∀ s : State, s.running = true → s.barOpen 0 = true →
    ((∀ e, e ∈ s.hep.hwin → e.2.valid = true → s.hwinCheck e.1 e.2 = none) →
      ∃ t, exec .hepHwinCommit s = .next t ∧ Frame [.hep] s t ∧ t.hep = { s.hep with hwinOn := t.hep.hwinOn, hwinStatus := 0, hwinEntry := 0 } ∧
        (∀ e, e ∈ s.hep.hwin → e.2.valid = true → ∃ o, (e.1, o) ∈ t.hep.hwinOn ∧ o.w = e.2) ∧
        (∀ e, e ∈ t.hep.hwinOn → (e.1, e.2.w) ∈ s.hep.hwin ∧ e.2.w.valid = true)) ∧
    (∀ pre e post st, (s.hep.hwin.filter fun e => e.2.valid) = pre ++ e :: post → (∀ x, x ∈ pre → s.hwinCheck x.1 x.2 = none) →
      s.hwinCheck e.1 e.2 = some st →
      exec .hepHwinCommit s = .next { s with hep := { s.hep with hwinStatus := st, hwinEntry := e.1 } })) ∧
  (∀ (fn : Fin 256) (d : Fin 2) (s : State) (i : Instr), s.pmc.powered = true → s.hep.cfgReady = true → s.hep.d3hot = false →
    s.hasFn fn.val = true → (s.fn fn.val).mse = false ∨ (s.fn fn.val).flr = true →
    i = .hepRplCommit fn ∨ (fn = 0 ∧ i ∈ [Instr.qosCommit, .gnmCommit d, .flsCommit d, .hepHwinCommit]) →
    ∃ t, exec i s = .next t ∧ Frame [.out, .fns] s t ∧ (t.fn fn.val).ring = (s.fn fn.val).ring ∧
      (t.fn fn.val).aerUnc = orBit (s.fn fn.val).aerUnc 20 ∧ ∀ n, n ≠ fn.val → t.fn n = s.fn n)

/-- Writes of registers and of apertures, Memory Space Enable and Bus Master Enable: a write of CAP in its range sets it and one
outside leaves it, a consumer index is the host's, W1C clears what is written as 1; a write of another size is an Unsupported
Request. A configuration request before configuration space is ready or during an FLR gets Request Retry Status. A read changes no register: it returns the current value, the shadow of a field applied by a commit and zero for the commit
itself, the value in force from its ACTIVE register, and zero for reserved bits. The write that completes a slot submits its packet
(R4, R6, R7, R56, R64, R351, R352, R364, R365, R367, R398). Model's readings: logs 16, 105, 113, 118. -/
def Obligations.RegistersWritten : Prop :=
  (∀ (fn : Fin 256) (s : State), s.pmc.ready = true → s.barOpen fn.val = true →
    (∀ v : BitVec 64, fn.val = 0 → exec (.registerWrite .bar0 fn 0x220000 8 v) s = .next { s with pmc := { s.pmc with
      cap := if 900 ≤ v.toNat % 2048 ∧ v.toNat % 2048 ≤ 1700 then v.toNat % 2048 else s.pmc.cap } }) ∧
    (∀ v : BitVec 64, fn.val = 0 → exec (.registerWrite .bar0 fn 0x220018 8 v) s = .next { s with pmc := { s.pmc with
      err := s.pmc.err &&& ~~~(BitVec.ofNat _ v.toNat) } }) ∧
    (∀ (v : BitVec 64) (off : BitVec 26), off = (if fn.val = 0 then 0x100118 else 0x118) →
      ∃ t, exec (.registerWrite .bar0 fn off 4 v) s = .next t ∧ Frame [.fns] s t ∧ ∀ n, t.fn n = if n = fn.val then
        { s.fn n with ring := { (s.fn n).ring with cons := BitVec.ofNat 32 v.toNat } } else s.fn n) ∧
    (∀ (v : BitVec 64) (off : BitVec 26), ∃ t, exec (.registerWrite .bar0 fn off 2 v) s = .next t ∧ Frame [.out, .fns] s t ∧
      ∀ n, t.fn n = if n = fn.val then { s.fn n with
        aerUnc := orBit (s.fn n).aerUnc 20, aerFirst := (t.fn n).aerFirst, aerHdrs := (t.fn n).aerHdrs } else s.fn n) ∧
    (∀ base : Nat, base = (if fn.val = 0 then 0x100000 else 0) →
      (s.readBar fn.val (base + 0x108) 8).1 = .value (s.fn fn.val).ring.ctrlSh.toNat ∧
      (s.readBar fn.val (base + 0x120) 8).1 = .value 0 ∧
      (s.readBar fn.val (base + 0x128) 8).1 = .value (s.fn fn.val).ring.ctrl.toNat ∧
      (s.readBar fn.val (base + 0x118) 4).1 = .value (s.fn fn.val).ring.cons.toNat) ∧
    (fn.val = 0 → (s.readBar 0 0x220000 8).1 = .value (s.pmc.cap % 2048) ∧ (s.readBar 0 0x220000 4).1 = .value (s.pmc.cap % 2048) ∧
      (s.readBar 0 0x220004 4).1 = .value 0) ∧
    (∀ off size : Nat, Frame [.fresh, .out, .fns] s (s.readBar fn.val off size).2) ∧
    (∀ off, (s.readBar fn.val off 2).1 = .unsupported) ∧
    (∀ (off : BitVec 20) (bytes : List Byte) (w : Slot), s.pmc.fatal = false → off.toNat / 64 < apertureSlots fn.val → bytes ≠ [] →
      off.toNat % 64 + bytes.length ≤ 64 → w = (tget {} (s.fn fn.val).slots (off.toNat / 64)).write (off.toNat % 64) bytes →
      ∃ t, (∀ n, t.fn n = if n = fn.val then { s.fn n with slots := (t.fn fn.val).slots } else s.fn n) ∧ Frame [.fns] s t ∧
        (∀ k, tget {} (t.fn fn.val).slots k = if k = off.toNat / 64 then (if w.mask = BitVec.allOnes 64 then {} else w)
          else tget {} (s.fn fn.val).slots k) ∧
        (w.mask ≠ BitVec.allOnes 64 → exec (.apertureSlotWrite fn off bytes) s = .next t) ∧
        (w.mask = BitVec.allOnes 64 → exec (.apertureSlotWrite fn off bytes) s =
          .next (t.submitPacket (packetOf w.data).1 (.aperture fn) (packetOf w.data).2)))) ∧
  (∀ (fn : Fin 256) (s : State), s.cfgOpen fn.val = true →
    (∃ t, exec (.memorySpaceDisable fn) s = .next t ∧ Frame [.fns] s t ∧
      ∀ n, t.fn n = if n = fn.val then { s.fn n with mse := false } else s.fn n) ∧
    (∃ t, exec (.bmeClear fn) s = .next t ∧ Frame [.fns] s t ∧
      ∀ n, t.fn n = if n = fn.val ∧ (s.fn n).bme = true then { s.fn n with bme := false, paused := true } else s.fn n) ∧
    (∃ w, exec (.bmeSet fn) s = .next w.resume ∧ Frame [.fns] s w ∧
      (∀ n, w.fn n = if n = fn.val then { s.fn n with bme := true, paused := false } else s.fn n) ∧
      (s.running = false → w.resume = w))) ∧
  (∀ (fn : Fin 256) (s : State) (i : Instr), s.pmc.powered = true → s.pmc.perst = false → s.hep.l2 = false →
    s.hep.cfgReady = false ∨ (s.fn fn.val).flr = true → i ∈ [Instr.memorySpaceDisable fn, .bmeClear fn, .bmeSet fn] →
    exec i s = .next { s with out := .cfgRetry fn.val :: s.out })

/-- An FLR, with nothing held: the next tag generation, nothing of the function left but its quotas, no ACTIVE context, and no
command of its aperture; VF Enable cleared and the PF's FLR do so for every VF, and the latter resets quotas, host windows,
classes, counters and the PF's own registers; a hot reset also clears Bus Master, Memory Space and MSI-X Enable, and from D3hot
takes the device to D0. All of them act in a fatal device and before it is ready too. FLR_COMPLETE lets the function answer
again. D3hot takes every port to LOST with REASON 6 or to OFF, and D0 takes the ports that are enabled to DETECT, unless the device
is fatal; PME_Turn_Off is acknowledged; a PME event wakes the host in L2 and is sent in D3hot; the attention button counts its presses; configuration space
becomes ready (R118, R350, R363-R372, R412, R413). Model's readings: logs 16, 21, 81, 82. -/
def Obligations.FunctionResets : Prop :=
  ((∀ (n : Fin 256) (s : State), n.val ≠ 0 → s.cfgOpen n.val = true → s.held = [] →
      ∃ t, exec (.vfFlr n) s = .next t ∧ (t.fn n.val).gen = ((s.fn n.val).gen + 1) % 16 ∧ (t.fn n.val).flr = true ∧
        (t.fn n.val).bme = false ∧ (t.fn n.val).slots = [] ∧ (t.fn n.val).reads = [] ∧ (t.fn n.val).maxCtx = (s.fn n.val).maxCtx ∧
        (t.fn n.val).hbmQuota = (s.fn n.val).hbmQuota ∧ (t.fn n.val).tierQuota = (s.fn n.val).tierQuota ∧
        (∀ c, c ∈ t.cmds → c.via ≠ .aperture n) ∧ (∀ c, (s.ctx c).owner = n.val → (t.ctx c).st ≠ .active)) ∧
    (∀ s : State, s.cfgOpen 0 = true → s.hep.vfEnable = true → s.held = [] →
      ∃ t, exec .vfEnableClear s = .next t ∧ t.hep.vfEnable = false ∧ ∀ n, 1 ≤ n → n < 256 →
        (t.fn n).gen = ((s.fn n).gen + 1) % 16 ∧ (t.fn n).flr = true ∧ ∀ c, (s.ctx c).owner = n → (t.ctx c).st ≠ .active) ∧
    (∀ (s : State) (i : Instr), s.held = [] → (i = .pfFlr ∧ s.cfgOpen 0 = true) ∨
        (i = .hotReset ∧ s.pmc.powered = true ∧ s.pmc.rails = true ∧ s.pmc.perst = false ∧ s.hep.l2 = false) →
      ∃ t, exec i s = .next (if i = .hotReset ∧ s.hep.d3hot = true then t.leaveD3 else t) ∧
        (t.fn 0).gen = ((s.fn 0).gen + 1) % 16 ∧ (t.fn 0).flr = true ∧ t.hep.hwin = [] ∧ t.hep.hwinOn = [] ∧
        t.hep.hwinStatus = 0 ∧ t.hep.staleCpl = 0 ∧ t.hep.cxlRefused = 0 ∧ t.hep.portWake = 0 ∧ t.hep.btnWake = false ∧
        t.hep.vfEnable = false ∧ t.cnt.p = [] ∧ t.qos.classes = State.reset.qos.classes ∧
        (t.fn 0).maxCtx = 0xFFF ∧ (t.fn 0).hbmQuota = 0x3FFFFFF ∧ (t.fn 0).tierQuota = 0xFFFFFFFF ∧
        (∀ n, 1 ≤ n → n < 256 → (t.fn n).maxCtx = 0 ∧ (t.fn n).hbmQuota = 0 ∧ (t.fn n).tierQuota = 0) ∧
        (∀ c, (s.ctx c).owner = 0 → (t.ctx c).st ≠ .active) ∧
        (i = .hotReset → t.hep.memEnable = false ∧ ∀ n, (t.fn n).bme = false ∧ (t.fn n).mse = false ∧ (t.fn n).msixOn = false)) ∧
    (∀ (fn : Fin 256) (s : State), s.pmc.powered = true → s.pmc.fatal = false →
      (∀ e, e ∈ s.ctxs → e.2.owner = fn.val → e.2.st ≠ .draining) →
      ∃ t, exec (.flrComplete fn) s = .next t ∧ Frame [.fns] s t ∧ ∀ n, t.fn n = if n = fn.val then { s.fn n with flr := false } else s.fn n)) ∧
  ((∀ s : State, s.cfgOpen 0 = true → s.hep.d3hot = false → s.held = [] →
      ∃ t, exec .d3hotEntry s = .next t ∧ t.hep.d3hot = true ∧ ∀ p, p < 16 →
        ((s.port p).live = true → (t.port p).st = .lost ∧ (t.port p).lossReason = 6) ∧
        ((s.port p).live = false → (s.port p).st ≠ .lost → (t.port p).st = .off)) ∧
    (∀ s : State, s.cfgOpen 0 = true → s.hep.d3hot = true → exec .d3hotEntry s = .next s ∧
      ∃ w, exec .d3hotExit s = .next w.fwReview.resume ∧ w.hep = { s.hep with d3hot := false } ∧ Frame [.hep, .ports] s w ∧
        ∀ p, p < 16 → w.port p = if s.pmc.fatal = false ∧ (s.port p).st = .off ∧ (s.port p).enable = true then (s.port p).detect
          else s.port p) ∧
    (∀ s : State, s.cfgOpen 0 = true → s.hep.d3hot = false → exec .d3hotExit s = .next s) ∧
    (∀ s : State, s.pmc.powered = true → s.hep.cfgReady = true →
      exec .pmeTurnOff s = .next { s with hep := { s.hep with l2 := true }, out := .pmeToAck :: s.out }) ∧
    (∀ (src : PmeSource) (s : State), s.pmc.powered = true ∨ s.pmc.standby = true →
      ((src = .button ∧ s.hep.btnWake = true) ∨ (∃ p, src = .port p ∧ s.hep.portWake.getLsbD p.val = true) →
        (s.hep.l2 = true → exec (.pmeEvent src) s = .next { s with hep := { s.hep with wake := true, pmeStatus := true } }) ∧
        (s.hep.l2 = false → s.hep.d3hot = true → exec (.pmeEvent src) s = .next { s with
          hep := { s.hep with pmeStatus := true }, out := if s.hep.pmeEn then .pmPme :: s.out else s.out }))) ∧
    (∀ s : State, s.pmc.powered = true ∨ s.pmc.standby = true →
      ∃ t, exec .attnButtonPress s = .next t ∧ Frame [.out, .fns, .hep] s t ∧ t.hep = { s.hep with
        btnPressed := true, btnLevel := true, pressCount := (s.hep.pressCount + 1) % 256 }) ∧
    (∀ s : State, s.pmc.powered = true → s.pmc.rails = true → s.pmc.perst = false → s.hep.cfgReady = false →
      ∃ t speed width, exec .configSpaceReady s = .next t ∧ Frame [.fresh, .hep] s t ∧ 1 ≤ speed ∧ speed ≤ 6 ∧
        width ∈ [1, 2, 4, 8, 16] ∧ t.hep = { s.hep with cfgReady := true, linkSpeed := speed, linkWidth := width }))

/-- CXL.mem: a read of a line that a host window of an ACTIVE context maps onto pinned space without leases is answered with the
line; a write stores it, with poison a record of it, and is answered Cmp; a request that no window takes is refused. MemSpecRd
changes nothing, MemInv is answered, MemWrPtl is counted and not performed, any other opcode is a protocol error, and RAS records
them; a fatal device answers reads with poison. A read without allowance is held at CTL's regulator within HOLD_CAP; beyond it, and
behind a request that waits, every kind of request waits unanswered for the host's credits (R147, R148, R356, R359, R360, R371). Model's readings: logs 16, 139. -/
def Obligations.CxlRequests : Prop :=
  (∀ (dpa : BitVec 42) (tag : BitVec 16) (s : State) (h : HWinOn) (r : Region) (za : Nat), s.cxlOn = true → s.running = true →
    s.hostWindow (dpa.toNat / 64 * 64) = some h → za = h.zaPage * 65536 + (dpa.toNat / 64 * 64 - h.w.dpaPage * 65536) →
    s.region? h.region = some r → s.isActive h.w.ctx = true → s.held = [] → s.still → 0 < ((s.regulator 4).get h.w.ctx).allow →
    r.tiered = false → r.auto = false → r.leased = false → s.hep.cxlWait = [] → s.pmc.fatal = false →
    (h.w.rd = true → s.clean (za / 64) = true → ∃ t, exec (.memRd dpa tag) s = .next t ∧
      t.out.head? = some (.cxlData tag.toNat (readLine s.hbm.mem (za / 64)) false) ∧ t.hbm = s.hbm ∧ t.held = [] ∧
      Frame (.qos :: Piece.served) s t) ∧
    (∀ data, h.w.wr = true → s.writeBlocked (za / 64) 1 false = none → s.vacant 1 → ∃ t, exec (.memWr dpa tag data) s = .next t ∧
      t.out.head? = some (.cxlCmp tag.toNat) ∧ t.hbm.mem = writeLine s.hbm.mem (za / 64) data ∧ tfind? t.hbm.poison (za / 64) = none ∧
      t.held = [] ∧ Frame (.qos :: Piece.served) s t) ∧
    (∀ data, h.w.wr = true → s.writeBlocked (za / 64) 1 false = none → s.vacant 1 → ∃ t, exec (.memWrPoison dpa tag data) s = .next t ∧
      t.out.head? = some (.cxlCmp tag.toNat) ∧ tfind? t.hbm.poison (za / 64) = some { reason := 1, kind := 0 } ∧ t.held = [] ∧
      Frame (.qos :: Piece.served) s t)) ∧
  (∀ (dpa : BitVec 42) (tag : BitVec 16) (data : Line) (s : State), s.cxlOn = true → s.pmc.fatal = false ∨ s.pmc.ready = false →
    s.hostWindow (dpa.toNat / 64 * 64) = none → s.hep.cxlWait = [] →
    (∃ t, exec (.memRd dpa tag) s = .next t ∧ t.out.head? = some (.cxlData tag.toNat 0 true) ∧
      t.hep.cxlRefused = min (s.hep.cxlRefused + 1) 0xFFFF ∧ t.hep.rasStatus = orBit s.hep.rasStatus (Config.cxlRasBit 0).val ∧ Frame [.out, .fns, .hep, .cnt] s t) ∧
    (∃ t, exec (.memWr dpa tag data) s = .next t ∧ t.out.head? = some (.cxlCmp tag.toNat) ∧
      t.hep.cxlRefused = min (s.hep.cxlRefused + 1) 0xFFFF ∧ Frame [.out, .fns, .hep, .cnt] s t)) ∧
  (∀ (dpa : BitVec 42) (tag : BitVec 16) (data : Line) (s : State), s.hep.cxlWait ≠ [] → s.pmc.fatal = false →
    exec (.memRd dpa tag) s = .next { s with hep := { s.hep with
      cxlWait := s.hep.cxlWait ++ [{ dpa := dpa.toNat, tag := tag.toNat }] } } ∧
    exec (.memWr dpa tag data) s = .next { s with hep := { s.hep with
      cxlWait := s.hep.cxlWait ++ [{ dpa := dpa.toNat, tag := tag.toNat, write := some data }] } } ∧
    exec (.memInv dpa tag) s = .next { s with hep := { s.hep with
      cxlWait := s.hep.cxlWait ++ [{ kind := .inv, dpa := dpa.toNat, tag := tag.toNat }] } } ∧
    ∀ enables, exec (.memWrPtl dpa tag enables data) s = .next { s with hep := { s.hep with
      cxlWait := s.hep.cxlWait ++ [{ kind := .partial_, dpa := dpa.toNat, tag := tag.toNat }] } }) ∧
  (∀ (dpa : BitVec 42) (tag : BitVec 16) (s : State) (h : HWinOn) (r : Region) (za : Nat), s.cxlOn = true → s.running = true →
    s.hostWindow (dpa.toNat / 64 * 64) = some h → za = h.zaPage * 65536 + (dpa.toNat / 64 * 64 - h.w.dpaPage * 65536) →
    s.region? h.region = some r → s.isActive h.w.ctx = true → h.w.rd = true → s.hep.cxlWait = [] → s.pmc.fatal = false →
    ((s.regulator 4).get h.w.ctx).allow ≤ 0 →
    (s.heldSlots h.w.ctx none + 1 ≤ s.qos.holdCap → ∃ t q, exec (.memRd dpa tag) s = .next t ∧ q ∈ t.held ∧ q.id = s.nextId ∧
      q.hold = .regulator 4 ∧ q.za = za ∧ q.op = .rd ∧ t.held.length = s.held.length + 1 ∧ t.hbm = s.hbm ∧
      Frame [.out, .fns, .nextId, .held, .cnt] s t) ∧
    (s.qos.holdCap < s.heldSlots h.w.ctx none + 1 → exec (.memRd dpa tag) s = .next { s with hep := { s.hep with
      cxlWait := [{ dpa := dpa.toNat, tag := tag.toNat }] } })) ∧
  (∀ (dpa : BitVec 42) (tag : BitVec 16) (data : Line) (enables : BitVec 64) (opcode : BitVec 8) (s : State), s.cxlOn = true →
    (s.pmc.ready = true → s.pmc.fatal = true →
      exec (.memRd dpa tag) s = .next { s with out := .cxlData tag.toNat 0 true :: s.out } ∧
      exec (.memWr dpa tag data) s = .next s) ∧
    exec (.memSpecRd dpa tag) s = .next s ∧
    (s.pmc.fatal = false → s.hep.cxlWait = [] →
      exec (.memInv dpa tag) s = .next { s with out := .cxlCmp tag.toNat :: s.out } ∧
      ∃ t, exec (.memWrPtl dpa tag enables data) s = .next t ∧ t.out.head? = some (.cxlCmp tag.toNat) ∧
        t.hep = { s.hep with ptlDropped := min (s.hep.ptlDropped + 1) 0xFFFF, ptlSeen := true, cxlRas := s.hep.cxlRas + 1
                             rasStatus := orBit s.hep.rasStatus (Config.cxlRasBit 1).val, rasFirst := t.hep.rasFirst } ∧
        Frame [.out, .fns, .hep, .cnt] s t) ∧
    (s.pmc.fatal = false → ∃ t, exec (.cxlOtherOpcode opcode) s = .next t ∧ Frame [.hep] s t ∧
      t.hep = { s.hep with cxlRas := s.hep.cxlRas + 1, rasStatus := orBit s.hep.rasStatus (Config.cxlRasBit 2).val
                           rasFirst := t.hep.rasFirst }))

/-! ## Memory dies, the tier and flash (R126, R127, R142, R157-R178, R198-R213, R269, R302-R341, R416-R428) -/

/-- The memory dies' own steps: the next entry of a write buffer drains and leaves it, with its parity owed, as a delta that holds what
was wrong in the old copy, or written fresh with its stripe's other lines; the oldest delta that may be is applied, and the parity
takes those bits over; an atomic line is dropped; an entry ages; a refresh, which is the window of a band change in its turn, a
temperature reading, the rows and the laps of the scrubber, and a lap that is late. A compressed block is encoded as it drains, and its
stored lines written, but for one that a fill stored; of any other line no stored byte changes, and it has fresh check bits. The scrubber
goes on where it stopped, meets what is wrong, and ends a lap only when every line has been read (R50, R126, R127, R142, R192, R303,
R304, R312, R314). Model's readings: logs 15, 24, 57, 70, 159. -/
def Obligations.MemorySteps : Prop :=
  (∀ (stack : Fin 20) (s : State), s.pmc.powered = true →
    ((s.nextDrain stack.val).1 = none → exec (.writeBufferDrain stack) s = .next s) ∧
    (∀ e, (s.nextDrain stack.val).1 = some e →
      ∃ t, exec (.writeBufferDrain stack) s = .next t ∧ (∀ w, w ∈ t.wbuf → w ∈ s.wbuf ∧ w.seq ≠ e.seq) ∧
        e ∈ s.wbuf ∧ e.stack = stack.val ∧ s.mayDrain e = true ∧
        (∀ i r, s.regionAt (64 * e.line) = some (i, r) → r.stripe = false → t.wbuf = s.wbuf.filter (fun w => w.seq != e.seq)) ∧
        (e.block = false → t.hbm.mem = s.hbm.mem ∧ t.hbm.poison = s.hbm.poison ∧ t.hbm.forms = s.hbm.forms ∧
          (s.regionAt (64 * e.line) ≠ none → tget 0 t.hbm.flips e.line = 0 ∧ tget 0 t.hbm.wrong e.line = 0)) ∧
        (∀ i r, s.regionAt (64 * e.line) = some (i, r) → r.stripe = false → e.block = true → e.fill = true →
          t.hbm.mem = s.hbm.mem ∧ t.hbm.forms = s.hbm.forms) ∧
        (∀ i r, s.regionAt (64 * e.line) = some (i, r) → r.stripe = false → e.block = true → e.fill = false → e.line % 64 = 0 →
          ∃ (id : Option Nat) (f : Form), f = encodeForm r.forceRaw (id.map fun n => (n, s.table n)) (e.data.flatMap lineBytes) ∧
            tget {} t.hbm.forms (e.line / 64) = f ∧
            t.hbm.mem = writeBytes s.hbm.mem (64 * e.line) (f.stored (s.table f.tableId) (e.data.flatMap lineBytes))) ∧
        (∀ i r, s.regionAt (64 * e.line) = some (i, r) → e.block = false → r.stripe = true → r.tiered = false → zaTiered (64 * e.line) = false →
          (∃ old, (t.stack (s.pinnedStripe r e.line).stack).deltas =
              (s.stack (s.pinnedStripe r e.line).stack).deltas ++ [(e.line, old)] ∧
            (s.lineAvail e.line = .ok → old = tget 0 s.hbm.flips e.line)) ∨
          ((∀ d, d ∈ (t.stack (s.pinnedStripe r e.line).stack).deltas → d.1 ∉ (s.pinnedStripe r e.line).data) ∧
            ∀ l, l ∈ (s.pinnedStripe r e.line).data → ∃ w, w ∈ s.wbuf ∧ w.line = l ∧ w ∉ t.wbuf)) ∧
        Frame [.fresh, .out, .fns, .hbm, .wbuf, .groups, .tables, .refRecs, .mems, .hbmStk, .cnt] s t) ∧
    (∀ d rest p, (s.stack stack.val).deltas = d :: rest → s.deltaStripe d.1 = some p → p.stack = stack.val →
      ∃ t, exec (.parityDelta stack) s = .next t ∧ Frame [.out, .fns, .hbmStk, .cnt] s t ∧
        (∀ k, t.stack k = if k = stack.val then { s.stack k with deltas := rest, flips := (t.stack k).flips } else s.stack k) ∧
        tget 0 (t.stack stack.val).flips (2 ^ 25 * pcOfLine p.frame p.off + pcLineOf stack.val p.frame p.off) =
          tget 0 (s.stack stack.val).flips (2 ^ 25 * pcOfLine p.frame p.off + pcLineOf stack.val p.frame p.off) ^^^ d.2)) ∧
  (∀ (die : Fin 10) (line : Nat) (s : State), exec (.atomicLineRelease die line) s =
    .next { s with atoms := s.atoms.filter fun a => !(a.die == die.val && a.line == line) }) ∧
  (∀ (stack : Fin 20) (entry : Nat) (s : State), exec (.commandAgeEscalation stack entry) s =
    .next { s with wbuf := s.wbuf.map fun e => if e.stack = stack.val ∧ e.seq = entry then { e with aged := true } else e }) ∧
  (∀ (stack : Fin 20) (pc : Fin 64) (bank : Nat) (temp : BitVec 8) (lines : Nat) (s : State), s.running = true →
    ((s.stack stack.val).st ≠ 2 → ∃ t, exec (.refresh stack pc bank) s = .next t ∧ Frame [.hbmStk] s t ∧
      tget 0 (t.stack stack.val).refreshed pc.val = bank ∧ (∀ k, k ≠ stack.val → t.stack k = s.stack k) ∧
      (((∀ p, p < 64 → tget 0 (s.stack stack.val).pcBand p = (s.stack stack.val).bandTo) ∨
          ∃ p, p < pc.val ∧ tget 0 (s.stack stack.val).pcBand p ≠ (s.stack stack.val).bandTo) →
        t.stack stack.val = { s.stack stack.val with refreshed := (t.stack stack.val).refreshed }) ∧
      ((∀ p, p < pc.val → tget 0 (s.stack stack.val).pcBand p = (s.stack stack.val).bandTo) →
          tget 0 (s.stack stack.val).pcBand pc.val ≠ (s.stack stack.val).bandTo →
        (∀ p, tget 0 (t.stack stack.val).pcBand p = if p = pc.val then (s.stack stack.val).bandTo
          else tget 0 (s.stack stack.val).pcBand p) ∧
        ((∀ p, p < 64 → p ≠ pc.val → tget 0 (s.stack stack.val).pcBand p = (s.stack stack.val).bandTo) →
          (t.stack stack.val).band = (s.stack stack.val).bandTo) ∧
        ((∃ p, p < 64 ∧ p ≠ pc.val ∧ tget 0 (s.stack stack.val).pcBand p ≠ (s.stack stack.val).bandTo) →
          (t.stack stack.val).band = (s.stack stack.val).band))) ∧
    (∃ t band, exec (.tempSensorRead stack temp) s = .next t ∧ Frame [.hbmStk] s t ∧
      band = (if 95 ≤ temp.toNat ∨ ((s.stack stack.val).band = 2 ∧ 92 ≤ temp.toNat) then 2
        else if 85 ≤ temp.toNat ∨ ((s.stack stack.val).band ≠ 0 ∧ 82 ≤ temp.toNat) then 1 else 0) ∧
      ∀ k, t.stack k = if k = stack.val then { s.stack k with bandTo := band, temp := temp.toNat } else s.stack k) ∧
    (∀ first n, first = tget 0 (s.stack stack.val).scrubbed pc.val → n = min lines (31250000 - first) →
      s.hep.d3hot = false → (s.stack stack.val).scrubOn = true → (s.stack stack.val).st ≠ 2 → (s.pc stack.val pc.val).st ≠ .frozen →
      s.schedulerIdle stack.val pc.val = true →
      (s.wrongIn stack.val pc.val first n = [] → ∃ t, exec (.scrubRowRead stack pc [] lines false) s = .next t ∧
        Frame [.out, .fns, .hbmStk, .cnt] s t ∧ ∀ k, t.stack k = if k = stack.val then { s.stack k with
          lapLines := ((s.stack k).lapLines + n) % 2 ^ 32, scrubbed := tput 0 (s.stack k).scrubbed pc.val (first + n) } else s.stack k) ∧
      (∀ l, s.wrongIn stack.val pc.val first n = [l] → s.physCheck stack.val pc.val l = none →
        ∃ t, exec (.scrubRowRead stack pc [] lines false) s = .next t ∧ t.elog.next = (s.elog.next + 1) % 2 ^ 32 ∧
          (t.stack stack.val).err = orBit (s.stack stack.val).err 1 ∧ Frame [.fresh, .out, .fns, .hbmStk, .elog, .cnt] s t) ∧
      ((∀ p, p < 64 → (s.pc stack.val p).st = .frozen ∨ tget 0 (s.stack stack.val).scrubbed p = 31250000 ∨
          (p = pc.val ∧ first + n = 31250000)) → s.wrongIn stack.val pc.val first n = [] →
        ∃ t, exec (.scrubRowRead stack pc [] lines true) s = .next t ∧ Frame [.fresh, .out, .fns, .hbmStk, .cnt] s t ∧
          (t.stack stack.val).lapCount = ((s.stack stack.val).lapCount + 1) % 65536 ∧ (t.stack stack.val).lapLines = 0 ∧
          (t.stack stack.val).lastLines = ((s.stack stack.val).lapLines + n) % 2 ^ 32 ∧ (t.stack stack.val).scrubbed = [] ∧
          (t.stack stack.val).late = false) ∧
      ((∃ p, p < 64 ∧ p ≠ pc.val ∧ (s.pc stack.val p).st ≠ .frozen ∧ tget 0 (s.stack stack.val).scrubbed p ≠ 31250000) →
        exec (.scrubRowRead stack pc [] lines true) s = exec (.scrubRowRead stack pc [] lines false) s)) ∧
    ((s.stack stack.val).late = false → ∃ t, exec (.scrubLate stack) s = .next t ∧ Frame [.fresh, .hbmStk, .elog] s t ∧
      (t.stack stack.val).late = true ∧ (t.stack stack.val).err = orBit (s.stack stack.val).err 5 ∧
      t.elog.next = (s.elog.next + 1) % 2 ^ 32))

/-- A fetch dispatched takes a frame; complete, the page is clean with the flash image's bytes, and its blocks stand in the write
buffer as a demand or a prefetch fill; failed, or of an image whose header is not sound, it is in FLASH again; under pressure the clock
evicts a page that is neither held nor referenced; a zeroed frame is free again, in a cycle in which a stack has nothing else to issue
(R30, R142, R144, R157, R162, R167, R172, R178, R327). No region changes its route meanwhile. The model's reading: log 13. -/
def Obligations.TierFetches : Prop :=
  (∀ (die : Fin 2) (s w : State) (page f : Nat) (rest : List Nat), s.running = true → s.held = [] → s.still → s.tierHeld = false →
    (s.dirDie die.val).inFlight < 4096 → (s.dirDie die.val).demandQ = page :: rest → pageDir page = die.val → (s.ent page).st = .flash →
    (s.ent page).bad = false → s.carveOutBad = false → (s.cacheEntry page (s.pageCtx page)).takeFrame page true = some (f, w) →
    ∃ t, exec (.fetchDispatch die) s = .next t ∧ (t.ent page).st = .fetching ∧ (t.ent page).frame = f ∧
      (t.dirDie die.val).demandQ = rest ∧ (t.dirDie die.val).inFlight = (s.dirDie die.val).inFlight + 1 ∧ f ∈ (t.dirDie die.val).used ∧
      (∀ p, p ≠ page → t.ent p = s.ent p) ∧ Frame [.fresh, .out, .fns, .dir, .dirs, .tables, .refRecs, .flss, .cnt] s t) ∧
  (∀ (f : FetchEnd) (s : State) (n page : Nat), page = f.page.toNat → s.running = true → s.held = [] → s.still →
    (s.ent page).st = .fetching → (s.ent page).discard = false → (s.ent page).restoring = false → (s.ent page).deferEvict = false →
    (s.ent page).bad = false → s.readWaits page = false → (s.ent page).frameLost = false → s.pageFrozen page = false →
    (∀ w, w ∈ s.wbuf → w.block = true → w.fill = true) → s.imageRead (s.readPlace page) = some n →
    (tget {} s.images page).dead = false → (tget {} s.images page).sound (s.readPlace page).units = true →
    ∃ t, exec (.fetchComplete f) s = .next t ∧ (t.ent page).st = .clean ∧ (t.ent page).onFlash = true ∧
      (t.ent page).frame = (s.ent page).frame ∧
      (t.dirDie (pageDir page)).inFlight = (s.dirDie (pageDir page)).inFlight - 1 ∧
      (∀ a, readByte t.hbm.mem a = if a / 65536 = page then readByte s.flash.mem a else readByte s.hbm.mem a) ∧
      (∃ w, w ∈ t.wbuf ∧ w.line = 1024 * page + 960 ∧ w.block = true ∧ w.fill = true ∧
        w.pri = .internal (if (s.ent page).demand = true then .demandFill else .prefetchFill)) ∧
      (∀ p, p ≠ page → t.ent p = s.ent p) ∧ t.flash = s.flash ∧ t.fmap = s.fmap) ∧
  (∀ (i : Instr) (s : State) (page : Nat), s.running = true → s.held = [] → s.still → (s.ent page).st = .fetching →
    (s.ent page).discard = false → (s.ent page).restoring = false → (s.ent page).bad = false → (∀ c, c ∈ s.cmds → c.opcode ≠ 0x0204) →
    s.readWaits page = false →
    (∃ f reason, i = .fetchFailed f reason ∧ page = f.page.toNat) ∨
      (∃ f n, i = .fetchComplete f ∧ page = f.page.toNat ∧ s.imageRead (s.readPlace page) = some n ∧
        ((tget {} s.images page).dead = true ∨ (tget {} s.images page).sound (s.readPlace page).units = false)) →
    ∃ t, exec i s = .next t ∧ (t.ent page).st = .flash ∧ (t.ent page).frame = 0 ∧ (tget {} t.images page).dead = true ∧
      (t.dirDie (pageDir page)).inFlight = (s.dirDie (pageDir page)).inFlight - 1 ∧
      (∀ p, p ≠ page → t.ent p = s.ent p) ∧ t.hbm = s.hbm ∧ t.flash = s.flash ∧ t.cmds = s.cmds) ∧
  (∀ (die : Fin 2) (s : State) (page f : Nat), s.running = true → s.held = [] → s.still → s.tierHeld = false →
    (s.needsVictims die.val = false → exec (.victimSelection die) s = .next s) ∧
    (s.needsVictims die.val = true → (s.dirDie die.val).used = [f] → s.pageOfFrame die.val f = some page →
      (∀ e, e ∈ s.dir → pageDir e.1 = die.val → e.2.frame = f → e.1 = page) → (s.ent page).st = .clean →
      (s.ent page).onFlash = true → (s.ent page).frame = f → (s.ent page).holds = 0 → s.waiters page = false →
      (s.ent page).bad = false → s.carveOutBad = false →
      ∃ t, exec (.victimSelection die) s = .next t ∧ (t.ent page).st = .flash ∧ (t.dirDie die.val).used = [] ∧
        (∀ p, p ≠ page → t.ent p = s.ent p) ∧ t.flash = s.flash ∧ t.fmap = s.fmap)) ∧
  (∀ (die : Fin 2) (s : State), s.running = true → (∀ k, k < 20 → s.stackIdle k = false) → exec (.frameZeroing die) s = .next s) ∧
  (∀ (die : Fin 2) (s : State), s.running = true → s.held = [] → s.still → (∃ k, k < 20 ∧ s.stackIdle k = true) →
    ∃ t, exec (.frameZeroing die) s = .next t ∧ Frame [.dirs] s t ∧
      ((s.dirDie die.val).zeroing ≠ 0 → (t.dirDie die.val).zeroing = (s.dirDie die.val).zeroing - 1 ∧
        (t.dirDie die.val).cacheFrames = (s.dirDie die.val).cacheFrames) ∧
      ((s.dirDie die.val).zeroing = 0 → (s.dirDie die.val).rejoin ≠ 0 →
        (t.dirDie die.val).cacheFrames = (s.dirDie die.val).cacheFrames + 1 ∧ (t.dirDie die.val).rejoin = (s.dirDie die.val).rejoin - 1))

/-- A read-out stages the page's image on a die and is done; a commit makes the staged content that of flash, once its tables are
there, and the page clean, dirty or in FLASH; the end of DRAINING frees a context with all that is its own (R29, R31, R162, R164,
R176, R213, R329). Model's readings: logs 34, 35. -/
def Obligations.TierWritebacks : Prop :=
  (∀ (page : BitVec 32) (s : State) (i : Nat) (r : Region), s.running = true → s.held = [] → s.still →
    (s.ent page.toNat).st = .writingBack → (s.ent page.toNat).bad = false → (s.ent page.toNat).readDone = false → s.tierHeld = false → s.pageFrozen page.toNat = false → s.pageRegion page.toNat = some (i, r) →
    r.auto = false → r.stripe = false → (s.fls 0).lost = false → tableRange s.hbm.poison (1024 * page.toNat) 1024 = [] → s.unsoundLines page.toNat = [] →
    (∀ w, w ∈ s.wbuf → w.line / 1024 ≠ page.toNat) →
    ∃ t, exec (.writebackReadoutComplete page) s = .next t ∧ (t.ent page.toNat).readDone = true ∧ (t.ent page.toNat).st = .writingBack ∧
      (∀ a, a / 65536 = page.toNat → readByte t.staged.mem a = readByte s.hbm.mem a) ∧
      (∃ d img, d < 2 ∧ img ∈ (t.fls d).openW ++ (t.fls d).programming ∧ img.page = page.toNat ∧ img.reloc = false ∧
        img.head.take 4 = leBytes 4 page.toNat ∧ img.units = imageUnits img.head) ∧
      (∀ p, p ≠ page.toNat → t.ent p = s.ent p) ∧ t.hbm = s.hbm ∧ t.flash = s.flash ∧ t.fmap = s.fmap) ∧
  (∀ (page : BitVec 32) (s : State) (d : Nat) (img : Image), s.running = true → s.held = [] → s.still → d < 2 → (s.fls d).heldBack = [img] →
    (s.fls (1 - d)).heldBack = [] → img.page = page.toNat → s.current img = true → (∀ c, c ∈ s.cmds → c.opcode ≠ 0x0204) →
    (img.place.mapped = false → s.persisted img = false → exec (.writebackCommit page) s = .next s) ∧
    (img.place.mapped = false → s.persisted img = true → (s.ent page.toNat).bad = false → (s.ent page.toNat).frameLost = false → (s.ent page.toNat).dirty = 0 →
      (s.ent page.toNat).evicting = false →
      ∃ t, exec (.writebackCommit page) s = .next t ∧ (t.ent page.toNat).st = .clean ∧ (t.ent page.toNat).onFlash = true ∧
        tfind? t.fmap page.toNat = some { img.place with mapped := true } ∧
        tfind? t.images page.toNat = some { head := img.head } ∧ (t.fls d).heldBack = [] ∧
        (∀ a, readByte t.flash.mem a = if a / 65536 = page.toNat then readByte s.staged.mem a else readByte s.flash.mem a) ∧
        (∀ p, p ≠ page.toNat → t.ent p = s.ent p) ∧ t.hbm = s.hbm)) ∧
  (∀ (ctx : BitVec 12) (s : State), s.pmc.powered = true → s.pmc.fatal = false → (s.ctx ctx.toNat).st = .draining →
    s.busyCtx ctx.toNat = false → s.destroyWaits ctx.toNat = false → s.held = [] → s.still →
    (∀ e, e ∈ s.cmds → pCtx e.p ≠ ctx.toNat) → (∀ e, e ∈ s.regions → e.2.ctx ≠ ctx.toNat) → (∀ e, e ∈ s.subs → e.2.ctx ≠ ctx.toNat) →
    ∃ t, exec (.ctxDrainComplete ctx) s = .next t ∧ (t.ctx ctx.toNat).st = .free ∧ (∀ c, c ≠ ctx.toNat → t.ctx c = s.ctx c) ∧
      (∀ k, k ∈ t.disp.kernels → k.2.ctx ≠ ctx.toNat) ∧ (∀ r, r < 5 → (t.regulator r).get ctx.toNat = {}) ∧
      (∀ e, (t.engine e).lastCtx ≠ some ctx.toNat) ∧
      ((s.ctx ctx.toNat).durable = true → (s.ctx ctx.toNat).sealing = true → ∃ g, tfind? t.sealed (s.ctx ctx.toNat).sealId = some g ∧
        g.key = (s.ctx ctx.toNat).key ∧ g.gen = (s.ctx ctx.toNat).gen) ∧
      ((s.ctx ctx.toNat).sealing = false → t.sealed = s.sealed) ∧ t.hbm = s.hbm ∧ t.flash = s.flash)

/-- A build of 64 samples publishes its best table under an unused ID and retires the one before; a FREEING table is gone from
every cache and every group record, which waits while a memory cluster core restarts; a table is programmed into flash; hashing starts
once no write to the region is held; a hash of the pages that are left publishes the version under it, and answers the hash, and while a
page is fetched it waits with what it has (R198, R200, R205, R213, R269-R274, R376). The model's reading: log 49. -/
def Obligations.TablesAndHashes : Prop :=
  (∀ (region : BitVec 20) (group : BitVec 16) (s : State) (r : Region), s.running = true → s.region? region.toNat = some r →
    (s.group region.toNat group.toNat).st = .sampling → 64 ≤ (s.group region.toNat group.toNat).samples →
    (s.tablesOwned r.ctx < 4096 → (∃ n, 1 ≤ n ∧ n < 65536 ∧ (s.table n).st = .free) →
      ((s.group region.toNat group.toNat).current = 0 ∨ (s.table (s.group region.toNat group.toNat).current).st ≠ .free) →
      ∃ t id, exec (.tablePublish region group) s = .next t ∧ 1 ≤ id ∧ id < 65536 ∧ (s.table id).st = .free ∧ (t.table id).st = .current ∧
        (t.table id).region = s.handleOf region.toNat ∧ (t.table id).group = group.toNat ∧ (t.table id).ctx = r.ctx ∧
        ((t.table id).view, (t.table id).lengths) = (s.group region.toNat group.toNat).best ∧
        (t.group region.toNat group.toNat).st = .idle ∧ (t.group region.toNat group.toNat).current = id ∧
        ((s.group region.toNat group.toNat).current ≠ 0 → (t.table (s.group region.toNat group.toNat).current).st ≠ .current) ∧
        Frame [.fresh, .groups, .tables] s t) ∧
    (4096 ≤ s.tablesOwned r.ctx → ∃ t, exec (.tablePublish region group) s = .next t ∧
      (t.group region.toNat group.toNat).st = .idle ∧ t.tables = s.tables ∧ Frame [.fresh, .groups, .mems] s t)) ∧
  (∀ (id : BitVec 16) (s : State), s.running = true →
    ((s.proc 9).restarting = true ∨ (s.proc 10).restarting = true → exec (.tableFree id) s = .next s) ∧
    ((s.table id.toNat).st = .freeing → (s.proc 9).restarting = false → (s.proc 10).restarting = false →
      ∃ t, exec (.tableFree id) s = .next t ∧ Frame [.groups, .tables, .mems, .chds] s t ∧
      (∀ n, t.table n = if n = id.toNat then {} else s.table n) ∧ (∀ e, e ∈ t.mems → id.toNat ∉ e.2.cache) ∧
      (∀ e, e ∈ t.chds → id.toNat ∉ e.2.cache) ∧ ∀ e, e ∈ t.groups → e.2.prior = id.toNat → id = 0) ∧
    ((s.table id.toNat).st = .current ∨ (s.table id.toNat).st = .retired → s.variantH = false →
      ∃ t, exec (.tablePersist id) s = .next t ∧ Frame [.tables] s t ∧
        ∀ n, t.table n = if n = id.toNat then { s.table n with persisted := true } else s.table n)) ∧
  (∀ (region : BitVec 20) (s : State) (r : Region), s.running = true → s.region? region.toNat = some r → r.share = .publishing →
    ((∀ q, q ∈ s.held → q.region = region.toNat → q.op.isRead = true) →
      exec (.hashStart region) s = .next (s.setRegion region.toNat { r with hashing := true })) ∧
    (∀ w v, r.hashing = true → s.hashPages region.toNat r { ctx := r.ctx, who := .hash (r.pubCmd.getD 0) } r.unhashed = (.ok (), w) →
      w.region? region.toNat = some v → w.versionOf v.key? = none →
      exec (.publishHashComplete region) s = .next (w.endPublish region.toNat .published 0 (contentHash v.pages v.digests))) ∧
    (∀ w, r.hashing = true → s.hashPages region.toNat r { ctx := r.ctx, who := .hash (r.pubCmd.getD 0) } r.unhashed = (.wait, w) →
      exec (.publishHashComplete region) s = .next w) ∧
    (r.hashing = false → exec (.publishHashComplete region) s = .next s))

/-- Faults of HBM: a line whose codewords no correction makes sound is remapped, one that is sound is left; an error that three
resends do not cure freezes its pseudo-channel, and a test that passes unfreezes it; the freeze limit, a failed test and the loss of a stack or a die retire the unit, whose rebuild
completes with a record; a test's end is its SVC_TEST's answer, and restores or retires as R424 says (R306-R309, R315-R321, R416,
R424, R425). Model's readings: logs 57, 83, 84, 85. -/
def Obligations.MemoryFaults : Prop :=
  (∀ (stack : Fin 20) (pc : Fin 64) (f : Finding) (s : State) (e : Nat) (v : State), s.running = true → s.coreRuns stack.val = true →
    (s.stack stack.val).st = 0 → (s.pc stack.val pc.val).st = .running →
    (s.physCheck stack.val pc.val f.pcLine = none → s.remapLine stack.val pc.val f.pcLine 1 = some (e, v) →
      exec (.ceReport stack pc f true) s = .next v) ∧
    (∀ c, s.physCheck stack.val pc.val f.pcLine = some c → c.fix = 0 → exec (.ceReport stack pc f true) s = .next s) ∧
    (∀ l, s.lineAt stack.val pc.val f.pcLine = some l → ∃ w, exec (.ceReport stack pc f false) s = exec (.ceReport stack pc f true) w ∧
      tget 0 w.hbm.flips l = tget 0 s.hbm.flips l ^^^ f.flips ∧ w.hbm.mem = s.hbm.mem ∧ w.hbm.poison = s.hbm.poison ∧
      Frame [.fresh, .out, .fns, .hbm, .hbmStk, .elog, .cnt] s w)) ∧
  (∀ (stack : Fin 20) (pc : Fin 64) (line : BitVec 25) (s : State) (i : Instr), s.running = true → s.pmc.booting = false →
    (∀ n : Fin 4, n.val < 3 → i ∈ [Instr.caParityError stack pc line n, .writeCrcError stack pc line n] → exec i s = .next s) ∧
    (i ∈ [Instr.caParityError stack pc line 3, .writeCrcError stack pc line 3] → (s.stack stack.val).st = 0 →
      (s.pc stack.val pc.val).st = .running → (s.pc stack.val pc.val).freezeCount < 2 →
      ∃ t, exec i s = .next t ∧ t.pc stack.val pc.val =
        { s.pc stack.val pc.val with st := .frozen, freezeCount := (s.pc stack.val pc.val).freezeCount + 1 } ∧
        (t.stack stack.val).err = orBit (s.stack stack.val).err 2 ∧
        (∀ k p, (k, p) ≠ (stack.val, pc.val) → t.pc k p = s.pc k p) ∧ Frame [.fresh, .out, .fns, .qos, .hbmStk] s t)) ∧
  (∀ (stack : Fin 20) (pc : Fin 64) (s : State), s.running = true → (s.pc stack.val pc.val).st = .frozen →
    exec (.freezeLimitExpiry stack pc) s = .next (s.retirePc stack.val pc.val false) ∧
    (s.coreRuns stack.val = true → exec (.pcLoopbackResult stack pc false) s = .next (s.retirePc stack.val pc.val false) ∧
      ∃ t, exec (.pcLoopbackResult stack pc true) s = .next t ∧
        t.pc stack.val pc.val = { s.pc stack.val pc.val with st := .running } ∧
        (∀ k p, (k, p) ≠ (stack.val, pc.val) → t.pc k p = s.pc k p) ∧ t.elog.next = (s.elog.next + 1) % 2 ^ 32 ∧
        Frame [.fresh, .out, .fns, .qos, .hbmStk, .elog] s t) ∧
    (s.regions = [] → s.dir = [] → (s.stack stack.val).st = 0 →
      ((s.stack stack.val).pcs.filter fun e => e.2.st == .retiring || e.2.st == .retired).length < 3 →
      ((s.retirePc stack.val pc.val false).pc stack.val pc.val).st = .retiring ∧ (s.retirePc stack.val pc.val false).hbm = s.hbm)) ∧
  (∀ (stack : Fin 20) (pc : Fin 64) (s : State), s.running = true → (s.stack stack.val).st = 0 →
    (s.pc stack.val pc.val).st = .retiring →
    ∃ t, exec (.rebuildComplete { kind := 2, index := 64 * stack.val + pc.val }) s = .next t ∧ (t.pc stack.val pc.val).st = .retired ∧
      (t.pc stack.val pc.val).relocated = true ∧ (t.stack stack.val).spareFree = (s.stack stack.val).spareFree - 488281 ∧
      64 * stack.val + pc.val ∈ t.repairs ∧ t.hbm.mem = s.hbm.mem ∧
      (s.stripedOn stack.val pc.val = [] → t.hbm = s.hbm)) ∧
  (∀ (stack : Fin 20) (die : Fin 10) (s : State), s.running = true →
    exec (.stackFailure stack) s = .next (s.retireStack stack.val false false) ∧
    exec (.memoryDieFailure die) s = .next (s.retireDie die.val false) ∧
    ((s.stack stack.val).st ≠ 0 → s.retireStack stack.val false false = s) ∧
    (s.regions = [] → s.dir = [] → ((s.retireStack stack.val false false).stack stack.val).st ≠ 0 ∧
      (s.retireStack stack.val false false).hbm = s.hbm ∧ ((s.retireDie die.val false).mem die.val).up = false ∧
      ((s.retireDie die.val false).stack (2 * die.val)).st ≠ 0 ∧ ((s.retireDie die.val false).stack (2 * die.val + 1)).st ≠ 0)) ∧
  (∀ (u : UnitRef) (r : TestResult) (s : State), s.running = true →
    (s.unitCmds 0x0800 u.kind u.index = [] → exec (.svcTestComplete u r) s = .next s) ∧
    (∀ c, u.kind = 6 → s.unitCmds 0x0800 6 u.index = [c] →
      ∃ v w : State, exec (.svcTestComplete u r) s = .next (w.reply c 0
          (testResult (r.pass && decide (r.errors.toNat ≤ 22400)) (v.unitState (6, u.index)) r.errors.toNat)) ∧ Frame [.ports] s v ∧
        (∀ n, v.port n = if n = u.index / 4 then { s.port n with
          testLanes := (s.port n).testLanes &&& ~~~(BitVec.ofNat 4 (1 <<< (u.index % 4))) } else s.port n) ∧ Frame [.cmds, .ports] s w))

/-- The flash tier: an open wordline is padded and programmed; a completed program journals what a page still waits for; a failed
one retires the block on its member, and a failed erase too; an erased block joins the free pool; FLASH_RELOCATION of a block that a
trigger chooses and a patrol read that needed a retry relocate a block's valid images once their die index is free, while the core runs;
any other block stays; a lost die leaves service, and a lost FLS die is worn (R331, R332, R334, R335, R337, R338). Model's readings:
logs 51, 52, 80, 125. -/
def Obligations.FlashEvents : Prop :=
  (∀ (fls : Fin 2) (s : State), s.running = true →
    (((s.fls fls.val).stopped = true ∨ (s.fls fls.val).lost = true) → (s.fls fls.val).nand = [] → (s.fls fls.val).programming = [] →
      exec (.flushCyclesExpiry fls) s = .next s) ∧
    ((s.fls fls.val).stopped = false → (s.fls fls.val).lost = false →
      ∃ t, exec (.flushCyclesExpiry fls) s = .next t ∧ Frame [.fresh, .out, .nextId, .fns, .flss, .cnt] s t ∧
        (∀ i, i ∈ (s.fls fls.val).openW ++ (s.fls fls.val).programming → i ∈ (t.fls fls.val).openW ++ (t.fls fls.val).programming) ∧
        (s.noReloc fls.val → Frame [.fresh, .out, .fns, .flss, .cnt] s t ∧ ∀ i, i ∈ (t.fls fls.val).openW ++ (t.fls fls.val).programming ↔
          i ∈ (s.fls fls.val).openW ++ (s.fls fls.val).programming) ∧
        (s.noReloc fls.val → ∀ i, i ∈ (t.fls fls.val).openW → i.placed = true →
          ((tget {} (t.fls fls.val).blocks i.place.key).next) / wordlineUnits ≤ i.place.lastWl))) ∧
  (∀ (fls : Fin 2) (s : State) (i : Image), s.pmc.powered = true → (s.fls fls.val).lost = false →
    Programs s fls.val i → i.reloc = false → s.current i = true →
    ∃ t, exec (.programComplete fls) s = .next t ∧ (t.fls fls.val).programming = [] ∧
      (s.persisted i = true → tfind? t.fmap i.page = some { i.place with mapped := true } ∧
        ∀ a, readByte t.flash.mem a = if a / 65536 = i.page then readByte s.staged.mem a else readByte s.flash.mem a) ∧
      (s.persisted i = false → t.fmap = s.fmap ∧ t.flash = s.flash ∧ (t.fls fls.val).heldBack = (s.fls fls.val).heldBack ++ [i]) ∧
      t.hbm = s.hbm ∧ t.dir = s.dir) ∧
  (∀ (fls : Fin 2) (member : Fin 12) (s : State) (i : Image), s.pmc.powered = true → (s.fls fls.val).lost = false →
    Programs s fls.val i → i.placed = true → (s.fls fls.val).openW = [] →
    ∃ t, exec (.programFailure fls member) s = .next t ∧
      bit (tget {} (t.fls fls.val).blocks i.place.key).retired.toNat member.val = true ∧
      (∃ j, j ∈ (t.fls fls.val).openW ++ (t.fls fls.val).programming ∧ j.page = i.page ∧ j.seq = i.seq) ∧ t.fmap = s.fmap ∧ t.flash = s.flash) ∧
  (∀ (fls : Fin 2) (die : Fin 16) (block : BitVec 13) (s : State) (key : Nat), s.running = true → s.flashCore fls.val = true →
    key = 8192 * die.val + block.toNat →
    exec (.patrolRead fls die block false) s = .next s ∧
    (s.closedBlock fls.val key = false → exec (.patrolRead fls die block true) s = .next s) ∧
    (s.gcVictim fls.val key = false → s.relocDue fls.val key = false → exec (.flashRelocation fls die block) s = .next s) ∧
    ∀ i few, (i = .flashRelocation fls die block ∧ ((s.gcVictim fls.val key = true ∧ few = true) ∨
          (s.gcVictim fls.val key = false ∧ s.relocDue fls.val key = true ∧ few = false))) ∨
        (i = .patrolRead fls die block true ∧ s.closedBlock fls.val key = true ∧ few = false) →
      ∃ t, exec i s = .next t ∧ Frame [.fresh, .out, .nextId, .fns, .flss, .cnt] s t ∧
      ((s.nand fls.val die.val).working = true → (s.nand fls.val die.val).demand = [] →
        block.toNat ∉ (s.nand fls.val die.val).reloc ++ (s.nand fls.val die.val).patrol →
        t.nand fls.val die.val = if few = true then
          { s.nand fls.val die.val with reloc := (s.nand fls.val die.val).reloc ++ [block.toNat] }
        else { s.nand fls.val die.val with patrol := (s.nand fls.val die.val).patrol ++ [block.toNat] }) ∧
      (s.nand fls.val die.val = {} → s.nextProgram fls.val die.val = none → (s.fls fls.val).lost = false → s.noReloc fls.val →
        (∀ k, k / 8192 = die.val → s.erasable fls.val k = false) →
        ∀ p e, (p, e) ∈ s.fmap → e.fls = fls.val → e.key = key → (s.imageRead e).isSome = true → (tget {} s.images p).dead = false →
          ∃ j, j ∈ (t.fls fls.val).openW ++ (t.fls fls.val).programming ∧ j.page = p ∧ j.reloc = true ∧ j.old = e)) ∧
  (∀ (fls : Fin 2) (die : Fin 16) (block : BitVec 13) (member : Fin 12) (s : State), s.pmc.powered = true →
    (s.nand fls.val die.val).erase = some block.toNat → (s.nand fls.val die.val).reading = [] →
    (∀ i, i ∈ (s.fls fls.val).openW → i.placed = true) → s.noReloc fls.val →
    (∃ t, exec (.eraseComplete fls die block) s = .next t ∧ t.fmap = s.fmap ∧ t.flash = s.flash ∧
      (tget {} (t.fls fls.val).blocks (8192 * die.val + block.toNat)).free = true ∧
      (tget {} (t.fls fls.val).blocks (8192 * die.val + block.toNat)).erases =
        (tget {} (s.fls fls.val).blocks (8192 * die.val + block.toNat)).erases + 1) ∧
    (∃ t, exec (.eraseFailure fls die block member) s = .next t ∧ t.fmap = s.fmap ∧ t.flash = s.flash ∧
      bit (tget {} (t.fls fls.val).blocks (8192 * die.val + block.toNat)).retired.toNat member.val = true ∧
      bit (t.fls fls.val).err.toNat 3 = true)) ∧
  (∀ (die : Fin 384) (fls : Fin 2) (s : State), s.pmc.powered = true → s.variantH = false →
    (s.flashDieUp die.val = true → ∃ t, exec (.flashDieLost die) s = .next t ∧ t.flashDieUp die.val = false ∧
      bit (t.fls (die.val / 192)).err.toNat 4 = true ∧ t.elog.next = (s.elog.next + 1) % 2 ^ 32 ∧
      Frame [.fresh, .out, .nextId, .fns, .flss, .elog, .cnt] s t) ∧
    ((s.fls fls.val).lost = true → ∃ t, exec (.flsDieLost fls) s = .next t ∧ Frame [.fresh, .out, .nextId, .fns, .flss, .cnt] s t ∧
      t.fls fls.val = { s.fls fls.val with nand := (t.fls fls.val).nand }) ∧
    ((s.fls fls.val).lost = false → ∃ t, exec (.flsDieLost fls) s = .next t ∧ (t.fls fls.val).lost = true ∧ (t.fls fls.val).worn = true ∧
      (t.fls fls.val).programming = [] ∧ t.fmap = s.fmap ∧ t.flash = s.flash))

/-! ## Supply, power, boot, firmware processors (R340, R375-R413) -/

/-- The ranges of the supply: High sets OVERVOLT, and its end clears it; Sag stops programs; Hold-up cuts the cap and, with a
journal, makes its flush due; above 63 V and below 38 V the main domains power off, with their reasons, and then, with no flush
to wait for, everything that does not survive is as after reset, and the handle of a region lost is stale; the supply's return ends Sag and Hold-up. The flush begins once
the programs in flight have ended, and its end or its loss empties it (R39, R340, R341, R396-R399). Model's readings: logs 93, 94. -/
def Obligations.SupplyRanges : Prop :=
  (∀ (vin : BitVec 16) (s : State), s.pmc.powered = true →
    (6000 ≤ vin.toNat → vin.toNat ≤ 6300 → ∃ t, exec (.supplyHigh vin) s = .next t ∧ t.pmc.overvolt = true ∧ t.pmc.vin = vin.toNat ∧
      (s.pmc.overvolt = false → t.pmc.err = orBit s.pmc.err 6) ∧ Frame [.out, .fns, .pmc] s t) ∧
    (vin.toNat < 6000 → exec (.supplyHighExit vin) s = .next { s with pmc := { s.pmc with vin := vin.toNat, overvolt := false } }) ∧
    (vin.toNat < 4400 → s.pmc.sag = false → ∃ t, exec (.supplySag vin) s = .next t ∧ t.pmc.sag = true ∧ t.pmc.overvolt = false ∧
      t.pmc.vin = vin.toNat ∧ t.pmc.err = orBit s.pmc.err 1 ∧ (s.variantH = false → ∀ d, d < 2 → (t.fls d).stopped = true) ∧ (s.variantH = true → t.flss = s.flss) ∧
      t.flash = s.flash) ∧
    (vin.toNat < 4000 → s.pmc.holdup = false → ∃ t, exec (.supplyHoldup vin) s = .next t ∧ t.pmc.sag = true ∧ t.pmc.holdup = true ∧
      t.pmc.effCap = 900 ∧ bit t.pmc.err.toNat 2 = true ∧ t.flash = s.flash ∧
      (s.hasJournal = true → s.hep.d3hot = false → ∀ d, d < 2 → (s.fls d).lost = false → (s.fls d).flushing = false →
        (t.fls d).flushDue = true)) ∧
    (∀ i reason, s.pmc.standby = false → (i = .supplyOvervoltage vin ∧ 6300 < vin.toNat ∧ reason = 2) ∨ (i = .supplyUndervoltage vin ∧ vin.toNat < 3800 ∧ reason = 1) →
      ∃ t, exec i s = .next t ∧ t.pmc.powered = false ∧ t.pmc.lastOff = reason ∧ t.pmc.supplyOk = false ∧ t.pending = s.pending ∧
        (s.hasJournal = false → s.flushPending = false → t.hbm = State.reset.hbm ∧ t.ctxs = [] ∧ t.cmds = [] ∧ t.ports = State.reset.ports ∧
          t.held = [] ∧ t.leases = [] ∧ (s.regions = [] → s.subs = [] → t.seqs = s.seqs) ∧
          (∀ i r, s.regions = [(i, r)] → s.subs = [] → r.sealedBy = 0 → (s.ctx r.ctx).durable = false →
            t.regions = [] ∧ tget 0 t.seqs i = (tget 0 s.seqs i + 1) % 4096))) ∧
    (4400 ≤ vin.toNat → vin.toNat ≤ 6300 → ∃ t, exec (.supplyRecovery vin) s = .next t ∧ t.pmc.sag = false ∧ t.pmc.holdup = false ∧
      t.pmc.supplyOk = true ∧ t.pmc.vin = vin.toNat ∧ (s.pmc.resetWait = false → ∀ d, d < 2 → (t.fls d).flushDue = false))) ∧
  (∀ s : State, ((∀ d n, d < 2 → n ∈ (s.fls d).nand → n.2.program = none) → ∃ t, exec .journalFlush s = .next t ∧ Frame [.flss] s t ∧ ∀ d, d < 2 →
      t.fls d = if (s.fls d).flushDue then { s.fls d with flushDue := false, flushing := true } else s.fls d) ∧
    (∀ d, d < 2 → (s.fls d).flushing = true → s.pmc.powered = true → s.pmc.resetWait = false →
      ∃ t, exec .journalFlushComplete s = .next t ∧ (t.fls d).flushing = false ∧ t.bufferOf d = [] ∧
        bit (t.fls d).err.toNat 5 = true ∧ t.flash = s.flash ∧ t.fmap = s.fmap) ∧
    (s.pmc.powered = true ∨ s.pmc.standby = true → exec .flushDomainPowerLoss s = .next s) ∧
    (∀ d, d < 2 → s.pmc.powered = false → s.pmc.standby = false → (s.fls d).flushing = true →
      ∃ t, exec .flushDomainPowerLoss s = .next t ∧ (t.fls d).flushing = false ∧ t.bufferOf d = []))

/-- The ladder: an evaluation over the cap or too warm goes one level up, one with nothing left goes one down each tenth time;
power well over the cap sets level 7; the safe cap is released to level 5; a trip powers off for good, and names its sensor
(R400-R406). Model's readings: logs 62, 90, 98. -/
def Obligations.PowerLadder : Prop :=
  (∀ (pin : BitVec 11) (temps : List (BitVec 8)) (s : State), s.pmc.powered = true → 1 ≤ s.pmc.stage → (s.proc 1).restarting = false →
    ∃ t, exec (.powerEvaluation pin temps) s = .next t ∧ t.pmc.pin = pin.toNat ∧ t.pmc.capOn = s.pmc.cap ∧
      (∀ i, i < 69 → tget 0 t.pmc.temps i = s.reading temps i) ∧
      (t.pmc.hot = [] → s.pmc.hot = [] →
        (t.pmc.effCap < pin.toNat → t.pmc.level = min 7 (s.pmc.level + 1) ∧ t.pmc.calm = 0) ∧
        (100 * pin.toNat < 95 * t.pmc.effCap → (∀ i, i < 69 → s.reading temps i < 70) →
          if s.pmc.calm + 1 < 10 then t.pmc.level = s.pmc.level ∧ t.pmc.calm = s.pmc.calm + 1
          else t.pmc.level = s.pmc.level - 1 ∧ t.pmc.calm = 0)) ∧
      (t.pmc.hot ≠ [] → t.pmc.emergency = true ∧ t.pmc.level = 7)) ∧
  (∀ (power : BitVec 11) (s : State), s.pmc.powered = true → s.pmc.safeCap = false →
    (11 * s.pmc.effCap < 10 * power.toNat → ∃ t, exec (.fastLimit power) s = .next t ∧ t.pmc.level = 7 ∧ t.pmc.calm = 0 ∧
      t.pmc.err = orBit s.pmc.err 7 ∧ Frame [.out, .fns, .pmc, .qos] s t) ∧
    (10 * power.toNat ≤ 11 * s.pmc.effCap → exec (.fastLimit power) s = .next s)) ∧
  (∀ s : State, s.pmc.powered = true → s.pmc.safeCap = true → s.pmc.emergency = false →
    ∃ t, exec .safeCapRelease s = .next t ∧ t.pmc = { s.pmc with level := 5 } ∧ Frame [.out, .fns, .pmc, .qos] s t) ∧
  (∀ (sensor : Fin 69) (s : State), s.pmc.powered = true → s.pmc.standby = false → s.variantH = false →
    ∃ t, exec (.thermalTrip sensor) s = .next t ∧ t.pmc.powered = false ∧ t.pmc.tripLatch = true ∧ t.pmc.lastOff = 3 ∧
      t.pmc.offSensor = sensor.val)

/-- The boot: good rails power the device and, unless PERST_N is asserted, start the chain; PERST_N's release starts it, and its
assertion is a reset once no flush is due; each stage passes to the next, stage 6 ends in READY, and Hold-up pauses it; a stage
that fails with no other image stops the boot; a fuse blow raises the fused number (R381-R383, R407-R411). Model's readings: logs
95, 96, 97, 103. -/
def Obligations.BootChain : Prop :=
  (∀ (addr : BitVec 2) (s : State), s.pmc.supplyOk = true → s.pmc.tripLatch = false → s.pmc.standby = false →
    (s.pmc.powered && s.pmc.rails) = false → s.flushPending = false →
    exec (.railsGood addr) s = .next { s with pmc := { s.pmc with
      powered := true, rails := true, smbAddr := addr, booting := s.pmc.booting || !s.pmc.perst
      stage := if s.pmc.perst then s.pmc.stage else 0 } }) ∧
  (∀ s : State, s.pmc.perst = true → s.pmc.resetWait = false → s.pmc.standby = false → s.pmc.powered = true → s.pmc.rails = true →
    exec .perstNRelease s = .next { s with pmc := { s.pmc with perst := false, booting := true, stage := 0 } }) ∧
  (∀ s : State, s.pmc.powered = true → s.pmc.resetWait = false → s.hasJournal = false → s.flushPending = false → s.hep.l2 = false →
    ∃ t, exec .perstNAssert s = .next t ∧ t.pmc.powered = true ∧ t.pmc.perst = true ∧ t.pmc.ready = false ∧ t.pmc.booting = false ∧
      t.ctxs = [] ∧ t.cmds = [] ∧ t.hbm = State.reset.hbm ∧ t.ports = State.reset.ports ∧ t.qos = State.reset.qos ∧
      t.pending = s.pending ∧ (s.regions = [] → s.subs = [] → t.seqs = s.seqs) ∧
      (∀ i r, s.regions = [(i, r)] → s.subs = [] → r.sealedBy = 0 → (s.ctx r.ctx).durable = false →
        t.regions = [] ∧ tget 0 t.seqs i = (tget 0 s.seqs i + 1) % 4096)) ∧
  (∀ s : State, s.pmc.powered = true → s.pmc.booting = true → s.pmc.fatal = false → s.pmc.bootPaused = false →
    (s.pmc.holdup = true → ∀ o, exec (.bootStageEnd o) s = .next { s with pmc := { s.pmc with bootPaused := true } }) ∧
    (s.pmc.holdup = false →
      (s.pmc.stage = 0 → s.imageOk s.fw.active = true →
        exec (.bootStageEnd .passed) s = .next { s with pmc := { s.pmc with stage := 1 } }) ∧
      (s.pmc.stage = 0 → s.fw.inactive = none → exec (.bootStageEnd .imageBad) s = .next { s with pmc := { s.pmc with
        booting := false, fatal := true, stopReason := 1 } }) ∧
      (s.pmc.stage = 1 → ∃ t, exec (.bootStageEnd .passed) s = .next t ∧ Frame [.pmc, .fw, .hbmStk] s t ∧
        t.pmc = { s.pmc with stage := 2 } ∧ t.fw = { s.fw with measured := s.fw.active.digests } ∧
        ∀ k, t.stack k = if k < 20 then { s.stack k with delays := true } else s.stack k) ∧
      (s.pmc.stage = 1 → exec (.bootStageEnd .calibrationBad) s = .next { s with pmc := { s.pmc with
        booting := false, fatal := true, stopReason := 2 } }) ∧
      (∀ n, (s.pmc.stage = 2 ∧ n = 3) ∨ (s.pmc.stage = 3 ∧ n = if s.variantH then 5 else 4) ∨ (s.pmc.stage = 4 ∧ n = 5) ∨
          (s.pmc.stage = 5 ∧ n = 6) →
        ∃ t, exec (.bootStageEnd .passed) s = .next t ∧ t.pmc.stage = n ∧ t.hbm = s.hbm ∧ t.regions = s.regions ∧
          (n = 6 → ∀ p, p < 16 → (s.port p).enable = true → (t.port p).st = .detect)) ∧
      (s.pmc.stage = 6 → ∃ t, exec .linkTrainingStageEnd s = .next t ∧ t.pmc = { s.pmc with stage := 7, ready := true, booting := false } ∧
        Frame [.pmc, .fw] s t))) ∧
  (∀ s : State,
    (s.running = true → s.fw.pendingFloor ≠ 0 → s.fwEmergency = false →
      exec .fuseBlow s = .next { s with fw := { s.fw with blowing := true } }) ∧
    (s.pmc.powered = true → s.fw.blowing = true → ∃ t, exec .fuseBlowComplete s = .next t ∧ t.fw.blowing = false ∧
      t.fw.fused = s.fw.pendingFloor ∧ t.fw.pendingFloor = 0 ∧ Frame [.fw] s t))

/-- A processor that misses its heartbeats restarts, is counted and recorded, and restarts once in a row of no loop; when it runs
again what waited for it goes on; the Hull core's loss and a condition of R417 make the device fatal: a record of 15 and itself,
every port OFF, and ERR_FATAL while the link is up (R371, R375-R377, R403, R417). Model's readings: logs 66, 89, 92. -/
def Obligations.ProcessorRestarts : Prop :=
  (∀ (proc : Fin 11) (cause : BitVec 4) (s : State), s.pmc.powered = true → s.pmc.fatal = false → proc.val ≠ 0 →
    (if proc.val ≤ 2 then 1 else 5) ≤ s.pmc.stage → 1 ≤ cause.toNat → cause.toNat ≤ 3 →
    ((s.proc proc.val).restarting = true → exec (.heartbeatTimeout proc cause false) s = .next s) ∧
    (s.variantH = true → proc.val = 7 ∨ proc.val = 8 → exec (.heartbeatTimeout proc cause false) s = .next s) ∧
    ((s.proc proc.val).restarting = false → (∀ c, c ∈ s.cmds → c.st ≠ .running) → s.fw.phase = .idle →
      (s.variantH = true → proc.val ≠ 7 ∧ proc.val ≠ 8) →
      ∃ t, exec (.heartbeatTimeout proc cause false) s = .next t ∧ t.proc proc.val = { s.proc proc.val with
          restarting := true, halted := false, cause := cause.toNat, restarts := min ((s.proc proc.val).restarts + 1) 255 } ∧
        (∀ i, i ≠ proc.val → t.proc i = s.proc i) ∧ t.elog.next = (s.elog.next + 1) % 2 ^ 32 ∧
        (t.fn 0).aerCor = orBit (s.fn 0).aerCor 14 ∧ bit t.fw.err.toNat 3 = true ∧
        (proc.val = 1 → t.pmc.safeCap = true ∧ t.pmc.level = if s.pmc.emergency then 7 else 5) ∧
        (proc.val ≠ 1 → t.pmc = s.pmc) ∧ Frame [.fresh, .out, .pmc, .fw, .fns, .qos, .elog] s t)) ∧
  (∀ (proc : Fin 11) (s : State), s.pmc.powered = true → s.pmc.fatal = false →
    ((s.proc proc.val).restarting = false → exec (.procRestartComplete proc) s = .next s) ∧
    ((s.proc proc.val).restarting = true → (∀ c, c ∈ s.cmds → c.st ≠ .parked ∧ c.opcode ≠ 0x0502 ∧ s.shareWaits c = false) → proc.val = 1 ∨ proc.val = 2 →
      ∃ t, exec (.procRestartComplete proc) s = .next t ∧ t.proc proc.val = { s.proc proc.val with restarting := false } ∧
        (proc.val = 1 → t.pmc.safeCap = false) ∧ (proc.val = 2 → t.qos.derate = t.derateNow) ∧
        Frame [.out, .pmc, .fw, .fns, .qos] s t)) ∧
  (∀ (cond : Fin 5) (s : State) (i : Instr) (n : Nat), s.pmc.powered = true → s.pmc.fatal = false →
    (i = .fatalCondition cond ∧ n = cond.val + 1) ∨ (i = .hullMonitorTimeout ∧ n = 2) →
    ∃ t, exec i s = .next t ∧ t = s.goFatal n ∧ t.pmc = { s.pmc with fatal := true } ∧ t.elog.next = (s.elog.next + 1) % 2 ^ 32 ∧
      (∀ r, r ∈ t.elog.fatal ↔ r ≠ 0 ∧ ∃ j, j < 16 ∧ r = t.elog.get ((s.elog.next + 2 ^ 32 - 15 + j) % 2 ^ 32)) ∧
      bit (t.fn 0).aerUnc.toNat 22 = true ∧ (s.linkUp = false ∨ bit (s.fn 0).aerUncMask.toNat 22 = true → t.out = s.out) ∧
      (s.linkUp = true → bit (s.fn 0).aerUncMask.toNat 22 = false → bit (s.fn 0).aerUncSev.toNat 22 = true → t.out = .errFatal :: s.out) ∧
      (∀ p, p < 16 → (t.port p).st = .off) ∧ Frame [.fresh, .out, .pmc, .fns, .ports, .elog] s t)

/-- The course of an activation: FW_ACTIVATE begins it; a staged image that fails verification is refused with its reason, one
that passes waits or quiesces; quiesced, the switch restarts the processors of what changes, and completed it makes the staged
image the active one; its wait and its limit abandon it (R389, R391-R394). Model's readings: logs 87, 88. -/
def Obligations.ActivationCourse : Prop :=
  (∀ (via : Via) (p : Packet) (s u : State) (c : Cmd), s.begun specFwActivate via p = some (u, c) →
    (u.fw.phase = .idle → exec (.fwActivate via p) s = .next { u with fw := { u.fw with
      phase := .verifying, actCmd := some c.id, actWait := if par p 8 4 = 0 then u.fw.waitReg else par p 8 4, changed := [] } }) ∧
    (u.fw.phase ≠ .idle → ∃ t, exec (.fwActivate via p) s = .next t ∧ Answered u t c p.context stConflict 0 0)) ∧
  (∀ (s : State) (id : Nat), s.running = true →
    (s.fw.phase = .verifying → s.fw.actCmd = some id →
      (s.verify ≠ 0 → exec .activateVerifyComplete s = .next (({ s with fw := { s.fw with
        phase := .idle, actCmd := none, err := orBit s.fw.err 0 } }).replyTo id stBadParam 0 (0x20000 + s.verify))) ∧
      (s.verify = 0 → exec .activateVerifyComplete s = .next { s with fw := { s.fw with
        phase := if s.fwEmergency then .waiting else .quiescing, changed := s.fw.changedBy } })) ∧
    (s.fw.phase = .quiescing → s.fwEmergency = false → s.fw.changed = [] →
      exec .activateQuiesced s = .next { s with fw := { s.fw with phase := .switching, switching := [] } }) ∧
    (s.fw.phase = .quiescing → s.fwEmergency = false → s.fw.changed = [4] → (∀ c, c ∈ s.cmds → c.st ≠ .running) →
      ∃ t, exec .activateQuiesced s = .next t ∧ t.fw.phase = .switching ∧ t.fw.switching = [2] ∧ (t.proc 2).restarting = true ∧
        (t.proc 2).cause = 4) ∧
    (s.fw.phase = .switching → s.fw.actCmd = some id → (∀ i, i ∈ s.fw.switching → (s.proc i).restarting = false) →
      ∃ w : State, exec .activateSwitchComplete s = .next (w.replyTo id 0) ∧ Frame [.fw] s w ∧ w.fw.phase = .idle ∧
        w.fw.actCmd = none ∧ w.fw.activeBank = 1 - s.fw.activeBank ∧ w.fw.active = s.fw.stagedImage ∧ w.fw.inactive = some s.fw.active ∧
        w.fw.revertOk = true ∧ w.fw.stage = []) ∧
    (s.fw.pending = true → s.fwEmergency = true → s.fw.actCmd = some id →
      exec .activateWaitExpiry s = .next (({ s with fw := { s.fw with
        phase := .idle, actCmd := none, changed := [], err := orBit s.fw.err 1 } }).replyTo id stDeferredExpired)) ∧
    (s.fw.phase = .quiescing → s.fw.actCmd = some id →
      exec .quiesceLimitExpiry s = .next (({ s with fw := { s.fw with
        phase := .idle, actCmd := none, changed := [], err := orBit s.fw.err 2 } }).replyTo id stConflict)))

/-! ## Attestation and sideband (R348, R357, R385-R389, R414, R453-R455) -/

/-- The SPDM responder on a transport that reaches it, with no signing under way: GET_VERSION answers 1.2 and 1.3 and starts the
connection anew; each request out of its turn is UnexpectedRequest, one of another version VersionMismatch; a negotiated
connection gets the digest, the chain from its offset on, a signed challenge and the measurement blocks; RESPOND_IF_READY answers
what was deferred; any other code is UnsupportedRequest; all is Busy during a switch (R387-R389). The model's reading: log 61. -/
def Obligations.SpdmResponses : Prop :=
  ∀ (t : Transport) (s : State), s.spdmReach t = true →
    (s.switchingNow = true → ∀ v code, exec (.getVersion t) s = .next { s with out := .spdm t (.error 0x03) :: s.out } ∧
      exec (.spdmUnsupportedRequest t v code) s = .next { s with out := .spdm t (.error 0x03) :: s.out }) ∧
    (s.switchingNow = false → s.fw.signing = false →
      let tells (i : Instr) (r : SpdmRsp) (f : Spdm → Spdm) : Prop := ∃ w, exec i s = .next w ∧ w.out = .spdm t r :: s.out ∧
        (∀ x, w.conn x = if x = t then f { s.conn t with deferred := none } else s.conn x) ∧ Frame [.fresh, .out, .fw] s w
      tells (.getVersion t) (.versions [0x12, 0x13]) (fun _ => { versioned := true }) ∧
      (∀ v : BitVec 8, (v = 0x12 ∨ v = 0x13) → (s.conn t).versioned = true →
        tells (.getCapabilities t v) (.capabilities 20 0x16 2048 2048) fun c => { c with version := v, negotiated := false }) ∧
      (∀ v, (s.conn t).versioned = false → tells (.getCapabilities t v) (.error 0x04) id) ∧
      (∀ v : BitVec 8, v ≠ 0x12 → v ≠ 0x13 → (s.conn t).versioned = true → tells (.getCapabilities t v) (.error 0x41) id) ∧
      (∀ (v : BitVec 8) (asym hash : BitVec 32) (meas : BitVec 8), (s.conn t).version = v → v ≠ 0 → asym.getLsbD 2 = true →
        hash.getLsbD 0 = true → meas.getLsbD 0 = true →
        tells (.negotiateAlgorithms t v asym hash meas) (.algorithms 4 1 2 1) fun c => { c with negotiated := true }) ∧
      (∀ (v : BitVec 8) (asym hash : BitVec 32) (meas : BitVec 8), (s.conn t).version = 0 →
        tells (.negotiateAlgorithms t v asym hash meas) (.error 0x04) id) ∧
      (∀ v : BitVec 8, (s.conn t).negotiated = false → ∀ i ∈ [Instr.getDigests t v, .getCertificate t v 0 0 0, .challenge t v 0 0 0,
        .getMeasurements t v 0 false 0], tells i (.error 0x04) id) ∧
      (∀ v : BitVec 8, (s.conn t).negotiated = true → v = (s.conn t).version →
        tells (.getDigests t v) (.digests 1 (digestOf Config.certChain)) id ∧
        (∀ (offset length : BitVec 16), offset.toNat < Config.certChain.length →
          let l := (Config.certChain.drop offset.toNat).take (min length.toNat 1024)
          tells (.getCertificate t v 0 offset length) (.certificate 0 l (Config.certChain.length - offset.toNat - l.length)) id) ∧
        (∀ nonce, ∃ w n sg, exec (.challenge t v 0 0 nonce) s = .next w ∧ w.fw.signing = true ∧
          w.out = .spdm t (.challengeAuth 0 (digestOf Config.certChain) n none sg) :: s.out ∧ Frame [.fresh, .out, .fw] s w) ∧
        (∀ index nonce, index.toNat ≤ 12 → ∃ w n, exec (.getMeasurements t v index false nonce) s = .next w ∧
          w.out = .spdm t (.measurements (if index = 0 then 12 else 0) (s.blocks (if index = 0 then [] else [index.toNat])) n none) :: s.out ∧
          Frame [.fresh, .out, .fw] s w)) ∧
      (∀ v, (s.conn t).deferred = none → exec (.respondIfReady t v) s = .next { s with out := .spdm t (.error 0x04) :: s.out }) ∧
      (∀ v code, tells (.spdmUnsupportedRequest t v code) (.error 0x07) id)) ∧
    (∀ v, s.switchingNow = false → (s.conn t).deferred = some (.digests v) → (s.conn t).negotiated = true → v = (s.conn t).version →
      ∃ w, exec (.respondIfReady t v) s = .next w ∧ w.out = .spdm t (.digests 1 (digestOf Config.certChain)) :: s.out ∧
        (w.conn t).deferred = none ∧ Frame [.out, .fw] s w)

/-- The other DOE protocols: DOE Discovery names the three of R348, CXL Table Access reads an entry of the CDAT. The sideband:
control messages, a message of another type is discarded, the vendor commands answer their fields, or completion code 1 for
parameters that name nothing, 5 for a reserved code and 2 while only the ROM answers; the alert is answered with the address
(R348, R357, R453-R455). Model's readings: logs 61, 99. -/
def Obligations.SidebandResponses : Prop :=
  (∀ s : State, s.pmc.powered = true → s.hep.cfgReady = true →
    (∀ index, exec (.doeDiscovery index) s = .next { s with out := .doe (doeProtocol index.toNat) :: s.out }) ∧
    (∀ entry l, cdatRead entry.toNat = some l → exec (.cxlTableAccess entry) s = .next { s with out := .doe l :: s.out }) ∧
    (∀ entry, cdatRead entry.toNat = none → exec (.cxlTableAccess entry) s = .next s)) ∧
  (∀ s : State, s.sideUp = false → ∀ i ∈ [Instr.setEndpointId 8, .getEndpointId, .getMctpVersionSupport, .getMessageTypeSupport, .getIdent,
    .getTemps 0 1, .getPower, .getFru 0 1, .getBoot, .getFatal 0, .vendorUnsupportedCommand 7, .alertResponse], exec i s = .next s) ∧
  (∀ s : State, s.sideUp = true →
    let tells (i : Instr) (l : List Byte) : Prop := exec i s = .next { s with out := .smbus l :: s.out }
    (∀ eid, eid ≠ 0 → eid ≠ 0xFF → exec (.setEndpointId eid) s = .next { s with
      pmc := { s.pmc with eid }, out := .smbus [0, 0, eid, 0] :: s.out }) ∧
    tells (.setEndpointId 0) [2] ∧ tells (.setEndpointId 0xFF) [2] ∧
    tells .getEndpointId [0, s.pmc.eid, 0, 0] ∧ tells .getMctpVersionSupport [0, 1, 0xF1, 0xF3, 0xF1, 0] ∧
    tells .getMessageTypeSupport [0, 2, 0x05, 0x7E] ∧ (∀ ty, exec (.mctpOtherType ty) s = .next s) ∧
    tells .getIdent ([0] ++ leBytes 8 s.ident.toNat ++ leBytes 8 serial) ∧
    tells .getBoot ([0] ++ leBytes 1 s.pmc.stage ++ leBytes 1 (if s.pmc.fatal then 1 else 0) ++ leBytes 1 s.pmc.stopReason ++
      leBytes 1 s.pmc.lastOff ++ leBytes 1 s.pmc.offSensor) ∧
    (s.romOnly = true → (∀ a b, tells (.getTemps a b) [2]) ∧ tells .getPower [2] ∧ (∀ a b, tells (.getFru a b) [2]) ∧
      (∀ a, tells (.getFatal a) [2]) ∧ ∀ code, (code = 0 ∨ 7 ≤ code.toNat) → tells (.vendorUnsupportedCommand code) [2]) ∧
    (s.romOnly = false →
      (∀ first count : BitVec 8, 1 ≤ count.toNat → count.toNat ≤ 32 → first.toNat + count.toNat ≤ 69 → tells (.getTemps first count)
        ([0] ++ (List.range count.toNat).map fun i => BitVec.ofNat 8 (tget 0 s.pmc.temps (first.toNat + i)))) ∧
      (∀ first count : BitVec 8, (count.toNat = 0 ∨ 32 < count.toNat ∨ 69 < first.toNat + count.toNat) → tells (.getTemps first count) [1]) ∧
      tells .getPower ([0] ++ leBytes 2 s.pmc.vin ++ leBytes 2 s.pmc.pin ++ leBytes 2 s.pmc.effCap ++ leBytes 1 s.pmc.level ++
        leBytes 1 s.pmc.flags) ∧
      (∀ (o : BitVec 16) (n : BitVec 8), 1 ≤ n.toNat → n.toNat ≤ 48 → o.toNat + n.toNat ≤ s.fru.length →
        tells (.getFru o n) ([0] ++ (s.fru.drop o.toNat).take n.toNat)) ∧
      (∀ (o : BitVec 16) (n : BitVec 8), (n.toNat = 0 ∨ 48 < n.toNat ∨ s.fru.length < o.toNat + n.toNat) → tells (.getFru o n) [1]) ∧
      (∀ index : BitVec 8, index.toNat < 16 → tells (.getFatal index)
        ([0] ++ leBytes 32 (s.elog.prior[index.toNat]?.getD 0).toNat)) ∧
      (∀ index : BitVec 8, 16 ≤ index.toNat → tells (.getFatal index) [1]) ∧
      (∀ code, (code = 0 ∨ 7 ≤ code.toNat) → tells (.vendorUnsupportedCommand code) [5])) ∧
    (s.alert = true → tells .alertResponse (leBytes 1 (0x60 + s.pmc.smbAddr.toNat))) ∧
    (s.alert = false → exec .alertResponse s = .next s))

/-- The alert pin of a powered device is asserted while it is fatal, which a boot that stops makes it, or in a thermal emergency,
in Hold-up or over-voltage, and at no other time; the Alert Response Address is answered with its address while it is asserted
(R455). -/
def Obligations.AlertPin : Prop :=
  ∀ s : State, s.pmc.powered = true →
    (s.alert = true ↔ s.pmc.fatal = true ∨ s.pmc.emergency = true ∨ s.pmc.holdup = true ∨ s.pmc.overvolt = true) ∧
    (s.sideUp = true →
      (s.alert = true → exec .alertResponse s = .next { s with out := .smbus (leBytes 1 (0x60 + s.pmc.smbAddr.toNat)) :: s.out }) ∧
      (s.alert = false → exec .alertResponse s = .next s)) ∧
    (∀ o, o = .imageBad ∨ o = .calibrationBad → s.pmc.booting = true → s.pmc.fatal = false → s.pmc.bootPaused = false →
      s.pmc.holdup = false → (o = .imageBad → s.pmc.stage = 0 ∧ s.fw.inactive = none) → (o = .calibrationBad → s.pmc.stage = 1) →
      ∃ t, exec (.bootStageEnd o) s = .next t ∧ t.pmc.powered = true ∧ t.alert = true)

/-! ## Pliust (R237-R246, R261-R266) -/

/-- Where an engine goes after an instruction, and the scalar instructions: the next one, or the start of the loop whose end it
is and that has runs left; a loop without runs is passed over; SKIP, LI, ARG and the eleven functions of SALU, where a shift of
64 or more writes a free value. END waits for the engine's streams, then ends the engine; with the last engine of its run the run
is over, its engines are free, and its KERNEL_RUN is answered OK with X12 and X13 of engine 0 in RESULT. WAIT waits for the tags
of its mask, FENCE for every stream that writes (R237, R246, R255, R262-R264). The model's reading: log 41. -/
def Obligations.ScalarInstructions : Prop :=
  ((∀ (g : Engine) (next n : Nat), (g.loops = [] → g.goto next (n + 1) = { g with pc := next }) ∧
      (∀ f rest, g.loops = f :: rest → (next ≠ f.stop → g.goto next (n + 1) = { g with pc := next }) ∧
        (next = f.stop → 0 < f.left → g.goto next (n + 1) =
          { g with pc := f.first, loops := { f with left := f.left - 1 } :: rest }) ∧
        (next = f.stop → f.left = 0 → g.goto next (n + 1) = ({ g with loops := rest }).goto next n))) ∧
    (∀ (e : Fin 152) (s : State) (i : Slot4) (op : Nat), i.e = e.val → Stands s i op →
      let a := i.g.xr (iA i.w)
      let b := i.g.xr (iB i.w)
      (op = 0x02 → ∀ n, n = (min (signed64 a) (bits (iImm i.w) 23 0 : Nat)).toNat →
        ∃ t, exec (.loop e) s = .next t ∧ (n = 0 → Retired s t i i.g (bits (iImm i.w) 31 24) []) ∧
          (n ≠ 0 → Retired s t i { i.g with loops :=
            { first := i.g.pc + 1, stop := i.g.pc + 1 + bits (iImm i.w) 31 24, left := n - 1 } :: i.g.loops } 0 [])) ∧
      (op = 0x03 → ∃ t k, exec (.skip e) s = .next t ∧ Retired s t i i.g k [] ∧ (k = 0 ∨ k = bits (iImm i.w) 7 0) ∧
        (iFn i.w = 0 → k = if a = b then bits (iImm i.w) 7 0 else 0) ∧ (iFn i.w = 1 → k = if a ≠ b then bits (iImm i.w) 7 0 else 0) ∧
        (iFn i.w = 2 → k = if signed64 a < signed64 b then bits (iImm i.w) 7 0 else 0) ∧
        (iFn i.w = 3 → k = if signed64 b ≤ signed64 a then bits (iImm i.w) 7 0 else 0) ∧
        (iFn i.w = 4 → k = if a < b then bits (iImm i.w) 7 0 else 0) ∧ (iFn i.w = 5 → k = if b ≤ a then bits (iImm i.w) 7 0 else 0)) ∧
      (op = 0x04 → ∃ t v, exec (.li e) s = .next t ∧ Retired s t i (i.g.setX (iD i.w) v) 0 [] ∧
        (iFn i.w = 0 → v = iSext i.w) ∧ (iFn i.w ≠ 0 → v = i.g.xr (iD i.w) % 2 ^ 32 + 2 ^ 32 * iImm i.w)) ∧
      (op = 0x05 → ∀ c, c = (if bit (iFmt i.w) 0 then iSext i.w else b) → ∃ t v, exec (.salu e) s = .next t ∧
        Retired s t i (i.g.setX (iD i.w) v) 0 [] ∧ (iFn i.w = 0 → v = a + c) ∧ (iFn i.w = 1 → c ≤ 2 ^ 64 → v + c = a + 2 ^ 64) ∧
        (iFn i.w = 2 → v = a * c) ∧ (iFn i.w = 3 → v = a &&& c) ∧ (iFn i.w = 4 → v = a ||| c) ∧ (iFn i.w = 5 → v = a ^^^ c) ∧
        (iFn i.w = 6 → c < 64 → v = a * 2 ^ c) ∧ (iFn i.w = 7 → c < 64 → v = a / 2 ^ c) ∧
        (iFn i.w = 8 → c < 64 → v = ofSigned64 (signed64 a / 2 ^ c)) ∧
        (iFn i.w = 9 → v = if signed64 a < signed64 c then a else c) ∧ (iFn i.w = 10 → v = if signed64 a < signed64 c then c else a)) ∧
      (op = 0x06 → ∃ t, exec (.arg e) s = .next t ∧ Retired s t i (i.g.setX (iD i.w) (i.r.arg (iImm i.w))) 0 []) ∧
      (op ≠ 0x05 → exec (.salu e) s = .next s) ∧ (op ≠ 0x15 → exec (.mzero e) s = .next s))) ∧
  ((∀ (e : Fin 152) (s : State) (i : Slot4), i.e = e.val → Stands s i 0x01 →
      (i.g.streams ≠ [] → exec (.endOp e) s = .next s) ∧
      (∀ r, r = (if i.g.index = 0 then { i.r with x12 := i.g.xr 12, x13 := i.g.xr 13 } else i.r) → i.g.streams = [] →
        ((∃ n, n ∈ i.r.engines ∧ n ≠ e.val ∧ (s.engine n).ended = false) → ∃ t, exec (.endOp e) s = .next t ∧
          (∀ n, t.engine n = if n = e.val then { i.g with ended := true } else s.engine n) ∧ t.run? i.r.id = some r ∧
          Frame [.out, .fns, .engines, .disp, .cnt] s t) ∧
        (i.r.started = true → e.val ∈ i.r.engines →
          (∀ n, n ∈ i.r.engines → n ≠ e.val → (s.engine n).ended = true ∧ (s.engine n).streams = []) →
          (s.proc (3 + i.r.ctx % 4)).restarting = false →
          (∀ c, c ∈ s.cmds → c.st = .running → c.opcode ≠ 0x0502 ∧ c.opcode ≠ 0x0801) →
          ∃ v : State, exec (.endOp e) s = .next (v.replyTo i.r.cmd 0 (r.x12 + r.x13 <<< 64)) ∧ v.run? i.r.id = none ∧
            (∀ n, n ∈ i.r.engines → (v.engine n).run = none) ∧ (∀ n, n ∉ i.r.engines → v.engine n = s.engine n) ∧
            Frame [.out, .fns, .dir, .engines, .disp, .cnt] s v))) ∧
    (∀ (e : Fin 152) (s : State) (i : Slot4), i.e = e.val → Stands s i 0x0C →
      ((∃ t, t ∈ i.g.streams ∧ t.tag < 16 ∧ bit (iImm i.w) t.tag = true) → exec (.wait e) s = .next s) ∧
      ((∀ t, t ∈ i.g.streams → t.tag < 16 → bit (iImm i.w) t.tag = false) →
        ∃ t, exec (.wait e) s = .next t ∧ Retired s t i i.g 0 [])) ∧
    (∀ (e : Fin 152) (s : State) (i : Slot4), i.e = e.val → Stands s i 0x18 →
      ((∃ t, t ∈ i.g.streams ∧ t.op ∈ [0x08, 0x09, 0x0B]) → exec (.fence e) s = .next s) ∧
      ((∀ t, t ∈ i.g.streams → t.op ∉ [0x08, 0x09, 0x0B]) → ∃ t, exec (.fence e) s = .next t ∧ Retired s t i i.g 0 [])))

/-- SIN, SOUT, SACC, GATHER and SCATTER_ADD: with its tag and one of sixteen free, a stream of the registers that the instruction
names joins those in flight; it waits for its tag, and for a stream that writes what it reads or touches what it writes in the slab; one
whose LA is not a multiple of 64, whose length is none of R266's, or whose slab range passes SLAB_KB, fails the run (R246, R250, R263,
R266). Model's readings: logs 43, 164. -/
def Obligations.StreamInstructions : Prop :=
  ∀ (e : Fin 152) (s : State) (i : Slot4) (op : Nat) (ins : Instr) (st : Stream), i.e = e.val → Stands s i op →
    (op, ins) ∈ [(0x07, Instr.sin e), (0x08, .sout e), (0x09, .sacc e), (0x0A, .gather e), (0x0B, .scatterAdd e)] → st = i.stream op →
    st.la = i.g.xr (iA i.w) ∧ st.slab = i.g.xr (iD i.w) ∧ st.fmt = iFmt i.w ∧ st.op = op ∧
    st.len = i.g.xr (if op = 0x0A ∨ op = 0x0B then iC i.w else iB i.w) ∧ st.tag = (if op ≤ 0x08 then bits (iImm i.w) 3 0 else 16) ∧
    (16 ≤ i.g.streams.length ∨ (st.tag < 16 ∧ ∃ t, t ∈ i.g.streams ∧ t.tag = st.tag) ∨ i.stalls st.slabReads st.slabWrites = true → exec ins s = .next s) ∧
    (i.g.streams.length < 16 → (st.tag < 16 → ∀ t, t ∈ i.g.streams → t.tag ≠ st.tag) → i.stalls st.slabReads st.slabWrites = false →
      (s.streamRefused i st = none → ∃ t, exec ins s = .next t ∧ Retired s t i { i.g with streams := i.g.streams ++ [st] } 0 []) ∧
      (st.la % 64 ≠ 0 ∨ (op ≤ 0x09 ∧ (st.len = 0 ∨ 2 ^ 20 < st.len)) ∨ (op = 0x08 ∧ 1024 * i.k.slabKb < st.slab + st.len) →
        ∃ t, exec ins s = .next t ∧ RunFails t i))

/-- The vector instructions on their 512 lanes: VLD and VST between the slab and a register, within SLAB_KB, or the run fails, once no
stream in flight writes there, or touches what VST writes; VLD of the expansion queue's front record, the next of which has its header
checked as it comes to the front; VALU's functions lane by lane; VFMA, VSFU, VRED with an open order of additions, VBCAST and VCVT; a register written reads as it
was written. MZERO clears the accumulator; MMAC adds the exact products of its panels to the cells in an open order, IMM 0
standing for 64 panels; MST writes the accumulator to the slab (R221, R234, R237-R245, R263-R265). Model's readings: logs 42, 68, 77,
116, 117, 164. -/
def Obligations.VectorInstructions : Prop :=
  ((∀ (g : Engine) (k : Nat) (l : List Nat), l.length = 512 → (g.setV k l).vr k = l ∧ ∀ j, j ≠ k → (g.setV k l).vr j = g.vr j) ∧
    (∀ (e : Fin 152) (s : State) (i : Slot4) (op : Nat), i.e = e.val → Stands s i op →
      let a := i.g.vr (iA i.w)
      let b := i.g.vr (iB i.w)
      let c := i.g.vr (iC i.w)
      let lanes (ins : Instr) (f : Nat → Nat) (also : List Piece) : Prop := ∃ t v, exec ins s = .next t ∧
        Retired s t i (i.g.setV (iD i.w) v) 0 also ∧ v.length = 512 ∧ ∀ n, n < 512 → v[n]?.getD 0 = f n
      (op = 0x0D → ∀ off, off = i.g.xr (iA i.w) + iImm i.w →
        (iFmt i.w = 0 → off + 2048 ≤ 1024 * i.k.slabKb → i.stalls [(off, 2048)] [] = true → exec (.vld e) s = .next s) ∧
        (iFmt i.w = 0 → off + 2048 ≤ 1024 * i.k.slabKb → i.stalls [(off, 2048)] [] = false → lanes (.vld e) (fun n => leNat (i.g.slabRead (off + 4 * n) 4)) []) ∧
        (iFmt i.w = 1 → off + 1024 ≤ 1024 * i.k.slabKb → i.stalls [(off, 1024)] [] = false → lanes (.vld e) (fun n => ofBf16 (leNat (i.g.slabRead (off + 2 * n) 2))) []) ∧
        (iFmt i.w = 0 → 1024 * i.k.slabKb < off + 2048 → ∃ t, exec (.vld e) s = .next t ∧ RunFails t i) ∧
        (iFmt i.w = 2 → i.g.expQ = [] → exec (.vld e) s = .next s) ∧
        (∀ rec rest, iFmt i.w = 2 → i.g.expQ = rec :: rest →
          (i.g.expPos + 512 < 65536 → ∃ t seed, exec (.vld e) s = .next t ∧
            Retired s t i { i.g.setV (iD i.w) (expandFrom seed (hdrNum rec 0 1) (hdrNum rec 1 1) rec i.g.expPos 512) with
              expPos := i.g.expPos + 512 } 0 []) ∧
          (65536 ≤ i.g.expPos + 512 → (∀ next, rest.head? = some next → recSound next = true) → ∃ t seed, exec (.vld e) s = .next t ∧
            Retired s t i { i.g.setV (iD i.w) (expandFrom seed (hdrNum rec 0 1) (hdrNum rec 1 1) rec i.g.expPos 512) with
              expQ := rest, expPos := 0 } 0 []) ∧
          (65536 ≤ i.g.expPos + 512 → (∃ next, rest.head? = some next ∧ recSound next = false) →
            ∃ t, exec (.vld e) s = .next t ∧ RunFails t i))) ∧
      (op = 0x0E → ∀ off, off = i.g.xr (iA i.w) + iImm i.w →
        (iFmt i.w = 0 → off + 2048 ≤ 1024 * i.k.slabKb → i.stalls [] [(off, 2048)] = true → exec (.vst e) s = .next s) ∧
        (iFmt i.w = 0 → off + 2048 ≤ 1024 * i.k.slabKb → i.stalls [] [(off, 2048)] = false → ∃ t, exec (.vst e) s = .next t ∧
          Retired s t i (i.g.slabWrite off ((i.g.vr (iD i.w)).flatMap fun v => leBytes 4 v)) 0 []) ∧
        (iFmt i.w = 0 → 1024 * i.k.slabKb < off + 2048 → ∃ t, exec (.vst e) s = .next t ∧ RunFails t i)) ∧
      (op = 0x0F →
        (iFn i.w = 0 → lanes (.valu e) (fun n => f32add (a[n]?.getD 0) (b[n]?.getD 0)) []) ∧
        (iFn i.w = 1 → lanes (.valu e) (fun n => f32sub (a[n]?.getD 0) (b[n]?.getD 0)) []) ∧
        (iFn i.w = 2 → lanes (.valu e) (fun n => f32mul (a[n]?.getD 0) (b[n]?.getD 0)) []) ∧
        (iFn i.w = 3 → lanes (.valu e) (fun n => vecMin (a[n]?.getD 0) (b[n]?.getD 0)) []) ∧
        (iFn i.w = 4 → lanes (.valu e) (fun n => vecMax (a[n]?.getD 0) (b[n]?.getD 0)) []) ∧
        (iFn i.w = 5 → lanes (.valu e) (fun n => f32abs (a[n]?.getD 0)) []) ∧
        (iFn i.w = 6 → lanes (.valu e) (fun n => f32neg (a[n]?.getD 0)) []) ∧
        (iFn i.w = 7 → lanes (.valu e) (fun n => f32sign (a[n]?.getD 0)) []) ∧
        (iFn i.w = 8 → lanes (.valu e) (fun n => bits32 (num32 (if (num32 (b[n]?.getD 0)).isNan = false ∧
          (num32 (b[n]?.getD 0)).lt (.fin true 0 0) = false then a[n]?.getD 0 else c.getD n 0))) [])) ∧
      (op = 0x10 → lanes (.vfma e) (fun n => f32fma (if bit (iFmt i.w) 0 then f32neg (a[n]?.getD 0) else a[n]?.getD 0)
        (b[n]?.getD 0) (c.getD n 0)) []) ∧
      (op = 0x11 → lanes (.vsfu e) (fun n => vsfuLane (iFn i.w) (a[n]?.getD 0)) []) ∧
      (op = 0x12 → ∃ seed, (iFn i.w = 0 → lanes (.vred e) (fun _ => sum32 seed a) []) ∧
        (iFn i.w = 1 → lanes (.vred e) (fun _ => a.tail.foldl vecMax (a.headD 0)) []) ∧
        (iFn i.w = 2 → lanes (.vred e) (fun _ => sum32 seed (a.map fun v => f32mul v v)) []) ∧
        (iFn i.w = 3 → lanes (.vred e) (fun _ => (a.map f32abs).tail.foldl vecMax (f32abs (a.headD 0))) [])) ∧
      (op = 0x13 → (iFmt i.w = 0 → lanes (.vbcast e) (fun _ => i.g.xr (iA i.w) % 2 ^ 32) []) ∧
        (iFmt i.w = 1 → lanes (.vbcast e) (fun _ => iImm i.w) []) ∧ (iFmt i.w = 2 → lanes (.vbcast e) f32OfNat [])) ∧
      (op = 0x14 → (iFmt i.w = 1 → lanes (.vcvt e) (fun n => ofBf16 (toBf16 (a[n]?.getD 0))) []) ∧
        (iFmt i.w ≠ 1 → ∃ v, exec (.vcvt e) s = .next v ∧ (∀ d, v.chd d = { s.chd d with err := (v.chd d).err }) ∧
          Retired s v i (i.g.setV (iD i.w) ((groups32 16 a).flatMap fun l => (mxRound (mxOf (iFmt i.w)) l).1)) 0 [.chds])))) ∧
  (∀ (e : Fin 152) (s : State) (i : Slot4) (op : Nat), i.e = e.val → Stands s i op →
      (op = 0x15 → ∃ t, exec (.mzero e) s = .next t ∧ Retired s t i { i.g with acc := [] } 0 []) ∧
      (op = 0x16 → ∀ n a b, n = (if bits (iImm i.w) 5 0 = 0 then 64 else bits (iImm i.w) 5 0) →
        a = 1024 * i.k.slabKb - i.g.xr (iA i.w) → b = 1024 * i.k.slabKb - i.g.xr (iB i.w) →
        (n * panelBytes (iFn i.w) ≤ a → n * panelBytes (iFmt i.w) ≤ b →
            i.stalls [(i.g.xr (iA i.w), n * panelBytes (iFn i.w)), (i.g.xr (iB i.w), n * panelBytes (iFmt i.w))] [] = false →
          ∃ t seed, exec (.mmac e) s = .next t ∧
            Retired s t i (i.g.mmac seed (iFn i.w) (iFmt i.w) (i.g.xr (iA i.w)) (i.g.xr (iB i.w)) n) 0 []) ∧
        (a < n * panelBytes (iFn i.w) ∨ b < n * panelBytes (iFmt i.w) → ∃ t, exec (.mmac e) s = .next t ∧ RunFails t i)) ∧
      (op = 0x17 → ∀ off l, off = i.g.xr (iD i.w) + iImm i.w → l = (List.range 16384).map (fun k => tget 0 i.g.acc k) →
        (iFmt i.w = 0 → off + 65536 ≤ 1024 * i.k.slabKb → i.stalls [] [(off, 65536)] = false → ∃ t, exec (.mst e) s = .next t ∧
          Retired s t i (i.g.slabWrite off (l.flatMap fun v => leBytes 4 v)) 0 []) ∧
        (iFmt i.w = 1 → off + 32768 ≤ 1024 * i.k.slabKb → i.stalls [] [(off, 32768)] = false → ∃ t, exec (.mst e) s = .next t ∧
          Retired s t i (i.g.slabWrite off (l.flatMap fun v => leBytes 2 (toBf16 v))) 0 []) ∧
        (1024 * i.k.slabKb < off + 32768 → ∃ t, exec (.mst e) s = .next t ∧ RunFails t i)))

/-- KERNEL_DISPATCH starts the head of the queue, of a loaded kernel, on as many free engines as it may take, each prepared for
its index; a head that has waited BACKFILL_LIMIT is not overtaken. A SIN of plaintext stores in the slab what its range reads; an engine
of a built-in run reads its descriptor, then reads and computes the unit dealt to it, which waits to retire; the lowest unit is written,
and retires with its last write; a failing engine leaves service, with its run (R222, R239, R246, R248, R249, R252, R260). Model's
readings: logs 44, 138. -/
def Obligations.RunsAndStreams : Prop :=
  (∀ (s : State) (head : Run) (rest : List Run), s.running = true → s.hep.d3hot = false → s.fwHolds 5 = false →
    (∀ r, r ∈ s.disp.runs → s.overCount r = false) → s.disp.runs.filter Run.queued = head :: rest →
    s.run? head.id = some head →
    (∀ n, s.fits head = some n → loadedHandle head.handle = true →
      ∃ t es, exec .kernelDispatch s = .next t ∧ es.length = n ∧ es.Nodup ∧ (∀ e, e ∈ es → e ∈ s.freeEngines) ∧
        t.run? head.id = some { head with started := true, engines := es } ∧
        (∀ k (h : k < es.length), (t.engine es[k]).run = some head.id ∧ (t.engine es[k]).index = k ∧ (t.engine es[k]).pc = 0 ∧
          (t.engine es[k]).ended = false ∧ (t.engine es[k]).lastCtx = some head.ctx ∧ (t.engine es[k]).xr 14 = n ∧
          (t.engine es[k]).xr 15 = k ∧ (t.engine es[k]).v = [] ∧ (t.engine es[k]).acc = []) ∧
        (∀ e, e ∉ es → t.engine e = s.engine e) ∧ Frame [.fresh, .out, .fns, .engines, .disp, .cnt] s t) ∧
    (s.fits head = none → head.waited = true ∨ s.disp.backfill = 0 → exec .kernelDispatch s = .next s) ∧
    (∃ t, exec .backfillLimitExpiry s = .next t ∧ t.run? head.id = some { head with waited := true } ∧ Frame [.disp] s t)) ∧
  (∀ (e : Fin 152) (tag : Fin 17) (s : State) (id : Nat) (r : Run) (st : Stream), s.running = true →
    (s.engine e.val).run = some id → s.run? id = some r →
    (loadedHandle r.handle = true → (s.engine e.val).streams.find? (fun t => t.tag == tag.val) = none →
      exec (.streamComplete e tag) s = .next s) ∧
    (loadedHandle r.handle = true → (s.engine e.val).streams = [st] → st.tag = tag.val → st.op = 0x07 → st.fmt = 0 →
      (s.engine e.val).ended = false →
      (∀ lines v q, s.moverRead (s.kernelMover e.val r.ctx (st.waiter r e.val)) st.la st.len = (.ok lines, v) → v.run? id = some q →
        q.started = true → e.val ∈ q.engines →
        ∃ t, exec (.streamComplete e tag) s = .next t ∧ (t.engine e.val).streams = [] ∧
          (t.engine e.val).slab = writeBytes (s.engine e.val).slab st.slab (lines.flatMap lineBytes) ∧
          (t.engine e.val).pc = (s.engine e.val).pc ∧ (∀ n, n ≠ e.val → t.engine n = s.engine n) ∧
          Frame [.out, .fns, .engines, .disp, .cnt] v t) ∧
      (∀ v, s.moverRead (s.kernelMover e.val r.ctx (st.waiter r e.val)) st.la st.len = (.wait, v) → r.failed = none →
        exec (.streamComplete e tag) s = .next v)) ∧
    (loadedHandle r.handle = false → r.total ≤ r.units → exec (.streamComplete e tag) s = .next s) ∧
    (∀ (n : Nat) (k : Worker), k = { m := s.kernelMover e.val r.ctx (.run r.id n), e := e.val, ctx := r.ctx, run := r.id } → id = r.id →
      loadedHandle r.handle = false → r.failed = none → r.units < r.total →
      (∀ d v q, r.handle ≤ 4 → r.desc = [] → n = 0 → kRead k (r.arg 4) 128 false s = (.ok d, v) → v.run? r.id = some q →
        ({ r with desc := d } : Run).descOk = true →
        ∃ t, exec (.streamComplete e tag) s = .next t ∧ t.run? r.id = some { q with desc := d } ∧ Frame [.disp] v t) ∧
      ((r.handle ≤ 4 → r.desc ≠ []) →
        (∀ u v q out, r.work.find? (fun w => w.unit == r.units && w.engine == e.val) = none → r.unitFor e.val = some n →
          (r.clears = true → n ≤ r.units) →
          (s.modRun r.id fun x => { x with dealt := max x.dealt (n + 1), busy := tset x.busy e.val n }).allReady k.m
            ({ r with units := n } : Run).touches .rd false = (.ok (), u) →
          unitOf k { r with units := n } u.fresh { u with fresh := u.fresh + 2 ^ 32 } = (.ok out, v) → v.run? r.id = some q →
          (∀ w, w ∈ q.work → w.failed = none) →
          ∃ t w, exec (.streamComplete e tag) s = .next t ∧ t.run? r.id = some { q with
              busy := tdel q.busy e.val, taken := [], work := q.work ++ [w] } ∧ w.unit = n ∧ w.engine = e.val ∧ w.failed = none ∧
            w.groups = out.writes.map (fun g => g.flatMap UnitWrite.split) ∧ w.a = out.a ∧ w.b = out.b ∧ Frame [.disp] v t) ∧
        (∀ w g u v q c, r.work.find? (fun w => w.unit == r.units && w.engine == e.val) = some w → w.unit = n → w.groups = [g] →
          s.allReady k.m (g.map fun x => (x.la, x.data.length)) (if g.any (·.add) then .atom else .wr) true = (.ok (), u) →
          g.find? (u.badWrite k) = none → u.doAll (State.putWrite k) g 0 = ((.ok (), c), v) → v.run? r.id = some q →
          r.units + 1 < r.total → (∀ w, w ∈ q.work → w.failed = none) →
          ∃ t x, exec (.streamComplete e tag) s = .next t ∧ t.run? r.id = some x ∧ x.units = q.units + 1 ∧
            x.work = q.work.filter (fun x => x.unit != n) ∧ x.failed = q.failed ∧ Frame [.out, .fns, .chds, .disp, .cnt] v t)))) ∧
  (∀ (e : Fin 152) (s : State), s.running = true →
    ((s.engine e.val).inService = false → exec (.engineFailure e) s = .next s) ∧
    ((s.engine e.val).inService = true → ∃ t, exec (.engineFailure e) s = .next t ∧ (t.engine e.val).inService = false ∧
      bit (t.chd (e.val / 38)).err.toNat 0 = true ∧
      ((s.engine e.val).run = none → t.elog.next = (s.elog.next + 1) % 2 ^ 32 ∧ t.disp = s.disp ∧ (∀ n, n ≠ e.val → t.engine n = s.engine n)) ∧
      (∀ id q, (s.engine e.val).run = some id → t.run? id = some q → q.failed.isSome = true)))

end
end

