-- ==== Sys2Proof/Laws/Frame.lean ====
section
/-!
SUPPORT. How frames compose: the calculus by which each operation's frame is proved once from those of the operations it calls.
-/

namespace Sys2Proof.Machine

set_option Elab.async false

/-- Nothing changed. -/
theorem Frame.refl (l : List Piece) (s : State) : Frame l s s :=
  ⟨fun f _ => by cases f <;> rfl⟩

/-- A frame allows what a smaller one allows. -/
theorem Frame.mono {l m : List Piece} {s t : State} (h : Frame l s t) (hlm : (l.all fun f => m.contains f) = true) : Frame m s t := by
  constructor
  intro f hf
  refine h.same f ?_
  cases hc : l.contains f
  · rfl
  · have := List.all_eq_true.mp hlm f (List.contains_iff_mem.mp hc)
    rw [hf] at this; exact absurd this (by decide)

/-- Inclusion of lists of pieces is transitive. -/
theorem Frame.subTrans {l m n : List Piece} (hl : (n.all fun f => l.contains f) = true) (hm : (m.all fun f => n.contains f) = true) :
    (m.all fun f => l.contains f) = true := by
  rw [List.all_eq_true] at *
  intro f hf
  exact hl f (List.contains_iff_mem.mp (hm f hf))

/-- Two changes in a row change what either does. -/
theorem Frame.trans {l : List Piece} {s t u : State} (h : Frame l s t) (k : Frame l t u) : Frame l s u := by
  constructor
  intro f hf
  have a := h.same f hf
  have b := k.same f hf
  cases f <;> exact Eq.trans b a

/-- The first change is within the frame and so is the second: the second named with its own, smaller frame. -/
theorem Frame.step {l m : List Piece} {s t u : State} (k : Frame m t u) (hlm : (m.all fun f => l.contains f) = true)
    (h : Frame l s t) : Frame l s u := h.trans (k.mono hlm)

/-- The same where the frame is only known to hold all that `m` allows. -/
theorem Frame.stepIn {l m n : List Piece} {s t u : State} (hl : (n.all fun f => l.contains f) = true) (k : Frame m t u)
    (hm : (m.all fun f => n.contains f) = true) (h : Frame l s t) : Frame l s u := h.trans ((k.mono hm).mono hl)

/-- A state taken out of a pair that a change answers. -/
theorem Frame.ofPair {α : Type} {l : List Piece} {s t : State} {x : α × State} {a : α} (h : x = (a, t)) (k : Frame l s x.2) :
    Frame l s t := by
  subst h; exact k

/-- The second change is within the frame, and so is the first. -/
theorem Frame.after {l : List Piece} {s t u : State} (k : Frame l t u) (h : Frame l s t) : Frame l s u := h.trans k

/-- A change applied for each element of a list. -/
theorem Frame.each {α : Type} {l : List Piece} (xs : List α) (f : State → α → State) (h : ∀ s a, Frame l s (f s a)) (s : State) :
    Frame l s (s.each xs f) := by
  unfold State.each
  induction xs generalizing s with
  | nil => exact Frame.refl l s
  | cons a xs ih => exact (h s a).trans (ih (f s a))

/-- A change applied for each element of a list, after a change. -/
theorem Frame.eachTrans {α : Type} {l : List Piece} {s t : State} {xs : List α} {f : State → α → State} (k : Frame l s t)
    (h : ∀ s a, Frame l s (f s a)) : Frame l s (t.each xs f) := k.trans (Frame.each xs f h t)

/-- A fold that carries a state beside what it collects. -/
theorem Frame.foldTrans {α β : Type} {l : List Piece} {s : State} {xs : List α} {f : β × State → α → β × State} {acc : β × State}
    (k : Frame l s acc.2) (h : ∀ (a : β × State) (x : α), Frame l a.2 (f a x).2) : Frame l s (xs.foldl f acc).2 := by
  induction xs generalizing acc with
  | nil => exact k
  | cons x xs ih => exact ih (k.trans (h acc x))

/-- A fold over states. -/
theorem Frame.foldlTrans {α : Type} {l : List Piece} {s t : State} {xs : List α} {f : State → α → State} (k : Frame l s t)
    (h : ∀ s a, Frame l s (f s a)) : Frame l s (xs.foldl f t) := k.trans (Frame.each xs f h t)

/-- Either branch of a choice. -/
theorem Frame.ite {l : List Piece} {c : Prop} [Decidable c] {s t u : State} (ht : Frame l s t) (hu : Frame l s u) :
    Frame l s (if c then t else u) := by
  split
  · exact ht
  · exact hu

/-- Either branch of a choice between pairs. -/
theorem Frame.iteSnd {α : Type} {l : List Piece} {c : Prop} [Decidable c] {s : State} {x y : α × State} (hx : Frame l s x.2)
    (hy : Frame l s y.2) : Frame l s (if c then x else y).2 := by
  split
  · exact hx
  · exact hy

/-- Either branch of a choice between operations. -/
theorem Frame.iteRun {α : Type} {l : List Piece} {c : Prop} [Decidable c] {s t : State} {x y : State → α × State}
    (hx : Frame l s (x t).2) (hy : Frame l s (y t).2) : Frame l s ((if c then x else y) t).2 := by
  split
  · exact hx
  · exact hy

/-! ## One lemma per field update -/

theorem Frame.set_pending (s : State) (v) : Frame [.pending] s { s with pending := v } := by
  constructor; intro f hf; cases f <;> first | rfl | exact absurd hf (by decide)

theorem Frame.set_fresh (s : State) (v) : Frame [.fresh] s { s with fresh := v } := by
  constructor; intro f hf; cases f <;> first | rfl | exact absurd hf (by decide)

theorem Frame.set_out (s : State) (v) : Frame [.out] s { s with out := v } := by
  constructor; intro f hf; cases f <;> first | rfl | exact absurd hf (by decide)

theorem Frame.set_variantH (s : State) (v) : Frame [.variantH] s { s with variantH := v } := by
  constructor; intro f hf; cases f <;> first | rfl | exact absurd hf (by decide)

theorem Frame.set_stepB0 (s : State) (v) : Frame [.stepB0] s { s with stepB0 := v } := by
  constructor; intro f hf; cases f <;> first | rfl | exact absurd hf (by decide)

theorem Frame.set_nextId (s : State) (v) : Frame [.nextId] s { s with nextId := v } := by
  constructor; intro f hf; cases f <;> first | rfl | exact absurd hf (by decide)

theorem Frame.set_nextKey (s : State) (v) : Frame [.nextKey] s { s with nextKey := v } := by
  constructor; intro f hf; cases f <;> first | rfl | exact absurd hf (by decide)

theorem Frame.set_pmc (s : State) (v) : Frame [.pmc] s { s with pmc := v } := by
  constructor; intro f hf; cases f <;> first | rfl | exact absurd hf (by decide)

theorem Frame.set_fw (s : State) (v) : Frame [.fw] s { s with fw := v } := by
  constructor; intro f hf; cases f <;> first | rfl | exact absurd hf (by decide)

theorem Frame.set_hep (s : State) (v) : Frame [.hep] s { s with hep := v } := by
  constructor; intro f hf; cases f <;> first | rfl | exact absurd hf (by decide)

theorem Frame.set_fns (s : State) (v) : Frame [.fns] s { s with fns := v } := by
  constructor; intro f hf; cases f <;> first | rfl | exact absurd hf (by decide)

theorem Frame.set_ctxs (s : State) (v) : Frame [.ctxs] s { s with ctxs := v } := by
  constructor; intro f hf; cases f <;> first | rfl | exact absurd hf (by decide)

theorem Frame.set_sealed (s : State) (v) : Frame [.sealed] s { s with sealed := v } := by
  constructor; intro f hf; cases f <;> first | rfl | exact absurd hf (by decide)

theorem Frame.set_regions (s : State) (v) : Frame [.regions] s { s with regions := v } := by
  constructor; intro f hf; cases f <;> first | rfl | exact absurd hf (by decide)

theorem Frame.set_subs (s : State) (v) : Frame [.subs] s { s with subs := v } := by
  constructor; intro f hf; cases f <;> first | rfl | exact absurd hf (by decide)

theorem Frame.set_seqs (s : State) (v) : Frame [.seqs] s { s with seqs := v } := by
  constructor; intro f hf; cases f <;> first | rfl | exact absurd hf (by decide)

theorem Frame.set_cmds (s : State) (v) : Frame [.cmds] s { s with cmds := v } := by
  constructor; intro f hf; cases f <;> first | rfl | exact absurd hf (by decide)

theorem Frame.set_ports (s : State) (v) : Frame [.ports] s { s with ports := v } := by
  constructor; intro f hf; cases f <;> first | rfl | exact absurd hf (by decide)

theorem Frame.set_held (s : State) (v) : Frame [.held] s { s with held := v } := by
  constructor; intro f hf; cases f <;> first | rfl | exact absurd hf (by decide)

theorem Frame.set_leases (s : State) (v) : Frame [.leases] s { s with leases := v } := by
  constructor; intro f hf; cases f <;> first | rfl | exact absurd hf (by decide)

theorem Frame.set_hbm (s : State) (v) : Frame [.hbm] s { s with hbm := v } := by
  constructor; intro f hf; cases f <;> first | rfl | exact absurd hf (by decide)

theorem Frame.set_staged (s : State) (v) : Frame [.staged] s { s with staged := v } := by
  constructor; intro f hf; cases f <;> first | rfl | exact absurd hf (by decide)

theorem Frame.set_flash (s : State) (v) : Frame [.flash] s { s with flash := v } := by
  constructor; intro f hf; cases f <;> first | rfl | exact absurd hf (by decide)

theorem Frame.set_wbuf (s : State) (v) : Frame [.wbuf] s { s with wbuf := v } := by
  constructor; intro f hf; cases f <;> first | rfl | exact absurd hf (by decide)

theorem Frame.set_atoms (s : State) (v) : Frame [.atoms] s { s with atoms := v } := by
  constructor; intro f hf; cases f <;> first | rfl | exact absurd hf (by decide)

theorem Frame.set_qos (s : State) (v) : Frame [.qos] s { s with qos := v } := by
  constructor; intro f hf; cases f <;> first | rfl | exact absurd hf (by decide)

theorem Frame.set_dir (s : State) (v) : Frame [.dir] s { s with dir := v } := by
  constructor; intro f hf; cases f <;> first | rfl | exact absurd hf (by decide)

theorem Frame.set_dirs (s : State) (v) : Frame [.dirs] s { s with dirs := v } := by
  constructor; intro f hf; cases f <;> first | rfl | exact absurd hf (by decide)

theorem Frame.set_groups (s : State) (v) : Frame [.groups] s { s with groups := v } := by
  constructor; intro f hf; cases f <;> first | rfl | exact absurd hf (by decide)

theorem Frame.set_tables (s : State) (v) : Frame [.tables] s { s with tables := v } := by
  constructor; intro f hf; cases f <;> first | rfl | exact absurd hf (by decide)

theorem Frame.set_refRecs (s : State) (v) : Frame [.refRecs] s { s with refRecs := v } := by
  constructor; intro f hf; cases f <;> first | rfl | exact absurd hf (by decide)

theorem Frame.set_mems (s : State) (v) : Frame [.mems] s { s with mems := v } := by
  constructor; intro f hf; cases f <;> first | rfl | exact absurd hf (by decide)

theorem Frame.set_engines (s : State) (v) : Frame [.engines] s { s with engines := v } := by
  constructor; intro f hf; cases f <;> first | rfl | exact absurd hf (by decide)

theorem Frame.set_chds (s : State) (v) : Frame [.chds] s { s with chds := v } := by
  constructor; intro f hf; cases f <;> first | rfl | exact absurd hf (by decide)

theorem Frame.set_disp (s : State) (v) : Frame [.disp] s { s with disp := v } := by
  constructor; intro f hf; cases f <;> first | rfl | exact absurd hf (by decide)

theorem Frame.set_xfers (s : State) (v) : Frame [.xfers] s { s with xfers := v } := by
  constructor; intro f hf; cases f <;> first | rfl | exact absurd hf (by decide)

theorem Frame.set_hbmStk (s : State) (v) : Frame [.hbmStk] s { s with hbmStk := v } := by
  constructor; intro f hf; cases f <;> first | rfl | exact absurd hf (by decide)

theorem Frame.set_repairs (s : State) (v) : Frame [.repairs] s { s with repairs := v } := by
  constructor; intro f hf; cases f <;> first | rfl | exact absurd hf (by decide)

theorem Frame.set_repairRows (s : State) (v) : Frame [.repairRows] s { s with repairRows := v } := by
  constructor; intro f hf; cases f <;> first | rfl | exact absurd hf (by decide)

theorem Frame.set_flss (s : State) (v) : Frame [.flss] s { s with flss := v } := by
  constructor; intro f hf; cases f <;> first | rfl | exact absurd hf (by decide)

theorem Frame.set_fmap (s : State) (v) : Frame [.fmap] s { s with fmap := v } := by
  constructor; intro f hf; cases f <;> first | rfl | exact absurd hf (by decide)

theorem Frame.set_images (s : State) (v) : Frame [.images] s { s with images := v } := by
  constructor; intro f hf; cases f <;> first | rfl | exact absurd hf (by decide)

theorem Frame.set_saved (s : State) (v) : Frame [.saved] s { s with saved := v } := by
  constructor; intro f hf; cases f <;> first | rfl | exact absurd hf (by decide)

theorem Frame.set_journals (s : State) (v) : Frame [.journals] s { s with journals := v } := by
  constructor; intro f hf; cases f <;> first | rfl | exact absurd hf (by decide)

theorem Frame.set_elog (s : State) (v) : Frame [.elog] s { s with elog := v } := by
  constructor; intro f hf; cases f <;> first | rfl | exact absurd hf (by decide)

theorem Frame.set_keys (s : State) (v) : Frame [.keys] s { s with keys := v } := by
  constructor; intro f hf; cases f <;> first | rfl | exact absurd hf (by decide)

theorem Frame.set_cnt (s : State) (v) : Frame [.cnt] s { s with cnt := v } := by
  constructor; intro f hf; cases f <;> first | rfl | exact absurd hf (by decide)

end Sys2Proof.Machine
end

