-- ==== Sys2Proof/Laws/FrameCore.lean ====
section
/-!
SUPPORT. What each operation can change: the operations over tables and records, interrupts, logs, counters and the command unit. One lemma per operation, proved from those of the operations it
calls.
-/

namespace Sys2Proof.Machine

set_option maxRecDepth 2000
set_option Elab.async false

open Sys2Proof

theorem Frame.set_flash_fmap_images (s : State) (v0) (v1) (v2) : Frame [.flash, .fmap, .images] s { s with flash := v0, fmap := v1, images := v2 } := by
  constructor; intro f hf; cases f <;> first | rfl | exact absurd hf (by decide)

theorem Frame.set_regions_staged_flash_groups (s : State) (v0) (v1) (v2) (v3) : Frame [.regions, .staged, .flash, .groups] s { s with regions := v0, staged := v1, flash := v2, groups := v3 } := by
  constructor; intro f hf; cases f <;> first | rfl | exact absurd hf (by decide)

theorem Frame.set_saved_journals (s : State) (v0) (v1) : Frame [.saved, .journals] s { s with saved := v0, journals := v1 } := by
  constructor; intro f hf; cases f <;> first | rfl | exact absurd hf (by decide)

theorem Frame.set_staged_flash_fmap_images (s : State) (v0) (v1) (v2) (v3) : Frame [.staged, .flash, .fmap, .images] s { s with staged := v0, flash := v1, fmap := v2, images := v3 } := by
  constructor; intro f hf; cases f <;> first | rfl | exact absurd hf (by decide)

theorem Frame.set_staged_wbuf_atoms_groups_hbmStk (s : State) (v0) (v1) (v2) (v3) (v4) : Frame [.staged, .wbuf, .atoms, .groups, .hbmStk] s { s with staged := v0, wbuf := v1, atoms := v2, groups := v3, hbmStk := v4 } := by
  constructor; intro f hf; cases f <;> first | rfl | exact absurd hf (by decide)

theorem Frame.set_wbuf_atoms (s : State) (v0) (v1) : Frame [.wbuf, .atoms] s { s with wbuf := v0, atoms := v1 } := by
  constructor; intro f hf; cases f <;> first | rfl | exact absurd hf (by decide)

theorem Frame.set_wbuf_atoms_hbmStk (s : State) (v0) (v1) (v2) : Frame [.wbuf, .atoms, .hbmStk] s { s with wbuf := v0, atoms := v1, hbmStk := v2 } := by
  constructor; intro f hf; cases f <;> first | rfl | exact absurd hf (by decide)

theorem State.takeFree_frame (s : State) :
    Frame [.fresh] s (State.takeFree s).2 := by
  unfold State.takeFree
  repeat' (first
      | extract_lets | with_reducible apply Frame.refl | exact rfl | with_reducible apply Frame.step (Frame.set_fresh ..))

theorem State.pick_frame (s : State) (bound : Nat) (fuel : Nat) (ok : Nat → Bool) :
    Frame [.fresh] s (State.pick s bound fuel ok).2 := by
  unfold State.pick
  repeat' (first
      | extract_lets | with_reducible apply Frame.refl | exact rfl
      | with_reducible apply Frame.step (State.takeFree_frame ..))

theorem State.modDir_frame (s : State) (d : Nat) (f : Dir → Dir) :
    Frame [.dirs] s (State.modDir s d f) := by
  unfold State.modDir
  repeat' (first
      | extract_lets | with_reducible apply Frame.refl | exact rfl | with_reducible apply Frame.step (Frame.set_dirs ..))

theorem State.modTable_frame (s : State) (id : Nat) (f : TableSlot → TableSlot) :
    Frame [.tables] s (State.modTable s id f) := by
  unfold State.modTable
  repeat' (first
      | extract_lets | with_reducible apply Frame.refl | exact rfl | with_reducible apply Frame.step (Frame.set_tables ..))

theorem State.modHbm_frame (s : State) (f : Store → Store) :
    Frame [.hbm] s (State.modHbm s f) := by
  unfold State.modHbm
  repeat' (first
      | extract_lets | with_reducible apply Frame.refl | exact rfl | with_reducible apply Frame.step (Frame.set_hbm ..))

theorem State.modEnt_frame (s : State) (page : Nat) (f : DirEnt → DirEnt) :
    Frame [.dir] s (State.modEnt s page f) := by
  unfold State.modEnt
  repeat' (first
      | extract_lets | with_reducible apply Frame.refl | exact rfl | with_reducible apply Frame.step (Frame.set_dir ..))

theorem State.modCnt_frame (s : State) (f : Cnt → Cnt) :
    Frame [.cnt] s (State.modCnt s f) := by
  unfold State.modCnt
  repeat' (first
      | extract_lets | with_reducible apply Frame.refl | exact rfl | with_reducible apply Frame.step (Frame.set_cnt ..))

theorem State.emit_frame (s : State) (o : Out) :
    Frame [.out] s (State.emit s o) := by
  unfold State.emit
  repeat' (first
      | extract_lets | with_reducible apply Frame.refl | exact rfl | with_reducible apply Frame.step (Frame.set_out ..))

theorem State.modFn_frame (s : State) (n : Nat) (f : Fn → Fn) :
    Frame [.fns] s (State.modFn s n f) := by
  unfold State.modFn
  repeat' (first
      | extract_lets | with_reducible apply Frame.refl | exact rfl | with_reducible apply Frame.step (Frame.set_fns ..))

theorem State.raise_frame (s : State) (fn : Nat) (vec : Nat) :
    Frame [.out, .fns] s (State.raise s fn vec) := by
  unfold State.raise
  repeat' (first
      | extract_lets | with_reducible apply Frame.refl | exact rfl | with_reducible apply Frame.step (State.emit_frame ..)
      | with_reducible apply Frame.step (State.modFn_frame ..) | with_reducible apply Frame.ite)

theorem State.overflow_frame (s : State) (inst : Nat) (k : Nat) :
    Frame [.out, .fns, .cnt] s (State.overflow s inst k) := by
  unfold State.overflow
  repeat' (first
      | extract_lets | with_reducible apply Frame.refl | exact rfl | with_reducible apply Frame.step (State.modCnt_frame ..)
      | with_reducible apply Frame.step (State.raise_frame ..) | with_reducible apply Frame.ite)

theorem State.count_frame (s : State) (blk : Nat) (inst : Nat) (code : Nat) (a : Attrs) (n : Nat) :
    Frame [.out, .fns, .cnt] s (State.count s blk inst code a n) := by
  unfold State.count
  repeat' (first
      | extract_lets | with_reducible apply Frame.refl | exact rfl | with_reducible apply Frame.step (State.modCnt_frame ..)
      | with_reducible apply Frame.step (State.overflow_frame ..) | with_reducible apply Frame.eachTrans
      | with_reducible apply Frame.ite | intro _)

theorem State.fixed_frame (s : State) (blk : Nat) (inst : Nat) (f : Nat) (n : Nat) :
    Frame [.cnt] s (State.fixed s blk inst f n) := by
  unfold State.fixed
  repeat' (first
      | extract_lets | with_reducible apply Frame.refl | exact rfl | with_reducible apply Frame.step (State.modCnt_frame ..))

theorem State.crossHub_frame (s : State) (hub : Nat) (lines : Nat) (tangent : Bool) (a : Attrs) :
    Frame [.out, .fns, .cnt] s (State.crossHub s hub lines tangent a) := by
  unfold State.crossHub
  repeat' (first
      | extract_lets | with_reducible apply Frame.refl | exact rfl | with_reducible apply Frame.step (State.count_frame ..)
      | with_reducible apply Frame.step (State.fixed_frame ..) | with_reducible apply Frame.ite)

theorem State.modElog_frame (s : State) (f : Elog → Elog) :
    Frame [.elog] s (State.modElog s f) := by
  unfold State.modElog
  repeat' (first
      | extract_lets | with_reducible apply Frame.refl | exact rfl | with_reducible apply Frame.step (Frame.set_elog ..))

theorem State.fnRecord_frame (s : State) (e : LogEvent) (ts : Nat) (fn : Nat) :
    Frame [.out, .fns] s (State.fnRecord s e ts fn) := by
  unfold State.fnRecord
  repeat' (first
      | extract_lets | with_reducible apply Frame.refl | exact rfl | with_reducible apply Frame.step (State.modFn_frame ..)
      | with_reducible apply Frame.step (State.raise_frame ..) | with_reducible apply Frame.ite)

theorem State.log_frame (s : State) (e : LogEvent) :
    Frame [.fresh, .out, .fns, .elog] s (State.log s e) := by
  unfold State.log
  repeat' (first
      | extract_lets | with_reducible apply Frame.refl | exact rfl
      | with_reducible apply Frame.step (State.takeFree_frame ..) | with_reducible apply Frame.step (State.modElog_frame ..)
      | with_reducible apply Frame.step (State.fnRecord_frame ..) | with_reducible apply Frame.ite)

theorem State.modPort_frame (s : State) (p : Nat) (f : Port → Port) :
    Frame [.ports] s (State.modPort s p f) := by
  unfold State.modPort
  repeat' (first
      | extract_lets | with_reducible apply Frame.refl | exact rfl | with_reducible apply Frame.step (Frame.set_ports ..))

theorem State.sendMsg_frame (s : State) (port : Nat) (m : TxMsg) :
    Frame [.ports] s (State.sendMsg s port m) := by
  unfold State.sendMsg
  repeat' (first
      | extract_lets | with_reducible apply Frame.refl | exact rfl | with_reducible apply Frame.step (State.modPort_frame ..)
      | with_reducible apply Frame.ite)

theorem State.freeTag_frame (s : State) (port : Nat) (tag : Nat) :
    Frame [.ports] s (State.freeTag s port tag) := by
  unfold State.freeTag
  repeat' (first
      | extract_lets | with_reducible apply Frame.refl | exact rfl
      | with_reducible apply Frame.step (State.modPort_frame ..))

theorem State.sendLast_frame (s : State) (port : Nat) (tag : Nat) (m : TxMsg) :
    Frame [.ports] s (State.sendLast s port tag m) := by
  unfold State.sendLast
  repeat' (first
      | extract_lets | with_reducible apply Frame.refl | exact rfl | with_reducible apply Frame.step (State.sendMsg_frame ..)
      | with_reducible apply Frame.step (State.freeTag_frame ..) | with_reducible apply Frame.ite)

theorem State.modMem_frame (s : State) (k : Nat) (f : MemDie → MemDie) :
    Frame [.mems] s (State.modMem s k f) := by
  unfold State.modMem
  repeat' (first
      | extract_lets | with_reducible apply Frame.refl | exact rfl | with_reducible apply Frame.step (Frame.set_mems ..))

theorem State.modStack_frame (s : State) (k : Nat) (f : Stack → Stack) :
    Frame [.hbmStk] s (State.modStack s k f) := by
  unfold State.modStack
  repeat' (first
      | extract_lets | with_reducible apply Frame.refl | exact rfl | with_reducible apply Frame.step (Frame.set_hbmStk ..))

theorem State.modPc_frame (s : State) (k : Nat) (p : Nat) (f : Pc → Pc) :
    Frame [.hbmStk] s (State.modPc s k p f) := by
  unfold State.modPc
  repeat' (first
      | extract_lets | with_reducible apply Frame.refl | exact rfl
      | with_reducible apply Frame.step (State.modStack_frame ..))

theorem State.modChd_frame (s : State) (d : Nat) (f : ChdDie → ChdDie) :
    Frame [.chds] s (State.modChd s d f) := by
  unfold State.modChd
  repeat' (first
      | extract_lets | with_reducible apply Frame.refl | exact rfl | with_reducible apply Frame.step (Frame.set_chds ..))

theorem State.form_frame (s : State) (opcode : Nat) (p : Packet) (context : BitVec 16) (status : Nat) (result : Nat) (detail : Nat) (irq : Bool) (cmd : Option Nat) :
    Frame [.fresh] s (State.form s opcode p context status result detail irq cmd).2 := by
  unfold State.form
  repeat' (first
      | extract_lets | with_reducible apply Frame.refl | exact rfl
      | with_reducible apply Frame.step (State.takeFree_frame ..))

theorem State.deliverLen_frame (s : State) (via : Via) (len : Nat) (r : Reply) :
    Frame [.out, .fns, .cmds, .ports, .cnt] s (State.deliverLen s via len r) := by
  unfold State.deliverLen
  repeat' (first
      | extract_lets | with_reducible apply Frame.refl | exact rfl
      | with_reducible apply Frame.step (State.crossHub_frame ..) | with_reducible apply Frame.step (State.modFn_frame ..)
      | with_reducible apply Frame.step (State.sendLast_frame ..) | with_reducible apply Frame.ite | split
      | with_reducible apply Frame.step (Frame.set_cmds ..))

theorem State.deliver_frame (s : State) (via : Via) (r : Reply) :
    Frame [.out, .fns, .cmds, .ports, .cnt] s (State.deliver s via r) := by
  unfold State.deliver
  repeat' (first
      | extract_lets | with_reducible apply Frame.refl | exact rfl
      | with_reducible apply Frame.step (State.deliverLen_frame ..))

theorem State.modCmd_frame (s : State) (id : Nat) (f : Cmd → Cmd) :
    Frame [.cmds] s (State.modCmd s id f) := by
  unfold State.modCmd
  repeat' (first
      | extract_lets | with_reducible apply Frame.refl | exact rfl | with_reducible apply Frame.step (Frame.set_cmds ..))

theorem State.replyAs_frame (s : State) (c : Cmd) (context : BitVec 16) (status : Nat) (result : Nat) (detail : Nat) :
    Frame [.fresh, .out, .fns, .cmds, .ports, .cnt] s (State.replyAs s c context status result detail) := by
  unfold State.replyAs
  repeat' (first
      | extract_lets | with_reducible apply Frame.refl | exact rfl | with_reducible apply Frame.step (State.form_frame ..)
      | with_reducible apply Frame.step (State.deliver_frame ..) | with_reducible apply Frame.step (State.modCmd_frame ..)
      | with_reducible apply Frame.ite | with_reducible apply Frame.step (Frame.set_cmds ..))

theorem State.reply_frame (s : State) (c : Cmd) (status : Nat) (result : Nat) (detail : Nat) :
    Frame [.fresh, .out, .fns, .cmds, .ports, .cnt] s (State.reply s c status result detail) := by
  unfold State.reply
  repeat' (first
      | extract_lets | with_reducible apply Frame.refl | exact rfl
      | with_reducible apply Frame.step (State.replyAs_frame ..))

theorem State.modDisp_frame (s : State) (f : Dispatch → Dispatch) :
    Frame [.disp] s (State.modDisp s f) := by
  unfold State.modDisp
  repeat' (first
      | extract_lets | with_reducible apply Frame.refl | exact rfl | with_reducible apply Frame.step (Frame.set_disp ..))

theorem State.replyTo_frame (s : State) (id : Nat) (status : Nat) (result : Nat) (detail : Nat) :
    Frame [.fresh, .out, .fns, .cmds, .ports, .cnt] s (State.replyTo s id status result detail) := by
  unfold State.replyTo
  repeat' (first
      | extract_lets | with_reducible apply Frame.refl | exact rfl | with_reducible apply Frame.step (State.reply_frame ..)
      | with_reducible apply Frame.ite | split)

theorem State.pickOf_frame{α : Type} (s : State) (l : List α) :
    Frame [.fresh] s (State.pickOf s l).2 := by
  unfold State.pickOf
  repeat' (first
      | extract_lets | with_reducible apply Frame.refl | exact rfl
      | with_reducible apply Frame.step (State.takeFree_frame ..))

theorem State.modGroup_frame (s : State) (region : Nat) (g : Nat) (f : Group → Group) :
    Frame [.groups] s (State.modGroup s region g f) := by
  unfold State.modGroup
  repeat' (first
      | extract_lets | with_reducible apply Frame.refl | exact rfl | with_reducible apply Frame.step (Frame.set_groups ..))

theorem State.takeId_frame (s : State) :
    Frame [.nextId] s (State.takeId s).2 := by
  unfold State.takeId
  repeat' (first
      | extract_lets | with_reducible apply Frame.refl | exact rfl | with_reducible apply Frame.step (Frame.set_nextId ..))

theorem State.modFls_frame (s : State) (d : Nat) (f : Fls → Fls) :
    Frame [.flss] s (State.modFls s d f) := by
  unfold State.modFls
  repeat' (first
      | extract_lets | with_reducible apply Frame.refl | exact rfl | with_reducible apply Frame.step (Frame.set_flss ..))

theorem State.setRegion_frame (s : State) (i : Nat) (r : Region) :
    Frame [.regions] s (State.setRegion s i r) := by
  unfold State.setRegion
  repeat' (first
      | extract_lets | with_reducible apply Frame.refl | exact rfl | with_reducible apply Frame.step (Frame.set_regions ..))

theorem State.modXfer_frame (s : State) (id : Nat) (f : Xfer → Xfer) :
    Frame [.xfers] s (State.modXfer s id f) := by
  unfold State.modXfer
  repeat' (first
      | extract_lets | with_reducible apply Frame.refl | exact rfl | with_reducible apply Frame.step (Frame.set_xfers ..))

theorem State.modRun_frame (s : State) (id : Nat) (f : Run → Run) :
    Frame [.disp] s (State.modRun s id f) := by
  unfold State.modRun
  repeat' (first
      | extract_lets | with_reducible apply Frame.refl | exact rfl
      | with_reducible apply Frame.step (State.modDisp_frame ..))

theorem State.modFw_frame (s : State) (f : Fw → Fw) :
    Frame [.fw] s (State.modFw s f) := by
  unfold State.modFw
  repeat' (first
      | extract_lets | with_reducible apply Frame.refl | exact rfl | with_reducible apply Frame.step (Frame.set_fw ..))

theorem State.owe_frame (s : State) (port : Nat) (vc : Nat) (slots : Nat) :
    Frame [.ports] s (State.owe s port vc slots) := by
  unfold State.owe
  repeat' (first
      | extract_lets | with_reducible apply Frame.refl | exact rfl | with_reducible apply Frame.step (State.modPort_frame ..)
      | with_reducible apply Frame.ite)

theorem State.refuse_frame (s : State) (via : Via) (opcode : Nat) (p : Packet) (irq : Bool) (status : Nat) (result : Nat) (detail : Nat) (len : Nat) :
    Frame [.fresh, .out, .fns, .cmds, .ports, .cnt] s (State.refuse s via opcode p irq status result detail len) := by
  unfold State.refuse
  repeat' (first
      | extract_lets | with_reducible apply Frame.refl | exact rfl | with_reducible apply Frame.step (State.modFn_frame ..)
      | with_reducible apply Frame.step (State.form_frame ..) | with_reducible apply Frame.step (State.deliverLen_frame ..)
      | with_reducible apply Frame.ite | split)

theorem State.countRefusal_frame (s : State) (via : Via) :
    Frame [.out, .fns, .cnt] s (State.countRefusal s via) := by
  unfold State.countRefusal
  repeat' (first
      | extract_lets | with_reducible apply Frame.refl | exact rfl | with_reducible apply Frame.step (State.count_frame ..)
      | split)

theorem State.tryStart_frame {l : List Piece} (s : State) (spec : CmdSpec) (c : Cmd) (hl : ([.fresh, .out, .fns, .cmds, .ports, .cnt].all fun f => l.contains f) = true) (hf : ∀ s c, Frame l s (spec.start s c)) :
    Frame l s (State.tryStart s spec c) := by
  unfold State.tryStart
  repeat' (first
      | extract_lets | with_reducible apply Frame.refl | exact rfl
      | with_reducible apply Frame.stepIn hl (State.reply_frame ..)
      | with_reducible apply Frame.stepIn hl (State.modCmd_frame ..) | with_reducible apply Frame.after (hf ..)
      | with_reducible apply Frame.ite)

theorem State.bad_frame (s : State) (c : Cmd) (off : Nat) :
    Frame [.fresh, .out, .fns, .cmds, .ports, .cnt] s (State.bad s c off) := by
  unfold State.bad
  repeat' (first
      | extract_lets | with_reducible apply Frame.refl | exact rfl | with_reducible apply Frame.step (State.reply_frame ..))

theorem State.arrive_frame {s : State} {via : Via} {t : State} (h : State.arrive s via = some t) :
    Frame [.out, .fns, .ports, .cnt] s t := by
  unfold State.arrive at h
  try dsimp only at h
  repeat' split at h
  all_goals (first | (exact absurd h (by decide)) | (simp at h; done) | (injection h with h; injection h with _ h; subst h) | (injection h with h; subst h) | (rw [Option.map_eq_some_iff] at h; obtain ⟨_, h, rfl⟩ := h) | skip)
  all_goals repeat' (first
    | extract_lets
    | with_reducible apply Frame.refl
    | exact rfl
    | with_reducible apply Frame.step (State.owe_frame ..)
    | with_reducible apply Frame.step (State.fixed_frame ..)
    | with_reducible apply Frame.step (State.count_frame ..)
    | with_reducible apply Frame.step (State.modPort_frame ..))

theorem State.tagReuse_frame (s : State) (port : Nat) :
    Frame [.out, .fns, .ports, .cnt] s (State.tagReuse s port) := by
  unfold State.tagReuse
  repeat' (first
      | extract_lets | with_reducible apply Frame.refl | exact rfl | with_reducible apply Frame.step (State.count_frame ..)
      | with_reducible apply Frame.step (State.modPort_frame ..) | with_reducible apply Frame.step (State.fixed_frame ..))

theorem State.restartHint_frame (s : State) :
    Frame [.fresh] s (State.restartHint s).2 := by
  unfold State.restartHint
  repeat' (first
      | extract_lets | with_reducible apply Frame.refl | exact rfl
      | with_reducible apply Frame.step (State.takeFree_frame ..) | with_reducible apply Frame.iteSnd)

theorem State.admission_frame (s : State) (spec : CmdSpec) (via : Via) (p : Packet) :
    Frame [.out, .nextId, .fns, .cmds, .cnt] s (State.admission s spec via p).2 := by
  unfold State.admission
  repeat' (first
      | extract_lets | with_reducible apply Frame.refl | exact rfl | with_reducible apply Frame.step (State.takeId_frame ..)
      | with_reducible apply Frame.step (State.count_frame ..) | with_reducible apply Frame.step (Frame.set_cmds ..))

theorem State.refuseUnbound_frame (s : State) (opcode : Nat) (via : Via) (p : Packet) :
    Frame [.fresh, .out, .fns, .cmds, .ports, .cnt] s (State.refuseUnbound s opcode via p) := by
  unfold State.refuseUnbound
  repeat' (first
      | extract_lets | with_reducible apply Frame.refl | exact rfl | with_reducible apply Frame.step (State.refuse_frame ..)
      | with_reducible apply Frame.step (State.countRefusal_frame ..))

theorem State.cmdHop_frame (s : State) (p : Packet) :
    Frame [.out, .fns, .cnt] s (State.cmdHop s p) := by
  unfold State.cmdHop
  repeat' (first
      | extract_lets | with_reducible apply Frame.refl | exact rfl
      | with_reducible apply Frame.step (State.crossHub_frame ..))

theorem State.accept_frame {l : List Piece} (s : State) (spec : CmdSpec) (via : Via) (p : Packet) (hl : ([.fresh, .out, .nextId, .fns, .cmds, .ports, .cnt].all fun f => l.contains f) = true) (hf : ∀ s c, Frame l s (spec.start s c)) :
    Frame l s (State.accept s spec via p) := by
  unfold State.accept
  repeat' (first
      | extract_lets | with_reducible apply Frame.refl | exact rfl | with_reducible assumption
      | with_reducible apply Frame.stepIn hl (State.refuseUnbound_frame ..)
      | with_reducible apply Frame.stepIn hl (State.refuse_frame ..)
      | with_reducible apply Frame.stepIn hl (State.restartHint_frame ..)
      | with_reducible apply Frame.stepIn hl (State.count_frame ..)
      | with_reducible apply Frame.stepIn hl (State.admission_frame ..)
      | with_reducible apply Frame.stepIn hl (State.reply_frame ..)
      | with_reducible apply Frame.after (State.tryStart_frame ..) | (apply Frame.subTrans hl; exact rfl)
      | with_reducible apply Frame.ite | split)

theorem State.submit_frame {l : List Piece} (s : State) (spec : CmdSpec) (via : Via) (p : Packet) (hl : ([.fresh, .out, .nextId, .fns, .cmds, .ports, .cnt].all fun f => l.contains f) = true) (hf : ∀ s c, Frame l s (spec.start s c)) :
    Frame l s (State.submit s spec via p) := by
  unfold State.submit
  repeat' (first
      | extract_lets | with_reducible apply Frame.refl | exact rfl | with_reducible assumption
      | (with_reducible apply Frame.step; (with_reducible apply State.arrive_frame; with_reducible assumption))
      | with_reducible apply Frame.stepIn hl (State.cmdHop_frame ..)
      | with_reducible apply Frame.stepIn hl (State.owe_frame ..)
      | with_reducible apply Frame.stepIn hl (State.tagReuse_frame ..)
      | with_reducible apply Frame.after (State.accept_frame ..) | (apply Frame.subTrans hl; exact rfl)
      | with_reducible apply Frame.ite | split)

theorem State.submitUndefined_frame (s : State) (opcode : Nat) (via : Via) (p : Packet) :
    Frame [.fresh, .out, .fns, .cmds, .ports, .cnt] s (State.submitUndefined s opcode via p) := by
  unfold State.submitUndefined
  repeat' (first
      | extract_lets | with_reducible apply Frame.refl | exact rfl
      | (with_reducible apply Frame.step; (with_reducible apply State.arrive_frame; with_reducible assumption))
      | with_reducible apply Frame.step (State.cmdHop_frame ..)
      | with_reducible apply Frame.step (State.refuseUnbound_frame ..)
      | with_reducible apply Frame.step (State.refuse_frame ..) | with_reducible apply Frame.step (State.owe_frame ..)
      | with_reducible apply Frame.step (State.tagReuse_frame ..) | with_reducible apply Frame.ite | split)

theorem State.ringWrite_frame (s : State) (fn : Nat) :
    Frame [.out, .fns, .cmds, .cnt] s (State.ringWrite s fn) := by
  unfold State.ringWrite
  repeat' (first
      | extract_lets | with_reducible apply Frame.refl | exact rfl | with_reducible apply Frame.step (State.emit_frame ..)
      | with_reducible apply Frame.step (State.fixed_frame ..) | with_reducible apply Frame.step (State.count_frame ..)
      | with_reducible apply Frame.step (State.modFn_frame ..) | with_reducible apply Frame.step (State.raise_frame ..)
      | with_reducible apply Frame.ite | split | with_reducible apply Frame.step (Frame.set_cmds ..))

theorem State.dropCmds_frame (s : State) (p : Cmd → Bool) :
    Frame [.cmds] s (State.dropCmds s p) := by
  unfold State.dropCmds
  repeat' (first
      | extract_lets | with_reducible apply Frame.refl | exact rfl | with_reducible apply Frame.step (Frame.set_cmds ..))

theorem State.loadKey_frame (s : State) (slot : Nat) (key : Nat) :
    Frame [.keys] s (State.loadKey s slot key) := by
  unfold State.loadKey
  repeat' (first
      | extract_lets | with_reducible apply Frame.refl | exact rfl | with_reducible apply Frame.step (Frame.set_keys ..))

theorem State.modCtx_frame (s : State) (c : Nat) (f : Ctx → Ctx) :
    Frame [.ctxs] s (State.modCtx s c f) := by
  unfold State.modCtx
  repeat' (first
      | extract_lets | with_reducible apply Frame.refl | exact rfl | with_reducible apply Frame.step (Frame.set_ctxs ..))

theorem State.modRegion_frame (s : State) (i : Nat) (f : Region → Region) :
    Frame [.regions] s (State.modRegion s i f) := by
  unfold State.modRegion
  repeat' (first
      | extract_lets | with_reducible apply Frame.refl | exact rfl
      | with_reducible apply Frame.step (State.setRegion_frame ..) | split)

theorem State.takeKey_frame (s : State) :
    Frame [.nextKey] s (State.takeKey s).2 := by
  unfold State.takeKey
  repeat' (first
      | extract_lets | with_reducible apply Frame.refl | exact rfl | with_reducible apply Frame.step (Frame.set_nextKey ..))

theorem State.modHep_frame (s : State) (f : Hep → Hep) :
    Frame [.hep] s (State.modHep s f) := by
  unfold State.modHep
  repeat' (first
      | extract_lets | with_reducible apply Frame.refl | exact rfl | with_reducible apply Frame.step (Frame.set_hep ..))

theorem State.modEngine_frame (s : State) (e : Nat) (f : Engine → Engine) :
    Frame [.engines] s (State.modEngine s e f) := by
  unfold State.modEngine
  repeat' (first
      | extract_lets | with_reducible apply Frame.refl | exact rfl | with_reducible apply Frame.step (Frame.set_engines ..))

theorem State.modReg_frame (s : State) (r : Nat) (f : Regulator → Regulator) :
    Frame [.qos] s (State.modReg s r f) := by
  unfold State.modReg
  repeat' (first
      | extract_lets | with_reducible apply Frame.refl | exact rfl | with_reducible apply Frame.step (Frame.set_qos ..))

theorem State.modQos_frame (s : State) (f : Qos → Qos) :
    Frame [.qos] s (State.modQos s f) := by
  unfold State.modQos
  repeat' (first
      | extract_lets | with_reducible apply Frame.refl | exact rfl | with_reducible apply Frame.step (Frame.set_qos ..))

theorem State.sendPending_frame (s : State) (fn : Nat) :
    Frame [.out, .fns] s (State.sendPending s fn) := by
  unfold State.sendPending
  repeat' (first
      | extract_lets | with_reducible apply Frame.refl | exact rfl | with_reducible apply Frame.step (State.modFn_frame ..)
      | with_reducible apply Frame.step (State.emit_frame ..) | with_reducible apply Frame.eachTrans
      | with_reducible apply Frame.ite | intro _)

theorem State.modPmc_frame (s : State) (f : Pmc → Pmc) :
    Frame [.pmc] s (State.modPmc s f) := by
  unfold State.modPmc
  repeat' (first
      | extract_lets | with_reducible apply Frame.refl | exact rfl | with_reducible apply Frame.step (Frame.set_pmc ..))

theorem State.pmcErr_frame (s : State) (k : Nat) :
    Frame [.out, .pmc, .fns] s (State.pmcErr s k) := by
  unfold State.pmcErr
  repeat' (first
      | extract_lets | with_reducible apply Frame.refl | exact rfl | with_reducible apply Frame.step (State.modPmc_frame ..)
      | with_reducible apply Frame.step (State.raise_frame ..) | with_reducible apply Frame.ite)

theorem State.errMessage_frame (s : State) (o : Out) :
    Frame [.out] s (State.errMessage s o) := by
  unfold State.errMessage
  repeat' (first
      | extract_lets | with_reducible apply Frame.refl | exact rfl | with_reducible apply Frame.step (State.emit_frame ..)
      | with_reducible apply Frame.ite)

theorem State.aerCor_frame (s : State) (fn : Nat) (k : Nat) :
    Frame [.out, .fns] s (State.aerCor s fn k) := by
  unfold State.aerCor
  repeat' (first
      | extract_lets | with_reducible apply Frame.refl | exact rfl | with_reducible apply Frame.step (State.modFn_frame ..)
      | with_reducible apply Frame.step (State.errMessage_frame ..) | with_reducible apply Frame.ite)

theorem State.aerUnc_frame (s : State) (fn : Nat) (k : Nat) (advisory : Bool) :
    Frame [.out, .fns] s (State.aerUnc s fn k advisory) := by
  unfold State.aerUnc
  repeat' (first
      | extract_lets | with_reducible apply Frame.refl | exact rfl | with_reducible apply Frame.step (State.modFn_frame ..)
      | with_reducible apply Frame.step (State.aerCor_frame ..) | with_reducible apply Frame.step (State.errMessage_frame ..)
      | with_reducible apply Frame.ite)

theorem State.barWrite_frame {l : List Piece} (s : State) (fn : Nat) (f : State → State) (hl : ([.out, .fns].all fun f => l.contains f) = true) (hf : ∀ s, Frame l s (f s)) :
    Frame l s (State.barWrite s fn f) := by
  unfold State.barWrite
  repeat' (first
      | extract_lets | with_reducible apply Frame.refl | exact rfl
      | with_reducible apply Frame.stepIn hl (State.aerUnc_frame ..) | with_reducible apply Frame.after (hf ..)
      | with_reducible apply Frame.ite)

theorem State.cfgAccess_frame {l : List Piece} (s : State) (fn : Nat) (f : State → State) (hl : ([.out].all fun f => l.contains f) = true) (hf : ∀ s, Frame l s (f s)) :
    Frame l s (State.cfgAccess s fn f) := by
  unfold State.cfgAccess
  repeat' (first
      | extract_lets | with_reducible apply Frame.refl | exact rfl
      | with_reducible apply Frame.stepIn hl (State.emit_frame ..) | with_reducible apply Frame.after (hf ..)
      | with_reducible apply Frame.ite)

theorem State.rederate_frame (s : State) :
    Frame [.out, .fns, .qos] s (State.rederate s) := by
  unfold State.rederate
  repeat' (first
      | extract_lets | with_reducible apply Frame.refl | exact rfl | with_reducible apply Frame.step (State.modQos_frame ..)
      | with_reducible apply Frame.step (State.modReg_frame ..) | with_reducible apply Frame.step (State.modFn_frame ..)
      | with_reducible apply Frame.step (State.raise_frame ..) | with_reducible apply Frame.eachTrans
      | with_reducible apply Frame.ite | intro _)

theorem State.modProc_frame (s : State) (i : Nat) (f : Proc → Proc) :
    Frame [.fw] s (State.modProc s i f) := by
  unfold State.modProc
  repeat' (first
      | extract_lets | with_reducible apply Frame.refl | exact rfl | with_reducible apply Frame.step (Frame.set_fw ..))

end Sys2Proof.Machine
end

