-- ==== Sys2Proof/Laws/FrameMemory.lean ====
section
/-!
SUPPORT. What each operation can change: codec, tier, stored data, the path of a request and the movers. One lemma per operation, proved from those of the operations it
calls.
-/

namespace Sys2Proof.Machine

set_option maxRecDepth 2000
set_option Elab.async false

open Sys2Proof

theorem State.freePlace_frame (s : State) (k : Nat) :
    Frame [.fresh] s (State.freePlace s k).2 := by
  unfold State.freePlace
  repeat' (first
      | extract_lets | with_reducible apply Frame.refl | exact rfl | with_reducible apply Frame.step (State.pick_frame ..))

theorem State.grabFrame_frame (s : State) (d : Nat) (ok : Nat → Bool) :
    Frame [.fresh, .dirs] s (State.grabFrame s d ok).2 := by
  unfold State.grabFrame
  repeat' (first
      | extract_lets | with_reducible apply Frame.refl | exact rfl | with_reducible apply Frame.step (State.pick_frame ..)
      | with_reducible apply Frame.step (State.freePlace_frame ..) | with_reducible apply Frame.step (State.modDir_frame ..)
      | (with_reducible apply Frame.ofPair; with_reducible assumption) | split)

theorem State.joinSet_frame (s : State) (d : Nat) (page : Nat) (f : Nat) :
    Frame [.dirs] s (State.joinSet s d page f) := by
  unfold State.joinSet
  repeat' (first
      | extract_lets | with_reducible apply Frame.refl | exact rfl | with_reducible apply Frame.step (State.modDir_frame ..)
      | split)

theorem State.openSet_frame {s : State} {d : Nat} {page : Nat} {a} {t : State} (h : State.openSet s d page = some (a, t)) :
    Frame [.fresh, .dirs] s t := by
  unfold State.openSet at h
  try dsimp only at h
  repeat' split at h
  all_goals (first | (exact absurd h (by decide)) | (simp at h; done) | (injection h with h; injection h with _ h; subst h) | (injection h with h; subst h) | (rw [Option.map_eq_some_iff] at h; obtain ⟨_, h, rfl⟩ := h) | skip)
  all_goals repeat' (first
    | extract_lets
    | with_reducible apply Frame.refl
    | exact rfl
    | with_reducible apply Frame.step (State.grabFrame_frame ..)
    | with_reducible apply Frame.step (State.modDir_frame ..)
    | (with_reducible apply Frame.ofPair; with_reducible assumption))

theorem State.takeFrame_frame {s : State} {page : Nat} {demand : Bool} {a} {t : State} (h : State.takeFrame s page demand = some (a, t)) :
    Frame [.fresh, .dirs] s t := by
  unfold State.takeFrame at h
  try dsimp only at h
  repeat' split at h
  all_goals (first | (exact absurd h (by decide)) | (simp at h; done) | (injection h with h; injection h with _ h; subst h) | (injection h with h; subst h) | (rw [Option.map_eq_some_iff] at h; obtain ⟨_, h, rfl⟩ := h) | skip)
  all_goals repeat' (first
    | extract_lets
    | with_reducible apply Frame.refl
    | exact rfl
    | with_reducible apply Frame.step (State.grabFrame_frame ..)
    | with_reducible apply Frame.step (State.joinSet_frame ..)
    | (with_reducible apply Frame.step; (with_reducible apply State.openSet_frame; with_reducible assumption))
    | (with_reducible apply Frame.ofPair; with_reducible assumption))

theorem State.settleTable_frame (s : State) (id : Nat) :
    Frame [.tables] s (State.settleTable s id) := by
  unfold State.settleTable
  repeat' (first
      | extract_lets | with_reducible apply Frame.refl | exact rfl
      | with_reducible apply Frame.step (State.modTable_frame ..) | with_reducible apply Frame.ite)

theorem State.dropRef_frame (s : State) (id : Nat) :
    Frame [.tables] s (State.dropRef s id) := by
  unfold State.dropRef
  repeat' (first
      | extract_lets | with_reducible apply Frame.refl | exact rfl
      | with_reducible apply Frame.step (State.settleTable_frame ..)
      | with_reducible apply Frame.step (State.modTable_frame ..) | with_reducible apply Frame.ite)

theorem State.addRef_frame (s : State) (id : Nat) :
    Frame [.tables] s (State.addRef s id) := by
  unfold State.addRef
  repeat' (first
      | extract_lets | with_reducible apply Frame.refl | exact rfl
      | with_reducible apply Frame.step (State.modTable_frame ..) | with_reducible apply Frame.ite)

theorem State.setFramePair_frame (s : State) (page : Nat) (a : Nat) (b : Nat) :
    Frame [.tables, .refRecs] s (State.setFramePair s page a b) := by
  unfold State.setFramePair
  repeat' (first
      | extract_lets | with_reducible apply Frame.refl | exact rfl | with_reducible apply Frame.step (State.dropRef_frame ..)
      | with_reducible apply Frame.step (State.addRef_frame ..) | with_reducible apply Frame.step (Frame.set_refRecs ..))

theorem State.cancelPrefetch_frame (s : State) (page : Nat) :
    Frame [.dir, .dirs] s (State.cancelPrefetch s page) := by
  unfold State.cancelPrefetch
  repeat' (first
      | extract_lets | with_reducible apply Frame.refl | exact rfl | with_reducible apply Frame.step (State.modDir_frame ..)
      | with_reducible apply Frame.step (State.modEnt_frame ..))

theorem State.settlePressure_frame (s : State) (d : Nat) :
    Frame [.dirs] s (State.settlePressure s d) := by
  unfold State.settlePressure
  repeat' (first
      | extract_lets | with_reducible apply Frame.refl | exact rfl | with_reducible apply Frame.step (State.modDir_frame ..)
      | with_reducible apply Frame.ite)

theorem State.zeroFrame_frame {s : State} {page : Nat} {demand : Bool} {f : DirEnt → DirEnt} {t : State} (h : State.zeroFrame s page demand f = some t) :
    Frame [.fresh, .hbm, .dir, .dirs, .tables, .refRecs] s t := by
  unfold State.zeroFrame at h
  try dsimp only at h
  repeat' split at h
  all_goals (first | (exact absurd h (by decide)) | (simp at h; done) | (injection h with h; injection h with _ h; subst h) | (injection h with h; subst h) | (rw [Option.map_eq_some_iff] at h; obtain ⟨_, h, rfl⟩ := h) | skip)
  all_goals repeat' (first
    | extract_lets
    | with_reducible apply Frame.refl
    | exact rfl
    | (with_reducible apply Frame.step; (with_reducible apply State.takeFrame_frame; with_reducible assumption))
    | with_reducible apply Frame.step (State.setFramePair_frame ..)
    | with_reducible apply Frame.step (State.modHbm_frame ..)
    | with_reducible apply Frame.step (State.settlePressure_frame ..)
    | with_reducible apply Frame.step (State.modEnt_frame ..))

theorem State.coverPage_frame {s : State} {page : Nat} {w : Waiter} {t : State} (h : State.coverPage s page w = some t) :
    Frame [.fresh, .hbm, .dir, .dirs, .tables, .refRecs] s t := by
  unfold State.coverPage at h
  generalize 1024 = c0 at h
  try dsimp only at h
  repeat' split at h
  all_goals (first | (exact absurd h (by decide)) | (simp at h; done) | (injection h with h; injection h with _ h; subst h) | (injection h with h; subst h) | (rw [Option.map_eq_some_iff] at h; obtain ⟨_, h, rfl⟩ := h) | skip)
  all_goals repeat' (first
    | extract_lets
    | with_reducible apply Frame.refl
    | exact rfl
    | (with_reducible apply Frame.step; (with_reducible apply State.takeFrame_frame; with_reducible assumption))
    | with_reducible apply Frame.step (State.setFramePair_frame ..)
    | with_reducible apply Frame.step (State.takeFree_frame ..)
    | with_reducible apply Frame.step (State.modHbm_frame ..)
    | with_reducible apply Frame.step (State.modDir_frame ..)
    | with_reducible apply Frame.step (State.cancelPrefetch_frame ..)
    | with_reducible apply Frame.step (State.settlePressure_frame ..)
    | with_reducible apply Frame.step (State.modEnt_frame ..)
    | (with_reducible apply Frame.step; (with_reducible apply State.zeroFrame_frame; with_reducible assumption))
    | with_reducible apply Frame.eachTrans
    | intro _)

theorem State.moverHops_frame (s : State) (m : Mover) (za : Nat) (out : Nat) (back : Nat) (directory : Bool) :
    Frame [.out, .fns, .cnt] s (State.moverHops s m za out back directory) := by
  unfold State.moverHops
  repeat' (first
      | extract_lets | with_reducible apply Frame.refl | exact rfl
      | with_reducible apply Frame.step (State.crossHub_frame ..) | with_reducible apply Frame.ite)

theorem State.moverMiss_frame (s : State) (m : Mover) (t : Trans) (out : Nat) (waits : Bool) :
    Frame [.out, .fns, .dir, .cnt] s (State.moverMiss s m t out waits).2 := by
  unfold State.moverMiss
  repeat' (first
      | extract_lets | with_reducible apply Frame.refl | exact rfl
      | with_reducible apply Frame.step (State.moverHops_frame ..) | with_reducible apply Frame.step (State.modEnt_frame ..)
      | with_reducible apply Frame.iteSnd)

theorem State.countGnm_frame (s : State) (page : Nat) (code : Nat) (ctx : Nat) (n : Nat) :
    Frame [.out, .fns, .cnt] s (State.countGnm s page code ctx n) := by
  unfold State.countGnm
  repeat' (first
      | extract_lets | with_reducible apply Frame.refl | exact rfl | with_reducible apply Frame.step (State.count_frame ..))

theorem State.cacheEntry_frame (s : State) (page : Nat) (ctx : Nat) :
    Frame [.fresh, .out, .fns, .dir, .dirs, .cnt] s (State.cacheEntry s page ctx) := by
  unfold State.cacheEntry
  repeat' (first
      | extract_lets | with_reducible apply Frame.refl | exact rfl | with_reducible apply Frame.step (State.modDir_frame ..)
      | with_reducible apply Frame.step (State.countGnm_frame ..) | with_reducible apply Frame.step (State.takeFree_frame ..)
      | with_reducible apply Frame.step (State.modEnt_frame ..) | with_reducible apply Frame.eachTrans
      | with_reducible apply Frame.ite | intro _)

theorem State.look_frame (s : State) (page : Nat) (ctx : Nat) (cls : Option Nat) (v : Visit) :
    Frame [.fresh, .out, .fns, .dir, .dirs, .cnt] s (State.look s page ctx cls v) := by
  unfold State.look
  repeat' (first
      | extract_lets | with_reducible apply Frame.refl | exact rfl
      | with_reducible apply Frame.step (State.cacheEntry_frame ..) | with_reducible apply Frame.step (State.count_frame ..)
      | with_reducible apply Frame.step (State.fixed_frame ..) | with_reducible apply Frame.ite)

theorem State.dataError_frame (s : State) (o : LineRead) (line : Nat) (ctx : Nat) (lines : Nat) :
    Frame [.fresh, .out, .fns, .elog] s (State.dataError s o line ctx lines) := by
  unfold State.dataError
  repeat' (first
      | extract_lets | with_reducible apply Frame.refl | exact rfl | with_reducible apply Frame.step (State.log_frame ..))

theorem State.hold_frame (s : State) (q : Req) (h : Hold) :
    Frame [.held] s (State.hold s q h) := by
  unfold State.hold
  repeat' (first
      | extract_lets | with_reducible apply Frame.refl | exact rfl | with_reducible apply Frame.step (Frame.set_held ..))

theorem State.answer1_frame (s : State) (port : Nat) (vc : Nat) (ctx : Nat) (tag : Nat) (opcode : Nat) (status : Nat) (dkind : Nat) (lines : Nat) (retry : Nat) (value : Nat) :
    Frame [.ports] s (State.answer1 s port vc ctx tag opcode status dkind lines retry value) := by
  unfold State.answer1
  repeat' (first
      | extract_lets | with_reducible apply Frame.refl | exact rfl
      | with_reducible apply Frame.step (State.sendLast_frame ..))

theorem State.answerErr_frame (s : State) (port : Nat) (vc : Nat) (ctx : Nat) (tag : Nat) (len : Nat) (status : Nat) :
    Frame [.ports] s (State.answerErr s port vc ctx tag len status) := by
  unfold State.answerErr
  repeat' (first
      | extract_lets | with_reducible apply Frame.refl | exact rfl
      | with_reducible apply Frame.step (State.answer1_frame ..))

theorem State.hop_frame (s : State) (q : Req) (lines : Nat) :
    Frame [.out, .fns, .cnt] s (State.hop s q lines) := by
  unfold State.hop
  repeat' (first
      | extract_lets | with_reducible apply Frame.refl | exact rfl
      | with_reducible apply Frame.step (State.crossHub_frame ..))

theorem State.latencySample_frame (s : State) (die : Nat) (c : Nat) (entry : Class) (ctx : Nat) :
    Frame [.fresh, .out, .fns, .mems, .cnt] s (State.latencySample s die c entry ctx) := by
  unfold State.latencySample
  repeat' (first
      | extract_lets | with_reducible apply Frame.refl | exact rfl
      | with_reducible apply Frame.step (State.takeFree_frame ..) | with_reducible apply Frame.step (State.modMem_frame ..)
      | with_reducible apply Frame.step (State.fixed_frame ..) | with_reducible apply Frame.step (State.count_frame ..)
      | with_reducible apply Frame.ite)

theorem State.tangentSlot_frame (s : State) (q : Req) (r : Region) :
    Frame [.fresh, .out, .fns, .cnt] s (State.tangentSlot s q r) := by
  unfold State.tangentSlot
  repeat' (first
      | extract_lets | with_reducible apply Frame.refl | exact rfl
      | with_reducible apply Frame.step (State.takeFree_frame ..) | with_reducible apply Frame.step (State.count_frame ..)
      | with_reducible apply Frame.ite | split)

theorem State.modParity_frame (s : State) (k : Nat) (frame : Nat) (off : Nat) (f : Stored → Stored) :
    Frame [.hbmStk] s (State.modParity s k frame off f) := by
  unfold State.modParity
  repeat' (first
      | extract_lets | with_reducible apply Frame.refl | exact rfl
      | with_reducible apply Frame.step (State.modStack_frame ..))

theorem State.countStack_frame (s : State) (k : Nat) (code : Nat) (at_ : Attrs) (n : Nat) :
    Frame [.out, .fns, .cnt] s (State.countStack s k code at_ n) := by
  unfold State.countStack
  repeat' (first
      | extract_lets | with_reducible apply Frame.refl | exact rfl | with_reducible apply Frame.step (State.fixed_frame ..)
      | with_reducible apply Frame.step (State.count_frame ..))

theorem State.applyDelta_frame (s : State) (t : Stripe) (e : Nat × Stored) :
    Frame [.out, .fns, .hbmStk, .cnt] s (State.applyDelta s t e) := by
  unfold State.applyDelta
  repeat' (first
      | extract_lets | with_reducible apply Frame.refl | exact rfl
      | with_reducible apply Frame.step (State.modStack_frame ..)
      | with_reducible apply Frame.step (State.modParity_frame ..)
      | with_reducible apply Frame.step (State.countStack_frame ..))

theorem State.settleDeltas_frame (s : State) (t : Stripe) :
    Frame [.out, .fns, .hbmStk, .cnt] s (State.settleDeltas s t) := by
  unfold State.settleDeltas
  repeat' (first
      | extract_lets | with_reducible apply Frame.refl | exact rfl
      | with_reducible apply Frame.step (State.applyDelta_frame ..) | with_reducible apply Frame.eachTrans
      | with_reducible apply Frame.ite | intro _)

theorem State.stripeXor_frame (s : State) (r : Region) (line : Nat) :
    Frame [.out, .fns, .hbmStk, .cnt] s (State.stripeXor s r line).2 := by
  unfold State.stripeXor
  repeat' (first
      | extract_lets | with_reducible apply Frame.refl | exact rfl
      | with_reducible apply Frame.step (State.settleDeltas_frame ..) | split)

theorem State.lineCheck_frame (s : State) (r : Region) (line : Nat) :
    Frame [.out, .fns, .hbmStk, .cnt] s (State.lineCheck s r line).2 := by
  unfold State.lineCheck
  repeat' (first
      | extract_lets | with_reducible apply Frame.refl | exact rfl
      | with_reducible apply Frame.step (State.stripeXor_frame ..) | with_reducible apply Frame.iteSnd | split)

theorem State.readStored_frame (s : State) (r : Region) (line : Nat) :
    Frame [.out, .fns, .hbmStk, .cnt] s (State.readStored s r line).2 := by
  unfold State.readStored
  repeat' (first
      | extract_lets | with_reducible apply Frame.refl | exact rfl
      | with_reducible apply Frame.step (State.lineCheck_frame ..) | with_reducible apply Frame.iteSnd)

theorem State.countCorrected_frame (s : State) (k : Nat) (p : Nat) (at_ : Attrs) :
    Frame [.out, .fns, .hbmStk, .cnt] s (State.countCorrected s k p at_) := by
  unfold State.countCorrected
  repeat' (first
      | extract_lets | with_reducible apply Frame.refl | exact rfl | with_reducible apply Frame.step (State.count_frame ..)
      | with_reducible apply Frame.step (State.modPc_frame ..) | with_reducible apply Frame.step (State.modStack_frame ..))

theorem State.countRead_frame (s : State) (g : LineGot) (r : Region) (line : Nat) (ctx : Nat) (src : Source) :
    Frame [.out, .fns, .hbmStk, .cnt] s (State.countRead s g r line ctx src) := by
  unfold State.countRead
  repeat' (first
      | extract_lets | with_reducible apply Frame.refl | exact rfl
      | with_reducible apply Frame.step (State.countCorrected_frame ..)
      | with_reducible apply Frame.step (State.count_frame ..) | with_reducible apply Frame.step (State.modStack_frame ..)
      | with_reducible apply Frame.ite)

theorem State.fetchLines_frame (s : State) (r : Region) (cls : Nat) (ctx : Nat) (src : Source) (y0 : List Nat) :
    Frame [.out, .fns, .hbmStk, .cnt] s (State.fetchLines s r cls ctx src y0).2 := by
  induction y0 generalizing s r cls ctx src with
  | nil => (unfold State.fetchLines; repeat' (first
       | extract_lets
       | with_reducible apply Frame.refl
       | exact rfl
       | with_reducible apply Frame.step (State.readStored_frame ..)
       | with_reducible apply Frame.step (State.count_frame ..)
       | with_reducible apply Frame.step (State.countStack_frame ..)
       | with_reducible apply Frame.step (State.countRead_frame ..)
       | with_reducible apply Frame.after (ih ..)
       | with_reducible apply Frame.ite))
  | cons a y0 ih =>
    (unfold State.fetchLines
     repeat' (first
         | extract_lets | with_reducible apply Frame.refl | exact rfl
         | with_reducible apply Frame.step (State.readStored_frame ..)
         | with_reducible apply Frame.step (State.count_frame ..)
         | with_reducible apply Frame.step (State.countStack_frame ..)
         | with_reducible apply Frame.step (State.countRead_frame ..) | with_reducible apply Frame.after (ih ..)
         | with_reducible apply Frame.ite))

theorem State.queueDecode_frame (s : State) (f : Fetch) (die : Nat) (at_ : Attrs) :
    Frame [.fresh, .out, .fns, .cnt] s (State.queueDecode s f die at_) := by
  unfold State.queueDecode
  repeat' (first
      | extract_lets | with_reducible apply Frame.refl | exact rfl
      | with_reducible apply Frame.step (State.takeFree_frame ..) | with_reducible apply Frame.step (State.count_frame ..)
      | with_reducible apply Frame.ite | split)

theorem State.cacheTableChd_frame (s : State) (d : Nat) (id : Nat) :
    Frame [.chds] s (State.cacheTableChd s d id) := by
  unfold State.cacheTableChd
  repeat' (first
      | extract_lets | with_reducible apply Frame.refl | exact rfl | with_reducible apply Frame.step (State.modChd_frame ..))

theorem State.cacheTable_frame (s : State) (die : Nat) (at_ : Attrs) (id : Nat) :
    Frame [.out, .fns, .mems, .cnt] s (State.cacheTable s die at_ id) := by
  unfold State.cacheTable
  repeat' (first
      | extract_lets | with_reducible apply Frame.refl | exact rfl | with_reducible apply Frame.step (State.modMem_frame ..)
      | with_reducible apply Frame.step (State.count_frame ..) | with_reducible apply Frame.ite)

theorem State.countDecode_frame (s : State) (f : Fetch) (die : Nat) (at_ : Attrs) (head : LineGot) (out : List (Nat × Segment)) :
    Frame [.out, .fns, .mems, .chds, .cnt] s (State.countDecode s f die at_ head out) := by
  unfold State.countDecode
  repeat' (first
      | extract_lets | with_reducible apply Frame.refl | exact rfl
      | with_reducible apply Frame.step (State.cacheTableChd_frame ..)
      | with_reducible apply Frame.step (State.count_frame ..) | with_reducible apply Frame.step (State.cacheTable_frame ..)
      | with_reducible apply Frame.step (State.fixed_frame ..) | split | dsimp +zetaDelta only [id])

theorem State.reportDecode_frame (s : State) (f : Fetch) (die : Nat) (block : Nat) (a : Nat) (b : Nat) (ctx : Nat) (out : List (Nat × Segment)) :
    Frame [.fresh, .out, .fns, .mems, .elog, .cnt] s (State.reportDecode s f die block a b ctx out) := by
  unfold State.reportDecode
  repeat' (first
      | extract_lets | with_reducible apply Frame.refl | exact rfl | with_reducible apply Frame.step (State.count_frame ..)
      | with_reducible apply Frame.step (State.modMem_frame ..) | with_reducible apply Frame.step (State.log_frame ..)
      | split | dsimp +zetaDelta only [id])

theorem State.logRead_frame (s : State) (o : LineRead) (r : Region) (line : Nat) (ctx : Nat) (src : Source) :
    Frame [.out, .fns, .hbmStk, .cnt] s (State.logRead s o r line ctx src) := by
  unfold State.logRead
  repeat' (first
      | extract_lets | with_reducible apply Frame.refl | exact rfl | with_reducible apply Frame.step (State.count_frame ..)
      | with_reducible apply Frame.step (State.modStack_frame ..) | split)

theorem State.decodeErrors_frame (s : State) (r : Region) (first : Nat) (a : Nat) (b : Nat) (ctx : Nat) (src : Source) (get : Nat → LineGot) (headed : Bool) (out : List (Nat × Segment)) :
    Frame [.fresh, .out, .fns, .hbmStk, .elog, .cnt] s (State.decodeErrors s r first a b ctx src get headed out) := by
  unfold State.decodeErrors
  repeat' (first
      | extract_lets | with_reducible apply Frame.refl | exact rfl
      | with_reducible apply Frame.step (State.dataError_frame ..) | with_reducible apply Frame.step (State.logRead_frame ..)
      | with_reducible apply Frame.eachTrans | with_reducible apply Frame.ite | split | intro _)

theorem State.readBlock_frame (s : State) (r : Region) (block : Nat) (a : Nat) (b : Nat) (cls : Nat) (ctx : Nat) (src : Source) (f : Fetch) :
    Frame [.fresh, .out, .fns, .mems, .chds, .hbmStk, .elog, .cnt] s (State.readBlock s r block a b cls ctx src f).2 := by
  unfold State.readBlock
  repeat' (first
      | extract_lets | with_reducible apply Frame.refl | exact rfl | with_reducible apply Frame.step (State.count_frame ..)
      | with_reducible apply Frame.step (State.fetchLines_frame ..)
      | with_reducible apply Frame.step (State.queueDecode_frame ..)
      | with_reducible apply Frame.step (State.countDecode_frame ..)
      | with_reducible apply Frame.step (State.reportDecode_frame ..)
      | with_reducible apply Frame.step (State.decodeErrors_frame ..) | with_reducible apply Frame.ite | split)

theorem State.readOne_frame (s : State) (r : Region) (line : Nat) (cls : Nat) (ctx : Nat) (src : Source) :
    Frame [.fresh, .out, .fns, .hbmStk, .elog, .cnt] s (State.readOne s r line cls ctx src).2 := by
  unfold State.readOne
  repeat' (first
      | extract_lets | with_reducible apply Frame.refl | exact rfl
      | with_reducible apply Frame.step (State.readStored_frame ..) | with_reducible apply Frame.step (State.count_frame ..)
      | with_reducible apply Frame.step (State.countStack_frame ..)
      | with_reducible apply Frame.step (State.countRead_frame ..)
      | with_reducible apply Frame.step (State.dataError_frame ..) | with_reducible apply Frame.step (State.logRead_frame ..)
      | with_reducible apply Frame.ite | with_reducible apply Frame.iteSnd)

theorem State.readEach_frame (s : State) (r : Region) (cls : Nat) (ctx : Nat) (src : Source) (y0 : List Nat) :
    Frame [.fresh, .out, .fns, .hbmStk, .elog, .cnt] s (State.readEach s r cls ctx src y0).2 := by
  induction y0 generalizing s r cls ctx src with
  | nil => (unfold State.readEach; repeat' (first
       | extract_lets
       | with_reducible apply Frame.refl
       | exact rfl
       | with_reducible apply Frame.step (State.readOne_frame ..)
       | with_reducible apply Frame.after (ih ..)))
  | cons a y0 ih =>
    (unfold State.readEach
     repeat' (first
         | extract_lets | with_reducible apply Frame.refl | exact rfl
         | with_reducible apply Frame.step (State.readOne_frame ..) | with_reducible apply Frame.after (ih ..)))

theorem State.readLines_frame (s : State) (r : Region) (line : Nat) (n : Nat) (ctx : Nat) (cls : Nat) (src : Source) (f : Fetch) :
    Frame [.fresh, .out, .fns, .mems, .chds, .hbmStk, .elog, .cnt] s (State.readLines s r line n ctx cls src f).2 := by
  unfold State.readLines
  repeat' (first
      | extract_lets | with_reducible apply Frame.refl | exact rfl
      | with_reducible apply Frame.step (State.readBlock_frame ..)
      | with_reducible apply Frame.step (State.readEach_frame ..) | with_reducible apply Frame.iteSnd)

theorem State.answerRuns_frame (s : State) (port : Nat) (vc : Nat) (ctx : Nat) (tag : Nat) (cls : Nat) (y0 : List (Nat × Nat × List Line)) :
    Frame [.out, .fns, .ports, .cnt] s (State.answerRuns s port vc ctx tag cls y0) := by
  induction y0 generalizing s port vc ctx tag cls with
  | nil => (unfold State.answerRuns; repeat' (first
       | extract_lets
       | with_reducible apply Frame.refl
       | exact rfl
       | with_reducible apply Frame.step (State.sendLast_frame ..)
       | with_reducible apply Frame.step (State.sendMsg_frame ..)
       | with_reducible apply Frame.step (State.fixed_frame ..)
       | with_reducible apply Frame.step (State.count_frame ..)
       | with_reducible apply Frame.after (ih ..)
       | with_reducible apply Frame.ite))
  | cons a y0 ih =>
    (unfold State.answerRuns
     repeat' (first
         | extract_lets | with_reducible apply Frame.refl | exact rfl
         | with_reducible apply Frame.step (State.sendLast_frame ..)
         | with_reducible apply Frame.step (State.sendMsg_frame ..) | with_reducible apply Frame.step (State.fixed_frame ..)
         | with_reducible apply Frame.step (State.count_frame ..) | with_reducible apply Frame.after (ih ..)
         | with_reducible apply Frame.ite))

theorem State.loadKernel_frame (s : State) (c : Cmd) (img : List Byte) :
    Frame [.fresh, .out, .fns, .cmds, .ports, .disp, .cnt] s (State.loadKernel s c img) := by
  unfold State.loadKernel
  repeat' (first
      | extract_lets | with_reducible apply Frame.refl | exact rfl | with_reducible apply Frame.step (State.reply_frame ..)
      | with_reducible apply Frame.step (State.pick_frame ..) | with_reducible apply Frame.step (State.modDisp_frame ..)
      | (with_reducible apply Frame.ofPair; with_reducible assumption) | with_reducible apply Frame.ite | split)

theorem State.loadLines_frame (s : State) (id : Nat) (off : Nat) (res : List (Nat × Line)) :
    Frame [.fresh, .out, .fns, .cmds, .ports, .disp, .cnt] s (State.loadLines s id off res) := by
  unfold State.loadLines
  repeat' (first
      | extract_lets | with_reducible apply Frame.refl | exact rfl | with_reducible apply Frame.step (State.reply_frame ..)
      | with_reducible apply Frame.step (State.modCmd_frame ..) | with_reducible apply Frame.step (State.loadKernel_frame ..)
      | with_reducible apply Frame.ite | split)

theorem State.answerRead_frame (s : State) (q : Req) (res : List (Nat × Line)) :
    Frame [.fresh, .out, .fns, .cmds, .ports, .disp, .cnt] s (State.answerRead s q res) := by
  unfold State.answerRead
  repeat' (first
      | extract_lets | with_reducible apply Frame.refl | exact rfl | with_reducible apply Frame.step (State.hop_frame ..)
      | with_reducible apply Frame.step (State.answerRuns_frame ..) | with_reducible apply Frame.step (State.emit_frame ..)
      | with_reducible apply Frame.step (State.loadLines_frame ..) | with_reducible apply Frame.eachTrans | split | intro _)

theorem State.partDone_frame (s : State) (id : Nat) (status : Nat) :
    Frame [.fresh, .out, .fns, .cmds, .ports, .cnt] s (State.partDone s id status) := by
  unfold State.partDone
  repeat' (first
      | extract_lets | with_reducible apply Frame.refl | exact rfl | with_reducible apply Frame.step (State.replyTo_frame ..)
      | with_reducible apply Frame.step (State.modCmd_frame ..) | with_reducible apply Frame.ite | split)

theorem State.answerDone_frame (s : State) (q : Req) (status : Nat) (prior : Option Nat) :
    Frame [.fresh, .out, .fns, .cmds, .ports, .cnt] s (State.answerDone s q status prior) := by
  unfold State.answerDone
  repeat' (first
      | extract_lets | with_reducible apply Frame.refl | exact rfl | with_reducible apply Frame.step (State.hop_frame ..)
      | with_reducible apply Frame.step (State.answerErr_frame ..) | with_reducible apply Frame.step (State.answer1_frame ..)
      | with_reducible apply Frame.step (State.emit_frame ..) | with_reducible apply Frame.step (State.partDone_frame ..)
      | with_reducible apply Frame.step (State.replyTo_frame ..) | with_reducible apply Frame.ite | split)

theorem State.contenders_frame (s : State) (k : Nat) (p : Nat) :
    Frame [.hbmStk] s (State.contenders s k p).2 := by
  unfold State.contenders
  repeat' (first
      | extract_lets | with_reducible apply Frame.refl | exact rfl | with_reducible apply Frame.step (State.modPc_frame ..)
      | with_reducible apply Frame.iteSnd)

theorem State.nextDrain_frame (s : State) (k : Nat) :
    Frame [.fresh, .hbmStk] s (State.nextDrain s k).2 := by
  unfold State.nextDrain
  repeat' (first
      | extract_lets | with_reducible apply Frame.refl | exact rfl | with_reducible apply Frame.step (State.pickOf_frame ..)
      | with_reducible apply Frame.step (State.contenders_frame ..) | split)

theorem State.groupTable_frame (s : State) (ri : Nat) (g : Nat) (die : Nat) :
    Frame [.fresh, .groups] s (State.groupTable s ri g die).2 := by
  unfold State.groupTable
  repeat' (first
      | extract_lets | with_reducible apply Frame.refl | exact rfl
      | with_reducible apply Frame.step (State.takeFree_frame ..) | with_reducible apply Frame.step (State.modGroup_frame ..)
      | with_reducible apply Frame.iteSnd)

theorem State.sample_frame (s : State) (region : Nat) (g : Nat) (die : Nat) (block : List Byte) :
    Frame [.groups] s (State.sample s region g die block) := by
  unfold State.sample
  repeat' (first
      | extract_lets | with_reducible apply Frame.refl | exact rfl
      | with_reducible apply Frame.step (State.modGroup_frame ..) | with_reducible apply Frame.ite)

theorem State.encodeBlock_frame (s : State) (ri : Nat) (r : Region) (die : Nat) (ctx : Nat) (block : Nat) (data : List Line) (cur : Option Nat) :
    Frame [.out, .fns, .hbm, .groups, .tables, .refRecs, .mems, .cnt] s (State.encodeBlock s ri r die ctx block data cur) := by
  unfold State.encodeBlock
  repeat' (first
      | extract_lets | with_reducible apply Frame.refl | exact rfl
      | with_reducible apply Frame.step (State.cacheTable_frame ..) | with_reducible apply Frame.step (State.count_frame ..)
      | with_reducible apply Frame.step (State.modHbm_frame ..)
      | with_reducible apply Frame.step (State.setFramePair_frame ..)
      | with_reducible apply Frame.step (State.sample_frame ..) | with_reducible apply Frame.ite | split
      | dsimp +zetaDelta only [id])

theorem State.encodeEntry_frame (s : State) (ri : Nat) (r : Region) (e : WEntry) :
    Frame [.fresh, .out, .fns, .hbm, .groups, .tables, .refRecs, .mems, .hbmStk, .cnt] s (State.encodeEntry s ri r e) := by
  unfold State.encodeEntry
  repeat' (first
      | extract_lets | with_reducible apply Frame.refl | exact rfl
      | with_reducible apply Frame.step (State.groupTable_frame ..)
      | with_reducible apply Frame.step (State.fetchLines_frame ..)
      | with_reducible apply Frame.step (State.encodeBlock_frame ..) | with_reducible apply Frame.ite)

theorem State.writeEntry_frame (s : State) (ri : Nat) (r : Region) (e : WEntry) :
    Frame [.fresh, .out, .fns, .hbm, .wbuf, .groups, .tables, .refRecs, .mems, .hbmStk, .cnt] s (State.writeEntry s ri r e) := by
  unfold State.writeEntry
  repeat' (first
      | extract_lets | with_reducible apply Frame.refl | exact rfl | with_reducible apply Frame.step (State.modHbm_frame ..)
      | with_reducible apply Frame.step (State.encodeEntry_frame ..)
      | with_reducible apply Frame.step (State.countStack_frame ..)
      | with_reducible apply Frame.step (State.modStack_frame ..) | with_reducible apply Frame.eachTrans
      | with_reducible apply Frame.ite | intro _ | with_reducible apply Frame.step (Frame.set_wbuf ..))

theorem State.oldWrong_frame (s : State) (r : Region) (line : Nat) :
    Frame [.fresh, .out, .fns, .hbmStk, .cnt] s (State.oldWrong s r line).2 := by
  unfold State.oldWrong
  repeat' (first
      | extract_lets | with_reducible apply Frame.refl | exact rfl
      | with_reducible apply Frame.step (State.stripeXor_frame ..)
      | with_reducible apply Frame.step (State.takeFree_frame ..) | with_reducible apply Frame.iteSnd | split)

theorem State.oldWrongs_frame (s : State) (r : Region) (line : Nat) (y0 : Nat) :
    Frame [.fresh, .out, .fns, .hbmStk, .cnt] s (State.oldWrongs s r line y0).2 := by
  induction y0 generalizing s r line with
  | zero => (unfold State.oldWrongs; repeat' (first
       | extract_lets
       | with_reducible apply Frame.refl
       | exact rfl
       | with_reducible apply Frame.step (State.oldWrong_frame ..)
       | with_reducible apply Frame.after (ih ..)))
  | succ y0 ih =>
    (unfold State.oldWrongs
     repeat' (first
         | extract_lets | with_reducible apply Frame.refl | exact rfl
         | with_reducible apply Frame.step (State.oldWrong_frame ..) | with_reducible apply Frame.after (ih ..)))

theorem State.sendDelta_frame (s : State) (r : Region) (e : Nat × Stored) :
    Frame [.hbmStk] s (State.sendDelta s r e) := by
  unfold State.sendDelta
  repeat' (first
      | extract_lets | with_reducible apply Frame.refl | exact rfl
      | with_reducible apply Frame.step (State.modStack_frame ..) | split)

theorem State.drainStriped_frame (s : State) (ri : Nat) (r : Region) (e : WEntry) :
    Frame [.fresh, .out, .fns, .hbm, .wbuf, .groups, .tables, .refRecs, .mems, .hbmStk, .cnt] s (State.drainStriped s ri r e) := by
  unfold State.drainStriped
  repeat' (first
      | extract_lets | with_reducible apply Frame.refl | exact rfl
      | with_reducible apply Frame.step (State.oldWrongs_frame ..)
      | with_reducible apply Frame.step (State.writeEntry_frame ..)
      | with_reducible apply Frame.step (State.countStack_frame ..)
      | with_reducible apply Frame.step (State.sendDelta_frame ..) | with_reducible apply Frame.eachTrans | intro _)

theorem State.freshParity_frame (s : State) (t : Stripe) :
    Frame [.out, .fns, .hbmStk, .cnt] s (State.freshParity s t) := by
  unfold State.freshParity
  repeat' (first
      | extract_lets | with_reducible apply Frame.refl | exact rfl
      | with_reducible apply Frame.step (State.modStack_frame ..)
      | with_reducible apply Frame.step (State.modParity_frame ..)
      | with_reducible apply Frame.step (State.countStack_frame ..))

theorem State.drainMates_frame (s : State) (l : List WEntry) :
    Frame [.fresh, .out, .fns, .hbm, .wbuf, .groups, .tables, .refRecs, .mems, .hbmStk, .cnt] s (State.drainMates s l) := by
  unfold State.drainMates
  repeat' (first
      | extract_lets | with_reducible apply Frame.refl | exact rfl
      | with_reducible apply Frame.step (State.oldWrongs_frame ..)
      | with_reducible apply Frame.step (State.writeEntry_frame ..)
      | with_reducible apply Frame.step (State.sendDelta_frame ..)
      | with_reducible apply Frame.step (State.freshParity_frame ..) | with_reducible apply Frame.eachTrans
      | with_reducible apply Frame.foldTrans | split | intro _)

theorem State.drain_frame (s : State) (e : WEntry) :
    Frame [.fresh, .out, .fns, .hbm, .wbuf, .groups, .tables, .refRecs, .mems, .hbmStk, .cnt] s (State.drain s e) := by
  unfold State.drain
  repeat' (first
      | extract_lets | with_reducible apply Frame.refl | exact rfl
      | with_reducible apply Frame.step (State.writeEntry_frame ..)
      | with_reducible apply Frame.step (State.drainStriped_frame ..)
      | with_reducible apply Frame.step (State.takeFree_frame ..)
      | with_reducible apply Frame.step (State.drainMates_frame ..) | with_reducible apply Frame.ite | split
      | with_reducible apply Frame.step (Frame.set_wbuf ..))

theorem State.makeRoom_frame (s : State) (k : Nat) (n : Nat) (y0 : Nat) :
    Frame [.fresh, .out, .fns, .hbm, .wbuf, .groups, .tables, .refRecs, .mems, .hbmStk, .cnt] s (State.makeRoom s k n y0) := by
  induction y0 generalizing s k n with
  | zero => (unfold State.makeRoom; repeat' (first
       | extract_lets
       | with_reducible apply Frame.refl
       | exact rfl
       | with_reducible apply Frame.step (State.nextDrain_frame ..)
       | with_reducible apply Frame.step (State.drain_frame ..)
       | with_reducible apply Frame.after (ih ..)
       | with_reducible apply Frame.ite
       | split))
  | succ y0 ih =>
    (unfold State.makeRoom
     repeat' (first
         | extract_lets | with_reducible apply Frame.refl | exact rfl
         | with_reducible apply Frame.step (State.nextDrain_frame ..)
         | with_reducible apply Frame.step (State.drain_frame ..) | with_reducible apply Frame.after (ih ..)
         | with_reducible apply Frame.ite | split))

theorem State.buffer_frame (s : State) (line : Nat) (block : Bool) (pri : Pri) (ctx : Nat) (data : List Line) (fill : Bool) :
    Frame [.fresh, .out, .nextId, .fns, .hbm, .wbuf, .groups, .tables, .refRecs, .mems, .hbmStk, .cnt] s (State.buffer s line block pri ctx data fill) := by
  unfold State.buffer
  repeat' (first
      | extract_lets | with_reducible apply Frame.refl | exact rfl
      | with_reducible apply Frame.step (State.makeRoom_frame ..) | with_reducible apply Frame.step (State.takeId_frame ..)
      | with_reducible apply Frame.step (Frame.set_wbuf ..))

theorem State.putLines_frame (s : State) (r : Region) (line : Nat) (data : List Line) (pri : Pri) (ctx : Nat) :
    Frame [.fresh, .out, .nextId, .fns, .hbm, .wbuf, .groups, .tables, .refRecs, .mems, .hbmStk, .cnt] s (State.putLines s r line data pri ctx) := by
  unfold State.putLines
  repeat' (first
      | extract_lets | with_reducible apply Frame.refl | exact rfl | with_reducible apply Frame.step (State.buffer_frame ..)
      | with_reducible apply Frame.step (State.modHbm_frame ..) | with_reducible apply Frame.eachTrans
      | with_reducible apply Frame.ite | intro _)

theorem State.poisonLine_frame (s : State) (line : Nat) (reason : Nat) (kind : Nat) :
    Frame [.fresh, .out, .fns, .hbm, .dir, .hbmStk, .cnt] s (State.poisonLine s line reason kind) := by
  unfold State.poisonLine
  repeat' (first
      | extract_lets | with_reducible apply Frame.refl | exact rfl
      | with_reducible apply Frame.step (State.oldWrong_frame ..)
      | with_reducible apply Frame.step (State.sendDelta_frame ..) | with_reducible apply Frame.step (State.modHbm_frame ..)
      | with_reducible apply Frame.step (State.modEnt_frame ..) | with_reducible apply Frame.ite | split
      | dsimp +zetaDelta only [id])

theorem State.sendRecall_frame (s : State) (line : Nat) :
    Frame [.out, .fns, .ports, .leases, .cnt] s (State.sendRecall s line) := by
  unfold State.sendRecall
  repeat' (first
      | extract_lets | with_reducible apply Frame.refl | exact rfl | with_reducible apply Frame.step (State.modPort_frame ..)
      | with_reducible apply Frame.step (State.count_frame ..) | with_reducible apply Frame.step (State.sendMsg_frame ..)
      | with_reducible apply Frame.ite | split | with_reducible apply Frame.step (Frame.set_leases ..))

theorem State.tagFreed_frame (s : State) (port : Nat) :
    Frame [.out, .fns, .ports, .leases, .cnt] s (State.tagFreed s port) := by
  unfold State.tagFreed
  repeat' (first
      | extract_lets | with_reducible apply Frame.refl | exact rfl
      | with_reducible apply Frame.step (State.sendRecall_frame ..) | split)

theorem State.endLease_frame (s : State) (line : Nat) :
    Frame [.out, .fns, .ports, .leases, .cnt] s (State.endLease s line) := by
  unfold State.endLease
  repeat' (first
      | extract_lets | with_reducible apply Frame.refl | exact rfl
      | with_reducible apply Frame.step (State.tagFreed_frame ..) | with_reducible apply Frame.step (State.modPort_frame ..)
      | split | with_reducible apply Frame.step (Frame.set_leases ..))

theorem State.atomLines_frame (s : State) (r : Region) (cls : Nat) (ctx : Nat) (src : Source) (y0 : List Nat) :
    Frame [.fresh, .out, .fns, .hbmStk, .elog, .cnt] s (State.atomLines s r cls ctx src y0).2 := by
  induction y0 generalizing s r cls ctx src with
  | nil => (unfold State.atomLines; repeat' (first
       | extract_lets
       | with_reducible apply Frame.refl
       | exact rfl
       | with_reducible apply Frame.step (State.readOne_frame ..)
       | with_reducible apply Frame.after (ih ..)
       | with_reducible apply Frame.iteSnd))
  | cons a y0 ih =>
    (unfold State.atomLines
     repeat' (first
         | extract_lets | with_reducible apply Frame.refl | exact rfl
         | with_reducible apply Frame.step (State.readOne_frame ..) | with_reducible apply Frame.after (ih ..)
         | with_reducible apply Frame.iteSnd))

theorem State.keepAtom_frame (s : State) (line : Nat) :
    Frame [.atoms] s (State.keepAtom s line) := by
  unfold State.keepAtom
  repeat' (first
      | extract_lets | with_reducible apply Frame.refl | exact rfl | with_reducible apply Frame.step (Frame.set_atoms ..))

theorem State.atomicScalar_frame (s : State) (r : Region) (za : Nat) (atop : Nat) (awidth : Nat) (a : Nat) (b : Nat) (ctx : Nat) (cls : Nat) (src : Source) (pri : Pri) :
    Frame [.fresh, .out, .nextId, .fns, .hbm, .wbuf, .atoms, .groups, .tables, .refRecs, .mems, .hbmStk, .elog, .cnt] s (State.atomicScalar s r za atop awidth a b ctx cls src pri).2.2 := by
  unfold State.atomicScalar
  repeat' (first
      | extract_lets | with_reducible apply Frame.refl | exact rfl
      | with_reducible apply Frame.step (State.atomLines_frame ..) | with_reducible apply Frame.step (State.count_frame ..)
      | with_reducible apply Frame.step (State.dataError_frame ..)
      | with_reducible apply Frame.step (State.keepAtom_frame ..) | with_reducible apply Frame.step (State.putLines_frame ..)
      | split)

theorem State.atomicVadd_frame (s : State) (r : Region) (za : Nat) (awidth : Nat) (v : Line) (ctx : Nat) (cls : Nat) (src : Source) (pri : Pri) :
    Frame [.fresh, .out, .nextId, .fns, .hbm, .wbuf, .atoms, .groups, .tables, .refRecs, .mems, .hbmStk, .elog, .cnt] s (State.atomicVadd s r za awidth v ctx cls src pri).2 := by
  unfold State.atomicVadd
  repeat' (first
      | extract_lets | with_reducible apply Frame.refl | exact rfl
      | with_reducible apply Frame.step (State.atomLines_frame ..) | with_reducible apply Frame.step (State.count_frame ..)
      | with_reducible apply Frame.step (State.dataError_frame ..)
      | with_reducible apply Frame.step (State.keepAtom_frame ..) | with_reducible apply Frame.step (State.putLines_frame ..)
      | split)

theorem State.accumulate_frame (s : State) (r : Region) (za : Nat) (awidth : Nat) (data : List Line) (ctx : Nat) (cls : Nat) (src : Source) (pri : Pri) :
    Frame [.fresh, .out, .nextId, .fns, .hbm, .wbuf, .atoms, .groups, .tables, .refRecs, .mems, .hbmStk, .elog, .cnt] s (State.accumulate s r za awidth data ctx cls src pri).2 := by
  unfold State.accumulate
  repeat' (first
      | extract_lets | with_reducible apply Frame.refl | exact rfl
      | with_reducible apply Frame.step (State.atomLines_frame ..)
      | with_reducible apply Frame.step (State.dataError_frame ..) | with_reducible apply Frame.step (State.count_frame ..)
      | with_reducible apply Frame.step (State.putLines_frame ..) | with_reducible apply Frame.step (State.keepAtom_frame ..)
      | with_reducible apply Frame.eachTrans | split | intro _)

theorem State.clearLine_frame (s : State) (r : Region) (line : Nat) (ctx : Nat) :
    Frame [.fresh, .out, .nextId, .fns, .hbm, .wbuf, .groups, .tables, .refRecs, .mems, .hbmStk, .cnt] s (State.clearLine s r line ctx) := by
  unfold State.clearLine
  repeat' (first
      | extract_lets | with_reducible apply Frame.refl | exact rfl | with_reducible apply Frame.step (State.buffer_frame ..)
      | with_reducible apply Frame.step (State.modHbm_frame ..) | with_reducible apply Frame.step (State.putLines_frame ..)
      | with_reducible apply Frame.ite)

theorem State.perform_frame (s : State) (q : Req) (r : Region) :
    Frame [.fresh, .out, .nextId, .fns, .cmds, .ports, .leases, .hbm, .wbuf, .atoms, .dir, .groups, .tables, .refRecs, .mems, .chds, .disp, .hbmStk, .elog, .cnt] s (State.perform s q r) := by
  unfold State.perform
  repeat' (first
      | extract_lets | with_reducible apply Frame.refl | exact rfl
      | with_reducible apply Frame.step (State.latencySample_frame ..)
      | with_reducible apply Frame.step (State.tangentSlot_frame ..)
      | with_reducible apply Frame.step (State.readLines_frame ..)
      | with_reducible apply Frame.step (State.answerRead_frame ..)
      | with_reducible apply Frame.step (State.countGnm_frame ..)
      | with_reducible apply Frame.step (State.answerDone_frame ..)
      | with_reducible apply Frame.step (State.dataError_frame ..)
      | with_reducible apply Frame.step (State.putLines_frame ..)
      | with_reducible apply Frame.step (State.poisonLine_frame ..)
      | with_reducible apply Frame.step (State.endLease_frame ..)
      | with_reducible apply Frame.step (State.atomicScalar_frame ..)
      | with_reducible apply Frame.step (State.atomicVadd_frame ..)
      | with_reducible apply Frame.step (State.accumulate_frame ..)
      | with_reducible apply Frame.step (State.clearLine_frame ..) | with_reducible apply Frame.ite | split
      | with_reducible apply Frame.step (Frame.set_leases ..))

theorem State.atOrder_frame (s : State) (q : Req) (r : Region) :
    Frame [.fresh, .out, .nextId, .fns, .cmds, .ports, .held, .leases, .hbm, .wbuf, .atoms, .dir, .groups, .tables, .refRecs, .mems, .chds, .disp, .hbmStk, .elog, .cnt] s (State.atOrder s q r) := by
  unfold State.atOrder
  repeat' (first
      | extract_lets | with_reducible apply Frame.refl | exact rfl | with_reducible apply Frame.step (State.perform_frame ..)
      | with_reducible apply Frame.step (State.hold_frame ..) | with_reducible apply Frame.ite)

theorem State.forward_frame (s : State) (q : Req) (r : Region) :
    Frame [.fresh, .out, .nextId, .fns, .cmds, .ports, .held, .leases, .hbm, .wbuf, .atoms, .dir, .groups, .tables, .refRecs, .mems, .chds, .disp, .hbmStk, .elog, .cnt] s (State.forward s q r) := by
  unfold State.forward
  repeat' (first
      | extract_lets | with_reducible apply Frame.refl | exact rfl | with_reducible apply Frame.step (State.atOrder_frame ..)
      | with_reducible apply Frame.step (State.hop_frame ..) | with_reducible apply Frame.ite)

theorem State.leaseRoute_frame (s : State) (q : Req) (r : Region) :
    Frame [.fresh, .out, .nextId, .fns, .cmds, .ports, .held, .leases, .hbm, .wbuf, .atoms, .dir, .groups, .tables, .refRecs, .mems, .chds, .disp, .hbmStk, .elog, .cnt] s (State.leaseRoute s q r) := by
  unfold State.leaseRoute
  repeat' (first
      | extract_lets | with_reducible apply Frame.refl | exact rfl
      | with_reducible apply Frame.step (State.answerErr_frame ..) | with_reducible apply Frame.step (State.hop_frame ..)
      | with_reducible apply Frame.step (State.count_frame ..) | with_reducible apply Frame.step (State.forward_frame ..)
      | with_reducible apply Frame.step (State.sendRecall_frame ..) | with_reducible apply Frame.step (State.hold_frame ..)
      | with_reducible apply Frame.ite | split)

theorem State.queueDemand_frame (s : State) (page : Nat) :
    Frame [.dirs] s (State.queueDemand s page) := by
  unfold State.queueDemand
  repeat' (first
      | extract_lets | with_reducible apply Frame.refl | exact rfl | with_reducible apply Frame.step (State.modDir_frame ..)
      | with_reducible apply Frame.ite)

theorem State.modNand_frame (s : State) (d : Nat) (die : Nat) (f : NandDie → NandDie) :
    Frame [.flss] s (State.modNand s d die f) := by
  unfold State.modNand
  repeat' (first
      | extract_lets | with_reducible apply Frame.refl | exact rfl | with_reducible apply Frame.step (State.modFls_frame ..))

theorem State.startRead_frame (s : State) (d : Nat) (die : Nat) (r : FlashRead) :
    Frame [.out, .fns, .flss, .cnt] s (State.startRead s d die r) := by
  unfold State.startRead
  repeat' (first
      | extract_lets | with_reducible apply Frame.refl | exact rfl | with_reducible apply Frame.step (State.count_frame ..)
      | with_reducible apply Frame.step (State.modNand_frame ..) | with_reducible apply Frame.ite)

theorem State.raiseFetch_frame (s : State) (page : Nat) :
    Frame [.out, .fns, .dir, .flss, .cnt] s (State.raiseFetch s page) := by
  unfold State.raiseFetch
  repeat' (first
      | extract_lets | with_reducible apply Frame.refl | exact rfl | with_reducible apply Frame.step (State.modEnt_frame ..)
      | with_reducible apply Frame.step (State.startRead_frame ..) | with_reducible apply Frame.step (State.modNand_frame ..)
      | with_reducible apply Frame.eachTrans | with_reducible apply Frame.ite | split | intro _)

theorem State.accessPage_frame {l : List Piece} (s : State) (page : Nat) (wr : Option (BitVec 16)) (missed : State → State) (hl : ([.fresh, .out, .fns, .hbm, .dir, .dirs, .tables, .refRecs, .flss, .cnt].all fun f => l.contains f) = true) (hf : ∀ s, Frame l s (missed s)) :
    Frame l s (State.accessPage s page wr missed).2 := by
  unfold State.accessPage
  repeat' (first
      | extract_lets | with_reducible apply Frame.refl | exact rfl
      | (with_reducible apply Frame.step; (with_reducible apply State.zeroFrame_frame; with_reducible assumption))
      | with_reducible apply Frame.stepIn hl (State.cancelPrefetch_frame ..)
      | with_reducible apply Frame.stepIn hl (State.queueDemand_frame ..)
      | with_reducible apply Frame.stepIn hl (State.raiseFetch_frame ..)
      | with_reducible apply Frame.stepIn hl (State.modEnt_frame ..) | with_reducible apply Frame.after (hf ..)
      | (apply Frame.subTrans hl; exact rfl) | with_reducible apply Frame.iteSnd | split)

theorem State.countMiss_frame (s : State) (page : Nat) (ctx : Nat) (v : Visit) :
    Frame [.out, .fns, .cnt] s (State.countMiss s page ctx v) := by
  unfold State.countMiss
  repeat' (first
      | extract_lets | with_reducible apply Frame.refl | exact rfl
      | with_reducible apply Frame.step (State.countGnm_frame ..) | with_reducible apply Frame.ite)

theorem State.lookup_frame (s : State) (page : Nat) (wr : Option (BitVec 16)) (ctx : Nat) (cls : Option Nat) (v : Visit) :
    Frame [.fresh, .out, .fns, .hbm, .dir, .dirs, .tables, .refRecs, .flss, .cnt] s (State.lookup s page wr ctx cls v).2 := by
  unfold State.lookup
  repeat' (first
      | extract_lets | with_reducible apply Frame.refl | exact rfl | with_reducible apply Frame.step (State.look_frame ..)
      | with_reducible apply Frame.step (State.countMiss_frame ..)
      | with_reducible apply Frame.after (State.accessPage_frame ..) | with_reducible apply Frame.iteSnd | intro _)

theorem State.fetchHint_frame (s : State) (page : Nat) :
    Frame [.fresh] s (State.fetchHint s page).2 := by
  unfold State.fetchHint
  repeat' (first
      | extract_lets | with_reducible apply Frame.refl | exact rfl
      | with_reducible apply Frame.step (State.takeFree_frame ..) | with_reducible apply Frame.iteSnd)

theorem State.answerRetry_frame (s : State) (port : Nat) (vc : Nat) (ctx : Nat) (tag : Nat) (len : Nat) (cls : Nat) (retry : Nat) :
    Frame [.out, .fns, .ports, .cnt] s (State.answerRetry s port vc ctx tag len cls retry) := by
  unfold State.answerRetry
  repeat' (first
      | extract_lets | with_reducible apply Frame.refl | exact rfl | with_reducible apply Frame.step (State.count_frame ..)
      | with_reducible apply Frame.step (State.answer1_frame ..))

theorem State.retryMiss_frame (s : State) (q : Req) (page : Nat) :
    Frame [.fresh, .out, .fns, .ports, .cnt] s (State.retryMiss s q page) := by
  unfold State.retryMiss
  repeat' (first
      | extract_lets | with_reducible apply Frame.refl | exact rfl
      | with_reducible apply Frame.step (State.fetchHint_frame ..)
      | with_reducible apply Frame.step (State.answerRetry_frame ..) | with_reducible apply Frame.step (State.hop_frame ..)
      | with_reducible apply Frame.step (State.count_frame ..) | split)

theorem State.missed_frame (s : State) (q : Req) (page : Nat) :
    Frame [.fresh, .out, .fns, .cmds, .ports, .held, .cnt] s (State.missed s q page) := by
  unfold State.missed
  repeat' (first
      | extract_lets | with_reducible apply Frame.refl | exact rfl | with_reducible apply Frame.step (State.hold_frame ..)
      | with_reducible apply Frame.step (State.retryMiss_frame ..) | with_reducible apply Frame.step (State.replyTo_frame ..)
      | with_reducible apply Frame.ite | split)

theorem State.failReq_frame (s : State) (q : Req) (status : Nat) :
    Frame [.fresh, .out, .fns, .cmds, .ports, .disp, .cnt] s (State.failReq s q status) := by
  unfold State.failReq
  repeat' (first
      | extract_lets | with_reducible apply Frame.refl | exact rfl
      | with_reducible apply Frame.step (State.answerRead_frame ..)
      | with_reducible apply Frame.step (State.answerDone_frame ..) | with_reducible apply Frame.ite)

theorem State.tierRoute_frame (s : State) (q : Req) (r : Region) :
    Frame [.fresh, .out, .nextId, .fns, .cmds, .ports, .held, .leases, .hbm, .wbuf, .atoms, .dir, .dirs, .groups, .tables, .refRecs, .mems, .chds, .disp, .hbmStk, .flss, .elog, .cnt] s (State.tierRoute s q r) := by
  unfold State.tierRoute
  repeat' (first
      | extract_lets | with_reducible apply Frame.refl | exact rfl | with_reducible apply Frame.step (State.lookup_frame ..)
      | with_reducible apply Frame.step (State.answerRead_frame ..)
      | with_reducible apply Frame.step (State.forward_frame ..) | with_reducible apply Frame.step (State.hold_frame ..)
      | with_reducible apply Frame.step (State.missed_frame ..) | with_reducible apply Frame.step (State.failReq_frame ..)
      | with_reducible apply Frame.step (State.dataError_frame ..) | split)

theorem State.route_frame (s : State) (q : Req) :
    Frame [.fresh, .out, .nextId, .fns, .cmds, .ports, .held, .leases, .hbm, .wbuf, .atoms, .dir, .dirs, .groups, .tables, .refRecs, .mems, .chds, .disp, .hbmStk, .flss, .elog, .cnt] s (State.route s q) := by
  unfold State.route
  repeat' (first
      | extract_lets | with_reducible apply Frame.refl | exact rfl | with_reducible apply Frame.step (State.hold_frame ..)
      | with_reducible apply Frame.step (State.leaseRoute_frame ..)
      | with_reducible apply Frame.step (State.tierRoute_frame ..) | with_reducible apply Frame.step (State.atOrder_frame ..)
      | with_reducible apply Frame.ite | split)

theorem State.rerouted_frame (s : State) (p : Req → Bool) :
    Frame [.fresh, .out, .nextId, .fns, .cmds, .ports, .held, .leases, .hbm, .wbuf, .atoms, .dir, .dirs, .groups, .tables, .refRecs, .mems, .chds, .disp, .hbmStk, .flss, .elog, .cnt] s (State.rerouted s p) := by
  unfold State.rerouted
  repeat' (first
      | extract_lets | with_reducible apply Frame.refl | exact rfl | with_reducible apply Frame.step (State.route_frame ..)
      | with_reducible apply Frame.eachTrans | intro _ | with_reducible apply Frame.step (Frame.set_held ..))

theorem State.settleHeld_frame (s : State) (y0 : Nat) :
    Frame [.fresh, .out, .nextId, .fns, .cmds, .ports, .held, .leases, .hbm, .wbuf, .atoms, .dir, .dirs, .groups, .tables, .refRecs, .mems, .chds, .disp, .hbmStk, .flss, .elog, .cnt] s (State.settleHeld s y0) := by
  induction y0 generalizing s with
  | zero => (unfold State.settleHeld; repeat' (first
       | extract_lets
       | with_reducible apply Frame.refl
       | exact rfl
       | with_reducible apply Frame.step (State.rerouted_frame ..)
       | with_reducible apply Frame.after (ih ..)
       | with_reducible apply Frame.ite))
  | succ y0 ih =>
    (unfold State.settleHeld
     repeat' (first
         | extract_lets | with_reducible apply Frame.refl | exact rfl
         | with_reducible apply Frame.step (State.rerouted_frame ..) | with_reducible apply Frame.after (ih ..)
         | with_reducible apply Frame.ite))

theorem State.endMove_frame (s : State) (i : Nat) :
    Frame [.fresh, .out, .nextId, .fns, .regions, .cmds, .ports, .held, .leases, .hbm, .wbuf, .atoms, .dir, .dirs, .groups, .tables, .refRecs, .mems, .chds, .disp, .hbmStk, .flss, .elog, .cnt] s (State.endMove s i) := by
  unfold State.endMove
  repeat' (first
      | extract_lets | with_reducible apply Frame.refl | exact rfl
      | with_reducible apply Frame.step (State.rerouted_frame ..)
      | with_reducible apply Frame.step (State.setRegion_frame ..) | with_reducible apply Frame.step (State.replyTo_frame ..)
      | with_reducible apply Frame.step (State.settleHeld_frame ..) | with_reducible apply Frame.ite | split)

theorem State.settle_frame (s : State) :
    Frame [.fresh, .out, .nextId, .fns, .regions, .cmds, .ports, .held, .leases, .hbm, .wbuf, .atoms, .dir, .dirs, .groups, .tables, .refRecs, .mems, .chds, .disp, .hbmStk, .flss, .elog, .cnt] s (State.settle s) := by
  unfold State.settle
  repeat' (first
      | extract_lets | with_reducible apply Frame.refl | exact rfl
      | with_reducible apply Frame.step (State.settleHeld_frame ..)
      | with_reducible apply Frame.step (State.endMove_frame ..) | with_reducible apply Frame.eachTrans | intro _)

theorem State.pageReady_frame (s : State) (page : Nat) :
    Frame [.fresh, .out, .nextId, .fns, .regions, .cmds, .ports, .held, .leases, .hbm, .wbuf, .atoms, .dir, .dirs, .groups, .tables, .refRecs, .mems, .chds, .disp, .hbmStk, .flss, .elog, .cnt] s (State.pageReady s page) := by
  unfold State.pageReady
  repeat' (first
      | extract_lets | with_reducible apply Frame.refl | exact rfl | with_reducible apply Frame.step (State.settle_frame ..)
      | with_reducible apply Frame.step (State.rerouted_frame ..))

theorem State.reachTier_frame (s : State) (m : Mover) (t : Trans) (r : Region) (n : Nat) (write : Option Bool) :
    Frame [.fresh, .out, .nextId, .fns, .regions, .cmds, .ports, .held, .leases, .hbm, .wbuf, .atoms, .dir, .dirs, .groups, .tables, .refRecs, .mems, .chds, .disp, .hbmStk, .flss, .elog, .cnt] s (State.reachTier s m t r n write).2 := by
  unfold State.reachTier
  repeat' (first
      | extract_lets | with_reducible apply Frame.refl | exact rfl | with_reducible apply Frame.step (State.modEnt_frame ..)
      | with_reducible apply Frame.step (State.look_frame ..) | with_reducible apply Frame.step (State.moverHops_frame ..)
      | with_reducible apply Frame.step (State.dataError_frame ..)
      | (with_reducible apply Frame.step; (with_reducible apply State.coverPage_frame; with_reducible assumption))
      | with_reducible apply Frame.step (State.pageReady_frame ..)
      | with_reducible apply Frame.step (State.moverMiss_frame ..)
      | with_reducible apply Frame.step (State.countMiss_frame ..)
      | with_reducible apply Frame.after (State.accessPage_frame ..) | with_reducible apply Frame.iteSnd | split | intro _)

theorem State.through_frame (s : State) (w : Waiter) (t : Trans) :
    Frame [.disp, .xfers] s (State.through s w t) := by
  unfold State.through
  repeat' (first
      | extract_lets | with_reducible apply Frame.refl | exact rfl | with_reducible apply Frame.step (State.modXfer_frame ..)
      | with_reducible apply Frame.step (State.modRun_frame ..) | split)

theorem State.reachRegion_frame (s : State) (m : Mover) (t : Trans) (r : Region) (n : Nat) (write : Option Bool) :
    Frame [.fresh, .out, .nextId, .fns, .regions, .cmds, .ports, .held, .leases, .hbm, .wbuf, .atoms, .dir, .dirs, .groups, .tables, .refRecs, .mems, .chds, .disp, .hbmStk, .flss, .elog, .cnt] s (State.reachRegion s m t r n write).2 := by
  unfold State.reachRegion
  repeat' (first
      | extract_lets | with_reducible apply Frame.refl | exact rfl
      | with_reducible apply Frame.step (State.sendRecall_frame ..)
      | with_reducible apply Frame.step (State.reachTier_frame ..) | with_reducible apply Frame.iteSnd | split)

theorem State.reach_frame (s : State) (m : Mover) (la : Nat) (n : Nat) (p : Perm) (write : Option Bool) :
    Frame [.fresh, .out, .nextId, .fns, .regions, .cmds, .ports, .held, .leases, .hbm, .wbuf, .atoms, .dir, .dirs, .groups, .tables, .refRecs, .mems, .chds, .disp, .xfers, .hbmStk, .flss, .elog, .cnt] s (State.reach s m la n p write).2 := by
  unfold State.reach
  repeat' (first
      | extract_lets | with_reducible apply Frame.refl | exact rfl
      | with_reducible apply Frame.step (State.reachRegion_frame ..)
      | with_reducible apply Frame.step (State.through_frame ..) | with_reducible apply Frame.iteSnd | split)

theorem State.readReached_frame {l : List Piece} {s : State} {m : Mover} {la n : Nat} {o : Reach × State}
    (hl : ([.fresh, .out, .fns, .mems, .chds, .hbmStk, .elog, .cnt].all fun f => l.contains f) = true) (h : Frame l s o.2) :
    Frame l s (State.readReached m la n o).2 := by
  unfold State.readReached
  repeat' (first
      | extract_lets | exact rfl | with_reducible assumption
      | with_reducible apply Frame.stepIn hl (State.moverHops_frame ..)
      | with_reducible apply Frame.stepIn hl (State.readLines_frame ..) | split
      | with_reducible exact hl | (apply Frame.subTrans hl; exact rfl))

theorem State.readPiece_frame (s : State) (m : Mover) (la : Nat) (n : Nat) :
    Frame [.fresh, .out, .nextId, .fns, .regions, .cmds, .ports, .held, .leases, .hbm, .wbuf, .atoms, .dir, .dirs, .groups, .tables, .refRecs, .mems, .chds, .disp, .xfers, .hbmStk, .flss, .elog, .cnt] s (State.readPiece s m la n).2 := by
  unfold State.readPiece
  repeat' (first
      | with_reducible apply State.readReached_frame | extract_lets | with_reducible apply Frame.refl | exact rfl
      | with_reducible apply Frame.step (State.reach_frame ..))

theorem State.readPieces_frame (s : State) (m : Mover) (y0 : List (Nat × Nat)) :
    Frame [.fresh, .out, .nextId, .fns, .regions, .cmds, .ports, .held, .leases, .hbm, .wbuf, .atoms, .dir, .dirs, .groups, .tables, .refRecs, .mems, .chds, .disp, .xfers, .hbmStk, .flss, .elog, .cnt] s (State.readPieces s m y0).2 := by
  induction y0 generalizing s with
  | nil => (unfold State.readPieces; repeat' (first
       | extract_lets
       | with_reducible apply Frame.refl
       | exact rfl
       | with_reducible apply Frame.step (State.readPiece_frame ..)
       | with_reducible apply Frame.after (ih ..)
       | split))
  | cons a y0 ih =>
    (unfold State.readPieces
     repeat' (first
         | extract_lets | with_reducible apply Frame.refl | exact rfl
         | with_reducible apply Frame.step (State.readPiece_frame ..) | with_reducible apply Frame.after (ih ..) | split))

theorem State.moverRead_frame (s : State) (m : Mover) (la : Nat) (len : Nat) :
    Frame [.fresh, .out, .nextId, .fns, .regions, .cmds, .ports, .held, .leases, .hbm, .wbuf, .atoms, .dir, .dirs, .groups, .tables, .refRecs, .mems, .chds, .disp, .xfers, .hbmStk, .flss, .elog, .cnt] s (State.moverRead s m la len).2 := by
  unfold State.moverRead
  repeat' (first
      | extract_lets | with_reducible apply Frame.refl | exact rfl
      | with_reducible apply Frame.step (State.readPieces_frame ..))

theorem State.writePiece_frame (s : State) (m : Mover) (la : Nat) (data : List Line) (whole : Bool) :
    Frame [.fresh, .out, .nextId, .fns, .regions, .cmds, .ports, .held, .leases, .hbm, .wbuf, .atoms, .dir, .dirs, .groups, .tables, .refRecs, .mems, .chds, .disp, .xfers, .hbmStk, .flss, .elog, .cnt] s (State.writePiece s m la data whole).2 := by
  unfold State.writePiece
  repeat' (first
      | extract_lets | with_reducible apply Frame.refl | exact rfl | with_reducible apply Frame.step (State.reach_frame ..)
      | with_reducible apply Frame.step (State.moverHops_frame ..)
      | with_reducible apply Frame.step (State.dataError_frame ..)
      | with_reducible apply Frame.step (State.putLines_frame ..) | with_reducible apply Frame.iteSnd | split)

theorem State.writePieces_frame (s : State) (m : Mover) (whole : Nat → Bool) (y0 : List (Nat × Nat)) (y1 : List Line) :
    Frame [.fresh, .out, .nextId, .fns, .regions, .cmds, .ports, .held, .leases, .hbm, .wbuf, .atoms, .dir, .dirs, .groups, .tables, .refRecs, .mems, .chds, .disp, .xfers, .hbmStk, .flss, .elog, .cnt] s (State.writePieces s m whole y0 y1).2 := by
  induction y0 generalizing s whole y1 with
  | nil => (unfold State.writePieces; repeat' (first
       | extract_lets
       | with_reducible apply Frame.refl
       | exact rfl
       | with_reducible apply Frame.step (State.writePiece_frame ..)
       | with_reducible apply Frame.after (ih ..)
       | split))
  | cons a y0 ih =>
    (unfold State.writePieces
     repeat' (first
         | extract_lets | with_reducible apply Frame.refl | exact rfl
         | with_reducible apply Frame.step (State.writePiece_frame ..) | with_reducible apply Frame.after (ih ..) | split))

theorem State.moverWrite_frame (s : State) (m : Mover) (la : Nat) (data : List Line) (whole : Nat → Bool) :
    Frame [.fresh, .out, .nextId, .fns, .regions, .cmds, .ports, .held, .leases, .hbm, .wbuf, .atoms, .dir, .dirs, .groups, .tables, .refRecs, .mems, .chds, .disp, .xfers, .hbmStk, .flss, .elog, .cnt] s (State.moverWrite s m la data whole).2 := by
  unfold State.moverWrite
  repeat' (first
      | extract_lets | with_reducible apply Frame.refl | exact rfl
      | with_reducible apply Frame.step (State.writePieces_frame ..))

theorem State.moverAcc_frame (s : State) (m : Mover) (la : Nat) (awidth : Nat) (data : List Line) :
    Frame [.fresh, .out, .nextId, .fns, .regions, .cmds, .ports, .held, .leases, .hbm, .wbuf, .atoms, .dir, .dirs, .groups, .tables, .refRecs, .mems, .chds, .disp, .xfers, .hbmStk, .flss, .elog, .cnt] s (State.moverAcc s m la awidth data).2 := by
  unfold State.moverAcc
  repeat' (first
      | extract_lets | with_reducible apply Frame.refl | exact rfl | with_reducible apply Frame.step (State.reach_frame ..)
      | with_reducible apply Frame.step (State.accumulate_frame ..)
      | with_reducible apply Frame.step (State.moverHops_frame ..) | with_reducible apply Frame.iteSnd | split)

theorem State.moverVadd_frame (s : State) (m : Mover) (la : Nat) (awidth : Nat) (v : Line) :
    Frame [.fresh, .out, .nextId, .fns, .regions, .cmds, .ports, .held, .leases, .hbm, .wbuf, .atoms, .dir, .dirs, .groups, .tables, .refRecs, .mems, .chds, .disp, .xfers, .hbmStk, .flss, .elog, .cnt] s (State.moverVadd s m la awidth v).2 := by
  unfold State.moverVadd
  repeat' (first
      | extract_lets | with_reducible apply Frame.refl | exact rfl | with_reducible apply Frame.step (State.reach_frame ..)
      | with_reducible apply Frame.step (State.atomicVadd_frame ..)
      | with_reducible apply Frame.step (State.moverHops_frame ..) | with_reducible apply Frame.iteSnd | split)

theorem State.readAndZero_frame (s : State) (r : Region) (line : Nat) (n : Nat) (ctx : Nat) (pri : Pri) :
    Frame [.fresh, .out, .nextId, .fns, .hbm, .wbuf, .groups, .tables, .refRecs, .mems, .chds, .hbmStk, .elog, .cnt] s (State.readAndZero s r line n ctx pri).2 := by
  unfold State.readAndZero
  repeat' (first
      | extract_lets | with_reducible apply Frame.refl | exact rfl
      | with_reducible apply Frame.step (State.readLines_frame ..)
      | with_reducible apply Frame.step (State.putLines_frame ..) | with_reducible apply Frame.iteSnd)

theorem State.moverReadZero_frame (s : State) (m : Mover) (la : Nat) (n : Nat) :
    Frame [.fresh, .out, .nextId, .fns, .regions, .cmds, .ports, .held, .leases, .hbm, .wbuf, .atoms, .dir, .dirs, .groups, .tables, .refRecs, .mems, .chds, .disp, .xfers, .hbmStk, .flss, .elog, .cnt] s (State.moverReadZero s m la n).2 := by
  unfold State.moverReadZero
  repeat' (first
      | extract_lets | with_reducible apply Frame.refl | exact rfl | with_reducible apply Frame.step (State.reach_frame ..)
      | with_reducible apply Frame.step (State.readAndZero_frame ..)
      | with_reducible apply Frame.step (State.moverHops_frame ..) | with_reducible apply Frame.iteSnd | split)

theorem State.setFlashPair_frame (s : State) (page : Nat) (a : Nat) (b : Nat) :
    Frame [.tables, .refRecs] s (State.setFlashPair s page a b) := by
  unfold State.setFlashPair
  repeat' (first
      | extract_lets | with_reducible apply Frame.refl | exact rfl | with_reducible apply Frame.step (State.dropRef_frame ..)
      | with_reducible apply Frame.step (State.addRef_frame ..) | with_reducible apply Frame.step (Frame.set_refRecs ..))

theorem State.abandonBuild_frame (s : State) (region : Nat) (g : Nat) :
    Frame [.groups, .mems] s (State.abandonBuild s region g) := by
  unfold State.abandonBuild
  repeat' (first
      | extract_lets | with_reducible apply Frame.refl | exact rfl | with_reducible apply Frame.step (State.modMem_frame ..)
      | with_reducible apply Frame.step (State.modGroup_frame ..))

theorem State.restoreGroups_frame (s : State) (ri : Nat) (was : List (Nat × Group)) :
    Frame [.groups] s (State.restoreGroups s ri was) := by
  unfold State.restoreGroups
  repeat' (first
      | extract_lets | with_reducible apply Frame.refl | exact rfl
      | with_reducible apply Frame.step (State.modGroup_frame ..) | with_reducible apply Frame.eachTrans | intro _)

theorem State.endBuilds_frame (s : State) (ri : Nat) (groups : Nat) :
    Frame [.groups] s (State.endBuilds s ri groups) := by
  unfold State.endBuilds
  repeat' (first
      | extract_lets | with_reducible apply Frame.refl | exact rfl
      | with_reducible apply Frame.step (State.modGroup_frame ..) | with_reducible apply Frame.eachTrans | intro _)

theorem State.leaveHold_frame (s : State) (q : Req) :
    Frame [.out, .fns, .ports, .cnt] s (State.leaveHold s q) := by
  unfold State.leaveHold
  repeat' (first
      | extract_lets | with_reducible apply Frame.refl | exact rfl | with_reducible apply Frame.step (State.owe_frame ..)
      | with_reducible apply Frame.step (State.hop_frame ..) | with_reducible apply Frame.ite | split)

theorem State.cxlRefuse_frame (s : State) (tag : Nat) (read : Bool) :
    Frame [.out, .hep, .fns, .cnt] s (State.cxlRefuse s tag read) := by
  unfold State.cxlRefuse
  repeat' (first
      | extract_lets | with_reducible apply Frame.refl | exact rfl | with_reducible apply Frame.step (State.modHep_frame ..)
      | with_reducible apply Frame.step (State.count_frame ..) | with_reducible apply Frame.step (State.emit_frame ..)
      | with_reducible apply Frame.ite)

theorem State.refuseHeld_frame (s : State) (p : Req → Bool) :
    Frame [.fresh, .out, .nextId, .hep, .fns, .regions, .cmds, .ports, .held, .leases, .hbm, .wbuf, .atoms, .dir, .dirs, .groups, .tables, .refRecs, .mems, .chds, .disp, .hbmStk, .flss, .elog, .cnt] s (State.refuseHeld s p) := by
  unfold State.refuseHeld
  repeat' (first
      | extract_lets | with_reducible apply Frame.refl | exact rfl | with_reducible apply Frame.step (State.settle_frame ..)
      | with_reducible apply Frame.step (State.leaveHold_frame ..)
      | with_reducible apply Frame.step (State.answerErr_frame ..)
      | with_reducible apply Frame.step (State.cxlRefuse_frame ..) | with_reducible apply Frame.step (State.replyTo_frame ..)
      | with_reducible apply Frame.eachTrans | split | intro _ | with_reducible apply Frame.step (Frame.set_held ..))

theorem State.forgetWaits_frame (s : State) (p : Waiter → Bool) :
    Frame [.dir] s (State.forgetWaits s p) := by
  unfold State.forgetWaits
  repeat' (first
      | extract_lets | with_reducible apply Frame.refl | exact rfl | with_reducible apply Frame.step (State.modEnt_frame ..)
      | with_reducible apply Frame.eachTrans | intro _)

theorem State.rewriteSegment_frame (s : State) (d : Nat) (seg : Nat) :
    Frame [.flss, .saved] s (State.rewriteSegment s d seg) := by
  unfold State.rewriteSegment
  repeat' (first
      | extract_lets | with_reducible apply Frame.refl | exact rfl | with_reducible apply Frame.step (State.modFls_frame ..)
      | with_reducible apply Frame.step (Frame.set_saved ..))

theorem State.dropSaved_frame (s : State) :
    Frame [.saved] s (State.dropSaved s) := by
  unfold State.dropSaved
  repeat' (first
      | extract_lets | with_reducible apply Frame.refl | exact rfl | with_reducible apply Frame.step (Frame.set_saved ..))

theorem State.journalSaved_frame (s : State) (d : Nat) :
    Frame [.flss, .saved, .journals] s (State.journalSaved s d) := by
  unfold State.journalSaved
  repeat' (first
      | extract_lets | with_reducible apply Frame.refl | exact rfl | with_reducible apply Frame.step (State.modFls_frame ..)
      | with_reducible apply Frame.step (State.dropSaved_frame ..)
      | with_reducible apply Frame.step (Frame.set_saved_journals ..))

theorem State.journalMap_frame (s : State) (d : Nat) (page : Nat) (commit : Bool) :
    Frame [.nextId, .flss, .saved, .journals] s (State.journalMap s d page commit) := by
  unfold State.journalMap
  repeat' (first
      | extract_lets | with_reducible apply Frame.refl | exact rfl | with_reducible apply Frame.step (State.takeId_frame ..)
      | with_reducible apply Frame.step (State.modFls_frame ..)
      | with_reducible apply Frame.step (State.rewriteSegment_frame ..)
      | with_reducible apply Frame.step (State.journalSaved_frame ..) | with_reducible apply Frame.ite
      | with_reducible apply Frame.step (Frame.set_journals ..))

theorem State.saveFlash_frame (s : State) (page : Nat) :
    Frame [.saved] s (State.saveFlash s page) := by
  unfold State.saveFlash
  repeat' (first
      | extract_lets | with_reducible apply Frame.refl | exact rfl | with_reducible apply Frame.ite
      | with_reducible apply Frame.step (Frame.set_saved ..))

theorem State.trim_frame (s : State) (page : Nat) :
    Frame [.nextId, .staged, .flash, .tables, .refRecs, .flss, .fmap, .images, .saved, .journals] s (State.trim s page) := by
  unfold State.trim
  repeat' (first
      | extract_lets | with_reducible apply Frame.refl | exact rfl
      | with_reducible apply Frame.step (State.journalMap_frame ..)
      | with_reducible apply Frame.step (State.setFlashPair_frame ..)
      | with_reducible apply Frame.step (State.saveFlash_frame ..) | split
      | with_reducible apply Frame.step (Frame.set_staged_flash_fmap_images ..))

theorem State.leaveSet_frame (s : State) (page : Nat) (zero : Bool) :
    Frame [.dirs, .hbmStk] s (State.leaveSet s page zero) := by
  unfold State.leaveSet
  repeat' (first
      | extract_lets | with_reducible apply Frame.refl | exact rfl
      | with_reducible apply Frame.step (State.modStack_frame ..) | with_reducible apply Frame.step (State.modDir_frame ..)
      | with_reducible apply Frame.eachTrans | split | intro _)

theorem State.freeFrame_frame (s : State) (page : Nat) (zero : Bool) :
    Frame [.wbuf, .dirs, .hbmStk] s (State.freeFrame s page zero) := by
  unfold State.freeFrame
  repeat' (first
      | extract_lets | with_reducible apply Frame.refl | exact rfl
      | with_reducible apply Frame.step (State.modStack_frame ..) | with_reducible apply Frame.step (State.modDir_frame ..)
      | with_reducible apply Frame.step (State.leaveSet_frame ..) | with_reducible apply Frame.ite
      | with_reducible apply Frame.step (Frame.set_wbuf ..))

theorem State.freePage_frame (s : State) (page : Nat) :
    Frame [.wbuf, .dir, .dirs, .tables, .refRecs, .hbmStk] s (State.freePage s page) := by
  unfold State.freePage
  repeat' (first
      | extract_lets | with_reducible apply Frame.refl | exact rfl
      | with_reducible apply Frame.step (State.cancelPrefetch_frame ..)
      | with_reducible apply Frame.step (State.modDir_frame ..)
      | with_reducible apply Frame.step (State.setFramePair_frame ..)
      | with_reducible apply Frame.step (State.settlePressure_frame ..)
      | with_reducible apply Frame.step (State.modEnt_frame ..) | with_reducible apply Frame.step (State.freeFrame_frame ..)
      | with_reducible apply Frame.ite | split)

theorem State.leaveDie_frame (s : State) (page : Nat) :
    Frame [.flss] s (State.leaveDie s page) := by
  unfold State.leaveDie
  repeat' (first
      | extract_lets | with_reducible apply Frame.refl | exact rfl | with_reducible apply Frame.step (State.modFls_frame ..)
      | with_reducible apply Frame.eachTrans | intro _)

theorem State.dispatchReq_frame (s : State) (q : Req) :
    Frame [.fresh, .out, .nextId, .fns, .regions, .cmds, .ports, .held, .leases, .hbm, .wbuf, .atoms, .dir, .dirs, .groups, .tables, .refRecs, .mems, .chds, .disp, .hbmStk, .flss, .elog, .cnt] s (State.dispatchReq s q) := by
  unfold State.dispatchReq
  repeat' (first
      | extract_lets | with_reducible apply Frame.refl | exact rfl | with_reducible apply Frame.step (State.settle_frame ..)
      | with_reducible apply Frame.step (State.route_frame ..) | with_reducible apply Frame.step (State.hop_frame ..))

theorem State.retryInvalid_frame (s : State) (d : Nat) :
    Frame [.fresh, .out, .nextId, .fns, .regions, .cmds, .ports, .held, .leases, .hbm, .wbuf, .atoms, .dir, .dirs, .groups, .tables, .refRecs, .mems, .chds, .disp, .hbmStk, .flss, .elog, .cnt] s (State.retryInvalid s d) := by
  unfold State.retryInvalid
  repeat' (first
      | extract_lets | with_reducible apply Frame.refl | exact rfl | with_reducible apply Frame.step (State.settle_frame ..)
      | with_reducible apply Frame.step (State.rerouted_frame ..))

theorem State.startWriteback_frame (s : State) (page : Nat) (evicting : Bool) :
    Frame [.fresh, .out, .fns, .dir, .dirs, .cnt] s (State.startWriteback s page evicting) := by
  unfold State.startWriteback
  repeat' (first
      | extract_lets | with_reducible apply Frame.refl | exact rfl | with_reducible apply Frame.step (State.modEnt_frame ..)
      | with_reducible apply Frame.step (State.cacheEntry_frame ..))

theorem State.ckptCommitted_frame (s : State) (page : Nat) :
    Frame [.fresh, .out, .fns, .cmds, .ports, .dir, .dirs, .cnt] s (State.ckptCommitted s page) := by
  unfold State.ckptCommitted
  repeat' (first
      | extract_lets | with_reducible apply Frame.refl | exact rfl | with_reducible apply Frame.step (State.reply_frame ..)
      | with_reducible apply Frame.step (State.modCmd_frame ..)
      | with_reducible apply Frame.step (State.startWriteback_frame ..) | with_reducible apply Frame.eachTrans
      | with_reducible apply Frame.ite | intro _)

theorem State.refetch_frame (s : State) (page : Nat) :
    Frame [.fresh, .dir, .dirs] s (State.refetch s page) := by
  unfold State.refetch
  repeat' (first
      | extract_lets | with_reducible apply Frame.refl | exact rfl
      | (with_reducible apply Frame.step; (with_reducible apply State.takeFrame_frame; with_reducible assumption))
      | with_reducible apply Frame.step (State.modEnt_frame ..) | split)

theorem State.joinDie_frame (s : State) (page : Nat) (demand : Bool) :
    Frame [.out, .fns, .flss, .cnt] s (State.joinDie s page demand) := by
  unfold State.joinDie
  repeat' (first
      | extract_lets | with_reducible apply Frame.refl | exact rfl
      | with_reducible apply Frame.step (State.startRead_frame ..) | with_reducible apply Frame.step (State.modNand_frame ..)
      | with_reducible apply Frame.ite | split)

theorem State.committed_frame (s : State) (page : Nat) :
    Frame [.fresh, .out, .fns, .hbm, .wbuf, .dir, .dirs, .tables, .refRecs, .hbmStk, .flss, .cnt] s (State.committed s page) := by
  unfold State.committed
  repeat' (first
      | extract_lets | with_reducible apply Frame.refl | exact rfl
      | with_reducible apply Frame.step (State.countGnm_frame ..) | with_reducible apply Frame.step (State.fixed_frame ..)
      | with_reducible apply Frame.step (State.modEnt_frame ..)
      | with_reducible apply Frame.step (State.setFramePair_frame ..)
      | with_reducible apply Frame.step (State.settlePressure_frame ..)
      | with_reducible apply Frame.step (State.refetch_frame ..) | with_reducible apply Frame.step (State.joinDie_frame ..)
      | with_reducible apply Frame.step (State.modDir_frame ..)
      | with_reducible apply Frame.step (State.queueDemand_frame ..)
      | with_reducible apply Frame.step (State.freeFrame_frame ..) | with_reducible apply Frame.step (State.modHbm_frame ..)
      | with_reducible apply Frame.ite)

theorem State.fetched_frame (s : State) (page : Nat) :
    Frame [.hbm, .wbuf, .dir, .dirs, .tables, .refRecs, .hbmStk, .cnt] s (State.fetched s page) := by
  unfold State.fetched
  repeat' (first
      | extract_lets | with_reducible apply Frame.refl | exact rfl | with_reducible apply Frame.step (State.modDir_frame ..)
      | with_reducible apply Frame.step (State.settlePressure_frame ..)
      | with_reducible apply Frame.step (State.modEnt_frame ..)
      | with_reducible apply Frame.step (State.setFramePair_frame ..)
      | with_reducible apply Frame.step (State.freeFrame_frame ..) | with_reducible apply Frame.step (State.modHbm_frame ..)
      | with_reducible apply Frame.step (State.fixed_frame ..) | with_reducible apply Frame.eachTrans
      | with_reducible apply Frame.ite | intro _)

theorem State.ckptResume_frame (s : State) (page : Nat) :
    Frame [.fresh, .out, .fns, .dir, .dirs, .cnt] s (State.ckptResume s page) := by
  unfold State.ckptResume
  repeat' (first
      | extract_lets | with_reducible apply Frame.refl | exact rfl
      | with_reducible apply Frame.step (State.startWriteback_frame ..) | with_reducible apply Frame.ite)

theorem State.evict_frame (s : State) (page : Nat) :
    Frame [.fresh, .out, .fns, .hbm, .wbuf, .dir, .dirs, .tables, .refRecs, .hbmStk, .cnt] s (State.evict s page) := by
  unfold State.evict
  repeat' (first
      | extract_lets | with_reducible apply Frame.refl | exact rfl
      | with_reducible apply Frame.step (State.cacheEntry_frame ..)
      | with_reducible apply Frame.step (State.freeFrame_frame ..) | with_reducible apply Frame.step (State.modHbm_frame ..)
      | with_reducible apply Frame.step (State.setFramePair_frame ..)
      | with_reducible apply Frame.step (State.modEnt_frame ..)
      | with_reducible apply Frame.step (State.settlePressure_frame ..)
      | with_reducible apply Frame.step (State.countGnm_frame ..)
      | with_reducible apply Frame.step (State.startWriteback_frame ..) | with_reducible apply Frame.ite | split)

theorem State.deferred_frame (s : State) (page : Nat) :
    Frame [.fresh, .out, .fns, .hbm, .wbuf, .dir, .dirs, .tables, .refRecs, .hbmStk, .cnt] s (State.deferred s page) := by
  unfold State.deferred
  repeat' (first
      | extract_lets | with_reducible apply Frame.refl | exact rfl | with_reducible apply Frame.step (State.evict_frame ..)
      | with_reducible apply Frame.ite)

theorem State.fetchFail_frame (s : State) (page : Nat) :
    Frame [.wbuf, .dir, .dirs, .tables, .refRecs, .hbmStk] s (State.fetchFail s page) := by
  unfold State.fetchFail
  repeat' (first
      | extract_lets | with_reducible apply Frame.refl | exact rfl | with_reducible apply Frame.step (State.modDir_frame ..)
      | with_reducible apply Frame.step (State.setFramePair_frame ..)
      | with_reducible apply Frame.step (State.freeFrame_frame ..) | with_reducible apply Frame.step (State.modEnt_frame ..)
      | with_reducible apply Frame.step (State.settlePressure_frame ..) | with_reducible apply Frame.ite)

theorem State.ckptFail_frame (s : State) (page : Nat) (status : Nat) :
    Frame [.fresh, .out, .fns, .cmds, .ports, .cnt] s (State.ckptFail s page status) := by
  unfold State.ckptFail
  repeat' (first
      | extract_lets | with_reducible apply Frame.refl | exact rfl | with_reducible apply Frame.step (State.reply_frame ..)
      | with_reducible apply Frame.eachTrans | intro _)

theorem State.failHeld_frame (s : State) (page : Nat) (status : Nat) :
    Frame [.fresh, .out, .nextId, .fns, .regions, .cmds, .ports, .held, .leases, .hbm, .wbuf, .atoms, .dir, .dirs, .groups, .tables, .refRecs, .mems, .chds, .disp, .hbmStk, .flss, .elog, .cnt] s (State.failHeld s page status) := by
  unfold State.failHeld
  repeat' (first
      | extract_lets | with_reducible apply Frame.refl | exact rfl | with_reducible apply Frame.step (State.settle_frame ..)
      | with_reducible apply Frame.step (State.failReq_frame ..) | with_reducible apply Frame.eachTrans | intro _
      | with_reducible apply Frame.step (Frame.set_held ..))

theorem State.loseFrame_frame (s : State) (page : Nat) (kind : Nat) :
    Frame [.fresh, .out, .fns, .hbm, .wbuf, .dir, .dirs, .tables, .refRecs, .hbmStk, .flss, .cnt] s (State.loseFrame s page kind) := by
  unfold State.loseFrame
  repeat' (first
      | extract_lets | with_reducible apply Frame.refl | exact rfl
      | with_reducible apply Frame.step (State.cacheEntry_frame ..)
      | with_reducible apply Frame.step (State.freeFrame_frame ..) | with_reducible apply Frame.step (State.modEnt_frame ..)
      | with_reducible apply Frame.step (State.setFramePair_frame ..)
      | with_reducible apply Frame.step (State.modDir_frame ..)
      | with_reducible apply Frame.step (State.settlePressure_frame ..)
      | with_reducible apply Frame.step (State.refetch_frame ..) | with_reducible apply Frame.step (State.joinDie_frame ..)
      | with_reducible apply Frame.step (State.modHbm_frame ..)
      | (with_reducible apply Frame.step; (with_reducible apply State.zeroFrame_frame; with_reducible assumption))
      | with_reducible apply Frame.ite | split)

theorem State.tangentPath_frame (s : State) (q : Req) (spare : Bool) :
    Frame [.out, .fns, .qos, .cnt] s (State.tangentPath s q spare).2 := by
  unfold State.tangentPath
  repeat' (first
      | extract_lets | with_reducible apply Frame.refl | exact rfl | with_reducible apply Frame.step (State.modReg_frame ..)
      | with_reducible apply Frame.step (State.count_frame ..) | with_reducible apply Frame.iteSnd | split)

theorem State.chargeReq_frame (s : State) (q : Req) (r : Region) (spare : Bool) :
    Frame [.out, .fns, .qos, .cnt] s (State.chargeReq s q r spare) := by
  unfold State.chargeReq
  repeat' (first
      | extract_lets | with_reducible apply Frame.refl | exact rfl | with_reducible apply Frame.step (State.modReg_frame ..)
      | with_reducible apply Frame.step (State.modCnt_frame ..) | with_reducible apply Frame.step (State.count_frame ..)
      | with_reducible apply Frame.ite | split | dsimp +zetaDelta only [id])

theorem State.admitReq_frame (s : State) (q : Req) (r : Region) (spare : Bool) :
    Frame [.fresh, .out, .nextId, .fns, .regions, .cmds, .ports, .held, .leases, .hbm, .wbuf, .atoms, .qos, .dir, .dirs, .groups, .tables, .refRecs, .mems, .chds, .disp, .hbmStk, .flss, .elog, .cnt] s (State.admitReq s q r spare) := by
  unfold State.admitReq
  repeat' (first
      | extract_lets | with_reducible apply Frame.refl | exact rfl
      | with_reducible apply Frame.step (State.tangentPath_frame ..)
      | with_reducible apply Frame.step (State.dispatchReq_frame ..)
      | with_reducible apply Frame.step (State.chargeReq_frame ..))

theorem State.releaseHeld_frame (s : State) (q : Req) (spare : Bool) :
    Frame [.fresh, .out, .nextId, .fns, .regions, .cmds, .ports, .held, .leases, .hbm, .wbuf, .atoms, .qos, .dir, .dirs, .groups, .tables, .refRecs, .mems, .chds, .disp, .hbmStk, .flss, .elog, .cnt] s (State.releaseHeld s q spare) := by
  unfold State.releaseHeld
  repeat' (first
      | extract_lets | with_reducible apply Frame.refl | exact rfl | with_reducible apply Frame.step (State.owe_frame ..)
      | with_reducible apply Frame.step (State.admitReq_frame ..) | split
      | with_reducible apply Frame.step (Frame.set_held ..))

theorem State.placePage_frame (s : State) (page : Nat) :
    Frame [.hbmStk] s (State.placePage s page) := by
  unfold State.placePage
  repeat' (first
      | extract_lets | with_reducible apply Frame.refl | exact rfl
      | with_reducible apply Frame.step (State.modStack_frame ..) | with_reducible apply Frame.ite)

theorem State.freeReq_frame (s : State) (port : Nat) (tag : Nat) :
    Frame [.out, .fns, .ports, .leases, .cnt] s (State.freeReq s port tag) := by
  unfold State.freeReq
  repeat' (first
      | extract_lets | with_reducible apply Frame.refl | exact rfl
      | with_reducible apply Frame.step (State.tagFreed_frame ..) | with_reducible apply Frame.step (State.modPort_frame ..))

theorem State.windowHint_frame (s : State) :
    Frame [.fresh] s (State.windowHint s).2 := by
  unfold State.windowHint
  repeat' (first
      | extract_lets | with_reducible apply Frame.refl | exact rfl
      | with_reducible apply Frame.step (State.takeFree_frame ..))

theorem State.regulate_frame (s : State) (q : Req) (r : Region) :
    Frame [.fresh, .out, .nextId, .fns, .regions, .cmds, .ports, .held, .leases, .hbm, .wbuf, .atoms, .qos, .dir, .dirs, .groups, .tables, .refRecs, .mems, .chds, .disp, .hbmStk, .flss, .elog, .cnt] s (State.regulate s q r) := by
  unfold State.regulate
  repeat' (first
      | extract_lets | with_reducible apply Frame.refl | exact rfl
      | with_reducible apply Frame.step (State.admitReq_frame ..)
      | with_reducible apply Frame.step (State.windowHint_frame ..)
      | with_reducible apply Frame.step (State.answerRetry_frame ..) | with_reducible apply Frame.step (State.hold_frame ..)
      | with_reducible apply Frame.ite | split)

theorem State.releaseInShare_frame (s : State) (reg : Nat) (ctx : Nat) (y0 : Nat) :
    Frame [.fresh, .out, .nextId, .fns, .regions, .cmds, .ports, .held, .leases, .hbm, .wbuf, .atoms, .qos, .dir, .dirs, .groups, .tables, .refRecs, .mems, .chds, .disp, .hbmStk, .flss, .elog, .cnt] s (State.releaseInShare s reg ctx y0) := by
  induction y0 generalizing s reg ctx with
  | zero => (unfold State.releaseInShare; repeat' (first
       | extract_lets
       | with_reducible apply Frame.refl
       | exact rfl
       | with_reducible apply Frame.step (State.releaseHeld_frame ..)
       | with_reducible apply Frame.after (ih ..)
       | with_reducible apply Frame.ite
       | split))
  | succ y0 ih =>
    (unfold State.releaseInShare
     repeat' (first
         | extract_lets | with_reducible apply Frame.refl | exact rfl
         | with_reducible apply Frame.step (State.releaseHeld_frame ..) | with_reducible apply Frame.after (ih ..)
         | with_reducible apply Frame.ite | split))

theorem State.windowBoundary_frame (s : State) (reg : Nat) :
    Frame [.fresh, .out, .nextId, .fns, .regions, .cmds, .ports, .held, .leases, .hbm, .wbuf, .atoms, .qos, .dir, .dirs, .groups, .tables, .refRecs, .mems, .chds, .disp, .hbmStk, .flss, .elog, .cnt] s (State.windowBoundary s reg) := by
  unfold State.windowBoundary
  repeat' (first
      | extract_lets | with_reducible apply Frame.refl | exact rfl | with_reducible apply Frame.step (State.modReg_frame ..)
      | with_reducible apply Frame.step (State.modCnt_frame ..)
      | with_reducible apply Frame.step (State.releaseInShare_frame ..) | with_reducible apply Frame.eachTrans | intro _)

theorem State.spareRelease_frame (s : State) (reg : Nat) (hub : Nat) :
    Frame [.fresh, .out, .nextId, .fns, .regions, .cmds, .ports, .held, .leases, .hbm, .wbuf, .atoms, .qos, .dir, .dirs, .groups, .tables, .refRecs, .mems, .chds, .disp, .hbmStk, .flss, .elog, .cnt] s (State.spareRelease s reg hub) := by
  unfold State.spareRelease
  repeat' (first
      | extract_lets | with_reducible apply Frame.refl | exact rfl
      | with_reducible apply Frame.step (State.releaseHeld_frame ..)
      | with_reducible apply Frame.step (State.modReg_frame ..) | split | dsimp +zetaDelta only [id])

theorem State.splitBudget_frame (s : State) (ctx : Nat) :
    Frame [.qos] s (State.splitBudget s ctx) := by
  unfold State.splitBudget
  repeat' (first
      | extract_lets | with_reducible apply Frame.refl | exact rfl | with_reducible apply Frame.step (State.modReg_frame ..)
      | with_reducible apply Frame.eachTrans | intro _)

theorem State.rebalance_frame (s : State) :
    Frame [.qos] s (State.rebalance s) := by
  unfold State.rebalance
  repeat' (first
      | extract_lets | with_reducible apply Frame.refl | exact rfl | with_reducible apply Frame.step (State.modReg_frame ..)
      | with_reducible apply Frame.step (State.splitBudget_frame ..) | with_reducible apply Frame.eachTrans
      | with_reducible apply Frame.ite | intro _)

theorem State.holdExpired_frame (s : State) (id : Nat) :
    Frame [.fresh, .out, .nextId, .fns, .regions, .cmds, .ports, .held, .leases, .hbm, .wbuf, .atoms, .dir, .dirs, .groups, .tables, .refRecs, .mems, .chds, .disp, .hbmStk, .flss, .elog, .cnt] s (State.holdExpired s id) := by
  unfold State.holdExpired
  repeat' (first
      | extract_lets | with_reducible apply Frame.refl | exact rfl | with_reducible apply Frame.step (State.settle_frame ..)
      | with_reducible apply Frame.step (State.retryMiss_frame ..) | split
      | with_reducible apply Frame.step (Frame.set_held ..))

theorem State.putFlash_frame (s : State) (r : JRec) :
    Frame [.flash, .tables, .refRecs, .fmap, .images] s (State.putFlash s r) := by
  unfold State.putFlash
  repeat' (first
      | extract_lets | with_reducible apply Frame.refl | exact rfl
      | with_reducible apply Frame.step (State.setFlashPair_frame ..) | split
      | with_reducible apply Frame.step (Frame.set_flash_fmap_images ..))

theorem State.journalLost_frame (s : State) (d : Nat) :
    Frame [.flash, .tables, .refRecs, .flss, .fmap, .images, .saved, .journals] s (State.journalLost s d) := by
  unfold State.journalLost
  repeat' (first
      | extract_lets | with_reducible apply Frame.refl | exact rfl | with_reducible apply Frame.step (State.modFls_frame ..)
      | with_reducible apply Frame.step (State.dropSaved_frame ..)
      | with_reducible apply Frame.step (State.putFlash_frame ..) | with_reducible apply Frame.eachTrans | split | intro _
      | with_reducible apply Frame.step (Frame.set_journals ..))

theorem State.refuseLink_frame (s : State) (port : Nat) (h : Hdr) (status : Nat) (ctxPassed : Bool) :
    Frame [.out, .fns, .ports, .cnt] s (State.refuseLink s port h status ctxPassed) := by
  unfold State.refuseLink
  repeat' (first
      | extract_lets | with_reducible apply Frame.refl | exact rfl | with_reducible apply Frame.step (State.count_frame ..)
      | with_reducible apply Frame.step (State.answerErr_frame ..))

theorem State.checkRequest_frame (s : State) (port : Nat) (op : Option ReqOp) (h : Hdr) (data : List Line) :
    Frame [.fresh, .out, .nextId, .fns, .regions, .cmds, .ports, .held, .leases, .hbm, .wbuf, .atoms, .qos, .dir, .dirs, .groups, .tables, .refRecs, .mems, .chds, .disp, .hbmStk, .flss, .elog, .cnt] s (State.checkRequest s port op h data) := by
  unfold State.checkRequest
  repeat' (first
      | extract_lets | with_reducible apply Frame.refl | exact rfl
      | with_reducible apply Frame.step (State.tagReuse_frame ..) | with_reducible apply Frame.step (State.fixed_frame ..)
      | with_reducible apply Frame.step (State.modPort_frame ..)
      | with_reducible apply Frame.step (State.refuseLink_frame ..) | with_reducible apply Frame.step (State.takeId_frame ..)
      | with_reducible apply Frame.step (State.regulate_frame ..) | with_reducible apply Frame.ite | split)

theorem State.linkRequest_frame (s : State) (port : Nat) (op : Option ReqOp) (h : Hdr) (data : List Line) :
    Frame [.fresh, .out, .nextId, .fns, .regions, .cmds, .ports, .held, .leases, .hbm, .wbuf, .atoms, .qos, .dir, .dirs, .groups, .tables, .refRecs, .mems, .chds, .disp, .hbmStk, .flss, .elog, .cnt] s (State.linkRequest s port op h data) := by
  unfold State.linkRequest
  repeat' (first
      | extract_lets | with_reducible apply Frame.refl | exact rfl
      | with_reducible apply Frame.step (State.checkRequest_frame ..) | with_reducible apply Frame.step (State.owe_frame ..)
      | with_reducible apply Frame.ite)

theorem State.recallExpired_frame (s : State) (port : Nat) (tag : Nat) :
    Frame [.fresh, .out, .nextId, .fns, .regions, .cmds, .ports, .held, .leases, .hbm, .wbuf, .atoms, .dir, .dirs, .groups, .tables, .refRecs, .mems, .chds, .disp, .hbmStk, .flss, .elog, .cnt] s (State.recallExpired s port tag) := by
  unfold State.recallExpired
  repeat' (first
      | extract_lets | with_reducible apply Frame.refl | exact rfl
      | with_reducible apply Frame.step (State.endLease_frame ..)
      | with_reducible apply Frame.step (State.poisonLine_frame ..)
      | with_reducible apply Frame.step (State.modPort_frame ..) | with_reducible apply Frame.step (State.countGnm_frame ..)
      | with_reducible apply Frame.step (State.log_frame ..) | with_reducible apply Frame.step (State.settle_frame ..)
      | with_reducible apply Frame.ite | split)

theorem State.cxlAccess_frame (s : State) (c : CxlReq) :
    Frame [.fresh, .out, .nextId, .hep, .fns, .regions, .cmds, .ports, .held, .leases, .hbm, .wbuf, .atoms, .qos, .dir, .dirs, .groups, .tables, .refRecs, .mems, .chds, .disp, .hbmStk, .flss, .elog, .cnt] s (State.cxlAccess s c) := by
  unfold State.cxlAccess
  repeat' (first
      | extract_lets | with_reducible apply Frame.refl | exact rfl | with_reducible apply Frame.step (State.emit_frame ..)
      | with_reducible apply Frame.step (State.cxlRefuse_frame ..) | with_reducible apply Frame.step (State.takeId_frame ..)
      | with_reducible apply Frame.step (State.modHep_frame ..) | with_reducible apply Frame.step (State.regulate_frame ..)
      | with_reducible apply Frame.step (State.count_frame ..) | with_reducible apply Frame.ite | split)

theorem State.cxlPartial_frame (s : State) (dpa : Nat) (tag : Nat) :
    Frame [.out, .hep, .fns, .cnt] s (State.cxlPartial s dpa tag) := by
  unfold State.cxlPartial
  repeat' (first
      | extract_lets | with_reducible apply Frame.refl | exact rfl | with_reducible apply Frame.step (State.modHep_frame ..)
      | with_reducible apply Frame.step (State.emit_frame ..) | with_reducible apply Frame.step (State.count_frame ..))

theorem State.cxlSimple_frame {l : List Piece} (s : State) (f : State → State) (hl : ([].all fun f => l.contains f) = true) (hf : ∀ s, Frame l s (f s)) :
    Frame l s (State.cxlSimple s f) := by
  unfold State.cxlSimple
  repeat' (first
      | extract_lets | with_reducible apply Frame.refl | with_reducible apply Frame.after (hf ..)
      | with_reducible apply Frame.ite)

theorem State.cxlServe_frame (s : State) (c : CxlReq) :
    Frame [.fresh, .out, .nextId, .hep, .fns, .regions, .cmds, .ports, .held, .leases, .hbm, .wbuf, .atoms, .qos, .dir, .dirs, .groups, .tables, .refRecs, .mems, .chds, .disp, .hbmStk, .flss, .elog, .cnt] s (State.cxlServe s c) := by
  unfold State.cxlServe
  repeat' (first
      | extract_lets | with_reducible apply Frame.refl | exact rfl
      | with_reducible apply Frame.step (State.cxlAccess_frame ..) | with_reducible apply Frame.step (State.emit_frame ..)
      | with_reducible apply Frame.step (State.cxlPartial_frame ..)
      | with_reducible apply Frame.after (State.cxlSimple_frame ..) | split | intro _)

theorem State.cxlRequest_frame (s : State) (c : CxlReq) :
    Frame [.fresh, .out, .nextId, .hep, .fns, .regions, .cmds, .ports, .held, .leases, .hbm, .wbuf, .atoms, .qos, .dir, .dirs, .groups, .tables, .refRecs, .mems, .chds, .disp, .hbmStk, .flss, .elog, .cnt] s (State.cxlRequest s c) := by
  unfold State.cxlRequest
  repeat' (first
      | extract_lets | with_reducible apply Frame.refl | exact rfl
      | with_reducible apply Frame.step (State.cxlServe_frame ..) | with_reducible apply Frame.step (State.modHep_frame ..)
      | with_reducible apply Frame.ite)

theorem State.cxlCredits_frame (s : State) :
    Frame [.fresh, .out, .nextId, .hep, .fns, .regions, .cmds, .ports, .held, .leases, .hbm, .wbuf, .atoms, .qos, .dir, .dirs, .groups, .tables, .refRecs, .mems, .chds, .disp, .hbmStk, .flss, .elog, .cnt] s (State.cxlCredits s) := by
  unfold State.cxlCredits
  repeat' (first
      | extract_lets | with_reducible apply Frame.refl | exact rfl | with_reducible apply Frame.step (State.modHep_frame ..)
      | with_reducible apply Frame.step (State.cxlRequest_frame ..) | with_reducible apply Frame.eachTrans | intro _)

theorem State.parityDelta_frame (s : State) (k : Nat) :
    Frame [.out, .fns, .hbmStk, .cnt] s (State.parityDelta s k) := by
  unfold State.parityDelta
  repeat' (first
      | extract_lets | with_reducible apply Frame.refl | exact rfl
      | with_reducible apply Frame.step (State.applyDelta_frame ..) | split)

theorem State.dispatchPage_frame {s : State} {page : Nat} {demand : Bool} {t : State} (h : State.dispatchPage s page demand = some t) :
    Frame [.fresh, .out, .fns, .hbm, .dir, .dirs, .tables, .refRecs, .flss, .cnt] s t := by
  unfold State.dispatchPage at h
  try dsimp only at h
  repeat' split at h
  all_goals (first | (exact absurd h (by decide)) | (simp at h; done) | (injection h with h; injection h with _ h; subst h) | (injection h with h; subst h) | (rw [Option.map_eq_some_iff] at h; obtain ⟨_, h, rfl⟩ := h) | skip)
  all_goals repeat' (first
    | extract_lets
    | with_reducible apply Frame.refl
    | exact rfl
    | with_reducible apply Frame.step (State.cacheEntry_frame ..)
    | (with_reducible apply Frame.step; (with_reducible apply State.takeFrame_frame; with_reducible assumption))
    | with_reducible apply Frame.step (State.modEnt_frame ..)
    | with_reducible apply Frame.step (State.setFramePair_frame ..)
    | with_reducible apply Frame.step (State.modDir_frame ..)
    | with_reducible apply Frame.step (State.settlePressure_frame ..)
    | with_reducible apply Frame.step (State.joinDie_frame ..)
    | with_reducible apply Frame.step (State.countGnm_frame ..)
    | (with_reducible apply Frame.step; (with_reducible apply State.zeroFrame_frame; with_reducible assumption)))

theorem State.dispatchNext_frame (s : State) (d : Nat) :
    Frame [.fresh, .out, .fns, .hbm, .dir, .dirs, .tables, .refRecs, .flss, .cnt] s (State.dispatchNext s d) := by
  unfold State.dispatchNext
  repeat' (first
      | extract_lets | with_reducible apply Frame.refl | exact rfl
      | (with_reducible apply Frame.step; (with_reducible apply State.dispatchPage_frame; with_reducible assumption))
      | with_reducible apply Frame.step (State.modDir_frame ..) | with_reducible apply Frame.ite | split)

theorem State.clock_frame (s : State) (d : Nat) (y0 : List Nat) :
    Frame [.fresh, .out, .fns, .hbm, .wbuf, .dir, .dirs, .tables, .refRecs, .hbmStk, .cnt] s (State.clock s d y0) := by
  induction y0 generalizing s d with
  | nil => (unfold State.clock; repeat' (first
       | extract_lets
       | with_reducible apply Frame.refl
       | exact rfl
       | with_reducible apply Frame.step (State.modDir_frame ..)
       | with_reducible apply Frame.step (State.modEnt_frame ..)
       | with_reducible apply Frame.step (State.evict_frame ..)
       | with_reducible apply Frame.after (ih ..)
       | with_reducible apply Frame.ite
       | split))
  | cons a y0 ih =>
    (unfold State.clock
     repeat' (first
         | extract_lets | with_reducible apply Frame.refl | exact rfl
         | with_reducible apply Frame.step (State.modDir_frame ..) | with_reducible apply Frame.step (State.modEnt_frame ..)
         | with_reducible apply Frame.step (State.evict_frame ..) | with_reducible apply Frame.after (ih ..)
         | with_reducible apply Frame.ite | split))

theorem State.selectVictim_frame (s : State) (d : Nat) :
    Frame [.fresh, .out, .fns, .hbm, .wbuf, .dir, .dirs, .tables, .refRecs, .hbmStk, .cnt] s (State.selectVictim s d) := by
  unfold State.selectVictim
  repeat' (first
      | extract_lets | with_reducible apply Frame.refl | exact rfl | with_reducible apply Frame.step (State.clock_frame ..)
      | with_reducible apply Frame.ite)

end Sys2Proof.Machine
end

