-- ==== Sys2Proof/Laws/FrameTransfer.lean ====
section
/-!
SUPPORT. What each operation can change: transfers, host accesses, links and kernel runs. One lemma per operation, proved from those of the operations it
calls.
-/

namespace Sys2Proof.Machine

set_option maxRecDepth 2000
set_option Elab.async false

open Sys2Proof

theorem State.hostWrite.go_frame (fn : Nat) (m : Nat) (ro : Bool) (s : State) (addr : Nat) (data : List Byte) (y0 : Nat) :
    Frame [.out] s (State.hostWrite.go fn m ro s addr data y0) := by
  induction y0 generalizing fn ro s addr data with
  | zero => (unfold State.hostWrite.go; repeat' (first
       | extract_lets
       | with_reducible apply Frame.refl
       | exact rfl
       | with_reducible apply Frame.step (State.emit_frame ..)
       | with_reducible apply Frame.after (ih ..)
       | with_reducible apply Frame.ite))
  | succ y0 ih =>
    (unfold State.hostWrite.go
     repeat' (first
         | extract_lets | with_reducible apply Frame.refl | exact rfl | with_reducible apply Frame.step (State.emit_frame ..)
         | with_reducible apply Frame.after (ih ..) | with_reducible apply Frame.ite))

theorem State.hostWrite_frame (s : State) (fn : Nat) (ctx : Nat) (addr : Nat) (data : List Byte) (relax : Bool) :
    Frame [.out, .fns, .cnt] s (State.hostWrite s fn ctx addr data relax) := by
  unfold State.hostWrite
  repeat' (first
      | extract_lets | with_reducible apply Frame.refl | exact rfl
      | with_reducible apply Frame.step (State.hostWrite.go_frame ..)
      | with_reducible apply Frame.step (State.count_frame ..) | with_reducible apply Frame.step (State.fixed_frame ..))

theorem State.logRun_frame (s : State) (r : Run) (f : RunFail) :
    Frame [.fresh, .out, .fns, .chds, .elog, .cnt] s (State.logRun s r f) := by
  unfold State.logRun
  repeat' (first
      | extract_lets | with_reducible apply Frame.refl | exact rfl | with_reducible apply Frame.step (State.count_frame ..)
      | with_reducible apply Frame.step (State.modChd_frame ..) | with_reducible apply Frame.step (State.log_frame ..)
      | with_reducible apply Frame.ite)

theorem State.settleAborts_frame (s : State) :
    Frame [.fresh, .out, .fns, .cmds, .ports, .cnt] s (State.settleAborts s) := by
  unfold State.settleAborts
  repeat' (first
      | extract_lets | with_reducible apply Frame.refl | exact rfl | with_reducible apply Frame.step (State.reply_frame ..)
      | with_reducible apply Frame.eachTrans | with_reducible apply Frame.ite | intro _)

theorem State.retireIdle_frame (s : State) (e : Nat) :
    Frame [.fresh, .out, .fns, .cmds, .ports, .engines, .elog, .cnt] s (State.retireIdle s e) := by
  unfold State.retireIdle
  repeat' (first
      | extract_lets | with_reducible apply Frame.refl | exact rfl | with_reducible apply Frame.step (State.log_frame ..)
      | with_reducible apply Frame.step (State.modEngine_frame ..) | with_reducible apply Frame.step (State.reply_frame ..)
      | with_reducible apply Frame.eachTrans | with_reducible apply Frame.ite | intro _)

theorem State.endRun_frame (s : State) (r : Run) :
    Frame [.fresh, .out, .fns, .cmds, .ports, .dir, .engines, .disp, .elog, .cnt] s (State.endRun s r) := by
  unfold State.endRun
  repeat' (first
      | extract_lets | with_reducible apply Frame.refl | exact rfl
      | with_reducible apply Frame.step (State.forgetWaits_frame ..)
      | with_reducible apply Frame.step (State.modDisp_frame ..) | with_reducible apply Frame.step (State.modEngine_frame ..)
      | with_reducible apply Frame.step (State.replyTo_frame ..)
      | with_reducible apply Frame.step (State.settleAborts_frame ..)
      | with_reducible apply Frame.step (State.retireIdle_frame ..) | with_reducible apply Frame.eachTrans | split | intro _
      | dsimp +zetaDelta only [id])

theorem State.settleRun_frame (s : State) (id : Nat) :
    Frame [.fresh, .out, .fns, .cmds, .ports, .dir, .engines, .disp, .elog, .cnt] s (State.settleRun s id) := by
  unfold State.settleRun
  repeat' (first
      | extract_lets | with_reducible apply Frame.refl | exact rfl | with_reducible apply Frame.step (State.endRun_frame ..)
      | with_reducible apply Frame.ite | split)

theorem State.failRun_frame (s : State) (id : Nat) (f : RunFail) :
    Frame [.fresh, .out, .fns, .cmds, .ports, .dir, .engines, .chds, .disp, .elog, .cnt] s (State.failRun s id f) := by
  unfold State.failRun
  repeat' (first
      | extract_lets | with_reducible apply Frame.refl | exact rfl | with_reducible apply Frame.step (State.modRun_frame ..)
      | with_reducible apply Frame.step (State.logRun_frame ..) | with_reducible apply Frame.step (State.settleRun_frame ..)
      | with_reducible apply Frame.step (State.modEngine_frame ..) | with_reducible apply Frame.eachTrans
      | with_reducible apply Frame.ite | split | intro _)

theorem State.failPlain_frame (s : State) (id : Nat) (reason : Nat) :
    Frame [.fresh, .out, .fns, .cmds, .ports, .dir, .engines, .chds, .disp, .elog, .cnt] s (State.failPlain s id reason) := by
  unfold State.failPlain
  repeat' (first
      | extract_lets | with_reducible apply Frame.refl | exact rfl
      | with_reducible apply Frame.step (State.failRun_frame ..))

theorem State.abortRun_frame (s : State) (r : Run) (reason : Nat) :
    Frame [.fresh, .out, .fns, .cmds, .ports, .dir, .engines, .chds, .disp, .elog, .cnt] s (State.abortRun s r reason) := by
  unfold State.abortRun
  repeat' (first
      | extract_lets | with_reducible apply Frame.refl | exact rfl
      | with_reducible apply Frame.step (State.failPlain_frame ..)
      | with_reducible apply Frame.step (State.takeFree_frame ..) | with_reducible apply Frame.step (State.failRun_frame ..)
      | with_reducible apply Frame.ite)

theorem State.abortRuns_frame (s : State) (p : Run → Bool) (reason : Nat) :
    Frame [.fresh, .out, .fns, .cmds, .ports, .dir, .engines, .chds, .disp, .elog, .cnt] s (State.abortRuns s p reason) := by
  unfold State.abortRuns
  repeat' (first
      | extract_lets | with_reducible apply Frame.refl | exact rfl
      | with_reducible apply Frame.step (State.abortRun_frame ..) | with_reducible apply Frame.eachTrans | intro _)

theorem State.endXfer_frame (s : State) (x : Xfer) (status : Nat) :
    Frame [.fresh, .out, .fns, .cmds, .ports, .leases, .dir, .xfers, .cnt] s (State.endXfer s x status) := by
  unfold State.endXfer
  repeat' (first
      | extract_lets | with_reducible apply Frame.refl | exact rfl
      | with_reducible apply Frame.step (State.forgetWaits_frame ..)
      | with_reducible apply Frame.step (State.tagFreed_frame ..) | with_reducible apply Frame.step (State.modPort_frame ..)
      | with_reducible apply Frame.step (State.replyTo_frame ..) | with_reducible apply Frame.eachTrans
      | with_reducible apply Frame.ite | intro _ | with_reducible apply Frame.step (Frame.set_xfers ..))

theorem State.failXfer_frame (s : State) (xid : Nat) (status : Nat) :
    Frame [.fresh, .out, .fns, .cmds, .ports, .leases, .dir, .xfers, .cnt] s (State.failXfer s xid status) := by
  unfold State.failXfer
  repeat' (first
      | extract_lets | with_reducible apply Frame.refl | exact rfl | with_reducible apply Frame.step (State.endXfer_frame ..)
      | split)

theorem State.hostRead_frame {s : State} {fn : Nat} {ctx : Nat} {addr : Nat} {len : Nat} {off : Nat} {use : ReadUse} {t : State} (h : State.hostRead s fn ctx addr len off use = some t) :
    Frame [.fresh, .out, .fns, .cnt] s t := by
  unfold State.hostRead at h
  try dsimp only at h
  repeat' split at h
  all_goals (first | (exact absurd h (by decide)) | (simp at h; done) | (injection h with h; injection h with _ h; subst h) | (injection h with h; subst h) | (rw [Option.map_eq_some_iff] at h; obtain ⟨_, h, rfl⟩ := h) | skip)
  all_goals repeat' (first
    | extract_lets
    | with_reducible apply Frame.refl
    | exact rfl
    | with_reducible apply Frame.step (State.pick_frame ..)
    | with_reducible apply Frame.step (State.modFn_frame ..)
    | with_reducible apply Frame.step (State.emit_frame ..)
    | with_reducible apply Frame.step (State.count_frame ..)
    | (with_reducible apply Frame.ofPair; with_reducible assumption))

theorem State.askList_frame (s : State) (c : Cmd) (y0 : List (Nat × Nat × Nat)) :
    Frame [.fresh, .out, .fns, .cmds, .cnt] s (State.askList s c y0) := by
  induction y0 generalizing s c with
  | nil => (unfold State.askList; repeat' (first
       | extract_lets
       | with_reducible apply Frame.refl
       | exact rfl
       | (with_reducible apply Frame.step; (with_reducible apply State.hostRead_frame; with_reducible assumption))
       | with_reducible apply Frame.step (State.modCmd_frame ..)
       | with_reducible apply Frame.after (ih ..)
       | with_reducible apply Frame.ite
       | split))
  | cons a y0 ih =>
    (unfold State.askList
     repeat' (first
         | extract_lets | with_reducible apply Frame.refl | exact rfl
         | (with_reducible apply Frame.step; (with_reducible apply State.hostRead_frame; with_reducible assumption))
         | with_reducible apply Frame.step (State.modCmd_frame ..) | with_reducible apply Frame.after (ih ..)
         | with_reducible apply Frame.ite | split))

theorem State.askCmd_frame (s : State) (id : Nat) :
    Frame [.fresh, .out, .fns, .cmds, .cnt] s (State.askCmd s id) := by
  unfold State.askCmd
  repeat' (first
      | extract_lets | with_reducible apply Frame.refl | exact rfl | with_reducible apply Frame.step (State.askList_frame ..)
      | with_reducible apply Frame.ite | split)

theorem State.beginHost_frame (s : State) (c : Cmd) :
    Frame [.fresh, .out, .fns, .cmds, .cnt] s (State.beginHost s c) := by
  unfold State.beginHost
  repeat' (first
      | extract_lets | with_reducible apply Frame.refl | exact rfl | with_reducible apply Frame.step (State.askCmd_frame ..)
      | with_reducible apply Frame.step (State.modCmd_frame ..) | split)

theorem State.issueUnits_frame (s : State) (xid : Nat) (y0 : Nat) :
    Frame [.xfers] s (State.issueUnits s xid y0) := by
  induction y0 generalizing s xid with
  | zero => (unfold State.issueUnits; repeat' (first
       | extract_lets
       | with_reducible apply Frame.refl
       | exact rfl
       | with_reducible apply Frame.step (State.modXfer_frame ..)
       | with_reducible apply Frame.after (ih ..)
       | with_reducible apply Frame.ite
       | split))
  | succ y0 ih =>
    (unfold State.issueUnits
     repeat' (first
         | extract_lets | with_reducible apply Frame.refl | exact rfl
         | with_reducible apply Frame.step (State.modXfer_frame ..) | with_reducible apply Frame.after (ih ..)
         | with_reducible apply Frame.ite | split))

theorem State.hostReads_frame {s : State} {fn ctx : Nat} {use : ReadUse} {xs : List (Nat × Nat × Nat)} {t : State}
    (h : State.hostReads s fn ctx use xs = some t) : Frame [.fresh, .out, .fns, .cnt] s t := by
  induction xs generalizing s with
  | nil => injection h with h; subst h; exact Frame.refl _ _
  | cons a xs ih =>
    obtain ⟨addr, len, off⟩ := a
    unfold State.hostReads at h
    split at h
    · rename_i u hu
      exact (State.hostRead_frame hu).trans ((ih h).mono rfl)
    · exact absurd h (by simp)

theorem State.modUnit_frame (s : State) (xid : Nat) (k : Nat) (f : UnitSt → UnitSt) :
    Frame [.xfers] s (State.modUnit s xid k f) := by
  unfold State.modUnit
  repeat' (first
      | extract_lets | with_reducible apply Frame.refl | exact rfl
      | with_reducible apply Frame.step (State.modXfer_frame ..))

theorem State.askHost_frame (s : State) (x : Xfer) (k : Nat) :
    Frame [.fresh, .out, .fns, .xfers, .cnt] s (State.askHost s x k) := by
  unfold State.askHost
  repeat' (first
      | extract_lets | with_reducible apply Frame.refl | exact rfl
      | (with_reducible apply Frame.step; (with_reducible apply State.hostReads_frame; with_reducible assumption))
      | with_reducible apply Frame.step (State.modUnit_frame ..) | with_reducible apply Frame.ite | split)

theorem State.pump_frame (s : State) (xid : Nat) :
    Frame [.fresh, .out, .fns, .xfers, .cnt] s (State.pump s xid) := by
  unfold State.pump
  repeat' (first
      | extract_lets | with_reducible apply Frame.refl | exact rfl
      | with_reducible apply Frame.step (State.issueUnits_frame ..)
      | with_reducible apply Frame.step (State.askHost_frame ..) | with_reducible apply Frame.eachTrans | split | intro _)

theorem State.pumpAll_frame (s : State) :
    Frame [.fresh, .out, .fns, .xfers, .cnt] s (State.pumpAll s) := by
  unfold State.pumpAll
  repeat' (first
      | extract_lets | with_reducible apply Frame.refl | exact rfl | with_reducible apply Frame.step (State.pump_frame ..)
      | with_reducible apply Frame.eachTrans | intro _)

theorem State.sendFlit_frame (s : State) (port : Nat) (ftype : Nat) (seq : Nat) (slotcode : Nat) (payload : BitVec 1792) (credits : List (Nat × Nat)) :
    Frame [.out, .ports] s (State.sendFlit s port ftype seq slotcode payload credits) := by
  unfold State.sendFlit
  repeat' (first
      | extract_lets | with_reducible apply Frame.refl | exact rfl | with_reducible apply Frame.step (State.emit_frame ..)
      | with_reducible apply Frame.step (State.modPort_frame ..))

theorem State.sendNew_frame (s : State) (port : Nat) (ftype : Nat) (seq : Nat) (slotcode : Nat) (payload : BitVec 1792) :
    Frame [.out, .ports] s (State.sendNew s port ftype seq slotcode payload) := by
  unfold State.sendNew
  repeat' (first
      | extract_lets | with_reducible apply Frame.refl | exact rfl | with_reducible apply Frame.step (State.modPort_frame ..)
      | with_reducible apply Frame.step (State.sendFlit_frame ..))

theorem State.sendCaps_frame (s : State) (port : Nat) :
    Frame [.out, .ports] s (State.sendCaps s port) := by
  unfold State.sendCaps
  repeat' (first
      | extract_lets | with_reducible apply Frame.refl | exact rfl | with_reducible apply Frame.step (State.modPort_frame ..)
      | with_reducible apply Frame.step (State.sendNew_frame ..))

theorem State.messageSent_frame (s : State) (port : Nat) (m : TxMsg) :
    Frame [.cmds, .ports] s (State.messageSent s port m) := by
  unfold State.messageSent
  repeat' (first
      | extract_lets | with_reducible apply Frame.refl | exact rfl | with_reducible apply Frame.step (State.freeTag_frame ..)
      | with_reducible apply Frame.step (State.modPort_frame ..) | split
      | with_reducible apply Frame.step (Frame.set_cmds ..))

theorem State.transmit_frame (s : State) (port : Nat) :
    Frame [.out, .fns, .cmds, .ports, .cnt] s (State.transmit s port) := by
  unfold State.transmit
  repeat' (first
      | extract_lets | with_reducible apply Frame.refl | exact rfl
      | with_reducible apply Frame.step (State.sendCaps_frame ..) | with_reducible apply Frame.step (State.modPort_frame ..)
      | with_reducible apply Frame.step (State.sendNew_frame ..) | with_reducible apply Frame.step (State.count_frame ..)
      | with_reducible apply Frame.step (State.sendFlit_frame ..)
      | with_reducible apply Frame.step (State.messageSent_frame ..) | with_reducible apply Frame.eachTrans
      | with_reducible apply Frame.ite | split | intro _)

theorem State.revokeLeases_frame (s : State) (port : Nat) :
    Frame [.fresh, .out, .fns, .ports, .leases, .hbm, .dir, .hbmStk, .elog, .cnt] s (State.revokeLeases s port) := by
  unfold State.revokeLeases
  repeat' (first
      | extract_lets | with_reducible apply Frame.refl | exact rfl | with_reducible apply Frame.step (State.modPort_frame ..)
      | with_reducible apply Frame.step (State.poisonLine_frame ..)
      | with_reducible apply Frame.step (State.endLease_frame ..) | with_reducible apply Frame.step (State.log_frame ..)
      | with_reducible apply Frame.eachTrans | intro _)

theorem State.loseLink_frame (s : State) (port : Nat) (reason : Nat) :
    Frame [.fresh, .out, .nextId, .fns, .regions, .cmds, .ports, .held, .leases, .hbm, .wbuf, .atoms, .qos, .dir, .dirs, .groups, .tables, .refRecs, .mems, .chds, .disp, .xfers, .hbmStk, .flss, .elog, .cnt] s (State.loseLink s port reason) := by
  unfold State.loseLink
  repeat' (first
      | extract_lets | with_reducible apply Frame.refl | exact rfl | with_reducible apply Frame.step (State.modPort_frame ..)
      | with_reducible apply Frame.step (State.releaseHeld_frame ..)
      | with_reducible apply Frame.step (State.failXfer_frame ..)
      | with_reducible apply Frame.step (State.revokeLeases_frame ..)
      | with_reducible apply Frame.step (State.settle_frame ..) | with_reducible apply Frame.step (State.log_frame ..)
      | with_reducible apply Frame.eachTrans | intro _ | with_reducible apply Frame.step (Frame.set_cmds ..)
      | with_reducible apply Frame.step (Frame.set_held ..))

theorem State.recover_frame (s : State) (port : Nat) (widen : Bool) :
    Frame [.ports] s (State.recover s port widen) := by
  unfold State.recover
  repeat' (first
      | extract_lets | with_reducible apply Frame.refl | exact rfl
      | with_reducible apply Frame.step (State.modPort_frame ..))

theorem State.failRetry_frame (s : State) (port : Nat) :
    Frame [.fresh, .out, .nextId, .fns, .regions, .cmds, .ports, .held, .leases, .hbm, .wbuf, .atoms, .qos, .dir, .dirs, .groups, .tables, .refRecs, .mems, .chds, .disp, .xfers, .hbmStk, .flss, .elog, .cnt] s (State.failRetry s port) := by
  unfold State.failRetry
  repeat' (first
      | extract_lets | with_reducible apply Frame.refl | exact rfl
      | with_reducible apply Frame.step (State.loseLink_frame ..) | with_reducible apply Frame.step (State.modPort_frame ..)
      | with_reducible apply Frame.ite)

theorem State.badFlit_frame (s : State) (port : Nat) (first : Bool) :
    Frame [.fresh, .out, .nextId, .fns, .regions, .cmds, .ports, .held, .leases, .hbm, .wbuf, .atoms, .qos, .dir, .dirs, .groups, .tables, .refRecs, .mems, .chds, .disp, .xfers, .hbmStk, .flss, .elog, .cnt] s (State.badFlit s port first) := by
  unfold State.badFlit
  repeat' (first
      | extract_lets | with_reducible apply Frame.refl | exact rfl | with_reducible apply Frame.step (State.count_frame ..)
      | with_reducible apply Frame.step (State.modPort_frame ..) | with_reducible apply Frame.step (State.failRetry_frame ..)
      | with_reducible apply Frame.ite)

theorem State.flitCommon_frame (s : State) (port : Nat) (f : Flit) :
    Frame [.fresh, .out, .nextId, .fns, .regions, .cmds, .ports, .held, .leases, .hbm, .wbuf, .atoms, .qos, .dir, .dirs, .groups, .tables, .refRecs, .mems, .chds, .disp, .xfers, .hbmStk, .flss, .elog, .cnt] s (State.flitCommon s port f).2 := by
  unfold State.flitCommon
  repeat' (first
      | extract_lets | with_reducible apply Frame.refl | exact rfl | with_reducible apply Frame.step (State.modPort_frame ..)
      | with_reducible apply Frame.step (State.loseLink_frame ..) | split)

theorem State.takeSlots_frame {l : List Piece} (s : State) (port : Nat) (deliver : State → Nat → List (BitVec 256) → State) (y0 : List (Nat × BitVec 256)) (hl : ([.fresh, .out, .nextId, .fns, .regions, .cmds, .ports, .held, .leases, .hbm, .wbuf, .atoms, .qos, .dir, .dirs, .groups, .tables, .refRecs, .mems, .chds, .disp, .xfers, .hbmStk, .flss, .elog, .cnt].all fun f => l.contains f) = true) (hf : ∀ s p w, Frame l s (deliver s p w)) :
    Frame l s (State.takeSlots s port deliver y0) := by
  induction y0 generalizing s port with
  | nil => (unfold State.takeSlots; repeat' (first
       | extract_lets
       | with_reducible apply Frame.refl
       | exact rfl
       | with_reducible apply Frame.stepIn hl (State.loseLink_frame ..)
       | with_reducible apply Frame.stepIn hl (State.modPort_frame ..)
       | with_reducible apply Frame.after (ih ..)
       | with_reducible apply Frame.after (hf ..)
       | with_reducible apply Frame.ite
       | split))
  | cons a y0 ih =>
    (unfold State.takeSlots
     repeat' (first
         | extract_lets | with_reducible apply Frame.refl | exact rfl
         | with_reducible apply Frame.stepIn hl (State.loseLink_frame ..)
         | with_reducible apply Frame.stepIn hl (State.modPort_frame ..) | with_reducible apply Frame.after (ih ..)
         | with_reducible apply Frame.after (hf ..) | with_reducible apply Frame.ite | split))

theorem State.dataFlit_frame {l : List Piece} (s : State) (port : Nat) (f : Flit) (deliver : State → Nat → List (BitVec 256) → State) (hl : ([.fresh, .out, .nextId, .fns, .regions, .cmds, .ports, .held, .leases, .hbm, .wbuf, .atoms, .qos, .dir, .dirs, .groups, .tables, .refRecs, .mems, .chds, .disp, .xfers, .hbmStk, .flss, .elog, .cnt].all fun f => l.contains f) = true) (hf : ∀ s p w, Frame l s (deliver s p w)) :
    Frame l s (State.dataFlit s port f deliver) := by
  unfold State.dataFlit
  repeat' (first
      | extract_lets | with_reducible apply Frame.refl | exact rfl | with_reducible assumption
      | with_reducible apply Frame.stepIn hl (State.flitCommon_frame ..)
      | with_reducible apply Frame.stepIn hl (State.modPort_frame ..)
      | with_reducible apply Frame.stepIn hl (State.loseLink_frame ..)
      | with_reducible apply Frame.after (State.takeSlots_frame ..) | with_reducible apply Frame.ite)

theorem State.idleFlit_frame (s : State) (port : Nat) (f : Flit) :
    Frame [.fresh, .out, .nextId, .fns, .regions, .cmds, .ports, .held, .leases, .hbm, .wbuf, .atoms, .qos, .dir, .dirs, .groups, .tables, .refRecs, .mems, .chds, .disp, .xfers, .hbmStk, .flss, .elog, .cnt] s (State.idleFlit s port f) := by
  unfold State.idleFlit
  repeat' (first
      | extract_lets | with_reducible apply Frame.refl | exact rfl
      | with_reducible apply Frame.step (State.flitCommon_frame ..)
      | with_reducible apply Frame.step (State.loseLink_frame ..) | with_reducible apply Frame.ite)

theorem State.retryFlit_frame (s : State) (port : Nat) (f : Flit) :
    Frame [.fresh, .out, .nextId, .fns, .regions, .cmds, .ports, .held, .leases, .hbm, .wbuf, .atoms, .qos, .dir, .dirs, .groups, .tables, .refRecs, .mems, .chds, .disp, .xfers, .hbmStk, .flss, .elog, .cnt] s (State.retryFlit s port f) := by
  unfold State.retryFlit
  repeat' (first
      | extract_lets | with_reducible apply Frame.refl | exact rfl
      | with_reducible apply Frame.step (State.flitCommon_frame ..)
      | with_reducible apply Frame.step (State.modPort_frame ..) | with_reducible apply Frame.ite)

theorem State.capsFlit_frame (s : State) (port : Nat) (f : Flit) :
    Frame [.ports] s (State.capsFlit s port f) := by
  unfold State.capsFlit
  repeat' (first
      | extract_lets | with_reducible apply Frame.refl | exact rfl
      | with_reducible apply Frame.step (State.modPort_frame ..))

theorem State.goodFlit_frame {l : List Piece} (s : State) (port : Nat) (ftype : Nat) (f : Flit) (deliver : State → Nat → List (BitVec 256) → State) (hl : ([.fresh, .out, .nextId, .fns, .regions, .cmds, .ports, .held, .leases, .hbm, .wbuf, .atoms, .qos, .dir, .dirs, .groups, .tables, .refRecs, .mems, .chds, .disp, .xfers, .hbmStk, .flss, .elog, .cnt].all fun f => l.contains f) = true) (hf : ∀ s p w, Frame l s (deliver s p w)) :
    Frame l s (State.goodFlit s port ftype f deliver) := by
  unfold State.goodFlit
  repeat' (first
      | extract_lets | with_reducible apply Frame.refl | exact rfl | with_reducible assumption
      | with_reducible apply Frame.stepIn hl (State.modPort_frame ..)
      | with_reducible apply Frame.stepIn hl (State.idleFlit_frame ..)
      | with_reducible apply Frame.stepIn hl (State.flitCommon_frame ..)
      | with_reducible apply Frame.stepIn hl (State.retryFlit_frame ..)
      | with_reducible apply Frame.stepIn hl (State.capsFlit_frame ..)
      | with_reducible apply Frame.after (State.dataFlit_frame ..) | with_reducible apply Frame.ite | split)

theorem State.rxFlit_frame {l : List Piece} (s : State) (port : Nat) (ftype : Nat) (f : Flit) (deliver : State → Nat → List (BitVec 256) → State) (hl : ([.fresh, .out, .nextId, .fns, .regions, .cmds, .ports, .held, .leases, .hbm, .wbuf, .atoms, .qos, .dir, .dirs, .groups, .tables, .refRecs, .mems, .chds, .disp, .xfers, .hbmStk, .flss, .elog, .cnt].all fun f => l.contains f) = true) (hf : ∀ s p w, Frame l s (deliver s p w)) :
    Frame l s (State.rxFlit s port ftype f deliver) := by
  unfold State.rxFlit
  repeat' (first
      | extract_lets | with_reducible apply Frame.refl | exact rfl | with_reducible assumption
      | with_reducible apply Frame.stepIn hl (State.count_frame ..)
      | with_reducible apply Frame.stepIn hl (State.badFlit_frame ..)
      | with_reducible apply Frame.after (State.goodFlit_frame ..) | with_reducible apply Frame.ite | split)

theorem State.takeLanes_frame (s : State) (port : Nat) (lanes : BitVec 4) (limit : Nat) (f : BitVec 4 → Port → Port) :
    Frame [.fresh, .ports] s (State.takeLanes s port lanes limit f) := by
  unfold State.takeLanes
  repeat' (first
      | extract_lets | with_reducible apply Frame.refl | exact rfl | with_reducible apply Frame.step (State.pickOf_frame ..)
      | with_reducible apply Frame.step (State.modPort_frame ..)
      | (with_reducible apply Frame.ofPair; with_reducible assumption) | split)

theorem State.enablePort_frame (s : State) (port : Nat) :
    Frame [.ports] s (State.enablePort s port) := by
  unfold State.enablePort
  repeat' (first
      | extract_lets | with_reducible apply Frame.refl | exact rfl
      | with_reducible apply Frame.step (State.modPort_frame ..))

theorem State.disablePort_frame (s : State) (port : Nat) :
    Frame [.fresh, .out, .nextId, .fns, .regions, .cmds, .ports, .held, .leases, .hbm, .wbuf, .atoms, .qos, .dir, .dirs, .groups, .tables, .refRecs, .mems, .chds, .disp, .xfers, .hbmStk, .flss, .elog, .cnt] s (State.disablePort s port) := by
  unfold State.disablePort
  repeat' (first
      | extract_lets | with_reducible apply Frame.refl | exact rfl | with_reducible apply Frame.step (State.modPort_frame ..)
      | with_reducible apply Frame.step (State.loseLink_frame ..) | split)

theorem State.retrainPort_frame (s : State) (port : Nat) :
    Frame [.ports] s (State.retrainPort s port) := by
  unfold State.retrainPort
  repeat' (first
      | extract_lets | with_reducible apply Frame.refl | exact rfl | with_reducible apply Frame.step (State.recover_frame ..)
      | with_reducible apply Frame.step (State.modPort_frame ..) | split)

theorem startXfer_frame (kind : XferKind) (s : State) (c : Cmd) :
    Frame [.fresh, .out, .nextId, .fns, .cmds, .ports, .xfers, .cnt] s (startXfer kind s c) := by
  unfold startXfer
  repeat' (first
      | extract_lets | with_reducible apply Frame.refl | exact rfl | with_reducible apply Frame.step (State.takeId_frame ..)
      | with_reducible apply Frame.step (State.reply_frame ..) | split
      | with_reducible apply Frame.step (Frame.set_xfers ..))

theorem startXferAtom_frame (s : State) (c : Cmd) :
    Frame [.fresh, .out, .nextId, .fns, .regions, .cmds, .ports, .held, .leases, .hbm, .wbuf, .atoms, .dir, .dirs, .groups, .tables, .refRecs, .mems, .chds, .disp, .hbmStk, .flss, .elog, .cnt] s (startXferAtom s c) := by
  unfold startXferAtom
  repeat' (first
      | extract_lets | with_reducible apply Frame.refl | exact rfl | with_reducible apply Frame.step (State.reply_frame ..)
      | with_reducible apply Frame.step (State.takeId_frame ..)
      | with_reducible apply Frame.step (State.dispatchReq_frame ..) | split)

theorem startKernelRun_frame (s : State) (c : Cmd) :
    Frame [.fresh, .out, .fns, .cmds, .ports, .disp, .cnt] s (startKernelRun s c) := by
  unfold startKernelRun
  repeat' (first
      | extract_lets | with_reducible apply Frame.refl | exact rfl | with_reducible apply Frame.step (State.bad_frame ..)
      | with_reducible apply Frame.step (State.reply_frame ..) | with_reducible apply Frame.step (State.count_frame ..)
      | with_reducible apply Frame.step (State.modDisp_frame ..) | with_reducible apply Frame.ite)

theorem startKernelAbort_frame (s : State) (c : Cmd) :
    Frame [.fresh, .out, .fns, .cmds, .ports, .dir, .engines, .chds, .disp, .elog, .cnt] s (startKernelAbort s c) := by
  unfold startKernelAbort
  repeat' (first
      | extract_lets | with_reducible apply Frame.refl | exact rfl
      | with_reducible apply Frame.step (State.abortRun_frame ..) | with_reducible apply Frame.step (State.modCmd_frame ..)
      | with_reducible apply Frame.step (State.reply_frame ..) | split)

theorem State.settleRuns_frame (s : State) :
    Frame [.fresh, .out, .fns, .cmds, .ports, .dir, .engines, .disp, .elog, .cnt] s (State.settleRuns s) := by
  unfold State.settleRuns
  repeat' (first
      | extract_lets | with_reducible apply Frame.refl | exact rfl
      | with_reducible apply Frame.step (State.settleRun_frame ..) | with_reducible apply Frame.eachTrans | intro _)

theorem State.takeEngines_frame (s : State) (y0 : Nat) :
    Frame [.fresh] s (State.takeEngines s y0).2 := by
  induction y0 generalizing s with
  | zero => (unfold State.takeEngines; repeat' (first
       | extract_lets
       | with_reducible apply Frame.refl
       | exact rfl
       | with_reducible apply Frame.step (State.pickOf_frame ..)
       | with_reducible apply Frame.after (ih ..)
       | (with_reducible apply Frame.ofPair; with_reducible assumption)
       | split))
  | succ y0 ih =>
    (unfold State.takeEngines
     repeat' (first
         | extract_lets | with_reducible apply Frame.refl | exact rfl
         | with_reducible apply Frame.step (State.pickOf_frame ..) | with_reducible apply Frame.after (ih ..)
         | (with_reducible apply Frame.ofPair; with_reducible assumption) | split))

theorem State.startRun_frame (s : State) (check : State → Run → Bool) (r : Run) (n : Nat) (backfill : Bool) :
    Frame [.fresh, .out, .fns, .cmds, .ports, .dir, .engines, .chds, .disp, .elog, .cnt] s (State.startRun s check r n backfill) := by
  unfold State.startRun
  repeat' (first
      | extract_lets | with_reducible apply Frame.refl | exact rfl
      | with_reducible apply Frame.step (State.failPlain_frame ..)
      | with_reducible apply Frame.step (State.takeEngines_frame ..)
      | with_reducible apply Frame.step (State.modRun_frame ..) | with_reducible apply Frame.step (State.count_frame ..)
      | with_reducible apply Frame.step (State.modEngine_frame ..) | with_reducible apply Frame.eachTrans
      | with_reducible apply Frame.ite | intro _)

theorem State.dispatchRun_frame (s : State) (check : State → Run → Bool) :
    Frame [.fresh, .out, .fns, .cmds, .ports, .dir, .engines, .chds, .disp, .elog, .cnt] s (State.dispatchRun s check) := by
  unfold State.dispatchRun
  repeat' (first
      | extract_lets | with_reducible apply Frame.refl | exact rfl
      | with_reducible apply Frame.step (State.failPlain_frame ..)
      | with_reducible apply Frame.step (State.startRun_frame ..) | with_reducible apply Frame.eachTrans
      | with_reducible apply Frame.ite | split | intro _)

theorem State.engineFails_frame (s : State) (e : Nat) :
    Frame [.fresh, .out, .fns, .cmds, .ports, .dir, .engines, .chds, .disp, .elog, .cnt] s (State.engineFails s e) := by
  unfold State.engineFails
  repeat' (first
      | extract_lets | with_reducible apply Frame.refl | exact rfl | with_reducible apply Frame.step (State.failRun_frame ..)
      | with_reducible apply Frame.step (State.modChd_frame ..) | with_reducible apply Frame.step (State.modEngine_frame ..)
      | with_reducible apply Frame.step (State.log_frame ..) | split | dsimp +zetaDelta only [id])

theorem State.respond_frame {l : List Piece} (s : State) (port : Nat) (n : Nat) (f : State → State) (hl : ([.ports, .cnt].all fun f => l.contains f) = true) (hf : ∀ s, Frame l s (f s)) :
    Frame l s (State.respond s port n f) := by
  unfold State.respond
  repeat' (first
      | extract_lets | with_reducible apply Frame.refl | exact rfl
      | with_reducible apply Frame.stepIn hl (State.owe_frame ..)
      | with_reducible apply Frame.stepIn hl (State.fixed_frame ..) | with_reducible apply Frame.after (hf ..)
      | with_reducible apply Frame.ite)

theorem State.lateCpl_frame (s : State) (port : Nat) :
    Frame [.out, .fns, .ports, .cnt] s (State.lateCpl s port) := by
  unfold State.lateCpl
  repeat' (first
      | extract_lets | with_reducible apply Frame.refl | exact rfl | with_reducible apply Frame.step (State.count_frame ..)
      | with_reducible apply Frame.step (State.modPort_frame ..))

theorem State.peerData_frame (s : State) (port : Nat) (tag : Nat) (off : Nat) (n : Nat) (last : Bool) (data : List Line) :
    Frame [.out, .fns, .ports, .leases, .xfers, .cnt] s (State.peerData s port tag off n last data) := by
  unfold State.peerData
  repeat' (first
      | extract_lets | with_reducible apply Frame.refl | exact rfl | with_reducible apply Frame.step (State.modUnit_frame ..)
      | with_reducible apply Frame.step (State.freeReq_frame ..) | with_reducible apply Frame.step (State.lateCpl_frame ..)
      | with_reducible apply Frame.ite | split)

theorem State.cplData_frame (s : State) (port : Nat) (r : Rsp) (data : List Line) :
    Frame [.out, .fns, .ports, .leases, .xfers, .cnt] s (State.cplData s port r data) := by
  unfold State.cplData
  repeat' (first
      | extract_lets | with_reducible apply Frame.refl | exact rfl
      | with_reducible apply Frame.step (State.peerData_frame ..) | with_reducible apply Frame.step (State.owe_frame ..)
      | with_reducible apply Frame.after (State.respond_frame ..) | split | intro _)

theorem State.moveOut_frame (s : State) (page : Nat) :
    Frame (Piece.allBut [.pending, .variantH, .stepB0, .nextKey, .pmc, .fw, .hep, .ctxs, .sealed, .subs, .seqs, .qos, .engines, .xfers, .repairs, .repairRows, .keys]) s (State.moveOut s page) := by
  unfold State.moveOut
  repeat' (first
      | extract_lets | with_reducible apply Frame.refl | exact rfl | with_reducible apply Frame.step (State.trim_frame ..)
      | with_reducible apply Frame.step (State.freePage_frame ..) | with_reducible apply Frame.step (State.modHbm_frame ..)
      | with_reducible apply Frame.step (State.pageReady_frame ..)
      | with_reducible apply Frame.step (State.ckptCommitted_frame ..)
      | with_reducible apply Frame.step (State.modEnt_frame ..) | with_reducible apply Frame.step (Frame.set_wbuf ..))

theorem State.clearPiece_frame (s : State) (x : Xfer) (k : Nat) (la : Nat) (n : Nat) :
    Frame (Piece.allBut [.pending, .variantH, .stepB0, .nextKey, .pmc, .fw, .hep, .ctxs, .sealed, .subs, .seqs, .qos, .engines, .repairs, .repairRows, .keys]) s (State.clearPiece s x k la n).2 := by
  unfold State.clearPiece
  repeat' (first
      | extract_lets | with_reducible apply Frame.refl | exact rfl
      | with_reducible apply Frame.step (State.writePiece_frame ..)
      | with_reducible apply Frame.step (State.moveOut_frame ..) | with_reducible apply Frame.iteSnd | split)

theorem State.clearPieces_frameFrom {s₀ s : State} (h : Frame (Piece.allBut [.pending, .variantH, .stepB0, .nextKey, .pmc, .fw, .hep, .ctxs, .sealed, .subs, .seqs, .qos, .engines, .repairs, .repairRows, .keys]) s₀ s) (x : Xfer) (k : Nat) (l : List (Nat × Nat)) :
    Frame (Piece.allBut [.pending, .variantH, .stepB0, .nextKey, .pmc, .fw, .hep, .ctxs, .sealed, .subs, .seqs, .qos, .engines, .repairs, .repairRows, .keys]) s₀ (State.clearPieces s₀ s x k l).2 := by
  induction l generalizing s with
  | nil => exact h
  | cons a l ih =>
    obtain ⟨la, n⟩ := a
    unfold State.clearPieces
    dsimp only
    split
    · exact ih (h.trans ((State.clearPiece_frame ..).mono rfl))
    · exact (State.clearPiece_frame ..).mono rfl
    · exact (State.clearPiece_frame ..).mono rfl

theorem State.clearPieces_frame (s : State) (x : Xfer) (k : Nat) (l : List (Nat × Nat)) :
    Frame (Piece.allBut [.pending, .variantH, .stepB0, .nextKey, .pmc, .fw, .hep, .ctxs, .sealed, .subs, .seqs, .qos, .engines, .repairs, .repairRows, .keys]) s (State.clearPieces s s x k l).2 := State.clearPieces_frameFrom (Frame.refl _ _) x k l

theorem State.clearUnit_frame (s : State) (x : Xfer) (k : Nat) :
    Frame (Piece.allBut [.pending, .variantH, .stepB0, .nextKey, .pmc, .fw, .hep, .ctxs, .sealed, .subs, .seqs, .qos, .engines, .repairs, .repairRows, .keys]) s (State.clearUnit s x k).2 := by
  unfold State.clearUnit
  repeat' (first
      | extract_lets | with_reducible apply Frame.refl | exact rfl
      | with_reducible apply Frame.step (State.clearPieces_frame ..))

theorem State.advance_frame (s : State) (xid : Nat) (y0 : Nat) :
    Frame (Piece.allBut [.pending, .variantH, .stepB0, .nextKey, .pmc, .fw, .hep, .ctxs, .sealed, .subs, .seqs, .qos, .engines, .repairs, .repairRows, .keys]) s (State.advance s xid y0) := by
  induction y0 generalizing s xid with
  | zero => (unfold State.advance; repeat' (first
       | extract_lets
       | with_reducible apply Frame.refl
       | exact rfl
       | with_reducible apply Frame.step (State.clearUnit_frame ..)
       | with_reducible apply Frame.step (State.modXfer_frame ..)
       | with_reducible apply Frame.step (State.failXfer_frame ..)
       | with_reducible apply Frame.after (ih ..)
       | with_reducible apply Frame.ite
       | split))
  | succ y0 ih =>
    (unfold State.advance
     repeat' (first
         | extract_lets | with_reducible apply Frame.refl | exact rfl
         | with_reducible apply Frame.step (State.clearUnit_frame ..)
         | with_reducible apply Frame.step (State.modXfer_frame ..)
         | with_reducible apply Frame.step (State.failXfer_frame ..) | with_reducible apply Frame.after (ih ..)
         | with_reducible apply Frame.ite | split))

theorem State.finish_frame (s : State) (xid : Nat) :
    Frame (Piece.allBut [.pending, .variantH, .stepB0, .nextKey, .pmc, .fw, .hep, .ctxs, .sealed, .subs, .seqs, .qos, .engines, .repairs, .repairRows, .keys]) s (State.finish s xid) := by
  unfold State.finish
  repeat' (first
      | extract_lets | with_reducible apply Frame.refl | exact rfl | with_reducible apply Frame.step (State.advance_frame ..)
      | with_reducible apply Frame.step (State.endXfer_frame ..) | with_reducible apply Frame.step (State.pump_frame ..)
      | with_reducible apply Frame.ite | split)

theorem State.unitDone_frame (s : State) (xid : Nat) (k : Nat) :
    Frame (Piece.allBut [.pending, .variantH, .stepB0, .nextKey, .pmc, .fw, .hep, .ctxs, .sealed, .subs, .seqs, .qos, .engines, .repairs, .repairRows, .keys]) s (State.unitDone s xid k) := by
  unfold State.unitDone
  repeat' (first
      | extract_lets | with_reducible apply Frame.refl | exact rfl | with_reducible apply Frame.step (State.finish_frame ..)
      | with_reducible apply Frame.step (State.modXfer_frame ..))

theorem State.peerOk_frame (s : State) (port : Nat) (tag : Nat) :
    Frame (Piece.allBut [.pending, .variantH, .stepB0, .nextKey, .pmc, .fw, .hep, .ctxs, .sealed, .subs, .seqs, .qos, .engines, .repairs, .repairRows, .keys]) s (State.peerOk s port tag) := by
  unfold State.peerOk
  repeat' (first
      | extract_lets | with_reducible apply Frame.refl | exact rfl
      | with_reducible apply Frame.step (State.unitDone_frame ..) | with_reducible apply Frame.step (State.freeReq_frame ..)
      | with_reducible apply Frame.step (State.lateCpl_frame ..) | split)

theorem State.peerErr_frame (s : State) (port : Nat) (tag : Nat) (status : Nat) (last : Bool) :
    Frame [.fresh, .out, .fns, .cmds, .ports, .leases, .dir, .xfers, .cnt] s (State.peerErr s port tag status last) := by
  unfold State.peerErr
  repeat' (first
      | extract_lets | with_reducible apply Frame.refl | exact rfl
      | with_reducible apply Frame.step (State.failXfer_frame ..) | with_reducible apply Frame.step (State.freeReq_frame ..)
      | with_reducible apply Frame.step (State.lateCpl_frame ..) | with_reducible apply Frame.ite | split)

theorem State.peerRetry_frame (s : State) (port : Nat) (tag : Nat) (hint : Nat) :
    Frame [.out, .fns, .ports, .cnt] s (State.peerRetry s port tag hint) := by
  unfold State.peerRetry
  repeat' (first
      | extract_lets | with_reducible apply Frame.refl | exact rfl | with_reducible apply Frame.step (State.modPort_frame ..)
      | with_reducible apply Frame.step (State.lateCpl_frame ..) | split)

theorem State.reservedResponse_frame (s : State) (port : Nat) :
    Frame [.ports, .cnt] s (State.reservedResponse s port) := by
  unfold State.reservedResponse
  repeat' (first
      | extract_lets | with_reducible apply Frame.refl | exact rfl | with_reducible apply Frame.step (State.modPort_frame ..)
      | with_reducible apply Frame.after (State.respond_frame ..) | intro _)

theorem State.unitData_frame (s : State) (x : Xfer) (k : Nat) :
    Frame [.fresh, .out, .nextId, .fns, .regions, .cmds, .ports, .held, .leases, .hbm, .wbuf, .atoms, .dir, .dirs, .groups, .tables, .refRecs, .mems, .chds, .disp, .xfers, .hbmStk, .flss, .elog, .cnt] s (State.unitData s x k).2 := by
  unfold State.unitData
  repeat' (first
      | extract_lets | with_reducible apply Frame.refl | exact rfl
      | with_reducible apply Frame.step (State.moverRead_frame ..) | with_reducible apply Frame.iteSnd)

theorem State.unitStep_frame (s : State) (x : Xfer) (k : Nat) :
    Frame (Piece.allBut [.pending, .variantH, .stepB0, .nextKey, .pmc, .fw, .hep, .ctxs, .sealed, .subs, .seqs, .qos, .engines, .repairs, .repairRows, .keys]) s (State.unitStep s x k) := by
  unfold State.unitStep
  repeat' (first
      | extract_lets | with_reducible apply Frame.refl | exact rfl | with_reducible apply Frame.step (State.pump_frame ..)
      | with_reducible apply Frame.step (State.unitData_frame ..) | with_reducible apply Frame.step (State.failXfer_frame ..)
      | with_reducible apply Frame.step (State.unitDone_frame ..)
      | with_reducible apply Frame.step (State.hostWrite_frame ..)
      | with_reducible apply Frame.step (State.moverAcc_frame ..)
      | with_reducible apply Frame.step (State.moverWrite_frame ..) | with_reducible apply Frame.ite
      | with_reducible apply Frame.iteSnd | split)

theorem State.sendPeer_frame (s : State) (x : Xfer) (k : Nat) (port : Nat) (off : Nat) (n : Nat) (write : Bool) :
    Frame [.ports] s (State.sendPeer s x k port off n write) := by
  unfold State.sendPeer
  repeat' (first
      | extract_lets | with_reducible apply Frame.refl | exact rfl | with_reducible apply Frame.step (State.sendMsg_frame ..)
      | with_reducible apply Frame.step (State.modPort_frame ..) | with_reducible apply Frame.ite | split)

theorem State.peerSend_frame (s : State) (x : Xfer) (k : Nat) :
    Frame [.fresh, .out, .nextId, .fns, .regions, .cmds, .ports, .held, .leases, .hbm, .wbuf, .atoms, .dir, .dirs, .groups, .tables, .refRecs, .mems, .chds, .disp, .xfers, .hbmStk, .flss, .elog, .cnt] s (State.peerSend s x k) := by
  unfold State.peerSend
  repeat' (first
      | extract_lets | with_reducible apply Frame.refl | exact rfl
      | with_reducible apply Frame.step (State.sendPeer_frame ..) | with_reducible apply Frame.step (State.unitData_frame ..)
      | with_reducible apply Frame.step (State.pump_frame ..) | with_reducible apply Frame.step (State.failXfer_frame ..)
      | with_reducible apply Frame.step (State.modUnit_frame ..) | with_reducible apply Frame.eachTrans
      | with_reducible apply Frame.ite | split | intro _)

theorem State.peerReissue_frame (s : State) (port : Nat) (tag : Nat) :
    Frame [.ports] s (State.peerReissue s port tag) := by
  unfold State.peerReissue
  repeat' (first
      | extract_lets | with_reducible apply Frame.refl | exact rfl | with_reducible apply Frame.step (State.modPort_frame ..)
      | with_reducible apply Frame.step (State.sendMsg_frame ..) | split)

theorem State.peerTimeout_frame (s : State) (port : Nat) (tag : Nat) :
    Frame [.fresh, .out, .fns, .cmds, .ports, .leases, .dir, .xfers, .cnt] s (State.peerTimeout s port tag) := by
  unfold State.peerTimeout
  repeat' (first
      | extract_lets | with_reducible apply Frame.refl | exact rfl | with_reducible apply Frame.step (State.modPort_frame ..)
      | with_reducible apply Frame.step (State.failXfer_frame ..) | split)

theorem State.startNext_frame (s : State) (engine : Nat) :
    Frame [.fresh, .out, .fns, .xfers, .cnt] s (State.startNext s engine) := by
  unfold State.startNext
  repeat' (first
      | extract_lets | with_reducible apply Frame.refl | exact rfl | with_reducible apply Frame.step (State.pump_frame ..)
      | with_reducible apply Frame.step (State.modXfer_frame ..) | with_reducible apply Frame.ite | split)

end Sys2Proof.Machine
end

