-- ==== Sys2Proof/Laws/FrameEngines.lean ====
section
/-!
SUPPORT. What each operation can change: the engines: programs and built-in kernels. One lemma per operation, proved from those of the operations it
calls.
-/

namespace Sys2Proof.Machine

set_option maxRecDepth 2000
set_option Elab.async false

open Sys2Proof

theorem andThen_frame {l : List Piece}{α : Type}{β : Type} (x : KM α) (f : α → KM β) (y0 : State) (hl : ([].all fun f => l.contains f) = true) (hx : ∀ s, Frame l s (x s).2) (hf : ∀ a s, Frame l s (f a s).2) :
    Frame l y0 (andThen x f y0).2 := by
  unfold andThen
  repeat' (first
      | extract_lets | with_reducible apply Frame.refl | with_reducible apply Frame.after (hx ..)
      | with_reducible apply Frame.after (hf ..) | split)

theorem kPure_frame {α : Type} (a : α) (s : State) : Frame [] s (kPure a s).2 := Frame.refl _ _

theorem kArg_frame {α : Type} (s : State) : Frame [] s (kArg (α := α) s).2 := Frame.refl _ _

theorem kSome_frame {l : List Piece}{α : Type}{β : Type} (o : Option α) (f : α → KM β) (y0 : State) (hl : ([].all fun f => l.contains f) = true) (hf : ∀ a s, Frame l s (f a s).2) :
    Frame l y0 (kSome o f y0).2 := by
  unfold kSome
  repeat' (first
      | extract_lets | with_reducible apply Frame.refl | exact rfl | with_reducible apply Frame.stepIn hl (kArg_frame ..)
      | with_reducible apply Frame.after (hf ..) | split)

theorem State.streamed_frame (s : State) (e : Nat) (ctx : Nat) (n : Nat) (write : Bool) :
    Frame [.out, .fns, .cnt] s (State.streamed s e ctx n write) := by
  unfold State.streamed
  repeat' (first
      | extract_lets | with_reducible apply Frame.refl | exact rfl | with_reducible apply Frame.step (State.count_frame ..)
      | with_reducible apply Frame.step (State.fixed_frame ..) | with_reducible apply Frame.ite)

theorem kRead_frame (w : Worker) (la : Nat) (len : Nat) (factor : Bool) (y0 : State) :
    Frame [.fresh, .out, .nextId, .fns, .regions, .cmds, .ports, .held, .leases, .hbm, .wbuf, .atoms, .dir, .dirs, .groups, .tables, .refRecs, .mems, .chds, .disp, .xfers, .hbmStk, .flss, .elog, .cnt] y0 (kRead w la len factor y0).2 := by
  unfold kRead
  repeat' (first
      | extract_lets | with_reducible apply Frame.refl | exact rfl
      | with_reducible apply Frame.step (State.moverRead_frame ..)
      | with_reducible apply Frame.step (State.streamed_frame ..) | with_reducible apply Frame.iteSnd | split)

theorem takePieces_frame (w : Worker) (slot : Nat) (y0 : List (Nat × Nat)) (y1 : State) :
    Frame [.fresh, .out, .nextId, .fns, .regions, .cmds, .ports, .held, .leases, .hbm, .wbuf, .atoms, .dir, .dirs, .groups, .tables, .refRecs, .mems, .chds, .disp, .xfers, .hbmStk, .flss, .elog, .cnt] y1 (takePieces w slot y0 y1).2 := by
  induction y0 generalizing w slot y1 with
  | nil => (unfold takePieces; repeat' (first
       | extract_lets
       | with_reducible apply Frame.refl
       | exact rfl
       | with_reducible apply Frame.step (kPure_frame ..)
       | with_reducible apply Frame.step (State.moverReadZero_frame ..)
       | with_reducible apply Frame.step (State.modRun_frame ..)
       | with_reducible apply Frame.step (State.streamed_frame ..)
       | with_reducible apply Frame.after (andThen_frame ..)
       | with_reducible apply Frame.after (ih ..)
       | split
       | intro _))
  | cons a y0 ih =>
    (unfold takePieces
     repeat' (first
         | extract_lets | with_reducible apply Frame.refl | exact rfl | with_reducible apply Frame.step (kPure_frame ..)
         | with_reducible apply Frame.step (State.moverReadZero_frame ..)
         | with_reducible apply Frame.step (State.modRun_frame ..)
         | with_reducible apply Frame.step (State.streamed_frame ..) | with_reducible apply Frame.after (andThen_frame ..)
         | with_reducible apply Frame.after (ih ..) | split | intro _))

theorem kTake_frame (w : Worker) (clear : Bool) (slot : Nat) (la : Nat) (len : Nat) (y0 : State) :
    Frame [.fresh, .out, .nextId, .fns, .regions, .cmds, .ports, .held, .leases, .hbm, .wbuf, .atoms, .dir, .dirs, .groups, .tables, .refRecs, .mems, .chds, .disp, .xfers, .hbmStk, .flss, .elog, .cnt] y0 (kTake w clear slot la len y0).2 := by
  unfold kTake
  repeat' (first
      | extract_lets | with_reducible apply Frame.refl | exact rfl | with_reducible apply Frame.step (kRead_frame ..)
      | with_reducible apply Frame.step (takePieces_frame ..) | with_reducible apply Frame.iteSnd)

theorem gradOf_frame (k : Worker) (r : Run) (seed : Nat) (y0 : State) :
    Frame [.fresh, .out, .nextId, .fns, .regions, .cmds, .ports, .held, .leases, .hbm, .wbuf, .atoms, .dir, .dirs, .groups, .tables, .refRecs, .mems, .chds, .disp, .xfers, .hbmStk, .flss, .elog, .cnt] y0 (gradOf k r seed y0).2 := by
  unfold gradOf
  repeat' (first
      | extract_lets | with_reducible apply Frame.refl | exact rfl | with_reducible apply Frame.step (kArg_frame ..)
      | with_reducible apply Frame.step (kRead_frame ..) | with_reducible apply Frame.step (kPure_frame ..)
      | with_reducible apply Frame.step (kTake_frame ..) | with_reducible apply Frame.after (andThen_frame ..)
      | with_reducible apply Frame.iteRun | split | intro _)

theorem optimiserUnit_frame (k : Worker) (r : Run) (seed : Nat) (y0 : State) :
    Frame [.fresh, .out, .nextId, .fns, .regions, .cmds, .ports, .held, .leases, .hbm, .wbuf, .atoms, .dir, .dirs, .groups, .tables, .refRecs, .mems, .chds, .disp, .xfers, .hbmStk, .flss, .elog, .cnt] y0 (optimiserUnit k r seed y0).2 := by
  unfold optimiserUnit
  generalize 2 ^ 24 = c0
  generalize 2 ^ 23 = c1
  repeat' (first
      | extract_lets | with_reducible apply Frame.refl | exact rfl | with_reducible apply Frame.step (kRead_frame ..)
      | with_reducible apply Frame.step (kPure_frame ..) | with_reducible apply Frame.step (gradOf_frame ..)
      | with_reducible apply Frame.after (andThen_frame ..) | with_reducible apply Frame.iteRun | intro _)

theorem readInputs_frame (k : Worker) (r : Run) (y0 : Nat) (y1 : List Nat) (y2 : State) :
    Frame [.fresh, .out, .nextId, .fns, .regions, .cmds, .ports, .held, .leases, .hbm, .wbuf, .atoms, .dir, .dirs, .groups, .tables, .refRecs, .mems, .chds, .disp, .xfers, .hbmStk, .flss, .elog, .cnt] y2 (readInputs k r y0 y1 y2).2 := by
  induction y1 generalizing k r y0 y2 with
  | nil => (unfold readInputs; repeat' (first
       | extract_lets
       | with_reducible apply Frame.refl
       | exact rfl
       | with_reducible apply Frame.step (kPure_frame ..)
       | with_reducible apply Frame.step (kTake_frame ..)
       | with_reducible apply Frame.after (andThen_frame ..)
       | with_reducible apply Frame.after (ih ..)
       | split
       | intro _))
  | cons a y1 ih =>
    (unfold readInputs
     repeat' (first
         | extract_lets | with_reducible apply Frame.refl | exact rfl | with_reducible apply Frame.step (kPure_frame ..)
         | with_reducible apply Frame.step (kTake_frame ..) | with_reducible apply Frame.after (andThen_frame ..)
         | with_reducible apply Frame.after (ih ..) | split | intro _))

theorem reduceUnit_frame (k : Worker) (r : Run) (seed : Nat) (y0 : State) :
    Frame [.fresh, .out, .nextId, .fns, .regions, .cmds, .ports, .held, .leases, .hbm, .wbuf, .atoms, .dir, .dirs, .groups, .tables, .refRecs, .mems, .chds, .disp, .xfers, .hbmStk, .flss, .elog, .cnt] y0 (reduceUnit k r seed y0).2 := by
  unfold reduceUnit
  repeat' (first
      | extract_lets | with_reducible apply Frame.refl | exact rfl | with_reducible apply Frame.step (readInputs_frame ..)
      | with_reducible apply Frame.step (kPure_frame ..) | with_reducible apply Frame.after (andThen_frame ..) | intro _)

theorem quantiseUnit_frame (k : Worker) (r : Run) (y0 : State) :
    Frame [.fresh, .out, .nextId, .fns, .regions, .cmds, .ports, .held, .leases, .hbm, .wbuf, .atoms, .dir, .dirs, .groups, .tables, .refRecs, .mems, .chds, .disp, .xfers, .hbmStk, .flss, .elog, .cnt] y0 (quantiseUnit k r y0).2 := by
  unfold quantiseUnit
  repeat' (first
      | extract_lets | with_reducible apply Frame.refl | exact rfl | with_reducible apply Frame.step (readInputs_frame ..)
      | with_reducible apply Frame.step (kPure_frame ..) | with_reducible apply Frame.after (andThen_frame ..) | intro _)

theorem readIndex_frame (k : Worker) (r : Run) (y0 : State) :
    Frame [.fresh, .out, .nextId, .fns, .regions, .cmds, .ports, .held, .leases, .hbm, .wbuf, .atoms, .dir, .dirs, .groups, .tables, .refRecs, .mems, .chds, .disp, .xfers, .hbmStk, .flss, .elog, .cnt] y0 (readIndex k r y0).2 := by
  unfold readIndex
  repeat' (first
      | extract_lets | with_reducible apply Frame.refl | exact rfl | with_reducible apply Frame.step (kRead_frame ..)
      | with_reducible apply Frame.step (kArg_frame ..) | with_reducible apply Frame.step (kPure_frame ..)
      | with_reducible apply Frame.after (andThen_frame ..) | split | intro _)

theorem gatherUnit_frame (k : Worker) (r : Run) (y0 : State) :
    Frame [.fresh, .out, .nextId, .fns, .regions, .cmds, .ports, .held, .leases, .hbm, .wbuf, .atoms, .dir, .dirs, .groups, .tables, .refRecs, .mems, .chds, .disp, .xfers, .hbmStk, .flss, .elog, .cnt] y0 (gatherUnit k r y0).2 := by
  unfold gatherUnit
  repeat' (first
      | extract_lets | with_reducible apply Frame.refl | exact rfl | with_reducible apply Frame.step (readIndex_frame ..)
      | with_reducible apply Frame.step (kRead_frame ..) | with_reducible apply Frame.step (kPure_frame ..)
      | with_reducible apply Frame.after (andThen_frame ..) | intro _)

theorem scatterUnit_frame (k : Worker) (r : Run) (y0 : State) :
    Frame [.fresh, .out, .nextId, .fns, .regions, .cmds, .ports, .held, .leases, .hbm, .wbuf, .atoms, .dir, .dirs, .groups, .tables, .refRecs, .mems, .chds, .disp, .xfers, .hbmStk, .flss, .elog, .cnt] y0 (scatterUnit k r y0).2 := by
  unfold scatterUnit
  repeat' (first
      | extract_lets | with_reducible apply Frame.refl | exact rfl | with_reducible apply Frame.step (readIndex_frame ..)
      | with_reducible apply Frame.step (kRead_frame ..) | with_reducible apply Frame.step (kPure_frame ..)
      | with_reducible apply Frame.after (andThen_frame ..) | intro _)

theorem fold_frame (k : Worker) (r : Run) (e : List Byte) (y0 : State) :
    Frame [.fresh, .out, .nextId, .fns, .regions, .cmds, .ports, .held, .leases, .hbm, .wbuf, .atoms, .dir, .dirs, .groups, .tables, .refRecs, .mems, .chds, .disp, .xfers, .hbmStk, .flss, .elog, .cnt] y0 (fold k r e y0).2 := by
  unfold fold
  repeat' (first
      | extract_lets | with_reducible apply Frame.refl | exact rfl | with_reducible apply Frame.step (kTake_frame ..)
      | with_reducible apply Frame.step (kPure_frame ..) | with_reducible apply Frame.after (andThen_frame ..) | intro _)

theorem readRecord_frame (k : Worker) (r : Run) (arg : Nat) (y0 : State) :
    Frame [.fresh, .out, .nextId, .fns, .regions, .cmds, .ports, .held, .leases, .hbm, .wbuf, .atoms, .dir, .dirs, .groups, .tables, .refRecs, .mems, .chds, .disp, .xfers, .hbmStk, .flss, .elog, .cnt] y0 (readRecord k r arg y0).2 := by
  unfold readRecord
  repeat' (first
      | extract_lets | with_reducible apply Frame.refl | exact rfl | with_reducible apply Frame.step (kRead_frame ..))

theorem startOf_frame (k : Worker) (r : Run) (y0 : State) :
    Frame [.fresh, .out, .nextId, .fns, .regions, .cmds, .ports, .held, .leases, .hbm, .wbuf, .atoms, .dir, .dirs, .groups, .tables, .refRecs, .mems, .chds, .disp, .xfers, .hbmStk, .flss, .elog, .cnt] y0 (startOf k r y0).2 := by
  unfold startOf
  repeat' (first
      | extract_lets | with_reducible apply Frame.refl | exact rfl | with_reducible apply Frame.step (kPure_frame ..)
      | with_reducible apply Frame.step (readRecord_frame ..) | with_reducible apply Frame.after (andThen_frame ..)
      | with_reducible apply Frame.after (kSome_frame ..) | with_reducible apply Frame.iteRun | intro _)

theorem lrLocal_frame (k : Worker) (r : Run) (seed : Nat) (y0 : State) :
    Frame [.fresh, .out, .nextId, .fns, .regions, .cmds, .ports, .held, .leases, .hbm, .wbuf, .atoms, .dir, .dirs, .groups, .tables, .refRecs, .mems, .chds, .disp, .xfers, .hbmStk, .flss, .elog, .cnt] y0 (lrLocal k r seed y0).2 := by
  unfold lrLocal
  repeat' (first
      | extract_lets | with_reducible apply Frame.refl | exact rfl | with_reducible apply Frame.step (startOf_frame ..)
      | with_reducible apply Frame.step (kRead_frame ..) | with_reducible apply Frame.step (fold_frame ..)
      | with_reducible apply Frame.step (kPure_frame ..) | with_reducible apply Frame.after (andThen_frame ..) | intro _)

theorem lrProject_frame (k : Worker) (r : Run) (seed : Nat) (y0 : State) :
    Frame [.fresh, .out, .nextId, .fns, .regions, .cmds, .ports, .held, .leases, .hbm, .wbuf, .atoms, .dir, .dirs, .groups, .tables, .refRecs, .mems, .chds, .disp, .xfers, .hbmStk, .flss, .elog, .cnt] y0 (lrProject k r seed y0).2 := by
  unfold lrProject
  repeat' (first
      | extract_lets | with_reducible apply Frame.refl | exact rfl | with_reducible apply Frame.step (startOf_frame ..)
      | with_reducible apply Frame.step (kRead_frame ..) | with_reducible apply Frame.step (fold_frame ..)
      | with_reducible apply Frame.step (kPure_frame ..) | with_reducible apply Frame.after (andThen_frame ..) | intro _)

theorem poolCols_frame (k : Worker) (r : Run) (y0 : State) :
    Frame [.fresh, .out, .nextId, .fns, .regions, .cmds, .ports, .held, .leases, .hbm, .wbuf, .atoms, .dir, .dirs, .groups, .tables, .refRecs, .mems, .chds, .disp, .xfers, .hbmStk, .flss, .elog, .cnt] y0 (poolCols k r y0).2 := by
  unfold poolCols
  repeat' (first
      | extract_lets | with_reducible apply Frame.refl | exact rfl | with_reducible apply Frame.step (kTake_frame ..)
      | with_reducible apply Frame.step (kPure_frame ..) | with_reducible apply Frame.after (andThen_frame ..) | intro _)

theorem lrOrtho_frame (k : Worker) (r : Run) (seed : Nat) (y0 : State) :
    Frame [.fresh, .out, .nextId, .fns, .regions, .cmds, .ports, .held, .leases, .hbm, .wbuf, .atoms, .dir, .dirs, .groups, .tables, .refRecs, .mems, .chds, .disp, .xfers, .hbmStk, .flss, .elog, .cnt] y0 (lrOrtho k r seed y0).2 := by
  unfold lrOrtho
  repeat' (first
      | extract_lets | with_reducible apply Frame.refl | exact rfl | with_reducible apply Frame.step (poolCols_frame ..)
      | with_reducible apply Frame.step (kPure_frame ..) | with_reducible apply Frame.after (andThen_frame ..) | intro _)

theorem lrBack_frame (k : Worker) (r : Run) (seed : Nat) (y0 : State) :
    Frame [.fresh, .out, .nextId, .fns, .regions, .cmds, .ports, .held, .leases, .hbm, .wbuf, .atoms, .dir, .dirs, .groups, .tables, .refRecs, .mems, .chds, .disp, .xfers, .hbmStk, .flss, .elog, .cnt] y0 (lrBack k r seed y0).2 := by
  unfold lrBack
  repeat' (first
      | extract_lets | with_reducible apply Frame.refl | exact rfl | with_reducible apply Frame.step (kRead_frame ..)
      | with_reducible apply Frame.step (kPure_frame ..) | with_reducible apply Frame.after (andThen_frame ..) | intro _)

theorem lrFinish_frame (k : Worker) (r : Run) (y0 : State) :
    Frame [.fresh, .out, .nextId, .fns, .regions, .cmds, .ports, .held, .leases, .hbm, .wbuf, .atoms, .dir, .dirs, .groups, .tables, .refRecs, .mems, .chds, .disp, .xfers, .hbmStk, .flss, .elog, .cnt] y0 (lrFinish k r y0).2 := by
  unfold lrFinish
  repeat' (first
      | extract_lets | with_reducible apply Frame.refl | exact rfl | with_reducible apply Frame.step (poolCols_frame ..)
      | with_reducible apply Frame.step (kPure_frame ..) | with_reducible apply Frame.after (andThen_frame ..) | intro _)

theorem lrResidual_frame (k : Worker) (r : Run) (seed : Nat) (y0 : State) :
    Frame [.fresh, .out, .nextId, .fns, .regions, .cmds, .ports, .held, .leases, .hbm, .wbuf, .atoms, .dir, .dirs, .groups, .tables, .refRecs, .mems, .chds, .disp, .xfers, .hbmStk, .flss, .elog, .cnt] y0 (lrResidual k r seed y0).2 := by
  unfold lrResidual
  repeat' (first
      | extract_lets | with_reducible apply Frame.refl | exact rfl | with_reducible apply Frame.step (kRead_frame ..)
      | with_reducible apply Frame.step (kPure_frame ..) | with_reducible apply Frame.step (readRecord_frame ..)
      | with_reducible apply Frame.after (andThen_frame ..) | split | intro _)

theorem lrExpand_frame (k : Worker) (r : Run) (seed : Nat) (y0 : State) :
    Frame [.fresh, .out, .nextId, .fns, .regions, .cmds, .ports, .held, .leases, .hbm, .wbuf, .atoms, .dir, .dirs, .groups, .tables, .refRecs, .mems, .chds, .disp, .xfers, .hbmStk, .flss, .elog, .cnt] y0 (lrExpand k r seed y0).2 := by
  unfold lrExpand
  repeat' (first
      | extract_lets | with_reducible apply Frame.refl | exact rfl | with_reducible apply Frame.step (kRead_frame ..)
      | with_reducible apply Frame.step (kPure_frame ..) | with_reducible apply Frame.step (kArg_frame ..)
      | with_reducible apply Frame.after (andThen_frame ..) | split | intro _)

theorem unitOf_frame (k : Worker) (r : Run) (seed : Nat) (y0 : State) :
    Frame [.fresh, .out, .nextId, .fns, .regions, .cmds, .ports, .held, .leases, .hbm, .wbuf, .atoms, .dir, .dirs, .groups, .tables, .refRecs, .mems, .chds, .disp, .xfers, .hbmStk, .flss, .elog, .cnt] y0 (unitOf k r seed y0).2 := by
  unfold unitOf
  repeat' (first
      | extract_lets | with_reducible apply Frame.refl | exact rfl | with_reducible apply Frame.step (reduceUnit_frame ..)
      | with_reducible apply Frame.step (quantiseUnit_frame ..) | with_reducible apply Frame.step (gatherUnit_frame ..)
      | with_reducible apply Frame.step (scatterUnit_frame ..) | with_reducible apply Frame.step (lrLocal_frame ..)
      | with_reducible apply Frame.step (lrProject_frame ..) | with_reducible apply Frame.step (lrOrtho_frame ..)
      | with_reducible apply Frame.step (lrBack_frame ..) | with_reducible apply Frame.step (lrFinish_frame ..)
      | with_reducible apply Frame.step (lrResidual_frame ..) | with_reducible apply Frame.step (lrExpand_frame ..)
      | with_reducible apply Frame.step (optimiserUnit_frame ..) | split)

theorem State.failNext_frame (s : State) (id : Nat) :
    Frame [.fresh, .out, .fns, .cmds, .ports, .dir, .engines, .chds, .disp, .elog, .cnt] s (State.failNext s id) := by
  unfold State.failNext
  repeat' (first
      | extract_lets | with_reducible apply Frame.refl | exact rfl | with_reducible apply Frame.step (State.failRun_frame ..)
      | split)

theorem State.unitFinished_frame (s : State) (id : Nat) (w : UnitWork) :
    Frame [.fresh, .out, .fns, .cmds, .ports, .dir, .engines, .chds, .disp, .elog, .cnt] s (State.unitFinished s id w) := by
  unfold State.unitFinished
  repeat' (first
      | extract_lets | with_reducible apply Frame.refl | exact rfl
      | with_reducible apply Frame.step (State.failNext_frame ..) | with_reducible apply Frame.step (State.modRun_frame ..))

theorem State.quantSat_frame (s : State) (e : Nat) (ctx : Nat) (n : Nat) :
    Frame [.out, .fns, .chds, .cnt] s (State.quantSat s e ctx n) := by
  unfold State.quantSat
  repeat' (first
      | extract_lets | with_reducible apply Frame.refl | exact rfl | with_reducible apply Frame.step (State.count_frame ..)
      | with_reducible apply Frame.step (State.modChd_frame ..) | with_reducible apply Frame.ite)

theorem State.unitRetired_frame (s : State) (r : Run) (w : UnitWork) :
    Frame [.fresh, .out, .fns, .cmds, .ports, .dir, .engines, .chds, .disp, .elog, .cnt] s (State.unitRetired s r w) := by
  unfold State.unitRetired
  repeat' (first
      | extract_lets | with_reducible apply Frame.refl | exact rfl | with_reducible apply Frame.step (State.modRun_frame ..)
      | with_reducible apply Frame.step (State.quantSat_frame ..)
      | with_reducible apply Frame.step (State.settleRun_frame ..)
      | with_reducible apply Frame.step (State.modEngine_frame ..)
      | with_reducible apply Frame.step (State.failNext_frame ..) | with_reducible apply Frame.eachTrans
      | with_reducible apply Frame.ite | intro _)

theorem State.putWrite_frame (k : Worker) (s : State) (w : UnitWrite) :
    Frame [.fresh, .out, .nextId, .fns, .regions, .cmds, .ports, .held, .leases, .hbm, .wbuf, .atoms, .dir, .dirs, .groups, .tables, .refRecs, .mems, .chds, .disp, .xfers, .hbmStk, .flss, .elog, .cnt] s (State.putWrite k s w).2 := by
  unfold State.putWrite
  repeat' (first
      | extract_lets | with_reducible apply Frame.refl | exact rfl
      | with_reducible apply Frame.step (State.moverVadd_frame ..)
      | with_reducible apply Frame.step (State.writePiece_frame ..)
      | with_reducible apply Frame.step (State.streamed_frame ..) | with_reducible apply Frame.iteSnd | split)

theorem State.ready_frame (s : State) (m : Mover) (la : Nat) (n : Nat) (p : Perm) (write : Bool) :
    Frame [.fresh, .out, .nextId, .fns, .regions, .cmds, .ports, .held, .leases, .hbm, .wbuf, .atoms, .dir, .dirs, .groups, .tables, .refRecs, .mems, .chds, .disp, .xfers, .hbmStk, .flss, .elog, .cnt] s (State.ready s m la n p write).2 := by
  unfold State.ready
  repeat' (first
      | extract_lets | with_reducible apply Frame.refl | exact rfl
      | with_reducible apply Frame.step (State.sendRecall_frame ..) | with_reducible apply Frame.step (State.reach_frame ..)
      | with_reducible apply Frame.iteSnd | split)

theorem State.allReady_frame (s : State) (m : Mover) (l : List (Nat × Nat)) (p : Perm) (write : Bool) :
    Frame [.fresh, .out, .nextId, .fns, .regions, .cmds, .ports, .held, .leases, .hbm, .wbuf, .atoms, .dir, .dirs, .groups, .tables, .refRecs, .mems, .chds, .disp, .xfers, .hbmStk, .flss, .elog, .cnt] s (State.allReady s m l p write).2 := by
  unfold State.allReady
  repeat' (first
      | extract_lets | with_reducible apply Frame.refl | exact rfl | with_reducible apply Frame.step (State.ready_frame ..)
      | with_reducible apply Frame.foldTrans | intro _)

theorem State.doAll_frame {l : List Piece}{α : Type} (s : State) (f : State → α → Got Unit × State) (y0 : List α) (y1 : Nat) (hl : ([].all fun f => l.contains f) = true) (hf : ∀ s a, Frame l s (f s a).2) :
    Frame l s (State.doAll s f y0 y1).2 := by
  induction y0 generalizing s y1 with
  | nil => (unfold State.doAll; repeat' (first
       | extract_lets
       | with_reducible apply Frame.refl
       | with_reducible apply Frame.after (ih ..)
       | with_reducible apply Frame.after (hf ..)
       | split))
  | cons a y0 ih =>
    (unfold State.doAll
     repeat' (first
         | extract_lets | with_reducible apply Frame.refl | with_reducible apply Frame.after (ih ..)
         | with_reducible apply Frame.after (hf ..) | split))

theorem State.writeStep_frame (s : State) (k : Worker) (r : Run) (w : UnitWork) :
    Frame [.fresh, .out, .nextId, .fns, .regions, .cmds, .ports, .held, .leases, .hbm, .wbuf, .atoms, .dir, .dirs, .groups, .tables, .refRecs, .mems, .engines, .chds, .disp, .xfers, .hbmStk, .flss, .elog, .cnt] s (State.writeStep s k r w) := by
  unfold State.writeStep
  repeat' (first
      | extract_lets | with_reducible apply Frame.refl | exact rfl
      | with_reducible apply Frame.step (State.unitRetired_frame ..)
      | with_reducible apply Frame.step (State.allReady_frame ..) | with_reducible apply Frame.step (State.failRun_frame ..)
      | with_reducible apply Frame.step (State.putWrite_frame ..) | with_reducible apply Frame.step (State.modRun_frame ..)
      | with_reducible apply Frame.after (State.doAll_frame ..) | with_reducible apply Frame.ite | split | intro _)

theorem State.readStep_frame (s : State) (k : Worker) (r : Run) (u : Nat) :
    Frame [.fresh, .out, .nextId, .fns, .regions, .cmds, .ports, .held, .leases, .hbm, .wbuf, .atoms, .dir, .dirs, .groups, .tables, .refRecs, .mems, .engines, .chds, .disp, .xfers, .hbmStk, .flss, .elog, .cnt] s (State.readStep s k r u) := by
  unfold State.readStep
  generalize 2 ^ 32 = c0
  repeat' (first
      | extract_lets | with_reducible apply Frame.refl | exact rfl
      | with_reducible apply Frame.step (State.unitFinished_frame ..)
      | with_reducible apply Frame.step (State.allReady_frame ..) | with_reducible apply Frame.step (unitOf_frame ..) | split
      | with_reducible apply Frame.step (Frame.set_fresh ..))

theorem State.builtinStep_frame (s : State) (e : Nat) (r : Run) :
    Frame [.fresh, .out, .nextId, .fns, .regions, .cmds, .ports, .held, .leases, .hbm, .wbuf, .atoms, .dir, .dirs, .groups, .tables, .refRecs, .mems, .engines, .chds, .disp, .xfers, .hbmStk, .flss, .elog, .cnt] s (State.builtinStep s e r) := by
  unfold State.builtinStep
  repeat' (first
      | extract_lets | with_reducible apply Frame.refl | exact rfl | with_reducible apply Frame.step (kRead_frame ..)
      | with_reducible apply Frame.step (State.failRun_frame ..) | with_reducible apply Frame.step (State.modRun_frame ..)
      | with_reducible apply Frame.step (State.writeStep_frame ..)
      | with_reducible apply Frame.step (State.readStep_frame ..) | with_reducible apply Frame.ite | split)

theorem State.issue_frame {l : List Piece} (s : State) (e : Nat) (op : Nat) (f : State → Slot4 → State) (hl : ([].all fun f => l.contains f) = true) (hf : ∀ s w, Frame l s (f s w)) :
    Frame l s (State.issue s e op f) := by
  unfold State.issue
  repeat' (first
      | extract_lets | with_reducible apply Frame.refl | with_reducible apply Frame.after (hf ..)
      | with_reducible apply Frame.ite | split)

theorem State.issued_frame (s : State) (i : Slot4) :
    Frame [.out, .fns, .cnt] s (State.issued s i) := by
  unfold State.issued
  repeat' (first
      | extract_lets | with_reducible apply Frame.refl | exact rfl | with_reducible apply Frame.step (State.fixed_frame ..)
      | with_reducible apply Frame.step (State.count_frame ..))

theorem State.retire_frame (s : State) (i : Slot4) (f : Engine → Engine) (skip : Nat) :
    Frame [.out, .fns, .engines, .cnt] s (State.retire s i f skip) := by
  unfold State.retire
  repeat' (first
      | extract_lets | with_reducible apply Frame.refl | exact rfl
      | with_reducible apply Frame.step (State.modEngine_frame ..) | with_reducible apply Frame.step (State.issued_frame ..))

theorem State.retireV_frame (s : State) (i : Slot4) (cycles : Nat) (f : Engine → Engine) :
    Frame [.out, .fns, .engines, .cnt] s (State.retireV s i cycles f) := by
  unfold State.retireV
  repeat' (first
      | extract_lets | with_reducible apply Frame.refl | exact rfl | with_reducible apply Frame.step (State.count_frame ..)
      | with_reducible apply Frame.step (State.retire_frame ..))

theorem State.failAt_frame (s : State) (i : Slot4) (reason : Nat) (la : Nat) :
    Frame [.fresh, .out, .fns, .cmds, .ports, .dir, .engines, .chds, .disp, .elog, .cnt] s (State.failAt s i reason la) := by
  unfold State.failAt
  repeat' (first
      | extract_lets | with_reducible apply Frame.refl | exact rfl | with_reducible apply Frame.step (State.failRun_frame ..)
      | with_reducible apply Frame.step (State.issued_frame ..))

theorem State.opEnd_frame (s : State) (i : Slot4) :
    Frame [.fresh, .out, .fns, .cmds, .ports, .dir, .engines, .disp, .elog, .cnt] s (State.opEnd s i) := by
  unfold State.opEnd
  repeat' (first
      | extract_lets | with_reducible apply Frame.refl | exact rfl
      | with_reducible apply Frame.step (State.modEngine_frame ..) | with_reducible apply Frame.step (State.issued_frame ..)
      | with_reducible apply Frame.step (State.modRun_frame ..) | with_reducible apply Frame.step (State.settleRun_frame ..)
      | with_reducible apply Frame.ite)

theorem State.opLoop_frame (s : State) (i : Slot4) :
    Frame [.out, .fns, .engines, .cnt] s (State.opLoop s i) := by
  unfold State.opLoop
  repeat' (first
      | extract_lets | with_reducible apply Frame.refl | exact rfl | with_reducible apply Frame.step (State.retire_frame ..)
      | with_reducible apply Frame.ite)

theorem State.opSkip_frame (s : State) (i : Slot4) :
    Frame [.out, .fns, .engines, .cnt] s (State.opSkip s i) := by
  unfold State.opSkip
  repeat' (first
      | extract_lets | with_reducible apply Frame.refl | exact rfl | with_reducible apply Frame.step (State.retire_frame ..))

theorem State.opLi_frame (s : State) (i : Slot4) :
    Frame [.out, .fns, .engines, .cnt] s (State.opLi s i) := by
  unfold State.opLi
  repeat' (first
      | extract_lets | with_reducible apply Frame.refl | exact rfl | with_reducible apply Frame.step (State.retire_frame ..))

theorem State.opSalu_frame (s : State) (i : Slot4) :
    Frame [.fresh, .out, .fns, .engines, .cnt] s (State.opSalu s i) := by
  unfold State.opSalu
  repeat' (first
      | extract_lets | with_reducible apply Frame.refl | exact rfl
      | with_reducible apply Frame.step (State.takeFree_frame ..) | with_reducible apply Frame.step (State.retire_frame ..))

theorem State.opArg_frame (s : State) (i : Slot4) :
    Frame [.out, .fns, .engines, .cnt] s (State.opArg s i) := by
  unfold State.opArg
  repeat' (first
      | extract_lets | with_reducible apply Frame.refl | exact rfl | with_reducible apply Frame.step (State.retire_frame ..))

theorem State.opStream_frame (s : State) (i : Slot4) (st : Stream) :
    Frame [.fresh, .out, .fns, .cmds, .ports, .dir, .engines, .chds, .disp, .elog, .cnt] s (State.opStream s i st) := by
  unfold State.opStream
  repeat' (first
      | extract_lets | with_reducible apply Frame.refl | exact rfl | with_reducible apply Frame.step (State.failAt_frame ..)
      | with_reducible apply Frame.step (State.retire_frame ..) | with_reducible apply Frame.ite | split)

theorem State.opWait_frame (s : State) (i : Slot4) :
    Frame [.out, .fns, .engines, .cnt] s (State.opWait s i) := by
  unfold State.opWait
  repeat' (first
      | extract_lets | with_reducible apply Frame.refl | exact rfl | with_reducible apply Frame.step (State.retire_frame ..)
      | with_reducible apply Frame.ite)

theorem State.opFence_frame (s : State) (i : Slot4) :
    Frame [.out, .fns, .engines, .cnt] s (State.opFence s i) := by
  unfold State.opFence
  repeat' (first
      | extract_lets | with_reducible apply Frame.refl | exact rfl | with_reducible apply Frame.step (State.retire_frame ..)
      | with_reducible apply Frame.ite)

theorem State.opExpand_frame (s : State) (i : Slot4) :
    Frame [.fresh, .out, .fns, .cmds, .ports, .dir, .engines, .chds, .disp, .elog, .cnt] s (State.opExpand s i) := by
  unfold State.opExpand
  repeat' (first
      | extract_lets | with_reducible apply Frame.refl | exact rfl | with_reducible apply Frame.step (State.retireV_frame ..)
      | with_reducible apply Frame.step (State.failRun_frame ..) | with_reducible apply Frame.ite | split
      | with_reducible apply Frame.step (Frame.set_fresh ..))

theorem State.opVld_frame (s : State) (i : Slot4) :
    Frame [.fresh, .out, .fns, .cmds, .ports, .dir, .engines, .chds, .disp, .elog, .cnt] s (State.opVld s i) := by
  unfold State.opVld
  repeat' (first
      | extract_lets | with_reducible apply Frame.refl | exact rfl
      | with_reducible apply Frame.step (State.opExpand_frame ..) | with_reducible apply Frame.step (State.failAt_frame ..)
      | with_reducible apply Frame.step (State.retireV_frame ..) | with_reducible apply Frame.ite)

theorem State.opVst_frame (s : State) (i : Slot4) :
    Frame [.fresh, .out, .fns, .cmds, .ports, .dir, .engines, .chds, .disp, .elog, .cnt] s (State.opVst s i) := by
  unfold State.opVst
  repeat' (first
      | extract_lets | with_reducible apply Frame.refl | exact rfl | with_reducible apply Frame.step (State.failAt_frame ..)
      | with_reducible apply Frame.step (State.retireV_frame ..) | with_reducible apply Frame.ite)

theorem State.opValu_frame (s : State) (i : Slot4) :
    Frame [.out, .fns, .engines, .cnt] s (State.opValu s i) := by
  unfold State.opValu
  repeat' (first
      | extract_lets | with_reducible apply Frame.refl | exact rfl
      | with_reducible apply Frame.step (State.retireV_frame ..))

theorem State.opVfma_frame (s : State) (i : Slot4) :
    Frame [.out, .fns, .engines, .cnt] s (State.opVfma s i) := by
  unfold State.opVfma
  repeat' (first
      | extract_lets | with_reducible apply Frame.refl | exact rfl
      | with_reducible apply Frame.step (State.retireV_frame ..))

theorem State.opVsfu_frame (s : State) (i : Slot4) :
    Frame [.out, .fns, .engines, .cnt] s (State.opVsfu s i) := by
  unfold State.opVsfu
  repeat' (first
      | extract_lets | with_reducible apply Frame.refl | exact rfl
      | with_reducible apply Frame.step (State.retireV_frame ..))

theorem State.opVred_frame (s : State) (i : Slot4) :
    Frame [.fresh, .out, .fns, .engines, .cnt] s (State.opVred s i) := by
  unfold State.opVred
  repeat' (first
      | extract_lets | with_reducible apply Frame.refl | exact rfl | with_reducible apply Frame.step (State.retireV_frame ..)
      | with_reducible apply Frame.step (Frame.set_fresh ..))

theorem State.opVbcast_frame (s : State) (i : Slot4) :
    Frame [.out, .fns, .engines, .cnt] s (State.opVbcast s i) := by
  unfold State.opVbcast
  repeat' (first
      | extract_lets | with_reducible apply Frame.refl | exact rfl
      | with_reducible apply Frame.step (State.retireV_frame ..))

theorem State.opVcvt_frame (s : State) (i : Slot4) :
    Frame [.out, .fns, .engines, .chds, .cnt] s (State.opVcvt s i) := by
  unfold State.opVcvt
  repeat' (first
      | extract_lets | with_reducible apply Frame.refl | exact rfl | with_reducible apply Frame.step (State.retireV_frame ..)
      | with_reducible apply Frame.step (State.quantSat_frame ..) | with_reducible apply Frame.ite)

theorem State.opMzero_frame (s : State) (i : Slot4) :
    Frame [.out, .fns, .engines, .cnt] s (State.opMzero s i) := by
  unfold State.opMzero
  repeat' (first
      | extract_lets | with_reducible apply Frame.refl | exact rfl | with_reducible apply Frame.step (State.retire_frame ..))

theorem State.opMmac_frame (s : State) (i : Slot4) :
    Frame [.fresh, .out, .fns, .cmds, .ports, .dir, .engines, .chds, .disp, .elog, .cnt] s (State.opMmac s i) := by
  unfold State.opMmac
  repeat' (first
      | extract_lets | with_reducible apply Frame.refl | exact rfl | with_reducible apply Frame.step (State.failAt_frame ..)
      | with_reducible apply Frame.step (State.count_frame ..) | with_reducible apply Frame.step (State.retire_frame ..)
      | with_reducible apply Frame.ite | with_reducible apply Frame.step (Frame.set_fresh ..))

theorem State.opMst_frame (s : State) (i : Slot4) :
    Frame [.fresh, .out, .fns, .cmds, .ports, .dir, .engines, .chds, .disp, .elog, .cnt] s (State.opMst s i) := by
  unfold State.opMst
  repeat' (first
      | extract_lets | with_reducible apply Frame.refl | exact rfl | with_reducible apply Frame.step (State.failAt_frame ..)
      | with_reducible apply Frame.step (State.retire_frame ..) | with_reducible apply Frame.ite)

theorem State.endStream_frame (s : State) (e : Nat) (st : Stream) (f : Engine → Engine) :
    Frame [.fresh, .out, .fns, .cmds, .ports, .dir, .engines, .disp, .elog, .cnt] s (State.endStream s e st f) := by
  unfold State.endStream
  repeat' (first
      | extract_lets | with_reducible apply Frame.refl | exact rfl
      | with_reducible apply Frame.step (State.modEngine_frame ..)
      | with_reducible apply Frame.step (State.settleRun_frame ..) | split)

theorem State.failStream_frame (s : State) (e : Nat) (r : Run) (st : Stream) (reason : Nat) (la : Nat) :
    Frame [.fresh, .out, .fns, .cmds, .ports, .dir, .engines, .chds, .disp, .elog, .cnt] s (State.failStream s e r st reason la) := by
  unfold State.failStream
  repeat' (first
      | extract_lets | with_reducible apply Frame.refl | exact rfl
      | with_reducible apply Frame.step (State.settleRun_frame ..) | with_reducible apply Frame.step (State.failRun_frame ..)
      | with_reducible apply Frame.step (State.modEngine_frame ..))

theorem State.doneSin_frame (s : State) (e : Nat) (r : Run) (g : Engine) (st : Stream) :
    Frame [.fresh, .out, .nextId, .fns, .regions, .cmds, .ports, .held, .leases, .hbm, .wbuf, .atoms, .dir, .dirs, .groups, .tables, .refRecs, .mems, .engines, .chds, .disp, .xfers, .hbmStk, .flss, .elog, .cnt] s (State.doneSin s e r g st) := by
  unfold State.doneSin
  repeat' (first
      | extract_lets | with_reducible apply Frame.refl | exact rfl
      | with_reducible apply Frame.step (State.failStream_frame ..)
      | with_reducible apply Frame.step (State.moverRead_frame ..)
      | with_reducible apply Frame.step (State.endStream_frame ..)
      | with_reducible apply Frame.step (State.streamed_frame ..)
      | with_reducible apply Frame.step (State.modEngine_frame ..) | with_reducible apply Frame.ite | split)

theorem State.putStream_frame {l : List Piece}{α : Type} (s : State) (e : Nat) (r : Run) (st : Stream) (p : Perm) (ranges : List (Nat × Nat)) (ops : List α) (f : State → α → Got Unit × State) (bytes : Nat) (sat : Nat) (hl : ([.fresh, .out, .nextId, .fns, .regions, .cmds, .ports, .held, .leases, .hbm, .wbuf, .atoms, .dir, .dirs, .groups, .tables, .refRecs, .mems, .engines, .chds, .disp, .xfers, .hbmStk, .flss, .elog, .cnt].all fun f => l.contains f) = true) (hf : ∀ s a, Frame l s (f s a).2) :
    Frame l s (State.putStream s e r st p ranges ops f bytes sat) := by
  unfold State.putStream
  repeat' (first
      | extract_lets | with_reducible apply Frame.refl | exact rfl | with_reducible assumption
      | with_reducible apply Frame.stepIn hl (State.allReady_frame ..)
      | with_reducible apply Frame.stepIn hl (State.failStream_frame ..)
      | with_reducible apply Frame.stepIn hl (State.modEngine_frame ..)
      | with_reducible apply Frame.stepIn hl (State.endStream_frame ..)
      | with_reducible apply Frame.stepIn hl (State.quantSat_frame ..)
      | with_reducible apply Frame.stepIn hl (State.streamed_frame ..)
      | with_reducible apply Frame.after (State.doAll_frame ..) | split)

theorem State.doneSout_frame (s : State) (e : Nat) (r : Run) (g : Engine) (st : Stream) :
    Frame [.fresh, .out, .nextId, .fns, .regions, .cmds, .ports, .held, .leases, .hbm, .wbuf, .atoms, .dir, .dirs, .groups, .tables, .refRecs, .mems, .engines, .chds, .disp, .xfers, .hbmStk, .flss, .elog, .cnt] s (State.doneSout s e r g st) := by
  unfold State.doneSout
  repeat' (first
      | extract_lets | with_reducible apply Frame.refl | exact rfl
      | with_reducible apply Frame.step (State.writePiece_frame ..)
      | with_reducible apply Frame.after (State.putStream_frame ..) | intro _)

theorem State.doneSacc_frame (s : State) (e : Nat) (r : Run) (g : Engine) (st : Stream) :
    Frame [.fresh, .out, .nextId, .fns, .regions, .cmds, .ports, .held, .leases, .hbm, .wbuf, .atoms, .dir, .dirs, .groups, .tables, .refRecs, .mems, .engines, .chds, .disp, .xfers, .hbmStk, .flss, .elog, .cnt] s (State.doneSacc s e r g st) := by
  unfold State.doneSacc
  repeat' (first
      | extract_lets | with_reducible apply Frame.refl | exact rfl
      | with_reducible apply Frame.step (State.moverAcc_frame ..)
      | with_reducible apply Frame.after (State.putStream_frame ..) | split | intro _)

theorem State.doneGather_frame (s : State) (e : Nat) (r : Run) (g : Engine) (st : Stream) :
    Frame [.fresh, .out, .nextId, .fns, .regions, .cmds, .ports, .held, .leases, .hbm, .wbuf, .atoms, .dir, .dirs, .groups, .tables, .refRecs, .mems, .engines, .chds, .disp, .xfers, .hbmStk, .flss, .elog, .cnt] s (State.doneGather s e r g st) := by
  unfold State.doneGather
  repeat' (first
      | extract_lets | with_reducible apply Frame.refl | exact rfl
      | with_reducible apply Frame.step (State.readPieces_frame ..)
      | with_reducible apply Frame.step (State.endStream_frame ..)
      | with_reducible apply Frame.step (State.failStream_frame ..)
      | with_reducible apply Frame.step (State.streamed_frame ..) | with_reducible apply Frame.ite | split)

theorem State.doneScatter_frame (s : State) (e : Nat) (r : Run) (g : Engine) (st : Stream) :
    Frame [.fresh, .out, .nextId, .fns, .regions, .cmds, .ports, .held, .leases, .hbm, .wbuf, .atoms, .dir, .dirs, .groups, .tables, .refRecs, .mems, .engines, .chds, .disp, .xfers, .hbmStk, .flss, .elog, .cnt] s (State.doneScatter s e r g st) := by
  unfold State.doneScatter
  repeat' (first
      | extract_lets | with_reducible apply Frame.refl | exact rfl
      | with_reducible apply Frame.step (State.moverVadd_frame ..)
      | with_reducible apply Frame.after (State.putStream_frame ..) | intro _)

theorem State.streamStep_frame (s : State) (e : Nat) (tag : Nat) (r : Run) :
    Frame [.fresh, .out, .nextId, .fns, .regions, .cmds, .ports, .held, .leases, .hbm, .wbuf, .atoms, .dir, .dirs, .groups, .tables, .refRecs, .mems, .engines, .chds, .disp, .xfers, .hbmStk, .flss, .elog, .cnt] s (State.streamStep s e tag r) := by
  unfold State.streamStep
  repeat' (first
      | extract_lets | with_reducible apply Frame.refl | exact rfl | with_reducible apply Frame.step (State.doneSin_frame ..)
      | with_reducible apply Frame.step (State.doneSout_frame ..) | with_reducible apply Frame.step (State.doneSacc_frame ..)
      | with_reducible apply Frame.step (State.doneGather_frame ..)
      | with_reducible apply Frame.step (State.doneScatter_frame ..) | with_reducible apply Frame.ite | split)

end Sys2Proof.Machine
end

