-- ==== Sys2Proof/Laws/FrameRegions.lean ====
section
/-!
SUPPORT. What each operation can change: regions, hints, flash, HBM, sharing, contexts and counters. One lemma per operation, proved from those of the operations it
calls.
-/

namespace Sys2Proof.Machine

set_option maxRecDepth 2000
set_option Elab.async false

open Sys2Proof

theorem State.pickSeal_frame (s : State) :
    Frame [.fresh] s (State.pickSeal s).2 := by
  unfold State.pickSeal
  repeat' (first
      | extract_lets | with_reducible apply Frame.refl | exact rfl | with_reducible apply Frame.step (State.pick_frame ..))

theorem State.newContext_frame (s : State) (c : Cmd) (x : Ctx) :
    Frame [.fresh, .out, .fns, .ctxs, .cmds, .ports, .cnt, .keys] s (State.newContext s c x) := by
  unfold State.newContext
  repeat' (first
      | extract_lets | with_reducible apply Frame.refl | exact rfl | with_reducible apply Frame.step (State.pick_frame ..)
      | with_reducible apply Frame.step (State.reply_frame ..) | with_reducible apply Frame.step (State.loadKey_frame ..)
      | with_reducible apply Frame.step (State.modCtx_frame ..) | with_reducible apply Frame.step (State.replyAs_frame ..)
      | (with_reducible apply Frame.ofPair; with_reducible assumption) | split)

theorem startCtxCreate_frame (s : State) (c : Cmd) :
    Frame [.fresh, .out, .nextKey, .fns, .ctxs, .sealed, .regions, .cmds, .ports, .cnt, .keys] s (startCtxCreate s c) := by
  unfold startCtxCreate
  repeat' (first
      | extract_lets | with_reducible apply Frame.refl | exact rfl | with_reducible apply Frame.step (State.reply_frame ..)
      | with_reducible apply Frame.step (State.bad_frame ..) | with_reducible apply Frame.step (State.pick_frame ..)
      | with_reducible apply Frame.step (State.modRegion_frame ..) | with_reducible apply Frame.step (State.modCtx_frame ..)
      | with_reducible apply Frame.step (State.loadKey_frame ..) | with_reducible apply Frame.step (State.replyAs_frame ..)
      | with_reducible apply Frame.step (State.takeKey_frame ..) | with_reducible apply Frame.step (State.pickSeal_frame ..)
      | with_reducible apply Frame.step (State.newContext_frame ..) | with_reducible apply Frame.eachTrans
      | (with_reducible apply Frame.ofPair; with_reducible assumption) | with_reducible apply Frame.ite | split | intro _
      | with_reducible apply Frame.step (Frame.set_sealed ..))

theorem State.unbindHost_frame (s : State) (p : HWin → Bool) :
    Frame [.hep] s (State.unbindHost s p) := by
  unfold State.unbindHost
  repeat' (first
      | extract_lets | with_reducible apply Frame.refl | exact rfl | with_reducible apply Frame.step (State.modHep_frame ..))

theorem State.endReadsOf_frame (s : State) (c : Nat) :
    Frame [.fns] s (State.endReadsOf s c) := by
  unfold State.endReadsOf
  repeat' (first
      | extract_lets | with_reducible apply Frame.refl | exact rfl | with_reducible apply Frame.step (State.modFn_frame ..)
      | with_reducible apply Frame.ite)

theorem startPublish_frame (s : State) (c : Cmd) :
    Frame [.fresh, .out, .fns, .regions, .cmds, .ports, .groups, .cnt] s (startPublish s c) := by
  unfold startPublish
  repeat' (first
      | extract_lets | with_reducible apply Frame.refl | exact rfl | with_reducible apply Frame.step (State.bad_frame ..)
      | with_reducible apply Frame.step (State.reply_frame ..) | with_reducible apply Frame.step (State.endBuilds_frame ..)
      | with_reducible apply Frame.step (State.setRegion_frame ..) | with_reducible apply Frame.ite | split)

theorem State.pickIndex_frame (s : State) :
    Frame [.fresh] s (State.pickIndex s).2 := by
  unfold State.pickIndex
  repeat' (first
      | extract_lets | with_reducible apply Frame.refl | exact rfl | with_reducible apply Frame.step (State.pick_frame ..))

theorem startSubscribe_frame (s : State) (c : Cmd) :
    Frame [.fresh, .out, .fns, .subs, .cmds, .ports, .cnt] s (startSubscribe s c) := by
  unfold startSubscribe
  repeat' (first
      | extract_lets | with_reducible apply Frame.refl | exact rfl | with_reducible apply Frame.step (State.bad_frame ..)
      | with_reducible apply Frame.step (State.reply_frame ..) | with_reducible apply Frame.step (State.pickIndex_frame ..)
      | (with_reducible apply Frame.ofPair; with_reducible assumption) | with_reducible apply Frame.ite | split
      | with_reducible apply Frame.step (Frame.set_subs ..))

theorem State.retireTables_frame (s : State) (p : TableSlot → Bool) :
    Frame [.tables] s (State.retireTables s p) := by
  unfold State.retireTables
  repeat' (first
      | extract_lets | with_reducible apply Frame.refl | exact rfl
      | with_reducible apply Frame.step (State.settleTable_frame ..)
      | with_reducible apply Frame.step (State.modTable_frame ..) | with_reducible apply Frame.eachTrans | intro _)

theorem State.releaseFrames_frame (s : State) (n : Nat) :
    Frame [.dirs] s (State.releaseFrames s n) := by
  unfold State.releaseFrames
  repeat' (first
      | extract_lets | with_reducible apply Frame.refl | exact rfl | with_reducible apply Frame.step (State.modDir_frame ..))

theorem State.nextSeq_frame (s : State) (i : Nat) :
    Frame [.seqs] s (State.nextSeq s i) := by
  unfold State.nextSeq
  repeat' (first
      | extract_lets | with_reducible apply Frame.refl | exact rfl | with_reducible apply Frame.step (Frame.set_seqs ..))

theorem State.freeRegion_frame (s : State) (i : Nat) :
    Frame (Piece.allBut [.pending, .variantH, .stepB0, .nextKey, .pmc, .fw, .ctxs, .sealed, .subs, .qos, .engines, .xfers, .repairs, .repairRows]) s (State.freeRegion s i) := by
  unfold State.freeRegion
  repeat' (first
      | extract_lets | with_reducible apply Frame.refl | exact rfl
      | with_reducible apply Frame.step (State.refuseHeld_frame ..)
      | with_reducible apply Frame.step (State.retireTables_frame ..)
      | with_reducible apply Frame.step (State.endLease_frame ..) | with_reducible apply Frame.step (State.trim_frame ..)
      | with_reducible apply Frame.step (State.freePage_frame ..) | with_reducible apply Frame.step (State.modStack_frame ..)
      | with_reducible apply Frame.step (State.releaseFrames_frame ..)
      | with_reducible apply Frame.step (State.setFramePair_frame ..)
      | with_reducible apply Frame.step (State.modHbm_frame ..) | with_reducible apply Frame.step (State.loadKey_frame ..)
      | with_reducible apply Frame.step (State.nextSeq_frame ..) | with_reducible apply Frame.eachTrans
      | with_reducible apply Frame.ite | split | intro _ | with_reducible apply Frame.step (Frame.set_wbuf_atoms_hbmStk ..)
      | with_reducible apply Frame.step (Frame.set_regions_staged_flash_groups ..))

theorem State.settleVersion_frame (s : State) (i : Nat) :
    Frame (Piece.allBut [.pending, .variantH, .stepB0, .nextKey, .pmc, .fw, .ctxs, .sealed, .subs, .qos, .engines, .xfers, .repairs, .repairRows]) s (State.settleVersion s i) := by
  unfold State.settleVersion
  repeat' (first
      | extract_lets | with_reducible apply Frame.refl | exact rfl
      | with_reducible apply Frame.step (State.freeRegion_frame ..) | with_reducible apply Frame.ite | split)

theorem startUnsubscribe_frame (s : State) (c : Cmd) :
    Frame (Piece.allBut [.pending, .variantH, .stepB0, .nextKey, .pmc, .fw, .ctxs, .sealed, .qos, .engines, .xfers, .repairs, .repairRows]) s (startUnsubscribe s c) := by
  unfold startUnsubscribe
  repeat' (first
      | extract_lets | with_reducible apply Frame.refl | exact rfl | with_reducible apply Frame.step (State.bad_frame ..)
      | with_reducible apply Frame.step (State.reply_frame ..)
      | with_reducible apply Frame.step (State.settleVersion_frame ..)
      | with_reducible apply Frame.step (State.nextSeq_frame ..) | with_reducible apply Frame.ite | split
      | with_reducible apply Frame.step (Frame.set_subs ..))

theorem startWithdraw_frame (s : State) (c : Cmd) :
    Frame (Piece.allBut [.pending, .variantH, .stepB0, .nextKey, .pmc, .fw, .ctxs, .sealed, .subs, .qos, .engines, .xfers, .repairs, .repairRows]) s (startWithdraw s c) := by
  unfold startWithdraw
  repeat' (first
      | extract_lets | with_reducible apply Frame.refl | exact rfl | with_reducible apply Frame.step (State.bad_frame ..)
      | with_reducible apply Frame.step (State.reply_frame ..)
      | with_reducible apply Frame.step (State.settleVersion_frame ..)
      | with_reducible apply Frame.step (State.setRegion_frame ..) | with_reducible apply Frame.ite | split)

theorem State.wakeShare_frame (s : State) :
    Frame (Piece.allBut [.pending, .variantH, .stepB0, .nextKey, .pmc, .fw, .ctxs, .sealed, .qos, .engines, .xfers, .repairs, .repairRows]) s (State.wakeShare s) := by
  unfold State.wakeShare
  repeat' (first
      | extract_lets | with_reducible apply Frame.refl | exact rfl | with_reducible apply Frame.step (startPublish_frame ..)
      | with_reducible apply Frame.step (startSubscribe_frame ..)
      | with_reducible apply Frame.step (startUnsubscribe_frame ..)
      | with_reducible apply Frame.step (startWithdraw_frame ..) | with_reducible apply Frame.eachTrans | split | intro _)

theorem State.endPublish_frame (s : State) (i : Nat) (share : ShareSt) (status : Nat) (result : Nat) :
    Frame (Piece.allBut [.pending, .variantH, .stepB0, .nextKey, .pmc, .fw, .ctxs, .sealed, .qos, .engines, .xfers, .repairs, .repairRows]) s (State.endPublish s i share status result) := by
  unfold State.endPublish
  repeat' (first
      | extract_lets | with_reducible apply Frame.refl | exact rfl
      | with_reducible apply Frame.step (State.setRegion_frame ..) | with_reducible apply Frame.step (State.replyTo_frame ..)
      | with_reducible apply Frame.step (State.forgetWaits_frame ..)
      | with_reducible apply Frame.step (State.wakeShare_frame ..) | split | dsimp +zetaDelta only [id])

theorem State.drainCtx_frame (s : State) (c : Nat) :
    Frame (Piece.allBut [.pending, .variantH, .stepB0, .nextKey, .pmc, .fw, .sealed, .qos, .repairs, .repairRows]) s (State.drainCtx s c) := by
  unfold State.drainCtx
  repeat' (first
      | extract_lets | with_reducible apply Frame.refl | exact rfl
      | with_reducible apply Frame.step (State.endReadsOf_frame ..) | with_reducible apply Frame.step (State.modCtx_frame ..)
      | with_reducible apply Frame.step (State.refuseHeld_frame ..)
      | with_reducible apply Frame.step (State.abortRuns_frame ..)
      | with_reducible apply Frame.step (State.failXfer_frame ..) | with_reducible apply Frame.step (State.reply_frame ..)
      | with_reducible apply Frame.step (State.endPublish_frame ..)
      | with_reducible apply Frame.step (State.unbindHost_frame ..) | with_reducible apply Frame.eachTrans
      | with_reducible apply Frame.ite | intro _)

theorem startCtxDestroy_frame (s : State) (c : Cmd) :
    Frame (Piece.allBut [.pending, .variantH, .stepB0, .nextKey, .pmc, .fw, .qos, .repairs, .repairRows]) s (startCtxDestroy s c) := by
  unfold startCtxDestroy
  repeat' (first
      | extract_lets | with_reducible apply Frame.refl | exact rfl | with_reducible apply Frame.step (State.bad_frame ..)
      | with_reducible apply Frame.step (State.drainCtx_frame ..) | with_reducible apply Frame.step (State.reply_frame ..)
      | with_reducible apply Frame.step (State.freeRegion_frame ..) | with_reducible apply Frame.eachTrans
      | with_reducible apply Frame.ite | split | intro _ | with_reducible apply Frame.step (Frame.set_sealed ..))

theorem State.sealPage_frame (s : State) (page : Nat) :
    Frame [.wbuf, .dir, .dirs, .tables, .refRecs, .hbmStk, .flss] s (State.sealPage s page) := by
  unfold State.sealPage
  repeat' (first
      | extract_lets | with_reducible apply Frame.refl | exact rfl
      | with_reducible apply Frame.step (State.cancelPrefetch_frame ..)
      | with_reducible apply Frame.step (State.modDir_frame ..) | with_reducible apply Frame.step (State.leaveDie_frame ..)
      | with_reducible apply Frame.step (State.setFramePair_frame ..)
      | with_reducible apply Frame.step (State.freeFrame_frame ..)
      | with_reducible apply Frame.step (State.settlePressure_frame ..)
      | with_reducible apply Frame.step (State.modEnt_frame ..) | with_reducible apply Frame.ite)

theorem State.sealRegion_frame (s : State) (i : Nat) (sealId : Nat) :
    Frame [.regions, .hbm, .staged, .wbuf, .atoms, .dir, .dirs, .groups, .tables, .refRecs, .hbmStk, .flss] s (State.sealRegion s i sealId) := by
  unfold State.sealRegion
  repeat' (first
      | extract_lets | with_reducible apply Frame.refl | exact rfl
      | with_reducible apply Frame.step (State.retireTables_frame ..)
      | with_reducible apply Frame.step (State.sealPage_frame ..) | with_reducible apply Frame.step (State.modHbm_frame ..)
      | with_reducible apply Frame.step (State.setRegion_frame ..) | with_reducible apply Frame.eachTrans | split | intro _
      | with_reducible apply Frame.step (Frame.set_staged_wbuf_atoms_groups_hbmStk ..))

theorem State.leaveRegion_frame (s : State) (x : Ctx) (i : Nat) :
    Frame (Piece.allBut [.pending, .variantH, .stepB0, .nextKey, .pmc, .fw, .ctxs, .sealed, .subs, .qos, .engines, .xfers, .repairs, .repairRows]) s (State.leaveRegion s x i) := by
  unfold State.leaveRegion
  repeat' (first
      | extract_lets | with_reducible apply Frame.refl | exact rfl
      | with_reducible apply Frame.step (State.sealRegion_frame ..)
      | with_reducible apply Frame.step (State.settleVersion_frame ..)
      | with_reducible apply Frame.step (State.setRegion_frame ..)
      | with_reducible apply Frame.step (State.freeRegion_frame ..) | with_reducible apply Frame.ite | split)

theorem State.freeCtx_frame (s : State) (c : Nat) :
    Frame (Piece.allBut [.pending, .variantH, .stepB0, .nextKey, .pmc, .fw, .xfers, .repairs, .repairRows]) s (State.freeCtx s c) := by
  unfold State.freeCtx
  repeat' (first
      | extract_lets | with_reducible apply Frame.refl | exact rfl
      | with_reducible apply Frame.step (State.settleVersion_frame ..)
      | with_reducible apply Frame.step (State.nextSeq_frame ..)
      | with_reducible apply Frame.step (State.retireTables_frame ..)
      | with_reducible apply Frame.step (State.leaveRegion_frame ..)
      | with_reducible apply Frame.step (State.modDisp_frame ..) | with_reducible apply Frame.step (State.modEngine_frame ..)
      | with_reducible apply Frame.step (State.modReg_frame ..) | with_reducible apply Frame.step (State.loadKey_frame ..)
      | with_reducible apply Frame.step (State.reply_frame ..) | with_reducible apply Frame.eachTrans
      | with_reducible apply Frame.ite | intro _ | with_reducible apply Frame.step (Frame.set_subs ..)
      | with_reducible apply Frame.step (Frame.set_tables ..) | with_reducible apply Frame.step (Frame.set_sealed ..)
      | with_reducible apply Frame.step (Frame.set_ctxs ..))

theorem startCtxBindPort_frame (s : State) (c : Cmd) :
    Frame [.fresh, .out, .fns, .ctxs, .cmds, .ports, .cnt] s (startCtxBindPort s c) := by
  unfold startCtxBindPort
  repeat' (first
      | extract_lets | with_reducible apply Frame.refl | exact rfl | with_reducible apply Frame.step (State.reply_frame ..)
      | with_reducible apply Frame.step (State.modCtx_frame ..))

theorem startWinSet_frame (s : State) (c : Cmd) :
    Frame [.fresh, .out, .fns, .ctxs, .cmds, .ports, .cnt] s (startWinSet s c) := by
  unfold startWinSet
  repeat' (first
      | extract_lets | with_reducible apply Frame.refl | exact rfl | with_reducible apply Frame.step (State.modCtx_frame ..)
      | with_reducible apply Frame.step (State.reply_frame ..) | with_reducible apply Frame.step (State.bad_frame ..)
      | with_reducible apply Frame.ite | split)

theorem State.pctrValue_frame (s : State) (blk : Nat) (inst : Nat) (k : Nat) :
    Frame [.fresh] s (State.pctrValue s blk inst k).2 := by
  unfold State.pctrValue
  repeat' (first
      | extract_lets | with_reducible apply Frame.refl | exact rfl
      | with_reducible apply Frame.step (State.takeFree_frame ..) | with_reducible apply Frame.iteSnd)

theorem State.fctrValue_frame (s : State) (blk : Nat) (inst : Nat) (f : Nat) :
    Frame [.fresh] s (State.fctrValue s blk inst f).2 := by
  unfold State.fctrValue
  repeat' (first
      | extract_lets | with_reducible apply Frame.refl | exact rfl
      | with_reducible apply Frame.step (State.takeFree_frame ..) | with_reducible apply Frame.iteSnd)

theorem startMark_frame (s : State) (c : Cmd) :
    Frame [.fresh, .out, .fns, .cmds, .ports, .cnt] s (startMark s c) := by
  unfold startMark
  repeat' (first
      | extract_lets | with_reducible apply Frame.refl | exact rfl
      | with_reducible apply Frame.step (State.takeFree_frame ..) | with_reducible apply Frame.step (State.modCnt_frame ..)
      | with_reducible apply Frame.step (State.count_frame ..) | with_reducible apply Frame.step (State.reply_frame ..)
      | with_reducible apply Frame.eachTrans | intro _)

theorem State.releaseCounter_frame (s : State) (key : Nat) :
    Frame [.cnt] s (State.releaseCounter s key) := by
  unfold State.releaseCounter
  repeat' (first
      | extract_lets | with_reducible apply Frame.refl | exact rfl | with_reducible apply Frame.step (State.modCnt_frame ..))

theorem startCntConfig_frame (s : State) (c : Cmd) :
    Frame [.fresh, .out, .fns, .cmds, .ports, .cnt] s (startCntConfig s c) := by
  unfold startCntConfig
  repeat' (first
      | extract_lets | with_reducible apply Frame.refl | exact rfl | with_reducible apply Frame.step (State.reply_frame ..)
      | with_reducible apply Frame.step (State.releaseCounter_frame ..)
      | with_reducible apply Frame.step (State.modCnt_frame ..) | with_reducible apply Frame.ite)

theorem State.instRecords_frame (s : State) (blk : Nat) (inst : Nat) (fn : Nat) (full : Bool) :
    Frame [.fresh] s (State.instRecords s blk inst fn full).2 := by
  unfold State.instRecords
  repeat' (first
      | extract_lets | with_reducible apply Frame.refl | exact rfl
      | with_reducible apply Frame.step (State.takeFree_frame ..)
      | with_reducible apply Frame.step (State.pctrValue_frame ..)
      | with_reducible apply Frame.step (State.fctrValue_frame ..) | with_reducible apply Frame.foldTrans
      | with_reducible apply Frame.iteSnd | intro _)

theorem State.snapshot_frame (s : State) (fn : Nat) (full : Bool) (periodic : Bool) (len : Nat) :
    Frame [.fresh, .cnt] s (State.snapshot s fn full periodic len).2 := by
  unfold State.snapshot
  repeat' (first
      | extract_lets | with_reducible apply Frame.refl | exact rfl
      | with_reducible apply Frame.step (State.takeFree_frame ..)
      | with_reducible apply Frame.step (State.instRecords_frame ..)
      | with_reducible apply Frame.step (State.modCnt_frame ..) | with_reducible apply Frame.foldTrans | intro _)

theorem State.writePart_frame (s : State) (c : Cmd) (a : Nat) (data : List Byte) :
    Frame [.fresh, .out, .nextId, .fns, .regions, .cmds, .ports, .held, .leases, .hbm, .wbuf, .atoms, .dir, .dirs, .groups, .tables, .refRecs, .mems, .chds, .disp, .hbmStk, .flss, .elog, .cnt] s (State.writePart s c a data) := by
  unfold State.writePart
  repeat' (first
      | extract_lets | with_reducible apply Frame.refl | exact rfl | with_reducible apply Frame.step (State.replyTo_frame ..)
      | with_reducible apply Frame.step (State.takeId_frame ..)
      | with_reducible apply Frame.step (State.dispatchReq_frame ..) | split)

theorem State.snapTo_frame (s : State) (c : Cmd) (l : List Byte) (y0 : List (Nat × Nat)) :
    Frame [.fresh, .out, .nextId, .fns, .regions, .cmds, .ports, .held, .leases, .hbm, .wbuf, .atoms, .dir, .dirs, .groups, .tables, .refRecs, .mems, .chds, .disp, .hbmStk, .flss, .elog, .cnt] s (State.snapTo s c l y0) := by
  induction y0 generalizing s c l with
  | nil => (unfold State.snapTo; repeat' (first
       | extract_lets
       | with_reducible apply Frame.refl
       | exact rfl
       | with_reducible apply Frame.step (State.writePart_frame ..)
       | with_reducible apply Frame.after (ih ..)
       | with_reducible apply Frame.ite))
  | cons a y0 ih =>
    (unfold State.snapTo
     repeat' (first
         | extract_lets | with_reducible apply Frame.refl | exact rfl
         | with_reducible apply Frame.step (State.writePart_frame ..) | with_reducible apply Frame.after (ih ..)
         | with_reducible apply Frame.ite))

theorem State.unsnap_frame (s : State) (c : Cmd) :
    Frame [.fresh, .out, .nextId, .hep, .fns, .regions, .cmds, .ports, .held, .leases, .hbm, .wbuf, .atoms, .dir, .dirs, .groups, .tables, .refRecs, .mems, .chds, .disp, .hbmStk, .flss, .elog, .cnt] s (State.unsnap s c) := by
  unfold State.unsnap
  repeat' (first
      | extract_lets | with_reducible apply Frame.refl | exact rfl
      | with_reducible apply Frame.step (State.refuseHeld_frame ..) | with_reducible apply Frame.step (State.reply_frame ..)
      | with_reducible apply Frame.step (State.writePart_frame ..) | with_reducible apply Frame.eachTrans | intro _)

theorem startCntSnapshot_frame (s : State) (c : Cmd) :
    Frame [.fresh, .out, .nextId, .fns, .regions, .cmds, .ports, .held, .leases, .hbm, .wbuf, .atoms, .dir, .dirs, .groups, .tables, .refRecs, .mems, .chds, .disp, .hbmStk, .flss, .elog, .cnt] s (startCntSnapshot s c) := by
  unfold startCntSnapshot
  repeat' (first
      | extract_lets | with_reducible apply Frame.refl | exact rfl | with_reducible apply Frame.step (State.bad_frame ..)
      | with_reducible apply Frame.step (State.snapshot_frame ..) | with_reducible apply Frame.step (State.reply_frame ..)
      | with_reducible apply Frame.step (State.snapTo_frame ..) | with_reducible apply Frame.step (State.modCmd_frame ..)
      | with_reducible apply Frame.step (State.hostWrite_frame ..) | with_reducible apply Frame.ite)

theorem State.periodic_frame (s : State) :
    Frame [.fresh, .out, .fns, .cnt] s (State.periodic s) := by
  unfold State.periodic
  repeat' (first
      | extract_lets | with_reducible apply Frame.refl | exact rfl | with_reducible apply Frame.step (State.modCnt_frame ..)
      | with_reducible apply Frame.step (State.snapshot_frame ..)
      | with_reducible apply Frame.step (State.hostWrite_frame ..) | with_reducible apply Frame.ite)

theorem State.stageLine_frame (s : State) (r : Region) (line : Nat) (ctx : Nat) :
    Frame [.fresh, .out, .fns, .staged, .hbmStk, .elog, .cnt] s (State.stageLine s r line ctx) := by
  unfold State.stageLine
  repeat' (first
      | extract_lets | with_reducible apply Frame.refl | exact rfl
      | with_reducible apply Frame.step (State.lineCheck_frame ..)
      | with_reducible apply Frame.step (State.countRead_frame ..)
      | with_reducible apply Frame.step (State.dataError_frame ..) | with_reducible apply Frame.step (State.logRead_frame ..)
      | with_reducible apply Frame.ite | split | with_reducible apply Frame.step (Frame.set_staged ..))

theorem State.chooseFls_frame (s : State) :
    Frame [.fresh] s (State.chooseFls s).2 := by
  unfold State.chooseFls
  repeat' (first
      | extract_lets | with_reducible apply Frame.refl | exact rfl | with_reducible apply Frame.step (State.pick_frame ..)
      | with_reducible apply Frame.iteSnd)

theorem State.pickBlock_frame (s : State) (d : Nat) :
    Frame [.fresh] s (State.pickBlock s d).2 := by
  unfold State.pickBlock
  repeat' (first
      | extract_lets | with_reducible apply Frame.refl | exact rfl | with_reducible apply Frame.step (State.pick_frame ..))

theorem State.closeFull_frame (s : State) (d : Nat) :
    Frame [.flss] s (State.closeFull s d) := by
  unfold State.closeFull
  repeat' (first
      | extract_lets | with_reducible apply Frame.refl | exact rfl | with_reducible apply Frame.step (State.modFls_frame ..)
      | with_reducible apply Frame.ite)

theorem State.openStripe_frame (s : State) (d : Nat) (key : Nat) (reloc : Bool) :
    Frame [.nextId, .flss] s (State.openStripe s d key reloc) := by
  unfold State.openStripe
  repeat' (first
      | extract_lets | with_reducible apply Frame.refl | exact rfl | with_reducible apply Frame.step (State.takeId_frame ..)
      | with_reducible apply Frame.step (State.modFls_frame ..))

theorem State.layImage_frame (s : State) (d : Nat) (key : Nat) (unit : Nat) (img : Image) :
    Frame [.flss] s (State.layImage s d key unit img) := by
  unfold State.layImage
  repeat' (first
      | extract_lets | with_reducible apply Frame.refl | exact rfl
      | with_reducible apply Frame.step (State.closeFull_frame ..) | with_reducible apply Frame.step (State.modFls_frame ..))

theorem State.stageImage_frame (s : State) (d : Nat) (img : Image) :
    Frame [.fresh, .nextId, .flss] s (State.stageImage s d img) := by
  unfold State.stageImage
  repeat' (first
      | extract_lets | with_reducible apply Frame.refl | exact rfl
      | with_reducible apply Frame.step (State.layImage_frame ..)
      | with_reducible apply Frame.step (State.closeFull_frame ..) | with_reducible apply Frame.step (State.modFls_frame ..)
      | with_reducible apply Frame.step (State.pickBlock_frame ..)
      | with_reducible apply Frame.step (State.openStripe_frame ..)
      | (with_reducible apply Frame.ofPair; with_reducible assumption) | split | dsimp +zetaDelta only [id])

theorem State.placeWaiting_frame (s : State) (d : Nat) :
    Frame [.fresh, .nextId, .flss] s (State.placeWaiting s d) := by
  unfold State.placeWaiting
  repeat' (first
      | extract_lets | with_reducible apply Frame.refl | exact rfl | with_reducible apply Frame.step (State.modFls_frame ..)
      | with_reducible apply Frame.step (State.stageImage_frame ..) | with_reducible apply Frame.eachTrans | intro _)

theorem State.countLines_frame (s : State) (page : Nat) (code : Nat) (n : Nat) :
    Frame [.out, .fns, .cnt] s (State.countLines s page code n) := by
  unfold State.countLines
  repeat' (first
      | extract_lets | with_reducible apply Frame.refl | exact rfl | with_reducible apply Frame.step (State.fixed_frame ..)
      | with_reducible apply Frame.step (State.count_frame ..))

theorem State.readOut_frame (s : State) (page : Nat) :
    Frame [.fresh, .out, .nextId, .fns, .regions, .cmds, .ports, .held, .leases, .hbm, .staged, .wbuf, .atoms, .dir, .dirs, .groups, .tables, .refRecs, .mems, .chds, .disp, .hbmStk, .flss, .elog, .cnt] s (State.readOut s page) := by
  unfold State.readOut
  repeat' (first
      | extract_lets | with_reducible apply Frame.refl | exact rfl | with_reducible apply Frame.step (State.drain_frame ..)
      | with_reducible apply Frame.step (State.stageLine_frame ..)
      | with_reducible apply Frame.step (State.countLines_frame ..)
      | with_reducible apply Frame.step (State.setFramePair_frame ..)
      | with_reducible apply Frame.step (State.takeId_frame ..) | with_reducible apply Frame.step (State.chooseFls_frame ..)
      | with_reducible apply Frame.step (State.modEnt_frame ..) | with_reducible apply Frame.step (State.stageImage_frame ..)
      | with_reducible apply Frame.step (State.pageReady_frame ..) | with_reducible apply Frame.eachTrans
      | (with_reducible apply Frame.ofPair; with_reducible assumption) | with_reducible apply Frame.ite | split | intro _
      | with_reducible apply Frame.step (Frame.set_staged ..))

theorem State.countReads_frame (s : State) (e : MapEnt) (retries : Nat) (rebuilt : Nat) :
    Frame [.flss, .cnt] s (State.countReads s e retries rebuilt) := by
  unfold State.countReads
  repeat' (first
      | extract_lets | with_reducible apply Frame.refl | exact rfl | with_reducible apply Frame.step (State.modFls_frame ..)
      | with_reducible apply Frame.step (State.fixed_frame ..))

theorem State.relocate_frame (s : State) (d : Nat) (key : Nat) :
    Frame [.fresh, .nextId, .flss, .cnt] s (State.relocate s d key) := by
  unfold State.relocate
  repeat' (first
      | extract_lets | with_reducible apply Frame.refl | exact rfl | with_reducible apply Frame.step (State.takeId_frame ..)
      | with_reducible apply Frame.step (State.countReads_frame ..)
      | with_reducible apply Frame.step (State.stageImage_frame ..) | with_reducible apply Frame.eachTrans
      | with_reducible apply Frame.ite | split | intro _)

theorem State.startErase_frame (s : State) (d : Nat) (die : Nat) :
    Frame [.fresh, .flss] s (State.startErase s d die) := by
  unfold State.startErase
  repeat' (first
      | extract_lets | with_reducible apply Frame.refl | exact rfl
      | with_reducible apply Frame.step (State.takeFree_frame ..) | with_reducible apply Frame.step (State.modNand_frame ..)
      | with_reducible apply Frame.ite)

theorem State.reclaim_frame (s : State) (d : Nat) (die : Nat) :
    Frame [.fresh, .nextId, .flss, .cnt] s (State.reclaim s d die) := by
  unfold State.reclaim
  repeat' (first
      | extract_lets | with_reducible apply Frame.refl | exact rfl
      | with_reducible apply Frame.step (State.relocate_frame ..) | with_reducible apply Frame.step (State.modNand_frame ..)
      | with_reducible apply Frame.step (State.startErase_frame ..) | with_reducible apply Frame.ite | split)

theorem State.serveOne_frame (s : State) (d : Nat) (die : Nat) :
    Frame [.fresh, .out, .nextId, .fns, .flss, .cnt] s (State.serveOne s d die) := by
  unfold State.serveOne
  repeat' (first
      | extract_lets | with_reducible apply Frame.refl | exact rfl
      | with_reducible apply Frame.step (State.startRead_frame ..) | with_reducible apply Frame.step (State.modNand_frame ..)
      | with_reducible apply Frame.step (State.reclaim_frame ..) | with_reducible apply Frame.step (State.relocate_frame ..)
      | with_reducible apply Frame.step (State.startErase_frame ..) | with_reducible apply Frame.ite | split)

theorem State.serveDie_frame (s : State) (d : Nat) (die : Nat) (y0 : Nat) :
    Frame [.fresh, .out, .nextId, .fns, .flss, .cnt] s (State.serveDie s d die y0) := by
  induction y0 generalizing s d die with
  | zero => (unfold State.serveDie; repeat' (first
       | extract_lets
       | with_reducible apply Frame.refl
       | exact rfl
       | with_reducible apply Frame.step (State.serveOne_frame ..)
       | with_reducible apply Frame.after (ih ..)))
  | succ y0 ih =>
    (unfold State.serveDie
     repeat' (first
         | extract_lets | with_reducible apply Frame.refl | exact rfl
         | with_reducible apply Frame.step (State.serveOne_frame ..) | with_reducible apply Frame.after (ih ..)))

theorem State.serve_frame (s : State) (d : Nat) :
    Frame [.fresh, .out, .nextId, .fns, .flss, .cnt] s (State.serve s d) := by
  unfold State.serve
  repeat' (first
      | extract_lets | with_reducible apply Frame.refl | exact rfl
      | with_reducible apply Frame.step (State.serveDie_frame ..) | with_reducible apply Frame.eachTrans | intro _)

theorem State.journalImage_frame (s : State) (d : Nat) (img : Image) :
    Frame [.out, .nextId, .fns, .staged, .flash, .tables, .refRecs, .flss, .fmap, .images, .saved, .journals, .cnt] s (State.journalImage s d img) := by
  unfold State.journalImage
  repeat' (first
      | extract_lets | with_reducible apply Frame.refl | exact rfl
      | with_reducible apply Frame.step (State.saveFlash_frame ..)
      | with_reducible apply Frame.step (State.journalMap_frame ..)
      | with_reducible apply Frame.step (State.setFlashPair_frame ..)
      | with_reducible apply Frame.step (State.modFls_frame ..) | with_reducible apply Frame.step (State.count_frame ..)
      | with_reducible apply Frame.step (Frame.set_staged_flash_fmap_images ..))

theorem State.programmed_frame (s : State) (d : Nat) (img : Image) :
    Frame [.out, .nextId, .fns, .staged, .flash, .tables, .refRecs, .flss, .fmap, .images, .saved, .journals, .cnt] s (State.programmed s d img) := by
  unfold State.programmed
  repeat' (first
      | extract_lets | with_reducible apply Frame.refl | exact rfl
      | with_reducible apply Frame.step (State.saveFlash_frame ..) | with_reducible apply Frame.step (State.count_frame ..)
      | with_reducible apply Frame.step (State.journalMap_frame ..) | with_reducible apply Frame.step (State.modFls_frame ..)
      | with_reducible apply Frame.step (State.journalImage_frame ..) | with_reducible apply Frame.ite
      | with_reducible apply Frame.step (Frame.set_fmap ..))

theorem State.endProgram_frame (s : State) (d : Nat) (i : Image) :
    Frame [.flss] s (State.endProgram s d i) := by
  unfold State.endProgram
  repeat' (first
      | extract_lets | with_reducible apply Frame.refl | exact rfl
      | with_reducible apply Frame.step (State.modNand_frame ..))

theorem State.programDone_frame (s : State) (d : Nat) :
    Frame [.out, .nextId, .fns, .staged, .flash, .tables, .refRecs, .flss, .fmap, .images, .saved, .journals, .cnt] s (State.programDone s d) := by
  unfold State.programDone
  repeat' (first
      | extract_lets | with_reducible apply Frame.refl | exact rfl
      | with_reducible apply Frame.step (State.endProgram_frame ..) | with_reducible apply Frame.step (State.modFls_frame ..)
      | with_reducible apply Frame.step (State.fixed_frame ..) | with_reducible apply Frame.step (State.count_frame ..)
      | with_reducible apply Frame.step (State.programmed_frame ..)
      | with_reducible apply Frame.step (State.journalSaved_frame ..) | with_reducible apply Frame.eachTrans
      | with_reducible apply Frame.ite | split | intro _)

theorem State.commitPage_frame (s : State) (page : Nat) :
    Frame (Piece.allBut [.pending, .variantH, .stepB0, .nextKey, .pmc, .fw, .hep, .ctxs, .sealed, .subs, .seqs, .qos, .engines, .xfers, .repairs, .repairRows, .keys]) s (State.commitPage s page) := by
  unfold State.commitPage
  repeat' (first
      | extract_lets | with_reducible apply Frame.refl | exact rfl
      | with_reducible apply Frame.step (State.journalImage_frame ..)
      | with_reducible apply Frame.step (State.modFls_frame ..)
      | with_reducible apply Frame.step (State.retryInvalid_frame ..)
      | with_reducible apply Frame.step (State.pageReady_frame ..)
      | with_reducible apply Frame.step (State.ckptCommitted_frame ..)
      | with_reducible apply Frame.step (State.committed_frame ..) | with_reducible apply Frame.ite | split)

theorem State.settleSpare_frame (s : State) :
    Frame [.flss] s (State.settleSpare s) := by
  unfold State.settleSpare
  repeat' (first
      | extract_lets | with_reducible apply Frame.refl | exact rfl | with_reducible apply Frame.step (State.modFls_frame ..)
      | with_reducible apply Frame.eachTrans | intro _)

theorem State.retireMember_frame (s : State) (d : Nat) (key : Nat) (member : Nat) :
    Frame [.flss] s (State.retireMember s d key member) := by
  unfold State.retireMember
  repeat' (first
      | extract_lets | with_reducible apply Frame.refl | exact rfl
      | with_reducible apply Frame.step (State.settleSpare_frame ..)
      | with_reducible apply Frame.step (State.modFls_frame ..))

theorem State.programFail_frame (s : State) (d : Nat) (member : Nat) :
    Frame [.fresh, .nextId, .flss] s (State.programFail s d member) := by
  unfold State.programFail
  repeat' (first
      | extract_lets | with_reducible apply Frame.refl | exact rfl
      | with_reducible apply Frame.step (State.endProgram_frame ..) | with_reducible apply Frame.step (State.modFls_frame ..)
      | with_reducible apply Frame.step (State.retireMember_frame ..)
      | with_reducible apply Frame.step (State.stageImage_frame ..) | with_reducible apply Frame.eachTrans | split | intro _)

theorem State.flushOpen_frame (s : State) (d : Nat) :
    Frame [.flss] s (State.flushOpen s d) := by
  unfold State.flushOpen
  repeat' (first
      | extract_lets | with_reducible apply Frame.refl | exact rfl
      | with_reducible apply Frame.step (State.closeFull_frame ..) | with_reducible apply Frame.step (State.modFls_frame ..)
      | with_reducible apply Frame.ite)

theorem State.ensureFrame_frame {s : State} {page : Nat} {t : State} (h : State.ensureFrame s page = some t) :
    Frame [.fresh, .dir, .dirs] s t := by
  unfold State.ensureFrame at h
  try dsimp only at h
  repeat' split at h
  all_goals (first | (exact absurd h (by decide)) | (simp at h; done) | (injection h with h; injection h with _ h; subst h) | (injection h with h; subst h) | (rw [Option.map_eq_some_iff] at h; obtain ⟨_, h, rfl⟩ := h) | skip)
  all_goals repeat' (first
    | extract_lets
    | with_reducible apply Frame.refl
    | exact rfl
    | with_reducible apply Frame.step (State.refetch_frame ..)
    | with_reducible apply Frame.step (State.settlePressure_frame ..))

theorem State.fillBlocks_frame (s : State) (page : Nat) (demand : Bool) :
    Frame [.fresh, .out, .nextId, .fns, .hbm, .wbuf, .groups, .tables, .refRecs, .mems, .hbmStk, .cnt] s (State.fillBlocks s page demand) := by
  unfold State.fillBlocks
  repeat' (first
      | extract_lets | with_reducible apply Frame.refl | exact rfl | with_reducible apply Frame.step (State.buffer_frame ..)
      | with_reducible apply Frame.eachTrans | split | intro _)

theorem State.fetchEnds_frame (s : State) (page : Nat) :
    Frame [.fresh, .out, .nextId, .fns, .regions, .cmds, .ports, .held, .leases, .hbm, .wbuf, .atoms, .dir, .dirs, .groups, .tables, .refRecs, .mems, .chds, .disp, .hbmStk, .flss, .elog, .cnt] s (State.fetchEnds s page) := by
  unfold State.fetchEnds
  repeat' (first
      | extract_lets | with_reducible apply Frame.refl | exact rfl | with_reducible apply Frame.step (State.fetched_frame ..)
      | with_reducible apply Frame.step (State.leaveDie_frame ..)
      | with_reducible apply Frame.step (State.fillBlocks_frame ..)
      | with_reducible apply Frame.step (State.retryInvalid_frame ..)
      | with_reducible apply Frame.step (State.ckptResume_frame ..)
      | with_reducible apply Frame.step (State.deferred_frame ..)
      | with_reducible apply Frame.step (State.pageReady_frame ..) | with_reducible apply Frame.ite)

theorem State.logFetch_frame (s : State) (page : Nat) (member : Nat) :
    Frame [.flss, .images] s (State.logFetch s page member) := by
  unfold State.logFetch
  repeat' (first
      | extract_lets | with_reducible apply Frame.refl | exact rfl | with_reducible apply Frame.step (State.modFls_frame ..)
      | with_reducible apply Frame.step (Frame.set_images ..))

theorem State.fetchLost_frame (s : State) (page : Nat) (member : Nat) (reason : Nat) :
    Frame [.fresh, .out, .nextId, .fns, .regions, .cmds, .ports, .held, .leases, .hbm, .wbuf, .atoms, .dir, .dirs, .groups, .tables, .refRecs, .mems, .chds, .disp, .hbmStk, .flss, .images, .elog, .cnt] s (State.fetchLost s page member reason) := by
  unfold State.fetchLost
  repeat' (first
      | extract_lets | with_reducible apply Frame.refl | exact rfl
      | with_reducible apply Frame.step (State.retryInvalid_frame ..)
      | with_reducible apply Frame.step (State.fetchFail_frame ..)
      | with_reducible apply Frame.step (State.leaveDie_frame ..) | with_reducible apply Frame.step (State.logFetch_frame ..)
      | with_reducible apply Frame.step (State.log_frame ..) | with_reducible apply Frame.step (State.ckptFail_frame ..)
      | with_reducible apply Frame.step (State.failHeld_frame ..) | with_reducible apply Frame.ite)

theorem State.askReloc_frame (s : State) (d : Nat) (key : Nat) (few : Bool) :
    Frame [.flss] s (State.askReloc s d key few) := by
  unfold State.askReloc
  repeat' (first
      | extract_lets | with_reducible apply Frame.refl | exact rfl
      | with_reducible apply Frame.step (State.modNand_frame ..))

theorem State.readImage_frame (s : State) (e : MapEnt) (a : Attrs) (out : Nat) (retries : Nat) (rebuilt : Nat) :
    Frame [.out, .fns, .flss, .cnt] s (State.readImage s e a out retries rebuilt) := by
  unfold State.readImage
  repeat' (first
      | extract_lets | with_reducible apply Frame.refl | exact rfl | with_reducible apply Frame.step (State.count_frame ..)
      | with_reducible apply Frame.step (State.countReads_frame ..)
      | with_reducible apply Frame.step (State.askReloc_frame ..) | with_reducible apply Frame.step (State.modFls_frame ..)
      | with_reducible apply Frame.ite)

theorem State.fetchDone_frame (s : State) (page : Nat) (retries : Nat) (rebuilt : Nat) :
    Frame [.fresh, .out, .nextId, .fns, .regions, .cmds, .ports, .held, .leases, .hbm, .wbuf, .atoms, .dir, .dirs, .groups, .tables, .refRecs, .mems, .chds, .disp, .hbmStk, .flss, .images, .elog, .cnt] s (State.fetchDone s page retries rebuilt) := by
  unfold State.fetchDone
  repeat' (first
      | extract_lets | with_reducible apply Frame.refl | exact rfl
      | with_reducible apply Frame.step (State.fetchLost_frame ..)
      | (with_reducible apply Frame.step; (with_reducible apply State.ensureFrame_frame; with_reducible assumption))
      | with_reducible apply Frame.step (State.fetchEnds_frame ..)
      | with_reducible apply Frame.step (State.readImage_frame ..) | with_reducible apply Frame.ite | split)

theorem State.eraseDone_frame (s : State) (d : Nat) (key : Nat) (failed : Option Nat) :
    Frame [.fresh, .out, .nextId, .fns, .flss, .cnt] s (State.eraseDone s d key failed) := by
  unfold State.eraseDone
  repeat' (first
      | extract_lets | with_reducible apply Frame.refl | exact rfl | with_reducible apply Frame.step (State.modNand_frame ..)
      | with_reducible apply Frame.step (State.fixed_frame ..) | with_reducible apply Frame.step (State.modFls_frame ..)
      | with_reducible apply Frame.step (State.retireMember_frame ..)
      | with_reducible apply Frame.step (State.count_frame ..)
      | with_reducible apply Frame.step (State.placeWaiting_frame ..) | with_reducible apply Frame.ite | split
      | dsimp +zetaDelta only [id])

theorem State.loseFlashDie_frame (s : State) (index : Nat) (reason : Nat) :
    Frame [.fresh, .out, .fns, .flss, .elog] s (State.loseFlashDie s index reason) := by
  unfold State.loseFlashDie
  repeat' (first
      | extract_lets | with_reducible apply Frame.refl | exact rfl | with_reducible apply Frame.step (State.modFls_frame ..)
      | with_reducible apply Frame.step (State.log_frame ..) | with_reducible apply Frame.step (State.settleSpare_frame ..)
      | with_reducible apply Frame.ite)

theorem State.loseFls_frame (s : State) (d : Nat) :
    Frame [.fresh, .out, .nextId, .fns, .flss, .elog] s (State.loseFls s d) := by
  unfold State.loseFls
  repeat' (first
      | extract_lets | with_reducible apply Frame.refl | exact rfl | with_reducible apply Frame.step (State.modFls_frame ..)
      | with_reducible apply Frame.step (State.log_frame ..) | with_reducible apply Frame.step (State.settleSpare_frame ..)
      | with_reducible apply Frame.step (State.stageImage_frame ..) | with_reducible apply Frame.eachTrans
      | with_reducible apply Frame.ite | intro _)

theorem State.serveAll_frame (s : State) :
    Frame [.fresh, .out, .nextId, .fns, .flss, .cnt] s (State.serveAll s) := by
  unfold State.serveAll
  repeat' (first
      | extract_lets | with_reducible apply Frame.refl | exact rfl | with_reducible apply Frame.step (State.serve_frame ..))

theorem State.goFatal_frame (s : State) (cond : Nat) :
    Frame [.fresh, .out, .pmc, .fns, .ports, .elog] s (State.goFatal s cond) := by
  unfold State.goFatal
  repeat' (first
      | extract_lets | with_reducible apply Frame.refl | exact rfl | with_reducible apply Frame.step (State.log_frame ..)
      | with_reducible apply Frame.step (State.modPmc_frame ..) | with_reducible apply Frame.step (State.modElog_frame ..)
      | with_reducible apply Frame.step (State.modFn_frame ..) | with_reducible apply Frame.step (State.errMessage_frame ..)
      | with_reducible apply Frame.step (State.modPort_frame ..) | with_reducible apply Frame.eachTrans
      | with_reducible apply Frame.ite | intro _)

theorem State.failTests_frame (s : State) (kind : Nat) (idx : Nat) (state : Nat) :
    Frame [.fresh, .out, .fns, .cmds, .ports, .cnt] s (State.failTests s kind idx state) := by
  unfold State.failTests
  repeat' (first
      | extract_lets | with_reducible apply Frame.refl | exact rfl
      | with_reducible apply Frame.step (State.takeFree_frame ..) | with_reducible apply Frame.step (State.reply_frame ..)
      | with_reducible apply Frame.eachTrans | intro _)

theorem State.retireDone_frame (s : State) (kind : Nat) (idx : Nat) (lines : Nat) :
    Frame [.fresh, .out, .fns, .cmds, .ports, .cnt] s (State.retireDone s kind idx lines) := by
  unfold State.retireDone
  repeat' (first
      | extract_lets | with_reducible apply Frame.refl | exact rfl | with_reducible apply Frame.step (State.reply_frame ..)
      | with_reducible apply Frame.eachTrans | intro _)

theorem State.checkCarve_frame (s : State) :
    Frame [.fresh, .out, .pmc, .fns, .ports, .elog] s (State.checkCarve s) := by
  unfold State.checkCarve
  repeat' (first
      | extract_lets | with_reducible apply Frame.refl | exact rfl | with_reducible apply Frame.step (State.goFatal_frame ..)
      | with_reducible apply Frame.ite)

theorem State.logPoisoned_frame (s : State) (kind : Nat) (idx : Nat) (hits : List Hit) :
    Frame [.fresh, .out, .fns, .elog] s (State.logPoisoned s kind idx hits) := by
  unfold State.logPoisoned
  repeat' (first
      | extract_lets | with_reducible apply Frame.refl | exact rfl | with_reducible apply Frame.step (State.log_frame ..)
      | with_reducible apply Frame.eachTrans | intro _)

theorem State.poisonLines_frame (s : State) (lines : List Nat) (kind : Nat) :
    Frame [.fresh, .out, .fns, .hbm, .dir, .hbmStk, .cnt] s (State.poisonLines s lines kind) := by
  unfold State.poisonLines
  repeat' (first
      | extract_lets | with_reducible apply Frame.refl | exact rfl
      | with_reducible apply Frame.step (State.poisonLine_frame ..) | with_reducible apply Frame.eachTrans | intro _)

theorem State.losePc_frame (s : State) (k : Nat) (p : Nat) :
    Frame [.fresh, .out, .fns, .hbm, .dir, .hbmStk, .cnt] s (State.losePc s k p).2 := by
  unfold State.losePc
  repeat' (first
      | extract_lets | with_reducible apply Frame.refl | exact rfl
      | with_reducible apply Frame.step (State.poisonLines_frame ..) | with_reducible apply Frame.foldTrans
      | with_reducible apply Frame.iteSnd | intro _)

theorem State.dropBuffered_frame (s : State) (page : Nat) :
    Frame [.wbuf, .atoms] s (State.dropBuffered s page) := by
  unfold State.dropBuffered
  repeat' (first
      | extract_lets | with_reducible apply Frame.refl | exact rfl
      | with_reducible apply Frame.step (Frame.set_wbuf_atoms ..))

theorem State.loseTier_frame (s : State) (k : Nat) (kind : Nat) :
    Frame [.fresh, .out, .nextId, .fns, .regions, .cmds, .ports, .held, .leases, .hbm, .wbuf, .atoms, .dir, .dirs, .groups, .tables, .refRecs, .mems, .chds, .disp, .hbmStk, .flss, .elog, .cnt] s (State.loseTier s k kind).2 := by
  unfold State.loseTier
  repeat' (first
      | extract_lets | with_reducible apply Frame.refl | exact rfl
      | with_reducible apply Frame.step (State.pageReady_frame ..)
      | with_reducible apply Frame.step (State.loseFrame_frame ..)
      | with_reducible apply Frame.step (State.dropBuffered_frame ..) | with_reducible apply Frame.foldTrans
      | with_reducible apply Frame.iteSnd | split | intro _)

theorem State.mapFrame_frame (s : State) (k : Nat) (u : Nat) (st : Nat) :
    Frame [.fresh, .hbmStk] s (State.mapFrame s k u st) := by
  unfold State.mapFrame
  repeat' (first
      | extract_lets | with_reducible apply Frame.refl | exact rfl
      | with_reducible apply Frame.step (State.freePlace_frame ..)
      | with_reducible apply Frame.step (State.modStack_frame ..))

theorem State.loseFrames_frame (s : State) (k : Nat) (kind : Nat) (alive : Bool) :
    Frame [.fresh, .out, .fns, .hbm, .wbuf, .atoms, .dir, .dirs, .hbmStk, .cnt] s (State.loseFrames s k kind alive).2 := by
  unfold State.loseFrames
  repeat' (first
      | extract_lets | with_reducible apply Frame.refl | exact rfl
      | with_reducible apply Frame.step (State.dropBuffered_frame ..)
      | with_reducible apply Frame.step (State.settlePressure_frame ..)
      | with_reducible apply Frame.step (State.modDir_frame ..)
      | with_reducible apply Frame.step (State.poisonLines_frame ..)
      | with_reducible apply Frame.step (State.mapFrame_frame ..) | with_reducible apply Frame.step (State.modStack_frame ..)
      | with_reducible apply Frame.foldTrans | with_reducible apply Frame.iteSnd | intro _)

theorem State.moveEntry_frame (s : State) (k : Nat) (u : Nat) :
    Frame [.hbmStk] s (State.moveEntry s k u) := by
  unfold State.moveEntry
  repeat' (first
      | extract_lets | with_reducible apply Frame.refl | exact rfl
      | with_reducible apply Frame.step (State.modStack_frame ..))

theorem State.rebuildLine_frame (s : State) (r : Region) (kind : Nat) (line : Nat) :
    Frame [.fresh, .out, .fns, .hbm, .dir, .hbmStk, .cnt] s (State.rebuildLine s r kind line) := by
  unfold State.rebuildLine
  repeat' (first
      | extract_lets | with_reducible apply Frame.refl | exact rfl
      | with_reducible apply Frame.step (State.stripeXor_frame ..) | with_reducible apply Frame.step (State.modHbm_frame ..)
      | with_reducible apply Frame.step (State.poisonLine_frame ..) | with_reducible apply Frame.ite | split)

theorem State.rebuildParity_frame (s : State) (t : Stripe) :
    Frame [.fresh, .hbmStk] s (State.rebuildParity s t) := by
  unfold State.rebuildParity
  repeat' (first
      | extract_lets | with_reducible apply Frame.refl | exact rfl
      | with_reducible apply Frame.step (State.modStack_frame ..)
      | with_reducible apply Frame.step (State.modParity_frame ..)
      | with_reducible apply Frame.step (State.takeFree_frame ..) | with_reducible apply Frame.ite)

theorem State.rebuildPage_frame (s : State) (r : Region) (kind : Nat) (page : Nat) :
    Frame [.fresh, .out, .fns, .hbm, .dir, .hbmStk, .cnt] s (State.rebuildPage s r kind page) := by
  unfold State.rebuildPage
  repeat' (first
      | extract_lets | with_reducible apply Frame.refl | exact rfl
      | with_reducible apply Frame.step (State.rebuildLine_frame ..) | with_reducible apply Frame.eachTrans | intro _)

theorem State.moveOne_frame (s : State) (y0 : Moves) :
    Frame [.fresh, .out, .fns, .hbm, .dir, .dirs, .hbmStk, .cnt] s (State.moveOne s y0) := by
  unfold State.moveOne
  repeat' (first
      | extract_lets | with_reducible apply Frame.refl | exact rfl
      | with_reducible apply Frame.step (State.moveEntry_frame ..)
      | with_reducible apply Frame.step (State.rebuildParity_frame ..)
      | with_reducible apply Frame.step (State.rebuildPage_frame ..)
      | with_reducible apply Frame.step (State.modDir_frame ..) | with_reducible apply Frame.step (State.modStack_frame ..)
      | with_reducible apply Frame.eachTrans | with_reducible apply Frame.ite | split | intro _)

theorem State.stackDone_frame (s : State) (k : Nat) (rec : Bool) :
    Frame [.fresh, .out, .fns, .cmds, .ports, .hbm, .dir, .dirs, .hbmStk, .repairs, .elog, .cnt] s (State.stackDone s k rec) := by
  unfold State.stackDone
  repeat' (first
      | extract_lets | with_reducible apply Frame.refl | exact rfl | with_reducible apply Frame.step (State.moveOne_frame ..)
      | with_reducible apply Frame.step (State.modStack_frame ..) | with_reducible apply Frame.step (State.log_frame ..)
      | with_reducible apply Frame.step (State.retireDone_frame ..) | with_reducible apply Frame.eachTrans
      | with_reducible apply Frame.ite | intro _ | with_reducible apply Frame.step (Frame.set_repairs ..))

theorem State.chargeCache_frame (s : State) (n : Nat) :
    Frame [.dirs] s (State.chargeCache s n) := by
  unfold State.chargeCache
  repeat' (first
      | extract_lets | with_reducible apply Frame.refl | exact rfl | with_reducible apply Frame.step (State.modDir_frame ..)
      | with_reducible apply Frame.step (State.settlePressure_frame ..))

theorem State.retireStack_frame (s : State) (k : Nat) (svc : Bool) (die : Bool) :
    Frame [.fresh, .out, .nextId, .pmc, .fns, .regions, .cmds, .ports, .held, .leases, .hbm, .wbuf, .atoms, .qos, .dir, .dirs, .groups, .tables, .refRecs, .mems, .chds, .disp, .hbmStk, .repairs, .flss, .elog, .cnt] s (State.retireStack s k svc die) := by
  unfold State.retireStack
  repeat' (first
      | extract_lets | with_reducible apply Frame.refl | exact rfl
      | with_reducible apply Frame.step (State.modStack_frame ..)
      | with_reducible apply Frame.step (State.failTests_frame ..)
      | with_reducible apply Frame.step (State.chargeCache_frame ..)
      | with_reducible apply Frame.step (State.loseFrames_frame ..)
      | with_reducible apply Frame.step (State.loseTier_frame ..) | with_reducible apply Frame.step (State.rederate_frame ..)
      | with_reducible apply Frame.step (State.logPoisoned_frame ..)
      | with_reducible apply Frame.step (State.stackDone_frame ..) | with_reducible apply Frame.step (State.settle_frame ..)
      | with_reducible apply Frame.step (State.checkCarve_frame ..) | with_reducible apply Frame.eachTrans
      | with_reducible apply Frame.ite | intro _)

theorem State.retireDie_frame (s : State) (die : Nat) (svc : Bool) :
    Frame [.fresh, .out, .nextId, .pmc, .fns, .regions, .cmds, .ports, .held, .leases, .hbm, .wbuf, .atoms, .qos, .dir, .dirs, .groups, .tables, .refRecs, .mems, .chds, .disp, .hbmStk, .repairs, .flss, .elog, .cnt] s (State.retireDie s die svc) := by
  unfold State.retireDie
  repeat' (first
      | extract_lets | with_reducible apply Frame.refl | exact rfl | with_reducible apply Frame.step (State.modMem_frame ..)
      | with_reducible apply Frame.step (State.stackDone_frame ..)
      | with_reducible apply Frame.step (State.retireStack_frame ..)
      | with_reducible apply Frame.step (State.retireDone_frame ..) | with_reducible apply Frame.step (State.log_frame ..)
      | with_reducible apply Frame.eachTrans | with_reducible apply Frame.ite | intro _)

theorem State.retirePc_frame (s : State) (k : Nat) (p : Nat) (svc : Bool) :
    Frame [.fresh, .out, .nextId, .pmc, .fns, .regions, .cmds, .ports, .held, .leases, .hbm, .wbuf, .atoms, .qos, .dir, .dirs, .groups, .tables, .refRecs, .mems, .chds, .disp, .hbmStk, .repairs, .flss, .elog, .cnt] s (State.retirePc s k p svc) := by
  unfold State.retirePc
  repeat' (first
      | extract_lets | with_reducible apply Frame.refl | exact rfl | with_reducible apply Frame.step (State.modPc_frame ..)
      | with_reducible apply Frame.step (State.failTests_frame ..)
      | with_reducible apply Frame.step (State.retireStack_frame ..)
      | with_reducible apply Frame.step (State.modStack_frame ..) | with_reducible apply Frame.step (State.losePc_frame ..)
      | with_reducible apply Frame.step (State.loseTier_frame ..) | with_reducible apply Frame.step (State.settle_frame ..)
      | with_reducible apply Frame.step (State.checkCarve_frame ..)
      | with_reducible apply Frame.step (State.rederate_frame ..)
      | with_reducible apply Frame.step (State.logPoisoned_frame ..) | with_reducible apply Frame.ite)

theorem State.pcDone_frame (s : State) (k : Nat) (p : Nat) :
    Frame [.fresh, .out, .fns, .cmds, .ports, .hbm, .qos, .dir, .hbmStk, .repairs, .elog, .cnt] s (State.pcDone s k p) := by
  unfold State.pcDone
  repeat' (first
      | extract_lets | with_reducible apply Frame.refl | exact rfl
      | with_reducible apply Frame.step (State.rebuildLine_frame ..)
      | with_reducible apply Frame.step (State.modStack_frame ..)
      | with_reducible apply Frame.step (State.rebuildParity_frame ..)
      | with_reducible apply Frame.step (State.modPc_frame ..) | with_reducible apply Frame.step (State.log_frame ..)
      | with_reducible apply Frame.step (State.retireDone_frame ..)
      | with_reducible apply Frame.step (State.rederate_frame ..) | with_reducible apply Frame.eachTrans | intro _
      | with_reducible apply Frame.step (Frame.set_repairs ..))

theorem State.freezePc_frame (s : State) (k : Nat) (p : Nat) (pcLine : Nat) (cause : Nat) :
    Frame [.fresh, .out, .nextId, .pmc, .fns, .regions, .cmds, .ports, .held, .leases, .hbm, .wbuf, .atoms, .qos, .dir, .dirs, .groups, .tables, .refRecs, .mems, .chds, .disp, .hbmStk, .repairs, .flss, .elog, .cnt] s (State.freezePc s k p pcLine cause) := by
  unfold State.freezePc
  repeat' (first
      | extract_lets | with_reducible apply Frame.refl | exact rfl
      | with_reducible apply Frame.step (State.takeFree_frame ..) | with_reducible apply Frame.step (State.modStack_frame ..)
      | with_reducible apply Frame.step (State.modPc_frame ..) | with_reducible apply Frame.step (State.rederate_frame ..)
      | with_reducible apply Frame.step (State.retirePc_frame ..) | with_reducible apply Frame.ite)

theorem State.unfreeze_frame (s : State) (k : Nat) (p : Nat) :
    Frame [.fresh, .out, .nextId, .fns, .regions, .cmds, .ports, .held, .leases, .hbm, .wbuf, .atoms, .qos, .dir, .dirs, .groups, .tables, .refRecs, .mems, .chds, .disp, .hbmStk, .flss, .elog, .cnt] s (State.unfreeze s k p) := by
  unfold State.unfreeze
  repeat' (first
      | extract_lets | with_reducible apply Frame.refl | exact rfl | with_reducible apply Frame.step (State.settle_frame ..)
      | with_reducible apply Frame.step (State.log_frame ..) | with_reducible apply Frame.step (State.rederate_frame ..)
      | with_reducible apply Frame.step (State.modPc_frame ..))

theorem State.loopback_frame (s : State) (k : Nat) (p : Nat) (pass : Bool) :
    Frame [.fresh, .out, .nextId, .pmc, .fns, .regions, .cmds, .ports, .held, .leases, .hbm, .wbuf, .atoms, .qos, .dir, .dirs, .groups, .tables, .refRecs, .mems, .chds, .disp, .hbmStk, .repairs, .flss, .elog, .cnt] s (State.loopback s k p pass) := by
  unfold State.loopback
  repeat' (first
      | extract_lets | with_reducible apply Frame.refl | exact rfl
      | with_reducible apply Frame.step (State.unfreeze_frame ..) | with_reducible apply Frame.step (State.retirePc_frame ..)
      | with_reducible apply Frame.ite)

theorem State.remapLine_frame {s : State} {k : Nat} {p : Nat} {pcLine : Nat} {reason : Nat} {a} {t : State} (h : State.remapLine s k p pcLine reason = some (a, t)) :
    Frame [.fresh, .out, .fns, .hbmStk, .repairRows, .elog] s t := by
  unfold State.remapLine at h
  try dsimp only at h
  repeat' split at h
  all_goals (first | (exact absurd h (by decide)) | (simp at h; done) | (injection h with h; injection h with _ h; subst h) | (injection h with h; subst h) | (rw [Option.map_eq_some_iff] at h; obtain ⟨_, h, rfl⟩ := h) | skip)
  all_goals repeat' (first
    | extract_lets
    | with_reducible apply Frame.refl
    | exact rfl
    | with_reducible apply Frame.step (State.modStack_frame ..)
    | with_reducible apply Frame.step (State.log_frame ..)
    | with_reducible apply Frame.step (Frame.set_repairRows ..))

theorem State.damage_frame (s : State) (k : Nat) (p : Nat) (f : Finding) :
    Frame [.hbm, .hbmStk] s (State.damage s k p f) := by
  unfold State.damage
  repeat' (first
      | extract_lets | with_reducible apply Frame.refl | exact rfl | with_reducible apply Frame.step (State.modHbm_frame ..)
      | with_reducible apply Frame.step (State.modStack_frame ..) | split)

theorem State.meet_frame (s : State) (k : Nat) (p : Nat) (pcLine : Nat) (scrub : Bool) :
    Frame [.fresh, .out, .fns, .hbmStk, .elog, .cnt] s (State.meet s k p pcLine scrub) := by
  unfold State.meet
  repeat' (first
      | extract_lets | with_reducible apply Frame.refl | exact rfl
      | with_reducible apply Frame.step (State.countCorrected_frame ..)
      | with_reducible apply Frame.step (State.takeFree_frame ..) | with_reducible apply Frame.step (State.modStack_frame ..)
      | with_reducible apply Frame.step (State.log_frame ..) | with_reducible apply Frame.step (State.count_frame ..)
      | with_reducible apply Frame.ite | split)

theorem State.coreRemap_frame (s : State) (k : Nat) (p : Nat) (pcLine : Nat) :
    Frame [.fresh, .out, .fns, .hbmStk, .repairRows, .elog] s (State.coreRemap s k p pcLine) := by
  unfold State.coreRemap
  repeat' (first
      | extract_lets | with_reducible apply Frame.refl | exact rfl
      | (with_reducible apply Frame.step; (with_reducible apply State.remapLine_frame; with_reducible assumption))
      | with_reducible apply Frame.step (State.log_frame ..) | with_reducible apply Frame.step (State.modStack_frame ..)
      | with_reducible apply Frame.ite | split)

theorem State.laneFault_frame (s : State) (k : Nat) (p : Nat) (pin : Nat) (pcLine : Nat) :
    Frame [.fresh, .out, .nextId, .pmc, .fns, .regions, .cmds, .ports, .held, .leases, .hbm, .wbuf, .atoms, .qos, .dir, .dirs, .groups, .tables, .refRecs, .mems, .chds, .disp, .hbmStk, .repairs, .flss, .elog, .cnt] s (State.laneFault s k p pin pcLine) := by
  unfold State.laneFault
  repeat' (first
      | extract_lets | with_reducible apply Frame.refl | exact rfl
      | with_reducible apply Frame.step (State.retirePc_frame ..) | with_reducible apply Frame.step (State.modStack_frame ..)
      | with_reducible apply Frame.step (State.modPc_frame ..) | with_reducible apply Frame.step (State.log_frame ..)
      | with_reducible apply Frame.ite)

theorem State.coreCorrected_frame (s : State) (k : Nat) (p : Nat) (pcLine : Nat) (f : LineCheck) :
    Frame [.fresh, .out, .nextId, .pmc, .fns, .regions, .cmds, .ports, .held, .leases, .hbm, .wbuf, .atoms, .qos, .dir, .dirs, .groups, .tables, .refRecs, .mems, .chds, .disp, .hbmStk, .repairs, .repairRows, .flss, .elog, .cnt] s (State.coreCorrected s k p pcLine f) := by
  unfold State.coreCorrected
  repeat' (first
      | extract_lets | with_reducible apply Frame.refl | exact rfl | with_reducible apply Frame.step (State.modPc_frame ..)
      | with_reducible apply Frame.step (State.laneFault_frame ..)
      | with_reducible apply Frame.step (State.coreRemap_frame ..) | with_reducible apply Frame.eachTrans
      | with_reducible apply Frame.ite | intro _)

theorem State.coreReport_frame (s : State) (k : Nat) (p : Nat) (pcLine : Nat) :
    Frame [.fresh, .out, .nextId, .pmc, .fns, .regions, .cmds, .ports, .held, .leases, .hbm, .wbuf, .atoms, .qos, .dir, .dirs, .groups, .tables, .refRecs, .mems, .chds, .disp, .hbmStk, .repairs, .repairRows, .flss, .elog, .cnt] s (State.coreReport s k p pcLine) := by
  unfold State.coreReport
  repeat' (first
      | extract_lets | with_reducible apply Frame.refl | exact rfl
      | with_reducible apply Frame.step (State.coreRemap_frame ..)
      | with_reducible apply Frame.step (State.coreCorrected_frame ..) | with_reducible apply Frame.ite | split)

theorem State.queuePage_frame {s : State} {h : HintCtx} {page : Nat} {t : State} (h : State.queuePage s h page = some t) :
    Frame [.dir, .dirs] s t := by
  unfold State.queuePage at h
  try dsimp only at h
  repeat' split at h
  all_goals (first | (exact absurd h (by decide)) | (simp at h; done) | (injection h with h; injection h with _ h; subst h) | (injection h with h; subst h) | (rw [Option.map_eq_some_iff] at h; obtain ⟨_, h, rfl⟩ := h) | skip)
  all_goals repeat' (first
    | extract_lets
    | with_reducible apply Frame.refl
    | exact rfl
    | with_reducible apply Frame.step (State.modEnt_frame ..)
    | with_reducible apply Frame.step (State.modDir_frame ..))

theorem State.prefetchPage_frame (s : State) (h : HintCtx) (page : Nat) :
    Frame [.dir, .dirs] s (State.prefetchPage s h page).2 := by
  unfold State.prefetchPage
  repeat' (first
      | extract_lets | with_reducible apply Frame.refl | exact rfl | with_reducible apply Frame.step (State.modEnt_frame ..)
      | (with_reducible apply Frame.step; (with_reducible apply State.queuePage_frame; with_reducible assumption))
      | with_reducible apply Frame.ite | split)

theorem State.pinPage_frame (s : State) (h : HintCtx) (fn : Nat) (page : Nat) :
    Frame [.fresh, .out, .nextId, .fns, .regions, .cmds, .ports, .held, .leases, .hbm, .wbuf, .atoms, .dir, .dirs, .groups, .tables, .refRecs, .mems, .chds, .disp, .hbmStk, .flss, .elog, .cnt] s (State.pinPage s h fn page).2 := by
  unfold State.pinPage
  repeat' (first
      | extract_lets | with_reducible apply Frame.refl | exact rfl | with_reducible apply Frame.step (State.modEnt_frame ..)
      | (with_reducible apply Frame.step; (with_reducible apply State.zeroFrame_frame; with_reducible assumption))
      | with_reducible apply Frame.step (State.pageReady_frame ..)
      | (with_reducible apply Frame.step; (with_reducible apply State.queuePage_frame; with_reducible assumption))
      | with_reducible apply Frame.iteSnd | split)

theorem State.unpinPage_frame (s : State) (page : Nat) :
    Frame [.fresh, .out, .fns, .hbm, .wbuf, .dir, .dirs, .tables, .refRecs, .hbmStk, .cnt] s (State.unpinPage s page).2 := by
  unfold State.unpinPage
  repeat' (first
      | extract_lets | with_reducible apply Frame.refl | exact rfl | with_reducible apply Frame.step (State.modEnt_frame ..)
      | with_reducible apply Frame.step (State.cancelPrefetch_frame ..)
      | with_reducible apply Frame.step (State.evict_frame ..) | with_reducible apply Frame.ite
      | with_reducible apply Frame.iteSnd | split)

theorem State.evictPage_frame (s : State) (page : Nat) :
    Frame [.fresh, .out, .fns, .hbm, .wbuf, .dir, .dirs, .tables, .refRecs, .hbmStk, .cnt] s (State.evictPage s page).2 := by
  unfold State.evictPage
  repeat' (first
      | extract_lets | with_reducible apply Frame.refl | exact rfl | with_reducible apply Frame.step (State.modEnt_frame ..)
      | with_reducible apply Frame.step (State.cancelPrefetch_frame ..)
      | with_reducible apply Frame.step (State.evict_frame ..) | with_reducible apply Frame.ite
      | with_reducible apply Frame.iteSnd | split)

theorem State.hintEntry_frame (s : State) (op : HintOp) (h : HintCtx) (fn : Nat) (page : Nat) :
    Frame [.fresh, .out, .nextId, .fns, .regions, .cmds, .ports, .held, .leases, .hbm, .wbuf, .atoms, .dir, .dirs, .groups, .tables, .refRecs, .mems, .chds, .disp, .hbmStk, .flss, .elog, .cnt] s (State.hintEntry s op h fn page).2 := by
  unfold State.hintEntry
  repeat' (first
      | extract_lets | with_reducible apply Frame.refl | exact rfl
      | with_reducible apply Frame.step (State.prefetchPage_frame ..)
      | with_reducible apply Frame.step (State.pinPage_frame ..) | with_reducible apply Frame.step (State.modEnt_frame ..)
      | with_reducible apply Frame.step (State.unpinPage_frame ..)
      | with_reducible apply Frame.step (State.evictPage_frame ..) | with_reducible apply Frame.ite
      | with_reducible apply Frame.iteSnd | split)

theorem State.hintPage_frame (s : State) (op : HintOp) (h : HintCtx) (fn : Nat) (page : Nat) :
    Frame [.fresh, .out, .nextId, .fns, .regions, .cmds, .ports, .held, .leases, .hbm, .wbuf, .atoms, .dir, .dirs, .groups, .tables, .refRecs, .mems, .chds, .disp, .hbmStk, .flss, .elog, .cnt] s (State.hintPage s op h fn page).2 := by
  unfold State.hintPage
  repeat' (first
      | extract_lets | with_reducible apply Frame.refl | exact rfl
      | with_reducible apply Frame.step (State.cacheEntry_frame ..)
      | with_reducible apply Frame.step (State.hintEntry_frame ..) | with_reducible apply Frame.iteSnd)

theorem State.hintPages_frame (s : State) (op : HintOp) (h : HintCtx) (fn : Nat) (y0 : List Nat) :
    Frame [.fresh, .out, .nextId, .fns, .regions, .cmds, .ports, .held, .leases, .hbm, .wbuf, .atoms, .dir, .dirs, .groups, .tables, .refRecs, .mems, .chds, .disp, .hbmStk, .flss, .elog, .cnt] s (State.hintPages s op h fn y0).2 := by
  induction y0 generalizing s op h fn with
  | nil => (unfold State.hintPages; repeat' (first
       | extract_lets
       | with_reducible apply Frame.refl
       | exact rfl
       | with_reducible apply Frame.step (State.hintPage_frame ..)
       | with_reducible apply Frame.step (State.countGnm_frame ..)
       | with_reducible apply Frame.after (ih ..)))
  | cons a y0 ih =>
    (unfold State.hintPages
     repeat' (first
         | extract_lets | with_reducible apply Frame.refl | exact rfl
         | with_reducible apply Frame.step (State.hintPage_frame ..)
         | with_reducible apply Frame.step (State.countGnm_frame ..) | with_reducible apply Frame.after (ih ..)))

theorem startHint_frame (op : HintOp) (s : State) (c : Cmd) :
    Frame [.fresh, .out, .nextId, .fns, .regions, .cmds, .ports, .held, .leases, .hbm, .wbuf, .atoms, .dir, .dirs, .groups, .tables, .refRecs, .mems, .chds, .disp, .hbmStk, .flss, .elog, .cnt] s (startHint op s c) := by
  unfold startHint
  repeat' (first
      | extract_lets | with_reducible apply Frame.refl | exact rfl | with_reducible apply Frame.step (State.bad_frame ..)
      | with_reducible apply Frame.step (State.reply_frame ..) | with_reducible apply Frame.step (State.takeId_frame ..)
      | with_reducible apply Frame.step (State.hintPages_frame ..)
      | with_reducible apply Frame.step (State.retryInvalid_frame ..) | with_reducible apply Frame.ite | split)

theorem State.ckptPage_frame (s : State) (page : Nat) :
    Frame [.fresh, .out, .fns, .dir, .dirs, .cnt] s (State.ckptPage s page).2 := by
  unfold State.ckptPage
  repeat' (first
      | extract_lets | with_reducible apply Frame.refl | exact rfl
      | with_reducible apply Frame.step (State.startWriteback_frame ..) | with_reducible apply Frame.iteSnd | split)

theorem State.ckptPages_frame (s : State) (y0 : List Nat) :
    Frame [.fresh, .out, .fns, .dir, .dirs, .cnt] s (State.ckptPages s y0).2 := by
  induction y0 generalizing s with
  | nil => (unfold State.ckptPages; repeat' (first
       | extract_lets
       | with_reducible apply Frame.refl
       | exact rfl
       | with_reducible apply Frame.step (State.ckptPage_frame ..)
       | with_reducible apply Frame.after (ih ..)))
  | cons a y0 ih =>
    (unfold State.ckptPages
     repeat' (first
         | extract_lets | with_reducible apply Frame.refl | exact rfl
         | with_reducible apply Frame.step (State.ckptPage_frame ..) | with_reducible apply Frame.after (ih ..)))

theorem startCkpt_frame (s : State) (c : Cmd) :
    Frame [.fresh, .out, .fns, .cmds, .ports, .dir, .dirs, .cnt] s (startCkpt s c) := by
  unfold startCkpt
  repeat' (first
      | extract_lets | with_reducible apply Frame.refl | exact rfl | with_reducible apply Frame.step (State.bad_frame ..)
      | with_reducible apply Frame.step (State.reply_frame ..) | with_reducible apply Frame.step (State.ckptPages_frame ..)
      | with_reducible apply Frame.step (State.modCmd_frame ..) | with_reducible apply Frame.ite | split)

theorem State.releaseResident_frame (s : State) (d : Nat) :
    Frame [.fresh, .out, .nextId, .fns, .regions, .cmds, .ports, .held, .leases, .hbm, .wbuf, .atoms, .dir, .dirs, .groups, .tables, .refRecs, .mems, .chds, .disp, .hbmStk, .flss, .elog, .cnt] s (State.releaseResident s d) := by
  unfold State.releaseResident
  repeat' (first
      | extract_lets | with_reducible apply Frame.refl | exact rfl | with_reducible apply Frame.step (State.settle_frame ..)
      | with_reducible apply Frame.step (State.rerouted_frame ..))

theorem State.placeRegion_frame (s : State) (attr : BitVec 32) (n : Nat) :
    Frame [.fresh] s (State.placeRegion s attr n).2 := by
  unfold State.placeRegion
  repeat' (first
      | extract_lets | with_reducible apply Frame.refl | exact rfl
      | with_reducible apply Frame.step (State.takeFree_frame ..))

theorem startRegionAlloc_frame (s : State) (c : Cmd) :
    Frame [.fresh, .out, .nextKey, .fns, .ctxs, .regions, .cmds, .ports, .dirs, .hbmStk, .cnt, .keys] s (startRegionAlloc s c) := by
  unfold startRegionAlloc
  repeat' (first
      | extract_lets | with_reducible apply Frame.refl | exact rfl | with_reducible apply Frame.step (State.bad_frame ..)
      | with_reducible apply Frame.step (State.reply_frame ..) | with_reducible apply Frame.step (State.placeRegion_frame ..)
      | with_reducible apply Frame.step (State.pickIndex_frame ..) | with_reducible apply Frame.step (State.modCtx_frame ..)
      | with_reducible apply Frame.step (State.pick_frame ..) | with_reducible apply Frame.step (State.takeKey_frame ..)
      | with_reducible apply Frame.step (State.loadKey_frame ..) | with_reducible apply Frame.step (State.setRegion_frame ..)
      | with_reducible apply Frame.step (State.chargeCache_frame ..)
      | with_reducible apply Frame.step (State.mapFrame_frame ..) | with_reducible apply Frame.step (State.modCmd_frame ..)
      | with_reducible apply Frame.eachTrans | (with_reducible apply Frame.ofPair; with_reducible assumption)
      | with_reducible apply Frame.ite | with_reducible apply Frame.iteSnd | split | intro _)

theorem State.fillPage_frame (s : State) (r : Region) (page : Nat) :
    Frame [.out, .fns, .hbmStk, .cnt] s (State.fillPage s r page) := by
  unfold State.fillPage
  repeat' (first
      | extract_lets | with_reducible apply Frame.refl | exact rfl | with_reducible apply Frame.step (State.count_frame ..)
      | with_reducible apply Frame.step (State.placePage_frame ..)
      | with_reducible apply Frame.step (State.countStack_frame ..) | with_reducible apply Frame.ite)

theorem State.filled_frame (s : State) (i : Nat) :
    Frame [.fresh, .out, .fns, .regions, .cmds, .ports, .hbmStk, .cnt] s (State.filled s i) := by
  unfold State.filled
  repeat' (first
      | extract_lets | with_reducible apply Frame.refl | exact rfl
      | with_reducible apply Frame.step (State.setRegion_frame ..)
      | with_reducible apply Frame.step (State.fillPage_frame ..) | with_reducible apply Frame.step (State.reply_frame ..)
      | with_reducible apply Frame.eachTrans | with_reducible apply Frame.ite | split | intro _)

theorem startRegionFree_frame (s : State) (c : Cmd) :
    Frame (Piece.allBut [.pending, .variantH, .stepB0, .nextKey, .pmc, .fw, .ctxs, .sealed, .subs, .qos, .engines, .xfers, .repairs, .repairRows]) s (startRegionFree s c) := by
  unfold startRegionFree
  repeat' (first
      | extract_lets | with_reducible apply Frame.refl | exact rfl | with_reducible apply Frame.step (State.bad_frame ..)
      | with_reducible apply Frame.step (State.reply_frame ..) | with_reducible apply Frame.step (State.freeRegion_frame ..)
      | with_reducible apply Frame.ite | split)

theorem State.attrReport_frame (s : State) (c : Cmd) :
    Frame [.fresh, .out, .fns, .cmds, .ports, .cnt] s (State.attrReport s c) := by
  unfold State.attrReport
  repeat' (first
      | extract_lets | with_reducible apply Frame.refl | exact rfl | with_reducible apply Frame.step (State.bad_frame ..)
      | with_reducible apply Frame.step (State.reply_frame ..) | with_reducible apply Frame.ite | split)

theorem State.moveRegion_frame (s : State) (c : Cmd) (i : Nat) (r : Region) (on : Bool) :
    Frame [.fresh, .out, .nextId, .fns, .regions, .cmds, .ports, .held, .leases, .hbm, .wbuf, .atoms, .dir, .dirs, .groups, .tables, .refRecs, .mems, .chds, .disp, .hbmStk, .flss, .elog, .cnt] s (State.moveRegion s c i r on) := by
  unfold State.moveRegion
  repeat' (first
      | extract_lets | with_reducible apply Frame.refl | exact rfl | with_reducible apply Frame.step (State.modCmd_frame ..)
      | with_reducible apply Frame.step (State.settle_frame ..) | with_reducible apply Frame.step (State.setRegion_frame ..)
      | with_reducible apply Frame.ite)

theorem State.attrLease_frame (s : State) (c : Cmd) :
    Frame [.fresh, .out, .nextId, .fns, .regions, .cmds, .ports, .held, .leases, .hbm, .wbuf, .atoms, .dir, .dirs, .groups, .tables, .refRecs, .mems, .chds, .disp, .hbmStk, .flss, .elog, .cnt] s (State.attrLease s c) := by
  unfold State.attrLease
  repeat' (first
      | extract_lets | with_reducible apply Frame.refl | exact rfl | with_reducible apply Frame.step (State.bad_frame ..)
      | with_reducible apply Frame.step (State.reply_frame ..) | with_reducible apply Frame.step (State.moveRegion_frame ..)
      | with_reducible apply Frame.ite | split)

theorem State.attrMiss_frame (s : State) (c : Cmd) :
    Frame [.fresh, .out, .fns, .ctxs, .cmds, .ports, .cnt] s (State.attrMiss s c) := by
  unfold State.attrMiss
  repeat' (first
      | extract_lets | with_reducible apply Frame.refl | exact rfl | with_reducible apply Frame.step (State.reply_frame ..)
      | with_reducible apply Frame.step (State.modCtx_frame ..))

theorem startRegionAttr_frame (s : State) (c : Cmd) :
    Frame [.fresh, .out, .nextId, .fns, .ctxs, .regions, .cmds, .ports, .held, .leases, .hbm, .wbuf, .atoms, .dir, .dirs, .groups, .tables, .refRecs, .mems, .chds, .disp, .hbmStk, .flss, .elog, .cnt] s (startRegionAttr s c) := by
  unfold startRegionAttr
  repeat' (first
      | extract_lets | with_reducible apply Frame.refl | exact rfl
      | with_reducible apply Frame.step (State.attrReport_frame ..)
      | with_reducible apply Frame.step (State.attrLease_frame ..)
      | with_reducible apply Frame.step (State.attrMiss_frame ..) | split)

theorem State.zeroOne_frame (s : State) (d : Nat) :
    Frame [.fresh, .out, .nextId, .fns, .regions, .cmds, .ports, .held, .leases, .hbm, .wbuf, .atoms, .dir, .dirs, .groups, .tables, .refRecs, .mems, .chds, .disp, .hbmStk, .flss, .elog, .cnt] s (State.zeroOne s d) := by
  unfold State.zeroOne
  repeat' (first
      | extract_lets | with_reducible apply Frame.refl | exact rfl
      | with_reducible apply Frame.step (State.retryInvalid_frame ..)
      | with_reducible apply Frame.step (State.settlePressure_frame ..)
      | with_reducible apply Frame.step (State.modDir_frame ..) | with_reducible apply Frame.ite)

theorem State.commitQos_frame (s : State) :
    Frame [.out, .fns, .qos] s (State.commitQos s) := by
  unfold State.commitQos
  repeat' (first
      | extract_lets | with_reducible apply Frame.refl | exact rfl | with_reducible apply Frame.step (State.modQos_frame ..)
      | with_reducible apply Frame.step (State.rederate_frame ..) | with_reducible apply Frame.ite)

theorem State.commitGnm_frame (s : State) (d : Nat) :
    Frame [.dirs] s (State.commitGnm s d) := by
  unfold State.commitGnm
  repeat' (first
      | extract_lets | with_reducible apply Frame.refl | exact rfl
      | with_reducible apply Frame.step (State.settlePressure_frame ..)
      | with_reducible apply Frame.step (State.modDir_frame ..) | with_reducible apply Frame.ite)

theorem State.commitFls_frame (s : State) (d : Nat) :
    Frame [.flss] s (State.commitFls s d) := by
  unfold State.commitFls
  repeat' (first
      | extract_lets | with_reducible apply Frame.refl | exact rfl | with_reducible apply Frame.step (State.modFls_frame ..)
      | with_reducible apply Frame.ite)

theorem startQosClassSet_frame (s : State) (c : Cmd) :
    Frame [.fresh, .out, .fns, .cmds, .ports, .qos, .cnt] s (startQosClassSet s c) := by
  unfold startQosClassSet
  repeat' (first
      | extract_lets | with_reducible apply Frame.refl | exact rfl | with_reducible apply Frame.step (State.reply_frame ..)
      | with_reducible apply Frame.step (State.modQos_frame ..))

theorem startQosBudgetSet_frame (s : State) (c : Cmd) :
    Frame [.fresh, .out, .fns, .ctxs, .cmds, .ports, .qos, .cnt] s (startQosBudgetSet s c) := by
  unfold startQosBudgetSet
  repeat' (first
      | extract_lets | with_reducible apply Frame.refl | exact rfl | with_reducible apply Frame.step (State.reply_frame ..)
      | with_reducible apply Frame.step (State.splitBudget_frame ..)
      | with_reducible apply Frame.step (State.modCtx_frame ..) | with_reducible apply Frame.ite)

theorem State.hashBlock_frame (s : State) (i : Nat) (r : Region) (m : Mover) (block : Nat) :
    Frame [.fresh, .out, .nextId, .fns, .regions, .cmds, .ports, .held, .leases, .hbm, .wbuf, .atoms, .dir, .dirs, .groups, .tables, .refRecs, .mems, .chds, .disp, .hbmStk, .flss, .elog, .cnt] s (State.hashBlock s i r m block).2 := by
  unfold State.hashBlock
  repeat' (first
      | with_reducible apply State.readReached_frame | extract_lets | with_reducible apply Frame.refl | exact rfl
      | with_reducible apply Frame.step (State.reachRegion_frame ..) | with_reducible apply Frame.iteSnd | split)

theorem State.hashBlocks_frame (s : State) (i : Nat) (r : Region) (m : Mover) (y0 : List Nat) :
    Frame [.fresh, .out, .nextId, .fns, .regions, .cmds, .ports, .held, .leases, .hbm, .wbuf, .atoms, .dir, .dirs, .groups, .tables, .refRecs, .mems, .chds, .disp, .hbmStk, .flss, .elog, .cnt] s (State.hashBlocks s i r m y0).2 := by
  induction y0 generalizing s i r with
  | nil => (unfold State.hashBlocks; repeat' (first
       | extract_lets
       | with_reducible apply Frame.refl
       | exact rfl
       | with_reducible apply Frame.step (State.hashBlock_frame ..)
       | with_reducible apply Frame.after (ih ..)
       | split))
  | cons a y0 ih =>
    (unfold State.hashBlocks
     repeat' (first
         | extract_lets | with_reducible apply Frame.refl | exact rfl
         | with_reducible apply Frame.step (State.hashBlock_frame ..) | with_reducible apply Frame.after (ih ..) | split))

theorem State.hashPages_frame (s : State) (i : Nat) (r : Region) (m : Mover) (y0 : List Nat) :
    Frame [.fresh, .out, .nextId, .fns, .regions, .cmds, .ports, .held, .leases, .hbm, .wbuf, .atoms, .dir, .dirs, .groups, .tables, .refRecs, .mems, .chds, .disp, .hbmStk, .flss, .elog, .cnt] s (State.hashPages s i r m y0).2 := by
  induction y0 generalizing s i r with
  | nil => (unfold State.hashPages; repeat' (first
       | extract_lets
       | with_reducible apply Frame.refl
       | exact rfl
       | with_reducible apply Frame.step (State.hashBlocks_frame ..)
       | with_reducible apply Frame.step (State.modRegion_frame ..)
       | with_reducible apply Frame.after (ih ..)
       | split))
  | cons a y0 ih =>
    (unfold State.hashPages
     repeat' (first
         | extract_lets | with_reducible apply Frame.refl | exact rfl
         | with_reducible apply Frame.step (State.hashBlocks_frame ..)
         | with_reducible apply Frame.step (State.modRegion_frame ..) | with_reducible apply Frame.after (ih ..) | split))

theorem State.published_frame (s : State) (i : Nat) :
    Frame (Piece.allBut [.pending, .variantH, .stepB0, .nextKey, .pmc, .fw, .ctxs, .sealed, .qos, .engines, .xfers, .repairs, .repairRows]) s (State.published s i) := by
  unfold State.published
  repeat' (first
      | extract_lets | with_reducible apply Frame.refl | exact rfl
      | with_reducible apply Frame.step (State.endPublish_frame ..) | with_reducible apply Frame.ite | split)

theorem State.hashed_frame (s : State) (i : Nat) :
    Frame (Piece.allBut [.pending, .variantH, .stepB0, .nextKey, .pmc, .fw, .ctxs, .sealed, .qos, .engines, .xfers, .repairs, .repairRows]) s (State.hashed s i) := by
  unfold State.hashed
  repeat' (first
      | extract_lets | with_reducible apply Frame.refl | exact rfl
      | with_reducible apply Frame.step (State.hashPages_frame ..)
      | with_reducible apply Frame.step (State.endPublish_frame ..)
      | with_reducible apply Frame.step (State.published_frame ..) | with_reducible apply Frame.ite | split)

theorem State.startHash_frame (s : State) (i : Nat) :
    Frame [.regions] s (State.startHash s i) := by
  unfold State.startHash
  repeat' (first
      | extract_lets | with_reducible apply Frame.refl | exact rfl
      | with_reducible apply Frame.step (State.setRegion_frame ..) | with_reducible apply Frame.ite | split)

end Sys2Proof.Machine
end

