-- ==== Sys2Proof/Laws/FrameDevice.lean ====
section
/-!
SUPPORT. What each operation can change: firmware, attestation, endpoint, power, service, start, registers and sideband. One lemma per operation, proved from those of the operations it
calls.
-/

namespace Sys2Proof.Machine

set_option maxRecDepth 2000
set_option Elab.async false

open Sys2Proof

theorem State.modConn_frame (s : State) (t : Transport) (f : Spdm → Spdm) :
    Frame [.fw] s (State.modConn s t f) := by
  unfold State.modConn
  repeat' (first
      | extract_lets | with_reducible apply Frame.refl | exact rfl | with_reducible apply Frame.step (State.modFw_frame ..))

theorem State.signed_frame (s : State) :
    Frame [.fresh, .fw] s (State.signed s).2 := by
  unfold State.signed
  repeat' (first
      | extract_lets | with_reducible apply Frame.refl | exact rfl
      | with_reducible apply Frame.step (State.takeFree_frame ..) | with_reducible apply Frame.step (State.modFw_frame ..))

theorem State.spdmAnswer_frame (s : State) (t : Transport) (q : SpdmReq) :
    Frame [.fresh, .fw] s (State.spdmAnswer s t q).2 := by
  unfold State.spdmAnswer
  repeat' (first
      | extract_lets | with_reducible apply Frame.refl | exact rfl | with_reducible apply Frame.step (State.modConn_frame ..)
      | with_reducible apply Frame.step (State.signed_frame ..) | with_reducible apply Frame.ite
      | with_reducible apply Frame.iteSnd | split | with_reducible apply Frame.step (Frame.set_fresh ..))

theorem State.spdm_frame (s : State) (t : Transport) (q : SpdmReq) :
    Frame [.fresh, .fw] s (State.spdm s t q).2 := by
  unfold State.spdm
  repeat' (first
      | extract_lets | with_reducible apply Frame.refl | exact rfl
      | with_reducible apply Frame.step (State.spdmAnswer_frame ..)
      | with_reducible apply Frame.step (State.modConn_frame ..) | with_reducible apply Frame.step (State.takeFree_frame ..)
      | with_reducible apply Frame.step (State.modFw_frame ..) | with_reducible apply Frame.iteSnd | split)

theorem State.spdmRow_frame (s : State) (t : Transport) (q : SpdmReq) :
    Frame [.fresh, .out, .fw] s (State.spdmRow s t q) := by
  unfold State.spdmRow
  repeat' (first
      | extract_lets | with_reducible apply Frame.refl | exact rfl | with_reducible apply Frame.step (State.spdm_frame ..)
      | with_reducible apply Frame.step (State.emit_frame ..) | with_reducible apply Frame.ite)

theorem State.relayed_frame (s : State) (c : Cmd) :
    Frame [.fresh, .out, .fw, .fns, .cmds, .ports, .cnt] s (State.relayed s c) := by
  unfold State.relayed
  repeat' (first
      | extract_lets | with_reducible apply Frame.refl | exact rfl | with_reducible apply Frame.step (State.spdm_frame ..)
      | with_reducible apply Frame.step (State.hostWrite_frame ..) | with_reducible apply Frame.step (State.emit_frame ..)
      | with_reducible apply Frame.step (State.reply_frame ..))

theorem State.cxlError_frame (s : State) :
    Frame [.hep] s (State.cxlError s) := by
  unfold State.cxlError
  repeat' (first
      | extract_lets | with_reducible apply Frame.refl | exact rfl | with_reducible apply Frame.step (State.modHep_frame ..))

theorem State.commitHwin_frame (s : State) :
    Frame [.hep] s (State.commitHwin s) := by
  unfold State.commitHwin
  repeat' (first
      | extract_lets | with_reducible apply Frame.refl | exact rfl | with_reducible apply Frame.step (State.modHep_frame ..)
      | split)

theorem State.flrFn_frame (s : State) (fn : Nat) :
    Frame (Piece.allBut [.pending, .variantH, .stepB0, .nextKey, .pmc, .fw, .sealed, .qos, .repairs, .repairRows]) s (State.flrFn s fn) := by
  unfold State.flrFn
  repeat' (first
      | extract_lets | with_reducible apply Frame.refl | exact rfl
      | with_reducible apply Frame.step (State.dropCmds_frame ..) | with_reducible apply Frame.step (State.modFn_frame ..)
      | with_reducible apply Frame.step (State.releaseCounter_frame ..)
      | with_reducible apply Frame.step (State.drainCtx_frame ..) | with_reducible apply Frame.eachTrans | intro _)

theorem State.flrVfs_frame (s : State) :
    Frame (Piece.allBut [.pending, .variantH, .stepB0, .nextKey, .pmc, .fw, .sealed, .qos, .repairs, .repairRows]) s (State.flrVfs s) := by
  unfold State.flrVfs
  repeat' (first
      | extract_lets | with_reducible apply Frame.refl | exact rfl | with_reducible apply Frame.step (State.modHep_frame ..)
      | with_reducible apply Frame.step (State.flrFn_frame ..) | with_reducible apply Frame.eachTrans | intro _)

theorem State.fwAbandon_frame (s : State) (status : Option Nat) :
    Frame [.fresh, .out, .fw, .fns, .cmds, .ports, .cnt] s (State.fwAbandon s status) := by
  unfold State.fwAbandon
  repeat' (first
      | extract_lets | with_reducible apply Frame.refl | exact rfl | with_reducible apply Frame.step (State.modFw_frame ..)
      | with_reducible apply Frame.step (State.replyTo_frame ..) | with_reducible apply Frame.ite | split
      | dsimp +zetaDelta only [id])

theorem State.flrPf_frame (s : State) :
    Frame (Piece.allBut [.pending, .variantH, .stepB0, .nextKey, .pmc, .sealed, .repairs, .repairRows]) s (State.flrPf s) := by
  unfold State.flrPf
  repeat' (first
      | extract_lets | with_reducible apply Frame.refl | exact rfl | with_reducible apply Frame.step (State.flrVfs_frame ..)
      | with_reducible apply Frame.step (State.fwAbandon_frame ..) | with_reducible apply Frame.step (State.flrFn_frame ..)
      | with_reducible apply Frame.step (State.modFn_frame ..) | with_reducible apply Frame.step (State.modQos_frame ..)
      | with_reducible apply Frame.step (State.modDir_frame ..) | with_reducible apply Frame.step (State.modHep_frame ..)
      | with_reducible apply Frame.step (State.modCnt_frame ..) | with_reducible apply Frame.eachTrans
      | with_reducible apply Frame.ite | intro _)

theorem State.configDefaults_frame (s : State) :
    Frame [.hep, .fns] s (State.configDefaults s) := by
  unfold State.configDefaults
  repeat' (first
      | extract_lets | with_reducible apply Frame.refl | exact rfl | with_reducible apply Frame.step (State.modHep_frame ..)
      | with_reducible apply Frame.step (Frame.set_fns ..))

theorem State.pme_frame (s : State) (src : PmeSource) :
    Frame [.out, .hep] s (State.pme s src) := by
  unfold State.pme
  repeat' (first
      | extract_lets | with_reducible apply Frame.refl | exact rfl | with_reducible apply Frame.step (State.modHep_frame ..)
      | with_reducible apply Frame.step (State.emit_frame ..) | with_reducible apply Frame.ite)

theorem State.press_frame (s : State) :
    Frame [.out, .hep, .fns] s (State.press s) := by
  unfold State.press
  repeat' (first
      | extract_lets | with_reducible apply Frame.refl | exact rfl | with_reducible apply Frame.step (State.modHep_frame ..)
      | with_reducible apply Frame.step (State.raise_frame ..) | with_reducible apply Frame.ite)

theorem State.clearBme_frame (s : State) (fn : Nat) :
    Frame [.fns] s (State.clearBme s fn) := by
  unfold State.clearBme
  repeat' (first
      | extract_lets | with_reducible apply Frame.refl | exact rfl | with_reducible apply Frame.step (State.modFn_frame ..)
      | with_reducible apply Frame.ite)

theorem State.fwReview_frame (s : State) :
    Frame [.fw] s (State.fwReview s) := by
  unfold State.fwReview
  repeat' (first
      | extract_lets | with_reducible apply Frame.refl | exact rfl | with_reducible apply Frame.step (State.modFw_frame ..)
      | split)

theorem State.restartProc_frame (s : State) (i : Nat) (cause : Nat) :
    Frame [.fresh, .out, .pmc, .fw, .fns, .qos, .elog] s (State.restartProc s i cause) := by
  unfold State.restartProc
  repeat' (first
      | extract_lets | with_reducible apply Frame.refl | exact rfl | with_reducible apply Frame.step (State.modProc_frame ..)
      | with_reducible apply Frame.step (State.aerCor_frame ..) | with_reducible apply Frame.step (State.log_frame ..)
      | with_reducible apply Frame.step (State.modFw_frame ..) | with_reducible apply Frame.step (State.modPmc_frame ..)
      | with_reducible apply Frame.step (State.fwReview_frame ..) | with_reducible apply Frame.step (State.rederate_frame ..)
      | with_reducible apply Frame.step (State.pmcErr_frame ..) | with_reducible apply Frame.ite)

theorem State.keepUnits_frame (s : State) (c : Cmd) (n : Nat) :
    Frame [.fw] s (State.keepUnits s c n) := by
  unfold State.keepUnits
  repeat' (first
      | extract_lets | with_reducible apply Frame.refl | exact rfl | with_reducible apply Frame.step (State.modFw_frame ..)
      | with_reducible apply Frame.ite)

theorem State.endStage_frame (s : State) (c : Cmd) (status : Nat) :
    Frame [.fresh, .out, .fw, .fns, .cmds, .ports, .cnt] s (State.endStage s c status) := by
  unfold State.endStage
  repeat' (first
      | extract_lets | with_reducible apply Frame.refl | exact rfl | with_reducible apply Frame.step (State.reply_frame ..)
      | with_reducible apply Frame.step (State.keepUnits_frame ..))

theorem startFwStage_frame (s : State) (c : Cmd) :
    Frame [.fresh, .out, .fw, .fns, .cmds, .ports, .cnt] s (startFwStage s c) := by
  unfold startFwStage
  repeat' (first
      | extract_lets | with_reducible apply Frame.refl | exact rfl | with_reducible apply Frame.step (State.reply_frame ..)
      | with_reducible apply Frame.step (State.modFw_frame ..) | with_reducible apply Frame.step (State.beginHost_frame ..)
      | with_reducible apply Frame.ite)

theorem startFwActivate_frame (s : State) (c : Cmd) :
    Frame [.fresh, .out, .fw, .fns, .cmds, .ports, .cnt] s (startFwActivate s c) := by
  unfold startFwActivate
  repeat' (first
      | extract_lets | with_reducible apply Frame.refl | exact rfl | with_reducible apply Frame.step (State.reply_frame ..)
      | with_reducible apply Frame.step (State.modFw_frame ..) | with_reducible apply Frame.ite)

theorem State.verified_frame (s : State) :
    Frame [.fresh, .out, .fw, .fns, .cmds, .ports, .cnt] s (State.verified s) := by
  unfold State.verified
  repeat' (first
      | extract_lets | with_reducible apply Frame.refl | exact rfl | with_reducible apply Frame.step (State.modFw_frame ..)
      | with_reducible apply Frame.step (State.replyTo_frame ..) | with_reducible apply Frame.step (State.fwReview_frame ..)
      | with_reducible apply Frame.ite | split)

theorem State.switched_frame (s : State) :
    Frame [.fresh, .out, .fw, .fns, .cmds, .ports, .cnt] s (State.switched s) := by
  unfold State.switched
  repeat' (first
      | extract_lets | with_reducible apply Frame.refl | exact rfl | with_reducible apply Frame.step (State.modFw_frame ..)
      | with_reducible apply Frame.step (State.replyTo_frame ..) | with_reducible apply Frame.ite | split)

theorem State.revert_frame (s : State) :
    Frame [.fresh, .out, .pmc, .fw, .fns, .qos, .elog] s (State.revert s) := by
  unfold State.revert
  repeat' (first
      | extract_lets | with_reducible apply Frame.refl | exact rfl | with_reducible apply Frame.step (State.modFw_frame ..)
      | with_reducible apply Frame.step (State.restartProc_frame ..) | with_reducible apply Frame.eachTrans | split
      | intro _)

theorem State.floorDue_frame (s : State) :
    Frame [.fw] s (State.floorDue s) := by
  unfold State.floorDue
  repeat' (first
      | extract_lets | with_reducible apply Frame.refl | exact rfl | with_reducible apply Frame.step (State.modFw_frame ..))

theorem State.hostGo_frame (s : State) :
    Frame [.fresh, .out, .fns, .cmds, .xfers, .cnt] s (State.hostGo s) := by
  unfold State.hostGo
  repeat' (first
      | extract_lets | with_reducible apply Frame.refl | exact rfl | with_reducible apply Frame.step (State.pumpAll_frame ..)
      | with_reducible apply Frame.step (State.askCmd_frame ..) | with_reducible apply Frame.eachTrans | intro _)

theorem State.hostArrived_frame (s : State) (id : Nat) :
    Frame [.fresh, .out, .fw, .fns, .cmds, .ports, .disp, .cnt] s (State.hostArrived s id) := by
  unfold State.hostArrived
  repeat' (first
      | extract_lets | with_reducible apply Frame.refl | exact rfl
      | with_reducible apply Frame.step (State.loadKernel_frame ..)
      | with_reducible apply Frame.step (State.endStage_frame ..) | with_reducible apply Frame.step (State.relayed_frame ..)
      | with_reducible apply Frame.ite | split)

theorem State.readFailed_frame (s : State) (y0 : ReadUse) :
    Frame [.fresh, .out, .fw, .fns, .cmds, .ports, .leases, .dir, .xfers, .cnt] s (State.readFailed s y0) := by
  unfold State.readFailed
  repeat' (first
      | extract_lets | with_reducible apply Frame.refl | exact rfl
      | with_reducible apply Frame.step (State.failXfer_frame ..) | with_reducible apply Frame.step (State.endStage_frame ..)
      | with_reducible apply Frame.step (State.reply_frame ..) | with_reducible apply Frame.ite | split)

theorem State.readData_frame (s : State) (use : ReadUse) (off : Nat) (data : List Byte) :
    Frame [.out, .fns, .cmds, .xfers, .cnt] s (State.readData s use off data) := by
  unfold State.readData
  repeat' (first
      | extract_lets | with_reducible apply Frame.refl | exact rfl | with_reducible apply Frame.step (State.count_frame ..)
      | with_reducible apply Frame.step (State.modUnit_frame ..) | with_reducible apply Frame.step (State.modCmd_frame ..)
      | with_reducible apply Frame.ite | split)

theorem State.unexpected_frame (s : State) (fn : Nat) :
    Frame [.out, .fns] s (State.unexpected s fn) := by
  unfold State.unexpected
  repeat' (first
      | extract_lets | with_reducible apply Frame.refl | exact rfl | with_reducible apply Frame.step (State.aerUnc_frame ..))

theorem State.completed_frame (s : State) (fn : Nat) (slot : Nat) (status : CplStatus) (data : List Byte) :
    Frame [.fresh, .out, .fw, .fns, .cmds, .ports, .leases, .dir, .disp, .xfers, .cnt] s (State.completed s fn slot status data) := by
  unfold State.completed
  repeat' (first
      | extract_lets | with_reducible apply Frame.refl | exact rfl
      | with_reducible apply Frame.step (State.unexpected_frame ..) | with_reducible apply Frame.step (State.modFn_frame ..)
      | with_reducible apply Frame.step (State.count_frame ..) | with_reducible apply Frame.step (State.hostGo_frame ..)
      | with_reducible apply Frame.step (State.readFailed_frame ..) | with_reducible apply Frame.step (State.aerUnc_frame ..)
      | with_reducible apply Frame.step (State.readData_frame ..)
      | with_reducible apply Frame.step (State.hostArrived_frame ..) | with_reducible apply Frame.ite | split)

theorem State.afterReset_frame (s : State) (power : Bool) : Frame (Piece.allBut [.pending, .fresh, .out, .variantH, .stepB0, .nextId, .nextKey, .repairs, .repairRows]) s (s.afterReset power) := by
  constructor; intro f hf; cases f <;> first | rfl | exact absurd hf (by decide)

theorem State.tornFuse_frame (s : State) :
    Frame [.fresh, .fw] s (State.tornFuse s) := by
  unfold State.tornFuse
  repeat' (first
      | extract_lets | with_reducible apply Frame.refl | exact rfl
      | with_reducible apply Frame.step (State.takeFree_frame ..) | with_reducible apply Frame.step (State.modFw_frame ..)
      | with_reducible apply Frame.ite)

theorem State.toStandby_frame (s : State) :
    Frame (Piece.allBut [.pending, .fresh, .out, .variantH, .stepB0, .nextId, .nextKey, .repairs, .repairRows]) s (State.toStandby s) := by
  unfold State.toStandby
  repeat' (first
      | extract_lets | with_reducible apply Frame.refl | exact rfl
      | with_reducible apply Frame.step (State.afterReset_frame ..) | with_reducible apply Frame.step (State.modPmc_frame ..)
      | with_reducible apply Frame.step (State.modHep_frame ..))

theorem State.settleReset_frame (s : State) :
    Frame (Piece.allBut [.pending, .out, .variantH, .stepB0, .nextId, .nextKey, .repairs, .repairRows]) s (State.settleReset s) := by
  unfold State.settleReset
  repeat' (first
      | extract_lets | with_reducible apply Frame.refl | exact rfl
      | with_reducible apply Frame.step (State.afterReset_frame ..)
      | with_reducible apply Frame.step (State.tornFuse_frame ..)
      | with_reducible apply Frame.step (State.toStandby_frame ..) | with_reducible apply Frame.ite)

theorem State.endReads_frame (s : State) :
    Frame [.flss] s (State.endReads s) := by
  unfold State.endReads
  repeat' (first
      | extract_lets | with_reducible apply Frame.refl | exact rfl | with_reducible apply Frame.step (State.modFls_frame ..)
      | with_reducible apply Frame.eachTrans | intro _)

theorem State.dueFlush_frame (s : State) :
    Frame [.flss] s (State.dueFlush s) := by
  unfold State.dueFlush
  repeat' (first
      | extract_lets | with_reducible apply Frame.refl | exact rfl | with_reducible apply Frame.step (State.modFls_frame ..)
      | with_reducible apply Frame.eachTrans | intro _)

theorem State.powerOff_frame (s : State) (reason : Nat) (sensor : Nat) :
    Frame (Piece.allBut [.pending, .out, .variantH, .stepB0, .nextId, .nextKey, .repairs, .repairRows]) s (State.powerOff s reason sensor) := by
  unfold State.powerOff
  repeat' (first
      | extract_lets | with_reducible apply Frame.refl | exact rfl | with_reducible apply Frame.step (State.modPmc_frame ..)
      | with_reducible apply Frame.step (State.endReads_frame ..)
      | with_reducible apply Frame.step (State.settleReset_frame ..)
      | with_reducible apply Frame.step (State.dueFlush_frame ..) | with_reducible apply Frame.ite)

theorem State.assertReset_frame (s : State) :
    Frame (Piece.allBut [.pending, .out, .variantH, .stepB0, .nextId, .nextKey, .repairs, .repairRows]) s (State.assertReset s) := by
  unfold State.assertReset
  repeat' (first
      | extract_lets | with_reducible apply Frame.refl | exact rfl | with_reducible apply Frame.step (State.modPmc_frame ..)
      | with_reducible apply Frame.step (State.endReads_frame ..)
      | with_reducible apply Frame.step (State.settleReset_frame ..)
      | with_reducible apply Frame.step (State.dueFlush_frame ..) | with_reducible apply Frame.ite)

theorem State.beginFlush_frame (s : State) :
    Frame [.flss] s (State.beginFlush s) := by
  unfold State.beginFlush
  repeat' (first
      | extract_lets | with_reducible apply Frame.refl | exact rfl | with_reducible apply Frame.step (State.modFls_frame ..)
      | with_reducible apply Frame.eachTrans | with_reducible apply Frame.ite | intro _)

theorem State.endFlush_frame (s : State) :
    Frame (Piece.allBut [.pending, .out, .variantH, .stepB0, .nextId, .nextKey, .repairs, .repairRows]) s (State.endFlush s) := by
  unfold State.endFlush
  repeat' (first
      | extract_lets | with_reducible apply Frame.refl | exact rfl | with_reducible apply Frame.step (State.modFls_frame ..)
      | with_reducible apply Frame.step (State.journalSaved_frame ..)
      | with_reducible apply Frame.step (State.settleReset_frame ..) | with_reducible apply Frame.eachTrans
      | with_reducible apply Frame.ite | intro _)

theorem State.loseFlush_frame (s : State) :
    Frame (Piece.allBut [.pending, .out, .variantH, .stepB0, .nextId, .nextKey, .repairs, .repairRows]) s (State.loseFlush s) := by
  unfold State.loseFlush
  repeat' (first
      | extract_lets | with_reducible apply Frame.refl | exact rfl | with_reducible apply Frame.step (State.modFls_frame ..)
      | with_reducible apply Frame.step (State.journalLost_frame ..)
      | with_reducible apply Frame.step (State.settleReset_frame ..) | with_reducible apply Frame.eachTrans
      | with_reducible apply Frame.ite | intro _)

theorem State.settleStops_frame (s : State) :
    Frame [.fresh, .out, .nextId, .fns, .flss, .cnt] s (State.settleStops s) := by
  unfold State.settleStops
  repeat' (first
      | extract_lets | with_reducible apply Frame.refl | exact rfl | with_reducible apply Frame.step (State.modFls_frame ..)
      | with_reducible apply Frame.step (State.serve_frame ..) | with_reducible apply Frame.step (State.closeFull_frame ..)
      | with_reducible apply Frame.eachTrans | with_reducible apply Frame.ite | intro _)

theorem State.enterSag_frame (s : State) :
    Frame [.fresh, .out, .nextId, .pmc, .fw, .fns, .flss, .cnt] s (State.enterSag s) := by
  unfold State.enterSag
  repeat' (first
      | extract_lets | with_reducible apply Frame.refl | exact rfl
      | with_reducible apply Frame.step (State.fwReview_frame ..)
      | with_reducible apply Frame.step (State.settleStops_frame ..)
      | with_reducible apply Frame.step (State.pmcErr_frame ..) | with_reducible apply Frame.step (State.modPmc_frame ..)
      | with_reducible apply Frame.ite)

theorem State.enterHoldup_frame (s : State) :
    Frame [.fresh, .out, .nextId, .pmc, .fw, .fns, .flss, .cnt] s (State.enterHoldup s) := by
  unfold State.enterHoldup
  repeat' (first
      | extract_lets | with_reducible apply Frame.refl | exact rfl | with_reducible apply Frame.step (State.pmcErr_frame ..)
      | with_reducible apply Frame.step (State.modPmc_frame ..) | with_reducible apply Frame.step (State.enterSag_frame ..)
      | with_reducible apply Frame.step (State.dueFlush_frame ..) | with_reducible apply Frame.ite)

theorem State.recoverSupply_frame (s : State) :
    Frame [.fresh, .out, .nextId, .pmc, .fw, .fns, .flss, .cnt] s (State.recoverSupply s) := by
  unfold State.recoverSupply
  repeat' (first
      | extract_lets | with_reducible apply Frame.refl | exact rfl | with_reducible apply Frame.step (State.modPmc_frame ..)
      | with_reducible apply Frame.step (State.modFls_frame ..) | with_reducible apply Frame.step (State.fwReview_frame ..)
      | with_reducible apply Frame.step (State.settleStops_frame ..) | with_reducible apply Frame.eachTrans
      | with_reducible apply Frame.ite | intro _)

theorem State.readSensors_frame (s : State) (temps : List (BitVec 8)) :
    Frame [.fresh, .out, .nextId, .pmc, .fw, .fns, .flss, .cnt] s (State.readSensors s temps) := by
  unfold State.readSensors
  repeat' (first
      | extract_lets | with_reducible apply Frame.refl | exact rfl | with_reducible apply Frame.step (State.modPmc_frame ..)
      | with_reducible apply Frame.step (State.pmcErr_frame ..) | with_reducible apply Frame.step (State.fwReview_frame ..)
      | with_reducible apply Frame.step (State.settleStops_frame ..) | with_reducible apply Frame.ite)

theorem State.evaluate_frame (s : State) (pin : Nat) (temps : List (BitVec 8)) :
    Frame [.fresh, .out, .nextId, .pmc, .fw, .fns, .qos, .flss, .cnt] s (State.evaluate s pin temps) := by
  unfold State.evaluate
  repeat' (first
      | extract_lets | with_reducible apply Frame.refl | exact rfl
      | with_reducible apply Frame.step (State.readSensors_frame ..)
      | with_reducible apply Frame.step (State.modPmc_frame ..) | with_reducible apply Frame.step (State.pmcErr_frame ..)
      | with_reducible apply Frame.step (State.rederate_frame ..) | with_reducible apply Frame.ite)

theorem State.fastLimit_frame (s : State) (power : Nat) :
    Frame [.out, .pmc, .fns, .qos] s (State.fastLimit s power) := by
  unfold State.fastLimit
  repeat' (first
      | extract_lets | with_reducible apply Frame.refl | exact rfl
      | with_reducible apply Frame.step (State.rederate_frame ..) | with_reducible apply Frame.step (State.pmcErr_frame ..)
      | with_reducible apply Frame.step (State.modPmc_frame ..) | with_reducible apply Frame.ite)

theorem State.startBoot_frame (s : State) :
    Frame [.pmc] s (State.startBoot s) := by
  unfold State.startBoot
  repeat' (first
      | extract_lets | with_reducible apply Frame.refl | exact rfl | with_reducible apply Frame.step (State.modPmc_frame ..))

theorem State.bootStop_frame (s : State) (reason : Nat) :
    Frame [.pmc] s (State.bootStop s reason) := by
  unfold State.bootStop
  repeat' (first
      | extract_lets | with_reducible apply Frame.refl | exact rfl | with_reducible apply Frame.step (State.modPmc_frame ..))

theorem State.fallBack_frame {l : List Piece} (s : State) (go : State → State) (hl : ([.pmc, .fw].all fun f => l.contains f) = true) (hf : ∀ s, Frame l s (go s)) :
    Frame l s (State.fallBack s go) := by
  unfold State.fallBack
  repeat' (first
      | extract_lets | with_reducible apply Frame.refl | exact rfl
      | with_reducible apply Frame.stepIn hl (State.modFw_frame ..)
      | with_reducible apply Frame.stepIn hl (State.bootStop_frame ..) | with_reducible apply Frame.after (hf ..)
      | with_reducible apply Frame.ite | split)

theorem State.nextStage_frame (s : State) (n : Nat) :
    Frame [.pmc] s (State.nextStage s n) := by
  unfold State.nextStage
  repeat' (first
      | extract_lets | with_reducible apply Frame.refl | exact rfl | with_reducible apply Frame.step (State.modPmc_frame ..))

theorem State.bootRetire_frame (s : State) (k : Nat) :
    Frame [.fresh, .out, .pmc, .fns, .ports, .hbmStk, .elog] s (State.bootRetire s k) := by
  unfold State.bootRetire
  repeat' (first
      | extract_lets | with_reducible apply Frame.refl | exact rfl
      | with_reducible apply Frame.step (State.modStack_frame ..)
      | with_reducible apply Frame.step (State.checkCarve_frame ..) | with_reducible apply Frame.step (State.log_frame ..))

theorem State.bootRepair_frame (s : State) (k : Nat) :
    Frame [.fresh, .out, .fns, .hbmStk, .repairs, .repairRows, .elog] s (State.bootRepair s k) := by
  unfold State.bootRepair
  repeat' (first
      | extract_lets | with_reducible apply Frame.refl | exact rfl
      | with_reducible apply Frame.step (State.takeFree_frame ..) | with_reducible apply Frame.step (State.log_frame ..)
      | with_reducible apply Frame.step (State.modPc_frame ..) | with_reducible apply Frame.eachTrans
      | with_reducible apply Frame.ite | split | intro _ | with_reducible apply Frame.step (Frame.set_repairRows ..)
      | with_reducible apply Frame.step (Frame.set_repairs ..))

theorem State.fillDone_frame (s : State) :
    Frame [.out, .fns, .qos, .dirs, .hbmStk] s (State.fillDone s) := by
  unfold State.fillDone
  repeat' (first
      | extract_lets | with_reducible apply Frame.refl | exact rfl
      | with_reducible apply Frame.step (State.modStack_frame ..) | with_reducible apply Frame.step (State.modDir_frame ..)
      | with_reducible apply Frame.step (State.chargeCache_frame ..)
      | with_reducible apply Frame.step (State.rederate_frame ..) | with_reducible apply Frame.eachTrans
      | with_reducible apply Frame.ite | intro _)

theorem State.stagePassed_frame (s : State) :
    Frame [.fresh, .out, .pmc, .fw, .fns, .ports, .qos, .dirs, .hbmStk, .repairs, .repairRows, .elog] s (State.stagePassed s) := by
  unfold State.stagePassed
  repeat' (first
      | extract_lets | with_reducible apply Frame.refl | exact rfl
      | with_reducible apply Frame.step (State.nextStage_frame ..) | with_reducible apply Frame.step (State.modFw_frame ..)
      | with_reducible apply Frame.step (State.modStack_frame ..)
      | with_reducible apply Frame.step (State.bootRepair_frame ..)
      | with_reducible apply Frame.step (State.fillDone_frame ..) | with_reducible apply Frame.step (State.modPort_frame ..)
      | with_reducible apply Frame.after (State.fallBack_frame ..) | with_reducible apply Frame.eachTrans
      | with_reducible apply Frame.ite | split | intro _)

theorem State.stageEnd_frame (s : State) (o : BootOutcome) :
    Frame [.fresh, .out, .pmc, .fw, .fns, .ports, .qos, .dirs, .hbmStk, .repairs, .repairRows, .elog] s (State.stageEnd s o) := by
  unfold State.stageEnd
  repeat' (first
      | extract_lets | with_reducible apply Frame.refl | exact rfl | with_reducible apply Frame.step (State.modPmc_frame ..)
      | with_reducible apply Frame.step (State.stagePassed_frame ..)
      | with_reducible apply Frame.step (State.nextStage_frame ..)
      | with_reducible apply Frame.step (State.bootStop_frame ..)
      | with_reducible apply Frame.step (State.bootRetire_frame ..)
      | with_reducible apply Frame.after (State.fallBack_frame ..) | with_reducible apply Frame.ite | split | intro _)

theorem State.bootReady_frame (s : State) :
    Frame [.pmc, .fw] s (State.bootReady s) := by
  unfold State.bootReady
  repeat' (first
      | extract_lets | with_reducible apply Frame.refl | exact rfl
      | with_reducible apply Frame.step (State.floorDue_frame ..) | with_reducible apply Frame.step (State.modPmc_frame ..))

theorem State.writeGlb_frame (s : State) (o : Nat) (w : RegW) :
    Frame [.elog] s (State.writeGlb s o w) := by
  unfold State.writeGlb
  repeat' (first
      | extract_lets | with_reducible apply Frame.refl | exact rfl | with_reducible apply Frame.step (State.modElog_frame ..)
      | with_reducible apply Frame.ite)

theorem State.writePmc_frame (s : State) (o : Nat) (w : RegW) :
    Frame [.pmc] s (State.writePmc s o w) := by
  unfold State.writePmc
  repeat' (first
      | extract_lets | with_reducible apply Frame.refl | exact rfl | with_reducible apply Frame.step (State.modPmc_frame ..))

theorem State.writeCnt_frame (s : State) (o : Nat) (w : RegW) :
    Frame [.cnt] s (State.writeCnt s o w) := by
  unfold State.writeCnt
  repeat' (first
      | extract_lets | with_reducible apply Frame.refl | exact rfl | with_reducible apply Frame.step (State.modCnt_frame ..))

theorem State.writeFw_frame (s : State) (o : Nat) (w : RegW) :
    Frame [.fw] s (State.writeFw s o w) := by
  unfold State.writeFw
  repeat' (first
      | extract_lets | with_reducible apply Frame.refl | exact rfl | with_reducible apply Frame.step (State.modFw_frame ..))

theorem State.writeFnBlock_frame (s : State) (fn : Nat) (o : Nat) (w : RegW) :
    Frame [.fns] s (State.writeFnBlock s fn o w) := by
  unfold State.writeFnBlock
  repeat' (first
      | extract_lets | with_reducible apply Frame.refl | exact rfl | with_reducible apply Frame.step (State.modFn_frame ..))

theorem State.writePfBlock_frame (s : State) (o : Nat) (w : RegW) :
    Frame [.hep, .fns] s (State.writePfBlock s o w) := by
  unfold State.writePfBlock
  repeat' (first
      | extract_lets | with_reducible apply Frame.refl | exact rfl | with_reducible apply Frame.step (State.modHep_frame ..)
      | with_reducible apply Frame.step (State.commitHwin_frame ..)
      | with_reducible apply Frame.step (State.writeFnBlock_frame ..) | with_reducible apply Frame.ite)

theorem State.writeQuota_frame (s : State) (o : Nat) (w : RegW) :
    Frame [.fns] s (State.writeQuota s o w) := by
  unfold State.writeQuota
  repeat' (first
      | extract_lets | with_reducible apply Frame.refl | exact rfl | with_reducible apply Frame.step (State.modFn_frame ..)
      | with_reducible apply Frame.ite)

theorem State.writeMsix_frame (s : State) (fn : Nat) (o : Nat) (w : RegW) :
    Frame [.out, .fns] s (State.writeMsix s fn o w) := by
  unfold State.writeMsix
  repeat' (first
      | extract_lets | with_reducible apply Frame.refl | exact rfl | with_reducible apply Frame.step (State.modFn_frame ..)
      | with_reducible apply Frame.step (State.sendPending_frame ..))

theorem State.writeQos_frame (s : State) (o : Nat) (w : RegW) :
    Frame [.out, .fns, .qos] s (State.writeQos s o w) := by
  unfold State.writeQos
  repeat' (first
      | extract_lets | with_reducible apply Frame.refl | exact rfl | with_reducible apply Frame.step (State.modQos_frame ..)
      | with_reducible apply Frame.step (State.commitQos_frame ..) | with_reducible apply Frame.ite)

theorem State.writeDispatch_frame (s : State) (o : Nat) (w : RegW) :
    Frame [.disp] s (State.writeDispatch s o w) := by
  unfold State.writeDispatch
  repeat' (first
      | extract_lets | with_reducible apply Frame.refl | exact rfl | with_reducible apply Frame.step (State.modDisp_frame ..)
      | with_reducible apply Frame.ite)

theorem State.writePortCtrl_frame (s : State) (p : Nat) (w : RegW) :
    Frame [.fresh, .out, .nextId, .fns, .regions, .cmds, .ports, .held, .leases, .hbm, .wbuf, .atoms, .qos, .dir, .dirs, .groups, .tables, .refRecs, .mems, .chds, .disp, .xfers, .hbmStk, .flss, .elog, .cnt] s (State.writePortCtrl s p w) := by
  unfold State.writePortCtrl
  repeat' (first
      | extract_lets | with_reducible apply Frame.refl | exact rfl | with_reducible apply Frame.step (State.modPort_frame ..)
      | with_reducible apply Frame.step (State.enablePort_frame ..)
      | with_reducible apply Frame.step (State.disablePort_frame ..)
      | with_reducible apply Frame.step (State.retrainPort_frame ..) | with_reducible apply Frame.ite)

theorem State.writePort_frame (s : State) (p : Nat) (o : Nat) (w : RegW) :
    Frame [.fresh, .out, .nextId, .fns, .regions, .cmds, .ports, .held, .leases, .hbm, .wbuf, .atoms, .qos, .dir, .dirs, .groups, .tables, .refRecs, .mems, .chds, .disp, .xfers, .hbmStk, .flss, .elog, .cnt] s (State.writePort s p o w) := by
  unfold State.writePort
  repeat' (first
      | extract_lets | with_reducible apply Frame.refl | exact rfl
      | with_reducible apply Frame.step (State.writePortCtrl_frame ..)
      | with_reducible apply Frame.step (State.modPort_frame ..) | with_reducible apply Frame.ite)

theorem State.writeStack_frame (s : State) (k : Nat) (o : Nat) (w : RegW) :
    Frame [.hbmStk] s (State.writeStack s k o w) := by
  unfold State.writeStack
  repeat' (first
      | extract_lets | with_reducible apply Frame.refl | exact rfl
      | with_reducible apply Frame.step (State.modStack_frame ..))

theorem State.writeFct_frame (s : State) (die : Nat) (o : Nat) (w : RegW) :
    Frame [.mems] s (State.writeFct s die o w) := by
  unfold State.writeFct
  repeat' (first
      | extract_lets | with_reducible apply Frame.refl | exact rfl | with_reducible apply Frame.step (State.modMem_frame ..)
      | with_reducible apply Frame.ite)

theorem State.writeMeas_frame (s : State) (die : Nat) (o : Nat) (w : RegW) :
    Frame [.mems] s (State.writeMeas s die o w) := by
  unfold State.writeMeas
  repeat' (first
      | extract_lets | with_reducible apply Frame.refl | exact rfl | with_reducible apply Frame.step (State.modMem_frame ..)
      | with_reducible apply Frame.ite)

theorem State.writeChd_frame (s : State) (d : Nat) (o : Nat) (w : RegW) :
    Frame [.chds] s (State.writeChd s d o w) := by
  unfold State.writeChd
  repeat' (first
      | extract_lets | with_reducible apply Frame.refl | exact rfl | with_reducible apply Frame.step (State.modChd_frame ..)
      | with_reducible apply Frame.ite)

theorem State.writeGnm_frame (s : State) (d : Nat) (o : Nat) (w : RegW) :
    Frame [.dirs] s (State.writeGnm s d o w) := by
  unfold State.writeGnm
  repeat' (first
      | extract_lets | with_reducible apply Frame.refl | exact rfl | with_reducible apply Frame.step (State.modDir_frame ..)
      | with_reducible apply Frame.step (State.commitGnm_frame ..) | with_reducible apply Frame.ite)

theorem State.writeFls_frame (s : State) (d : Nat) (o : Nat) (w : RegW) :
    Frame [.flss] s (State.writeFls s d o w) := by
  unfold State.writeFls
  repeat' (first
      | extract_lets | with_reducible apply Frame.refl | exact rfl | with_reducible apply Frame.step (State.modFls_frame ..)
      | with_reducible apply Frame.step (State.commitFls_frame ..) | with_reducible apply Frame.ite)

theorem State.writeCxl_frame (s : State) (o : Nat) (w : RegW) :
    Frame [.hep] s (State.writeCxl s o w) := by
  unfold State.writeCxl
  repeat' (first
      | extract_lets | with_reducible apply Frame.refl | exact rfl | with_reducible apply Frame.step (State.modHep_frame ..))

theorem State.writePfBar_frame (s : State) (off : Nat) (w : RegW) :
    Frame (Piece.allBut [.pending, .variantH, .stepB0, .nextKey, .ctxs, .sealed, .subs, .seqs, .staged, .flash, .engines, .repairs, .repairRows, .fmap, .images, .saved, .journals, .keys]) s (State.writePfBar s off w) := by
  unfold State.writePfBar
  repeat' (first
      | extract_lets | with_reducible apply Frame.refl | exact rfl
      | with_reducible apply Frame.step (State.writeMsix_frame ..)
      | with_reducible apply Frame.step (State.writeCxl_frame ..) | with_reducible apply Frame.step (State.writeGlb_frame ..)
      | with_reducible apply Frame.step (State.writePfBlock_frame ..)
      | with_reducible apply Frame.step (State.writeQuota_frame ..)
      | with_reducible apply Frame.step (State.writeQos_frame ..)
      | with_reducible apply Frame.step (State.writeDispatch_frame ..)
      | with_reducible apply Frame.step (State.writePmc_frame ..) | with_reducible apply Frame.step (State.writeCnt_frame ..)
      | with_reducible apply Frame.step (State.writeFw_frame ..) | with_reducible apply Frame.step (State.writePort_frame ..)
      | with_reducible apply Frame.step (State.writeStack_frame ..)
      | with_reducible apply Frame.step (State.writeFct_frame ..)
      | with_reducible apply Frame.step (State.writeMeas_frame ..)
      | with_reducible apply Frame.step (State.writeChd_frame ..) | with_reducible apply Frame.step (State.writeGnm_frame ..)
      | with_reducible apply Frame.step (State.writeFls_frame ..) | with_reducible apply Frame.ite)

theorem State.writeVfBar_frame (s : State) (fn : Nat) (off : Nat) (w : RegW) :
    Frame [.out, .fns] s (State.writeVfBar s fn off w) := by
  unfold State.writeVfBar
  repeat' (first
      | extract_lets | with_reducible apply Frame.refl | exact rfl
      | with_reducible apply Frame.step (State.writeMsix_frame ..)
      | with_reducible apply Frame.step (State.writeFnBlock_frame ..) | with_reducible apply Frame.ite)

theorem State.writeBar_frame (s : State) (fn : Nat) (off : Nat) (size : Nat) (v : Nat) :
    Frame (Piece.allBut [.pending, .variantH, .stepB0, .nextKey, .ctxs, .sealed, .subs, .seqs, .staged, .flash, .engines, .repairs, .repairRows, .fmap, .images, .saved, .journals, .keys]) s (State.writeBar s fn off size v) := by
  unfold State.writeBar
  repeat' (first
      | extract_lets | with_reducible apply Frame.refl | exact rfl | with_reducible apply Frame.step (State.aerUnc_frame ..)
      | with_reducible apply Frame.step (State.writePfBar_frame ..)
      | with_reducible apply Frame.step (State.writeVfBar_frame ..)
      | with_reducible apply Frame.after (State.barWrite_frame ..) | split | intro _)

theorem startIdentify_frame (s : State) (c : Cmd) :
    Frame [.fresh, .out, .fns, .cmds, .ports, .cnt] s (startIdentify s c) := by
  unfold startIdentify
  repeat' (first
      | extract_lets | with_reducible apply Frame.refl | exact rfl | with_reducible apply Frame.step (State.reply_frame ..))

theorem startTableBuild_frame (s : State) (c : Cmd) :
    Frame [.fresh, .out, .fns, .cmds, .ports, .groups, .cnt] s (startTableBuild s c) := by
  unfold startTableBuild
  repeat' (first
      | extract_lets | with_reducible apply Frame.refl | exact rfl | with_reducible apply Frame.step (State.bad_frame ..)
      | with_reducible apply Frame.step (State.reply_frame ..) | with_reducible apply Frame.step (State.modGroup_frame ..)
      | with_reducible apply Frame.ite | split)

theorem startTableRetire_frame (s : State) (c : Cmd) :
    Frame [.fresh, .out, .fns, .cmds, .ports, .groups, .tables, .cnt] s (startTableRetire s c) := by
  unfold startTableRetire
  repeat' (first
      | extract_lets | with_reducible apply Frame.refl | exact rfl | with_reducible apply Frame.step (State.bad_frame ..)
      | with_reducible apply Frame.step (State.reply_frame ..) | with_reducible apply Frame.step (State.settleTable_frame ..)
      | with_reducible apply Frame.step (State.modGroup_frame ..) | with_reducible apply Frame.step (State.modTable_frame ..)
      | with_reducible apply Frame.ite | split)

theorem startCodecSet_frame (s : State) (c : Cmd) :
    Frame [.fresh, .out, .fns, .regions, .cmds, .ports, .cnt] s (startCodecSet s c) := by
  unfold startCodecSet
  repeat' (first
      | extract_lets | with_reducible apply Frame.refl | exact rfl | with_reducible apply Frame.step (State.bad_frame ..)
      | with_reducible apply Frame.step (State.reply_frame ..) | with_reducible apply Frame.step (State.setRegion_frame ..)
      | with_reducible apply Frame.ite | split)

theorem State.loadFrom_frame (s : State) (c : Cmd) (base : Nat) (y0 : List (Nat × Nat)) :
    Frame [.fresh, .out, .nextId, .fns, .regions, .cmds, .ports, .held, .leases, .hbm, .wbuf, .atoms, .dir, .dirs, .groups, .tables, .refRecs, .mems, .chds, .disp, .hbmStk, .flss, .elog, .cnt] s (State.loadFrom s c base y0) := by
  induction y0 generalizing s c base with
  | nil => (unfold State.loadFrom; repeat' (first
       | extract_lets
       | with_reducible apply Frame.refl
       | exact rfl
       | with_reducible apply Frame.step (State.replyTo_frame ..)
       | with_reducible apply Frame.step (State.takeId_frame ..)
       | with_reducible apply Frame.step (State.dispatchReq_frame ..)
       | with_reducible apply Frame.after (ih ..)
       | with_reducible apply Frame.ite
       | split))
  | cons a y0 ih =>
    (unfold State.loadFrom
     repeat' (first
         | extract_lets | with_reducible apply Frame.refl | exact rfl
         | with_reducible apply Frame.step (State.replyTo_frame ..) | with_reducible apply Frame.step (State.takeId_frame ..)
         | with_reducible apply Frame.step (State.dispatchReq_frame ..) | with_reducible apply Frame.after (ih ..)
         | with_reducible apply Frame.ite | split))

theorem startKernelLoad_frame (s : State) (c : Cmd) :
    Frame [.fresh, .out, .nextId, .fns, .regions, .cmds, .ports, .held, .leases, .hbm, .wbuf, .atoms, .dir, .dirs, .groups, .tables, .refRecs, .mems, .chds, .disp, .hbmStk, .flss, .elog, .cnt] s (startKernelLoad s c) := by
  unfold startKernelLoad
  repeat' (first
      | extract_lets | with_reducible apply Frame.refl | exact rfl | with_reducible apply Frame.step (State.reply_frame ..)
      | with_reducible apply Frame.step (State.loadKernel_frame ..)
      | with_reducible apply Frame.step (State.beginHost_frame ..)
      | with_reducible apply Frame.step (State.loadFrom_frame ..) | with_reducible apply Frame.step (State.modCmd_frame ..)
      | with_reducible apply Frame.ite)

theorem startSvcTest_frame (s : State) (c : Cmd) :
    Frame [.fresh, .out, .fns, .cmds, .ports, .cnt] s (startSvcTest s c) := by
  unfold startSvcTest
  repeat' (first
      | extract_lets | with_reducible apply Frame.refl | exact rfl | with_reducible apply Frame.step (State.reply_frame ..)
      | with_reducible apply Frame.step (State.bad_frame ..) | with_reducible apply Frame.step (State.modPort_frame ..)
      | with_reducible apply Frame.ite | split)

theorem startSvcRetire_frame (s : State) (c : Cmd) :
    Frame [.fresh, .out, .nextId, .pmc, .fns, .regions, .cmds, .ports, .held, .leases, .hbm, .wbuf, .atoms, .qos, .dir, .dirs, .groups, .tables, .refRecs, .mems, .engines, .chds, .disp, .hbmStk, .repairs, .flss, .elog, .cnt] s (startSvcRetire s c) := by
  unfold startSvcRetire
  repeat' (first
      | extract_lets | with_reducible apply Frame.refl | exact rfl | with_reducible apply Frame.step (State.reply_frame ..)
      | with_reducible apply Frame.step (State.retireIdle_frame ..)
      | with_reducible apply Frame.step (State.retirePc_frame ..)
      | with_reducible apply Frame.step (State.retireStack_frame ..)
      | with_reducible apply Frame.step (State.retireDie_frame ..)
      | with_reducible apply Frame.step (State.loseFlashDie_frame ..) | with_reducible apply Frame.ite | split)

theorem startSvcRemap_frame (s : State) (c : Cmd) :
    Frame [.fresh, .out, .fns, .cmds, .ports, .hbmStk, .repairRows, .elog, .cnt] s (startSvcRemap s c) := by
  unfold startSvcRemap
  repeat' (first
      | extract_lets | with_reducible apply Frame.refl | exact rfl
      | (with_reducible apply Frame.step; (with_reducible apply State.remapLine_frame; with_reducible assumption))
      | with_reducible apply Frame.step (State.reply_frame ..) | with_reducible apply Frame.ite | split)

theorem startSvcClear_frame (s : State) (c : Cmd) :
    Frame [.fresh, .out, .nextId, .fns, .regions, .cmds, .ports, .held, .leases, .hbm, .wbuf, .atoms, .dir, .dirs, .groups, .tables, .refRecs, .mems, .chds, .disp, .hbmStk, .flss, .elog, .cnt] s (startSvcClear s c) := by
  unfold startSvcClear
  repeat' (first
      | extract_lets | with_reducible apply Frame.refl | exact rfl | with_reducible apply Frame.step (State.reply_frame ..)
      | with_reducible apply Frame.step (State.takeId_frame ..)
      | with_reducible apply Frame.step (State.dispatchReq_frame ..) | split)

theorem specs_start_frame (spec : CmdSpec) (h : spec ∈ specs) (s : State) (c : Cmd) :
    Frame (Piece.allBut [.pending, .variantH, .stepB0]) s (spec.start s c) := by
  simp only [specs, List.cons_append, List.nil_append, List.mem_cons, List.not_mem_nil, or_false] at h
  rcases h with rfl | rfl | rfl | rfl | rfl | rfl | rfl | rfl | rfl | rfl | rfl | rfl | rfl | rfl | rfl | rfl | rfl | rfl | rfl | rfl | rfl | rfl | rfl | rfl | rfl | rfl | rfl | rfl | rfl | rfl | rfl | rfl | rfl | rfl | rfl | rfl | rfl | rfl | rfl | rfl
  · exact (startIdentify_frame ..).mono rfl
  · exact (startMark_frame ..).mono rfl
  · exact (startCtxCreate_frame ..).mono rfl
  · exact (startCtxDestroy_frame ..).mono rfl
  · exact (startCtxBindPort_frame ..).mono rfl
  · exact (startWinSet_frame ..).mono rfl
  · exact (startRegionAlloc_frame ..).mono rfl
  · exact (startRegionFree_frame ..).mono rfl
  · exact (startRegionAttr_frame ..).mono rfl
  · exact (startHint_frame ..).mono rfl
  · exact (startHint_frame ..).mono rfl
  · exact (startHint_frame ..).mono rfl
  · exact (startHint_frame ..).mono rfl
  · exact (startCkpt_frame ..).mono rfl
  · exact (startXfer_frame ..).mono rfl
  · exact (startXfer_frame ..).mono rfl
  · exact (startXfer_frame ..).mono rfl
  · exact (startXfer_frame ..).mono rfl
  · exact (startXferAtom_frame ..).mono rfl
  · exact (startTableBuild_frame ..).mono rfl
  · exact (startTableRetire_frame ..).mono rfl
  · exact (startCodecSet_frame ..).mono rfl
  · exact (startKernelLoad_frame ..).mono rfl
  · exact (startKernelRun_frame ..).mono rfl
  · exact (startKernelAbort_frame ..).mono rfl
  · exact (startPublish_frame ..).mono rfl
  · exact (startSubscribe_frame ..).mono rfl
  · exact (startUnsubscribe_frame ..).mono rfl
  · exact (startWithdraw_frame ..).mono rfl
  · exact (startQosClassSet_frame ..).mono rfl
  · exact (startQosBudgetSet_frame ..).mono rfl
  · exact (startSvcTest_frame ..).mono rfl
  · exact (startSvcRetire_frame ..).mono rfl
  · exact (startSvcRemap_frame ..).mono rfl
  · exact (startSvcClear_frame ..).mono rfl
  · exact (startFwStage_frame ..).mono rfl
  · exact (startFwActivate_frame ..).mono rfl
  · exact (startCntConfig_frame ..).mono rfl
  · exact (startCntSnapshot_frame ..).mono rfl
  · exact (State.beginHost_frame ..).mono rfl

theorem specOf_start_frame {n : Nat} {spec : CmdSpec} (h : specOf n = some spec) (s : State) (c : Cmd) :
    Frame (Piece.allBut [.pending, .variantH, .stepB0]) s (spec.start s c) :=
  specs_start_frame spec (List.mem_of_find?_eq_some h) s c

theorem State.releaseParked_frame (s : State) :
    Frame (Piece.allBut [.pending, .variantH, .stepB0]) s (State.releaseParked s) := by
  unfold State.releaseParked
  repeat' (first
      | extract_lets | with_reducible apply Frame.refl | exact rfl
      | with_reducible apply Frame.step (State.wakeShare_frame ..)
      | with_reducible apply Frame.after (State.tryStart_frame ..)
      | (with_reducible apply Frame.step; (apply specOf_start_frame; assumption)) | with_reducible apply Frame.eachTrans
      | with_reducible apply Frame.ite | split | intro _)

theorem State.resume_frame (s : State) :
    Frame (Piece.allBut [.pending, .variantH, .stepB0]) s (State.resume s) := by
  unfold State.resume
  repeat' (first
      | extract_lets | with_reducible apply Frame.refl | exact rfl
      | with_reducible apply Frame.step (State.releaseParked_frame ..)
      | with_reducible apply Frame.step (State.hostGo_frame ..)
      | with_reducible apply Frame.step (State.sendPending_frame ..) | with_reducible apply Frame.eachTrans
      | with_reducible apply Frame.ite | intro _)

theorem State.setBme_frame (s : State) (fn : Nat) :
    Frame (Piece.allBut [.pending, .variantH, .stepB0]) s (State.setBme s fn) := by
  unfold State.setBme
  repeat' (first
      | extract_lets | with_reducible apply Frame.refl | exact rfl | with_reducible apply Frame.step (State.resume_frame ..)
      | with_reducible apply Frame.step (State.modFn_frame ..))

theorem State.writeCommand_frame (s : State) (fn : Nat) (w : RegW) :
    Frame (Piece.allBut [.pending, .variantH, .stepB0]) s (State.writeCommand s fn w) := by
  unfold State.writeCommand
  repeat' (first
      | extract_lets | with_reducible apply Frame.refl | exact rfl | with_reducible apply Frame.step (State.modFn_frame ..)
      | with_reducible apply Frame.step (State.setBme_frame ..) | with_reducible apply Frame.step (State.clearBme_frame ..)
      | with_reducible apply Frame.ite)

theorem State.writeDevCtl_frame (s : State) (fn : Nat) (w : RegW) :
    Frame (Piece.allBut [.pending, .variantH, .stepB0, .nextKey, .pmc, .sealed, .repairs, .repairRows]) s (State.writeDevCtl s fn w) := by
  unfold State.writeDevCtl
  repeat' (first
      | extract_lets | with_reducible apply Frame.refl | exact rfl | with_reducible apply Frame.step (State.modFn_frame ..)
      | with_reducible apply Frame.step (State.modHep_frame ..) | with_reducible apply Frame.step (State.flrPf_frame ..)
      | with_reducible apply Frame.step (State.flrFn_frame ..) | with_reducible apply Frame.ite)

theorem State.enterD3_frame (s : State) :
    Frame (Piece.allBut [.pending, .variantH, .stepB0, .nextKey, .pmc, .ctxs, .sealed, .subs, .seqs, .staged, .flash, .repairs, .repairRows, .fmap, .images, .keys]) s (State.enterD3 s) := by
  unfold State.enterD3
  repeat' (first
      | extract_lets | with_reducible apply Frame.refl | exact rfl
      | with_reducible apply Frame.step (State.loseLink_frame ..) | with_reducible apply Frame.step (State.modPort_frame ..)
      | with_reducible apply Frame.step (State.abortRuns_frame ..)
      | with_reducible apply Frame.step (State.fwReview_frame ..)
      | with_reducible apply Frame.step (State.journalSaved_frame ..)
      | with_reducible apply Frame.step (State.modHep_frame ..) | with_reducible apply Frame.eachTrans | split | intro _)

theorem State.leaveD3_frame (s : State) :
    Frame (Piece.allBut [.pending, .variantH, .stepB0]) s (State.leaveD3 s) := by
  unfold State.leaveD3
  repeat' (first
      | extract_lets | with_reducible apply Frame.refl | exact rfl | with_reducible apply Frame.step (State.modHep_frame ..)
      | with_reducible apply Frame.step (State.modPort_frame ..) | with_reducible apply Frame.step (State.resume_frame ..)
      | with_reducible apply Frame.step (State.fwReview_frame ..) | with_reducible apply Frame.eachTrans
      | with_reducible apply Frame.ite | intro _)

theorem State.powerState_frame (s : State) (d3 : Bool) :
    Frame (Piece.allBut [.pending, .variantH, .stepB0]) s (State.powerState s d3) := by
  unfold State.powerState
  repeat' (first
      | extract_lets | with_reducible apply Frame.refl | exact rfl | with_reducible apply Frame.step (State.enterD3_frame ..)
      | with_reducible apply Frame.step (State.leaveD3_frame ..) | with_reducible apply Frame.ite)

theorem State.writeConfig_frame (s : State) (space : RegSpace) (fn : Nat) (o : Nat) (w : RegW) :
    Frame (Piece.allBut [.pending, .variantH, .stepB0]) s (State.writeConfig s space fn o w) := by
  unfold State.writeConfig
  repeat' (first
      | extract_lets | with_reducible apply Frame.refl | exact rfl
      | with_reducible apply Frame.step (State.writeCommand_frame ..)
      | with_reducible apply Frame.step (State.modHep_frame ..) | with_reducible apply Frame.step (State.powerState_frame ..)
      | with_reducible apply Frame.step (State.sendPending_frame ..) | with_reducible apply Frame.step (State.modFn_frame ..)
      | with_reducible apply Frame.step (State.writeDevCtl_frame ..)
      | with_reducible apply Frame.step (State.flrVfs_frame ..) | with_reducible apply Frame.ite | split)

theorem State.configWrite_frame (s : State) (space : RegSpace) (fn : Nat) (off : Nat) (size : Nat) (v : Nat) :
    Frame (Piece.allBut [.pending, .variantH, .stepB0]) s (State.configWrite s space fn off size v) := by
  unfold State.configWrite
  repeat' (first
      | extract_lets | with_reducible apply Frame.refl | exact rfl
      | with_reducible apply Frame.step (State.writeConfig_frame ..)
      | with_reducible apply Frame.after (State.cfgAccess_frame ..) | with_reducible apply Frame.ite | intro _)

theorem State.rollBack_frame (s : State) (c : Cmd) :
    Frame (Piece.allBut [.pending, .variantH, .stepB0, .nextKey, .pmc, .fw, .ctxs, .sealed, .qos, .engines, .xfers, .repairs, .repairRows]) s (State.rollBack s c) := by
  unfold State.rollBack
  repeat' (first
      | extract_lets | with_reducible apply Frame.refl | exact rfl | with_reducible apply Frame.step (State.replyTo_frame ..)
      | with_reducible apply Frame.step (State.freeRegion_frame ..)
      | with_reducible apply Frame.step (State.restoreGroups_frame ..)
      | with_reducible apply Frame.step (State.endPublish_frame ..) | with_reducible apply Frame.step (State.reply_frame ..)
      | with_reducible apply Frame.step (State.modPort_frame ..) | with_reducible apply Frame.step (State.unsnap_frame ..)
      | with_reducible apply Frame.step (State.settle_frame ..) | with_reducible apply Frame.step (State.rerouted_frame ..)
      | with_reducible apply Frame.step (State.setRegion_frame ..)
      | with_reducible apply Frame.step (State.refuseHeld_frame ..) | with_reducible apply Frame.ite | split)

theorem State.keepWork_frame (s : State) (c : Cmd) :
    Frame [.fresh, .out, .fw, .fns, .cmds, .ports, .cnt] s (State.keepWork s c) := by
  unfold State.keepWork
  repeat' (first
      | extract_lets | with_reducible apply Frame.refl | exact rfl
      | with_reducible apply Frame.step (State.endStage_frame ..) | with_reducible apply Frame.step (State.takeFree_frame ..)
      | with_reducible apply Frame.step (State.reply_frame ..) | with_reducible apply Frame.ite)

theorem State.cmdOutcome_frame (s : State) (id : Nat) :
    Frame (Piece.allBut [.pending, .variantH, .stepB0]) s (State.cmdOutcome s id) := by
  unfold State.cmdOutcome
  repeat' (first
      | extract_lets | with_reducible apply Frame.refl | exact rfl
      | with_reducible apply Frame.step (State.rollBack_frame ..) | with_reducible apply Frame.step (State.keepWork_frame ..)
      | with_reducible apply Frame.ite | split)

theorem State.outcomes_frame (s : State) (i : Nat) :
    Frame (Piece.allBut [.pending, .variantH, .stepB0]) s (State.outcomes s i) := by
  unfold State.outcomes
  repeat' (first
      | extract_lets | with_reducible apply Frame.refl | exact rfl
      | with_reducible apply Frame.step (State.fwAbandon_frame ..)
      | with_reducible apply Frame.step (State.cmdOutcome_frame ..) | with_reducible apply Frame.eachTrans
      | with_reducible apply Frame.ite | intro _)

theorem State.crash_frame (s : State) (i : Nat) (cause : Nat) :
    Frame (Piece.allBut [.pending, .variantH, .stepB0]) s (State.crash s i cause) := by
  unfold State.crash
  repeat' (first
      | extract_lets | with_reducible apply Frame.refl | exact rfl
      | with_reducible apply Frame.step (State.outcomes_frame ..)
      | with_reducible apply Frame.step (State.restartProc_frame ..))

theorem State.crashLoop_frame (s : State) (i : Nat) (cause : Nat) :
    Frame (Piece.allBut [.pending, .variantH, .stepB0]) s (State.crashLoop s i cause) := by
  unfold State.crashLoop
  repeat' (first
      | extract_lets | with_reducible apply Frame.refl | exact rfl
      | with_reducible apply Frame.step (State.fwAbandon_frame ..) | with_reducible apply Frame.step (State.revert_frame ..)
      | with_reducible apply Frame.step (State.outcomes_frame ..) | with_reducible apply Frame.step (State.crash_frame ..)
      | with_reducible apply Frame.step (State.goFatal_frame ..) | with_reducible apply Frame.eachTrans
      | with_reducible apply Frame.ite | intro _)

theorem State.heartbeat_frame (s : State) (i : Nat) (cause : Nat) (loop : Bool) :
    Frame (Piece.allBut [.pending, .variantH, .stepB0]) s (State.heartbeat s i cause loop) := by
  unfold State.heartbeat
  repeat' (first
      | extract_lets | with_reducible apply Frame.refl | exact rfl
      | with_reducible apply Frame.step (State.crashLoop_frame ..) | with_reducible apply Frame.step (State.crash_frame ..)
      | with_reducible apply Frame.ite)

theorem State.beginSwitch_frame (s : State) :
    Frame (Piece.allBut [.pending, .variantH, .stepB0]) s (State.beginSwitch s) := by
  unfold State.beginSwitch
  repeat' (first
      | extract_lets | with_reducible apply Frame.refl | exact rfl | with_reducible apply Frame.step (State.modFw_frame ..)
      | with_reducible apply Frame.step (State.crash_frame ..) | with_reducible apply Frame.eachTrans
      | with_reducible apply Frame.ite | intro _)

theorem State.restarted_frame (s : State) (i : Nat) :
    Frame (Piece.allBut [.pending, .variantH, .stepB0]) s (State.restarted s i) := by
  unfold State.restarted
  repeat' (first
      | extract_lets | with_reducible apply Frame.refl | exact rfl | with_reducible apply Frame.step (State.modProc_frame ..)
      | with_reducible apply Frame.step (State.fwReview_frame ..) | with_reducible apply Frame.step (State.rederate_frame ..)
      | with_reducible apply Frame.step (State.modPmc_frame ..)
      | with_reducible apply Frame.step (State.settleAborts_frame ..)
      | with_reducible apply Frame.step (State.settleRuns_frame ..)
      | with_reducible apply Frame.step (State.releaseParked_frame ..) | with_reducible apply Frame.ite)

theorem State.submitPacket_frame (s : State) (opcode : Nat) (via : Via) (p : Packet) :
    Frame (Piece.allBut [.pending, .variantH, .stepB0]) s (State.submitPacket s opcode via p) := by
  unfold State.submitPacket
  repeat' (first
      | extract_lets | with_reducible apply Frame.refl | exact rfl
      | with_reducible apply Frame.step (State.submitUndefined_frame ..)
      | with_reducible apply Frame.after (State.submit_frame ..)
      | (with_reducible apply Frame.step; (apply specOf_start_frame; assumption)) | split | intro _)

theorem State.slotWrite_frame (s : State) (fn : Fin 256) (slot : Nat) (at_ : Nat) (l : List Byte) :
    Frame (Piece.allBut [.pending, .variantH, .stepB0]) s (State.slotWrite s fn slot at_ l) := by
  unfold State.slotWrite
  repeat' (first
      | extract_lets | with_reducible apply Frame.refl | exact rfl | with_reducible apply Frame.step (State.aerUnc_frame ..)
      | with_reducible apply Frame.step (State.submitPacket_frame ..)
      | with_reducible apply Frame.step (State.modFn_frame ..) | with_reducible apply Frame.ite)

theorem State.apertureBytes_frame (s : State) (fn : Fin 256) (y0 : Nat) (y1 : Nat) (y2 : List Byte) :
    Frame (Piece.allBut [.pending, .variantH, .stepB0]) s (State.apertureBytes s fn y0 y1 y2) := by
  induction y0 generalizing s fn y1 y2 with
  | zero => (unfold State.apertureBytes; repeat' (first
       | extract_lets
       | with_reducible apply Frame.refl
       | exact rfl
       | with_reducible apply Frame.step (State.slotWrite_frame ..)
       | with_reducible apply Frame.after (ih ..)
       | with_reducible apply Frame.ite))
  | succ y0 ih =>
    (unfold State.apertureBytes
     repeat' (first
         | extract_lets | with_reducible apply Frame.refl | exact rfl
         | with_reducible apply Frame.step (State.slotWrite_frame ..) | with_reducible apply Frame.after (ih ..)
         | with_reducible apply Frame.ite))

theorem State.strayCmd_frame (s : State) (port : Nat) (h : Hdr) :
    Frame [.out, .fns, .ports, .cnt] s (State.strayCmd s port h) := by
  unfold State.strayCmd
  repeat' (first
      | extract_lets | with_reducible apply Frame.refl | exact rfl | with_reducible apply Frame.step (State.owe_frame ..)
      | with_reducible apply Frame.step (State.tagReuse_frame ..) | with_reducible apply Frame.step (State.fixed_frame ..)
      | with_reducible apply Frame.step (State.modPort_frame ..)
      | with_reducible apply Frame.step (State.refuseLink_frame ..) | with_reducible apply Frame.ite)

theorem State.cmdMessage_frame (s : State) (port : Nat) (h : Hdr) (packet : BitVec 512) :
    Frame (Piece.allBut [.pending, .variantH, .stepB0]) s (State.cmdMessage s port h packet) := by
  unfold State.cmdMessage
  repeat' (first
      | extract_lets | with_reducible apply Frame.refl | exact rfl
      | with_reducible apply Frame.step (State.strayCmd_frame ..)
      | (with_reducible apply Frame.step; (with_reducible apply State.arrive_frame; with_reducible assumption))
      | with_reducible apply Frame.step (State.refuse_frame ..)
      | with_reducible apply Frame.step (State.countRefusal_frame ..)
      | with_reducible apply Frame.step (State.cmdHop_frame ..) | with_reducible apply Frame.step (State.owe_frame ..)
      | with_reducible apply Frame.step (State.tagReuse_frame ..)
      | with_reducible apply Frame.step (State.submitPacket_frame ..) | with_reducible apply Frame.ite | split)

theorem State.message_frame (s : State) (port : Nat) (m : List (BitVec 256)) :
    Frame (Piece.allBut [.pending, .variantH, .stepB0]) s (State.message s port m) := by
  unfold State.message
  repeat' (first
      | extract_lets | with_reducible apply Frame.refl | exact rfl
      | with_reducible apply Frame.step (State.linkRequest_frame ..)
      | with_reducible apply Frame.step (State.cmdMessage_frame ..)
      | with_reducible apply Frame.step (State.cplData_frame ..) | with_reducible apply Frame.step (State.peerOk_frame ..)
      | with_reducible apply Frame.step (State.peerErr_frame ..) | with_reducible apply Frame.step (State.peerRetry_frame ..)
      | with_reducible apply Frame.step (State.reservedResponse_frame ..)
      | with_reducible apply Frame.after (State.respond_frame ..) | with_reducible apply Frame.ite | split | intro _)

theorem State.restoreFlashDie_frame (s : State) (i : Nat) :
    Frame [.fresh, .out, .fns, .flss, .elog] s (State.restoreFlashDie s i) := by
  unfold State.restoreFlashDie
  repeat' (first
      | extract_lets | with_reducible apply Frame.refl | exact rfl | with_reducible apply Frame.step (State.modFls_frame ..)
      | with_reducible apply Frame.step (State.log_frame ..) | with_reducible apply Frame.step (State.settleSpare_frame ..))

theorem State.afterTest_frame (s : State) (u : Nat × Nat) (type : Nat) (pass : Bool) :
    Frame [.fresh, .out, .nextId, .pmc, .fns, .regions, .cmds, .ports, .held, .leases, .hbm, .wbuf, .atoms, .qos, .dir, .dirs, .groups, .tables, .refRecs, .mems, .engines, .chds, .disp, .hbmStk, .repairs, .flss, .elog, .cnt] s (State.afterTest s u type pass) := by
  unfold State.afterTest
  repeat' (first
      | extract_lets | with_reducible apply Frame.refl | exact rfl | with_reducible apply Frame.step (State.log_frame ..)
      | with_reducible apply Frame.step (State.modEngine_frame ..)
      | with_reducible apply Frame.step (State.engineFails_frame ..)
      | with_reducible apply Frame.step (State.unfreeze_frame ..) | with_reducible apply Frame.step (State.retirePc_frame ..)
      | with_reducible apply Frame.step (State.restoreFlashDie_frame ..)
      | with_reducible apply Frame.step (State.loseFlashDie_frame ..) | with_reducible apply Frame.ite | split)

theorem State.testDone_frame (s : State) (u : Nat × Nat) (r : TestResult) :
    Frame [.fresh, .out, .nextId, .pmc, .fns, .regions, .cmds, .ports, .held, .leases, .hbm, .wbuf, .atoms, .qos, .dir, .dirs, .groups, .tables, .refRecs, .mems, .engines, .chds, .disp, .hbmStk, .repairs, .flss, .elog, .cnt] s (State.testDone s u r) := by
  unfold State.testDone
  repeat' (first
      | extract_lets | with_reducible apply Frame.refl | exact rfl | with_reducible apply Frame.step (State.modPort_frame ..)
      | with_reducible apply Frame.step (State.afterTest_frame ..) | with_reducible apply Frame.step (State.modCmd_frame ..)
      | with_reducible apply Frame.step (State.reply_frame ..) | with_reducible apply Frame.ite | split)

theorem State.publishTable_frame (s : State) (i : Nat) (gi : Nat) :
    Frame [.fresh, .groups, .tables, .mems] s (State.publishTable s i gi) := by
  unfold State.publishTable
  repeat' (first
      | extract_lets | with_reducible apply Frame.refl | exact rfl | with_reducible apply Frame.step (State.pick_frame ..)
      | with_reducible apply Frame.step (State.abandonBuild_frame ..)
      | with_reducible apply Frame.step (State.takeFree_frame ..) | with_reducible apply Frame.step (State.modTable_frame ..)
      | with_reducible apply Frame.step (State.settleTable_frame ..)
      | with_reducible apply Frame.step (State.modGroup_frame ..) | with_reducible apply Frame.ite | split)

theorem State.freeTable_frame (s : State) (id : Nat) :
    Frame [.groups, .tables, .mems, .chds] s (State.freeTable s id) := by
  unfold State.freeTable
  repeat' (first
      | extract_lets | with_reducible apply Frame.refl | exact rfl
      | with_reducible apply Frame.step (State.modTable_frame ..) | with_reducible apply Frame.ite
      | with_reducible apply Frame.step (Frame.set_groups ..) | with_reducible apply Frame.step (Frame.set_mems ..)
      | with_reducible apply Frame.step (Frame.set_chds ..))

theorem State.persistTable_frame (s : State) (id : Nat) :
    Frame [.tables] s (State.persistTable s id) := by
  unfold State.persistTable
  repeat' (first
      | extract_lets | with_reducible apply Frame.refl | exact rfl
      | with_reducible apply Frame.step (State.modTable_frame ..) | with_reducible apply Frame.ite)

end Sys2Proof.Machine
end

