-- ==== Sys2Proof/Laws/Memory.lean ====
section
/-!
SUPPORT. The laws of tables and of memory: what a table answers after an update, that every memory operation keeps the
canonical form, and that a read answers what was last written.
-/

namespace Sys2Proof.Machine

set_option Elab.async false

/-! ## Tables -/

theorem tget_tdel {α : Type} (d : α) (t : Tbl α) (k j : Nat) : tget d (tdel t k) j = if j = k then d else tget d t j := by
  induction t with
  | nil => simp [tdel, tget]
  | cons e t ih =>
    obtain ⟨i, v⟩ := e
    simp only [tdel, List.filter_cons] at ih ⊢
    by_cases h : i = k
    · subst h
      simp only [bne_self_eq_false, Bool.false_eq_true, if_false, ih, tget]
      grind
    · simp only [bne_iff_ne, ne_eq, h, not_false_eq_true, if_true, tget, ih]
      grind

theorem tget_tinsert {α : Type} (d : α) (t : Tbl α) (k j : Nat) (v : α) (h : ∀ e ∈ t, e.1 ≠ k) :
    tget d (tinsert t k v) j = if j = k then v else tget d t j := by
  induction t with
  | nil => simp only [tinsert, tget]; grind
  | cons e t ih =>
    obtain ⟨i, w⟩ := e
    have hi : i ≠ k := h (i, w) (by simp)
    have ih := ih fun e he => h e (by simp [he])
    simp only [tinsert]
    split <;> simp only [tget, ih] <;> grind

theorem tdel_ne {α : Type} (t : Tbl α) (k : Nat) : ∀ e ∈ tdel t k, e.1 ≠ k := by
  intro e he
  simpa [tdel] using (List.mem_filter.mp he).2

/-- A table answers the value that was put at a key, and what it answered before at every other. -/
theorem tget_tput {α : Type} [DecidableEq α] (d : α) (t : Tbl α) (k j : Nat) (v : α) :
    tget d (tput d t k v) j = if j = k then v else tget d t j := by
  unfold tput
  split
  · rename_i h; subst h; exact tget_tdel ..
  · rw [tget_tinsert _ _ _ _ _ (tdel_ne t k), tget_tdel]
    grind

/-- The same where the value is changed. -/
theorem tget_tmod {α : Type} [DecidableEq α] (d : α) (t : Tbl α) (k j : Nat) (f : α → α) :
    tget d (tmod d t k f) j = if j = k then f (tget d t k) else tget d t j := tget_tput ..

theorem tdel_tdel {α : Type} (t : Tbl α) (k : Nat) : tdel (tdel t k) k = tdel t k := by
  simp [tdel, List.filter_filter]

theorem tdel_tinsert {α : Type} (t : Tbl α) (k : Nat) (v : α) : tdel (tinsert t k v) k = tdel t k := by
  induction t with
  | nil => simp [tinsert, tdel]
  | cons e t ih =>
    obtain ⟨i, w⟩ := e
    simp only [tinsert]
    split
    · simp [tdel]
    · simp only [tdel, List.filter_cons] at ih ⊢
      rw [ih]

theorem tdel_tput {α : Type} [DecidableEq α] (d : α) (t : Tbl α) (k : Nat) (v : α) : tdel (tput d t k v) k = tdel t k := by
  unfold tput
  split
  · exact tdel_tdel ..
  · rw [tdel_tinsert, tdel_tdel]

/-- A second put at a key stands alone. -/
theorem tput_tput {α : Type} [DecidableEq α] (d : α) (t : Tbl α) (k : Nat) (v w : α) :
    tput d (tput d t k v) k w = tput d t k w := by
  simp only [tput.eq_def d (tput d t k v), tdel_tput]
  rfl

/-- Two changes at a key are one. -/
theorem tmod_tmod {α : Type} [DecidableEq α] (d : α) (t : Tbl α) (k : Nat) (f g : α → α) :
    tmod d (tmod d t k f) k g = tmod d t k (g ∘ f) := by
  unfold tmod
  rw [tput_tput, tget_tput, if_pos rfl]
  rfl

theorem State.modPort_modPort (s : State) (n : Nat) (f g : Port → Port) : (s.modPort n f).modPort n g = s.modPort n (g ∘ f) := by
  simp only [State.modPort, tmod_tmod]

theorem State.modFn_modFn (s : State) (n : Nat) (f g : Fn → Fn) : (s.modFn n f).modFn n g = s.modFn n (g ∘ f) := by
  simp only [State.modFn, tmod_tmod]

theorem State.modEngine_modEngine (s : State) (n : Nat) (f g : Engine → Engine) :
    (s.modEngine n f).modEngine n g = s.modEngine n (g ∘ f) := by
  simp only [State.modEngine, tmod_tmod]

theorem tfind?_tset_self {α : Type} (t : Tbl α) (k : Nat) (v : α) : tfind? (tset t k v) k = some v := by
  induction t with
  | nil => simp [tset, tfind?]
  | cons e t ih =>
    obtain ⟨i, w⟩ := e
    simp only [tset]
    split
    · simp [tfind?]
    · split
      · simp [tfind?]
      · simp only [tfind?, ih]; grind

/-- What a table lists after a set: the new record, or what it listed. -/
theorem mem_tset {α : Type} {t : Tbl α} {k : Nat} {v : α} {e : Nat × α} (h : e ∈ tset t k v) : e = (k, v) ∨ e ∈ t := by
  induction t with
  | nil => exact .inl (List.mem_singleton.mp h)
  | cons a t ih =>
    obtain ⟨j, w⟩ := a
    simp only [tset] at h
    split at h
    · exact (List.mem_cons.mp h).imp id id
    · split at h
      · exact (List.mem_cons.mp h).imp id (List.mem_cons_of_mem _)
      · rcases List.mem_cons.mp h with h | h
        · exact .inr (h ▸ List.mem_cons_self)
        · exact (ih h).imp id (List.mem_cons_of_mem _)

theorem mem_of_tfind? {α : Type} {t : Tbl α} {k : Nat} {v : α} (h : tfind? t k = some v) : (k, v) ∈ t := by
  induction t with
  | nil => cases h
  | cons a t ih =>
    obtain ⟨j, w⟩ := a
    simp only [tfind?] at h
    split at h
    · rename_i hj; cases h; subst hj; exact List.mem_cons_self
    · exact List.mem_cons_of_mem _ (ih h)

theorem tfind?_tset_ne {α : Type} (t : Tbl α) (k j : Nat) (v : α) (h : j ≠ k) : tfind? (tset t k v) j = tfind? t j := by
  induction t with
  | nil => simp only [tset, tfind?]; grind
  | cons e t ih =>
    obtain ⟨i, w⟩ := e
    simp only [tset]
    split
    · simp only [tfind?]; grind
    · split
      · simp only [tfind?]; grind
      · simp only [tfind?, ih]

theorem tfind?_tdel {α : Type} (t : Tbl α) (k j : Nat) : tfind? (tdel t k) j = if j = k then none else tfind? t j := by
  induction t with
  | nil => simp [tdel, tfind?]
  | cons e t ih =>
    obtain ⟨i, v⟩ := e
    simp only [tdel, List.filter_cons] at ih ⊢
    by_cases h : i = k
    · subst h
      simp only [bne_self_eq_false, Bool.false_eq_true, if_false, ih, tfind?]
      grind
    · simp only [bne_iff_ne, ne_eq, h, not_false_eq_true, if_true, tfind?, ih]
      grind

theorem tget_append {α : Type} (d : α) (t u : Tbl α) (j : Nat) :
    tget d (t ++ u) j = if t.any (fun e => e.1 == j) then tget d t j else tget d u j := by
  induction t with
  | nil => simp
  | cons e t ih =>
    obtain ⟨i, v⟩ := e
    by_cases h : i = j
    · subst h; simp [tget]
    · have hb : (i == j) = false := by simp [h]
      simp only [List.cons_append, tget, List.any_cons, hb, Bool.false_or, if_neg h]
      exact ih

theorem tget_none {α : Type} (d : α) (t : Tbl α) (j : Nat) (h : ∀ e ∈ t, e.1 ≠ j) : tget d t j = d := by
  induction t with
  | nil => rfl
  | cons e t ih =>
    obtain ⟨i, v⟩ := e
    have hi : i ≠ j := h (i, v) (by simp)
    simp only [tget, hi, if_false]
    exact ih fun e he => h e (by simp [he])

/-- Filtering by a test of the key answers what the table answers where the test holds. -/
theorem tget_filter {α : Type} (d : α) (t : Tbl α) (p : Nat → Bool) (j : Nat) :
    tget d (t.filter fun e => p e.1) j = if p j then tget d t j else d := by
  induction t with
  | nil => simp [tget]
  | cons e t ih =>
    obtain ⟨i, v⟩ := e
    simp only [List.filter_cons]
    by_cases h : i = j
    · subst h
      cases hp : p i <;> simp_all [tget]
    · cases hi : p i <;> simp_all [tget]

/-- A spliced table answers the new entries at keys of the range and what it answered before elsewhere. -/
theorem tget_tableSplice {α : Type} (d : α) (t new : Tbl α) (k n j : Nat) (h : ∀ e ∈ new, k ≤ e.1 ∧ e.1 < k + n) :
    tget d (tableSplice t k n new) j = if k ≤ j ∧ j < k + n then tget d new j else tget d t j := by
  have e1 : (t.filter fun e => decide (e.1 < k)) = t.filter fun e => (fun i => decide (i < k)) e.1 := rfl
  have e2 : (t.filter fun e => decide (k + n ≤ e.1)) = t.filter fun e => (fun i => decide (k + n ≤ i)) e.1 := rfl
  unfold tableSplice
  rw [tget_append, tget_append]
  have anyLow : ∀ j, (t.filter fun e => decide (e.1 < k)).any (fun e => e.1 == j) = true → j < k := by
    intro j hj
    obtain ⟨e, he, hk⟩ := List.any_eq_true.mp hj
    have := (List.mem_filter.mp he).2
    simp only [beq_iff_eq] at hk
    simp only [decide_eq_true_eq] at this
    omega
  have anyNew : ∀ j, new.any (fun e => e.1 == j) = true → k ≤ j ∧ j < k + n := by
    intro j hj
    obtain ⟨e, he, hk⟩ := List.any_eq_true.mp hj
    simp only [beq_iff_eq] at hk
    exact hk ▸ h e he
  have noNew : new.any (fun e => e.1 == j) = false → tget d new j = d := by
    intro hj
    apply tget_none
    intro e he hk
    rw [List.any_eq_false] at hj
    exact hj e he (by simp [hk])
  have noLow : (t.filter fun e => decide (e.1 < k)).any (fun e => e.1 == j) = false → j < k → tget d t j = d := by
    intro hj hk
    apply tget_none
    intro e he hj'
    rw [List.any_eq_false] at hj
    exact hj e (List.mem_filter.mpr ⟨he, by simp; omega⟩) (by simp [hj'])
  have low : tget d (t.filter fun e => decide (e.1 < k)) j = if decide (j < k) then tget d t j else d := by
    rw [e1, tget_filter d t (fun i => decide (i < k))]
  have high : tget d (t.filter fun e => decide (k + n ≤ e.1)) j = if decide (k + n ≤ j) then tget d t j else d := by
    rw [e2, tget_filter d t (fun i => decide (k + n ≤ i))]
  rw [low, high]
  simp only [List.any_append, Bool.or_eq_true, decide_eq_true_eq]
  have a1 := anyLow j
  have a2 := anyNew j
  grind

/-! ## The canonical form of a memory -/

theorem Memory.wf_iff (m : List Host.Cell) :
    Memory.wf m = true ↔ m.Pairwise (fun a b => a.1 < b.1) ∧ ∀ c ∈ m, c.2 ≠ 0 := by
  induction m with
  | nil => simp [Memory.wf]
  | cons c t ih =>
    cases t with
    | nil => simp [Memory.wf]
    | cons d t =>
      simp only [Memory.wf, Bool.and_eq_true, bne_iff_ne, ne_eq, decide_eq_true_eq, ih, List.pairwise_cons,
        List.mem_cons, forall_eq_or_imp]
      constructor
      · rintro ⟨⟨h1, h2⟩, ⟨h3, h4⟩, h5⟩
        refine ⟨⟨⟨h2, fun a ha => ?_⟩, h3, h4⟩, h1, h5⟩
        exact Nat.lt_trans h2 (h3 a ha)
      · rintro ⟨⟨⟨h2, -⟩, h3, h4⟩, h1, h5⟩
        exact ⟨⟨h1, h2⟩, ⟨h3, h4⟩, h5⟩

/-- Leaving out entries keeps the canonical form. -/
theorem Memory.wf_filter (m : List Host.Cell) (p : Host.Cell → Bool) (h : Memory.wf m = true) : Memory.wf (m.filter p) = true := by
  rw [Memory.wf_iff] at *
  exact ⟨h.1.filter p, fun c hc => h.2 c (List.mem_filter.mp hc).1⟩

theorem Memory.wf_tableRange (m : List Host.Cell) (a n : Nat) (h : Memory.wf m = true) : Memory.wf (tableRange m a n) = true :=
  Memory.wf_filter _ _ h

theorem Memory.wf_tableClear (m : List Host.Cell) (a n : Nat) (h : Memory.wf m = true) : Memory.wf (tableClear m a n) = true :=
  Memory.wf_filter _ _ h

/-- Replacing a range by a memory in canonical form within the range keeps the canonical form. -/
theorem Memory.wf_tableSplice (m new : List Host.Cell) (a n : Nat) (h : Memory.wf m = true) (hn : Memory.wf new = true)
    (hr : ∀ e ∈ new, a ≤ e.1 ∧ e.1 < a + n) : Memory.wf (tableSplice m a n new) = true := by
  rw [Memory.wf_iff] at *
  unfold tableSplice
  refine ⟨?_, ?_⟩
  · rw [List.pairwise_append, List.pairwise_append]
    refine ⟨⟨h.1.filter _, hn.1, ?_⟩, h.1.filter _, ?_⟩
    · intro x hx y hy
      have := (List.mem_filter.mp hx).2
      simp only [decide_eq_true_eq] at this
      have := hr y hy
      omega
    · intro x hx y hy
      have hy := (List.mem_filter.mp hy).2
      simp only [decide_eq_true_eq] at hy
      rcases List.mem_append.mp hx with hx | hx
      · have := (List.mem_filter.mp hx).2
        simp only [decide_eq_true_eq] at this
        omega
      · have := hr x hx
        omega
  · intro c hc
    rcases List.mem_append.mp hc with hc | hc
    · rcases List.mem_append.mp hc with hc | hc
      · exact h.2 c (List.mem_filter.mp hc).1
      · exact hn.2 c hc
    · exact h.2 c (List.mem_filter.mp hc).1

theorem cellsFrom_range (a : Nat) (l : List Byte) : ∀ e ∈ cellsFrom a l, a ≤ e.1 ∧ e.1 < a + l.length := by
  induction l generalizing a with
  | nil => simp [cellsFrom]
  | cons b t ih =>
    intro e he
    simp only [cellsFrom] at he
    split at he
    · have := ih (a + 1) e he; simp only [List.length_cons]; omega
    · rcases List.mem_cons.mp he with rfl | he
      · simp
      · have := ih (a + 1) e he; simp only [List.length_cons]; omega

theorem Memory.wf_cellsFrom (a : Nat) (l : List Byte) : Memory.wf (cellsFrom a l) = true := by
  induction l generalizing a with
  | nil => rfl
  | cons b t ih =>
    simp only [cellsFrom]
    split
    · exact ih (a + 1)
    · rename_i hb
      have h := ih (a + 1)
      rw [Memory.wf_iff] at h ⊢
      refine ⟨List.pairwise_cons.mpr ⟨fun e he => ?_, h.1⟩, ?_⟩
      · have := cellsFrom_range (a + 1) t e he; simp only; omega
      · intro c hc
        rcases List.mem_cons.mp hc with rfl | hc
        · exact hb
        · exact h.2 c hc

/-- Writing bytes keeps the canonical form. -/
theorem Memory.wf_writeBytes (m : List Host.Cell) (a : Nat) (l : List Byte) (h : Memory.wf m = true) :
    Memory.wf (writeBytes m a l) = true :=
  Memory.wf_tableSplice _ _ _ _ h (Memory.wf_cellsFrom a l) (cellsFrom_range a l)

/-- Writing a line keeps the canonical form. -/
theorem Memory.wf_writeLine (m : List Host.Cell) (line : Nat) (v : Line) (h : Memory.wf m = true) :
    Memory.wf (writeLine m line v) = true := Memory.wf_writeBytes _ _ _ h

/-- Clearing pages keeps the canonical form. -/
theorem Store.wf_clearPages (st : Store) (page n : Nat) (h : Memory.wf st.mem = true) :
    Memory.wf (st.clearPages page n).mem = true := Memory.wf_tableClear _ _ _ h

/-- Copying a page keeps the canonical form. -/
theorem Store.wf_copyPage (dst src : Store) (page : Nat) (h : Memory.wf dst.mem = true) (k : Memory.wf src.mem = true) :
    Memory.wf (dst.copyPage src page).mem = true := by
  refine Memory.wf_tableSplice _ _ _ _ h (Memory.wf_tableRange _ _ _ k) fun e he => ?_
  have := (List.mem_filter.mp he).2
  simpa using this

/-! ## Reads after writes -/

theorem tget_cellsFrom (a : Nat) (l : List Byte) (j : Nat) (h : a ≤ j) : tget 0 (cellsFrom a l) j = l.getD (j - a) 0 := by
  induction l generalizing a with
  | nil => simp [cellsFrom, tget]
  | cons b t ih =>
    simp only [cellsFrom]
    by_cases hj : j = a
    · subst hj
      split
      · rename_i hb
        rw [tget_none]
        · simp [hb]
        · intro e he
          have := cellsFrom_range (j + 1) t e he
          omega
      · simp [tget]
    · have e : j - a = (j - (a + 1)) + 1 := by omega
      split
      · rw [ih (a + 1) (by omega), e]; simp
      · have hne : ¬ a = j := fun h => hj h.symm
        simp only [tget, hne, if_false]
        rw [ih (a + 1) (by omega), e]; simp

/-- A byte read after bytes were written: the byte written there, else what it was before. -/
theorem readByte_writeBytes (m : List Host.Cell) (a : Nat) (l : List Byte) (j : Nat) :
    readByte (writeBytes m a l) j = if a ≤ j ∧ j < a + l.length then l.getD (j - a) 0 else readByte m j := by
  unfold readByte writeBytes
  rw [tget_tableSplice _ _ _ _ _ _ (cellsFrom_range a l)]
  split
  · rename_i h; exact tget_cellsFrom a l j h.1
  · rfl

/-- A byte read after pages were cleared. -/
theorem readByte_clearPages (st : Store) (page n j : Nat) :
    readByte (st.clearPages page n).mem j =
      if 65536 * page ≤ j ∧ j < 65536 * page + 65536 * n then 0 else readByte st.mem j := by
  unfold readByte Store.clearPages tableClear
  simp only
  have := tget_filter (0 : Byte) st.mem (fun i => !(decide (65536 * page ≤ i) && decide (i < 65536 * page + 65536 * n))) j
  rw [this]
  by_cases h : 65536 * page ≤ j ∧ j < 65536 * page + 65536 * n
  · rw [if_pos h]; simp [h.1, h.2]
  · rw [if_neg h]
    have : (!(decide (65536 * page ≤ j) && decide (j < 65536 * page + 65536 * n))) = true := by
      rcases Nat.lt_or_ge j (65536 * page) with hl | hl
      · simp; omega
      · simp; omega
    simp only [this, if_true]

/-- A byte read after a page was copied. -/
theorem readByte_copyPage (dst src : Store) (page j : Nat) :
    readByte (dst.copyPage src page).mem j =
      if 65536 * page ≤ j ∧ j < 65536 * page + 65536 then readByte src.mem j else readByte dst.mem j := by
  unfold readByte Store.copyPage
  simp only
  rw [tget_tableSplice]
  · by_cases h : 65536 * page ≤ j ∧ j < 65536 * page + 65536
    · rw [if_pos h, if_pos h]
      unfold tableRange
      have := tget_filter (0 : Byte) src.mem (fun i => decide (65536 * page ≤ i) && decide (i < 65536 * page + 65536)) j
      rw [this]
      simp [h.1, h.2]
    · rw [if_neg h, if_neg h]
  · intro e he
    have := (List.mem_filter.mp he).2
    simpa using this

theorem bytesFrom_congr (m k : List Host.Cell) (a n : Nat) (h : ∀ j, a ≤ j → j < a + n → readByte m j = readByte k j) :
    bytesFrom m a n = bytesFrom k a n := by
  induction n generalizing a with
  | zero => rfl
  | succ n ih =>
    simp only [bytesFrom]
    rw [h a (by omega) (by omega), ih (a + 1) fun j h1 h2 => h j (by omega) (by omega)]

/-- Reading bytes answers the byte at each address. -/
theorem readBytes_eq (m : List Host.Cell) (a n : Nat) : readBytes m a n = bytesFrom m a n := by
  apply bytesFrom_congr
  intro j h1 h2
  unfold readByte tableRange
  have := tget_filter (0 : Byte) m (fun i => decide (a ≤ i) && decide (i < a + n)) j
  rw [this]
  simp [h1, h2]

theorem bytesFrom_writeBytes (m : List Host.Cell) (a : Nat) (l : List Byte) :
    bytesFrom (writeBytes m a l) a l.length = l := by
  have : ∀ n i, i + n = l.length → bytesFrom (writeBytes m a l) (a + i) n = l.drop i := by
    intro n
    induction n with
    | zero => intro i hi; simp only [bytesFrom]; rw [List.drop_of_length_le (by omega)]
    | succ n ih =>
      intro i hi
      have h := ih (i + 1) (by omega)
      simp only [bytesFrom]
      rw [show a + i + 1 = a + (i + 1) by omega, h, readByte_writeBytes, if_pos (by omega)]
      have hi' : i < l.length := by omega
      rw [show a + i - a = i by omega, List.drop_eq_getElem_cons hi']
      rw [List.getD_eq_getElem?_getD, List.getElem?_eq_getElem hi']; rfl
  simpa using this l.length 0 (by omega)

theorem leNat_lt (l : List Byte) : leNat l < 256 ^ l.length := by
  induction l with
  | nil => simp [leNat]
  | cons b t ih =>
    have hb := b.isLt
    simp only [leNat, List.length_cons, Nat.pow_succ]
    omega

theorem leBytes_length (n v : Nat) : (leBytes n v).length = n := by
  induction n generalizing v with
  | zero => rfl
  | succ n ih => simp [leBytes, ih]

theorem leNat_leBytes (n v : Nat) : leNat (leBytes n v) = v % 256 ^ n := by
  induction n generalizing v with
  | zero => simp [leBytes, leNat, Nat.mod_one]
  | succ n ih =>
    simp only [leBytes, leNat, ih, BitVec.toNat_ofNat]
    rw [show 256 ^ (n + 1) = 256 * 256 ^ n by rw [Nat.pow_succ, Nat.mul_comm], Nat.mod_mul]

/-- The line read after a line was written: the line written there, else what it was before. -/
theorem readLine_writeLine (m : List Host.Cell) (line i : Nat) (v : Line) :
    readLine (writeLine m line v) i = if i = line then v else readLine m i := by
  have hl : (lineBytes v).length = 64 := leBytes_length 64 _
  unfold readLine
  rw [readBytes_eq, readBytes_eq]
  by_cases h : i = line
  · subst h
    rw [if_pos rfl]
    unfold writeLine
    have := bytesFrom_writeBytes m (64 * i) (lineBytes v)
    rw [hl] at this
    rw [this]
    unfold lineOf lineBytes
    rw [leNat_leBytes]
    apply BitVec.eq_of_toNat_eq
    rw [BitVec.toNat_ofNat]
    have := v.isLt
    rw [Nat.mod_eq_of_lt, Nat.mod_eq_of_lt] <;> omega
  · rw [if_neg h]
    congr 1
    apply bytesFrom_congr
    intro j h1 h2
    unfold writeLine
    rw [readByte_writeBytes, if_neg]
    rw [hl]
    omega

end Sys2Proof.Machine
end

