-- ==== Sys2Proof/Laws/State.lean ====
section
/-!
SUPPORT. One lemma for each update of the state: the fields it leaves (every part true by unfolding), the field it sets, and
what the indexed families read after it.
-/

namespace Sys2Proof.Machine

set_option Elab.async false

/-- What `emit` leaves. -/
@[simp] theorem State.emit_rest (s : State) (o : Out) :
    (s.emit o).pending = s.pending ∧ (s.emit o).fresh = s.fresh ∧ (s.emit o).variantH = s.variantH ∧ (s.emit o).stepB0 =
    s.stepB0 ∧ (s.emit o).nextId = s.nextId ∧ (s.emit o).nextKey = s.nextKey ∧ (s.emit o).pmc = s.pmc ∧ (s.emit o).fw = s.fw
    ∧ (s.emit o).hep = s.hep ∧ (s.emit o).fns = s.fns ∧ (s.emit o).ctxs = s.ctxs ∧ (s.emit o).sealed = s.sealed ∧ (s.emit
    o).regions = s.regions ∧ (s.emit o).subs = s.subs ∧ (s.emit o).seqs = s.seqs ∧ (s.emit o).cmds = s.cmds ∧ (s.emit
    o).ports = s.ports ∧ (s.emit o).held = s.held ∧ (s.emit o).leases = s.leases ∧ (s.emit o).hbm = s.hbm ∧ (s.emit o).staged
    = s.staged ∧ (s.emit o).flash = s.flash ∧ (s.emit o).wbuf = s.wbuf ∧ (s.emit o).atoms = s.atoms ∧ (s.emit o).qos = s.qos
    ∧ (s.emit o).dir = s.dir ∧ (s.emit o).dirs = s.dirs ∧ (s.emit o).groups = s.groups ∧ (s.emit o).tables = s.tables ∧
    (s.emit o).refRecs = s.refRecs ∧ (s.emit o).mems = s.mems ∧ (s.emit o).engines = s.engines ∧ (s.emit o).chds = s.chds ∧
    (s.emit o).disp = s.disp ∧ (s.emit o).xfers = s.xfers ∧ (s.emit o).hbmStk = s.hbmStk ∧ (s.emit o).repairs = s.repairs ∧
    (s.emit o).repairRows = s.repairRows ∧ (s.emit o).flss = s.flss ∧ (s.emit o).fmap = s.fmap ∧ (s.emit o).images = s.images
    ∧ (s.emit o).saved = s.saved ∧ (s.emit o).journals = s.journals ∧ (s.emit o).elog = s.elog ∧ (s.emit o).cnt = s.cnt ∧
    (s.emit o).keys = s.keys := by
  repeat' constructor

/-- What `takeFree` leaves. -/
@[simp] theorem State.takeFree_rest (s : State) :
    (s.takeFree).2.pending = s.pending ∧ (s.takeFree).2.out = s.out ∧ (s.takeFree).2.variantH = s.variantH ∧
    (s.takeFree).2.stepB0 = s.stepB0 ∧ (s.takeFree).2.nextId = s.nextId ∧ (s.takeFree).2.nextKey = s.nextKey ∧
    (s.takeFree).2.pmc = s.pmc ∧ (s.takeFree).2.fw = s.fw ∧ (s.takeFree).2.hep = s.hep ∧ (s.takeFree).2.fns = s.fns ∧
    (s.takeFree).2.ctxs = s.ctxs ∧ (s.takeFree).2.sealed = s.sealed ∧ (s.takeFree).2.regions = s.regions ∧
    (s.takeFree).2.subs = s.subs ∧ (s.takeFree).2.seqs = s.seqs ∧ (s.takeFree).2.cmds = s.cmds ∧ (s.takeFree).2.ports =
    s.ports ∧ (s.takeFree).2.held = s.held ∧ (s.takeFree).2.leases = s.leases ∧ (s.takeFree).2.hbm = s.hbm ∧
    (s.takeFree).2.staged = s.staged ∧ (s.takeFree).2.flash = s.flash ∧ (s.takeFree).2.wbuf = s.wbuf ∧ (s.takeFree).2.atoms =
    s.atoms ∧ (s.takeFree).2.qos = s.qos ∧ (s.takeFree).2.dir = s.dir ∧ (s.takeFree).2.dirs = s.dirs ∧ (s.takeFree).2.groups
    = s.groups ∧ (s.takeFree).2.tables = s.tables ∧ (s.takeFree).2.refRecs = s.refRecs ∧ (s.takeFree).2.mems = s.mems ∧
    (s.takeFree).2.engines = s.engines ∧ (s.takeFree).2.chds = s.chds ∧ (s.takeFree).2.disp = s.disp ∧ (s.takeFree).2.xfers =
    s.xfers ∧ (s.takeFree).2.hbmStk = s.hbmStk ∧ (s.takeFree).2.repairs = s.repairs ∧ (s.takeFree).2.repairRows =
    s.repairRows ∧ (s.takeFree).2.flss = s.flss ∧ (s.takeFree).2.fmap = s.fmap ∧ (s.takeFree).2.images = s.images ∧
    (s.takeFree).2.saved = s.saved ∧ (s.takeFree).2.journals = s.journals ∧ (s.takeFree).2.elog = s.elog ∧ (s.takeFree).2.cnt
    = s.cnt ∧ (s.takeFree).2.keys = s.keys := by
  repeat' constructor

/-- What `takeId` leaves. -/
@[simp] theorem State.takeId_rest (s : State) :
    (s.takeId).2.pending = s.pending ∧ (s.takeId).2.fresh = s.fresh ∧ (s.takeId).2.out = s.out ∧ (s.takeId).2.variantH =
    s.variantH ∧ (s.takeId).2.stepB0 = s.stepB0 ∧ (s.takeId).2.nextKey = s.nextKey ∧ (s.takeId).2.pmc = s.pmc ∧
    (s.takeId).2.fw = s.fw ∧ (s.takeId).2.hep = s.hep ∧ (s.takeId).2.fns = s.fns ∧ (s.takeId).2.ctxs = s.ctxs ∧
    (s.takeId).2.sealed = s.sealed ∧ (s.takeId).2.regions = s.regions ∧ (s.takeId).2.subs = s.subs ∧ (s.takeId).2.seqs =
    s.seqs ∧ (s.takeId).2.cmds = s.cmds ∧ (s.takeId).2.ports = s.ports ∧ (s.takeId).2.held = s.held ∧ (s.takeId).2.leases =
    s.leases ∧ (s.takeId).2.hbm = s.hbm ∧ (s.takeId).2.staged = s.staged ∧ (s.takeId).2.flash = s.flash ∧ (s.takeId).2.wbuf =
    s.wbuf ∧ (s.takeId).2.atoms = s.atoms ∧ (s.takeId).2.qos = s.qos ∧ (s.takeId).2.dir = s.dir ∧ (s.takeId).2.dirs = s.dirs
    ∧ (s.takeId).2.groups = s.groups ∧ (s.takeId).2.tables = s.tables ∧ (s.takeId).2.refRecs = s.refRecs ∧ (s.takeId).2.mems
    = s.mems ∧ (s.takeId).2.engines = s.engines ∧ (s.takeId).2.chds = s.chds ∧ (s.takeId).2.disp = s.disp ∧
    (s.takeId).2.xfers = s.xfers ∧ (s.takeId).2.hbmStk = s.hbmStk ∧ (s.takeId).2.repairs = s.repairs ∧
    (s.takeId).2.repairRows = s.repairRows ∧ (s.takeId).2.flss = s.flss ∧ (s.takeId).2.fmap = s.fmap ∧ (s.takeId).2.images =
    s.images ∧ (s.takeId).2.saved = s.saved ∧ (s.takeId).2.journals = s.journals ∧ (s.takeId).2.elog = s.elog ∧
    (s.takeId).2.cnt = s.cnt ∧ (s.takeId).2.keys = s.keys := by
  repeat' constructor

/-- What `takeKey` leaves. -/
@[simp] theorem State.takeKey_rest (s : State) :
    (s.takeKey).2.pending = s.pending ∧ (s.takeKey).2.fresh = s.fresh ∧ (s.takeKey).2.out = s.out ∧ (s.takeKey).2.variantH =
    s.variantH ∧ (s.takeKey).2.stepB0 = s.stepB0 ∧ (s.takeKey).2.nextId = s.nextId ∧ (s.takeKey).2.pmc = s.pmc ∧
    (s.takeKey).2.fw = s.fw ∧ (s.takeKey).2.hep = s.hep ∧ (s.takeKey).2.fns = s.fns ∧ (s.takeKey).2.ctxs = s.ctxs ∧
    (s.takeKey).2.sealed = s.sealed ∧ (s.takeKey).2.regions = s.regions ∧ (s.takeKey).2.subs = s.subs ∧ (s.takeKey).2.seqs =
    s.seqs ∧ (s.takeKey).2.cmds = s.cmds ∧ (s.takeKey).2.ports = s.ports ∧ (s.takeKey).2.held = s.held ∧ (s.takeKey).2.leases
    = s.leases ∧ (s.takeKey).2.hbm = s.hbm ∧ (s.takeKey).2.staged = s.staged ∧ (s.takeKey).2.flash = s.flash ∧
    (s.takeKey).2.wbuf = s.wbuf ∧ (s.takeKey).2.atoms = s.atoms ∧ (s.takeKey).2.qos = s.qos ∧ (s.takeKey).2.dir = s.dir ∧
    (s.takeKey).2.dirs = s.dirs ∧ (s.takeKey).2.groups = s.groups ∧ (s.takeKey).2.tables = s.tables ∧ (s.takeKey).2.refRecs =
    s.refRecs ∧ (s.takeKey).2.mems = s.mems ∧ (s.takeKey).2.engines = s.engines ∧ (s.takeKey).2.chds = s.chds ∧
    (s.takeKey).2.disp = s.disp ∧ (s.takeKey).2.xfers = s.xfers ∧ (s.takeKey).2.hbmStk = s.hbmStk ∧ (s.takeKey).2.repairs =
    s.repairs ∧ (s.takeKey).2.repairRows = s.repairRows ∧ (s.takeKey).2.flss = s.flss ∧ (s.takeKey).2.fmap = s.fmap ∧
    (s.takeKey).2.images = s.images ∧ (s.takeKey).2.saved = s.saved ∧ (s.takeKey).2.journals = s.journals ∧
    (s.takeKey).2.elog = s.elog ∧ (s.takeKey).2.cnt = s.cnt ∧ (s.takeKey).2.keys = s.keys := by
  repeat' constructor

/-- What `loadKey` leaves. -/
@[simp] theorem State.loadKey_rest (s : State) (slot key : Nat) :
    (s.loadKey slot key).pending = s.pending ∧ (s.loadKey slot key).fresh = s.fresh ∧ (s.loadKey slot key).out = s.out ∧
    (s.loadKey slot key).variantH = s.variantH ∧ (s.loadKey slot key).stepB0 = s.stepB0 ∧ (s.loadKey slot key).nextId =
    s.nextId ∧ (s.loadKey slot key).nextKey = s.nextKey ∧ (s.loadKey slot key).pmc = s.pmc ∧ (s.loadKey slot key).fw = s.fw ∧
    (s.loadKey slot key).hep = s.hep ∧ (s.loadKey slot key).fns = s.fns ∧ (s.loadKey slot key).ctxs = s.ctxs ∧ (s.loadKey
    slot key).sealed = s.sealed ∧ (s.loadKey slot key).regions = s.regions ∧ (s.loadKey slot key).subs = s.subs ∧ (s.loadKey
    slot key).seqs = s.seqs ∧ (s.loadKey slot key).cmds = s.cmds ∧ (s.loadKey slot key).ports = s.ports ∧ (s.loadKey slot
    key).held = s.held ∧ (s.loadKey slot key).leases = s.leases ∧ (s.loadKey slot key).hbm = s.hbm ∧ (s.loadKey slot
    key).staged = s.staged ∧ (s.loadKey slot key).flash = s.flash ∧ (s.loadKey slot key).wbuf = s.wbuf ∧ (s.loadKey slot
    key).atoms = s.atoms ∧ (s.loadKey slot key).qos = s.qos ∧ (s.loadKey slot key).dir = s.dir ∧ (s.loadKey slot key).dirs =
    s.dirs ∧ (s.loadKey slot key).groups = s.groups ∧ (s.loadKey slot key).tables = s.tables ∧ (s.loadKey slot key).refRecs =
    s.refRecs ∧ (s.loadKey slot key).mems = s.mems ∧ (s.loadKey slot key).engines = s.engines ∧ (s.loadKey slot key).chds =
    s.chds ∧ (s.loadKey slot key).disp = s.disp ∧ (s.loadKey slot key).xfers = s.xfers ∧ (s.loadKey slot key).hbmStk =
    s.hbmStk ∧ (s.loadKey slot key).repairs = s.repairs ∧ (s.loadKey slot key).repairRows = s.repairRows ∧ (s.loadKey slot
    key).flss = s.flss ∧ (s.loadKey slot key).fmap = s.fmap ∧ (s.loadKey slot key).images = s.images ∧ (s.loadKey slot
    key).saved = s.saved ∧ (s.loadKey slot key).journals = s.journals ∧ (s.loadKey slot key).elog = s.elog ∧ (s.loadKey slot
    key).cnt = s.cnt := by
  repeat' constructor

/-- What `modFn` leaves. -/
@[simp] theorem State.modFn_rest (s : State) (n : Nat) (f : Fn → Fn) :
    (s.modFn n f).pending = s.pending ∧ (s.modFn n f).fresh = s.fresh ∧ (s.modFn n f).out = s.out ∧ (s.modFn n f).variantH =
    s.variantH ∧ (s.modFn n f).stepB0 = s.stepB0 ∧ (s.modFn n f).nextId = s.nextId ∧ (s.modFn n f).nextKey = s.nextKey ∧
    (s.modFn n f).pmc = s.pmc ∧ (s.modFn n f).fw = s.fw ∧ (s.modFn n f).hep = s.hep ∧ (s.modFn n f).ctxs = s.ctxs ∧ (s.modFn
    n f).sealed = s.sealed ∧ (s.modFn n f).regions = s.regions ∧ (s.modFn n f).subs = s.subs ∧ (s.modFn n f).seqs = s.seqs ∧
    (s.modFn n f).cmds = s.cmds ∧ (s.modFn n f).ports = s.ports ∧ (s.modFn n f).held = s.held ∧ (s.modFn n f).leases =
    s.leases ∧ (s.modFn n f).hbm = s.hbm ∧ (s.modFn n f).staged = s.staged ∧ (s.modFn n f).flash = s.flash ∧ (s.modFn n
    f).wbuf = s.wbuf ∧ (s.modFn n f).atoms = s.atoms ∧ (s.modFn n f).qos = s.qos ∧ (s.modFn n f).dir = s.dir ∧ (s.modFn n
    f).dirs = s.dirs ∧ (s.modFn n f).groups = s.groups ∧ (s.modFn n f).tables = s.tables ∧ (s.modFn n f).refRecs = s.refRecs
    ∧ (s.modFn n f).mems = s.mems ∧ (s.modFn n f).engines = s.engines ∧ (s.modFn n f).chds = s.chds ∧ (s.modFn n f).disp =
    s.disp ∧ (s.modFn n f).xfers = s.xfers ∧ (s.modFn n f).hbmStk = s.hbmStk ∧ (s.modFn n f).repairs = s.repairs ∧ (s.modFn n
    f).repairRows = s.repairRows ∧ (s.modFn n f).flss = s.flss ∧ (s.modFn n f).fmap = s.fmap ∧ (s.modFn n f).images =
    s.images ∧ (s.modFn n f).saved = s.saved ∧ (s.modFn n f).journals = s.journals ∧ (s.modFn n f).elog = s.elog ∧ (s.modFn n
    f).cnt = s.cnt ∧ (s.modFn n f).keys = s.keys := by
  repeat' constructor

/-- What `modCtx` leaves. -/
@[simp] theorem State.modCtx_rest (s : State) (n : Nat) (f : Ctx → Ctx) :
    (s.modCtx n f).pending = s.pending ∧ (s.modCtx n f).fresh = s.fresh ∧ (s.modCtx n f).out = s.out ∧ (s.modCtx n
    f).variantH = s.variantH ∧ (s.modCtx n f).stepB0 = s.stepB0 ∧ (s.modCtx n f).nextId = s.nextId ∧ (s.modCtx n f).nextKey =
    s.nextKey ∧ (s.modCtx n f).pmc = s.pmc ∧ (s.modCtx n f).fw = s.fw ∧ (s.modCtx n f).hep = s.hep ∧ (s.modCtx n f).fns =
    s.fns ∧ (s.modCtx n f).sealed = s.sealed ∧ (s.modCtx n f).regions = s.regions ∧ (s.modCtx n f).subs = s.subs ∧ (s.modCtx
    n f).seqs = s.seqs ∧ (s.modCtx n f).cmds = s.cmds ∧ (s.modCtx n f).ports = s.ports ∧ (s.modCtx n f).held = s.held ∧
    (s.modCtx n f).leases = s.leases ∧ (s.modCtx n f).hbm = s.hbm ∧ (s.modCtx n f).staged = s.staged ∧ (s.modCtx n f).flash =
    s.flash ∧ (s.modCtx n f).wbuf = s.wbuf ∧ (s.modCtx n f).atoms = s.atoms ∧ (s.modCtx n f).qos = s.qos ∧ (s.modCtx n f).dir
    = s.dir ∧ (s.modCtx n f).dirs = s.dirs ∧ (s.modCtx n f).groups = s.groups ∧ (s.modCtx n f).tables = s.tables ∧ (s.modCtx
    n f).refRecs = s.refRecs ∧ (s.modCtx n f).mems = s.mems ∧ (s.modCtx n f).engines = s.engines ∧ (s.modCtx n f).chds =
    s.chds ∧ (s.modCtx n f).disp = s.disp ∧ (s.modCtx n f).xfers = s.xfers ∧ (s.modCtx n f).hbmStk = s.hbmStk ∧ (s.modCtx n
    f).repairs = s.repairs ∧ (s.modCtx n f).repairRows = s.repairRows ∧ (s.modCtx n f).flss = s.flss ∧ (s.modCtx n f).fmap =
    s.fmap ∧ (s.modCtx n f).images = s.images ∧ (s.modCtx n f).saved = s.saved ∧ (s.modCtx n f).journals = s.journals ∧
    (s.modCtx n f).elog = s.elog ∧ (s.modCtx n f).cnt = s.cnt ∧ (s.modCtx n f).keys = s.keys := by
  repeat' constructor

/-- What `modPort` leaves. -/
@[simp] theorem State.modPort_rest (s : State) (n : Nat) (f : Port → Port) :
    (s.modPort n f).pending = s.pending ∧ (s.modPort n f).fresh = s.fresh ∧ (s.modPort n f).out = s.out ∧ (s.modPort n
    f).variantH = s.variantH ∧ (s.modPort n f).stepB0 = s.stepB0 ∧ (s.modPort n f).nextId = s.nextId ∧ (s.modPort n
    f).nextKey = s.nextKey ∧ (s.modPort n f).pmc = s.pmc ∧ (s.modPort n f).fw = s.fw ∧ (s.modPort n f).hep = s.hep ∧
    (s.modPort n f).fns = s.fns ∧ (s.modPort n f).ctxs = s.ctxs ∧ (s.modPort n f).sealed = s.sealed ∧ (s.modPort n f).regions
    = s.regions ∧ (s.modPort n f).subs = s.subs ∧ (s.modPort n f).seqs = s.seqs ∧ (s.modPort n f).cmds = s.cmds ∧ (s.modPort
    n f).held = s.held ∧ (s.modPort n f).leases = s.leases ∧ (s.modPort n f).hbm = s.hbm ∧ (s.modPort n f).staged = s.staged
    ∧ (s.modPort n f).flash = s.flash ∧ (s.modPort n f).wbuf = s.wbuf ∧ (s.modPort n f).atoms = s.atoms ∧ (s.modPort n f).qos
    = s.qos ∧ (s.modPort n f).dir = s.dir ∧ (s.modPort n f).dirs = s.dirs ∧ (s.modPort n f).groups = s.groups ∧ (s.modPort n
    f).tables = s.tables ∧ (s.modPort n f).refRecs = s.refRecs ∧ (s.modPort n f).mems = s.mems ∧ (s.modPort n f).engines =
    s.engines ∧ (s.modPort n f).chds = s.chds ∧ (s.modPort n f).disp = s.disp ∧ (s.modPort n f).xfers = s.xfers ∧ (s.modPort
    n f).hbmStk = s.hbmStk ∧ (s.modPort n f).repairs = s.repairs ∧ (s.modPort n f).repairRows = s.repairRows ∧ (s.modPort n
    f).flss = s.flss ∧ (s.modPort n f).fmap = s.fmap ∧ (s.modPort n f).images = s.images ∧ (s.modPort n f).saved = s.saved ∧
    (s.modPort n f).journals = s.journals ∧ (s.modPort n f).elog = s.elog ∧ (s.modPort n f).cnt = s.cnt ∧ (s.modPort n
    f).keys = s.keys := by
  repeat' constructor

/-- What `modEnt` leaves. -/
@[simp] theorem State.modEnt_rest (s : State) (n : Nat) (f : DirEnt → DirEnt) :
    (s.modEnt n f).pending = s.pending ∧ (s.modEnt n f).fresh = s.fresh ∧ (s.modEnt n f).out = s.out ∧ (s.modEnt n
    f).variantH = s.variantH ∧ (s.modEnt n f).stepB0 = s.stepB0 ∧ (s.modEnt n f).nextId = s.nextId ∧ (s.modEnt n f).nextKey =
    s.nextKey ∧ (s.modEnt n f).pmc = s.pmc ∧ (s.modEnt n f).fw = s.fw ∧ (s.modEnt n f).hep = s.hep ∧ (s.modEnt n f).fns =
    s.fns ∧ (s.modEnt n f).ctxs = s.ctxs ∧ (s.modEnt n f).sealed = s.sealed ∧ (s.modEnt n f).regions = s.regions ∧ (s.modEnt
    n f).subs = s.subs ∧ (s.modEnt n f).seqs = s.seqs ∧ (s.modEnt n f).cmds = s.cmds ∧ (s.modEnt n f).ports = s.ports ∧
    (s.modEnt n f).held = s.held ∧ (s.modEnt n f).leases = s.leases ∧ (s.modEnt n f).hbm = s.hbm ∧ (s.modEnt n f).staged =
    s.staged ∧ (s.modEnt n f).flash = s.flash ∧ (s.modEnt n f).wbuf = s.wbuf ∧ (s.modEnt n f).atoms = s.atoms ∧ (s.modEnt n
    f).qos = s.qos ∧ (s.modEnt n f).dirs = s.dirs ∧ (s.modEnt n f).groups = s.groups ∧ (s.modEnt n f).tables = s.tables ∧
    (s.modEnt n f).refRecs = s.refRecs ∧ (s.modEnt n f).mems = s.mems ∧ (s.modEnt n f).engines = s.engines ∧ (s.modEnt n
    f).chds = s.chds ∧ (s.modEnt n f).disp = s.disp ∧ (s.modEnt n f).xfers = s.xfers ∧ (s.modEnt n f).hbmStk = s.hbmStk ∧
    (s.modEnt n f).repairs = s.repairs ∧ (s.modEnt n f).repairRows = s.repairRows ∧ (s.modEnt n f).flss = s.flss ∧ (s.modEnt
    n f).fmap = s.fmap ∧ (s.modEnt n f).images = s.images ∧ (s.modEnt n f).saved = s.saved ∧ (s.modEnt n f).journals =
    s.journals ∧ (s.modEnt n f).elog = s.elog ∧ (s.modEnt n f).cnt = s.cnt ∧ (s.modEnt n f).keys = s.keys := by
  repeat' constructor

/-- What `modDir` leaves. -/
@[simp] theorem State.modDir_rest (s : State) (n : Nat) (f : Dir → Dir) :
    (s.modDir n f).pending = s.pending ∧ (s.modDir n f).fresh = s.fresh ∧ (s.modDir n f).out = s.out ∧ (s.modDir n
    f).variantH = s.variantH ∧ (s.modDir n f).stepB0 = s.stepB0 ∧ (s.modDir n f).nextId = s.nextId ∧ (s.modDir n f).nextKey =
    s.nextKey ∧ (s.modDir n f).pmc = s.pmc ∧ (s.modDir n f).fw = s.fw ∧ (s.modDir n f).hep = s.hep ∧ (s.modDir n f).fns =
    s.fns ∧ (s.modDir n f).ctxs = s.ctxs ∧ (s.modDir n f).sealed = s.sealed ∧ (s.modDir n f).regions = s.regions ∧ (s.modDir
    n f).subs = s.subs ∧ (s.modDir n f).seqs = s.seqs ∧ (s.modDir n f).cmds = s.cmds ∧ (s.modDir n f).ports = s.ports ∧
    (s.modDir n f).held = s.held ∧ (s.modDir n f).leases = s.leases ∧ (s.modDir n f).hbm = s.hbm ∧ (s.modDir n f).staged =
    s.staged ∧ (s.modDir n f).flash = s.flash ∧ (s.modDir n f).wbuf = s.wbuf ∧ (s.modDir n f).atoms = s.atoms ∧ (s.modDir n
    f).qos = s.qos ∧ (s.modDir n f).dir = s.dir ∧ (s.modDir n f).groups = s.groups ∧ (s.modDir n f).tables = s.tables ∧
    (s.modDir n f).refRecs = s.refRecs ∧ (s.modDir n f).mems = s.mems ∧ (s.modDir n f).engines = s.engines ∧ (s.modDir n
    f).chds = s.chds ∧ (s.modDir n f).disp = s.disp ∧ (s.modDir n f).xfers = s.xfers ∧ (s.modDir n f).hbmStk = s.hbmStk ∧
    (s.modDir n f).repairs = s.repairs ∧ (s.modDir n f).repairRows = s.repairRows ∧ (s.modDir n f).flss = s.flss ∧ (s.modDir
    n f).fmap = s.fmap ∧ (s.modDir n f).images = s.images ∧ (s.modDir n f).saved = s.saved ∧ (s.modDir n f).journals =
    s.journals ∧ (s.modDir n f).elog = s.elog ∧ (s.modDir n f).cnt = s.cnt ∧ (s.modDir n f).keys = s.keys := by
  repeat' constructor

/-- What `modStack` leaves. -/
@[simp] theorem State.modStack_rest (s : State) (n : Nat) (f : Stack → Stack) :
    (s.modStack n f).pending = s.pending ∧ (s.modStack n f).fresh = s.fresh ∧ (s.modStack n f).out = s.out ∧ (s.modStack n
    f).variantH = s.variantH ∧ (s.modStack n f).stepB0 = s.stepB0 ∧ (s.modStack n f).nextId = s.nextId ∧ (s.modStack n
    f).nextKey = s.nextKey ∧ (s.modStack n f).pmc = s.pmc ∧ (s.modStack n f).fw = s.fw ∧ (s.modStack n f).hep = s.hep ∧
    (s.modStack n f).fns = s.fns ∧ (s.modStack n f).ctxs = s.ctxs ∧ (s.modStack n f).sealed = s.sealed ∧ (s.modStack n
    f).regions = s.regions ∧ (s.modStack n f).subs = s.subs ∧ (s.modStack n f).seqs = s.seqs ∧ (s.modStack n f).cmds = s.cmds
    ∧ (s.modStack n f).ports = s.ports ∧ (s.modStack n f).held = s.held ∧ (s.modStack n f).leases = s.leases ∧ (s.modStack n
    f).hbm = s.hbm ∧ (s.modStack n f).staged = s.staged ∧ (s.modStack n f).flash = s.flash ∧ (s.modStack n f).wbuf = s.wbuf ∧
    (s.modStack n f).atoms = s.atoms ∧ (s.modStack n f).qos = s.qos ∧ (s.modStack n f).dir = s.dir ∧ (s.modStack n f).dirs =
    s.dirs ∧ (s.modStack n f).groups = s.groups ∧ (s.modStack n f).tables = s.tables ∧ (s.modStack n f).refRecs = s.refRecs ∧
    (s.modStack n f).mems = s.mems ∧ (s.modStack n f).engines = s.engines ∧ (s.modStack n f).chds = s.chds ∧ (s.modStack n
    f).disp = s.disp ∧ (s.modStack n f).xfers = s.xfers ∧ (s.modStack n f).repairs = s.repairs ∧ (s.modStack n f).repairRows
    = s.repairRows ∧ (s.modStack n f).flss = s.flss ∧ (s.modStack n f).fmap = s.fmap ∧ (s.modStack n f).images = s.images ∧
    (s.modStack n f).saved = s.saved ∧ (s.modStack n f).journals = s.journals ∧ (s.modStack n f).elog = s.elog ∧ (s.modStack
    n f).cnt = s.cnt ∧ (s.modStack n f).keys = s.keys := by
  repeat' constructor

/-- What `modFls` leaves. -/
@[simp] theorem State.modFls_rest (s : State) (n : Nat) (f : Fls → Fls) :
    (s.modFls n f).pending = s.pending ∧ (s.modFls n f).fresh = s.fresh ∧ (s.modFls n f).out = s.out ∧ (s.modFls n
    f).variantH = s.variantH ∧ (s.modFls n f).stepB0 = s.stepB0 ∧ (s.modFls n f).nextId = s.nextId ∧ (s.modFls n f).nextKey =
    s.nextKey ∧ (s.modFls n f).pmc = s.pmc ∧ (s.modFls n f).fw = s.fw ∧ (s.modFls n f).hep = s.hep ∧ (s.modFls n f).fns =
    s.fns ∧ (s.modFls n f).ctxs = s.ctxs ∧ (s.modFls n f).sealed = s.sealed ∧ (s.modFls n f).regions = s.regions ∧ (s.modFls
    n f).subs = s.subs ∧ (s.modFls n f).seqs = s.seqs ∧ (s.modFls n f).cmds = s.cmds ∧ (s.modFls n f).ports = s.ports ∧
    (s.modFls n f).held = s.held ∧ (s.modFls n f).leases = s.leases ∧ (s.modFls n f).hbm = s.hbm ∧ (s.modFls n f).staged =
    s.staged ∧ (s.modFls n f).flash = s.flash ∧ (s.modFls n f).wbuf = s.wbuf ∧ (s.modFls n f).atoms = s.atoms ∧ (s.modFls n
    f).qos = s.qos ∧ (s.modFls n f).dir = s.dir ∧ (s.modFls n f).dirs = s.dirs ∧ (s.modFls n f).groups = s.groups ∧ (s.modFls
    n f).tables = s.tables ∧ (s.modFls n f).refRecs = s.refRecs ∧ (s.modFls n f).mems = s.mems ∧ (s.modFls n f).engines =
    s.engines ∧ (s.modFls n f).chds = s.chds ∧ (s.modFls n f).disp = s.disp ∧ (s.modFls n f).xfers = s.xfers ∧ (s.modFls n
    f).hbmStk = s.hbmStk ∧ (s.modFls n f).repairs = s.repairs ∧ (s.modFls n f).repairRows = s.repairRows ∧ (s.modFls n
    f).fmap = s.fmap ∧ (s.modFls n f).images = s.images ∧ (s.modFls n f).saved = s.saved ∧ (s.modFls n f).journals =
    s.journals ∧ (s.modFls n f).elog = s.elog ∧ (s.modFls n f).cnt = s.cnt ∧ (s.modFls n f).keys = s.keys := by
  repeat' constructor

/-- What `modMem` leaves. -/
@[simp] theorem State.modMem_rest (s : State) (n : Nat) (f : MemDie → MemDie) :
    (s.modMem n f).pending = s.pending ∧ (s.modMem n f).fresh = s.fresh ∧ (s.modMem n f).out = s.out ∧ (s.modMem n
    f).variantH = s.variantH ∧ (s.modMem n f).stepB0 = s.stepB0 ∧ (s.modMem n f).nextId = s.nextId ∧ (s.modMem n f).nextKey =
    s.nextKey ∧ (s.modMem n f).pmc = s.pmc ∧ (s.modMem n f).fw = s.fw ∧ (s.modMem n f).hep = s.hep ∧ (s.modMem n f).fns =
    s.fns ∧ (s.modMem n f).ctxs = s.ctxs ∧ (s.modMem n f).sealed = s.sealed ∧ (s.modMem n f).regions = s.regions ∧ (s.modMem
    n f).subs = s.subs ∧ (s.modMem n f).seqs = s.seqs ∧ (s.modMem n f).cmds = s.cmds ∧ (s.modMem n f).ports = s.ports ∧
    (s.modMem n f).held = s.held ∧ (s.modMem n f).leases = s.leases ∧ (s.modMem n f).hbm = s.hbm ∧ (s.modMem n f).staged =
    s.staged ∧ (s.modMem n f).flash = s.flash ∧ (s.modMem n f).wbuf = s.wbuf ∧ (s.modMem n f).atoms = s.atoms ∧ (s.modMem n
    f).qos = s.qos ∧ (s.modMem n f).dir = s.dir ∧ (s.modMem n f).dirs = s.dirs ∧ (s.modMem n f).groups = s.groups ∧ (s.modMem
    n f).tables = s.tables ∧ (s.modMem n f).refRecs = s.refRecs ∧ (s.modMem n f).engines = s.engines ∧ (s.modMem n f).chds =
    s.chds ∧ (s.modMem n f).disp = s.disp ∧ (s.modMem n f).xfers = s.xfers ∧ (s.modMem n f).hbmStk = s.hbmStk ∧ (s.modMem n
    f).repairs = s.repairs ∧ (s.modMem n f).repairRows = s.repairRows ∧ (s.modMem n f).flss = s.flss ∧ (s.modMem n f).fmap =
    s.fmap ∧ (s.modMem n f).images = s.images ∧ (s.modMem n f).saved = s.saved ∧ (s.modMem n f).journals = s.journals ∧
    (s.modMem n f).elog = s.elog ∧ (s.modMem n f).cnt = s.cnt ∧ (s.modMem n f).keys = s.keys := by
  repeat' constructor

/-- What `modEngine` leaves. -/
@[simp] theorem State.modEngine_rest (s : State) (n : Nat) (f : Engine → Engine) :
    (s.modEngine n f).pending = s.pending ∧ (s.modEngine n f).fresh = s.fresh ∧ (s.modEngine n f).out = s.out ∧ (s.modEngine
    n f).variantH = s.variantH ∧ (s.modEngine n f).stepB0 = s.stepB0 ∧ (s.modEngine n f).nextId = s.nextId ∧ (s.modEngine n
    f).nextKey = s.nextKey ∧ (s.modEngine n f).pmc = s.pmc ∧ (s.modEngine n f).fw = s.fw ∧ (s.modEngine n f).hep = s.hep ∧
    (s.modEngine n f).fns = s.fns ∧ (s.modEngine n f).ctxs = s.ctxs ∧ (s.modEngine n f).sealed = s.sealed ∧ (s.modEngine n
    f).regions = s.regions ∧ (s.modEngine n f).subs = s.subs ∧ (s.modEngine n f).seqs = s.seqs ∧ (s.modEngine n f).cmds =
    s.cmds ∧ (s.modEngine n f).ports = s.ports ∧ (s.modEngine n f).held = s.held ∧ (s.modEngine n f).leases = s.leases ∧
    (s.modEngine n f).hbm = s.hbm ∧ (s.modEngine n f).staged = s.staged ∧ (s.modEngine n f).flash = s.flash ∧ (s.modEngine n
    f).wbuf = s.wbuf ∧ (s.modEngine n f).atoms = s.atoms ∧ (s.modEngine n f).qos = s.qos ∧ (s.modEngine n f).dir = s.dir ∧
    (s.modEngine n f).dirs = s.dirs ∧ (s.modEngine n f).groups = s.groups ∧ (s.modEngine n f).tables = s.tables ∧
    (s.modEngine n f).refRecs = s.refRecs ∧ (s.modEngine n f).mems = s.mems ∧ (s.modEngine n f).chds = s.chds ∧ (s.modEngine
    n f).disp = s.disp ∧ (s.modEngine n f).xfers = s.xfers ∧ (s.modEngine n f).hbmStk = s.hbmStk ∧ (s.modEngine n f).repairs
    = s.repairs ∧ (s.modEngine n f).repairRows = s.repairRows ∧ (s.modEngine n f).flss = s.flss ∧ (s.modEngine n f).fmap =
    s.fmap ∧ (s.modEngine n f).images = s.images ∧ (s.modEngine n f).saved = s.saved ∧ (s.modEngine n f).journals =
    s.journals ∧ (s.modEngine n f).elog = s.elog ∧ (s.modEngine n f).cnt = s.cnt ∧ (s.modEngine n f).keys = s.keys := by
  repeat' constructor

/-- What `modChd` leaves. -/
@[simp] theorem State.modChd_rest (s : State) (n : Nat) (f : ChdDie → ChdDie) :
    (s.modChd n f).pending = s.pending ∧ (s.modChd n f).fresh = s.fresh ∧ (s.modChd n f).out = s.out ∧ (s.modChd n
    f).variantH = s.variantH ∧ (s.modChd n f).stepB0 = s.stepB0 ∧ (s.modChd n f).nextId = s.nextId ∧ (s.modChd n f).nextKey =
    s.nextKey ∧ (s.modChd n f).pmc = s.pmc ∧ (s.modChd n f).fw = s.fw ∧ (s.modChd n f).hep = s.hep ∧ (s.modChd n f).fns =
    s.fns ∧ (s.modChd n f).ctxs = s.ctxs ∧ (s.modChd n f).sealed = s.sealed ∧ (s.modChd n f).regions = s.regions ∧ (s.modChd
    n f).subs = s.subs ∧ (s.modChd n f).seqs = s.seqs ∧ (s.modChd n f).cmds = s.cmds ∧ (s.modChd n f).ports = s.ports ∧
    (s.modChd n f).held = s.held ∧ (s.modChd n f).leases = s.leases ∧ (s.modChd n f).hbm = s.hbm ∧ (s.modChd n f).staged =
    s.staged ∧ (s.modChd n f).flash = s.flash ∧ (s.modChd n f).wbuf = s.wbuf ∧ (s.modChd n f).atoms = s.atoms ∧ (s.modChd n
    f).qos = s.qos ∧ (s.modChd n f).dir = s.dir ∧ (s.modChd n f).dirs = s.dirs ∧ (s.modChd n f).groups = s.groups ∧ (s.modChd
    n f).tables = s.tables ∧ (s.modChd n f).refRecs = s.refRecs ∧ (s.modChd n f).mems = s.mems ∧ (s.modChd n f).engines =
    s.engines ∧ (s.modChd n f).disp = s.disp ∧ (s.modChd n f).xfers = s.xfers ∧ (s.modChd n f).hbmStk = s.hbmStk ∧ (s.modChd
    n f).repairs = s.repairs ∧ (s.modChd n f).repairRows = s.repairRows ∧ (s.modChd n f).flss = s.flss ∧ (s.modChd n f).fmap
    = s.fmap ∧ (s.modChd n f).images = s.images ∧ (s.modChd n f).saved = s.saved ∧ (s.modChd n f).journals = s.journals ∧
    (s.modChd n f).elog = s.elog ∧ (s.modChd n f).cnt = s.cnt ∧ (s.modChd n f).keys = s.keys := by
  repeat' constructor

/-- What `modTable` leaves. -/
@[simp] theorem State.modTable_rest (s : State) (n : Nat) (f : TableSlot → TableSlot) :
    (s.modTable n f).pending = s.pending ∧ (s.modTable n f).fresh = s.fresh ∧ (s.modTable n f).out = s.out ∧ (s.modTable n
    f).variantH = s.variantH ∧ (s.modTable n f).stepB0 = s.stepB0 ∧ (s.modTable n f).nextId = s.nextId ∧ (s.modTable n
    f).nextKey = s.nextKey ∧ (s.modTable n f).pmc = s.pmc ∧ (s.modTable n f).fw = s.fw ∧ (s.modTable n f).hep = s.hep ∧
    (s.modTable n f).fns = s.fns ∧ (s.modTable n f).ctxs = s.ctxs ∧ (s.modTable n f).sealed = s.sealed ∧ (s.modTable n
    f).regions = s.regions ∧ (s.modTable n f).subs = s.subs ∧ (s.modTable n f).seqs = s.seqs ∧ (s.modTable n f).cmds = s.cmds
    ∧ (s.modTable n f).ports = s.ports ∧ (s.modTable n f).held = s.held ∧ (s.modTable n f).leases = s.leases ∧ (s.modTable n
    f).hbm = s.hbm ∧ (s.modTable n f).staged = s.staged ∧ (s.modTable n f).flash = s.flash ∧ (s.modTable n f).wbuf = s.wbuf ∧
    (s.modTable n f).atoms = s.atoms ∧ (s.modTable n f).qos = s.qos ∧ (s.modTable n f).dir = s.dir ∧ (s.modTable n f).dirs =
    s.dirs ∧ (s.modTable n f).groups = s.groups ∧ (s.modTable n f).refRecs = s.refRecs ∧ (s.modTable n f).mems = s.mems ∧
    (s.modTable n f).engines = s.engines ∧ (s.modTable n f).chds = s.chds ∧ (s.modTable n f).disp = s.disp ∧ (s.modTable n
    f).xfers = s.xfers ∧ (s.modTable n f).hbmStk = s.hbmStk ∧ (s.modTable n f).repairs = s.repairs ∧ (s.modTable n
    f).repairRows = s.repairRows ∧ (s.modTable n f).flss = s.flss ∧ (s.modTable n f).fmap = s.fmap ∧ (s.modTable n f).images
    = s.images ∧ (s.modTable n f).saved = s.saved ∧ (s.modTable n f).journals = s.journals ∧ (s.modTable n f).elog = s.elog ∧
    (s.modTable n f).cnt = s.cnt ∧ (s.modTable n f).keys = s.keys := by
  repeat' constructor

/-- What `modPc` leaves. -/
@[simp] theorem State.modPc_rest (s : State) (n p : Nat) (f : Pc → Pc) :
    (s.modPc n p f).pending = s.pending ∧ (s.modPc n p f).fresh = s.fresh ∧ (s.modPc n p f).out = s.out ∧ (s.modPc n p
    f).variantH = s.variantH ∧ (s.modPc n p f).stepB0 = s.stepB0 ∧ (s.modPc n p f).nextId = s.nextId ∧ (s.modPc n p
    f).nextKey = s.nextKey ∧ (s.modPc n p f).pmc = s.pmc ∧ (s.modPc n p f).fw = s.fw ∧ (s.modPc n p f).hep = s.hep ∧ (s.modPc
    n p f).fns = s.fns ∧ (s.modPc n p f).ctxs = s.ctxs ∧ (s.modPc n p f).sealed = s.sealed ∧ (s.modPc n p f).regions =
    s.regions ∧ (s.modPc n p f).subs = s.subs ∧ (s.modPc n p f).seqs = s.seqs ∧ (s.modPc n p f).cmds = s.cmds ∧ (s.modPc n p
    f).ports = s.ports ∧ (s.modPc n p f).held = s.held ∧ (s.modPc n p f).leases = s.leases ∧ (s.modPc n p f).hbm = s.hbm ∧
    (s.modPc n p f).staged = s.staged ∧ (s.modPc n p f).flash = s.flash ∧ (s.modPc n p f).wbuf = s.wbuf ∧ (s.modPc n p
    f).atoms = s.atoms ∧ (s.modPc n p f).qos = s.qos ∧ (s.modPc n p f).dir = s.dir ∧ (s.modPc n p f).dirs = s.dirs ∧ (s.modPc
    n p f).groups = s.groups ∧ (s.modPc n p f).tables = s.tables ∧ (s.modPc n p f).refRecs = s.refRecs ∧ (s.modPc n p f).mems
    = s.mems ∧ (s.modPc n p f).engines = s.engines ∧ (s.modPc n p f).chds = s.chds ∧ (s.modPc n p f).disp = s.disp ∧ (s.modPc
    n p f).xfers = s.xfers ∧ (s.modPc n p f).repairs = s.repairs ∧ (s.modPc n p f).repairRows = s.repairRows ∧ (s.modPc n p
    f).flss = s.flss ∧ (s.modPc n p f).fmap = s.fmap ∧ (s.modPc n p f).images = s.images ∧ (s.modPc n p f).saved = s.saved ∧
    (s.modPc n p f).journals = s.journals ∧ (s.modPc n p f).elog = s.elog ∧ (s.modPc n p f).cnt = s.cnt ∧ (s.modPc n p
    f).keys = s.keys := by
  repeat' constructor

/-- What `modGroup` leaves. -/
@[simp] theorem State.modGroup_rest (s : State) (n g : Nat) (f : Group → Group) :
    (s.modGroup n g f).pending = s.pending ∧ (s.modGroup n g f).fresh = s.fresh ∧ (s.modGroup n g f).out = s.out ∧
    (s.modGroup n g f).variantH = s.variantH ∧ (s.modGroup n g f).stepB0 = s.stepB0 ∧ (s.modGroup n g f).nextId = s.nextId ∧
    (s.modGroup n g f).nextKey = s.nextKey ∧ (s.modGroup n g f).pmc = s.pmc ∧ (s.modGroup n g f).fw = s.fw ∧ (s.modGroup n g
    f).hep = s.hep ∧ (s.modGroup n g f).fns = s.fns ∧ (s.modGroup n g f).ctxs = s.ctxs ∧ (s.modGroup n g f).sealed = s.sealed
    ∧ (s.modGroup n g f).regions = s.regions ∧ (s.modGroup n g f).subs = s.subs ∧ (s.modGroup n g f).seqs = s.seqs ∧
    (s.modGroup n g f).cmds = s.cmds ∧ (s.modGroup n g f).ports = s.ports ∧ (s.modGroup n g f).held = s.held ∧ (s.modGroup n
    g f).leases = s.leases ∧ (s.modGroup n g f).hbm = s.hbm ∧ (s.modGroup n g f).staged = s.staged ∧ (s.modGroup n g f).flash
    = s.flash ∧ (s.modGroup n g f).wbuf = s.wbuf ∧ (s.modGroup n g f).atoms = s.atoms ∧ (s.modGroup n g f).qos = s.qos ∧
    (s.modGroup n g f).dir = s.dir ∧ (s.modGroup n g f).dirs = s.dirs ∧ (s.modGroup n g f).tables = s.tables ∧ (s.modGroup n
    g f).refRecs = s.refRecs ∧ (s.modGroup n g f).mems = s.mems ∧ (s.modGroup n g f).engines = s.engines ∧ (s.modGroup n g
    f).chds = s.chds ∧ (s.modGroup n g f).disp = s.disp ∧ (s.modGroup n g f).xfers = s.xfers ∧ (s.modGroup n g f).hbmStk =
    s.hbmStk ∧ (s.modGroup n g f).repairs = s.repairs ∧ (s.modGroup n g f).repairRows = s.repairRows ∧ (s.modGroup n g
    f).flss = s.flss ∧ (s.modGroup n g f).fmap = s.fmap ∧ (s.modGroup n g f).images = s.images ∧ (s.modGroup n g f).saved =
    s.saved ∧ (s.modGroup n g f).journals = s.journals ∧ (s.modGroup n g f).elog = s.elog ∧ (s.modGroup n g f).cnt = s.cnt ∧
    (s.modGroup n g f).keys = s.keys := by
  repeat' constructor

/-- What `modProc` leaves. -/
@[simp] theorem State.modProc_rest (s : State) (n : Nat) (f : Proc → Proc) :
    (s.modProc n f).pending = s.pending ∧ (s.modProc n f).fresh = s.fresh ∧ (s.modProc n f).out = s.out ∧ (s.modProc n
    f).variantH = s.variantH ∧ (s.modProc n f).stepB0 = s.stepB0 ∧ (s.modProc n f).nextId = s.nextId ∧ (s.modProc n
    f).nextKey = s.nextKey ∧ (s.modProc n f).pmc = s.pmc ∧ (s.modProc n f).hep = s.hep ∧ (s.modProc n f).fns = s.fns ∧
    (s.modProc n f).ctxs = s.ctxs ∧ (s.modProc n f).sealed = s.sealed ∧ (s.modProc n f).regions = s.regions ∧ (s.modProc n
    f).subs = s.subs ∧ (s.modProc n f).seqs = s.seqs ∧ (s.modProc n f).cmds = s.cmds ∧ (s.modProc n f).ports = s.ports ∧
    (s.modProc n f).held = s.held ∧ (s.modProc n f).leases = s.leases ∧ (s.modProc n f).hbm = s.hbm ∧ (s.modProc n f).staged
    = s.staged ∧ (s.modProc n f).flash = s.flash ∧ (s.modProc n f).wbuf = s.wbuf ∧ (s.modProc n f).atoms = s.atoms ∧
    (s.modProc n f).qos = s.qos ∧ (s.modProc n f).dir = s.dir ∧ (s.modProc n f).dirs = s.dirs ∧ (s.modProc n f).groups =
    s.groups ∧ (s.modProc n f).tables = s.tables ∧ (s.modProc n f).refRecs = s.refRecs ∧ (s.modProc n f).mems = s.mems ∧
    (s.modProc n f).engines = s.engines ∧ (s.modProc n f).chds = s.chds ∧ (s.modProc n f).disp = s.disp ∧ (s.modProc n
    f).xfers = s.xfers ∧ (s.modProc n f).hbmStk = s.hbmStk ∧ (s.modProc n f).repairs = s.repairs ∧ (s.modProc n f).repairRows
    = s.repairRows ∧ (s.modProc n f).flss = s.flss ∧ (s.modProc n f).fmap = s.fmap ∧ (s.modProc n f).images = s.images ∧
    (s.modProc n f).saved = s.saved ∧ (s.modProc n f).journals = s.journals ∧ (s.modProc n f).elog = s.elog ∧ (s.modProc n
    f).cnt = s.cnt ∧ (s.modProc n f).keys = s.keys := by
  repeat' constructor

/-- What `modReg` leaves. -/
@[simp] theorem State.modReg_rest (s : State) (n : Nat) (f : Regulator → Regulator) :
    (s.modReg n f).pending = s.pending ∧ (s.modReg n f).fresh = s.fresh ∧ (s.modReg n f).out = s.out ∧ (s.modReg n
    f).variantH = s.variantH ∧ (s.modReg n f).stepB0 = s.stepB0 ∧ (s.modReg n f).nextId = s.nextId ∧ (s.modReg n f).nextKey =
    s.nextKey ∧ (s.modReg n f).pmc = s.pmc ∧ (s.modReg n f).fw = s.fw ∧ (s.modReg n f).hep = s.hep ∧ (s.modReg n f).fns =
    s.fns ∧ (s.modReg n f).ctxs = s.ctxs ∧ (s.modReg n f).sealed = s.sealed ∧ (s.modReg n f).regions = s.regions ∧ (s.modReg
    n f).subs = s.subs ∧ (s.modReg n f).seqs = s.seqs ∧ (s.modReg n f).cmds = s.cmds ∧ (s.modReg n f).ports = s.ports ∧
    (s.modReg n f).held = s.held ∧ (s.modReg n f).leases = s.leases ∧ (s.modReg n f).hbm = s.hbm ∧ (s.modReg n f).staged =
    s.staged ∧ (s.modReg n f).flash = s.flash ∧ (s.modReg n f).wbuf = s.wbuf ∧ (s.modReg n f).atoms = s.atoms ∧ (s.modReg n
    f).dir = s.dir ∧ (s.modReg n f).dirs = s.dirs ∧ (s.modReg n f).groups = s.groups ∧ (s.modReg n f).tables = s.tables ∧
    (s.modReg n f).refRecs = s.refRecs ∧ (s.modReg n f).mems = s.mems ∧ (s.modReg n f).engines = s.engines ∧ (s.modReg n
    f).chds = s.chds ∧ (s.modReg n f).disp = s.disp ∧ (s.modReg n f).xfers = s.xfers ∧ (s.modReg n f).hbmStk = s.hbmStk ∧
    (s.modReg n f).repairs = s.repairs ∧ (s.modReg n f).repairRows = s.repairRows ∧ (s.modReg n f).flss = s.flss ∧ (s.modReg
    n f).fmap = s.fmap ∧ (s.modReg n f).images = s.images ∧ (s.modReg n f).saved = s.saved ∧ (s.modReg n f).journals =
    s.journals ∧ (s.modReg n f).elog = s.elog ∧ (s.modReg n f).cnt = s.cnt ∧ (s.modReg n f).keys = s.keys := by
  repeat' constructor

/-- What `modPmc` leaves. -/
@[simp] theorem State.modPmc_rest (s : State) (f : Pmc → Pmc) :
    (s.modPmc f).pending = s.pending ∧ (s.modPmc f).fresh = s.fresh ∧ (s.modPmc f).out = s.out ∧ (s.modPmc f).variantH =
    s.variantH ∧ (s.modPmc f).stepB0 = s.stepB0 ∧ (s.modPmc f).nextId = s.nextId ∧ (s.modPmc f).nextKey = s.nextKey ∧
    (s.modPmc f).fw = s.fw ∧ (s.modPmc f).hep = s.hep ∧ (s.modPmc f).fns = s.fns ∧ (s.modPmc f).ctxs = s.ctxs ∧ (s.modPmc
    f).sealed = s.sealed ∧ (s.modPmc f).regions = s.regions ∧ (s.modPmc f).subs = s.subs ∧ (s.modPmc f).seqs = s.seqs ∧
    (s.modPmc f).cmds = s.cmds ∧ (s.modPmc f).ports = s.ports ∧ (s.modPmc f).held = s.held ∧ (s.modPmc f).leases = s.leases ∧
    (s.modPmc f).hbm = s.hbm ∧ (s.modPmc f).staged = s.staged ∧ (s.modPmc f).flash = s.flash ∧ (s.modPmc f).wbuf = s.wbuf ∧
    (s.modPmc f).atoms = s.atoms ∧ (s.modPmc f).qos = s.qos ∧ (s.modPmc f).dir = s.dir ∧ (s.modPmc f).dirs = s.dirs ∧
    (s.modPmc f).groups = s.groups ∧ (s.modPmc f).tables = s.tables ∧ (s.modPmc f).refRecs = s.refRecs ∧ (s.modPmc f).mems =
    s.mems ∧ (s.modPmc f).engines = s.engines ∧ (s.modPmc f).chds = s.chds ∧ (s.modPmc f).disp = s.disp ∧ (s.modPmc f).xfers
    = s.xfers ∧ (s.modPmc f).hbmStk = s.hbmStk ∧ (s.modPmc f).repairs = s.repairs ∧ (s.modPmc f).repairRows = s.repairRows ∧
    (s.modPmc f).flss = s.flss ∧ (s.modPmc f).fmap = s.fmap ∧ (s.modPmc f).images = s.images ∧ (s.modPmc f).saved = s.saved ∧
    (s.modPmc f).journals = s.journals ∧ (s.modPmc f).elog = s.elog ∧ (s.modPmc f).cnt = s.cnt ∧ (s.modPmc f).keys = s.keys := by
  repeat' constructor

/-- What `modFw` leaves. -/
@[simp] theorem State.modFw_rest (s : State) (f : Fw → Fw) :
    (s.modFw f).pending = s.pending ∧ (s.modFw f).fresh = s.fresh ∧ (s.modFw f).out = s.out ∧ (s.modFw f).variantH =
    s.variantH ∧ (s.modFw f).stepB0 = s.stepB0 ∧ (s.modFw f).nextId = s.nextId ∧ (s.modFw f).nextKey = s.nextKey ∧ (s.modFw
    f).pmc = s.pmc ∧ (s.modFw f).hep = s.hep ∧ (s.modFw f).fns = s.fns ∧ (s.modFw f).ctxs = s.ctxs ∧ (s.modFw f).sealed =
    s.sealed ∧ (s.modFw f).regions = s.regions ∧ (s.modFw f).subs = s.subs ∧ (s.modFw f).seqs = s.seqs ∧ (s.modFw f).cmds =
    s.cmds ∧ (s.modFw f).ports = s.ports ∧ (s.modFw f).held = s.held ∧ (s.modFw f).leases = s.leases ∧ (s.modFw f).hbm =
    s.hbm ∧ (s.modFw f).staged = s.staged ∧ (s.modFw f).flash = s.flash ∧ (s.modFw f).wbuf = s.wbuf ∧ (s.modFw f).atoms =
    s.atoms ∧ (s.modFw f).qos = s.qos ∧ (s.modFw f).dir = s.dir ∧ (s.modFw f).dirs = s.dirs ∧ (s.modFw f).groups = s.groups ∧
    (s.modFw f).tables = s.tables ∧ (s.modFw f).refRecs = s.refRecs ∧ (s.modFw f).mems = s.mems ∧ (s.modFw f).engines =
    s.engines ∧ (s.modFw f).chds = s.chds ∧ (s.modFw f).disp = s.disp ∧ (s.modFw f).xfers = s.xfers ∧ (s.modFw f).hbmStk =
    s.hbmStk ∧ (s.modFw f).repairs = s.repairs ∧ (s.modFw f).repairRows = s.repairRows ∧ (s.modFw f).flss = s.flss ∧ (s.modFw
    f).fmap = s.fmap ∧ (s.modFw f).images = s.images ∧ (s.modFw f).saved = s.saved ∧ (s.modFw f).journals = s.journals ∧
    (s.modFw f).elog = s.elog ∧ (s.modFw f).cnt = s.cnt ∧ (s.modFw f).keys = s.keys := by
  repeat' constructor

/-- What `modHep` leaves. -/
@[simp] theorem State.modHep_rest (s : State) (f : Hep → Hep) :
    (s.modHep f).pending = s.pending ∧ (s.modHep f).fresh = s.fresh ∧ (s.modHep f).out = s.out ∧ (s.modHep f).variantH =
    s.variantH ∧ (s.modHep f).stepB0 = s.stepB0 ∧ (s.modHep f).nextId = s.nextId ∧ (s.modHep f).nextKey = s.nextKey ∧
    (s.modHep f).pmc = s.pmc ∧ (s.modHep f).fw = s.fw ∧ (s.modHep f).fns = s.fns ∧ (s.modHep f).ctxs = s.ctxs ∧ (s.modHep
    f).sealed = s.sealed ∧ (s.modHep f).regions = s.regions ∧ (s.modHep f).subs = s.subs ∧ (s.modHep f).seqs = s.seqs ∧
    (s.modHep f).cmds = s.cmds ∧ (s.modHep f).ports = s.ports ∧ (s.modHep f).held = s.held ∧ (s.modHep f).leases = s.leases ∧
    (s.modHep f).hbm = s.hbm ∧ (s.modHep f).staged = s.staged ∧ (s.modHep f).flash = s.flash ∧ (s.modHep f).wbuf = s.wbuf ∧
    (s.modHep f).atoms = s.atoms ∧ (s.modHep f).qos = s.qos ∧ (s.modHep f).dir = s.dir ∧ (s.modHep f).dirs = s.dirs ∧
    (s.modHep f).groups = s.groups ∧ (s.modHep f).tables = s.tables ∧ (s.modHep f).refRecs = s.refRecs ∧ (s.modHep f).mems =
    s.mems ∧ (s.modHep f).engines = s.engines ∧ (s.modHep f).chds = s.chds ∧ (s.modHep f).disp = s.disp ∧ (s.modHep f).xfers
    = s.xfers ∧ (s.modHep f).hbmStk = s.hbmStk ∧ (s.modHep f).repairs = s.repairs ∧ (s.modHep f).repairRows = s.repairRows ∧
    (s.modHep f).flss = s.flss ∧ (s.modHep f).fmap = s.fmap ∧ (s.modHep f).images = s.images ∧ (s.modHep f).saved = s.saved ∧
    (s.modHep f).journals = s.journals ∧ (s.modHep f).elog = s.elog ∧ (s.modHep f).cnt = s.cnt ∧ (s.modHep f).keys = s.keys := by
  repeat' constructor

/-- What `modCnt` leaves. -/
@[simp] theorem State.modCnt_rest (s : State) (f : Cnt → Cnt) :
    (s.modCnt f).pending = s.pending ∧ (s.modCnt f).fresh = s.fresh ∧ (s.modCnt f).out = s.out ∧ (s.modCnt f).variantH =
    s.variantH ∧ (s.modCnt f).stepB0 = s.stepB0 ∧ (s.modCnt f).nextId = s.nextId ∧ (s.modCnt f).nextKey = s.nextKey ∧
    (s.modCnt f).pmc = s.pmc ∧ (s.modCnt f).fw = s.fw ∧ (s.modCnt f).hep = s.hep ∧ (s.modCnt f).fns = s.fns ∧ (s.modCnt
    f).ctxs = s.ctxs ∧ (s.modCnt f).sealed = s.sealed ∧ (s.modCnt f).regions = s.regions ∧ (s.modCnt f).subs = s.subs ∧
    (s.modCnt f).seqs = s.seqs ∧ (s.modCnt f).cmds = s.cmds ∧ (s.modCnt f).ports = s.ports ∧ (s.modCnt f).held = s.held ∧
    (s.modCnt f).leases = s.leases ∧ (s.modCnt f).hbm = s.hbm ∧ (s.modCnt f).staged = s.staged ∧ (s.modCnt f).flash = s.flash
    ∧ (s.modCnt f).wbuf = s.wbuf ∧ (s.modCnt f).atoms = s.atoms ∧ (s.modCnt f).qos = s.qos ∧ (s.modCnt f).dir = s.dir ∧
    (s.modCnt f).dirs = s.dirs ∧ (s.modCnt f).groups = s.groups ∧ (s.modCnt f).tables = s.tables ∧ (s.modCnt f).refRecs =
    s.refRecs ∧ (s.modCnt f).mems = s.mems ∧ (s.modCnt f).engines = s.engines ∧ (s.modCnt f).chds = s.chds ∧ (s.modCnt
    f).disp = s.disp ∧ (s.modCnt f).xfers = s.xfers ∧ (s.modCnt f).hbmStk = s.hbmStk ∧ (s.modCnt f).repairs = s.repairs ∧
    (s.modCnt f).repairRows = s.repairRows ∧ (s.modCnt f).flss = s.flss ∧ (s.modCnt f).fmap = s.fmap ∧ (s.modCnt f).images =
    s.images ∧ (s.modCnt f).saved = s.saved ∧ (s.modCnt f).journals = s.journals ∧ (s.modCnt f).elog = s.elog ∧ (s.modCnt
    f).keys = s.keys := by
  repeat' constructor

/-- What `modQos` leaves. -/
@[simp] theorem State.modQos_rest (s : State) (f : Qos → Qos) :
    (s.modQos f).pending = s.pending ∧ (s.modQos f).fresh = s.fresh ∧ (s.modQos f).out = s.out ∧ (s.modQos f).variantH =
    s.variantH ∧ (s.modQos f).stepB0 = s.stepB0 ∧ (s.modQos f).nextId = s.nextId ∧ (s.modQos f).nextKey = s.nextKey ∧
    (s.modQos f).pmc = s.pmc ∧ (s.modQos f).fw = s.fw ∧ (s.modQos f).hep = s.hep ∧ (s.modQos f).fns = s.fns ∧ (s.modQos
    f).ctxs = s.ctxs ∧ (s.modQos f).sealed = s.sealed ∧ (s.modQos f).regions = s.regions ∧ (s.modQos f).subs = s.subs ∧
    (s.modQos f).seqs = s.seqs ∧ (s.modQos f).cmds = s.cmds ∧ (s.modQos f).ports = s.ports ∧ (s.modQos f).held = s.held ∧
    (s.modQos f).leases = s.leases ∧ (s.modQos f).hbm = s.hbm ∧ (s.modQos f).staged = s.staged ∧ (s.modQos f).flash = s.flash
    ∧ (s.modQos f).wbuf = s.wbuf ∧ (s.modQos f).atoms = s.atoms ∧ (s.modQos f).dir = s.dir ∧ (s.modQos f).dirs = s.dirs ∧
    (s.modQos f).groups = s.groups ∧ (s.modQos f).tables = s.tables ∧ (s.modQos f).refRecs = s.refRecs ∧ (s.modQos f).mems =
    s.mems ∧ (s.modQos f).engines = s.engines ∧ (s.modQos f).chds = s.chds ∧ (s.modQos f).disp = s.disp ∧ (s.modQos f).xfers
    = s.xfers ∧ (s.modQos f).hbmStk = s.hbmStk ∧ (s.modQos f).repairs = s.repairs ∧ (s.modQos f).repairRows = s.repairRows ∧
    (s.modQos f).flss = s.flss ∧ (s.modQos f).fmap = s.fmap ∧ (s.modQos f).images = s.images ∧ (s.modQos f).saved = s.saved ∧
    (s.modQos f).journals = s.journals ∧ (s.modQos f).elog = s.elog ∧ (s.modQos f).cnt = s.cnt ∧ (s.modQos f).keys = s.keys := by
  repeat' constructor

/-- What `modDisp` leaves. -/
@[simp] theorem State.modDisp_rest (s : State) (f : Dispatch → Dispatch) :
    (s.modDisp f).pending = s.pending ∧ (s.modDisp f).fresh = s.fresh ∧ (s.modDisp f).out = s.out ∧ (s.modDisp f).variantH =
    s.variantH ∧ (s.modDisp f).stepB0 = s.stepB0 ∧ (s.modDisp f).nextId = s.nextId ∧ (s.modDisp f).nextKey = s.nextKey ∧
    (s.modDisp f).pmc = s.pmc ∧ (s.modDisp f).fw = s.fw ∧ (s.modDisp f).hep = s.hep ∧ (s.modDisp f).fns = s.fns ∧ (s.modDisp
    f).ctxs = s.ctxs ∧ (s.modDisp f).sealed = s.sealed ∧ (s.modDisp f).regions = s.regions ∧ (s.modDisp f).subs = s.subs ∧
    (s.modDisp f).seqs = s.seqs ∧ (s.modDisp f).cmds = s.cmds ∧ (s.modDisp f).ports = s.ports ∧ (s.modDisp f).held = s.held ∧
    (s.modDisp f).leases = s.leases ∧ (s.modDisp f).hbm = s.hbm ∧ (s.modDisp f).staged = s.staged ∧ (s.modDisp f).flash =
    s.flash ∧ (s.modDisp f).wbuf = s.wbuf ∧ (s.modDisp f).atoms = s.atoms ∧ (s.modDisp f).qos = s.qos ∧ (s.modDisp f).dir =
    s.dir ∧ (s.modDisp f).dirs = s.dirs ∧ (s.modDisp f).groups = s.groups ∧ (s.modDisp f).tables = s.tables ∧ (s.modDisp
    f).refRecs = s.refRecs ∧ (s.modDisp f).mems = s.mems ∧ (s.modDisp f).engines = s.engines ∧ (s.modDisp f).chds = s.chds ∧
    (s.modDisp f).xfers = s.xfers ∧ (s.modDisp f).hbmStk = s.hbmStk ∧ (s.modDisp f).repairs = s.repairs ∧ (s.modDisp
    f).repairRows = s.repairRows ∧ (s.modDisp f).flss = s.flss ∧ (s.modDisp f).fmap = s.fmap ∧ (s.modDisp f).images =
    s.images ∧ (s.modDisp f).saved = s.saved ∧ (s.modDisp f).journals = s.journals ∧ (s.modDisp f).elog = s.elog ∧ (s.modDisp
    f).cnt = s.cnt ∧ (s.modDisp f).keys = s.keys := by
  repeat' constructor

/-- What `modElog` leaves. -/
@[simp] theorem State.modElog_rest (s : State) (f : Elog → Elog) :
    (s.modElog f).pending = s.pending ∧ (s.modElog f).fresh = s.fresh ∧ (s.modElog f).out = s.out ∧ (s.modElog f).variantH =
    s.variantH ∧ (s.modElog f).stepB0 = s.stepB0 ∧ (s.modElog f).nextId = s.nextId ∧ (s.modElog f).nextKey = s.nextKey ∧
    (s.modElog f).pmc = s.pmc ∧ (s.modElog f).fw = s.fw ∧ (s.modElog f).hep = s.hep ∧ (s.modElog f).fns = s.fns ∧ (s.modElog
    f).ctxs = s.ctxs ∧ (s.modElog f).sealed = s.sealed ∧ (s.modElog f).regions = s.regions ∧ (s.modElog f).subs = s.subs ∧
    (s.modElog f).seqs = s.seqs ∧ (s.modElog f).cmds = s.cmds ∧ (s.modElog f).ports = s.ports ∧ (s.modElog f).held = s.held ∧
    (s.modElog f).leases = s.leases ∧ (s.modElog f).hbm = s.hbm ∧ (s.modElog f).staged = s.staged ∧ (s.modElog f).flash =
    s.flash ∧ (s.modElog f).wbuf = s.wbuf ∧ (s.modElog f).atoms = s.atoms ∧ (s.modElog f).qos = s.qos ∧ (s.modElog f).dir =
    s.dir ∧ (s.modElog f).dirs = s.dirs ∧ (s.modElog f).groups = s.groups ∧ (s.modElog f).tables = s.tables ∧ (s.modElog
    f).refRecs = s.refRecs ∧ (s.modElog f).mems = s.mems ∧ (s.modElog f).engines = s.engines ∧ (s.modElog f).chds = s.chds ∧
    (s.modElog f).disp = s.disp ∧ (s.modElog f).xfers = s.xfers ∧ (s.modElog f).hbmStk = s.hbmStk ∧ (s.modElog f).repairs =
    s.repairs ∧ (s.modElog f).repairRows = s.repairRows ∧ (s.modElog f).flss = s.flss ∧ (s.modElog f).fmap = s.fmap ∧
    (s.modElog f).images = s.images ∧ (s.modElog f).saved = s.saved ∧ (s.modElog f).journals = s.journals ∧ (s.modElog f).cnt
    = s.cnt ∧ (s.modElog f).keys = s.keys := by
  repeat' constructor

/-- What `modHbm` leaves. -/
@[simp] theorem State.modHbm_rest (s : State) (f : Store → Store) :
    (s.modHbm f).pending = s.pending ∧ (s.modHbm f).fresh = s.fresh ∧ (s.modHbm f).out = s.out ∧ (s.modHbm f).variantH =
    s.variantH ∧ (s.modHbm f).stepB0 = s.stepB0 ∧ (s.modHbm f).nextId = s.nextId ∧ (s.modHbm f).nextKey = s.nextKey ∧
    (s.modHbm f).pmc = s.pmc ∧ (s.modHbm f).fw = s.fw ∧ (s.modHbm f).hep = s.hep ∧ (s.modHbm f).fns = s.fns ∧ (s.modHbm
    f).ctxs = s.ctxs ∧ (s.modHbm f).sealed = s.sealed ∧ (s.modHbm f).regions = s.regions ∧ (s.modHbm f).subs = s.subs ∧
    (s.modHbm f).seqs = s.seqs ∧ (s.modHbm f).cmds = s.cmds ∧ (s.modHbm f).ports = s.ports ∧ (s.modHbm f).held = s.held ∧
    (s.modHbm f).leases = s.leases ∧ (s.modHbm f).staged = s.staged ∧ (s.modHbm f).flash = s.flash ∧ (s.modHbm f).wbuf =
    s.wbuf ∧ (s.modHbm f).atoms = s.atoms ∧ (s.modHbm f).qos = s.qos ∧ (s.modHbm f).dir = s.dir ∧ (s.modHbm f).dirs = s.dirs
    ∧ (s.modHbm f).groups = s.groups ∧ (s.modHbm f).tables = s.tables ∧ (s.modHbm f).refRecs = s.refRecs ∧ (s.modHbm f).mems
    = s.mems ∧ (s.modHbm f).engines = s.engines ∧ (s.modHbm f).chds = s.chds ∧ (s.modHbm f).disp = s.disp ∧ (s.modHbm
    f).xfers = s.xfers ∧ (s.modHbm f).hbmStk = s.hbmStk ∧ (s.modHbm f).repairs = s.repairs ∧ (s.modHbm f).repairRows =
    s.repairRows ∧ (s.modHbm f).flss = s.flss ∧ (s.modHbm f).fmap = s.fmap ∧ (s.modHbm f).images = s.images ∧ (s.modHbm
    f).saved = s.saved ∧ (s.modHbm f).journals = s.journals ∧ (s.modHbm f).elog = s.elog ∧ (s.modHbm f).cnt = s.cnt ∧
    (s.modHbm f).keys = s.keys := by
  repeat' constructor

/-- What `setRegion` leaves. -/
@[simp] theorem State.setRegion_rest (s : State) (i : Nat) (r : Region) :
    (s.setRegion i r).pending = s.pending ∧ (s.setRegion i r).fresh = s.fresh ∧ (s.setRegion i r).out = s.out ∧ (s.setRegion
    i r).variantH = s.variantH ∧ (s.setRegion i r).stepB0 = s.stepB0 ∧ (s.setRegion i r).nextId = s.nextId ∧ (s.setRegion i
    r).nextKey = s.nextKey ∧ (s.setRegion i r).pmc = s.pmc ∧ (s.setRegion i r).fw = s.fw ∧ (s.setRegion i r).hep = s.hep ∧
    (s.setRegion i r).fns = s.fns ∧ (s.setRegion i r).ctxs = s.ctxs ∧ (s.setRegion i r).sealed = s.sealed ∧ (s.setRegion i
    r).subs = s.subs ∧ (s.setRegion i r).seqs = s.seqs ∧ (s.setRegion i r).cmds = s.cmds ∧ (s.setRegion i r).ports = s.ports
    ∧ (s.setRegion i r).held = s.held ∧ (s.setRegion i r).leases = s.leases ∧ (s.setRegion i r).hbm = s.hbm ∧ (s.setRegion i
    r).staged = s.staged ∧ (s.setRegion i r).flash = s.flash ∧ (s.setRegion i r).wbuf = s.wbuf ∧ (s.setRegion i r).atoms =
    s.atoms ∧ (s.setRegion i r).qos = s.qos ∧ (s.setRegion i r).dir = s.dir ∧ (s.setRegion i r).dirs = s.dirs ∧ (s.setRegion
    i r).groups = s.groups ∧ (s.setRegion i r).tables = s.tables ∧ (s.setRegion i r).refRecs = s.refRecs ∧ (s.setRegion i
    r).mems = s.mems ∧ (s.setRegion i r).engines = s.engines ∧ (s.setRegion i r).chds = s.chds ∧ (s.setRegion i r).disp =
    s.disp ∧ (s.setRegion i r).xfers = s.xfers ∧ (s.setRegion i r).hbmStk = s.hbmStk ∧ (s.setRegion i r).repairs = s.repairs
    ∧ (s.setRegion i r).repairRows = s.repairRows ∧ (s.setRegion i r).flss = s.flss ∧ (s.setRegion i r).fmap = s.fmap ∧
    (s.setRegion i r).images = s.images ∧ (s.setRegion i r).saved = s.saved ∧ (s.setRegion i r).journals = s.journals ∧
    (s.setRegion i r).elog = s.elog ∧ (s.setRegion i r).cnt = s.cnt ∧ (s.setRegion i r).keys = s.keys := by
  repeat' constructor

/-- What `modCmd` leaves. -/
@[simp] theorem State.modCmd_rest (s : State) (i : Nat) (f : Cmd → Cmd) :
    (s.modCmd i f).pending = s.pending ∧ (s.modCmd i f).fresh = s.fresh ∧ (s.modCmd i f).out = s.out ∧ (s.modCmd i
    f).variantH = s.variantH ∧ (s.modCmd i f).stepB0 = s.stepB0 ∧ (s.modCmd i f).nextId = s.nextId ∧ (s.modCmd i f).nextKey =
    s.nextKey ∧ (s.modCmd i f).pmc = s.pmc ∧ (s.modCmd i f).fw = s.fw ∧ (s.modCmd i f).hep = s.hep ∧ (s.modCmd i f).fns =
    s.fns ∧ (s.modCmd i f).ctxs = s.ctxs ∧ (s.modCmd i f).sealed = s.sealed ∧ (s.modCmd i f).regions = s.regions ∧ (s.modCmd
    i f).subs = s.subs ∧ (s.modCmd i f).seqs = s.seqs ∧ (s.modCmd i f).ports = s.ports ∧ (s.modCmd i f).held = s.held ∧
    (s.modCmd i f).leases = s.leases ∧ (s.modCmd i f).hbm = s.hbm ∧ (s.modCmd i f).staged = s.staged ∧ (s.modCmd i f).flash =
    s.flash ∧ (s.modCmd i f).wbuf = s.wbuf ∧ (s.modCmd i f).atoms = s.atoms ∧ (s.modCmd i f).qos = s.qos ∧ (s.modCmd i f).dir
    = s.dir ∧ (s.modCmd i f).dirs = s.dirs ∧ (s.modCmd i f).groups = s.groups ∧ (s.modCmd i f).tables = s.tables ∧ (s.modCmd
    i f).refRecs = s.refRecs ∧ (s.modCmd i f).mems = s.mems ∧ (s.modCmd i f).engines = s.engines ∧ (s.modCmd i f).chds =
    s.chds ∧ (s.modCmd i f).disp = s.disp ∧ (s.modCmd i f).xfers = s.xfers ∧ (s.modCmd i f).hbmStk = s.hbmStk ∧ (s.modCmd i
    f).repairs = s.repairs ∧ (s.modCmd i f).repairRows = s.repairRows ∧ (s.modCmd i f).flss = s.flss ∧ (s.modCmd i f).fmap =
    s.fmap ∧ (s.modCmd i f).images = s.images ∧ (s.modCmd i f).saved = s.saved ∧ (s.modCmd i f).journals = s.journals ∧
    (s.modCmd i f).elog = s.elog ∧ (s.modCmd i f).cnt = s.cnt ∧ (s.modCmd i f).keys = s.keys := by
  repeat' constructor

/-- What `modRun` leaves. -/
@[simp] theorem State.modRun_rest (s : State) (i : Nat) (f : Run → Run) :
    (s.modRun i f).pending = s.pending ∧ (s.modRun i f).fresh = s.fresh ∧ (s.modRun i f).out = s.out ∧ (s.modRun i
    f).variantH = s.variantH ∧ (s.modRun i f).stepB0 = s.stepB0 ∧ (s.modRun i f).nextId = s.nextId ∧ (s.modRun i f).nextKey =
    s.nextKey ∧ (s.modRun i f).pmc = s.pmc ∧ (s.modRun i f).fw = s.fw ∧ (s.modRun i f).hep = s.hep ∧ (s.modRun i f).fns =
    s.fns ∧ (s.modRun i f).ctxs = s.ctxs ∧ (s.modRun i f).sealed = s.sealed ∧ (s.modRun i f).regions = s.regions ∧ (s.modRun
    i f).subs = s.subs ∧ (s.modRun i f).seqs = s.seqs ∧ (s.modRun i f).cmds = s.cmds ∧ (s.modRun i f).ports = s.ports ∧
    (s.modRun i f).held = s.held ∧ (s.modRun i f).leases = s.leases ∧ (s.modRun i f).hbm = s.hbm ∧ (s.modRun i f).staged =
    s.staged ∧ (s.modRun i f).flash = s.flash ∧ (s.modRun i f).wbuf = s.wbuf ∧ (s.modRun i f).atoms = s.atoms ∧ (s.modRun i
    f).qos = s.qos ∧ (s.modRun i f).dir = s.dir ∧ (s.modRun i f).dirs = s.dirs ∧ (s.modRun i f).groups = s.groups ∧ (s.modRun
    i f).tables = s.tables ∧ (s.modRun i f).refRecs = s.refRecs ∧ (s.modRun i f).mems = s.mems ∧ (s.modRun i f).engines =
    s.engines ∧ (s.modRun i f).chds = s.chds ∧ (s.modRun i f).xfers = s.xfers ∧ (s.modRun i f).hbmStk = s.hbmStk ∧ (s.modRun
    i f).repairs = s.repairs ∧ (s.modRun i f).repairRows = s.repairRows ∧ (s.modRun i f).flss = s.flss ∧ (s.modRun i f).fmap
    = s.fmap ∧ (s.modRun i f).images = s.images ∧ (s.modRun i f).saved = s.saved ∧ (s.modRun i f).journals = s.journals ∧
    (s.modRun i f).elog = s.elog ∧ (s.modRun i f).cnt = s.cnt ∧ (s.modRun i f).keys = s.keys := by
  repeat' constructor

/-- What `modXfer` leaves. -/
@[simp] theorem State.modXfer_rest (s : State) (i : Nat) (f : Xfer → Xfer) :
    (s.modXfer i f).pending = s.pending ∧ (s.modXfer i f).fresh = s.fresh ∧ (s.modXfer i f).out = s.out ∧ (s.modXfer i
    f).variantH = s.variantH ∧ (s.modXfer i f).stepB0 = s.stepB0 ∧ (s.modXfer i f).nextId = s.nextId ∧ (s.modXfer i
    f).nextKey = s.nextKey ∧ (s.modXfer i f).pmc = s.pmc ∧ (s.modXfer i f).fw = s.fw ∧ (s.modXfer i f).hep = s.hep ∧
    (s.modXfer i f).fns = s.fns ∧ (s.modXfer i f).ctxs = s.ctxs ∧ (s.modXfer i f).sealed = s.sealed ∧ (s.modXfer i f).regions
    = s.regions ∧ (s.modXfer i f).subs = s.subs ∧ (s.modXfer i f).seqs = s.seqs ∧ (s.modXfer i f).cmds = s.cmds ∧ (s.modXfer
    i f).ports = s.ports ∧ (s.modXfer i f).held = s.held ∧ (s.modXfer i f).leases = s.leases ∧ (s.modXfer i f).hbm = s.hbm ∧
    (s.modXfer i f).staged = s.staged ∧ (s.modXfer i f).flash = s.flash ∧ (s.modXfer i f).wbuf = s.wbuf ∧ (s.modXfer i
    f).atoms = s.atoms ∧ (s.modXfer i f).qos = s.qos ∧ (s.modXfer i f).dir = s.dir ∧ (s.modXfer i f).dirs = s.dirs ∧
    (s.modXfer i f).groups = s.groups ∧ (s.modXfer i f).tables = s.tables ∧ (s.modXfer i f).refRecs = s.refRecs ∧ (s.modXfer
    i f).mems = s.mems ∧ (s.modXfer i f).engines = s.engines ∧ (s.modXfer i f).chds = s.chds ∧ (s.modXfer i f).disp = s.disp
    ∧ (s.modXfer i f).hbmStk = s.hbmStk ∧ (s.modXfer i f).repairs = s.repairs ∧ (s.modXfer i f).repairRows = s.repairRows ∧
    (s.modXfer i f).flss = s.flss ∧ (s.modXfer i f).fmap = s.fmap ∧ (s.modXfer i f).images = s.images ∧ (s.modXfer i f).saved
    = s.saved ∧ (s.modXfer i f).journals = s.journals ∧ (s.modXfer i f).elog = s.elog ∧ (s.modXfer i f).cnt = s.cnt ∧
    (s.modXfer i f).keys = s.keys := by
  repeat' constructor

@[simp] theorem State.emit_set (s : State) (o : Out) : (s.emit o).out = o :: s.out := rfl

@[simp] theorem State.takeFree_set (s : State) : s.takeFree.2.fresh = s.fresh + 1 := rfl

@[simp] theorem State.takeFree_value_set (s : State) : s.takeFree.1 = Config.free s.fresh := rfl

@[simp] theorem State.takeId_set (s : State) : s.takeId.2.nextId = s.nextId + 1 := rfl

@[simp] theorem State.takeId_value_set (s : State) : s.takeId.1 = s.nextId := rfl

@[simp] theorem State.takeKey_set (s : State) : s.takeKey.2.nextKey = s.nextKey + 1 := rfl

@[simp] theorem State.loadKey_set (s : State) (slot key : Nat) : (s.loadKey slot key).keys = tput 0 s.keys slot key := rfl

@[simp] theorem State.takeKey_value_set (s : State) : s.takeKey.1 = s.nextKey := rfl

@[simp] theorem State.modPmc_set (s : State) (f : Pmc → Pmc) : (s.modPmc f).pmc = f s.pmc := rfl

@[simp] theorem State.modFw_set (s : State) (f : Fw → Fw) : (s.modFw f).fw = f s.fw := rfl

@[simp] theorem State.modHep_set (s : State) (f : Hep → Hep) : (s.modHep f).hep = f s.hep := rfl

@[simp] theorem State.modCnt_set (s : State) (f : Cnt → Cnt) : (s.modCnt f).cnt = f s.cnt := rfl

@[simp] theorem State.modQos_set (s : State) (f : Qos → Qos) : (s.modQos f).qos = f s.qos := rfl

@[simp] theorem State.modDisp_set (s : State) (f : Dispatch → Dispatch) : (s.modDisp f).disp = f s.disp := rfl

@[simp] theorem State.modElog_set (s : State) (f : Elog → Elog) : (s.modElog f).elog = f s.elog := rfl

@[simp] theorem State.modHbm_set (s : State) (f : Store → Store) : (s.modHbm f).hbm = f s.hbm := rfl

@[simp] theorem State.setRegion_set (s : State) (i : Nat) (r : Region) : (s.setRegion i r).regions = tset s.regions i r := rfl

@[simp] theorem State.modCmd_set (s : State) (i : Nat) (f : Cmd → Cmd) : (s.modCmd i f).cmds = s.cmds.map fun c => if c.id == i then f c else c := rfl

@[simp] theorem State.modXfer_set (s : State) (i : Nat) (f : Xfer → Xfer) : (s.modXfer i f).xfers = s.xfers.map fun x => if x.id == i then f x else x := rfl

@[simp] theorem State.modRun_set (s : State) (i : Nat) (f : Run → Run) : (s.modRun i f).disp = { s.disp with runs := s.disp.runs.map fun r => if r.id == i then f r else r } := rfl

/-- A read of `fns` after a change of one entry. -/
@[simp] theorem State.fn_modFn (s : State) (n m : Nat) (f : Fn → Fn) :
    (s.modFn n f).fn m = if m = n then f (s.fn n) else s.fn m := tget_tmod ..

/-- A read of `ctxs` after a change of one entry. -/
@[simp] theorem State.ctx_modCtx (s : State) (n m : Nat) (f : Ctx → Ctx) :
    (s.modCtx n f).ctx m = if m = n then f (s.ctx n) else s.ctx m := tget_tmod ..

/-- A read of `ports` after a change of one entry. -/
@[simp] theorem State.port_modPort (s : State) (n m : Nat) (f : Port → Port) :
    (s.modPort n f).port m = if m = n then f (s.port n) else s.port m := tget_tmod ..

/-- A read of `dir` after a change of one entry. -/
@[simp] theorem State.ent_modEnt (s : State) (n m : Nat) (f : DirEnt → DirEnt) :
    (s.modEnt n f).ent m = if m = n then f (s.ent n) else s.ent m := tget_tmod ..

/-- A read of `dirs` after a change of one entry. -/
@[simp] theorem State.dirDie_modDir (s : State) (n m : Nat) (f : Dir → Dir) :
    (s.modDir n f).dirDie m = if m = n then f (s.dirDie n) else s.dirDie m := tget_tmod ..

/-- A read of `hbmStk` after a change of one entry. -/
@[simp] theorem State.stack_modStack (s : State) (n m : Nat) (f : Stack → Stack) :
    (s.modStack n f).stack m = if m = n then f (s.stack n) else s.stack m := tget_tmod ..

/-- A read of `flss` after a change of one entry. -/
@[simp] theorem State.fls_modFls (s : State) (n m : Nat) (f : Fls → Fls) :
    (s.modFls n f).fls m = if m = n then f (s.fls n) else s.fls m := tget_tmod ..

/-- A read of `mems` after a change of one entry. -/
@[simp] theorem State.mem_modMem (s : State) (n m : Nat) (f : MemDie → MemDie) :
    (s.modMem n f).mem m = if m = n then f (s.mem n) else s.mem m := tget_tmod ..

/-- A read of `engines` after a change of one entry. -/
@[simp] theorem State.engine_modEngine (s : State) (n m : Nat) (f : Engine → Engine) :
    (s.modEngine n f).engine m = if m = n then f (s.engine n) else s.engine m := tget_tmod ..

/-- A read of `chds` after a change of one entry. -/
@[simp] theorem State.chd_modChd (s : State) (n m : Nat) (f : ChdDie → ChdDie) :
    (s.modChd n f).chd m = if m = n then f (s.chd n) else s.chd m := tget_tmod ..

/-- A read of `tables` after a change of one entry. -/
@[simp] theorem State.table_modTable (s : State) (n m : Nat) (f : TableSlot → TableSlot) :
    (s.modTable n f).table m = if m = n then f (s.table n) else s.table m := tget_tmod ..

@[simp] theorem State.proc_modProc (s : State) (n m : Nat) (f : Proc → Proc) :
    (s.modProc n f).proc m = if m = n then f (s.proc n) else s.proc m := tget_tmod ..

@[simp] theorem State.regulator_modReg (s : State) (n m : Nat) (f : Regulator → Regulator) :
    (s.modReg n f).regulator m = if m = n then f (s.regulator n) else s.regulator m := tget_tmod ..

theorem State.group_modGroup (s : State) (r g q h : Nat) (f : Group → Group) :
    (s.modGroup r g f).group q h = if 65536 * q + h = 65536 * r + g then f (s.group r g) else s.group q h := tget_tmod ..

@[simp] theorem State.region?_setRegion (s : State) (i : Nat) (r : Region) : (s.setRegion i r).region? i = some r :=
  tfind?_tset_self ..

theorem State.region?_setRegion_ne (s : State) (i j : Nat) (r : Region) (h : j ≠ i) :
    (s.setRegion i r).region? j = s.region? j := tfind?_tset_ne _ _ _ _ h

/-- Reads of `fns` agree where the table does. -/
theorem Frame.fn {l : List Piece} {s t : State} (h : Frame l s t) (hl : l.contains .fns = false) (n : Nat) :
    t.fn n = s.fn n := by
  have := h.same .fns hl
  simp only [Piece.same] at this
  simp only [State.fn, this]

/-- Reads of `ctxs` agree where the table does. -/
theorem Frame.ctx {l : List Piece} {s t : State} (h : Frame l s t) (hl : l.contains .ctxs = false) (n : Nat) :
    t.ctx n = s.ctx n := by
  have := h.same .ctxs hl
  simp only [Piece.same] at this
  simp only [State.ctx, this]

/-- Reads of `ports` agree where the table does. -/
theorem Frame.port {l : List Piece} {s t : State} (h : Frame l s t) (hl : l.contains .ports = false) (n : Nat) :
    t.port n = s.port n := by
  have := h.same .ports hl
  simp only [Piece.same] at this
  simp only [State.port, this]

/-- Reads of `dir` agree where the table does. -/
theorem Frame.ent {l : List Piece} {s t : State} (h : Frame l s t) (hl : l.contains .dir = false) (n : Nat) :
    t.ent n = s.ent n := by
  have := h.same .dir hl
  simp only [Piece.same] at this
  simp only [State.ent, this]

/-- Reads of `dirs` agree where the table does. -/
theorem Frame.dirDie {l : List Piece} {s t : State} (h : Frame l s t) (hl : l.contains .dirs = false) (n : Nat) :
    t.dirDie n = s.dirDie n := by
  have := h.same .dirs hl
  simp only [Piece.same] at this
  simp only [State.dirDie, this]

/-- Reads of `hbmStk` agree where the table does. -/
theorem Frame.stack {l : List Piece} {s t : State} (h : Frame l s t) (hl : l.contains .hbmStk = false) (n : Nat) :
    t.stack n = s.stack n := by
  have := h.same .hbmStk hl
  simp only [Piece.same] at this
  simp only [State.stack, this]

/-- Reads of `flss` agree where the table does. -/
theorem Frame.fls {l : List Piece} {s t : State} (h : Frame l s t) (hl : l.contains .flss = false) (n : Nat) :
    t.fls n = s.fls n := by
  have := h.same .flss hl
  simp only [Piece.same] at this
  simp only [State.fls, this]

/-- Reads of `mems` agree where the table does. -/
theorem Frame.mem {l : List Piece} {s t : State} (h : Frame l s t) (hl : l.contains .mems = false) (n : Nat) :
    t.mem n = s.mem n := by
  have := h.same .mems hl
  simp only [Piece.same] at this
  simp only [State.mem, this]

/-- Reads of `engines` agree where the table does. -/
theorem Frame.engine {l : List Piece} {s t : State} (h : Frame l s t) (hl : l.contains .engines = false) (n : Nat) :
    t.engine n = s.engine n := by
  have := h.same .engines hl
  simp only [Piece.same] at this
  simp only [State.engine, this]

/-- Reads of `chds` agree where the table does. -/
theorem Frame.chd {l : List Piece} {s t : State} (h : Frame l s t) (hl : l.contains .chds = false) (n : Nat) :
    t.chd n = s.chd n := by
  have := h.same .chds hl
  simp only [Piece.same] at this
  simp only [State.chd, this]

/-- Reads of `tables` agree where the table does. -/
theorem Frame.table {l : List Piece} {s t : State} (h : Frame l s t) (hl : l.contains .tables = false) (n : Nat) :
    t.table n = s.table n := by
  have := h.same .tables hl
  simp only [Piece.same] at this
  simp only [State.table, this]

/-- Reads of `refRecs` agree where the table does. -/
theorem Frame.refRec {l : List Piece} {s t : State} (h : Frame l s t) (hl : l.contains .refRecs = false) (n : Nat) :
    t.refRec n = s.refRec n := by
  have := h.same .refRecs hl
  simp only [Piece.same] at this
  simp only [State.refRec, this]

/-- Reads of `regions` agree where the table does. -/
theorem Frame.region_ {l : List Piece} {s t : State} (h : Frame l s t) (hl : l.contains .regions = false) (n : Nat) :
    t.region? n = s.region? n := by
  have := h.same .regions hl
  simp only [Piece.same] at this
  simp only [State.region?, this]

end Sys2Proof.Machine
end

