-- ==== Sys2Proof/Laws/Keeps.lean ====
section
/-!
SUPPORT. How what every operation keeps composes: the canonical form of the stored data, the credits of an account (R60) and
the places of a refusal buffer (R62).
-/

namespace Sys2Proof.Machine

set_option maxRecDepth 2000
set_option Elab.async false

/-- What a change keeps. -/
structure Keeps (s t : State) : Prop where
  mem     : s.memWf → t.memWf
  credits : s.credits → t.credits
  buffer  : s.bufferOk → t.bufferOk

theorem Keeps.refl (s : State) : Keeps s s := ⟨id, id, id⟩

theorem Keeps.trans {s t u : State} (h : Keeps s t) (k : Keeps t u) : Keeps s u :=
  ⟨fun x => k.mem (h.mem x), fun x => k.credits (h.credits x), fun x => k.buffer (h.buffer x)⟩

theorem Keeps.step {s t u : State} (k : Keeps t u) (h : Keeps s t) : Keeps s u := h.trans k

/-- A change that touches no stored data, no command and no ring. -/
theorem Keeps.ofFrame {l : List Piece} {s t : State} (h : Frame l s t)
    (hl : (l.all fun f => [.pending, .fresh, .out, .variantH, .stepB0, .nextId, .nextKey, .pmc, .fw, .hep, .ctxs, .sealed,
      .regions, .subs, .seqs, .ports, .held, .leases, .wbuf, .atoms, .qos, .dir, .dirs, .groups, .tables, .refRecs, .mems,
      .engines, .chds, .disp, .xfers, .hbmStk, .repairs, .repairRows, .flss, .fmap, .images, .elog, .cnt, .keys].contains f) = true) :
    Keeps s t := by
  have k := h.mono hl
  have a := k.same .hbm rfl
  have b := k.same .staged rfl
  have c := k.same .flash rfl
  have d := k.same .saved rfl
  have j := k.same .journals rfl
  have e := k.same .cmds rfl
  have f := k.same .fns rfl
  simp only [Piece.same] at a b c d e f j
  refine ⟨fun x => ?_, fun x acct => ?_, fun x fn => ?_⟩
  · unfold State.memWf at *; rw [a, b, c, d, j]; exact x
  · have := x acct; unfold State.outstanding at *; rw [e]; exact this
  · have := x fn; unfold State.refusals State.fn at *; rw [f]; exact this

theorem Keeps.stepFrame {l : List Piece} {s t u : State} (k : Frame l t u)
    (hl : (l.all fun f => [.pending, .fresh, .out, .variantH, .stepB0, .nextId, .nextKey, .pmc, .fw, .hep, .ctxs, .sealed,
      .regions, .subs, .seqs, .ports, .held, .leases, .wbuf, .atoms, .qos, .dir, .dirs, .groups, .tables, .refRecs, .mems,
      .engines, .chds, .disp, .xfers, .hbmStk, .repairs, .repairRows, .flss, .fmap, .images, .elog, .cnt, .keys].contains f) = true)
    (h : Keeps s t) : Keeps s u := h.trans (Keeps.ofFrame k hl)

theorem Keeps.ofPair {α : Type} {s t : State} {x : α × State} {a : α} (h : x = (a, t)) (k : Keeps s x.2) : Keeps s t := by
  subst h; exact k

theorem Keeps.each {α : Type} (xs : List α) (f : State → α → State) (h : ∀ s a, Keeps s (f s a)) (s : State) :
    Keeps s (s.each xs f) := by
  unfold State.each
  induction xs generalizing s with
  | nil => exact Keeps.refl s
  | cons a xs ih => exact (h s a).trans (ih (f s a))

theorem Keeps.eachTrans {α : Type} {s t : State} {xs : List α} {f : State → α → State} (k : Keeps s t)
    (h : ∀ s a, Keeps s (f s a)) : Keeps s (t.each xs f) := k.trans (Keeps.each xs f h t)

theorem Keeps.foldTrans {α β : Type} {s : State} {xs : List α} {f : β × State → α → β × State} {acc : β × State}
    (k : Keeps s acc.2) (h : ∀ (a : β × State) (x : α), Keeps a.2 (f a x).2) : Keeps s (xs.foldl f acc).2 := by
  induction xs generalizing acc with
  | nil => exact k
  | cons x xs ih => exact ih (k.trans (h acc x))

theorem Keeps.foldlTrans {α : Type} {s t : State} {xs : List α} {f : State → α → State} (k : Keeps s t)
    (h : ∀ s a, Keeps s (f s a)) : Keeps s (xs.foldl f t) := k.trans (Keeps.each xs f h t)

theorem Keeps.ite {c : Prop} [Decidable c] {s t u : State} (ht : Keeps s t) (hu : Keeps s u) : Keeps s (if c then t else u) := by
  split
  · exact ht
  · exact hu

theorem Keeps.iteSnd {α : Type} {c : Prop} [Decidable c] {s : State} {x y : α × State} (hx : Keeps s x.2) (hy : Keeps s y.2) :
    Keeps s (if c then x else y).2 := by
  split
  · exact hx
  · exact hy

theorem Keeps.iteRun {α : Type} {c : Prop} [Decidable c] {s t : State} {x y : State → α × State} (hx : Keeps s (x t).2)
    (hy : Keeps s (y t).2) : Keeps s ((if c then x else y) t).2 := by
  split
  · exact hx
  · exact hy

/-! ## The operations that touch the stored data, the commands and the rings -/

theorem State.modHbm_keeps (s : State) (f : Store → Store)
    (hf : Memory.wf s.hbm.mem = true → Memory.wf s.flash.mem = true → Memory.wf (f s.hbm).mem = true) :
    Keeps s (s.modHbm f) :=
  ⟨fun x => ⟨hf x.1 x.2.2.1, x.2.1, x.2.2.1, x.2.2.2⟩, id, id⟩

/-- Changes of the stored data alone, each in canonical form. -/
theorem Keeps.ofStore {s t : State} (h : s.memWf → t.memWf) (hc : t.cmds = s.cmds) (hf : t.fns = s.fns) : Keeps s t := by
  refine ⟨h, fun x acct => ?_, fun x fn => ?_⟩
  · have := x acct; unfold State.outstanding at *; rw [hc]; exact this
  · have := x fn; unfold State.refusals State.fn at *; rw [hf]; exact this

/-- A change of the commands that raises no account. -/
theorem Keeps.ofCmds {s t : State} (h : ∀ acct, t.outstanding acct ≤ s.outstanding acct) (hm : s.memWf → t.memWf)
    (hf : t.fns = s.fns) : Keeps s t := by
  refine ⟨hm, fun x acct => Nat.le_trans (h acct) (x acct), fun x fn => ?_⟩
  have := x fn; unfold State.refusals State.fn at *; rw [hf]; exact this

theorem Keeps.filterCmds (s : State) (p : Cmd → Bool) : Keeps s { s with cmds := s.cmds.filter p } := by
  refine Keeps.ofCmds (fun acct => ?_) id rfl
  unfold State.outstanding
  show ((s.cmds.filter p).filter _).length ≤ _
  rw [List.filter_filter]
  have : (fun c : Cmd => c.acct == acct && p c) = fun c => p c && (c.acct == acct) := by funext c; exact Bool.and_comm ..
  rw [this, ← List.filter_filter]
  exact List.length_filter_le ..

theorem outstanding_map (l : List Cmd) (f : Cmd → Cmd) (hf : ∀ c, (f c).acct = c.acct) (acct : Nat) :
    ((l.map f).filter fun c => c.acct == acct).length = (l.filter fun c => c.acct == acct).length := by
  induction l with
  | nil => rfl
  | cons c t ih => simp only [List.map_cons, List.filter_cons, hf]; split <;> simp [ih]

theorem Keeps.mapCmds (s : State) (f : Cmd → Cmd) (hf : ∀ c, (f c).acct = c.acct) : Keeps s { s with cmds := s.cmds.map f } := by
  refine Keeps.ofCmds (fun acct => ?_) id rfl
  unfold State.outstanding
  exact Nat.le_of_eq (outstanding_map _ _ hf acct)

theorem State.modCmd_keeps (s : State) (id : Nat) (f : Cmd → Cmd) (hf : ∀ c, (f c).acct = c.acct) : Keeps s (s.modCmd id f) := by
  apply Keeps.mapCmds
  intro c
  split
  · exact hf c
  · rfl

theorem State.dropCmds_keeps (s : State) (p : Cmd → Bool) : Keeps s (s.dropCmds p) := Keeps.filterCmds s _

/-- A change of one function that keeps its held replies. -/
theorem Keeps.modFnLe (s : State) (n : Nat) (f : Fn → Fn)
    (hf : ((f (s.fn n)).ring.held.filter fun r => r.cmd.isNone).length ≤ max 256 (s.refusals n)) :
    Keeps s (s.modFn n f) := by
  refine ⟨id, id, fun x fn => ?_⟩
  have hx := x fn
  have hn := x n
  unfold State.refusals at *
  rw [State.fn_modFn]
  split
  · omega
  · exact hx

theorem State.modFn_keeps (s : State) (n : Nat) (f : Fn → Fn) (hf : ∀ g, (f g).ring.held = g.ring.held) : Keeps s (s.modFn n f) := by
  apply Keeps.modFnLe
  rw [hf]
  unfold State.refusals
  omega

/-! ### The counters of a reply's way to its function (R16, R62) -/

/-- A change that leaves the functions leaves their refusal buffers. -/
theorem Frame.refusals {l : List Piece} {s t : State} (h : Frame l s t) (hl : l.contains .fns = false) (fn : Nat) :
    t.refusals fn = s.refusals fn := by
  have := h.same .fns hl
  simp only [Piece.same] at this
  unfold State.refusals State.fn
  rw [this]

theorem State.modFn_refusals (s : State) (n : Nat) (f : Fn → Fn) (hf : ∀ g, (f g).ring.held = g.ring.held) (fn : Nat) :
    (s.modFn n f).refusals fn = s.refusals fn := by
  unfold State.refusals
  rw [State.fn_modFn]
  split
  · rename_i h; rw [hf, h]
  · rfl

theorem State.each_refusals {α : Type} (xs : List α) (f : State → α → State) (fn : Nat)
    (h : ∀ s a, (f s a).refusals fn = s.refusals fn) (s : State) : (s.each xs f).refusals fn = s.refusals fn := by
  unfold State.each
  induction xs generalizing s with
  | nil => rfl
  | cons a xs ih => exact (ih (f s a)).trans (h s a)

theorem State.raise_refusals (s : State) (n vec fn : Nat) : (s.raise n vec).refusals fn = s.refusals fn := by
  unfold State.raise
  dsimp only
  split
  · rfl
  · split
    · rfl
    · refine State.modFn_refusals _ _ _ ?_ fn
      intro g; rfl

theorem State.overflow_refusals (s : State) (inst k fn : Nat) : (s.overflow inst k).refusals fn = s.refusals fn := by
  unfold State.overflow
  dsimp only
  split
  · exact State.raise_refusals ..
  · rfl

/-- Counting an event leaves every refusal buffer as it was. -/
theorem State.count_refusals (s : State) (blk inst code : Nat) (a : Attrs) (n fn : Nat) :
    (s.count blk inst code a n).refusals fn = s.refusals fn := by
  unfold State.count
  split
  · rfl
  · refine State.each_refusals _ _ _ (fun s k => ?_) s
    dsimp only
    split
    · split
      · exact State.overflow_refusals ..
      · rfl
    · rfl

theorem State.crossHub_refusals (s : State) (hub lines : Nat) (tangent : Bool) (a : Attrs) (fn : Nat) :
    (s.crossHub hub lines tangent a).refusals fn = s.refusals fn := by
  unfold State.crossHub
  dsimp only
  split
  · exact (State.count_refusals ..).trans (State.count_refusals ..)
  · exact State.count_refusals ..

theorem Keeps.ofRefusals {s t : State} (h : ∀ fn, t.refusals fn = s.refusals fn) (hm : s.memWf → t.memWf) (hc : t.cmds = s.cmds) :
    Keeps s t := by
  refine ⟨hm, fun x acct => ?_, fun x fn => (h fn).symm ▸ x fn⟩
  have := x acct; unfold State.outstanding at *; rw [hc]; exact this

theorem State.crossHub_keeps (s : State) (hub lines : Nat) (tangent : Bool) (a : Attrs) : Keeps s (s.crossHub hub lines tangent a) := by
  have k := State.crossHub_frame s hub lines tangent a
  refine Keeps.ofRefusals (State.crossHub_refusals s hub lines tangent a) (fun x => ?_) (k.same .cmds rfl)
  have b := k.same .hbm rfl
  have c := k.same .staged rfl
  have d := k.same .flash rfl
  have e := k.same .saved rfl
  have j := k.same .journals rfl
  simp only [Piece.same] at b c d e j
  unfold State.memWf at *
  rw [b, c, d, e, j]
  exact x

theorem State.deliverLen_keeps (s : State) (via : Via) (len : Nat) (r : Reply)
    (h : r.cmd.isNone = true → ∀ fn, via = .aperture fn → s.refusals fn.val < 256) : Keeps s (s.deliverLen via len r) := by
  unfold State.deliverLen
  refine Keeps.trans (State.crossHub_keeps s 0 0 false { ctx := some (r.context.toNat % 4096) }) ?_
  have hn := State.crossHub_refusals s 0 0 false { ctx := some (r.context.toNat % 4096) }
  generalize s.crossHub 0 0 false { ctx := some (r.context.toNat % 4096) } = u at *
  dsimp only
  split
  · rename_i fn
    apply Keeps.modFnLe
    simp only [List.filter_append, List.length_append]
    cases hr : r.cmd.isNone
    · have : ([r].filter fun r => r.cmd.isNone) = [] := by simp [hr]
      rw [this]
      unfold State.refusals
      simp only [List.length_nil]
      omega
    · have := h hr fn rfl
      rw [← hn] at this
      have h1 : ([r].filter fun r => r.cmd.isNone).length ≤ 1 := by simp [hr]
      unfold State.refusals at *
      omega
  · have hs := fun tag m p => Keeps.ofFrame (State.sendLast_frame u p tag m) rfl
    split
    · exact hs ..
    · split
      · exact (hs ..).trans (Keeps.filterCmds ..)
      · exact hs ..

theorem State.deliver_keeps (s : State) (via : Via) (r : Reply)
    (h : r.cmd.isNone = true → ∀ fn, via = .aperture fn → s.refusals fn.val < 256) : Keeps s (s.deliver via r) :=
  State.deliverLen_keeps s via 0 r h

theorem State.replyAs_keeps (s : State) (c : Cmd) (context : BitVec 16) (status result detail : Nat) :
    Keeps s (s.replyAs c context status result detail) := by
  unfold State.replyAs
  split
  · exact Keeps.filterCmds ..
  · refine Keeps.step (State.deliver_keeps _ _ _ fun h => absurd h (by simp [State.form])) ?_
    refine Keeps.step (State.modCmd_keeps _ _ _ fun c => rfl) ?_
    exact Keeps.ofFrame (State.form_frame ..) rfl

theorem State.refuse_keeps (s : State) (via : Via) (opcode : Nat) (p : Packet) (irq : Bool) (status result detail len : Nat) :
    Keeps s (s.refuse via opcode p irq status result detail len) := by
  unfold State.refuse
  have hf := State.form_frame s opcode p p.context status result detail irq none
  cases via with
  | aperture fn =>
    dsimp only
    split
    · exact State.modFn_keeps _ _ _ fun g => rfl
    · rename_i hfull
      refine Keeps.step (State.deliverLen_keeps _ _ _ _ fun _ fn' hv => ?_) (Keeps.ofFrame hf rfl)
      injection hv with hv
      subst hv
      rw [hf.refusals rfl]
      exact Nat.lt_of_not_le fun h => hfull (decide_eq_true h)
  | link port ctx tag =>
    dsimp only
    split
    · exact Keeps.refl s
    · exact Keeps.step (State.deliverLen_keeps _ _ _ _ fun _ fn' hv => by cases hv) (Keeps.ofFrame hf rfl)

/-! ## The records of the journal -/

theorem State.flashRec_wf {s : State} (h : s.memWf) (die page seq : Nat) (commit : Bool) : (s.flashRec die page seq commit).wf :=
  Store.wf_copyPage _ _ _ rfl h.2.2.1

theorem foldl_pick {α : Type} (p : α → Prop) (f : Option α → α → Option α)
    (hf : ∀ a x r, f a x = some r → a = some r ∨ x = r) (l : List α) (a : Option α) (ha : ∀ r, a = some r → p r)
    (hl : ∀ x, x ∈ l → p x) : ∀ r, l.foldl f a = some r → p r := by
  induction l generalizing a with
  | nil => exact ha
  | cons x l ih =>
    refine ih (f a x) (fun r hr => ?_) fun y hy => hl y (List.mem_cons_of_mem _ hy)
    rcases hf a x r hr with h | h
    · exact ha r h
    · exact h ▸ hl x List.mem_cons_self

theorem State.newestRec_wf {s : State} (h : s.memWf) (page : Nat) : ∀ r, s.newestRec page = some r → r.wf := by
  unfold State.newestRec
  apply foldl_pick JRec.wf
  · intro a x r
    cases a with
    | none => intro h; injection h with h; exact .inr h
    | some b =>
      dsimp only
      split
      · intro h; injection h with h; exact .inr h
      · intro h; exact .inl h
  · intro r hr; cases hr
  · intro x hx
    rcases List.mem_append.mp hx with hx | hx
    · cases hf : tfind? s.saved page with
      | none => rw [hf] at hx; cases hx
      | some v =>
        rw [hf] at hx
        exact List.mem_singleton.mp hx ▸ h.2.2.2.1 _ (mem_of_tfind? hf)
    · exact h.2.2.2.2 _ (List.mem_filter.mp hx).1

theorem State.putFlash_keeps (s : State) (r : JRec) (hr : s.memWf → r.wf) : Keeps s (s.putFlash r) := by
  unfold State.putFlash
  have k := State.setFlashPair_frame s r.page r.flashA r.flashB
  have a := k.same .hbm rfl
  have b := k.same .staged rfl
  have c := k.same .saved rfl
  have d := k.same .journals rfl
  have e := k.same .fns rfl
  have f := k.same .cmds rfl
  simp only [Piece.same] at a b c d e f
  refine Keeps.ofStore (fun x => ?_) f e
  unfold State.memWf at *
  dsimp only
  rw [a, b, c, d]
  exact ⟨x.1, x.2.1, Store.wf_copyPage _ _ _ x.2.2.1 (hr x), x.2.2.2⟩

/-! ## Changes of several pieces at once -/

theorem Keeps.clearImages (s : State) (page n : Nat) (g r) : Keeps s { s with
    staged := s.staged.clearPages page n, flash := s.flash.clearPages page n, groups := g, regions := r } :=
  Keeps.ofStore (fun h => ⟨h.1, Store.wf_clearPages _ _ _ h.2.1, Store.wf_clearPages _ _ _ h.2.2.1, h.2.2.2⟩) rfl rfl

theorem Keeps.clearStaged (s : State) (page n : Nat) (w a k g) : Keeps s { s with
    wbuf := w, atoms := a, hbmStk := k, groups := g, staged := s.staged.clearPages page n } :=
  Keeps.ofStore (fun h => ⟨h.1, Store.wf_clearPages _ _ _ h.2.1, h.2.2.1, h.2.2.2⟩) rfl rfl

theorem Keeps.stageImage (s : State) (page : Nat) : Keeps s { s with staged := s.staged.copyPage s.hbm page } :=
  Keeps.ofStore (fun h => ⟨h.1, Store.wf_copyPage _ _ _ h.2.1 h.1, h.2.2.1, h.2.2.2⟩) rfl rfl

theorem Keeps.commitImage (s : State) (page : Nat) (m i) : Keeps s { s with
    fmap := m, images := i, flash := s.flash.copyPage s.staged page, staged := s.staged.clearPages page 1 } :=
  Keeps.ofStore (fun h => ⟨h.1, Store.wf_clearPages _ _ _ h.2.1, Store.wf_copyPage _ _ _ h.2.2.1 h.2.1, h.2.2.2⟩) rfl rfl

theorem Keeps.loseCmds (s : State) (p : Cmd → Bool) (f : Cmd → Cmd) (hf : ∀ c, (f c).acct = c.acct) :
    Keeps s { s with cmds := (s.cmds.filter p).map f } :=
  (Keeps.filterCmds s p).trans (Keeps.mapCmds { s with cmds := s.cmds.filter p } f hf)

theorem Ring.commit_held (r : Ring) : r.commit.held = r.held := by
  unfold Ring.commit
  dsimp only
  split <;> rfl

theorem Keeps.flrState (s : State) (fn : Nat) : Keeps s (s.modFn fn Fn.flrState) := by
  apply Keeps.modFnLe
  simp [Fn.flrState]

theorem Keeps.quotaReset (s : State) (fn : Nat) (pf : Bool) : Keeps s (s.modFn fn (Fn.quotaReset pf)) := by
  apply State.modFn_keeps
  intro g
  unfold Fn.quotaReset
  split <;> rfl

end Sys2Proof.Machine
end

