-- ==== Sys2Proof/Laws/KeepsCore.lean ====
section
/-!
SUPPORT. What each operation keeps (the canonical form of the stored data, the credits, the refusal buffers): the operations over tables and records, interrupts, logs, counters and the command unit.
-/

namespace Sys2Proof.Machine

set_option maxRecDepth 2000
set_option Elab.async false

open Sys2Proof

theorem State.raise_keeps (s : State) (fn : Nat) (vec : Nat) :
    Keeps s (State.raise s fn vec) := by
  unfold State.raise
  repeat' (first
      | extract_lets | with_reducible apply Keeps.refl | exact rfl
      | with_reducible apply Keeps.stepFrame (State.emit_frame ..)
      | (with_reducible apply Keeps.step (State.modFn_keeps _ _ _ (by intro g; first | rfl | exact Ring.commit_held _ | (unfold Fn.writeAer; dsimp only; (repeat' split) <;> rfl) | (unfold Fn.logUnc; dsimp only; done) | (unfold Fn.logUnc; dsimp only; split <;> rfl) | ((repeat' split) <;> first | rfl | exact Ring.commit_held _))))
      | with_reducible apply Keeps.ite)

theorem State.overflow_keeps (s : State) (inst : Nat) (k : Nat) :
    Keeps s (State.overflow s inst k) := by
  unfold State.overflow
  repeat' (first
      | extract_lets | with_reducible apply Keeps.refl | exact rfl
      | with_reducible apply Keeps.stepFrame (State.modCnt_frame ..) | with_reducible apply Keeps.step (State.raise_keeps ..)
      | with_reducible apply Keeps.ite)

theorem State.count_keeps (s : State) (blk : Nat) (inst : Nat) (code : Nat) (a : Attrs) (n : Nat) :
    Keeps s (State.count s blk inst code a n) := by
  unfold State.count
  repeat' (first
      | extract_lets | with_reducible apply Keeps.refl | exact rfl
      | with_reducible apply Keeps.stepFrame (State.modCnt_frame ..)
      | with_reducible apply Keeps.step (State.overflow_keeps ..) | with_reducible apply Keeps.eachTrans
      | with_reducible apply Keeps.ite | intro _)

theorem State.fnRecord_keeps (s : State) (e : LogEvent) (ts : Nat) (fn : Nat) :
    Keeps s (State.fnRecord s e ts fn) := by
  unfold State.fnRecord
  repeat' (first
      | extract_lets | with_reducible apply Keeps.refl
      | (with_reducible apply Keeps.step (State.modFn_keeps _ _ _ (by intro g; first | rfl | exact Ring.commit_held _ | (unfold Fn.writeAer; dsimp only; (repeat' split) <;> rfl) | (unfold Fn.logUnc; dsimp only; done) | (unfold Fn.logUnc; dsimp only; split <;> rfl) | ((repeat' split) <;> first | rfl | exact Ring.commit_held _))))
      | with_reducible apply Keeps.step (State.raise_keeps ..) | with_reducible apply Keeps.ite)

theorem State.log_keeps (s : State) (e : LogEvent) :
    Keeps s (State.log s e) := by
  unfold State.log
  repeat' (first
      | extract_lets | with_reducible apply Keeps.refl | exact rfl
      | with_reducible apply Keeps.stepFrame (State.takeFree_frame ..)
      | with_reducible apply Keeps.stepFrame (State.modElog_frame ..)
      | with_reducible apply Keeps.step (State.fnRecord_keeps ..) | with_reducible apply Keeps.ite)

theorem State.reply_keeps (s : State) (c : Cmd) (status : Nat) (result : Nat) (detail : Nat) :
    Keeps s (State.reply s c status result detail) := by
  unfold State.reply
  repeat' (first
      | extract_lets | with_reducible apply Keeps.refl | with_reducible apply Keeps.step (State.replyAs_keeps ..))

theorem State.replyTo_keeps (s : State) (id : Nat) (status : Nat) (result : Nat) (detail : Nat) :
    Keeps s (State.replyTo s id status result detail) := by
  unfold State.replyTo
  repeat' (first
      | extract_lets | with_reducible apply Keeps.refl | with_reducible apply Keeps.step (State.reply_keeps ..)
      | with_reducible apply Keeps.ite | split)

theorem State.countRefusal_keeps (s : State) (via : Via) :
    Keeps s (State.countRefusal s via) := by
  unfold State.countRefusal
  repeat' (first
      | extract_lets | with_reducible apply Keeps.refl | with_reducible apply Keeps.step (State.count_keeps ..) | split)

theorem State.tryStart_keeps (s : State) (spec : CmdSpec) (c : Cmd) (hf : ∀ s c, Keeps s (spec.start s c)) :
    Keeps s (State.tryStart s spec c) := by
  unfold State.tryStart
  repeat' (first
      | extract_lets | with_reducible apply Keeps.refl | with_reducible apply Keeps.step (State.reply_keeps ..)
      | (with_reducible apply Keeps.step (State.modCmd_keeps _ _ _ (by intro g; first | rfl | (dsimp only [Cmd.fill]; done) | (split; rfl; (dsimp only [Cmd.arrived]; done)) | (dsimp only; split <;> rfl))))
      | with_reducible apply Keeps.step (hf ..) | with_reducible apply Keeps.ite)

theorem State.bad_keeps (s : State) (c : Cmd) (off : Nat) :
    Keeps s (State.bad s c off) := by
  unfold State.bad
  repeat' (first
      | extract_lets | with_reducible apply Keeps.refl | with_reducible apply Keeps.step (State.reply_keeps ..))

theorem State.arrive_keeps {s : State} {via : Via} {t : State} (h : State.arrive s via = some t) :
    Keeps s t := by
  unfold State.arrive at h
  try dsimp only at h
  repeat' split at h
  all_goals (first | (exact absurd h (by decide)) | (simp at h; done) | (injection h with h; injection h with _ h; subst h) | (injection h with h; subst h) | (rw [Option.map_eq_some_iff] at h; obtain ⟨_, h, rfl⟩ := h) | skip)
  all_goals repeat' (first
    | extract_lets
    | with_reducible apply Keeps.refl
    | exact rfl
    | with_reducible apply Keeps.stepFrame (State.owe_frame ..)
    | with_reducible apply Keeps.stepFrame (State.fixed_frame ..)
    | with_reducible apply Keeps.step (State.count_keeps ..)
    | with_reducible apply Keeps.stepFrame (State.modPort_frame ..))

theorem State.tagReuse_keeps (s : State) (port : Nat) :
    Keeps s (State.tagReuse s port) := by
  unfold State.tagReuse
  repeat' (first
      | extract_lets | with_reducible apply Keeps.refl | exact rfl | with_reducible apply Keeps.step (State.count_keeps ..)
      | with_reducible apply Keeps.stepFrame (State.modPort_frame ..)
      | with_reducible apply Keeps.stepFrame (State.fixed_frame ..))

theorem State.refuseUnbound_keeps (s : State) (opcode : Nat) (via : Via) (p : Packet) :
    Keeps s (State.refuseUnbound s opcode via p) := by
  unfold State.refuseUnbound
  repeat' (first
      | extract_lets | with_reducible apply Keeps.refl | with_reducible apply Keeps.step (State.refuse_keeps ..)
      | with_reducible apply Keeps.step (State.countRefusal_keeps ..))

theorem State.cmdHop_keeps (s : State) (p : Packet) :
    Keeps s (State.cmdHop s p) := by
  unfold State.cmdHop
  repeat' (first
      | extract_lets | with_reducible apply Keeps.refl | with_reducible apply Keeps.step (State.crossHub_keeps ..))

theorem State.admission_keeps (s : State) (spec : CmdSpec) (via : Via) (p : Packet)
    (h : s.outstanding (acctOf (s.viaFn via) p) < 64) : Keeps s (s.admission spec via p).2 := by
  unfold State.admission
  refine Keeps.step (State.count_keeps ..) ⟨id, fun x acct => ?_, id⟩
  have := x acct
  unfold State.outstanding State.takeId at *
  simp only [List.filter_append, List.length_append]
  by_cases e : acctOf (s.viaFn via) p = acct
  · subst e
    simp only [List.filter_cons, List.filter_nil, BEq.rfl, if_true, List.length_cons, List.length_nil]
    omega
  · have : (acctOf (s.viaFn via) p == acct) = false := by simp [e]
    simp only [List.filter_cons, List.filter_nil, this, Bool.false_eq_true, if_false, List.length_nil]
    omega

theorem State.accept_keeps (s : State) (spec : CmdSpec) (via : Via) (p : Packet) (hf : ∀ s c, Keeps s (spec.start s c)) :
    Keeps s (s.accept spec via p) := by
  unfold State.accept
  dsimp only
  split
  · exact State.refuseUnbound_keeps ..
  split
  · exact State.refuse_keeps ..
  · split
    · exact State.refuse_keeps ..
    · split
      · exact Keeps.step (State.refuse_keeps ..) (Keeps.step (State.count_keeps ..) (Keeps.ofFrame (State.restartHint_frame ..) rfl))
      · rename_i hc
        have hlt : s.outstanding (acctOf (s.viaFn via) p) < 64 := by
          simp only [Bool.or_eq_true, decide_eq_true_eq, not_or] at hc
          omega
        have := State.admission_keeps s spec via p hlt
        split
        · exact Keeps.step (State.reply_keeps ..) this
        · exact Keeps.step (State.tryStart_keeps _ _ _ hf) this

theorem State.submit_keeps (s : State) (spec : CmdSpec) (via : Via) (p : Packet) (hf : ∀ s c, Keeps s (spec.start s c)) :
    Keeps s (State.submit s spec via p) := by
  unfold State.submit
  repeat' (first
      | extract_lets | with_reducible apply Keeps.refl | exact rfl | with_reducible assumption
      | (with_reducible apply Keeps.step; (with_reducible apply State.arrive_keeps; with_reducible assumption))
      | with_reducible apply Keeps.step (State.cmdHop_keeps ..) | with_reducible apply Keeps.stepFrame (State.owe_frame ..)
      | with_reducible apply Keeps.step (State.tagReuse_keeps ..) | with_reducible apply Keeps.step (State.accept_keeps ..)
      | with_reducible apply Keeps.ite | split)

theorem State.submitUndefined_keeps (s : State) (opcode : Nat) (via : Via) (p : Packet) :
    Keeps s (State.submitUndefined s opcode via p) := by
  unfold State.submitUndefined
  repeat' (first
      | extract_lets | with_reducible apply Keeps.refl | exact rfl
      | (with_reducible apply Keeps.step; (with_reducible apply State.arrive_keeps; with_reducible assumption))
      | with_reducible apply Keeps.step (State.cmdHop_keeps ..)
      | with_reducible apply Keeps.step (State.refuseUnbound_keeps ..)
      | with_reducible apply Keeps.step (State.refuse_keeps ..) | with_reducible apply Keeps.stepFrame (State.owe_frame ..)
      | with_reducible apply Keeps.step (State.tagReuse_keeps ..) | with_reducible apply Keeps.ite | split)

theorem State.sendPending_keeps (s : State) (fn : Nat) :
    Keeps s (State.sendPending s fn) := by
  unfold State.sendPending
  repeat' (first
      | extract_lets | with_reducible apply Keeps.refl | exact rfl
      | (with_reducible apply Keeps.step (State.modFn_keeps _ _ _ (by intro g; first | rfl | exact Ring.commit_held _ | (unfold Fn.writeAer; dsimp only; (repeat' split) <;> rfl) | (unfold Fn.logUnc; dsimp only; done) | (unfold Fn.logUnc; dsimp only; split <;> rfl) | ((repeat' split) <;> first | rfl | exact Ring.commit_held _))))
      | with_reducible apply Keeps.stepFrame (State.emit_frame ..) | with_reducible apply Keeps.eachTrans
      | with_reducible apply Keeps.ite | intro _)

theorem State.pmcErr_keeps (s : State) (k : Nat) :
    Keeps s (State.pmcErr s k) := by
  unfold State.pmcErr
  repeat' (first
      | extract_lets | with_reducible apply Keeps.refl | exact rfl
      | with_reducible apply Keeps.stepFrame (State.modPmc_frame ..) | with_reducible apply Keeps.step (State.raise_keeps ..)
      | with_reducible apply Keeps.ite)

theorem State.aerCor_keeps (s : State) (fn : Nat) (k : Nat) :
    Keeps s (State.aerCor s fn k) := by
  unfold State.aerCor
  repeat' (first
      | extract_lets | with_reducible apply Keeps.refl | exact rfl
      | (with_reducible apply Keeps.step (State.modFn_keeps _ _ _ (by intro g; first | rfl | exact Ring.commit_held _ | (unfold Fn.writeAer; dsimp only; (repeat' split) <;> rfl) | (unfold Fn.logUnc; dsimp only; done) | (unfold Fn.logUnc; dsimp only; split <;> rfl) | ((repeat' split) <;> first | rfl | exact Ring.commit_held _))))
      | with_reducible apply Keeps.stepFrame (State.errMessage_frame ..) | with_reducible apply Keeps.ite)

theorem State.aerUnc_keeps (s : State) (fn : Nat) (k : Nat) (advisory : Bool) :
    Keeps s (State.aerUnc s fn k advisory) := by
  unfold State.aerUnc
  repeat' (first
      | extract_lets | with_reducible apply Keeps.refl | exact rfl
      | (with_reducible apply Keeps.step (State.modFn_keeps _ _ _ (by intro g; first | rfl | exact Ring.commit_held _ | (unfold Fn.writeAer; dsimp only; (repeat' split) <;> rfl) | (unfold Fn.logUnc; dsimp only; done) | (unfold Fn.logUnc; dsimp only; split <;> rfl) | ((repeat' split) <;> first | rfl | exact Ring.commit_held _))))
      | with_reducible apply Keeps.step (State.aerCor_keeps ..)
      | with_reducible apply Keeps.stepFrame (State.errMessage_frame ..) | with_reducible apply Keeps.ite)

theorem State.barWrite_keeps (s : State) (fn : Nat) (f : State → State) (hf : ∀ s, Keeps s (f s)) :
    Keeps s (State.barWrite s fn f) := by
  unfold State.barWrite
  repeat' (first
      | extract_lets | with_reducible apply Keeps.refl | with_reducible apply Keeps.step (State.aerUnc_keeps ..)
      | with_reducible apply Keeps.step (hf ..) | with_reducible apply Keeps.ite)

theorem State.cfgAccess_keeps (s : State) (fn : Nat) (f : State → State) (hf : ∀ s, Keeps s (f s)) :
    Keeps s (State.cfgAccess s fn f) := by
  unfold State.cfgAccess
  repeat' (first
      | extract_lets | with_reducible apply Keeps.refl | exact rfl
      | with_reducible apply Keeps.stepFrame (State.emit_frame ..) | with_reducible apply Keeps.step (hf ..)
      | with_reducible apply Keeps.ite)

theorem State.rederate_keeps (s : State) :
    Keeps s (State.rederate s) := by
  unfold State.rederate
  repeat' (first
      | extract_lets | with_reducible apply Keeps.refl | exact rfl
      | with_reducible apply Keeps.stepFrame (State.modQos_frame ..)
      | with_reducible apply Keeps.stepFrame (State.modReg_frame ..)
      | (with_reducible apply Keeps.step (State.modFn_keeps _ _ _ (by intro g; first | rfl | exact Ring.commit_held _ | (unfold Fn.writeAer; dsimp only; (repeat' split) <;> rfl) | (unfold Fn.logUnc; dsimp only; done) | (unfold Fn.logUnc; dsimp only; split <;> rfl) | ((repeat' split) <;> first | rfl | exact Ring.commit_held _))))
      | with_reducible apply Keeps.step (State.raise_keeps ..) | with_reducible apply Keeps.eachTrans
      | with_reducible apply Keeps.ite | intro _)

end Sys2Proof.Machine
end

