-- ==== Sys2Proof/Laws/KeepsMemory.lean ====
section
/-!
SUPPORT. What each operation keeps (the canonical form of the stored data, the credits, the refusal buffers): codec, tier, stored data, the path of a request and the movers.
-/

namespace Sys2Proof.Machine

set_option maxRecDepth 2000
set_option Elab.async false

open Sys2Proof

theorem State.zeroFrame_keeps {s : State} {page : Nat} {demand : Bool} {f : DirEnt → DirEnt} {t : State} (h : State.zeroFrame s page demand f = some t) :
    Keeps s t := by
  unfold State.zeroFrame at h
  try dsimp only at h
  repeat' split at h
  all_goals (first | (exact absurd h (by decide)) | (simp at h; done) | (injection h with h; injection h with _ h; subst h) | (injection h with h; subst h) | (rw [Option.map_eq_some_iff] at h; obtain ⟨_, h, rfl⟩ := h) | skip)
  all_goals repeat' (first
    | extract_lets
    | with_reducible apply Keeps.refl
    | exact rfl
    | (with_reducible apply Keeps.stepFrame; (with_reducible apply State.takeFrame_frame; with_reducible assumption))
    | with_reducible apply Keeps.stepFrame (State.setFramePair_frame ..)
    | (with_reducible apply Keeps.step (State.modHbm_keeps _ _ (by intro h k; first | exact h | (dsimp only [Store.freshLines, Store.poisonBlock]; first | exact h | exact Memory.wf_writeBytes _ _ _ h | exact Memory.wf_writeLine _ _ _ h | exact Memory.wf_tableClear _ _ _ h) | exact Store.wf_clearPages _ _ _ h | exact Memory.wf_writeBytes _ _ _ h | exact Memory.wf_writeLine _ _ _ h | exact Memory.wf_tableClear _ _ _ h | (split; exact Store.wf_copyPage _ _ _ h k; exact Store.wf_clearPages _ _ _ h))))
    | with_reducible apply Keeps.stepFrame (State.settlePressure_frame ..)
    | with_reducible apply Keeps.stepFrame (State.modEnt_frame ..))

theorem State.coverPage_keeps {s : State} {page : Nat} {w : Waiter} {t : State} (h : State.coverPage s page w = some t) :
    Keeps s t := by
  unfold State.coverPage at h
  generalize 1024 = c0 at h
  try dsimp only at h
  repeat' split at h
  all_goals (first | (exact absurd h (by decide)) | (simp at h; done) | (injection h with h; injection h with _ h; subst h) | (injection h with h; subst h) | (rw [Option.map_eq_some_iff] at h; obtain ⟨_, h, rfl⟩ := h) | skip)
  all_goals repeat' (first
    | extract_lets
    | with_reducible apply Keeps.refl
    | exact rfl
    | (with_reducible apply Keeps.stepFrame; (with_reducible apply State.takeFrame_frame; with_reducible assumption))
    | with_reducible apply Keeps.stepFrame (State.setFramePair_frame ..)
    | with_reducible apply Keeps.stepFrame (State.takeFree_frame ..)
    | (with_reducible apply Keeps.step (State.modHbm_keeps _ _ (by intro h k; first | exact h | (dsimp only [Store.freshLines, Store.poisonBlock]; first | exact h | exact Memory.wf_writeBytes _ _ _ h | exact Memory.wf_writeLine _ _ _ h | exact Memory.wf_tableClear _ _ _ h) | exact Store.wf_clearPages _ _ _ h | exact Memory.wf_writeBytes _ _ _ h | exact Memory.wf_writeLine _ _ _ h | exact Memory.wf_tableClear _ _ _ h | (split; exact Store.wf_copyPage _ _ _ h k; exact Store.wf_clearPages _ _ _ h))))
    | with_reducible apply Keeps.stepFrame (State.modDir_frame ..)
    | with_reducible apply Keeps.stepFrame (State.cancelPrefetch_frame ..)
    | with_reducible apply Keeps.stepFrame (State.settlePressure_frame ..)
    | with_reducible apply Keeps.stepFrame (State.modEnt_frame ..)
    | (with_reducible apply Keeps.step; (with_reducible apply State.zeroFrame_keeps; with_reducible assumption))
    | with_reducible apply Keeps.eachTrans
    | intro _)

theorem State.moverHops_keeps (s : State) (m : Mover) (za : Nat) (out : Nat) (back : Nat) (directory : Bool) :
    Keeps s (State.moverHops s m za out back directory) := by
  unfold State.moverHops
  repeat' (first
      | extract_lets | with_reducible apply Keeps.refl | with_reducible apply Keeps.step (State.crossHub_keeps ..)
      | with_reducible apply Keeps.ite)

theorem State.moverMiss_keeps (s : State) (m : Mover) (t : Trans) (out : Nat) (waits : Bool) :
    Keeps s (State.moverMiss s m t out waits).2 := by
  unfold State.moverMiss
  repeat' (first
      | extract_lets | with_reducible apply Keeps.refl | exact rfl
      | with_reducible apply Keeps.step (State.moverHops_keeps ..)
      | with_reducible apply Keeps.stepFrame (State.modEnt_frame ..) | with_reducible apply Keeps.iteSnd)

theorem State.countGnm_keeps (s : State) (page : Nat) (code : Nat) (ctx : Nat) (n : Nat) :
    Keeps s (State.countGnm s page code ctx n) := by
  unfold State.countGnm
  repeat' (first
      | extract_lets | with_reducible apply Keeps.refl | with_reducible apply Keeps.step (State.count_keeps ..))

theorem State.cacheEntry_keeps (s : State) (page : Nat) (ctx : Nat) :
    Keeps s (State.cacheEntry s page ctx) := by
  unfold State.cacheEntry
  repeat' (first
      | extract_lets | with_reducible apply Keeps.refl | exact rfl
      | with_reducible apply Keeps.stepFrame (State.modDir_frame ..)
      | with_reducible apply Keeps.step (State.countGnm_keeps ..)
      | with_reducible apply Keeps.stepFrame (State.takeFree_frame ..)
      | with_reducible apply Keeps.stepFrame (State.modEnt_frame ..) | with_reducible apply Keeps.eachTrans
      | with_reducible apply Keeps.ite | intro _)

theorem State.look_keeps (s : State) (page : Nat) (ctx : Nat) (cls : Option Nat) (v : Visit) :
    Keeps s (State.look s page ctx cls v) := by
  unfold State.look
  repeat' (first
      | extract_lets | with_reducible apply Keeps.refl | exact rfl
      | with_reducible apply Keeps.step (State.cacheEntry_keeps ..) | with_reducible apply Keeps.step (State.count_keeps ..)
      | with_reducible apply Keeps.stepFrame (State.fixed_frame ..) | with_reducible apply Keeps.ite)

theorem State.dataError_keeps (s : State) (o : LineRead) (line : Nat) (ctx : Nat) (lines : Nat) :
    Keeps s (State.dataError s o line ctx lines) := by
  unfold State.dataError
  repeat' (first
      | extract_lets | with_reducible apply Keeps.refl | with_reducible apply Keeps.step (State.log_keeps ..))

theorem State.hop_keeps (s : State) (q : Req) (lines : Nat) :
    Keeps s (State.hop s q lines) := by
  unfold State.hop
  repeat' (first
      | extract_lets | with_reducible apply Keeps.refl | with_reducible apply Keeps.step (State.crossHub_keeps ..))

theorem State.latencySample_keeps (s : State) (die : Nat) (c : Nat) (entry : Class) (ctx : Nat) :
    Keeps s (State.latencySample s die c entry ctx) := by
  unfold State.latencySample
  repeat' (first
      | extract_lets | with_reducible apply Keeps.refl | exact rfl
      | with_reducible apply Keeps.stepFrame (State.takeFree_frame ..)
      | with_reducible apply Keeps.stepFrame (State.modMem_frame ..)
      | with_reducible apply Keeps.stepFrame (State.fixed_frame ..) | with_reducible apply Keeps.step (State.count_keeps ..)
      | with_reducible apply Keeps.ite)

theorem State.tangentSlot_keeps (s : State) (q : Req) (r : Region) :
    Keeps s (State.tangentSlot s q r) := by
  unfold State.tangentSlot
  repeat' (first
      | extract_lets | with_reducible apply Keeps.refl | exact rfl
      | with_reducible apply Keeps.stepFrame (State.takeFree_frame ..)
      | with_reducible apply Keeps.step (State.count_keeps ..) | with_reducible apply Keeps.ite | split)

theorem State.countStack_keeps (s : State) (k : Nat) (code : Nat) (at_ : Attrs) (n : Nat) :
    Keeps s (State.countStack s k code at_ n) := by
  unfold State.countStack
  repeat' (first
      | extract_lets | with_reducible apply Keeps.refl | exact rfl
      | with_reducible apply Keeps.stepFrame (State.fixed_frame ..) | with_reducible apply Keeps.step (State.count_keeps ..))

theorem State.applyDelta_keeps (s : State) (t : Stripe) (e : Nat × Stored) :
    Keeps s (State.applyDelta s t e) := by
  unfold State.applyDelta
  repeat' (first
      | extract_lets | with_reducible apply Keeps.refl | exact rfl
      | with_reducible apply Keeps.stepFrame (State.modStack_frame ..)
      | with_reducible apply Keeps.stepFrame (State.modParity_frame ..)
      | with_reducible apply Keeps.step (State.countStack_keeps ..))

theorem State.settleDeltas_keeps (s : State) (t : Stripe) :
    Keeps s (State.settleDeltas s t) := by
  unfold State.settleDeltas
  repeat' (first
      | extract_lets | with_reducible apply Keeps.refl | with_reducible apply Keeps.step (State.applyDelta_keeps ..)
      | with_reducible apply Keeps.eachTrans | with_reducible apply Keeps.ite | intro _)

theorem State.stripeXor_keeps (s : State) (r : Region) (line : Nat) :
    Keeps s (State.stripeXor s r line).2 := by
  unfold State.stripeXor
  repeat' (first
      | extract_lets | with_reducible apply Keeps.refl | with_reducible apply Keeps.step (State.settleDeltas_keeps ..)
      | split)

theorem State.lineCheck_keeps (s : State) (r : Region) (line : Nat) :
    Keeps s (State.lineCheck s r line).2 := by
  unfold State.lineCheck
  repeat' (first
      | extract_lets | with_reducible apply Keeps.refl | with_reducible apply Keeps.step (State.stripeXor_keeps ..)
      | with_reducible apply Keeps.iteSnd | split)

theorem State.readStored_keeps (s : State) (r : Region) (line : Nat) :
    Keeps s (State.readStored s r line).2 := by
  unfold State.readStored
  repeat' (first
      | extract_lets | with_reducible apply Keeps.refl | with_reducible apply Keeps.step (State.lineCheck_keeps ..)
      | with_reducible apply Keeps.iteSnd)

theorem State.countCorrected_keeps (s : State) (k : Nat) (p : Nat) (at_ : Attrs) :
    Keeps s (State.countCorrected s k p at_) := by
  unfold State.countCorrected
  repeat' (first
      | extract_lets | with_reducible apply Keeps.refl | exact rfl | with_reducible apply Keeps.step (State.count_keeps ..)
      | with_reducible apply Keeps.stepFrame (State.modPc_frame ..)
      | with_reducible apply Keeps.stepFrame (State.modStack_frame ..))

theorem State.countRead_keeps (s : State) (g : LineGot) (r : Region) (line : Nat) (ctx : Nat) (src : Source) :
    Keeps s (State.countRead s g r line ctx src) := by
  unfold State.countRead
  repeat' (first
      | extract_lets | with_reducible apply Keeps.refl | exact rfl
      | with_reducible apply Keeps.step (State.countCorrected_keeps ..)
      | with_reducible apply Keeps.step (State.count_keeps ..)
      | with_reducible apply Keeps.stepFrame (State.modStack_frame ..) | with_reducible apply Keeps.ite)

theorem State.fetchLines_keeps (s : State) (r : Region) (cls : Nat) (ctx : Nat) (src : Source) (y0 : List Nat) :
    Keeps s (State.fetchLines s r cls ctx src y0).2 := by
  induction y0 generalizing s r cls ctx src with
  | nil => (unfold State.fetchLines; repeat' (first
       | extract_lets
       | with_reducible apply Keeps.refl
       | with_reducible apply Keeps.step (State.readStored_keeps ..)
       | with_reducible apply Keeps.step (State.count_keeps ..)
       | with_reducible apply Keeps.step (State.countStack_keeps ..)
       | with_reducible apply Keeps.step (State.countRead_keeps ..)
       | with_reducible apply Keeps.step (ih ..)
       | with_reducible apply Keeps.ite))
  | cons a y0 ih =>
    (unfold State.fetchLines
     repeat' (first
         | extract_lets | with_reducible apply Keeps.refl | with_reducible apply Keeps.step (State.readStored_keeps ..)
         | with_reducible apply Keeps.step (State.count_keeps ..)
         | with_reducible apply Keeps.step (State.countStack_keeps ..)
         | with_reducible apply Keeps.step (State.countRead_keeps ..) | with_reducible apply Keeps.step (ih ..)
         | with_reducible apply Keeps.ite))

theorem State.queueDecode_keeps (s : State) (f : Fetch) (die : Nat) (at_ : Attrs) :
    Keeps s (State.queueDecode s f die at_) := by
  unfold State.queueDecode
  repeat' (first
      | extract_lets | with_reducible apply Keeps.refl | exact rfl
      | with_reducible apply Keeps.stepFrame (State.takeFree_frame ..)
      | with_reducible apply Keeps.step (State.count_keeps ..) | with_reducible apply Keeps.ite | split)

theorem State.cacheTable_keeps (s : State) (die : Nat) (at_ : Attrs) (id : Nat) :
    Keeps s (State.cacheTable s die at_ id) := by
  unfold State.cacheTable
  repeat' (first
      | extract_lets | with_reducible apply Keeps.refl | exact rfl
      | with_reducible apply Keeps.stepFrame (State.modMem_frame ..) | with_reducible apply Keeps.step (State.count_keeps ..)
      | with_reducible apply Keeps.ite)

theorem State.countDecode_keeps (s : State) (f : Fetch) (die : Nat) (at_ : Attrs) (head : LineGot) (out : List (Nat × Segment)) :
    Keeps s (State.countDecode s f die at_ head out) := by
  unfold State.countDecode
  repeat' (first
      | extract_lets | with_reducible apply Keeps.refl | exact rfl
      | with_reducible apply Keeps.stepFrame (State.cacheTableChd_frame ..)
      | with_reducible apply Keeps.step (State.count_keeps ..) | with_reducible apply Keeps.step (State.cacheTable_keeps ..)
      | with_reducible apply Keeps.stepFrame (State.fixed_frame ..) | split | dsimp +zetaDelta only [id])

theorem State.reportDecode_keeps (s : State) (f : Fetch) (die : Nat) (block : Nat) (a : Nat) (b : Nat) (ctx : Nat) (out : List (Nat × Segment)) :
    Keeps s (State.reportDecode s f die block a b ctx out) := by
  unfold State.reportDecode
  repeat' (first
      | extract_lets | with_reducible apply Keeps.refl | exact rfl | with_reducible apply Keeps.step (State.count_keeps ..)
      | with_reducible apply Keeps.stepFrame (State.modMem_frame ..) | with_reducible apply Keeps.step (State.log_keeps ..)
      | split | dsimp +zetaDelta only [id])

theorem State.logRead_keeps (s : State) (o : LineRead) (r : Region) (line : Nat) (ctx : Nat) (src : Source) :
    Keeps s (State.logRead s o r line ctx src) := by
  unfold State.logRead
  repeat' (first
      | extract_lets | with_reducible apply Keeps.refl | exact rfl | with_reducible apply Keeps.step (State.count_keeps ..)
      | with_reducible apply Keeps.stepFrame (State.modStack_frame ..) | split)

theorem State.decodeErrors_keeps (s : State) (r : Region) (first : Nat) (a : Nat) (b : Nat) (ctx : Nat) (src : Source) (get : Nat → LineGot) (headed : Bool) (out : List (Nat × Segment)) :
    Keeps s (State.decodeErrors s r first a b ctx src get headed out) := by
  unfold State.decodeErrors
  repeat' (first
      | extract_lets | with_reducible apply Keeps.refl | with_reducible apply Keeps.step (State.dataError_keeps ..)
      | with_reducible apply Keeps.step (State.logRead_keeps ..) | with_reducible apply Keeps.eachTrans
      | with_reducible apply Keeps.ite | split | intro _)

theorem State.readBlock_keeps (s : State) (r : Region) (block : Nat) (a : Nat) (b : Nat) (cls : Nat) (ctx : Nat) (src : Source) (f : Fetch) :
    Keeps s (State.readBlock s r block a b cls ctx src f).2 := by
  unfold State.readBlock
  repeat' (first
      | extract_lets | with_reducible apply Keeps.refl | with_reducible apply Keeps.step (State.count_keeps ..)
      | with_reducible apply Keeps.step (State.fetchLines_keeps ..)
      | with_reducible apply Keeps.step (State.queueDecode_keeps ..)
      | with_reducible apply Keeps.step (State.countDecode_keeps ..)
      | with_reducible apply Keeps.step (State.reportDecode_keeps ..)
      | with_reducible apply Keeps.step (State.decodeErrors_keeps ..) | with_reducible apply Keeps.ite | split)

theorem State.readOne_keeps (s : State) (r : Region) (line : Nat) (cls : Nat) (ctx : Nat) (src : Source) :
    Keeps s (State.readOne s r line cls ctx src).2 := by
  unfold State.readOne
  repeat' (first
      | extract_lets | with_reducible apply Keeps.refl | with_reducible apply Keeps.step (State.readStored_keeps ..)
      | with_reducible apply Keeps.step (State.count_keeps ..) | with_reducible apply Keeps.step (State.countStack_keeps ..)
      | with_reducible apply Keeps.step (State.countRead_keeps ..)
      | with_reducible apply Keeps.step (State.dataError_keeps ..) | with_reducible apply Keeps.step (State.logRead_keeps ..)
      | with_reducible apply Keeps.ite | with_reducible apply Keeps.iteSnd)

theorem State.readEach_keeps (s : State) (r : Region) (cls : Nat) (ctx : Nat) (src : Source) (y0 : List Nat) :
    Keeps s (State.readEach s r cls ctx src y0).2 := by
  induction y0 generalizing s r cls ctx src with
  | nil => (unfold State.readEach; repeat' (first
       | extract_lets
       | with_reducible apply Keeps.refl
       | with_reducible apply Keeps.step (State.readOne_keeps ..)
       | with_reducible apply Keeps.step (ih ..)))
  | cons a y0 ih =>
    (unfold State.readEach
     repeat' (first
         | extract_lets | with_reducible apply Keeps.refl | with_reducible apply Keeps.step (State.readOne_keeps ..)
         | with_reducible apply Keeps.step (ih ..)))

theorem State.readLines_keeps (s : State) (r : Region) (line : Nat) (n : Nat) (ctx : Nat) (cls : Nat) (src : Source) (f : Fetch) :
    Keeps s (State.readLines s r line n ctx cls src f).2 := by
  unfold State.readLines
  repeat' (first
      | extract_lets | with_reducible apply Keeps.refl | with_reducible apply Keeps.step (State.readBlock_keeps ..)
      | with_reducible apply Keeps.step (State.readEach_keeps ..) | with_reducible apply Keeps.iteSnd)

theorem State.answerRuns_keeps (s : State) (port : Nat) (vc : Nat) (ctx : Nat) (tag : Nat) (cls : Nat) (y0 : List (Nat × Nat × List Line)) :
    Keeps s (State.answerRuns s port vc ctx tag cls y0) := by
  induction y0 generalizing s port vc ctx tag cls with
  | nil => (unfold State.answerRuns; repeat' (first
       | extract_lets
       | with_reducible apply Keeps.refl
       | exact rfl
       | with_reducible apply Keeps.stepFrame (State.sendLast_frame ..)
       | with_reducible apply Keeps.stepFrame (State.sendMsg_frame ..)
       | with_reducible apply Keeps.stepFrame (State.fixed_frame ..)
       | with_reducible apply Keeps.step (State.count_keeps ..)
       | with_reducible apply Keeps.step (ih ..)
       | with_reducible apply Keeps.ite))
  | cons a y0 ih =>
    (unfold State.answerRuns
     repeat' (first
         | extract_lets | with_reducible apply Keeps.refl | exact rfl
         | with_reducible apply Keeps.stepFrame (State.sendLast_frame ..)
         | with_reducible apply Keeps.stepFrame (State.sendMsg_frame ..)
         | with_reducible apply Keeps.stepFrame (State.fixed_frame ..)
         | with_reducible apply Keeps.step (State.count_keeps ..) | with_reducible apply Keeps.step (ih ..)
         | with_reducible apply Keeps.ite))

theorem State.loadKernel_keeps (s : State) (c : Cmd) (img : List Byte) :
    Keeps s (State.loadKernel s c img) := by
  unfold State.loadKernel
  repeat' (first
      | extract_lets | with_reducible apply Keeps.refl | exact rfl | with_reducible apply Keeps.step (State.reply_keeps ..)
      | with_reducible apply Keeps.stepFrame (State.pick_frame ..)
      | with_reducible apply Keeps.stepFrame (State.modDisp_frame ..)
      | (with_reducible apply Keeps.ofPair; with_reducible assumption) | with_reducible apply Keeps.ite | split)

theorem State.loadLines_keeps (s : State) (id : Nat) (off : Nat) (res : List (Nat × Line)) :
    Keeps s (State.loadLines s id off res) := by
  unfold State.loadLines
  repeat' (first
      | extract_lets | with_reducible apply Keeps.refl | with_reducible apply Keeps.step (State.reply_keeps ..)
      | (with_reducible apply Keeps.step (State.modCmd_keeps _ _ _ (by intro g; first | rfl | (dsimp only [Cmd.fill]; done) | (split; rfl; (dsimp only [Cmd.arrived]; done)) | (dsimp only; split <;> rfl))))
      | with_reducible apply Keeps.step (State.loadKernel_keeps ..) | with_reducible apply Keeps.ite | split)

theorem State.answerRead_keeps (s : State) (q : Req) (res : List (Nat × Line)) :
    Keeps s (State.answerRead s q res) := by
  unfold State.answerRead
  repeat' (first
      | extract_lets | with_reducible apply Keeps.refl | exact rfl | with_reducible apply Keeps.step (State.hop_keeps ..)
      | with_reducible apply Keeps.step (State.answerRuns_keeps ..)
      | with_reducible apply Keeps.stepFrame (State.emit_frame ..)
      | with_reducible apply Keeps.step (State.loadLines_keeps ..) | with_reducible apply Keeps.eachTrans | split | intro _)

theorem State.partDone_keeps (s : State) (id : Nat) (status : Nat) :
    Keeps s (State.partDone s id status) := by
  unfold State.partDone
  repeat' (first
      | extract_lets | with_reducible apply Keeps.refl | with_reducible apply Keeps.step (State.replyTo_keeps ..)
      | (with_reducible apply Keeps.step (State.modCmd_keeps _ _ _ (by intro g; first | rfl | (dsimp only [Cmd.fill]; done) | (split; rfl; (dsimp only [Cmd.arrived]; done)) | (dsimp only; split <;> rfl))))
      | with_reducible apply Keeps.ite | split)

theorem State.answerDone_keeps (s : State) (q : Req) (status : Nat) (prior : Option Nat) :
    Keeps s (State.answerDone s q status prior) := by
  unfold State.answerDone
  repeat' (first
      | extract_lets | with_reducible apply Keeps.refl | exact rfl | with_reducible apply Keeps.step (State.hop_keeps ..)
      | with_reducible apply Keeps.stepFrame (State.answerErr_frame ..)
      | with_reducible apply Keeps.stepFrame (State.answer1_frame ..)
      | with_reducible apply Keeps.stepFrame (State.emit_frame ..)
      | with_reducible apply Keeps.step (State.partDone_keeps ..) | with_reducible apply Keeps.step (State.replyTo_keeps ..)
      | with_reducible apply Keeps.ite | split)

theorem State.encodeBlock_keeps (s : State) (ri : Nat) (r : Region) (die : Nat) (ctx : Nat) (block : Nat) (data : List Line) (cur : Option Nat) :
    Keeps s (State.encodeBlock s ri r die ctx block data cur) := by
  unfold State.encodeBlock
  repeat' (first
      | extract_lets | with_reducible apply Keeps.refl | exact rfl
      | with_reducible apply Keeps.step (State.cacheTable_keeps ..) | with_reducible apply Keeps.step (State.count_keeps ..)
      | (with_reducible apply Keeps.step (State.modHbm_keeps _ _ (by intro h k; first | exact h | (dsimp only [Store.freshLines, Store.poisonBlock]; first | exact h | exact Memory.wf_writeBytes _ _ _ h | exact Memory.wf_writeLine _ _ _ h | exact Memory.wf_tableClear _ _ _ h) | exact Store.wf_clearPages _ _ _ h | exact Memory.wf_writeBytes _ _ _ h | exact Memory.wf_writeLine _ _ _ h | exact Memory.wf_tableClear _ _ _ h | (split; exact Store.wf_copyPage _ _ _ h k; exact Store.wf_clearPages _ _ _ h))))
      | with_reducible apply Keeps.stepFrame (State.setFramePair_frame ..)
      | with_reducible apply Keeps.stepFrame (State.sample_frame ..) | with_reducible apply Keeps.ite | split
      | dsimp +zetaDelta only [id])

theorem State.encodeEntry_keeps (s : State) (ri : Nat) (r : Region) (e : WEntry) :
    Keeps s (State.encodeEntry s ri r e) := by
  unfold State.encodeEntry
  repeat' (first
      | extract_lets | with_reducible apply Keeps.refl | exact rfl
      | with_reducible apply Keeps.stepFrame (State.groupTable_frame ..)
      | with_reducible apply Keeps.step (State.fetchLines_keeps ..)
      | with_reducible apply Keeps.step (State.encodeBlock_keeps ..) | with_reducible apply Keeps.ite)

theorem State.writeEntry_keeps (s : State) (ri : Nat) (r : Region) (e : WEntry) :
    Keeps s (State.writeEntry s ri r e) := by
  unfold State.writeEntry
  repeat' (first
      | extract_lets | with_reducible apply Keeps.refl | exact rfl
      | (with_reducible apply Keeps.step (State.modHbm_keeps _ _ (by intro h k; first | exact h | (dsimp only [Store.freshLines, Store.poisonBlock]; first | exact h | exact Memory.wf_writeBytes _ _ _ h | exact Memory.wf_writeLine _ _ _ h | exact Memory.wf_tableClear _ _ _ h) | exact Store.wf_clearPages _ _ _ h | exact Memory.wf_writeBytes _ _ _ h | exact Memory.wf_writeLine _ _ _ h | exact Memory.wf_tableClear _ _ _ h | (split; exact Store.wf_copyPage _ _ _ h k; exact Store.wf_clearPages _ _ _ h))))
      | with_reducible apply Keeps.step (State.encodeEntry_keeps ..)
      | with_reducible apply Keeps.step (State.countStack_keeps ..)
      | with_reducible apply Keeps.stepFrame (State.modStack_frame ..) | with_reducible apply Keeps.eachTrans
      | with_reducible apply Keeps.ite | intro _ | with_reducible apply Keeps.stepFrame (Frame.set_wbuf ..))

theorem State.oldWrong_keeps (s : State) (r : Region) (line : Nat) :
    Keeps s (State.oldWrong s r line).2 := by
  unfold State.oldWrong
  repeat' (first
      | extract_lets | with_reducible apply Keeps.refl | exact rfl
      | with_reducible apply Keeps.step (State.stripeXor_keeps ..)
      | with_reducible apply Keeps.stepFrame (State.takeFree_frame ..) | with_reducible apply Keeps.iteSnd | split)

theorem State.oldWrongs_keeps (s : State) (r : Region) (line : Nat) (y0 : Nat) :
    Keeps s (State.oldWrongs s r line y0).2 := by
  induction y0 generalizing s r line with
  | zero => (unfold State.oldWrongs; repeat' (first
       | extract_lets
       | with_reducible apply Keeps.refl
       | with_reducible apply Keeps.step (State.oldWrong_keeps ..)
       | with_reducible apply Keeps.step (ih ..)))
  | succ y0 ih =>
    (unfold State.oldWrongs
     repeat' (first
         | extract_lets | with_reducible apply Keeps.refl | with_reducible apply Keeps.step (State.oldWrong_keeps ..)
         | with_reducible apply Keeps.step (ih ..)))

theorem State.drainStriped_keeps (s : State) (ri : Nat) (r : Region) (e : WEntry) :
    Keeps s (State.drainStriped s ri r e) := by
  unfold State.drainStriped
  repeat' (first
      | extract_lets | with_reducible apply Keeps.refl | exact rfl
      | with_reducible apply Keeps.step (State.oldWrongs_keeps ..)
      | with_reducible apply Keeps.step (State.writeEntry_keeps ..)
      | with_reducible apply Keeps.step (State.countStack_keeps ..)
      | with_reducible apply Keeps.stepFrame (State.sendDelta_frame ..) | with_reducible apply Keeps.eachTrans | intro _)

theorem State.freshParity_keeps (s : State) (t : Stripe) :
    Keeps s (State.freshParity s t) := by
  unfold State.freshParity
  repeat' (first
      | extract_lets | with_reducible apply Keeps.refl | exact rfl
      | with_reducible apply Keeps.stepFrame (State.modStack_frame ..)
      | with_reducible apply Keeps.stepFrame (State.modParity_frame ..)
      | with_reducible apply Keeps.step (State.countStack_keeps ..))

theorem State.drainMates_keeps (s : State) (l : List WEntry) :
    Keeps s (State.drainMates s l) := by
  unfold State.drainMates
  repeat' (first
      | extract_lets | with_reducible apply Keeps.refl | exact rfl
      | with_reducible apply Keeps.step (State.oldWrongs_keeps ..)
      | with_reducible apply Keeps.step (State.writeEntry_keeps ..)
      | with_reducible apply Keeps.stepFrame (State.sendDelta_frame ..)
      | with_reducible apply Keeps.step (State.freshParity_keeps ..) | with_reducible apply Keeps.eachTrans
      | with_reducible apply Keeps.foldTrans | split | intro _)

theorem State.drain_keeps (s : State) (e : WEntry) :
    Keeps s (State.drain s e) := by
  unfold State.drain
  repeat' (first
      | extract_lets | with_reducible apply Keeps.refl | exact rfl
      | with_reducible apply Keeps.step (State.writeEntry_keeps ..)
      | with_reducible apply Keeps.step (State.drainStriped_keeps ..)
      | with_reducible apply Keeps.stepFrame (State.takeFree_frame ..)
      | with_reducible apply Keeps.step (State.drainMates_keeps ..) | with_reducible apply Keeps.ite | split
      | with_reducible apply Keeps.stepFrame (Frame.set_wbuf ..))

theorem State.makeRoom_keeps (s : State) (k : Nat) (n : Nat) (y0 : Nat) :
    Keeps s (State.makeRoom s k n y0) := by
  induction y0 generalizing s k n with
  | zero => (unfold State.makeRoom; repeat' (first
       | extract_lets
       | with_reducible apply Keeps.refl
       | exact rfl
       | with_reducible apply Keeps.stepFrame (State.nextDrain_frame ..)
       | with_reducible apply Keeps.step (State.drain_keeps ..)
       | with_reducible apply Keeps.step (ih ..)
       | with_reducible apply Keeps.ite
       | split))
  | succ y0 ih =>
    (unfold State.makeRoom
     repeat' (first
         | extract_lets | with_reducible apply Keeps.refl | exact rfl
         | with_reducible apply Keeps.stepFrame (State.nextDrain_frame ..)
         | with_reducible apply Keeps.step (State.drain_keeps ..) | with_reducible apply Keeps.step (ih ..)
         | with_reducible apply Keeps.ite | split))

theorem State.buffer_keeps (s : State) (line : Nat) (block : Bool) (pri : Pri) (ctx : Nat) (data : List Line) (fill : Bool) :
    Keeps s (State.buffer s line block pri ctx data fill) := by
  unfold State.buffer
  repeat' (first
      | extract_lets | with_reducible apply Keeps.refl | exact rfl
      | with_reducible apply Keeps.step (State.makeRoom_keeps ..)
      | with_reducible apply Keeps.stepFrame (State.takeId_frame ..)
      | with_reducible apply Keeps.stepFrame (Frame.set_wbuf ..))

theorem State.putLines_keeps (s : State) (r : Region) (line : Nat) (data : List Line) (pri : Pri) (ctx : Nat) :
    Keeps s (State.putLines s r line data pri ctx) := by
  unfold State.putLines
  repeat' (first
      | extract_lets | with_reducible apply Keeps.refl | with_reducible apply Keeps.step (State.buffer_keeps ..)
      | (with_reducible apply Keeps.step (State.modHbm_keeps _ _ (by intro h k; first | exact h | (dsimp only [Store.freshLines, Store.poisonBlock]; first | exact h | exact Memory.wf_writeBytes _ _ _ h | exact Memory.wf_writeLine _ _ _ h | exact Memory.wf_tableClear _ _ _ h) | exact Store.wf_clearPages _ _ _ h | exact Memory.wf_writeBytes _ _ _ h | exact Memory.wf_writeLine _ _ _ h | exact Memory.wf_tableClear _ _ _ h | (split; exact Store.wf_copyPage _ _ _ h k; exact Store.wf_clearPages _ _ _ h))))
      | with_reducible apply Keeps.eachTrans | with_reducible apply Keeps.ite | intro _)

theorem State.poisonLine_keeps (s : State) (line : Nat) (reason : Nat) (kind : Nat) :
    Keeps s (State.poisonLine s line reason kind) := by
  unfold State.poisonLine
  repeat' (first
      | extract_lets | with_reducible apply Keeps.refl | exact rfl
      | with_reducible apply Keeps.step (State.oldWrong_keeps ..)
      | with_reducible apply Keeps.stepFrame (State.sendDelta_frame ..)
      | (with_reducible apply Keeps.step (State.modHbm_keeps _ _ (by intro h k; first | exact h | (dsimp only [Store.freshLines, Store.poisonBlock]; first | exact h | exact Memory.wf_writeBytes _ _ _ h | exact Memory.wf_writeLine _ _ _ h | exact Memory.wf_tableClear _ _ _ h) | exact Store.wf_clearPages _ _ _ h | exact Memory.wf_writeBytes _ _ _ h | exact Memory.wf_writeLine _ _ _ h | exact Memory.wf_tableClear _ _ _ h | (split; exact Store.wf_copyPage _ _ _ h k; exact Store.wf_clearPages _ _ _ h))))
      | with_reducible apply Keeps.stepFrame (State.modEnt_frame ..) | with_reducible apply Keeps.ite | split
      | dsimp +zetaDelta only [id])

theorem State.sendRecall_keeps (s : State) (line : Nat) :
    Keeps s (State.sendRecall s line) := by
  unfold State.sendRecall
  repeat' (first
      | extract_lets | with_reducible apply Keeps.refl | exact rfl
      | with_reducible apply Keeps.stepFrame (State.modPort_frame ..)
      | with_reducible apply Keeps.step (State.count_keeps ..)
      | with_reducible apply Keeps.stepFrame (State.sendMsg_frame ..) | with_reducible apply Keeps.ite | split
      | with_reducible apply Keeps.stepFrame (Frame.set_leases ..))

theorem State.tagFreed_keeps (s : State) (port : Nat) :
    Keeps s (State.tagFreed s port) := by
  unfold State.tagFreed
  repeat' (first
      | extract_lets | with_reducible apply Keeps.refl | with_reducible apply Keeps.step (State.sendRecall_keeps ..) | split)

theorem State.endLease_keeps (s : State) (line : Nat) :
    Keeps s (State.endLease s line) := by
  unfold State.endLease
  repeat' (first
      | extract_lets | with_reducible apply Keeps.refl | exact rfl
      | with_reducible apply Keeps.step (State.tagFreed_keeps ..)
      | with_reducible apply Keeps.stepFrame (State.modPort_frame ..) | split
      | with_reducible apply Keeps.stepFrame (Frame.set_leases ..))

theorem State.atomLines_keeps (s : State) (r : Region) (cls : Nat) (ctx : Nat) (src : Source) (y0 : List Nat) :
    Keeps s (State.atomLines s r cls ctx src y0).2 := by
  induction y0 generalizing s r cls ctx src with
  | nil => (unfold State.atomLines; repeat' (first
       | extract_lets
       | with_reducible apply Keeps.refl
       | with_reducible apply Keeps.step (State.readOne_keeps ..)
       | with_reducible apply Keeps.step (ih ..)
       | with_reducible apply Keeps.iteSnd))
  | cons a y0 ih =>
    (unfold State.atomLines
     repeat' (first
         | extract_lets | with_reducible apply Keeps.refl | with_reducible apply Keeps.step (State.readOne_keeps ..)
         | with_reducible apply Keeps.step (ih ..) | with_reducible apply Keeps.iteSnd))

theorem State.atomicScalar_keeps (s : State) (r : Region) (za : Nat) (atop : Nat) (awidth : Nat) (a : Nat) (b : Nat) (ctx : Nat) (cls : Nat) (src : Source) (pri : Pri) :
    Keeps s (State.atomicScalar s r za atop awidth a b ctx cls src pri).2.2 := by
  unfold State.atomicScalar
  repeat' (first
      | extract_lets | with_reducible apply Keeps.refl | exact rfl
      | with_reducible apply Keeps.step (State.atomLines_keeps ..) | with_reducible apply Keeps.step (State.count_keeps ..)
      | with_reducible apply Keeps.step (State.dataError_keeps ..)
      | with_reducible apply Keeps.stepFrame (State.keepAtom_frame ..)
      | with_reducible apply Keeps.step (State.putLines_keeps ..) | split)

theorem State.atomicVadd_keeps (s : State) (r : Region) (za : Nat) (awidth : Nat) (v : Line) (ctx : Nat) (cls : Nat) (src : Source) (pri : Pri) :
    Keeps s (State.atomicVadd s r za awidth v ctx cls src pri).2 := by
  unfold State.atomicVadd
  repeat' (first
      | extract_lets | with_reducible apply Keeps.refl | exact rfl
      | with_reducible apply Keeps.step (State.atomLines_keeps ..) | with_reducible apply Keeps.step (State.count_keeps ..)
      | with_reducible apply Keeps.step (State.dataError_keeps ..)
      | with_reducible apply Keeps.stepFrame (State.keepAtom_frame ..)
      | with_reducible apply Keeps.step (State.putLines_keeps ..) | split)

theorem State.accumulate_keeps (s : State) (r : Region) (za : Nat) (awidth : Nat) (data : List Line) (ctx : Nat) (cls : Nat) (src : Source) (pri : Pri) :
    Keeps s (State.accumulate s r za awidth data ctx cls src pri).2 := by
  unfold State.accumulate
  repeat' (first
      | extract_lets | with_reducible apply Keeps.refl | exact rfl
      | with_reducible apply Keeps.step (State.atomLines_keeps ..)
      | with_reducible apply Keeps.step (State.dataError_keeps ..) | with_reducible apply Keeps.step (State.count_keeps ..)
      | with_reducible apply Keeps.step (State.putLines_keeps ..)
      | with_reducible apply Keeps.stepFrame (State.keepAtom_frame ..) | with_reducible apply Keeps.eachTrans | split
      | intro _)

theorem State.clearLine_keeps (s : State) (r : Region) (line : Nat) (ctx : Nat) :
    Keeps s (State.clearLine s r line ctx) := by
  unfold State.clearLine
  repeat' (first
      | extract_lets | with_reducible apply Keeps.refl | with_reducible apply Keeps.step (State.buffer_keeps ..)
      | (with_reducible apply Keeps.step (State.modHbm_keeps _ _ (by intro h k; first | exact h | (dsimp only [Store.freshLines, Store.poisonBlock]; first | exact h | exact Memory.wf_writeBytes _ _ _ h | exact Memory.wf_writeLine _ _ _ h | exact Memory.wf_tableClear _ _ _ h) | exact Store.wf_clearPages _ _ _ h | exact Memory.wf_writeBytes _ _ _ h | exact Memory.wf_writeLine _ _ _ h | exact Memory.wf_tableClear _ _ _ h | (split; exact Store.wf_copyPage _ _ _ h k; exact Store.wf_clearPages _ _ _ h))))
      | with_reducible apply Keeps.step (State.putLines_keeps ..) | with_reducible apply Keeps.ite)

theorem State.perform_keeps (s : State) (q : Req) (r : Region) :
    Keeps s (State.perform s q r) := by
  unfold State.perform
  repeat' (first
      | extract_lets | with_reducible apply Keeps.refl | exact rfl
      | with_reducible apply Keeps.step (State.latencySample_keeps ..)
      | with_reducible apply Keeps.step (State.tangentSlot_keeps ..)
      | with_reducible apply Keeps.step (State.readLines_keeps ..)
      | with_reducible apply Keeps.step (State.answerRead_keeps ..)
      | with_reducible apply Keeps.step (State.countGnm_keeps ..)
      | with_reducible apply Keeps.step (State.answerDone_keeps ..)
      | with_reducible apply Keeps.step (State.dataError_keeps ..)
      | with_reducible apply Keeps.step (State.putLines_keeps ..)
      | with_reducible apply Keeps.step (State.poisonLine_keeps ..)
      | with_reducible apply Keeps.step (State.endLease_keeps ..)
      | with_reducible apply Keeps.step (State.atomicScalar_keeps ..)
      | with_reducible apply Keeps.step (State.atomicVadd_keeps ..)
      | with_reducible apply Keeps.step (State.accumulate_keeps ..)
      | with_reducible apply Keeps.step (State.clearLine_keeps ..) | with_reducible apply Keeps.ite | split
      | with_reducible apply Keeps.stepFrame (Frame.set_leases ..))

theorem State.atOrder_keeps (s : State) (q : Req) (r : Region) :
    Keeps s (State.atOrder s q r) := by
  unfold State.atOrder
  repeat' (first
      | extract_lets | with_reducible apply Keeps.refl | exact rfl | with_reducible apply Keeps.step (State.perform_keeps ..)
      | with_reducible apply Keeps.stepFrame (State.hold_frame ..) | with_reducible apply Keeps.ite)

theorem State.forward_keeps (s : State) (q : Req) (r : Region) :
    Keeps s (State.forward s q r) := by
  unfold State.forward
  repeat' (first
      | extract_lets | with_reducible apply Keeps.refl | with_reducible apply Keeps.step (State.atOrder_keeps ..)
      | with_reducible apply Keeps.step (State.hop_keeps ..) | with_reducible apply Keeps.ite)

theorem State.leaseRoute_keeps (s : State) (q : Req) (r : Region) :
    Keeps s (State.leaseRoute s q r) := by
  unfold State.leaseRoute
  repeat' (first
      | extract_lets | with_reducible apply Keeps.refl | exact rfl
      | with_reducible apply Keeps.stepFrame (State.answerErr_frame ..)
      | with_reducible apply Keeps.step (State.hop_keeps ..) | with_reducible apply Keeps.step (State.count_keeps ..)
      | with_reducible apply Keeps.step (State.forward_keeps ..)
      | with_reducible apply Keeps.step (State.sendRecall_keeps ..)
      | with_reducible apply Keeps.stepFrame (State.hold_frame ..) | with_reducible apply Keeps.ite | split)

theorem State.startRead_keeps (s : State) (d : Nat) (die : Nat) (r : FlashRead) :
    Keeps s (State.startRead s d die r) := by
  unfold State.startRead
  repeat' (first
      | extract_lets | with_reducible apply Keeps.refl | exact rfl | with_reducible apply Keeps.step (State.count_keeps ..)
      | with_reducible apply Keeps.stepFrame (State.modNand_frame ..) | with_reducible apply Keeps.ite)

theorem State.raiseFetch_keeps (s : State) (page : Nat) :
    Keeps s (State.raiseFetch s page) := by
  unfold State.raiseFetch
  repeat' (first
      | extract_lets | with_reducible apply Keeps.refl | exact rfl
      | with_reducible apply Keeps.stepFrame (State.modEnt_frame ..)
      | with_reducible apply Keeps.step (State.startRead_keeps ..)
      | with_reducible apply Keeps.stepFrame (State.modNand_frame ..) | with_reducible apply Keeps.eachTrans
      | with_reducible apply Keeps.ite | split | intro _)

theorem State.accessPage_keeps (s : State) (page : Nat) (wr : Option (BitVec 16)) (missed : State → State) (hf : ∀ s, Keeps s (missed s)) :
    Keeps s (State.accessPage s page wr missed).2 := by
  unfold State.accessPage
  repeat' (first
      | extract_lets | with_reducible apply Keeps.refl | exact rfl
      | (with_reducible apply Keeps.step; (with_reducible apply State.zeroFrame_keeps; with_reducible assumption))
      | with_reducible apply Keeps.stepFrame (State.cancelPrefetch_frame ..)
      | with_reducible apply Keeps.stepFrame (State.queueDemand_frame ..)
      | with_reducible apply Keeps.step (State.raiseFetch_keeps ..)
      | with_reducible apply Keeps.stepFrame (State.modEnt_frame ..) | with_reducible apply Keeps.step (hf ..)
      | with_reducible apply Keeps.iteSnd | split)

theorem State.countMiss_keeps (s : State) (page : Nat) (ctx : Nat) (v : Visit) :
    Keeps s (State.countMiss s page ctx v) := by
  unfold State.countMiss
  repeat' (first
      | extract_lets | with_reducible apply Keeps.refl | with_reducible apply Keeps.step (State.countGnm_keeps ..)
      | with_reducible apply Keeps.ite)

theorem State.lookup_keeps (s : State) (page : Nat) (wr : Option (BitVec 16)) (ctx : Nat) (cls : Option Nat) (v : Visit) :
    Keeps s (State.lookup s page wr ctx cls v).2 := by
  unfold State.lookup
  repeat' (first
      | extract_lets | with_reducible apply Keeps.refl | with_reducible apply Keeps.step (State.look_keeps ..)
      | with_reducible apply Keeps.step (State.countMiss_keeps ..)
      | with_reducible apply Keeps.step (State.accessPage_keeps ..) | with_reducible apply Keeps.iteSnd | intro _)

theorem State.answerRetry_keeps (s : State) (port : Nat) (vc : Nat) (ctx : Nat) (tag : Nat) (len : Nat) (cls : Nat) (retry : Nat) :
    Keeps s (State.answerRetry s port vc ctx tag len cls retry) := by
  unfold State.answerRetry
  repeat' (first
      | extract_lets | with_reducible apply Keeps.refl | exact rfl | with_reducible apply Keeps.step (State.count_keeps ..)
      | with_reducible apply Keeps.stepFrame (State.answer1_frame ..))

theorem State.retryMiss_keeps (s : State) (q : Req) (page : Nat) :
    Keeps s (State.retryMiss s q page) := by
  unfold State.retryMiss
  repeat' (first
      | extract_lets | with_reducible apply Keeps.refl | exact rfl
      | with_reducible apply Keeps.stepFrame (State.fetchHint_frame ..)
      | with_reducible apply Keeps.step (State.answerRetry_keeps ..) | with_reducible apply Keeps.step (State.hop_keeps ..)
      | with_reducible apply Keeps.step (State.count_keeps ..) | split)

theorem State.missed_keeps (s : State) (q : Req) (page : Nat) :
    Keeps s (State.missed s q page) := by
  unfold State.missed
  repeat' (first
      | extract_lets | with_reducible apply Keeps.refl | exact rfl
      | with_reducible apply Keeps.stepFrame (State.hold_frame ..)
      | with_reducible apply Keeps.step (State.retryMiss_keeps ..) | with_reducible apply Keeps.step (State.replyTo_keeps ..)
      | with_reducible apply Keeps.ite | split)

theorem State.failReq_keeps (s : State) (q : Req) (status : Nat) :
    Keeps s (State.failReq s q status) := by
  unfold State.failReq
  repeat' (first
      | extract_lets | with_reducible apply Keeps.refl | with_reducible apply Keeps.step (State.answerRead_keeps ..)
      | with_reducible apply Keeps.step (State.answerDone_keeps ..) | with_reducible apply Keeps.ite)

theorem State.tierRoute_keeps (s : State) (q : Req) (r : Region) :
    Keeps s (State.tierRoute s q r) := by
  unfold State.tierRoute
  repeat' (first
      | extract_lets | with_reducible apply Keeps.refl | exact rfl | with_reducible apply Keeps.step (State.lookup_keeps ..)
      | with_reducible apply Keeps.step (State.answerRead_keeps ..)
      | with_reducible apply Keeps.step (State.forward_keeps ..) | with_reducible apply Keeps.stepFrame (State.hold_frame ..)
      | with_reducible apply Keeps.step (State.missed_keeps ..) | with_reducible apply Keeps.step (State.failReq_keeps ..)
      | with_reducible apply Keeps.step (State.dataError_keeps ..) | split)

theorem State.route_keeps (s : State) (q : Req) :
    Keeps s (State.route s q) := by
  unfold State.route
  repeat' (first
      | extract_lets | with_reducible apply Keeps.refl | exact rfl
      | with_reducible apply Keeps.stepFrame (State.hold_frame ..)
      | with_reducible apply Keeps.step (State.leaseRoute_keeps ..)
      | with_reducible apply Keeps.step (State.tierRoute_keeps ..) | with_reducible apply Keeps.step (State.atOrder_keeps ..)
      | with_reducible apply Keeps.ite | split)

theorem State.rerouted_keeps (s : State) (p : Req → Bool) :
    Keeps s (State.rerouted s p) := by
  unfold State.rerouted
  repeat' (first
      | extract_lets | with_reducible apply Keeps.refl | exact rfl | with_reducible apply Keeps.step (State.route_keeps ..)
      | with_reducible apply Keeps.eachTrans | intro _ | with_reducible apply Keeps.stepFrame (Frame.set_held ..))

theorem State.settleHeld_keeps (s : State) (y0 : Nat) :
    Keeps s (State.settleHeld s y0) := by
  induction y0 generalizing s with
  | zero => (unfold State.settleHeld; repeat' (first
       | extract_lets
       | with_reducible apply Keeps.refl
       | with_reducible apply Keeps.step (State.rerouted_keeps ..)
       | with_reducible apply Keeps.step (ih ..)
       | with_reducible apply Keeps.ite))
  | succ y0 ih =>
    (unfold State.settleHeld
     repeat' (first
         | extract_lets | with_reducible apply Keeps.refl | with_reducible apply Keeps.step (State.rerouted_keeps ..)
         | with_reducible apply Keeps.step (ih ..) | with_reducible apply Keeps.ite))

theorem State.endMove_keeps (s : State) (i : Nat) :
    Keeps s (State.endMove s i) := by
  unfold State.endMove
  repeat' (first
      | extract_lets | with_reducible apply Keeps.refl | exact rfl
      | with_reducible apply Keeps.step (State.rerouted_keeps ..)
      | with_reducible apply Keeps.stepFrame (State.setRegion_frame ..)
      | with_reducible apply Keeps.step (State.replyTo_keeps ..)
      | with_reducible apply Keeps.step (State.settleHeld_keeps ..) | with_reducible apply Keeps.ite | split)

theorem State.settle_keeps (s : State) :
    Keeps s (State.settle s) := by
  unfold State.settle
  repeat' (first
      | extract_lets | with_reducible apply Keeps.refl | with_reducible apply Keeps.step (State.settleHeld_keeps ..)
      | with_reducible apply Keeps.step (State.endMove_keeps ..) | with_reducible apply Keeps.eachTrans | intro _)

theorem State.pageReady_keeps (s : State) (page : Nat) :
    Keeps s (State.pageReady s page) := by
  unfold State.pageReady
  repeat' (first
      | extract_lets | with_reducible apply Keeps.refl | with_reducible apply Keeps.step (State.settle_keeps ..)
      | with_reducible apply Keeps.step (State.rerouted_keeps ..))

theorem State.reachTier_keeps (s : State) (m : Mover) (t : Trans) (r : Region) (n : Nat) (write : Option Bool) :
    Keeps s (State.reachTier s m t r n write).2 := by
  unfold State.reachTier
  repeat' (first
      | extract_lets | with_reducible apply Keeps.refl | exact rfl
      | with_reducible apply Keeps.stepFrame (State.modEnt_frame ..) | with_reducible apply Keeps.step (State.look_keeps ..)
      | with_reducible apply Keeps.step (State.moverHops_keeps ..)
      | with_reducible apply Keeps.step (State.dataError_keeps ..)
      | (with_reducible apply Keeps.step; (with_reducible apply State.coverPage_keeps; with_reducible assumption))
      | with_reducible apply Keeps.step (State.pageReady_keeps ..)
      | with_reducible apply Keeps.step (State.moverMiss_keeps ..)
      | with_reducible apply Keeps.step (State.countMiss_keeps ..)
      | with_reducible apply Keeps.step (State.accessPage_keeps ..) | with_reducible apply Keeps.iteSnd | split | intro _)

theorem State.reachRegion_keeps (s : State) (m : Mover) (t : Trans) (r : Region) (n : Nat) (write : Option Bool) :
    Keeps s (State.reachRegion s m t r n write).2 := by
  unfold State.reachRegion
  repeat' (first
      | extract_lets | with_reducible apply Keeps.refl | with_reducible apply Keeps.step (State.sendRecall_keeps ..)
      | with_reducible apply Keeps.step (State.reachTier_keeps ..) | with_reducible apply Keeps.iteSnd | split)

theorem State.reach_keeps (s : State) (m : Mover) (la : Nat) (n : Nat) (p : Perm) (write : Option Bool) :
    Keeps s (State.reach s m la n p write).2 := by
  unfold State.reach
  repeat' (first
      | extract_lets | with_reducible apply Keeps.refl | exact rfl
      | with_reducible apply Keeps.step (State.reachRegion_keeps ..)
      | with_reducible apply Keeps.stepFrame (State.through_frame ..) | with_reducible apply Keeps.iteSnd | split)

theorem State.readReached_keeps {s : State} {m : Mover} {la n : Nat} {o : Reach × State} (h : Keeps s o.2) :
    Keeps s (State.readReached m la n o).2 := by
  unfold State.readReached
  repeat' (first
      | extract_lets | with_reducible assumption | with_reducible apply Keeps.step (State.moverHops_keeps ..)
      | with_reducible apply Keeps.step (State.readLines_keeps ..) | split)

theorem State.readPiece_keeps (s : State) (m : Mover) (la : Nat) (n : Nat) :
    Keeps s (State.readPiece s m la n).2 := by
  unfold State.readPiece
  repeat' (first
      | with_reducible apply State.readReached_keeps | extract_lets | with_reducible apply Keeps.refl
      | with_reducible apply Keeps.step (State.reach_keeps ..))

theorem State.readPieces_keeps (s : State) (m : Mover) (y0 : List (Nat × Nat)) :
    Keeps s (State.readPieces s m y0).2 := by
  induction y0 generalizing s with
  | nil => (unfold State.readPieces; repeat' (first
       | extract_lets
       | with_reducible apply Keeps.refl
       | with_reducible apply Keeps.step (State.readPiece_keeps ..)
       | with_reducible apply Keeps.step (ih ..)
       | split))
  | cons a y0 ih =>
    (unfold State.readPieces
     repeat' (first
         | extract_lets | with_reducible apply Keeps.refl | with_reducible apply Keeps.step (State.readPiece_keeps ..)
         | with_reducible apply Keeps.step (ih ..) | split))

theorem State.moverRead_keeps (s : State) (m : Mover) (la : Nat) (len : Nat) :
    Keeps s (State.moverRead s m la len).2 := by
  unfold State.moverRead
  repeat' (first
      | extract_lets | with_reducible apply Keeps.refl | with_reducible apply Keeps.step (State.readPieces_keeps ..))

theorem State.writePiece_keeps (s : State) (m : Mover) (la : Nat) (data : List Line) (whole : Bool) :
    Keeps s (State.writePiece s m la data whole).2 := by
  unfold State.writePiece
  repeat' (first
      | extract_lets | with_reducible apply Keeps.refl | with_reducible apply Keeps.step (State.reach_keeps ..)
      | with_reducible apply Keeps.step (State.moverHops_keeps ..)
      | with_reducible apply Keeps.step (State.dataError_keeps ..)
      | with_reducible apply Keeps.step (State.putLines_keeps ..) | with_reducible apply Keeps.iteSnd | split)

theorem State.writePieces_keeps (s : State) (m : Mover) (whole : Nat → Bool) (y0 : List (Nat × Nat)) (y1 : List Line) :
    Keeps s (State.writePieces s m whole y0 y1).2 := by
  induction y0 generalizing s whole y1 with
  | nil => (unfold State.writePieces; repeat' (first
       | extract_lets
       | with_reducible apply Keeps.refl
       | with_reducible apply Keeps.step (State.writePiece_keeps ..)
       | with_reducible apply Keeps.step (ih ..)
       | split))
  | cons a y0 ih =>
    (unfold State.writePieces
     repeat' (first
         | extract_lets | with_reducible apply Keeps.refl | with_reducible apply Keeps.step (State.writePiece_keeps ..)
         | with_reducible apply Keeps.step (ih ..) | split))

theorem State.moverWrite_keeps (s : State) (m : Mover) (la : Nat) (data : List Line) (whole : Nat → Bool) :
    Keeps s (State.moverWrite s m la data whole).2 := by
  unfold State.moverWrite
  repeat' (first
      | extract_lets | with_reducible apply Keeps.refl | with_reducible apply Keeps.step (State.writePieces_keeps ..))

theorem State.moverAcc_keeps (s : State) (m : Mover) (la : Nat) (awidth : Nat) (data : List Line) :
    Keeps s (State.moverAcc s m la awidth data).2 := by
  unfold State.moverAcc
  repeat' (first
      | extract_lets | with_reducible apply Keeps.refl | with_reducible apply Keeps.step (State.reach_keeps ..)
      | with_reducible apply Keeps.step (State.accumulate_keeps ..)
      | with_reducible apply Keeps.step (State.moverHops_keeps ..) | with_reducible apply Keeps.iteSnd | split)

theorem State.moverVadd_keeps (s : State) (m : Mover) (la : Nat) (awidth : Nat) (v : Line) :
    Keeps s (State.moverVadd s m la awidth v).2 := by
  unfold State.moverVadd
  repeat' (first
      | extract_lets | with_reducible apply Keeps.refl | with_reducible apply Keeps.step (State.reach_keeps ..)
      | with_reducible apply Keeps.step (State.atomicVadd_keeps ..)
      | with_reducible apply Keeps.step (State.moverHops_keeps ..) | with_reducible apply Keeps.iteSnd | split)

theorem State.readAndZero_keeps (s : State) (r : Region) (line : Nat) (n : Nat) (ctx : Nat) (pri : Pri) :
    Keeps s (State.readAndZero s r line n ctx pri).2 := by
  unfold State.readAndZero
  repeat' (first
      | extract_lets | with_reducible apply Keeps.refl | with_reducible apply Keeps.step (State.readLines_keeps ..)
      | with_reducible apply Keeps.step (State.putLines_keeps ..) | with_reducible apply Keeps.iteSnd)

theorem State.moverReadZero_keeps (s : State) (m : Mover) (la : Nat) (n : Nat) :
    Keeps s (State.moverReadZero s m la n).2 := by
  unfold State.moverReadZero
  repeat' (first
      | extract_lets | with_reducible apply Keeps.refl | with_reducible apply Keeps.step (State.reach_keeps ..)
      | with_reducible apply Keeps.step (State.readAndZero_keeps ..)
      | with_reducible apply Keeps.step (State.moverHops_keeps ..) | with_reducible apply Keeps.iteSnd | split)

theorem State.leaveHold_keeps (s : State) (q : Req) :
    Keeps s (State.leaveHold s q) := by
  unfold State.leaveHold
  repeat' (first
      | extract_lets | with_reducible apply Keeps.refl | exact rfl
      | with_reducible apply Keeps.stepFrame (State.owe_frame ..) | with_reducible apply Keeps.step (State.hop_keeps ..)
      | with_reducible apply Keeps.ite | split)

theorem State.cxlRefuse_keeps (s : State) (tag : Nat) (read : Bool) :
    Keeps s (State.cxlRefuse s tag read) := by
  unfold State.cxlRefuse
  repeat' (first
      | extract_lets | with_reducible apply Keeps.refl | exact rfl
      | with_reducible apply Keeps.stepFrame (State.modHep_frame ..) | with_reducible apply Keeps.step (State.count_keeps ..)
      | with_reducible apply Keeps.stepFrame (State.emit_frame ..) | with_reducible apply Keeps.ite)

theorem State.refuseHeld_keeps (s : State) (p : Req → Bool) :
    Keeps s (State.refuseHeld s p) := by
  unfold State.refuseHeld
  repeat' (first
      | extract_lets | with_reducible apply Keeps.refl | exact rfl | with_reducible apply Keeps.step (State.settle_keeps ..)
      | with_reducible apply Keeps.step (State.leaveHold_keeps ..)
      | with_reducible apply Keeps.stepFrame (State.answerErr_frame ..)
      | with_reducible apply Keeps.step (State.cxlRefuse_keeps ..) | with_reducible apply Keeps.step (State.replyTo_keeps ..)
      | with_reducible apply Keeps.eachTrans | split | intro _ | with_reducible apply Keeps.stepFrame (Frame.set_held ..))

theorem State.rewriteSegment_keeps (s : State) (d seg : Nat) : Keeps s (s.rewriteSegment d seg) := by
  have last (t : State) : Keeps t { t with
      saved := t.saved.map fun e => if e.1 / 131072 = seg then (e.1, (t.newestRec e.1).getD e.2) else e } := by
    refine Keeps.ofStore (fun h => ⟨h.1, h.2.1, h.2.2.1, fun e he => ?_, h.2.2.2.2⟩) rfl rfl
    obtain ⟨a, ha, rfl⟩ := List.mem_map.mp he
    split
    · dsimp only
      cases hn : t.newestRec a.1 with
      | none => exact h.2.2.2.1 a ha
      | some r => exact State.newestRec_wf h a.1 r hn
    · exact h.2.2.2.1 a ha
  unfold State.rewriteSegment
  exact Keeps.step (last _) (Keeps.ofFrame (State.modFls_frame ..) rfl)

theorem State.dropSaved_keeps (s : State) : Keeps s s.dropSaved :=
  Keeps.ofStore (fun h => ⟨h.1, h.2.1, h.2.2.1, fun e he => h.2.2.2.1 e (List.mem_filter.mp he).1, h.2.2.2.2⟩) rfl rfl

theorem foldl_putNewer_wf (l : List JRec) (hl : ∀ r, r ∈ l → r.wf) (t : Tbl JRec) (ht : ∀ e, e ∈ t → e.2.wf) :
    ∀ e, e ∈ l.foldl putNewer t → e.2.wf := by
  induction l generalizing t with
  | nil => exact ht
  | cons r l ih =>
    refine ih (fun q hq => hl q (List.mem_cons_of_mem _ hq)) _ fun e he => ?_
    unfold putNewer at he
    split at he
    · rcases mem_tset he with rfl | he
      · exact hl r List.mem_cons_self
      · exact ht e he
    · exact ht e he

theorem State.journalSaved_keeps (s : State) (d : Nat) : Keeps s (s.journalSaved d) := by
  have last (t : State) (l : List JRec) (hl : t.memWf → ∀ r, r ∈ l → r.wf) : Keeps t { t with
      journals := t.journals.filter (·.die != d), saved := l.foldl putNewer t.saved } :=
    Keeps.ofStore (fun h => ⟨h.1, h.2.1, h.2.2.1, foldl_putNewer_wf _ (hl h) _ h.2.2.2.1,
      fun r hr => h.2.2.2.2 r (List.mem_filter.mp hr).1⟩) rfl rfl
  unfold State.journalSaved
  refine Keeps.step (State.dropSaved_keeps _) (Keeps.step (last _ _ ?_) (Keeps.ofFrame (State.modFls_frame ..) rfl))
  exact fun h r hr => h.2.2.2.2 r (List.mem_filter.mp hr).1

theorem State.journalMap_keeps (s : State) (d page : Nat) (commit : Bool) : Keeps s (s.journalMap d page commit) := by
  unfold State.journalMap
  have a : ∀ (t : State) n c, Keeps t { t with journals := t.journals ++ [t.flashRec d page n c] } := fun t n c =>
    Keeps.ofStore (fun h => ⟨h.1, h.2.1, h.2.2.1, h.2.2.2.1, fun r hr => (List.mem_append.mp hr).elim (h.2.2.2.2 r) fun hr =>
      List.mem_singleton.mp hr ▸ State.flashRec_wf h ..⟩) rfl rfl
  refine Keeps.ite (Keeps.step (State.journalSaved_keeps ..) ?_) ?_ <;>
    exact Keeps.ite (Keeps.step (State.rewriteSegment_keeps ..) (((Keeps.ofFrame (State.takeId_frame s) rfl).trans (a ..)).trans
      (Keeps.ofFrame (State.modFls_frame ..) rfl))) (((Keeps.ofFrame (State.takeId_frame s) rfl).trans (a ..)).trans
      (Keeps.ofFrame (State.modFls_frame ..) rfl))

theorem State.saveFlash_keeps (s : State) (page : Nat) : Keeps s (s.saveFlash page) := by
  unfold State.saveFlash
  split
  · exact Keeps.refl s
  · refine Keeps.ofStore (fun h => ⟨h.1, h.2.1, h.2.2.1, fun e he => ?_, h.2.2.2.2⟩) rfl rfl
    rcases mem_tset he with rfl | he
    · exact State.flashRec_wf h ..
    · exact h.2.2.2.1 e he

theorem State.trim_keeps (s : State) (page : Nat) : Keeps s (s.trim page) := by
  have gone (t : State) (m i) : Keeps t { t with
      fmap := m, images := i, flash := t.flash.clearPages page 1, staged := t.staged.clearPages page 1 } :=
    Keeps.ofStore (fun h => ⟨h.1, Store.wf_clearPages _ _ _ h.2.1, Store.wf_clearPages _ _ _ h.2.2.1, h.2.2.2⟩) rfl rfl
  unfold State.trim
  dsimp only
  split
  · exact Keeps.step (State.journalMap_keeps ..) (Keeps.step (gone ..) (Keeps.stepFrame (State.setFlashPair_frame ..) rfl
      (State.saveFlash_keeps ..)))
  · exact Keeps.step (gone ..) (Keeps.ofFrame (State.setFlashPair_frame ..) rfl)

theorem State.dispatchReq_keeps (s : State) (q : Req) :
    Keeps s (State.dispatchReq s q) := by
  unfold State.dispatchReq
  repeat' (first
      | extract_lets | with_reducible apply Keeps.refl | with_reducible apply Keeps.step (State.settle_keeps ..)
      | with_reducible apply Keeps.step (State.route_keeps ..) | with_reducible apply Keeps.step (State.hop_keeps ..))

theorem State.retryInvalid_keeps (s : State) (d : Nat) :
    Keeps s (State.retryInvalid s d) := by
  unfold State.retryInvalid
  repeat' (first
      | extract_lets | with_reducible apply Keeps.refl | with_reducible apply Keeps.step (State.settle_keeps ..)
      | with_reducible apply Keeps.step (State.rerouted_keeps ..))

theorem State.startWriteback_keeps (s : State) (page : Nat) (evicting : Bool) :
    Keeps s (State.startWriteback s page evicting) := by
  unfold State.startWriteback
  repeat' (first
      | extract_lets | with_reducible apply Keeps.refl | exact rfl
      | with_reducible apply Keeps.stepFrame (State.modEnt_frame ..)
      | with_reducible apply Keeps.step (State.cacheEntry_keeps ..))

theorem State.ckptCommitted_keeps (s : State) (page : Nat) :
    Keeps s (State.ckptCommitted s page) := by
  unfold State.ckptCommitted
  repeat' (first
      | extract_lets | with_reducible apply Keeps.refl | with_reducible apply Keeps.step (State.reply_keeps ..)
      | (with_reducible apply Keeps.step (State.modCmd_keeps _ _ _ (by intro g; first | rfl | (dsimp only [Cmd.fill]; done) | (split; rfl; (dsimp only [Cmd.arrived]; done)) | (dsimp only; split <;> rfl))))
      | with_reducible apply Keeps.step (State.startWriteback_keeps ..) | with_reducible apply Keeps.eachTrans
      | with_reducible apply Keeps.ite | intro _)

theorem State.joinDie_keeps (s : State) (page : Nat) (demand : Bool) :
    Keeps s (State.joinDie s page demand) := by
  unfold State.joinDie
  repeat' (first
      | extract_lets | with_reducible apply Keeps.refl | exact rfl
      | with_reducible apply Keeps.step (State.startRead_keeps ..)
      | with_reducible apply Keeps.stepFrame (State.modNand_frame ..) | with_reducible apply Keeps.ite | split)

theorem State.committed_keeps (s : State) (page : Nat) :
    Keeps s (State.committed s page) := by
  unfold State.committed
  repeat' (first
      | extract_lets | with_reducible apply Keeps.refl | exact rfl
      | with_reducible apply Keeps.step (State.countGnm_keeps ..)
      | with_reducible apply Keeps.stepFrame (State.fixed_frame ..)
      | with_reducible apply Keeps.stepFrame (State.modEnt_frame ..)
      | with_reducible apply Keeps.stepFrame (State.setFramePair_frame ..)
      | with_reducible apply Keeps.stepFrame (State.settlePressure_frame ..)
      | with_reducible apply Keeps.stepFrame (State.refetch_frame ..)
      | with_reducible apply Keeps.step (State.joinDie_keeps ..)
      | with_reducible apply Keeps.stepFrame (State.modDir_frame ..)
      | with_reducible apply Keeps.stepFrame (State.queueDemand_frame ..)
      | with_reducible apply Keeps.stepFrame (State.freeFrame_frame ..)
      | (with_reducible apply Keeps.step (State.modHbm_keeps _ _ (by intro h k; first | exact h | (dsimp only [Store.freshLines, Store.poisonBlock]; first | exact h | exact Memory.wf_writeBytes _ _ _ h | exact Memory.wf_writeLine _ _ _ h | exact Memory.wf_tableClear _ _ _ h) | exact Store.wf_clearPages _ _ _ h | exact Memory.wf_writeBytes _ _ _ h | exact Memory.wf_writeLine _ _ _ h | exact Memory.wf_tableClear _ _ _ h | (split; exact Store.wf_copyPage _ _ _ h k; exact Store.wf_clearPages _ _ _ h))))
      | with_reducible apply Keeps.ite)

theorem State.fetched_keeps (s : State) (page : Nat) :
    Keeps s (State.fetched s page) := by
  unfold State.fetched
  repeat' (first
      | extract_lets | with_reducible apply Keeps.refl | exact rfl
      | with_reducible apply Keeps.stepFrame (State.modDir_frame ..)
      | with_reducible apply Keeps.stepFrame (State.settlePressure_frame ..)
      | with_reducible apply Keeps.stepFrame (State.modEnt_frame ..)
      | with_reducible apply Keeps.stepFrame (State.setFramePair_frame ..)
      | with_reducible apply Keeps.stepFrame (State.freeFrame_frame ..)
      | (with_reducible apply Keeps.step (State.modHbm_keeps _ _ (by intro h k; first | exact h | (dsimp only [Store.freshLines, Store.poisonBlock]; first | exact h | exact Memory.wf_writeBytes _ _ _ h | exact Memory.wf_writeLine _ _ _ h | exact Memory.wf_tableClear _ _ _ h) | exact Store.wf_clearPages _ _ _ h | exact Memory.wf_writeBytes _ _ _ h | exact Memory.wf_writeLine _ _ _ h | exact Memory.wf_tableClear _ _ _ h | (split; exact Store.wf_copyPage _ _ _ h k; exact Store.wf_clearPages _ _ _ h))))
      | with_reducible apply Keeps.stepFrame (State.fixed_frame ..) | with_reducible apply Keeps.eachTrans
      | with_reducible apply Keeps.ite | intro _)

theorem State.ckptResume_keeps (s : State) (page : Nat) :
    Keeps s (State.ckptResume s page) := by
  unfold State.ckptResume
  repeat' (first
      | extract_lets | with_reducible apply Keeps.refl | with_reducible apply Keeps.step (State.startWriteback_keeps ..)
      | with_reducible apply Keeps.ite)

theorem State.evict_keeps (s : State) (page : Nat) :
    Keeps s (State.evict s page) := by
  unfold State.evict
  repeat' (first
      | extract_lets | with_reducible apply Keeps.refl | exact rfl
      | with_reducible apply Keeps.step (State.cacheEntry_keeps ..)
      | with_reducible apply Keeps.stepFrame (State.freeFrame_frame ..)
      | (with_reducible apply Keeps.step (State.modHbm_keeps _ _ (by intro h k; first | exact h | (dsimp only [Store.freshLines, Store.poisonBlock]; first | exact h | exact Memory.wf_writeBytes _ _ _ h | exact Memory.wf_writeLine _ _ _ h | exact Memory.wf_tableClear _ _ _ h) | exact Store.wf_clearPages _ _ _ h | exact Memory.wf_writeBytes _ _ _ h | exact Memory.wf_writeLine _ _ _ h | exact Memory.wf_tableClear _ _ _ h | (split; exact Store.wf_copyPage _ _ _ h k; exact Store.wf_clearPages _ _ _ h))))
      | with_reducible apply Keeps.stepFrame (State.setFramePair_frame ..)
      | with_reducible apply Keeps.stepFrame (State.modEnt_frame ..)
      | with_reducible apply Keeps.stepFrame (State.settlePressure_frame ..)
      | with_reducible apply Keeps.step (State.countGnm_keeps ..)
      | with_reducible apply Keeps.step (State.startWriteback_keeps ..) | with_reducible apply Keeps.ite | split)

theorem State.deferred_keeps (s : State) (page : Nat) :
    Keeps s (State.deferred s page) := by
  unfold State.deferred
  repeat' (first
      | extract_lets | with_reducible apply Keeps.refl | with_reducible apply Keeps.step (State.evict_keeps ..)
      | with_reducible apply Keeps.ite)

theorem State.ckptFail_keeps (s : State) (page : Nat) (status : Nat) :
    Keeps s (State.ckptFail s page status) := by
  unfold State.ckptFail
  repeat' (first
      | extract_lets | with_reducible apply Keeps.refl | with_reducible apply Keeps.step (State.reply_keeps ..)
      | with_reducible apply Keeps.eachTrans | intro _)

theorem State.failHeld_keeps (s : State) (page : Nat) (status : Nat) :
    Keeps s (State.failHeld s page status) := by
  unfold State.failHeld
  repeat' (first
      | extract_lets | with_reducible apply Keeps.refl | exact rfl | with_reducible apply Keeps.step (State.settle_keeps ..)
      | with_reducible apply Keeps.step (State.failReq_keeps ..) | with_reducible apply Keeps.eachTrans | intro _
      | with_reducible apply Keeps.stepFrame (Frame.set_held ..))

theorem State.loseFrame_keeps (s : State) (page : Nat) (kind : Nat) :
    Keeps s (State.loseFrame s page kind) := by
  unfold State.loseFrame
  repeat' (first
      | extract_lets | with_reducible apply Keeps.refl | exact rfl
      | with_reducible apply Keeps.step (State.cacheEntry_keeps ..)
      | with_reducible apply Keeps.stepFrame (State.freeFrame_frame ..)
      | with_reducible apply Keeps.stepFrame (State.modEnt_frame ..)
      | with_reducible apply Keeps.stepFrame (State.setFramePair_frame ..)
      | with_reducible apply Keeps.stepFrame (State.modDir_frame ..)
      | with_reducible apply Keeps.stepFrame (State.settlePressure_frame ..)
      | with_reducible apply Keeps.stepFrame (State.refetch_frame ..)
      | with_reducible apply Keeps.step (State.joinDie_keeps ..)
      | (with_reducible apply Keeps.step (State.modHbm_keeps _ _ (by intro h k; first | exact h | (dsimp only [Store.freshLines, Store.poisonBlock]; first | exact h | exact Memory.wf_writeBytes _ _ _ h | exact Memory.wf_writeLine _ _ _ h | exact Memory.wf_tableClear _ _ _ h) | exact Store.wf_clearPages _ _ _ h | exact Memory.wf_writeBytes _ _ _ h | exact Memory.wf_writeLine _ _ _ h | exact Memory.wf_tableClear _ _ _ h | (split; exact Store.wf_copyPage _ _ _ h k; exact Store.wf_clearPages _ _ _ h))))
      | (with_reducible apply Keeps.step; (with_reducible apply State.zeroFrame_keeps; with_reducible assumption))
      | with_reducible apply Keeps.ite | split)

theorem State.tangentPath_keeps (s : State) (q : Req) (spare : Bool) :
    Keeps s (State.tangentPath s q spare).2 := by
  unfold State.tangentPath
  repeat' (first
      | extract_lets | with_reducible apply Keeps.refl | exact rfl
      | with_reducible apply Keeps.stepFrame (State.modReg_frame ..) | with_reducible apply Keeps.step (State.count_keeps ..)
      | with_reducible apply Keeps.iteSnd | split)

theorem State.chargeReq_keeps (s : State) (q : Req) (r : Region) (spare : Bool) :
    Keeps s (State.chargeReq s q r spare) := by
  unfold State.chargeReq
  repeat' (first
      | extract_lets | with_reducible apply Keeps.refl | exact rfl
      | with_reducible apply Keeps.stepFrame (State.modReg_frame ..)
      | with_reducible apply Keeps.stepFrame (State.modCnt_frame ..) | with_reducible apply Keeps.step (State.count_keeps ..)
      | with_reducible apply Keeps.ite | split | dsimp +zetaDelta only [id])

theorem State.admitReq_keeps (s : State) (q : Req) (r : Region) (spare : Bool) :
    Keeps s (State.admitReq s q r spare) := by
  unfold State.admitReq
  repeat' (first
      | extract_lets | with_reducible apply Keeps.refl | with_reducible apply Keeps.step (State.tangentPath_keeps ..)
      | with_reducible apply Keeps.step (State.dispatchReq_keeps ..)
      | with_reducible apply Keeps.step (State.chargeReq_keeps ..))

theorem State.releaseHeld_keeps (s : State) (q : Req) (spare : Bool) :
    Keeps s (State.releaseHeld s q spare) := by
  unfold State.releaseHeld
  repeat' (first
      | extract_lets | with_reducible apply Keeps.refl | exact rfl
      | with_reducible apply Keeps.stepFrame (State.owe_frame ..) | with_reducible apply Keeps.step (State.admitReq_keeps ..)
      | split | with_reducible apply Keeps.stepFrame (Frame.set_held ..))

theorem State.freeReq_keeps (s : State) (port : Nat) (tag : Nat) :
    Keeps s (State.freeReq s port tag) := by
  unfold State.freeReq
  repeat' (first
      | extract_lets | with_reducible apply Keeps.refl | exact rfl
      | with_reducible apply Keeps.step (State.tagFreed_keeps ..)
      | with_reducible apply Keeps.stepFrame (State.modPort_frame ..))

theorem State.regulate_keeps (s : State) (q : Req) (r : Region) :
    Keeps s (State.regulate s q r) := by
  unfold State.regulate
  repeat' (first
      | extract_lets | with_reducible apply Keeps.refl | exact rfl
      | with_reducible apply Keeps.step (State.admitReq_keeps ..)
      | with_reducible apply Keeps.stepFrame (State.windowHint_frame ..)
      | with_reducible apply Keeps.step (State.answerRetry_keeps ..)
      | with_reducible apply Keeps.stepFrame (State.hold_frame ..) | with_reducible apply Keeps.ite | split)

theorem State.releaseInShare_keeps (s : State) (reg : Nat) (ctx : Nat) (y0 : Nat) :
    Keeps s (State.releaseInShare s reg ctx y0) := by
  induction y0 generalizing s reg ctx with
  | zero => (unfold State.releaseInShare; repeat' (first
       | extract_lets
       | with_reducible apply Keeps.refl
       | with_reducible apply Keeps.step (State.releaseHeld_keeps ..)
       | with_reducible apply Keeps.step (ih ..)
       | with_reducible apply Keeps.ite
       | split))
  | succ y0 ih =>
    (unfold State.releaseInShare
     repeat' (first
         | extract_lets | with_reducible apply Keeps.refl | with_reducible apply Keeps.step (State.releaseHeld_keeps ..)
         | with_reducible apply Keeps.step (ih ..) | with_reducible apply Keeps.ite | split))

theorem State.windowBoundary_keeps (s : State) (reg : Nat) :
    Keeps s (State.windowBoundary s reg) := by
  unfold State.windowBoundary
  repeat' (first
      | extract_lets | with_reducible apply Keeps.refl | exact rfl
      | with_reducible apply Keeps.stepFrame (State.modReg_frame ..)
      | with_reducible apply Keeps.stepFrame (State.modCnt_frame ..)
      | with_reducible apply Keeps.step (State.releaseInShare_keeps ..) | with_reducible apply Keeps.eachTrans | intro _)

theorem State.spareRelease_keeps (s : State) (reg : Nat) (hub : Nat) :
    Keeps s (State.spareRelease s reg hub) := by
  unfold State.spareRelease
  repeat' (first
      | extract_lets | with_reducible apply Keeps.refl | exact rfl
      | with_reducible apply Keeps.step (State.releaseHeld_keeps ..)
      | with_reducible apply Keeps.stepFrame (State.modReg_frame ..) | split | dsimp +zetaDelta only [id])

theorem State.holdExpired_keeps (s : State) (id : Nat) :
    Keeps s (State.holdExpired s id) := by
  unfold State.holdExpired
  repeat' (first
      | extract_lets | with_reducible apply Keeps.refl | exact rfl | with_reducible apply Keeps.step (State.settle_keeps ..)
      | with_reducible apply Keeps.step (State.retryMiss_keeps ..) | split
      | with_reducible apply Keeps.stepFrame (Frame.set_held ..))

theorem State.journalLost_keeps (s : State) (d : Nat) : Keeps s (s.journalLost d) := by
  have drop (t : State) : Keeps t { t with journals := t.journals.filter (·.die != d) } :=
    Keeps.ofStore (fun h => ⟨h.1, h.2.1, h.2.2.1, h.2.2.2.1, fun r hr => h.2.2.2.2 r (List.mem_filter.mp hr).1⟩) rfl rfl
  unfold State.journalLost
  refine Keeps.step (State.dropSaved_keeps _) (Keeps.eachTrans (Keeps.step (drop _) (Keeps.ofFrame (State.modFls_frame ..) rfl)) fun s p => ?_)
  split
  · rename_i r hr
    exact State.putFlash_keeps s r fun h => State.newestRec_wf h p r hr
  · exact Keeps.refl s

theorem State.refuseLink_keeps (s : State) (port : Nat) (h : Hdr) (status : Nat) (ctxPassed : Bool) :
    Keeps s (State.refuseLink s port h status ctxPassed) := by
  unfold State.refuseLink
  repeat' (first
      | extract_lets | with_reducible apply Keeps.refl | exact rfl | with_reducible apply Keeps.step (State.count_keeps ..)
      | with_reducible apply Keeps.stepFrame (State.answerErr_frame ..))

theorem State.checkRequest_keeps (s : State) (port : Nat) (op : Option ReqOp) (h : Hdr) (data : List Line) :
    Keeps s (State.checkRequest s port op h data) := by
  unfold State.checkRequest
  repeat' (first
      | extract_lets | with_reducible apply Keeps.refl | exact rfl
      | with_reducible apply Keeps.step (State.tagReuse_keeps ..)
      | with_reducible apply Keeps.stepFrame (State.fixed_frame ..)
      | with_reducible apply Keeps.stepFrame (State.modPort_frame ..)
      | with_reducible apply Keeps.step (State.refuseLink_keeps ..)
      | with_reducible apply Keeps.stepFrame (State.takeId_frame ..)
      | with_reducible apply Keeps.step (State.regulate_keeps ..) | with_reducible apply Keeps.ite | split)

theorem State.linkRequest_keeps (s : State) (port : Nat) (op : Option ReqOp) (h : Hdr) (data : List Line) :
    Keeps s (State.linkRequest s port op h data) := by
  unfold State.linkRequest
  repeat' (first
      | extract_lets | with_reducible apply Keeps.refl | exact rfl
      | with_reducible apply Keeps.step (State.checkRequest_keeps ..)
      | with_reducible apply Keeps.stepFrame (State.owe_frame ..) | with_reducible apply Keeps.ite)

theorem State.recallExpired_keeps (s : State) (port : Nat) (tag : Nat) :
    Keeps s (State.recallExpired s port tag) := by
  unfold State.recallExpired
  repeat' (first
      | extract_lets | with_reducible apply Keeps.refl | exact rfl
      | with_reducible apply Keeps.step (State.endLease_keeps ..)
      | with_reducible apply Keeps.step (State.poisonLine_keeps ..)
      | with_reducible apply Keeps.stepFrame (State.modPort_frame ..)
      | with_reducible apply Keeps.step (State.countGnm_keeps ..) | with_reducible apply Keeps.step (State.log_keeps ..)
      | with_reducible apply Keeps.step (State.settle_keeps ..) | with_reducible apply Keeps.ite | split)

theorem State.cxlAccess_keeps (s : State) (c : CxlReq) :
    Keeps s (State.cxlAccess s c) := by
  unfold State.cxlAccess
  repeat' (first
      | extract_lets | with_reducible apply Keeps.refl | exact rfl
      | with_reducible apply Keeps.stepFrame (State.emit_frame ..)
      | with_reducible apply Keeps.step (State.cxlRefuse_keeps ..)
      | with_reducible apply Keeps.stepFrame (State.takeId_frame ..)
      | with_reducible apply Keeps.stepFrame (State.modHep_frame ..)
      | with_reducible apply Keeps.step (State.regulate_keeps ..) | with_reducible apply Keeps.step (State.count_keeps ..)
      | with_reducible apply Keeps.ite | split)

theorem State.cxlPartial_keeps (s : State) (dpa : Nat) (tag : Nat) :
    Keeps s (State.cxlPartial s dpa tag) := by
  unfold State.cxlPartial
  repeat' (first
      | extract_lets | with_reducible apply Keeps.refl | exact rfl
      | with_reducible apply Keeps.stepFrame (State.modHep_frame ..)
      | with_reducible apply Keeps.stepFrame (State.emit_frame ..) | with_reducible apply Keeps.step (State.count_keeps ..))

theorem State.cxlSimple_keeps (s : State) (f : State → State) (hf : ∀ s, Keeps s (f s)) :
    Keeps s (State.cxlSimple s f) := by
  unfold State.cxlSimple
  repeat' (first
      | extract_lets | with_reducible apply Keeps.refl | with_reducible apply Keeps.step (hf ..)
      | with_reducible apply Keeps.ite)

theorem State.cxlServe_keeps (s : State) (c : CxlReq) :
    Keeps s (State.cxlServe s c) := by
  unfold State.cxlServe
  repeat' (first
      | extract_lets | with_reducible apply Keeps.refl | exact rfl
      | with_reducible apply Keeps.step (State.cxlAccess_keeps ..)
      | with_reducible apply Keeps.stepFrame (State.emit_frame ..)
      | with_reducible apply Keeps.step (State.cxlPartial_keeps ..)
      | with_reducible apply Keeps.step (State.cxlSimple_keeps ..) | split | intro _)

theorem State.cxlRequest_keeps (s : State) (c : CxlReq) :
    Keeps s (State.cxlRequest s c) := by
  unfold State.cxlRequest
  repeat' (first
      | extract_lets | with_reducible apply Keeps.refl | exact rfl
      | with_reducible apply Keeps.step (State.cxlServe_keeps ..)
      | with_reducible apply Keeps.stepFrame (State.modHep_frame ..) | with_reducible apply Keeps.ite)

theorem State.cxlCredits_keeps (s : State) :
    Keeps s (State.cxlCredits s) := by
  unfold State.cxlCredits
  repeat' (first
      | extract_lets | with_reducible apply Keeps.refl | exact rfl
      | with_reducible apply Keeps.stepFrame (State.modHep_frame ..)
      | with_reducible apply Keeps.step (State.cxlRequest_keeps ..) | with_reducible apply Keeps.eachTrans | intro _)

theorem State.parityDelta_keeps (s : State) (k : Nat) :
    Keeps s (State.parityDelta s k) := by
  unfold State.parityDelta
  repeat' (first
      | extract_lets | with_reducible apply Keeps.refl | with_reducible apply Keeps.step (State.applyDelta_keeps ..) | split)

theorem State.dispatchPage_keeps {s : State} {page : Nat} {demand : Bool} {t : State} (h : State.dispatchPage s page demand = some t) :
    Keeps s t := by
  unfold State.dispatchPage at h
  try dsimp only at h
  repeat' split at h
  all_goals (first | (exact absurd h (by decide)) | (simp at h; done) | (injection h with h; injection h with _ h; subst h) | (injection h with h; subst h) | (rw [Option.map_eq_some_iff] at h; obtain ⟨_, h, rfl⟩ := h) | skip)
  all_goals repeat' (first
    | extract_lets
    | with_reducible apply Keeps.refl
    | exact rfl
    | with_reducible apply Keeps.step (State.cacheEntry_keeps ..)
    | (with_reducible apply Keeps.stepFrame; (with_reducible apply State.takeFrame_frame; with_reducible assumption))
    | with_reducible apply Keeps.stepFrame (State.modEnt_frame ..)
    | with_reducible apply Keeps.stepFrame (State.setFramePair_frame ..)
    | with_reducible apply Keeps.stepFrame (State.modDir_frame ..)
    | with_reducible apply Keeps.stepFrame (State.settlePressure_frame ..)
    | with_reducible apply Keeps.step (State.joinDie_keeps ..)
    | with_reducible apply Keeps.step (State.countGnm_keeps ..)
    | (with_reducible apply Keeps.step; (with_reducible apply State.zeroFrame_keeps; with_reducible assumption)))

theorem State.dispatchNext_keeps (s : State) (d : Nat) :
    Keeps s (State.dispatchNext s d) := by
  unfold State.dispatchNext
  repeat' (first
      | extract_lets | with_reducible apply Keeps.refl | exact rfl
      | (with_reducible apply Keeps.step; (with_reducible apply State.dispatchPage_keeps; with_reducible assumption))
      | with_reducible apply Keeps.stepFrame (State.modDir_frame ..) | with_reducible apply Keeps.ite | split)

theorem State.clock_keeps (s : State) (d : Nat) (y0 : List Nat) :
    Keeps s (State.clock s d y0) := by
  induction y0 generalizing s d with
  | nil => (unfold State.clock; repeat' (first
       | extract_lets
       | with_reducible apply Keeps.refl
       | exact rfl
       | with_reducible apply Keeps.stepFrame (State.modDir_frame ..)
       | with_reducible apply Keeps.stepFrame (State.modEnt_frame ..)
       | with_reducible apply Keeps.step (State.evict_keeps ..)
       | with_reducible apply Keeps.step (ih ..)
       | with_reducible apply Keeps.ite
       | split))
  | cons a y0 ih =>
    (unfold State.clock
     repeat' (first
         | extract_lets | with_reducible apply Keeps.refl | exact rfl
         | with_reducible apply Keeps.stepFrame (State.modDir_frame ..)
         | with_reducible apply Keeps.stepFrame (State.modEnt_frame ..)
         | with_reducible apply Keeps.step (State.evict_keeps ..) | with_reducible apply Keeps.step (ih ..)
         | with_reducible apply Keeps.ite | split))

theorem State.selectVictim_keeps (s : State) (d : Nat) :
    Keeps s (State.selectVictim s d) := by
  unfold State.selectVictim
  repeat' (first
      | extract_lets | with_reducible apply Keeps.refl | with_reducible apply Keeps.step (State.clock_keeps ..)
      | with_reducible apply Keeps.ite)

end Sys2Proof.Machine
end

