-- ==== Sys2Proof/Laws/KeepsTransfer.lean ====
section
/-!
SUPPORT. What each operation keeps (the canonical form of the stored data, the credits, the refusal buffers): transfers, host accesses, links and kernel runs.
-/

namespace Sys2Proof.Machine

set_option maxRecDepth 2000
set_option Elab.async false

open Sys2Proof

theorem State.hostWrite_keeps (s : State) (fn : Nat) (ctx : Nat) (addr : Nat) (data : List Byte) (relax : Bool) :
    Keeps s (State.hostWrite s fn ctx addr data relax) := by
  unfold State.hostWrite
  repeat' (first
      | extract_lets | with_reducible apply Keeps.refl | exact rfl
      | with_reducible apply Keeps.stepFrame (State.hostWrite.go_frame ..)
      | with_reducible apply Keeps.step (State.count_keeps ..) | with_reducible apply Keeps.stepFrame (State.fixed_frame ..))

theorem State.logRun_keeps (s : State) (r : Run) (f : RunFail) :
    Keeps s (State.logRun s r f) := by
  unfold State.logRun
  repeat' (first
      | extract_lets | with_reducible apply Keeps.refl | exact rfl | with_reducible apply Keeps.step (State.count_keeps ..)
      | with_reducible apply Keeps.stepFrame (State.modChd_frame ..) | with_reducible apply Keeps.step (State.log_keeps ..)
      | with_reducible apply Keeps.ite)

theorem State.settleAborts_keeps (s : State) :
    Keeps s (State.settleAborts s) := by
  unfold State.settleAborts
  repeat' (first
      | extract_lets | with_reducible apply Keeps.refl | with_reducible apply Keeps.step (State.reply_keeps ..)
      | with_reducible apply Keeps.eachTrans | with_reducible apply Keeps.ite | intro _)

theorem State.retireIdle_keeps (s : State) (e : Nat) :
    Keeps s (State.retireIdle s e) := by
  unfold State.retireIdle
  repeat' (first
      | extract_lets | with_reducible apply Keeps.refl | exact rfl | with_reducible apply Keeps.step (State.log_keeps ..)
      | with_reducible apply Keeps.stepFrame (State.modEngine_frame ..)
      | with_reducible apply Keeps.step (State.reply_keeps ..) | with_reducible apply Keeps.eachTrans
      | with_reducible apply Keeps.ite | intro _)

theorem State.endRun_keeps (s : State) (r : Run) :
    Keeps s (State.endRun s r) := by
  unfold State.endRun
  repeat' (first
      | extract_lets | with_reducible apply Keeps.refl | exact rfl
      | with_reducible apply Keeps.stepFrame (State.forgetWaits_frame ..)
      | with_reducible apply Keeps.stepFrame (State.modDisp_frame ..)
      | with_reducible apply Keeps.stepFrame (State.modEngine_frame ..)
      | with_reducible apply Keeps.step (State.replyTo_keeps ..)
      | with_reducible apply Keeps.step (State.settleAborts_keeps ..)
      | with_reducible apply Keeps.step (State.retireIdle_keeps ..) | with_reducible apply Keeps.eachTrans | split | intro _
      | dsimp +zetaDelta only [id])

theorem State.settleRun_keeps (s : State) (id : Nat) :
    Keeps s (State.settleRun s id) := by
  unfold State.settleRun
  repeat' (first
      | extract_lets | with_reducible apply Keeps.refl | with_reducible apply Keeps.step (State.endRun_keeps ..)
      | with_reducible apply Keeps.ite | split)

theorem State.failRun_keeps (s : State) (id : Nat) (f : RunFail) :
    Keeps s (State.failRun s id f) := by
  unfold State.failRun
  repeat' (first
      | extract_lets | with_reducible apply Keeps.refl | exact rfl
      | with_reducible apply Keeps.stepFrame (State.modRun_frame ..)
      | with_reducible apply Keeps.step (State.logRun_keeps ..) | with_reducible apply Keeps.step (State.settleRun_keeps ..)
      | with_reducible apply Keeps.stepFrame (State.modEngine_frame ..) | with_reducible apply Keeps.eachTrans
      | with_reducible apply Keeps.ite | split | intro _)

theorem State.failPlain_keeps (s : State) (id : Nat) (reason : Nat) :
    Keeps s (State.failPlain s id reason) := by
  unfold State.failPlain
  repeat' (first
      | extract_lets | with_reducible apply Keeps.refl | with_reducible apply Keeps.step (State.failRun_keeps ..))

theorem State.abortRun_keeps (s : State) (r : Run) (reason : Nat) :
    Keeps s (State.abortRun s r reason) := by
  unfold State.abortRun
  repeat' (first
      | extract_lets | with_reducible apply Keeps.refl | exact rfl
      | with_reducible apply Keeps.step (State.failPlain_keeps ..)
      | with_reducible apply Keeps.stepFrame (State.takeFree_frame ..)
      | with_reducible apply Keeps.step (State.failRun_keeps ..) | with_reducible apply Keeps.ite)

theorem State.abortRuns_keeps (s : State) (p : Run → Bool) (reason : Nat) :
    Keeps s (State.abortRuns s p reason) := by
  unfold State.abortRuns
  repeat' (first
      | extract_lets | with_reducible apply Keeps.refl | with_reducible apply Keeps.step (State.abortRun_keeps ..)
      | with_reducible apply Keeps.eachTrans | intro _)

theorem State.endXfer_keeps (s : State) (x : Xfer) (status : Nat) :
    Keeps s (State.endXfer s x status) := by
  unfold State.endXfer
  repeat' (first
      | extract_lets | with_reducible apply Keeps.refl | exact rfl
      | with_reducible apply Keeps.stepFrame (State.forgetWaits_frame ..)
      | with_reducible apply Keeps.step (State.tagFreed_keeps ..)
      | with_reducible apply Keeps.stepFrame (State.modPort_frame ..)
      | with_reducible apply Keeps.step (State.replyTo_keeps ..) | with_reducible apply Keeps.eachTrans
      | with_reducible apply Keeps.ite | intro _ | with_reducible apply Keeps.stepFrame (Frame.set_xfers ..))

theorem State.failXfer_keeps (s : State) (xid : Nat) (status : Nat) :
    Keeps s (State.failXfer s xid status) := by
  unfold State.failXfer
  repeat' (first
      | extract_lets | with_reducible apply Keeps.refl | with_reducible apply Keeps.step (State.endXfer_keeps ..) | split)

theorem State.hostRead_keeps {s : State} {fn : Nat} {ctx : Nat} {addr : Nat} {len : Nat} {off : Nat} {use : ReadUse} {t : State} (h : State.hostRead s fn ctx addr len off use = some t) :
    Keeps s t := by
  unfold State.hostRead at h
  try dsimp only at h
  repeat' split at h
  all_goals (first | (exact absurd h (by decide)) | (simp at h; done) | (injection h with h; injection h with _ h; subst h) | (injection h with h; subst h) | (rw [Option.map_eq_some_iff] at h; obtain ⟨_, h, rfl⟩ := h) | skip)
  all_goals repeat' (first
    | extract_lets
    | with_reducible apply Keeps.refl
    | exact rfl
    | with_reducible apply Keeps.stepFrame (State.pick_frame ..)
    | (with_reducible apply Keeps.step (State.modFn_keeps _ _ _ (by intro g; first | rfl | exact Ring.commit_held _ | (unfold Fn.writeAer; dsimp only; (repeat' split) <;> rfl) | (unfold Fn.logUnc; dsimp only; done) | (unfold Fn.logUnc; dsimp only; split <;> rfl) | ((repeat' split) <;> first | rfl | exact Ring.commit_held _))))
    | with_reducible apply Keeps.stepFrame (State.emit_frame ..)
    | with_reducible apply Keeps.step (State.count_keeps ..)
    | (with_reducible apply Keeps.ofPair; with_reducible assumption))

theorem State.askList_keeps (s : State) (c : Cmd) (y0 : List (Nat × Nat × Nat)) :
    Keeps s (State.askList s c y0) := by
  induction y0 generalizing s c with
  | nil => (unfold State.askList; repeat' (first
       | extract_lets
       | with_reducible apply Keeps.refl
       | (with_reducible apply Keeps.step; (with_reducible apply State.hostRead_keeps; with_reducible assumption))
       | (with_reducible apply Keeps.step (State.modCmd_keeps _ _ _ (by intro g; first | rfl | (dsimp only [Cmd.fill]; done) | (split; rfl; (dsimp only [Cmd.arrived]; done)) | (dsimp only; split <;> rfl))))
       | with_reducible apply Keeps.step (ih ..)
       | with_reducible apply Keeps.ite
       | split))
  | cons a y0 ih =>
    (unfold State.askList
     repeat' (first
         | extract_lets | with_reducible apply Keeps.refl
         | (with_reducible apply Keeps.step; (with_reducible apply State.hostRead_keeps; with_reducible assumption))
         | (with_reducible apply Keeps.step (State.modCmd_keeps _ _ _ (by intro g; first | rfl | (dsimp only [Cmd.fill]; done) | (split; rfl; (dsimp only [Cmd.arrived]; done)) | (dsimp only; split <;> rfl))))
         | with_reducible apply Keeps.step (ih ..) | with_reducible apply Keeps.ite | split))

theorem State.askCmd_keeps (s : State) (id : Nat) :
    Keeps s (State.askCmd s id) := by
  unfold State.askCmd
  repeat' (first
      | extract_lets | with_reducible apply Keeps.refl | with_reducible apply Keeps.step (State.askList_keeps ..)
      | with_reducible apply Keeps.ite | split)

theorem State.beginHost_keeps (s : State) (c : Cmd) :
    Keeps s (State.beginHost s c) := by
  unfold State.beginHost
  repeat' (first
      | extract_lets | with_reducible apply Keeps.refl | with_reducible apply Keeps.step (State.askCmd_keeps ..)
      | (with_reducible apply Keeps.step (State.modCmd_keeps _ _ _ (by intro g; first | rfl | (dsimp only [Cmd.fill]; done) | (split; rfl; (dsimp only [Cmd.arrived]; done)) | (dsimp only; split <;> rfl))))
      | split)

theorem State.hostReads_keeps {s : State} {fn ctx : Nat} {use : ReadUse} {xs : List (Nat × Nat × Nat)} {t : State}
    (h : State.hostReads s fn ctx use xs = some t) : Keeps s t := by
  induction xs generalizing s with
  | nil => injection h with h; subst h; exact Keeps.refl _
  | cons a xs ih =>
    obtain ⟨addr, len, off⟩ := a
    unfold State.hostReads at h
    split at h
    · rename_i u hu
      exact (State.hostRead_keeps hu).trans ((ih h))
    · exact absurd h (by simp)

theorem State.askHost_keeps (s : State) (x : Xfer) (k : Nat) :
    Keeps s (State.askHost s x k) := by
  unfold State.askHost
  repeat' (first
      | extract_lets | with_reducible apply Keeps.refl | exact rfl
      | (with_reducible apply Keeps.step; (with_reducible apply State.hostReads_keeps; with_reducible assumption))
      | with_reducible apply Keeps.stepFrame (State.modUnit_frame ..) | with_reducible apply Keeps.ite | split)

theorem State.pump_keeps (s : State) (xid : Nat) :
    Keeps s (State.pump s xid) := by
  unfold State.pump
  repeat' (first
      | extract_lets | with_reducible apply Keeps.refl | exact rfl
      | with_reducible apply Keeps.stepFrame (State.issueUnits_frame ..)
      | with_reducible apply Keeps.step (State.askHost_keeps ..) | with_reducible apply Keeps.eachTrans | split | intro _)

theorem State.pumpAll_keeps (s : State) :
    Keeps s (State.pumpAll s) := by
  unfold State.pumpAll
  repeat' (first
      | extract_lets | with_reducible apply Keeps.refl | with_reducible apply Keeps.step (State.pump_keeps ..)
      | with_reducible apply Keeps.eachTrans | intro _)

theorem State.messageSent_keeps (s : State) (port : Nat) (m : TxMsg) : Keeps s (s.messageSent port m) := by
  obtain ⟨vc, slots, cmd, reqTag, frees⟩ := m
  unfold State.messageSent
  cases frees <;> cases reqTag <;> cases cmd <;> dsimp only <;>
    repeat' (first
        | with_reducible apply Keeps.refl | exact rfl | with_reducible apply Keeps.step (Keeps.filterCmds ..)
        | with_reducible apply Keeps.stepFrame (State.modPort_frame ..)
        | with_reducible apply Keeps.stepFrame (State.freeTag_frame ..))

theorem State.transmit_keeps (s : State) (port : Nat) :
    Keeps s (State.transmit s port) := by
  unfold State.transmit
  repeat' (first
      | extract_lets | with_reducible apply Keeps.refl | exact rfl
      | with_reducible apply Keeps.stepFrame (State.sendCaps_frame ..)
      | with_reducible apply Keeps.stepFrame (State.modPort_frame ..)
      | with_reducible apply Keeps.stepFrame (State.sendNew_frame ..)
      | with_reducible apply Keeps.step (State.count_keeps ..)
      | with_reducible apply Keeps.stepFrame (State.sendFlit_frame ..)
      | with_reducible apply Keeps.step (State.messageSent_keeps ..) | with_reducible apply Keeps.eachTrans
      | with_reducible apply Keeps.ite | split | intro _)

theorem State.revokeLeases_keeps (s : State) (port : Nat) :
    Keeps s (State.revokeLeases s port) := by
  unfold State.revokeLeases
  repeat' (first
      | extract_lets | with_reducible apply Keeps.refl | exact rfl
      | with_reducible apply Keeps.stepFrame (State.modPort_frame ..)
      | with_reducible apply Keeps.step (State.poisonLine_keeps ..)
      | with_reducible apply Keeps.step (State.endLease_keeps ..) | with_reducible apply Keeps.step (State.log_keeps ..)
      | with_reducible apply Keeps.eachTrans | intro _)

theorem State.loseLink_keeps (s : State) (port : Nat) (reason : Nat) :
    Keeps s (State.loseLink s port reason) := by
  unfold State.loseLink
  repeat' (first
      | (with_reducible apply Keeps.step (Keeps.loseCmds _ _ _ (by intro c; (repeat' split) <;> rfl))) | extract_lets
      | with_reducible apply Keeps.refl | exact rfl | with_reducible apply Keeps.stepFrame (State.modPort_frame ..)
      | with_reducible apply Keeps.step (State.releaseHeld_keeps ..)
      | with_reducible apply Keeps.step (State.failXfer_keeps ..)
      | with_reducible apply Keeps.step (State.revokeLeases_keeps ..)
      | with_reducible apply Keeps.step (State.settle_keeps ..) | with_reducible apply Keeps.step (State.log_keeps ..)
      | with_reducible apply Keeps.eachTrans | intro _ | with_reducible apply Keeps.stepFrame (Frame.set_held ..))

theorem State.failRetry_keeps (s : State) (port : Nat) :
    Keeps s (State.failRetry s port) := by
  unfold State.failRetry
  repeat' (first
      | extract_lets | with_reducible apply Keeps.refl | exact rfl
      | with_reducible apply Keeps.step (State.loseLink_keeps ..)
      | with_reducible apply Keeps.stepFrame (State.modPort_frame ..) | with_reducible apply Keeps.ite)

theorem State.badFlit_keeps (s : State) (port : Nat) (first : Bool) :
    Keeps s (State.badFlit s port first) := by
  unfold State.badFlit
  repeat' (first
      | extract_lets | with_reducible apply Keeps.refl | exact rfl | with_reducible apply Keeps.step (State.count_keeps ..)
      | with_reducible apply Keeps.stepFrame (State.modPort_frame ..)
      | with_reducible apply Keeps.step (State.failRetry_keeps ..) | with_reducible apply Keeps.ite)

theorem State.flitCommon_keeps (s : State) (port : Nat) (f : Flit) :
    Keeps s (State.flitCommon s port f).2 := by
  unfold State.flitCommon
  repeat' (first
      | extract_lets | with_reducible apply Keeps.refl | exact rfl
      | with_reducible apply Keeps.stepFrame (State.modPort_frame ..)
      | with_reducible apply Keeps.step (State.loseLink_keeps ..) | split)

theorem State.takeSlots_keeps (s : State) (port : Nat) (deliver : State → Nat → List (BitVec 256) → State) (y0 : List (Nat × BitVec 256)) (hf : ∀ s p w, Keeps s (deliver s p w)) :
    Keeps s (State.takeSlots s port deliver y0) := by
  induction y0 generalizing s port with
  | nil => (unfold State.takeSlots; repeat' (first
       | extract_lets
       | with_reducible apply Keeps.refl
       | exact rfl
       | with_reducible apply Keeps.step (State.loseLink_keeps ..)
       | with_reducible apply Keeps.stepFrame (State.modPort_frame ..)
       | with_reducible apply Keeps.step (ih ..)
       | with_reducible apply Keeps.step (hf ..)
       | with_reducible apply Keeps.ite
       | split))
  | cons a y0 ih =>
    (unfold State.takeSlots
     repeat' (first
         | extract_lets | with_reducible apply Keeps.refl | exact rfl
         | with_reducible apply Keeps.step (State.loseLink_keeps ..)
         | with_reducible apply Keeps.stepFrame (State.modPort_frame ..) | with_reducible apply Keeps.step (ih ..)
         | with_reducible apply Keeps.step (hf ..) | with_reducible apply Keeps.ite | split))

theorem State.dataFlit_keeps (s : State) (port : Nat) (f : Flit) (deliver : State → Nat → List (BitVec 256) → State) (hf : ∀ s p w, Keeps s (deliver s p w)) :
    Keeps s (State.dataFlit s port f deliver) := by
  unfold State.dataFlit
  repeat' (first
      | extract_lets | with_reducible apply Keeps.refl | exact rfl | with_reducible assumption
      | with_reducible apply Keeps.step (State.flitCommon_keeps ..)
      | with_reducible apply Keeps.stepFrame (State.modPort_frame ..)
      | with_reducible apply Keeps.step (State.loseLink_keeps ..)
      | with_reducible apply Keeps.step (State.takeSlots_keeps ..) | with_reducible apply Keeps.ite)

theorem State.idleFlit_keeps (s : State) (port : Nat) (f : Flit) :
    Keeps s (State.idleFlit s port f) := by
  unfold State.idleFlit
  repeat' (first
      | extract_lets | with_reducible apply Keeps.refl | with_reducible apply Keeps.step (State.flitCommon_keeps ..)
      | with_reducible apply Keeps.step (State.loseLink_keeps ..) | with_reducible apply Keeps.ite)

theorem State.retryFlit_keeps (s : State) (port : Nat) (f : Flit) :
    Keeps s (State.retryFlit s port f) := by
  unfold State.retryFlit
  repeat' (first
      | extract_lets | with_reducible apply Keeps.refl | exact rfl
      | with_reducible apply Keeps.step (State.flitCommon_keeps ..)
      | with_reducible apply Keeps.stepFrame (State.modPort_frame ..) | with_reducible apply Keeps.ite)

theorem State.goodFlit_keeps (s : State) (port : Nat) (ftype : Nat) (f : Flit) (deliver : State → Nat → List (BitVec 256) → State) (hf : ∀ s p w, Keeps s (deliver s p w)) :
    Keeps s (State.goodFlit s port ftype f deliver) := by
  unfold State.goodFlit
  repeat' (first
      | extract_lets | with_reducible apply Keeps.refl | exact rfl | with_reducible assumption
      | with_reducible apply Keeps.stepFrame (State.modPort_frame ..)
      | with_reducible apply Keeps.step (State.idleFlit_keeps ..)
      | with_reducible apply Keeps.step (State.flitCommon_keeps ..)
      | with_reducible apply Keeps.step (State.retryFlit_keeps ..)
      | with_reducible apply Keeps.stepFrame (State.capsFlit_frame ..)
      | with_reducible apply Keeps.step (State.dataFlit_keeps ..) | with_reducible apply Keeps.ite | split)

theorem State.rxFlit_keeps (s : State) (port : Nat) (ftype : Nat) (f : Flit) (deliver : State → Nat → List (BitVec 256) → State) (hf : ∀ s p w, Keeps s (deliver s p w)) :
    Keeps s (State.rxFlit s port ftype f deliver) := by
  unfold State.rxFlit
  repeat' (first
      | extract_lets | with_reducible apply Keeps.refl | with_reducible assumption
      | with_reducible apply Keeps.step (State.count_keeps ..) | with_reducible apply Keeps.step (State.badFlit_keeps ..)
      | with_reducible apply Keeps.step (State.goodFlit_keeps ..) | with_reducible apply Keeps.ite | split)

theorem State.disablePort_keeps (s : State) (port : Nat) :
    Keeps s (State.disablePort s port) := by
  unfold State.disablePort
  repeat' (first
      | extract_lets | with_reducible apply Keeps.refl | exact rfl
      | with_reducible apply Keeps.stepFrame (State.modPort_frame ..)
      | with_reducible apply Keeps.step (State.loseLink_keeps ..) | split)

theorem startXfer_keeps (kind : XferKind) (s : State) (c : Cmd) :
    Keeps s (startXfer kind s c) := by
  unfold startXfer
  repeat' (first
      | extract_lets | with_reducible apply Keeps.refl | exact rfl
      | with_reducible apply Keeps.stepFrame (State.takeId_frame ..) | with_reducible apply Keeps.step (State.reply_keeps ..)
      | split | with_reducible apply Keeps.stepFrame (Frame.set_xfers ..))

theorem startXferAtom_keeps (s : State) (c : Cmd) :
    Keeps s (startXferAtom s c) := by
  unfold startXferAtom
  repeat' (first
      | extract_lets | with_reducible apply Keeps.refl | exact rfl | with_reducible apply Keeps.step (State.reply_keeps ..)
      | with_reducible apply Keeps.stepFrame (State.takeId_frame ..)
      | with_reducible apply Keeps.step (State.dispatchReq_keeps ..) | split)

theorem startKernelRun_keeps (s : State) (c : Cmd) :
    Keeps s (startKernelRun s c) := by
  unfold startKernelRun
  repeat' (first
      | extract_lets | with_reducible apply Keeps.refl | exact rfl | with_reducible apply Keeps.step (State.bad_keeps ..)
      | with_reducible apply Keeps.step (State.reply_keeps ..) | with_reducible apply Keeps.step (State.count_keeps ..)
      | with_reducible apply Keeps.stepFrame (State.modDisp_frame ..) | with_reducible apply Keeps.ite)

theorem startKernelAbort_keeps (s : State) (c : Cmd) :
    Keeps s (startKernelAbort s c) := by
  unfold startKernelAbort
  repeat' (first
      | extract_lets | with_reducible apply Keeps.refl | with_reducible apply Keeps.step (State.abortRun_keeps ..)
      | (with_reducible apply Keeps.step (State.modCmd_keeps _ _ _ (by intro g; first | rfl | (dsimp only [Cmd.fill]; done) | (split; rfl; (dsimp only [Cmd.arrived]; done)) | (dsimp only; split <;> rfl))))
      | with_reducible apply Keeps.step (State.reply_keeps ..) | split)

theorem State.settleRuns_keeps (s : State) :
    Keeps s (State.settleRuns s) := by
  unfold State.settleRuns
  repeat' (first
      | extract_lets | with_reducible apply Keeps.refl | with_reducible apply Keeps.step (State.settleRun_keeps ..)
      | with_reducible apply Keeps.eachTrans | intro _)

theorem State.startRun_keeps (s : State) (check : State → Run → Bool) (r : Run) (n : Nat) (backfill : Bool) :
    Keeps s (State.startRun s check r n backfill) := by
  unfold State.startRun
  repeat' (first
      | extract_lets | with_reducible apply Keeps.refl | exact rfl
      | with_reducible apply Keeps.step (State.failPlain_keeps ..)
      | with_reducible apply Keeps.stepFrame (State.takeEngines_frame ..)
      | with_reducible apply Keeps.stepFrame (State.modRun_frame ..) | with_reducible apply Keeps.step (State.count_keeps ..)
      | with_reducible apply Keeps.stepFrame (State.modEngine_frame ..) | with_reducible apply Keeps.eachTrans
      | with_reducible apply Keeps.ite | intro _)

theorem State.dispatchRun_keeps (s : State) (check : State → Run → Bool) :
    Keeps s (State.dispatchRun s check) := by
  unfold State.dispatchRun
  repeat' (first
      | extract_lets | with_reducible apply Keeps.refl | with_reducible apply Keeps.step (State.failPlain_keeps ..)
      | with_reducible apply Keeps.step (State.startRun_keeps ..) | with_reducible apply Keeps.eachTrans
      | with_reducible apply Keeps.ite | split | intro _)

theorem State.engineFails_keeps (s : State) (e : Nat) :
    Keeps s (State.engineFails s e) := by
  unfold State.engineFails
  repeat' (first
      | extract_lets | with_reducible apply Keeps.refl | exact rfl | with_reducible apply Keeps.step (State.failRun_keeps ..)
      | with_reducible apply Keeps.stepFrame (State.modChd_frame ..)
      | with_reducible apply Keeps.stepFrame (State.modEngine_frame ..)
      | with_reducible apply Keeps.step (State.log_keeps ..) | split | dsimp +zetaDelta only [id])

theorem State.respond_keeps (s : State) (port : Nat) (n : Nat) (f : State → State) (hf : ∀ s, Keeps s (f s)) :
    Keeps s (State.respond s port n f) := by
  unfold State.respond
  repeat' (first
      | extract_lets | with_reducible apply Keeps.refl | exact rfl
      | with_reducible apply Keeps.stepFrame (State.owe_frame ..)
      | with_reducible apply Keeps.stepFrame (State.fixed_frame ..) | with_reducible apply Keeps.step (hf ..)
      | with_reducible apply Keeps.ite)

theorem State.lateCpl_keeps (s : State) (port : Nat) :
    Keeps s (State.lateCpl s port) := by
  unfold State.lateCpl
  repeat' (first
      | extract_lets | with_reducible apply Keeps.refl | exact rfl | with_reducible apply Keeps.step (State.count_keeps ..)
      | with_reducible apply Keeps.stepFrame (State.modPort_frame ..))

theorem State.peerData_keeps (s : State) (port : Nat) (tag : Nat) (off : Nat) (n : Nat) (last : Bool) (data : List Line) :
    Keeps s (State.peerData s port tag off n last data) := by
  unfold State.peerData
  repeat' (first
      | extract_lets | with_reducible apply Keeps.refl | exact rfl
      | with_reducible apply Keeps.stepFrame (State.modUnit_frame ..)
      | with_reducible apply Keeps.step (State.freeReq_keeps ..) | with_reducible apply Keeps.step (State.lateCpl_keeps ..)
      | with_reducible apply Keeps.ite | split)

theorem State.cplData_keeps (s : State) (port : Nat) (r : Rsp) (data : List Line) :
    Keeps s (State.cplData s port r data) := by
  unfold State.cplData
  repeat' (first
      | extract_lets | with_reducible apply Keeps.refl | exact rfl
      | with_reducible apply Keeps.step (State.peerData_keeps ..) | with_reducible apply Keeps.stepFrame (State.owe_frame ..)
      | with_reducible apply Keeps.step (State.respond_keeps ..) | split | intro _)

theorem State.moveOut_keeps (s : State) (page : Nat) :
    Keeps s (State.moveOut s page) := by
  unfold State.moveOut
  repeat' (first
      | extract_lets | with_reducible apply Keeps.refl | exact rfl | with_reducible apply Keeps.step (State.trim_keeps ..)
      | with_reducible apply Keeps.stepFrame (State.freePage_frame ..)
      | (with_reducible apply Keeps.step (State.modHbm_keeps _ _ (by intro h k; first | exact h | (dsimp only [Store.freshLines, Store.poisonBlock]; first | exact h | exact Memory.wf_writeBytes _ _ _ h | exact Memory.wf_writeLine _ _ _ h | exact Memory.wf_tableClear _ _ _ h) | exact Store.wf_clearPages _ _ _ h | exact Memory.wf_writeBytes _ _ _ h | exact Memory.wf_writeLine _ _ _ h | exact Memory.wf_tableClear _ _ _ h | (split; exact Store.wf_copyPage _ _ _ h k; exact Store.wf_clearPages _ _ _ h))))
      | with_reducible apply Keeps.step (State.pageReady_keeps ..)
      | with_reducible apply Keeps.step (State.ckptCommitted_keeps ..)
      | with_reducible apply Keeps.stepFrame (State.modEnt_frame ..)
      | with_reducible apply Keeps.stepFrame (Frame.set_wbuf ..))

theorem State.clearPiece_keeps (s : State) (x : Xfer) (k : Nat) (la : Nat) (n : Nat) :
    Keeps s (State.clearPiece s x k la n).2 := by
  unfold State.clearPiece
  repeat' (first
      | extract_lets | with_reducible apply Keeps.refl | with_reducible apply Keeps.step (State.writePiece_keeps ..)
      | with_reducible apply Keeps.step (State.moveOut_keeps ..) | with_reducible apply Keeps.iteSnd | split)

theorem State.clearPieces_keepsFrom {s₀ s : State} (h : Keeps s₀ s) (x : Xfer) (k : Nat) (l : List (Nat × Nat)) :
    Keeps s₀ (State.clearPieces s₀ s x k l).2 := by
  induction l generalizing s with
  | nil => exact h
  | cons a l ih =>
    obtain ⟨la, n⟩ := a
    unfold State.clearPieces
    dsimp only
    split
    · exact ih (h.trans ((State.clearPiece_keeps ..)))
    · exact (State.clearPiece_keeps ..)
    · exact (State.clearPiece_keeps ..)

theorem State.clearPieces_keeps (s : State) (x : Xfer) (k : Nat) (l : List (Nat × Nat)) :
    Keeps s (State.clearPieces s s x k l).2 := State.clearPieces_keepsFrom (Keeps.refl _) x k l

theorem State.clearUnit_keeps (s : State) (x : Xfer) (k : Nat) :
    Keeps s (State.clearUnit s x k).2 := by
  unfold State.clearUnit
  repeat' (first
      | extract_lets | with_reducible apply Keeps.refl | with_reducible apply Keeps.step (State.clearPieces_keeps ..))

theorem State.advance_keeps (s : State) (xid : Nat) (y0 : Nat) :
    Keeps s (State.advance s xid y0) := by
  induction y0 generalizing s xid with
  | zero => (unfold State.advance; repeat' (first
       | extract_lets
       | with_reducible apply Keeps.refl
       | exact rfl
       | with_reducible apply Keeps.step (State.clearUnit_keeps ..)
       | with_reducible apply Keeps.stepFrame (State.modXfer_frame ..)
       | with_reducible apply Keeps.step (State.failXfer_keeps ..)
       | with_reducible apply Keeps.step (ih ..)
       | with_reducible apply Keeps.ite
       | split))
  | succ y0 ih =>
    (unfold State.advance
     repeat' (first
         | extract_lets | with_reducible apply Keeps.refl | exact rfl
         | with_reducible apply Keeps.step (State.clearUnit_keeps ..)
         | with_reducible apply Keeps.stepFrame (State.modXfer_frame ..)
         | with_reducible apply Keeps.step (State.failXfer_keeps ..) | with_reducible apply Keeps.step (ih ..)
         | with_reducible apply Keeps.ite | split))

theorem State.finish_keeps (s : State) (xid : Nat) :
    Keeps s (State.finish s xid) := by
  unfold State.finish
  repeat' (first
      | extract_lets | with_reducible apply Keeps.refl | with_reducible apply Keeps.step (State.advance_keeps ..)
      | with_reducible apply Keeps.step (State.endXfer_keeps ..) | with_reducible apply Keeps.step (State.pump_keeps ..)
      | with_reducible apply Keeps.ite | split)

theorem State.unitDone_keeps (s : State) (xid : Nat) (k : Nat) :
    Keeps s (State.unitDone s xid k) := by
  unfold State.unitDone
  repeat' (first
      | extract_lets | with_reducible apply Keeps.refl | exact rfl | with_reducible apply Keeps.step (State.finish_keeps ..)
      | with_reducible apply Keeps.stepFrame (State.modXfer_frame ..))

theorem State.peerOk_keeps (s : State) (port : Nat) (tag : Nat) :
    Keeps s (State.peerOk s port tag) := by
  unfold State.peerOk
  repeat' (first
      | extract_lets | with_reducible apply Keeps.refl | with_reducible apply Keeps.step (State.unitDone_keeps ..)
      | with_reducible apply Keeps.step (State.freeReq_keeps ..) | with_reducible apply Keeps.step (State.lateCpl_keeps ..)
      | split)

theorem State.peerErr_keeps (s : State) (port : Nat) (tag : Nat) (status : Nat) (last : Bool) :
    Keeps s (State.peerErr s port tag status last) := by
  unfold State.peerErr
  repeat' (first
      | extract_lets | with_reducible apply Keeps.refl | with_reducible apply Keeps.step (State.failXfer_keeps ..)
      | with_reducible apply Keeps.step (State.freeReq_keeps ..) | with_reducible apply Keeps.step (State.lateCpl_keeps ..)
      | with_reducible apply Keeps.ite | split)

theorem State.peerRetry_keeps (s : State) (port : Nat) (tag : Nat) (hint : Nat) :
    Keeps s (State.peerRetry s port tag hint) := by
  unfold State.peerRetry
  repeat' (first
      | extract_lets | with_reducible apply Keeps.refl | exact rfl
      | with_reducible apply Keeps.stepFrame (State.modPort_frame ..)
      | with_reducible apply Keeps.step (State.lateCpl_keeps ..) | split)

theorem State.unitData_keeps (s : State) (x : Xfer) (k : Nat) :
    Keeps s (State.unitData s x k).2 := by
  unfold State.unitData
  repeat' (first
      | extract_lets | with_reducible apply Keeps.refl | with_reducible apply Keeps.step (State.moverRead_keeps ..)
      | with_reducible apply Keeps.iteSnd)

theorem State.unitStep_keeps (s : State) (x : Xfer) (k : Nat) :
    Keeps s (State.unitStep s x k) := by
  unfold State.unitStep
  repeat' (first
      | extract_lets | with_reducible apply Keeps.refl | with_reducible apply Keeps.step (State.pump_keeps ..)
      | with_reducible apply Keeps.step (State.unitData_keeps ..) | with_reducible apply Keeps.step (State.failXfer_keeps ..)
      | with_reducible apply Keeps.step (State.unitDone_keeps ..)
      | with_reducible apply Keeps.step (State.hostWrite_keeps ..)
      | with_reducible apply Keeps.step (State.moverAcc_keeps ..)
      | with_reducible apply Keeps.step (State.moverWrite_keeps ..) | with_reducible apply Keeps.ite
      | with_reducible apply Keeps.iteSnd | split)

theorem State.peerSend_keeps (s : State) (x : Xfer) (k : Nat) :
    Keeps s (State.peerSend s x k) := by
  unfold State.peerSend
  repeat' (first
      | extract_lets | with_reducible apply Keeps.refl | exact rfl
      | with_reducible apply Keeps.stepFrame (State.sendPeer_frame ..)
      | with_reducible apply Keeps.step (State.unitData_keeps ..) | with_reducible apply Keeps.step (State.pump_keeps ..)
      | with_reducible apply Keeps.step (State.failXfer_keeps ..)
      | with_reducible apply Keeps.stepFrame (State.modUnit_frame ..) | with_reducible apply Keeps.eachTrans
      | with_reducible apply Keeps.ite | split | intro _)

theorem State.peerTimeout_keeps (s : State) (port : Nat) (tag : Nat) :
    Keeps s (State.peerTimeout s port tag) := by
  unfold State.peerTimeout
  repeat' (first
      | extract_lets | with_reducible apply Keeps.refl | exact rfl
      | with_reducible apply Keeps.stepFrame (State.modPort_frame ..)
      | with_reducible apply Keeps.step (State.failXfer_keeps ..) | split)

theorem State.startNext_keeps (s : State) (engine : Nat) :
    Keeps s (State.startNext s engine) := by
  unfold State.startNext
  repeat' (first
      | extract_lets | with_reducible apply Keeps.refl | exact rfl | with_reducible apply Keeps.step (State.pump_keeps ..)
      | with_reducible apply Keeps.stepFrame (State.modXfer_frame ..) | with_reducible apply Keeps.ite | split)

end Sys2Proof.Machine
end

