-- ==== Sys2Proof/Laws/KeepsEngines.lean ====
section
/-!
SUPPORT. What each operation keeps (the canonical form of the stored data, the credits, the refusal buffers): the engines: programs and built-in kernels.
-/

namespace Sys2Proof.Machine

set_option maxRecDepth 2000
set_option Elab.async false

open Sys2Proof

theorem andThen_keeps{α : Type}{β : Type} (x : KM α) (f : α → KM β) (y0 : State) (hx : ∀ s, Keeps s (x s).2) (hf : ∀ a s, Keeps s (f a s).2) :
    Keeps y0 (andThen x f y0).2 := by
  unfold andThen
  repeat' (first
      | extract_lets | with_reducible apply Keeps.refl | with_reducible apply Keeps.step (hx ..)
      | with_reducible apply Keeps.step (hf ..) | split)

theorem kSome_keeps{α : Type}{β : Type} (o : Option α) (f : α → KM β) (y0 : State) (hf : ∀ a s, Keeps s (f a s).2) :
    Keeps y0 (kSome o f y0).2 := by
  unfold kSome
  repeat' (first
      | extract_lets | with_reducible apply Keeps.refl | exact rfl | with_reducible apply Keeps.stepFrame (kArg_frame ..)
      | with_reducible apply Keeps.step (hf ..) | split)

theorem State.streamed_keeps (s : State) (e : Nat) (ctx : Nat) (n : Nat) (write : Bool) :
    Keeps s (State.streamed s e ctx n write) := by
  unfold State.streamed
  repeat' (first
      | extract_lets | with_reducible apply Keeps.refl | exact rfl | with_reducible apply Keeps.step (State.count_keeps ..)
      | with_reducible apply Keeps.stepFrame (State.fixed_frame ..) | with_reducible apply Keeps.ite)

theorem kRead_keeps (w : Worker) (la : Nat) (len : Nat) (factor : Bool) (y0 : State) :
    Keeps y0 (kRead w la len factor y0).2 := by
  unfold kRead
  repeat' (first
      | extract_lets | with_reducible apply Keeps.refl | with_reducible apply Keeps.step (State.moverRead_keeps ..)
      | with_reducible apply Keeps.step (State.streamed_keeps ..) | with_reducible apply Keeps.iteSnd | split)

theorem takePieces_keeps (w : Worker) (slot : Nat) (y0 : List (Nat × Nat)) (y1 : State) :
    Keeps y1 (takePieces w slot y0 y1).2 := by
  induction y0 generalizing w slot y1 with
  | nil => (unfold takePieces; repeat' (first
       | extract_lets
       | with_reducible apply Keeps.refl
       | exact rfl
       | with_reducible apply Keeps.stepFrame (kPure_frame ..)
       | with_reducible apply Keeps.step (State.moverReadZero_keeps ..)
       | with_reducible apply Keeps.stepFrame (State.modRun_frame ..)
       | with_reducible apply Keeps.step (State.streamed_keeps ..)
       | with_reducible apply Keeps.step (andThen_keeps ..)
       | with_reducible apply Keeps.step (ih ..)
       | split
       | intro _))
  | cons a y0 ih =>
    (unfold takePieces
     repeat' (first
         | extract_lets | with_reducible apply Keeps.refl | exact rfl | with_reducible apply Keeps.stepFrame (kPure_frame ..)
         | with_reducible apply Keeps.step (State.moverReadZero_keeps ..)
         | with_reducible apply Keeps.stepFrame (State.modRun_frame ..)
         | with_reducible apply Keeps.step (State.streamed_keeps ..) | with_reducible apply Keeps.step (andThen_keeps ..)
         | with_reducible apply Keeps.step (ih ..) | split | intro _))

theorem kTake_keeps (w : Worker) (clear : Bool) (slot : Nat) (la : Nat) (len : Nat) (y0 : State) :
    Keeps y0 (kTake w clear slot la len y0).2 := by
  unfold kTake
  repeat' (first
      | extract_lets | with_reducible apply Keeps.refl | with_reducible apply Keeps.step (kRead_keeps ..)
      | with_reducible apply Keeps.step (takePieces_keeps ..) | with_reducible apply Keeps.iteSnd)

theorem gradOf_keeps (k : Worker) (r : Run) (seed : Nat) (y0 : State) :
    Keeps y0 (gradOf k r seed y0).2 := by
  unfold gradOf
  repeat' (first
      | extract_lets | with_reducible apply Keeps.refl | exact rfl | with_reducible apply Keeps.stepFrame (kArg_frame ..)
      | with_reducible apply Keeps.step (kRead_keeps ..) | with_reducible apply Keeps.stepFrame (kPure_frame ..)
      | with_reducible apply Keeps.step (kTake_keeps ..) | with_reducible apply Keeps.step (andThen_keeps ..)
      | with_reducible apply Keeps.iteRun | split | intro _)

theorem optimiserUnit_keeps (k : Worker) (r : Run) (seed : Nat) (y0 : State) :
    Keeps y0 (optimiserUnit k r seed y0).2 := by
  unfold optimiserUnit
  generalize 2 ^ 24 = c0
  generalize 2 ^ 23 = c1
  repeat' (first
      | extract_lets | with_reducible apply Keeps.refl | exact rfl | with_reducible apply Keeps.step (kRead_keeps ..)
      | with_reducible apply Keeps.stepFrame (kPure_frame ..) | with_reducible apply Keeps.step (gradOf_keeps ..)
      | with_reducible apply Keeps.step (andThen_keeps ..) | with_reducible apply Keeps.iteRun | intro _)

theorem readInputs_keeps (k : Worker) (r : Run) (y0 : Nat) (y1 : List Nat) (y2 : State) :
    Keeps y2 (readInputs k r y0 y1 y2).2 := by
  induction y1 generalizing k r y0 y2 with
  | nil => (unfold readInputs; repeat' (first
       | extract_lets
       | with_reducible apply Keeps.refl
       | exact rfl
       | with_reducible apply Keeps.stepFrame (kPure_frame ..)
       | with_reducible apply Keeps.step (kTake_keeps ..)
       | with_reducible apply Keeps.step (andThen_keeps ..)
       | with_reducible apply Keeps.step (ih ..)
       | split
       | intro _))
  | cons a y1 ih =>
    (unfold readInputs
     repeat' (first
         | extract_lets | with_reducible apply Keeps.refl | exact rfl | with_reducible apply Keeps.stepFrame (kPure_frame ..)
         | with_reducible apply Keeps.step (kTake_keeps ..) | with_reducible apply Keeps.step (andThen_keeps ..)
         | with_reducible apply Keeps.step (ih ..) | split | intro _))

theorem reduceUnit_keeps (k : Worker) (r : Run) (seed : Nat) (y0 : State) :
    Keeps y0 (reduceUnit k r seed y0).2 := by
  unfold reduceUnit
  repeat' (first
      | extract_lets | with_reducible apply Keeps.refl | exact rfl | with_reducible apply Keeps.step (readInputs_keeps ..)
      | with_reducible apply Keeps.stepFrame (kPure_frame ..) | with_reducible apply Keeps.step (andThen_keeps ..) | intro _)

theorem quantiseUnit_keeps (k : Worker) (r : Run) (y0 : State) :
    Keeps y0 (quantiseUnit k r y0).2 := by
  unfold quantiseUnit
  repeat' (first
      | extract_lets | with_reducible apply Keeps.refl | exact rfl | with_reducible apply Keeps.step (readInputs_keeps ..)
      | with_reducible apply Keeps.stepFrame (kPure_frame ..) | with_reducible apply Keeps.step (andThen_keeps ..) | intro _)

theorem readIndex_keeps (k : Worker) (r : Run) (y0 : State) :
    Keeps y0 (readIndex k r y0).2 := by
  unfold readIndex
  repeat' (first
      | extract_lets | with_reducible apply Keeps.refl | exact rfl | with_reducible apply Keeps.step (kRead_keeps ..)
      | with_reducible apply Keeps.stepFrame (kArg_frame ..) | with_reducible apply Keeps.stepFrame (kPure_frame ..)
      | with_reducible apply Keeps.step (andThen_keeps ..) | split | intro _)

theorem gatherUnit_keeps (k : Worker) (r : Run) (y0 : State) :
    Keeps y0 (gatherUnit k r y0).2 := by
  unfold gatherUnit
  repeat' (first
      | extract_lets | with_reducible apply Keeps.refl | exact rfl | with_reducible apply Keeps.step (readIndex_keeps ..)
      | with_reducible apply Keeps.step (kRead_keeps ..) | with_reducible apply Keeps.stepFrame (kPure_frame ..)
      | with_reducible apply Keeps.step (andThen_keeps ..) | intro _)

theorem scatterUnit_keeps (k : Worker) (r : Run) (y0 : State) :
    Keeps y0 (scatterUnit k r y0).2 := by
  unfold scatterUnit
  repeat' (first
      | extract_lets | with_reducible apply Keeps.refl | exact rfl | with_reducible apply Keeps.step (readIndex_keeps ..)
      | with_reducible apply Keeps.step (kRead_keeps ..) | with_reducible apply Keeps.stepFrame (kPure_frame ..)
      | with_reducible apply Keeps.step (andThen_keeps ..) | intro _)

theorem fold_keeps (k : Worker) (r : Run) (e : List Byte) (y0 : State) :
    Keeps y0 (fold k r e y0).2 := by
  unfold fold
  repeat' (first
      | extract_lets | with_reducible apply Keeps.refl | exact rfl | with_reducible apply Keeps.step (kTake_keeps ..)
      | with_reducible apply Keeps.stepFrame (kPure_frame ..) | with_reducible apply Keeps.step (andThen_keeps ..) | intro _)

theorem readRecord_keeps (k : Worker) (r : Run) (arg : Nat) (y0 : State) :
    Keeps y0 (readRecord k r arg y0).2 := by
  unfold readRecord
  repeat' (first
      | extract_lets | with_reducible apply Keeps.refl | with_reducible apply Keeps.step (kRead_keeps ..))

theorem startOf_keeps (k : Worker) (r : Run) (y0 : State) :
    Keeps y0 (startOf k r y0).2 := by
  unfold startOf
  repeat' (first
      | extract_lets | with_reducible apply Keeps.refl | exact rfl | with_reducible apply Keeps.stepFrame (kPure_frame ..)
      | with_reducible apply Keeps.step (readRecord_keeps ..) | with_reducible apply Keeps.step (andThen_keeps ..)
      | with_reducible apply Keeps.step (kSome_keeps ..) | with_reducible apply Keeps.iteRun | intro _)

theorem lrLocal_keeps (k : Worker) (r : Run) (seed : Nat) (y0 : State) :
    Keeps y0 (lrLocal k r seed y0).2 := by
  unfold lrLocal
  repeat' (first
      | extract_lets | with_reducible apply Keeps.refl | exact rfl | with_reducible apply Keeps.step (startOf_keeps ..)
      | with_reducible apply Keeps.step (kRead_keeps ..) | with_reducible apply Keeps.step (fold_keeps ..)
      | with_reducible apply Keeps.stepFrame (kPure_frame ..) | with_reducible apply Keeps.step (andThen_keeps ..) | intro _)

theorem lrProject_keeps (k : Worker) (r : Run) (seed : Nat) (y0 : State) :
    Keeps y0 (lrProject k r seed y0).2 := by
  unfold lrProject
  repeat' (first
      | extract_lets | with_reducible apply Keeps.refl | exact rfl | with_reducible apply Keeps.step (startOf_keeps ..)
      | with_reducible apply Keeps.step (kRead_keeps ..) | with_reducible apply Keeps.step (fold_keeps ..)
      | with_reducible apply Keeps.stepFrame (kPure_frame ..) | with_reducible apply Keeps.step (andThen_keeps ..) | intro _)

theorem poolCols_keeps (k : Worker) (r : Run) (y0 : State) :
    Keeps y0 (poolCols k r y0).2 := by
  unfold poolCols
  repeat' (first
      | extract_lets | with_reducible apply Keeps.refl | exact rfl | with_reducible apply Keeps.step (kTake_keeps ..)
      | with_reducible apply Keeps.stepFrame (kPure_frame ..) | with_reducible apply Keeps.step (andThen_keeps ..) | intro _)

theorem lrOrtho_keeps (k : Worker) (r : Run) (seed : Nat) (y0 : State) :
    Keeps y0 (lrOrtho k r seed y0).2 := by
  unfold lrOrtho
  repeat' (first
      | extract_lets | with_reducible apply Keeps.refl | exact rfl | with_reducible apply Keeps.step (poolCols_keeps ..)
      | with_reducible apply Keeps.stepFrame (kPure_frame ..) | with_reducible apply Keeps.step (andThen_keeps ..) | intro _)

theorem lrBack_keeps (k : Worker) (r : Run) (seed : Nat) (y0 : State) :
    Keeps y0 (lrBack k r seed y0).2 := by
  unfold lrBack
  repeat' (first
      | extract_lets | with_reducible apply Keeps.refl | exact rfl | with_reducible apply Keeps.step (kRead_keeps ..)
      | with_reducible apply Keeps.stepFrame (kPure_frame ..) | with_reducible apply Keeps.step (andThen_keeps ..) | intro _)

theorem lrFinish_keeps (k : Worker) (r : Run) (y0 : State) :
    Keeps y0 (lrFinish k r y0).2 := by
  unfold lrFinish
  repeat' (first
      | extract_lets | with_reducible apply Keeps.refl | exact rfl | with_reducible apply Keeps.step (poolCols_keeps ..)
      | with_reducible apply Keeps.stepFrame (kPure_frame ..) | with_reducible apply Keeps.step (andThen_keeps ..) | intro _)

theorem lrResidual_keeps (k : Worker) (r : Run) (seed : Nat) (y0 : State) :
    Keeps y0 (lrResidual k r seed y0).2 := by
  unfold lrResidual
  repeat' (first
      | extract_lets | with_reducible apply Keeps.refl | exact rfl | with_reducible apply Keeps.step (kRead_keeps ..)
      | with_reducible apply Keeps.stepFrame (kPure_frame ..) | with_reducible apply Keeps.step (readRecord_keeps ..)
      | with_reducible apply Keeps.step (andThen_keeps ..) | split | intro _)

theorem lrExpand_keeps (k : Worker) (r : Run) (seed : Nat) (y0 : State) :
    Keeps y0 (lrExpand k r seed y0).2 := by
  unfold lrExpand
  repeat' (first
      | extract_lets | with_reducible apply Keeps.refl | exact rfl | with_reducible apply Keeps.step (kRead_keeps ..)
      | with_reducible apply Keeps.stepFrame (kPure_frame ..) | with_reducible apply Keeps.stepFrame (kArg_frame ..)
      | with_reducible apply Keeps.step (andThen_keeps ..) | split | intro _)

theorem unitOf_keeps (k : Worker) (r : Run) (seed : Nat) (y0 : State) :
    Keeps y0 (unitOf k r seed y0).2 := by
  unfold unitOf
  repeat' (first
      | extract_lets | with_reducible apply Keeps.refl | with_reducible apply Keeps.step (reduceUnit_keeps ..)
      | with_reducible apply Keeps.step (quantiseUnit_keeps ..) | with_reducible apply Keeps.step (gatherUnit_keeps ..)
      | with_reducible apply Keeps.step (scatterUnit_keeps ..) | with_reducible apply Keeps.step (lrLocal_keeps ..)
      | with_reducible apply Keeps.step (lrProject_keeps ..) | with_reducible apply Keeps.step (lrOrtho_keeps ..)
      | with_reducible apply Keeps.step (lrBack_keeps ..) | with_reducible apply Keeps.step (lrFinish_keeps ..)
      | with_reducible apply Keeps.step (lrResidual_keeps ..) | with_reducible apply Keeps.step (lrExpand_keeps ..)
      | with_reducible apply Keeps.step (optimiserUnit_keeps ..) | split)

theorem State.failNext_keeps (s : State) (id : Nat) :
    Keeps s (State.failNext s id) := by
  unfold State.failNext
  repeat' (first
      | extract_lets | with_reducible apply Keeps.refl | with_reducible apply Keeps.step (State.failRun_keeps ..) | split)

theorem State.unitFinished_keeps (s : State) (id : Nat) (w : UnitWork) :
    Keeps s (State.unitFinished s id w) := by
  unfold State.unitFinished
  repeat' (first
      | extract_lets | with_reducible apply Keeps.refl | exact rfl
      | with_reducible apply Keeps.step (State.failNext_keeps ..)
      | with_reducible apply Keeps.stepFrame (State.modRun_frame ..))

theorem State.quantSat_keeps (s : State) (e : Nat) (ctx : Nat) (n : Nat) :
    Keeps s (State.quantSat s e ctx n) := by
  unfold State.quantSat
  repeat' (first
      | extract_lets | with_reducible apply Keeps.refl | exact rfl | with_reducible apply Keeps.step (State.count_keeps ..)
      | with_reducible apply Keeps.stepFrame (State.modChd_frame ..) | with_reducible apply Keeps.ite)

theorem State.unitRetired_keeps (s : State) (r : Run) (w : UnitWork) :
    Keeps s (State.unitRetired s r w) := by
  unfold State.unitRetired
  repeat' (first
      | extract_lets | with_reducible apply Keeps.refl | exact rfl
      | with_reducible apply Keeps.stepFrame (State.modRun_frame ..)
      | with_reducible apply Keeps.step (State.quantSat_keeps ..)
      | with_reducible apply Keeps.step (State.settleRun_keeps ..)
      | with_reducible apply Keeps.stepFrame (State.modEngine_frame ..)
      | with_reducible apply Keeps.step (State.failNext_keeps ..) | with_reducible apply Keeps.eachTrans
      | with_reducible apply Keeps.ite | intro _)

theorem State.putWrite_keeps (k : Worker) (s : State) (w : UnitWrite) :
    Keeps s (State.putWrite k s w).2 := by
  unfold State.putWrite
  repeat' (first
      | extract_lets | with_reducible apply Keeps.refl | with_reducible apply Keeps.step (State.moverVadd_keeps ..)
      | with_reducible apply Keeps.step (State.writePiece_keeps ..)
      | with_reducible apply Keeps.step (State.streamed_keeps ..) | with_reducible apply Keeps.iteSnd | split)

theorem State.ready_keeps (s : State) (m : Mover) (la : Nat) (n : Nat) (p : Perm) (write : Bool) :
    Keeps s (State.ready s m la n p write).2 := by
  unfold State.ready
  repeat' (first
      | extract_lets | with_reducible apply Keeps.refl | with_reducible apply Keeps.step (State.sendRecall_keeps ..)
      | with_reducible apply Keeps.step (State.reach_keeps ..) | with_reducible apply Keeps.iteSnd | split)

theorem State.allReady_keeps (s : State) (m : Mover) (l : List (Nat × Nat)) (p : Perm) (write : Bool) :
    Keeps s (State.allReady s m l p write).2 := by
  unfold State.allReady
  repeat' (first
      | extract_lets | with_reducible apply Keeps.refl | with_reducible apply Keeps.step (State.ready_keeps ..)
      | with_reducible apply Keeps.foldTrans | intro _)

theorem State.doAll_keeps{α : Type} (s : State) (f : State → α → Got Unit × State) (y0 : List α) (y1 : Nat) (hf : ∀ s a, Keeps s (f s a).2) :
    Keeps s (State.doAll s f y0 y1).2 := by
  induction y0 generalizing s y1 with
  | nil => (unfold State.doAll; repeat' (first
       | extract_lets
       | with_reducible apply Keeps.refl
       | with_reducible apply Keeps.step (ih ..)
       | with_reducible apply Keeps.step (hf ..)
       | split))
  | cons a y0 ih =>
    (unfold State.doAll
     repeat' (first
         | extract_lets | with_reducible apply Keeps.refl | with_reducible apply Keeps.step (ih ..)
         | with_reducible apply Keeps.step (hf ..) | split))

theorem State.writeStep_keeps (s : State) (k : Worker) (r : Run) (w : UnitWork) :
    Keeps s (State.writeStep s k r w) := by
  unfold State.writeStep
  repeat' (first
      | extract_lets | with_reducible apply Keeps.refl | exact rfl
      | with_reducible apply Keeps.step (State.unitRetired_keeps ..)
      | with_reducible apply Keeps.step (State.allReady_keeps ..) | with_reducible apply Keeps.step (State.failRun_keeps ..)
      | with_reducible apply Keeps.step (State.putWrite_keeps ..)
      | with_reducible apply Keeps.stepFrame (State.modRun_frame ..) | with_reducible apply Keeps.step (State.doAll_keeps ..)
      | with_reducible apply Keeps.ite | split | intro _)

theorem State.readStep_keeps (s : State) (k : Worker) (r : Run) (u : Nat) :
    Keeps s (State.readStep s k r u) := by
  unfold State.readStep
  generalize 2 ^ 32 = c0
  repeat' (first
      | extract_lets | with_reducible apply Keeps.refl | exact rfl
      | with_reducible apply Keeps.step (State.unitFinished_keeps ..)
      | with_reducible apply Keeps.step (State.allReady_keeps ..) | with_reducible apply Keeps.step (unitOf_keeps ..) | split
      | with_reducible apply Keeps.stepFrame (Frame.set_fresh ..))

theorem State.builtinStep_keeps (s : State) (e : Nat) (r : Run) :
    Keeps s (State.builtinStep s e r) := by
  unfold State.builtinStep
  repeat' (first
      | extract_lets | with_reducible apply Keeps.refl | exact rfl | with_reducible apply Keeps.step (kRead_keeps ..)
      | with_reducible apply Keeps.step (State.failRun_keeps ..)
      | with_reducible apply Keeps.stepFrame (State.modRun_frame ..)
      | with_reducible apply Keeps.step (State.writeStep_keeps ..)
      | with_reducible apply Keeps.step (State.readStep_keeps ..) | with_reducible apply Keeps.ite | split)

theorem State.issue_keeps (s : State) (e : Nat) (op : Nat) (f : State → Slot4 → State) (hf : ∀ s w, Keeps s (f s w)) :
    Keeps s (State.issue s e op f) := by
  unfold State.issue
  repeat' (first
      | extract_lets | with_reducible apply Keeps.refl | with_reducible apply Keeps.step (hf ..)
      | with_reducible apply Keeps.ite | split)

theorem State.issued_keeps (s : State) (i : Slot4) :
    Keeps s (State.issued s i) := by
  unfold State.issued
  repeat' (first
      | extract_lets | with_reducible apply Keeps.refl | exact rfl
      | with_reducible apply Keeps.stepFrame (State.fixed_frame ..) | with_reducible apply Keeps.step (State.count_keeps ..))

theorem State.retire_keeps (s : State) (i : Slot4) (f : Engine → Engine) (skip : Nat) :
    Keeps s (State.retire s i f skip) := by
  unfold State.retire
  repeat' (first
      | extract_lets | with_reducible apply Keeps.refl | exact rfl
      | with_reducible apply Keeps.stepFrame (State.modEngine_frame ..)
      | with_reducible apply Keeps.step (State.issued_keeps ..))

theorem State.retireV_keeps (s : State) (i : Slot4) (cycles : Nat) (f : Engine → Engine) :
    Keeps s (State.retireV s i cycles f) := by
  unfold State.retireV
  repeat' (first
      | extract_lets | with_reducible apply Keeps.refl | with_reducible apply Keeps.step (State.count_keeps ..)
      | with_reducible apply Keeps.step (State.retire_keeps ..))

theorem State.failAt_keeps (s : State) (i : Slot4) (reason : Nat) (la : Nat) :
    Keeps s (State.failAt s i reason la) := by
  unfold State.failAt
  repeat' (first
      | extract_lets | with_reducible apply Keeps.refl | with_reducible apply Keeps.step (State.failRun_keeps ..)
      | with_reducible apply Keeps.step (State.issued_keeps ..))

theorem State.opEnd_keeps (s : State) (i : Slot4) :
    Keeps s (State.opEnd s i) := by
  unfold State.opEnd
  repeat' (first
      | extract_lets | with_reducible apply Keeps.refl | exact rfl
      | with_reducible apply Keeps.stepFrame (State.modEngine_frame ..)
      | with_reducible apply Keeps.step (State.issued_keeps ..)
      | with_reducible apply Keeps.stepFrame (State.modRun_frame ..)
      | with_reducible apply Keeps.step (State.settleRun_keeps ..) | with_reducible apply Keeps.ite)

theorem State.opLoop_keeps (s : State) (i : Slot4) :
    Keeps s (State.opLoop s i) := by
  unfold State.opLoop
  repeat' (first
      | extract_lets | with_reducible apply Keeps.refl | with_reducible apply Keeps.step (State.retire_keeps ..)
      | with_reducible apply Keeps.ite)

theorem State.opSkip_keeps (s : State) (i : Slot4) :
    Keeps s (State.opSkip s i) := by
  unfold State.opSkip
  repeat' (first
      | extract_lets | with_reducible apply Keeps.refl | with_reducible apply Keeps.step (State.retire_keeps ..))

theorem State.opLi_keeps (s : State) (i : Slot4) :
    Keeps s (State.opLi s i) := by
  unfold State.opLi
  repeat' (first
      | extract_lets | with_reducible apply Keeps.refl | with_reducible apply Keeps.step (State.retire_keeps ..))

theorem State.opSalu_keeps (s : State) (i : Slot4) :
    Keeps s (State.opSalu s i) := by
  unfold State.opSalu
  repeat' (first
      | extract_lets | with_reducible apply Keeps.refl | exact rfl
      | with_reducible apply Keeps.stepFrame (State.takeFree_frame ..)
      | with_reducible apply Keeps.step (State.retire_keeps ..))

theorem State.opArg_keeps (s : State) (i : Slot4) :
    Keeps s (State.opArg s i) := by
  unfold State.opArg
  repeat' (first
      | extract_lets | with_reducible apply Keeps.refl | with_reducible apply Keeps.step (State.retire_keeps ..))

theorem State.opStream_keeps (s : State) (i : Slot4) (st : Stream) :
    Keeps s (State.opStream s i st) := by
  unfold State.opStream
  repeat' (first
      | extract_lets | with_reducible apply Keeps.refl | with_reducible apply Keeps.step (State.failAt_keeps ..)
      | with_reducible apply Keeps.step (State.retire_keeps ..) | with_reducible apply Keeps.ite | split)

theorem State.opWait_keeps (s : State) (i : Slot4) :
    Keeps s (State.opWait s i) := by
  unfold State.opWait
  repeat' (first
      | extract_lets | with_reducible apply Keeps.refl | with_reducible apply Keeps.step (State.retire_keeps ..)
      | with_reducible apply Keeps.ite)

theorem State.opFence_keeps (s : State) (i : Slot4) :
    Keeps s (State.opFence s i) := by
  unfold State.opFence
  repeat' (first
      | extract_lets | with_reducible apply Keeps.refl | with_reducible apply Keeps.step (State.retire_keeps ..)
      | with_reducible apply Keeps.ite)

theorem State.opExpand_keeps (s : State) (i : Slot4) :
    Keeps s (State.opExpand s i) := by
  unfold State.opExpand
  repeat' (first
      | extract_lets | with_reducible apply Keeps.refl | exact rfl | with_reducible apply Keeps.step (State.retireV_keeps ..)
      | with_reducible apply Keeps.step (State.failRun_keeps ..) | with_reducible apply Keeps.ite | split
      | with_reducible apply Keeps.stepFrame (Frame.set_fresh ..))

theorem State.opVld_keeps (s : State) (i : Slot4) :
    Keeps s (State.opVld s i) := by
  unfold State.opVld
  repeat' (first
      | extract_lets | with_reducible apply Keeps.refl | with_reducible apply Keeps.step (State.opExpand_keeps ..)
      | with_reducible apply Keeps.step (State.failAt_keeps ..) | with_reducible apply Keeps.step (State.retireV_keeps ..)
      | with_reducible apply Keeps.ite)

theorem State.opVst_keeps (s : State) (i : Slot4) :
    Keeps s (State.opVst s i) := by
  unfold State.opVst
  repeat' (first
      | extract_lets | with_reducible apply Keeps.refl | with_reducible apply Keeps.step (State.failAt_keeps ..)
      | with_reducible apply Keeps.step (State.retireV_keeps ..) | with_reducible apply Keeps.ite)

theorem State.opValu_keeps (s : State) (i : Slot4) :
    Keeps s (State.opValu s i) := by
  unfold State.opValu
  repeat' (first
      | extract_lets | with_reducible apply Keeps.refl | with_reducible apply Keeps.step (State.retireV_keeps ..))

theorem State.opVfma_keeps (s : State) (i : Slot4) :
    Keeps s (State.opVfma s i) := by
  unfold State.opVfma
  repeat' (first
      | extract_lets | with_reducible apply Keeps.refl | with_reducible apply Keeps.step (State.retireV_keeps ..))

theorem State.opVsfu_keeps (s : State) (i : Slot4) :
    Keeps s (State.opVsfu s i) := by
  unfold State.opVsfu
  repeat' (first
      | extract_lets | with_reducible apply Keeps.refl | with_reducible apply Keeps.step (State.retireV_keeps ..))

theorem State.opVred_keeps (s : State) (i : Slot4) :
    Keeps s (State.opVred s i) := by
  unfold State.opVred
  repeat' (first
      | extract_lets | with_reducible apply Keeps.refl | exact rfl | with_reducible apply Keeps.step (State.retireV_keeps ..)
      | with_reducible apply Keeps.stepFrame (Frame.set_fresh ..))

theorem State.opVbcast_keeps (s : State) (i : Slot4) :
    Keeps s (State.opVbcast s i) := by
  unfold State.opVbcast
  repeat' (first
      | extract_lets | with_reducible apply Keeps.refl | with_reducible apply Keeps.step (State.retireV_keeps ..))

theorem State.opVcvt_keeps (s : State) (i : Slot4) :
    Keeps s (State.opVcvt s i) := by
  unfold State.opVcvt
  repeat' (first
      | extract_lets | with_reducible apply Keeps.refl | with_reducible apply Keeps.step (State.retireV_keeps ..)
      | with_reducible apply Keeps.step (State.quantSat_keeps ..) | with_reducible apply Keeps.ite)

theorem State.opMzero_keeps (s : State) (i : Slot4) :
    Keeps s (State.opMzero s i) := by
  unfold State.opMzero
  repeat' (first
      | extract_lets | with_reducible apply Keeps.refl | with_reducible apply Keeps.step (State.retire_keeps ..))

theorem State.opMmac_keeps (s : State) (i : Slot4) :
    Keeps s (State.opMmac s i) := by
  unfold State.opMmac
  repeat' (first
      | extract_lets | with_reducible apply Keeps.refl | exact rfl | with_reducible apply Keeps.step (State.failAt_keeps ..)
      | with_reducible apply Keeps.step (State.count_keeps ..) | with_reducible apply Keeps.step (State.retire_keeps ..)
      | with_reducible apply Keeps.ite | with_reducible apply Keeps.stepFrame (Frame.set_fresh ..))

theorem State.opMst_keeps (s : State) (i : Slot4) :
    Keeps s (State.opMst s i) := by
  unfold State.opMst
  repeat' (first
      | extract_lets | with_reducible apply Keeps.refl | with_reducible apply Keeps.step (State.failAt_keeps ..)
      | with_reducible apply Keeps.step (State.retire_keeps ..) | with_reducible apply Keeps.ite)

theorem State.endStream_keeps (s : State) (e : Nat) (st : Stream) (f : Engine → Engine) :
    Keeps s (State.endStream s e st f) := by
  unfold State.endStream
  repeat' (first
      | extract_lets | with_reducible apply Keeps.refl | exact rfl
      | with_reducible apply Keeps.stepFrame (State.modEngine_frame ..)
      | with_reducible apply Keeps.step (State.settleRun_keeps ..) | split)

theorem State.failStream_keeps (s : State) (e : Nat) (r : Run) (st : Stream) (reason : Nat) (la : Nat) :
    Keeps s (State.failStream s e r st reason la) := by
  unfold State.failStream
  repeat' (first
      | extract_lets | with_reducible apply Keeps.refl | exact rfl
      | with_reducible apply Keeps.step (State.settleRun_keeps ..) | with_reducible apply Keeps.step (State.failRun_keeps ..)
      | with_reducible apply Keeps.stepFrame (State.modEngine_frame ..))

theorem State.doneSin_keeps (s : State) (e : Nat) (r : Run) (g : Engine) (st : Stream) :
    Keeps s (State.doneSin s e r g st) := by
  unfold State.doneSin
  repeat' (first
      | extract_lets | with_reducible apply Keeps.refl | exact rfl
      | with_reducible apply Keeps.step (State.failStream_keeps ..)
      | with_reducible apply Keeps.step (State.moverRead_keeps ..)
      | with_reducible apply Keeps.step (State.endStream_keeps ..)
      | with_reducible apply Keeps.step (State.streamed_keeps ..)
      | with_reducible apply Keeps.stepFrame (State.modEngine_frame ..) | with_reducible apply Keeps.ite | split)

theorem State.putStream_keeps{α : Type} (s : State) (e : Nat) (r : Run) (st : Stream) (p : Perm) (ranges : List (Nat × Nat)) (ops : List α) (f : State → α → Got Unit × State) (bytes : Nat) (sat : Nat) (hf : ∀ s a, Keeps s (f s a).2) :
    Keeps s (State.putStream s e r st p ranges ops f bytes sat) := by
  unfold State.putStream
  repeat' (first
      | extract_lets | with_reducible apply Keeps.refl | exact rfl | with_reducible assumption
      | with_reducible apply Keeps.step (State.allReady_keeps ..)
      | with_reducible apply Keeps.step (State.failStream_keeps ..)
      | with_reducible apply Keeps.stepFrame (State.modEngine_frame ..)
      | with_reducible apply Keeps.step (State.endStream_keeps ..)
      | with_reducible apply Keeps.step (State.quantSat_keeps ..) | with_reducible apply Keeps.step (State.streamed_keeps ..)
      | with_reducible apply Keeps.step (State.doAll_keeps ..) | split)

theorem State.doneSout_keeps (s : State) (e : Nat) (r : Run) (g : Engine) (st : Stream) :
    Keeps s (State.doneSout s e r g st) := by
  unfold State.doneSout
  repeat' (first
      | extract_lets | with_reducible apply Keeps.refl | with_reducible apply Keeps.step (State.writePiece_keeps ..)
      | with_reducible apply Keeps.step (State.putStream_keeps ..) | intro _)

theorem State.doneSacc_keeps (s : State) (e : Nat) (r : Run) (g : Engine) (st : Stream) :
    Keeps s (State.doneSacc s e r g st) := by
  unfold State.doneSacc
  repeat' (first
      | extract_lets | with_reducible apply Keeps.refl | with_reducible apply Keeps.step (State.moverAcc_keeps ..)
      | with_reducible apply Keeps.step (State.putStream_keeps ..) | split | intro _)

theorem State.doneGather_keeps (s : State) (e : Nat) (r : Run) (g : Engine) (st : Stream) :
    Keeps s (State.doneGather s e r g st) := by
  unfold State.doneGather
  repeat' (first
      | extract_lets | with_reducible apply Keeps.refl | with_reducible apply Keeps.step (State.readPieces_keeps ..)
      | with_reducible apply Keeps.step (State.endStream_keeps ..)
      | with_reducible apply Keeps.step (State.failStream_keeps ..)
      | with_reducible apply Keeps.step (State.streamed_keeps ..) | with_reducible apply Keeps.ite | split)

theorem State.doneScatter_keeps (s : State) (e : Nat) (r : Run) (g : Engine) (st : Stream) :
    Keeps s (State.doneScatter s e r g st) := by
  unfold State.doneScatter
  repeat' (first
      | extract_lets | with_reducible apply Keeps.refl | with_reducible apply Keeps.step (State.moverVadd_keeps ..)
      | with_reducible apply Keeps.step (State.putStream_keeps ..) | intro _)

theorem State.streamStep_keeps (s : State) (e : Nat) (tag : Nat) (r : Run) :
    Keeps s (State.streamStep s e tag r) := by
  unfold State.streamStep
  repeat' (first
      | extract_lets | with_reducible apply Keeps.refl | with_reducible apply Keeps.step (State.doneSin_keeps ..)
      | with_reducible apply Keeps.step (State.doneSout_keeps ..) | with_reducible apply Keeps.step (State.doneSacc_keeps ..)
      | with_reducible apply Keeps.step (State.doneGather_keeps ..)
      | with_reducible apply Keeps.step (State.doneScatter_keeps ..) | with_reducible apply Keeps.ite | split)

end Sys2Proof.Machine
end

