-- ==== Sys2Proof/Laws/KeepsRegions.lean ====
section
/-!
SUPPORT. What each operation keeps (the canonical form of the stored data, the credits, the refusal buffers): regions, hints, flash, HBM, sharing, contexts and counters.
-/

namespace Sys2Proof.Machine

set_option maxRecDepth 2000
set_option Elab.async false

open Sys2Proof

theorem State.newContext_keeps (s : State) (c : Cmd) (x : Ctx) :
    Keeps s (State.newContext s c x) := by
  unfold State.newContext
  repeat' (first
      | extract_lets | with_reducible apply Keeps.refl | exact rfl
      | with_reducible apply Keeps.stepFrame (State.pick_frame ..) | with_reducible apply Keeps.step (State.reply_keeps ..)
      | with_reducible apply Keeps.stepFrame (State.loadKey_frame ..)
      | with_reducible apply Keeps.stepFrame (State.modCtx_frame ..)
      | with_reducible apply Keeps.step (State.replyAs_keeps ..)
      | (with_reducible apply Keeps.ofPair; with_reducible assumption) | split)

theorem startCtxCreate_keeps (s : State) (c : Cmd) :
    Keeps s (startCtxCreate s c) := by
  unfold startCtxCreate
  repeat' (first
      | extract_lets | with_reducible apply Keeps.refl | exact rfl | with_reducible apply Keeps.step (State.reply_keeps ..)
      | with_reducible apply Keeps.step (State.bad_keeps ..) | with_reducible apply Keeps.stepFrame (State.pick_frame ..)
      | with_reducible apply Keeps.stepFrame (State.modRegion_frame ..)
      | with_reducible apply Keeps.stepFrame (State.modCtx_frame ..)
      | with_reducible apply Keeps.stepFrame (State.loadKey_frame ..)
      | with_reducible apply Keeps.step (State.replyAs_keeps ..)
      | with_reducible apply Keeps.stepFrame (State.takeKey_frame ..)
      | with_reducible apply Keeps.stepFrame (State.pickSeal_frame ..)
      | with_reducible apply Keeps.step (State.newContext_keeps ..) | with_reducible apply Keeps.eachTrans
      | (with_reducible apply Keeps.ofPair; with_reducible assumption) | with_reducible apply Keeps.ite | split | intro _
      | with_reducible apply Keeps.stepFrame (Frame.set_sealed ..))

theorem State.endReadsOf_keeps (s : State) (c : Nat) :
    Keeps s (State.endReadsOf s c) := by
  unfold State.endReadsOf
  repeat' (first
      | extract_lets | with_reducible apply Keeps.refl
      | (with_reducible apply Keeps.step (State.modFn_keeps _ _ _ (by intro g; first | rfl | exact Ring.commit_held _ | (unfold Fn.writeAer; dsimp only; (repeat' split) <;> rfl) | (unfold Fn.logUnc; dsimp only; done) | (unfold Fn.logUnc; dsimp only; split <;> rfl) | ((repeat' split) <;> first | rfl | exact Ring.commit_held _))))
      | with_reducible apply Keeps.ite)

theorem startPublish_keeps (s : State) (c : Cmd) :
    Keeps s (startPublish s c) := by
  unfold startPublish
  repeat' (first
      | extract_lets | with_reducible apply Keeps.refl | exact rfl | with_reducible apply Keeps.step (State.bad_keeps ..)
      | with_reducible apply Keeps.step (State.reply_keeps ..)
      | with_reducible apply Keeps.stepFrame (State.endBuilds_frame ..)
      | with_reducible apply Keeps.stepFrame (State.setRegion_frame ..) | with_reducible apply Keeps.ite | split)

theorem startSubscribe_keeps (s : State) (c : Cmd) :
    Keeps s (startSubscribe s c) := by
  unfold startSubscribe
  repeat' (first
      | extract_lets | with_reducible apply Keeps.refl | exact rfl | with_reducible apply Keeps.step (State.bad_keeps ..)
      | with_reducible apply Keeps.step (State.reply_keeps ..)
      | with_reducible apply Keeps.stepFrame (State.pickIndex_frame ..)
      | (with_reducible apply Keeps.ofPair; with_reducible assumption) | with_reducible apply Keeps.ite | split
      | with_reducible apply Keeps.stepFrame (Frame.set_subs ..))

theorem State.freeRegion_keeps (s : State) (i : Nat) :
    Keeps s (State.freeRegion s i) := by
  unfold State.freeRegion
  repeat' (first
      | (with_reducible apply Keeps.step (Keeps.clearImages ..)) | extract_lets | with_reducible apply Keeps.refl | exact rfl
      | with_reducible apply Keeps.step (State.refuseHeld_keeps ..)
      | with_reducible apply Keeps.stepFrame (State.retireTables_frame ..)
      | with_reducible apply Keeps.step (State.endLease_keeps ..) | with_reducible apply Keeps.step (State.trim_keeps ..)
      | with_reducible apply Keeps.stepFrame (State.freePage_frame ..)
      | with_reducible apply Keeps.stepFrame (State.modStack_frame ..)
      | with_reducible apply Keeps.stepFrame (State.releaseFrames_frame ..)
      | with_reducible apply Keeps.stepFrame (State.setFramePair_frame ..)
      | (with_reducible apply Keeps.step (State.modHbm_keeps _ _ (by intro h k; first | exact h | (dsimp only [Store.freshLines, Store.poisonBlock]; first | exact h | exact Memory.wf_writeBytes _ _ _ h | exact Memory.wf_writeLine _ _ _ h | exact Memory.wf_tableClear _ _ _ h) | exact Store.wf_clearPages _ _ _ h | exact Memory.wf_writeBytes _ _ _ h | exact Memory.wf_writeLine _ _ _ h | exact Memory.wf_tableClear _ _ _ h | (split; exact Store.wf_copyPage _ _ _ h k; exact Store.wf_clearPages _ _ _ h))))
      | with_reducible apply Keeps.stepFrame (State.loadKey_frame ..)
      | with_reducible apply Keeps.stepFrame (State.nextSeq_frame ..) | with_reducible apply Keeps.eachTrans
      | with_reducible apply Keeps.ite | split | intro _
      | with_reducible apply Keeps.stepFrame (Frame.set_wbuf_atoms_hbmStk ..))

theorem State.settleVersion_keeps (s : State) (i : Nat) :
    Keeps s (State.settleVersion s i) := by
  unfold State.settleVersion
  repeat' (first
      | extract_lets | with_reducible apply Keeps.refl | with_reducible apply Keeps.step (State.freeRegion_keeps ..)
      | with_reducible apply Keeps.ite | split)

theorem startUnsubscribe_keeps (s : State) (c : Cmd) :
    Keeps s (startUnsubscribe s c) := by
  unfold startUnsubscribe
  repeat' (first
      | extract_lets | with_reducible apply Keeps.refl | exact rfl | with_reducible apply Keeps.step (State.bad_keeps ..)
      | with_reducible apply Keeps.step (State.reply_keeps ..)
      | with_reducible apply Keeps.step (State.settleVersion_keeps ..)
      | with_reducible apply Keeps.stepFrame (State.nextSeq_frame ..) | with_reducible apply Keeps.ite | split
      | with_reducible apply Keeps.stepFrame (Frame.set_subs ..))

theorem startWithdraw_keeps (s : State) (c : Cmd) :
    Keeps s (startWithdraw s c) := by
  unfold startWithdraw
  repeat' (first
      | extract_lets | with_reducible apply Keeps.refl | exact rfl | with_reducible apply Keeps.step (State.bad_keeps ..)
      | with_reducible apply Keeps.step (State.reply_keeps ..)
      | with_reducible apply Keeps.step (State.settleVersion_keeps ..)
      | with_reducible apply Keeps.stepFrame (State.setRegion_frame ..) | with_reducible apply Keeps.ite | split)

theorem State.wakeShare_keeps (s : State) :
    Keeps s (State.wakeShare s) := by
  unfold State.wakeShare
  repeat' (first
      | extract_lets | with_reducible apply Keeps.refl | with_reducible apply Keeps.step (startPublish_keeps ..)
      | with_reducible apply Keeps.step (startSubscribe_keeps ..)
      | with_reducible apply Keeps.step (startUnsubscribe_keeps ..)
      | with_reducible apply Keeps.step (startWithdraw_keeps ..) | with_reducible apply Keeps.eachTrans | split | intro _)

theorem State.endPublish_keeps (s : State) (i : Nat) (share : ShareSt) (status : Nat) (result : Nat) :
    Keeps s (State.endPublish s i share status result) := by
  unfold State.endPublish
  repeat' (first
      | extract_lets | with_reducible apply Keeps.refl | exact rfl
      | with_reducible apply Keeps.stepFrame (State.setRegion_frame ..)
      | with_reducible apply Keeps.step (State.replyTo_keeps ..)
      | with_reducible apply Keeps.stepFrame (State.forgetWaits_frame ..)
      | with_reducible apply Keeps.step (State.wakeShare_keeps ..) | split | dsimp +zetaDelta only [id])

theorem State.drainCtx_keeps (s : State) (c : Nat) :
    Keeps s (State.drainCtx s c) := by
  unfold State.drainCtx
  repeat' (first
      | extract_lets | with_reducible apply Keeps.refl | exact rfl
      | with_reducible apply Keeps.step (State.endReadsOf_keeps ..)
      | with_reducible apply Keeps.stepFrame (State.modCtx_frame ..)
      | with_reducible apply Keeps.step (State.refuseHeld_keeps ..)
      | with_reducible apply Keeps.step (State.abortRuns_keeps ..)
      | with_reducible apply Keeps.step (State.failXfer_keeps ..) | with_reducible apply Keeps.step (State.reply_keeps ..)
      | with_reducible apply Keeps.step (State.endPublish_keeps ..)
      | with_reducible apply Keeps.stepFrame (State.unbindHost_frame ..) | with_reducible apply Keeps.eachTrans
      | with_reducible apply Keeps.ite | intro _)

theorem startCtxDestroy_keeps (s : State) (c : Cmd) :
    Keeps s (startCtxDestroy s c) := by
  unfold startCtxDestroy
  repeat' (first
      | extract_lets | with_reducible apply Keeps.refl | exact rfl | with_reducible apply Keeps.step (State.bad_keeps ..)
      | with_reducible apply Keeps.step (State.drainCtx_keeps ..) | with_reducible apply Keeps.step (State.reply_keeps ..)
      | with_reducible apply Keeps.step (State.freeRegion_keeps ..) | with_reducible apply Keeps.eachTrans
      | with_reducible apply Keeps.ite | split | intro _ | with_reducible apply Keeps.stepFrame (Frame.set_sealed ..))

theorem State.sealRegion_keeps (s : State) (i : Nat) (sealId : Nat) :
    Keeps s (State.sealRegion s i sealId) := by
  unfold State.sealRegion
  repeat' (first
      | (with_reducible apply Keeps.step (Keeps.clearStaged ..)) | extract_lets | with_reducible apply Keeps.refl | exact rfl
      | with_reducible apply Keeps.stepFrame (State.retireTables_frame ..)
      | with_reducible apply Keeps.stepFrame (State.sealPage_frame ..)
      | (with_reducible apply Keeps.step (State.modHbm_keeps _ _ (by intro h k; first | exact h | (dsimp only [Store.freshLines, Store.poisonBlock]; first | exact h | exact Memory.wf_writeBytes _ _ _ h | exact Memory.wf_writeLine _ _ _ h | exact Memory.wf_tableClear _ _ _ h) | exact Store.wf_clearPages _ _ _ h | exact Memory.wf_writeBytes _ _ _ h | exact Memory.wf_writeLine _ _ _ h | exact Memory.wf_tableClear _ _ _ h | (split; exact Store.wf_copyPage _ _ _ h k; exact Store.wf_clearPages _ _ _ h))))
      | with_reducible apply Keeps.stepFrame (State.setRegion_frame ..) | with_reducible apply Keeps.eachTrans | split
      | intro _)

theorem State.leaveRegion_keeps (s : State) (x : Ctx) (i : Nat) :
    Keeps s (State.leaveRegion s x i) := by
  unfold State.leaveRegion
  repeat' (first
      | extract_lets | with_reducible apply Keeps.refl | exact rfl
      | with_reducible apply Keeps.step (State.sealRegion_keeps ..)
      | with_reducible apply Keeps.step (State.settleVersion_keeps ..)
      | with_reducible apply Keeps.stepFrame (State.setRegion_frame ..)
      | with_reducible apply Keeps.step (State.freeRegion_keeps ..) | with_reducible apply Keeps.ite | split)

theorem State.freeCtx_keeps (s : State) (c : Nat) :
    Keeps s (State.freeCtx s c) := by
  unfold State.freeCtx
  repeat' (first
      | extract_lets | with_reducible apply Keeps.refl | exact rfl
      | with_reducible apply Keeps.step (State.settleVersion_keeps ..)
      | with_reducible apply Keeps.stepFrame (State.nextSeq_frame ..)
      | with_reducible apply Keeps.stepFrame (State.retireTables_frame ..)
      | with_reducible apply Keeps.step (State.leaveRegion_keeps ..)
      | with_reducible apply Keeps.stepFrame (State.modDisp_frame ..)
      | with_reducible apply Keeps.stepFrame (State.modEngine_frame ..)
      | with_reducible apply Keeps.stepFrame (State.modReg_frame ..)
      | with_reducible apply Keeps.stepFrame (State.loadKey_frame ..)
      | with_reducible apply Keeps.step (State.reply_keeps ..) | with_reducible apply Keeps.eachTrans
      | with_reducible apply Keeps.ite | intro _ | with_reducible apply Keeps.stepFrame (Frame.set_subs ..)
      | with_reducible apply Keeps.stepFrame (Frame.set_tables ..)
      | with_reducible apply Keeps.stepFrame (Frame.set_sealed ..)
      | with_reducible apply Keeps.stepFrame (Frame.set_ctxs ..))

theorem startCtxBindPort_keeps (s : State) (c : Cmd) :
    Keeps s (startCtxBindPort s c) := by
  unfold startCtxBindPort
  repeat' (first
      | extract_lets | with_reducible apply Keeps.refl | exact rfl | with_reducible apply Keeps.step (State.reply_keeps ..)
      | with_reducible apply Keeps.stepFrame (State.modCtx_frame ..))

theorem startWinSet_keeps (s : State) (c : Cmd) :
    Keeps s (startWinSet s c) := by
  unfold startWinSet
  repeat' (first
      | extract_lets | with_reducible apply Keeps.refl | exact rfl
      | with_reducible apply Keeps.stepFrame (State.modCtx_frame ..) | with_reducible apply Keeps.step (State.reply_keeps ..)
      | with_reducible apply Keeps.step (State.bad_keeps ..) | with_reducible apply Keeps.ite | split)

theorem startMark_keeps (s : State) (c : Cmd) :
    Keeps s (startMark s c) := by
  unfold startMark
  repeat' (first
      | extract_lets | with_reducible apply Keeps.refl | exact rfl
      | with_reducible apply Keeps.stepFrame (State.takeFree_frame ..)
      | with_reducible apply Keeps.stepFrame (State.modCnt_frame ..) | with_reducible apply Keeps.step (State.count_keeps ..)
      | with_reducible apply Keeps.step (State.reply_keeps ..) | with_reducible apply Keeps.eachTrans | intro _)

theorem startCntConfig_keeps (s : State) (c : Cmd) :
    Keeps s (startCntConfig s c) := by
  unfold startCntConfig
  repeat' (first
      | extract_lets | with_reducible apply Keeps.refl | exact rfl | with_reducible apply Keeps.step (State.reply_keeps ..)
      | with_reducible apply Keeps.stepFrame (State.releaseCounter_frame ..)
      | with_reducible apply Keeps.stepFrame (State.modCnt_frame ..) | with_reducible apply Keeps.ite)

theorem State.writePart_keeps (s : State) (c : Cmd) (a : Nat) (data : List Byte) :
    Keeps s (State.writePart s c a data) := by
  unfold State.writePart
  repeat' (first
      | extract_lets | with_reducible apply Keeps.refl | exact rfl | with_reducible apply Keeps.step (State.replyTo_keeps ..)
      | with_reducible apply Keeps.stepFrame (State.takeId_frame ..)
      | with_reducible apply Keeps.step (State.dispatchReq_keeps ..) | split)

theorem State.snapTo_keeps (s : State) (c : Cmd) (l : List Byte) (y0 : List (Nat × Nat)) :
    Keeps s (State.snapTo s c l y0) := by
  induction y0 generalizing s c l with
  | nil => (unfold State.snapTo; repeat' (first
       | extract_lets
       | with_reducible apply Keeps.refl
       | with_reducible apply Keeps.step (State.writePart_keeps ..)
       | with_reducible apply Keeps.step (ih ..)
       | with_reducible apply Keeps.ite))
  | cons a y0 ih =>
    (unfold State.snapTo
     repeat' (first
         | extract_lets | with_reducible apply Keeps.refl | with_reducible apply Keeps.step (State.writePart_keeps ..)
         | with_reducible apply Keeps.step (ih ..) | with_reducible apply Keeps.ite))

theorem State.unsnap_keeps (s : State) (c : Cmd) :
    Keeps s (State.unsnap s c) := by
  unfold State.unsnap
  repeat' (first
      | extract_lets | with_reducible apply Keeps.refl | with_reducible apply Keeps.step (State.refuseHeld_keeps ..)
      | with_reducible apply Keeps.step (State.reply_keeps ..) | with_reducible apply Keeps.step (State.writePart_keeps ..)
      | with_reducible apply Keeps.eachTrans | intro _)

theorem startCntSnapshot_keeps (s : State) (c : Cmd) :
    Keeps s (startCntSnapshot s c) := by
  unfold startCntSnapshot
  repeat' (first
      | extract_lets | with_reducible apply Keeps.refl | exact rfl | with_reducible apply Keeps.step (State.bad_keeps ..)
      | with_reducible apply Keeps.stepFrame (State.snapshot_frame ..)
      | with_reducible apply Keeps.step (State.reply_keeps ..) | with_reducible apply Keeps.step (State.snapTo_keeps ..)
      | (with_reducible apply Keeps.step (State.modCmd_keeps _ _ _ (by intro g; first | rfl | (dsimp only [Cmd.fill]; done) | (split; rfl; (dsimp only [Cmd.arrived]; done)) | (dsimp only; split <;> rfl))))
      | with_reducible apply Keeps.step (State.hostWrite_keeps ..) | with_reducible apply Keeps.ite)

theorem State.periodic_keeps (s : State) :
    Keeps s (State.periodic s) := by
  unfold State.periodic
  repeat' (first
      | extract_lets | with_reducible apply Keeps.refl | exact rfl
      | with_reducible apply Keeps.stepFrame (State.modCnt_frame ..)
      | with_reducible apply Keeps.stepFrame (State.snapshot_frame ..)
      | with_reducible apply Keeps.step (State.hostWrite_keeps ..) | with_reducible apply Keeps.ite)

theorem State.stageLine_keeps (s : State) (r : Region) (line ctx : Nat) : Keeps s (s.stageLine r line ctx) := by
  unfold State.stageLine
  dsimp only
  have a : Keeps s (s.lineCheck r line).2 := by exact State.lineCheck_keeps ..
  split
  · split
    · exact (a.trans (State.countRead_keeps ..)).trans (Keeps.ofStore id rfl rfl)
    · exact (a.trans (State.countRead_keeps ..)).trans (Keeps.ofStore id rfl rfl)
  · have b := fun (t : State) how => Keeps.trans (by exact State.logRead_keeps .. : Keeps t (t.logRead how r line ctx 3)) (State.dataError_keeps _ how line ctx 1)
    exact (a.trans (b ..)).trans (Keeps.ofStore id rfl rfl)

theorem State.countLines_keeps (s : State) (page : Nat) (code : Nat) (n : Nat) :
    Keeps s (State.countLines s page code n) := by
  unfold State.countLines
  repeat' (first
      | extract_lets | with_reducible apply Keeps.refl | exact rfl
      | with_reducible apply Keeps.stepFrame (State.fixed_frame ..) | with_reducible apply Keeps.step (State.count_keeps ..))

theorem State.readOut_keeps (s : State) (page : Nat) :
    Keeps s (State.readOut s page) := by
  unfold State.readOut
  repeat' (first
      | (with_reducible apply Keeps.step (Keeps.stageImage ..)) | extract_lets | with_reducible apply Keeps.refl | exact rfl
      | with_reducible apply Keeps.step (State.drain_keeps ..) | with_reducible apply Keeps.step (State.stageLine_keeps ..)
      | with_reducible apply Keeps.step (State.countLines_keeps ..)
      | with_reducible apply Keeps.stepFrame (State.setFramePair_frame ..)
      | with_reducible apply Keeps.stepFrame (State.takeId_frame ..)
      | with_reducible apply Keeps.stepFrame (State.chooseFls_frame ..)
      | with_reducible apply Keeps.stepFrame (State.modEnt_frame ..)
      | with_reducible apply Keeps.stepFrame (State.stageImage_frame ..)
      | with_reducible apply Keeps.step (State.pageReady_keeps ..) | with_reducible apply Keeps.eachTrans
      | (with_reducible apply Keeps.ofPair; with_reducible assumption) | with_reducible apply Keeps.ite | split | intro _)

theorem State.serveOne_keeps (s : State) (d : Nat) (die : Nat) :
    Keeps s (State.serveOne s d die) := by
  unfold State.serveOne
  repeat' (first
      | extract_lets | with_reducible apply Keeps.refl | exact rfl
      | with_reducible apply Keeps.step (State.startRead_keeps ..)
      | with_reducible apply Keeps.stepFrame (State.modNand_frame ..)
      | with_reducible apply Keeps.stepFrame (State.reclaim_frame ..)
      | with_reducible apply Keeps.stepFrame (State.relocate_frame ..)
      | with_reducible apply Keeps.stepFrame (State.startErase_frame ..) | with_reducible apply Keeps.ite | split)

theorem State.serveDie_keeps (s : State) (d : Nat) (die : Nat) (y0 : Nat) :
    Keeps s (State.serveDie s d die y0) := by
  induction y0 generalizing s d die with
  | zero => (unfold State.serveDie; repeat' (first
       | extract_lets
       | with_reducible apply Keeps.refl
       | with_reducible apply Keeps.step (State.serveOne_keeps ..)
       | with_reducible apply Keeps.step (ih ..)))
  | succ y0 ih =>
    (unfold State.serveDie
     repeat' (first
         | extract_lets | with_reducible apply Keeps.refl | with_reducible apply Keeps.step (State.serveOne_keeps ..)
         | with_reducible apply Keeps.step (ih ..)))

theorem State.serve_keeps (s : State) (d : Nat) :
    Keeps s (State.serve s d) := by
  unfold State.serve
  repeat' (first
      | extract_lets | with_reducible apply Keeps.refl | with_reducible apply Keeps.step (State.serveDie_keeps ..)
      | with_reducible apply Keeps.eachTrans | intro _)

theorem State.journalImage_keeps (s : State) (d : Nat) (img : Image) :
    Keeps s (State.journalImage s d img) := by
  unfold State.journalImage
  repeat' (first
      | (with_reducible apply Keeps.step (Keeps.commitImage ..)) | extract_lets | with_reducible apply Keeps.refl | exact rfl
      | with_reducible apply Keeps.step (State.saveFlash_keeps ..)
      | with_reducible apply Keeps.step (State.journalMap_keeps ..)
      | with_reducible apply Keeps.stepFrame (State.setFlashPair_frame ..)
      | with_reducible apply Keeps.stepFrame (State.modFls_frame ..)
      | with_reducible apply Keeps.step (State.count_keeps ..))

theorem State.programmed_keeps (s : State) (d : Nat) (img : Image) :
    Keeps s (State.programmed s d img) := by
  unfold State.programmed
  repeat' (first
      | extract_lets | with_reducible apply Keeps.refl | exact rfl
      | with_reducible apply Keeps.step (State.saveFlash_keeps ..) | with_reducible apply Keeps.step (State.count_keeps ..)
      | with_reducible apply Keeps.step (State.journalMap_keeps ..)
      | with_reducible apply Keeps.stepFrame (State.modFls_frame ..)
      | with_reducible apply Keeps.step (State.journalImage_keeps ..) | with_reducible apply Keeps.ite
      | with_reducible apply Keeps.stepFrame (Frame.set_fmap ..))

theorem State.programDone_keeps (s : State) (d : Nat) :
    Keeps s (State.programDone s d) := by
  unfold State.programDone
  repeat' (first
      | extract_lets | with_reducible apply Keeps.refl | exact rfl
      | with_reducible apply Keeps.stepFrame (State.endProgram_frame ..)
      | with_reducible apply Keeps.stepFrame (State.modFls_frame ..)
      | with_reducible apply Keeps.stepFrame (State.fixed_frame ..) | with_reducible apply Keeps.step (State.count_keeps ..)
      | with_reducible apply Keeps.step (State.programmed_keeps ..)
      | with_reducible apply Keeps.step (State.journalSaved_keeps ..) | with_reducible apply Keeps.eachTrans
      | with_reducible apply Keeps.ite | split | intro _)

theorem State.commitPage_keeps (s : State) (page : Nat) :
    Keeps s (State.commitPage s page) := by
  unfold State.commitPage
  repeat' (first
      | extract_lets | with_reducible apply Keeps.refl | exact rfl
      | with_reducible apply Keeps.step (State.journalImage_keeps ..)
      | with_reducible apply Keeps.stepFrame (State.modFls_frame ..)
      | with_reducible apply Keeps.step (State.retryInvalid_keeps ..)
      | with_reducible apply Keeps.step (State.pageReady_keeps ..)
      | with_reducible apply Keeps.step (State.ckptCommitted_keeps ..)
      | with_reducible apply Keeps.step (State.committed_keeps ..) | with_reducible apply Keeps.ite | split)

theorem State.fillBlocks_keeps (s : State) (page : Nat) (demand : Bool) :
    Keeps s (State.fillBlocks s page demand) := by
  unfold State.fillBlocks
  repeat' (first
      | extract_lets | with_reducible apply Keeps.refl | with_reducible apply Keeps.step (State.buffer_keeps ..)
      | with_reducible apply Keeps.eachTrans | split | intro _)

theorem State.fetchEnds_keeps (s : State) (page : Nat) :
    Keeps s (State.fetchEnds s page) := by
  unfold State.fetchEnds
  repeat' (first
      | extract_lets | with_reducible apply Keeps.refl | exact rfl | with_reducible apply Keeps.step (State.fetched_keeps ..)
      | with_reducible apply Keeps.stepFrame (State.leaveDie_frame ..)
      | with_reducible apply Keeps.step (State.fillBlocks_keeps ..)
      | with_reducible apply Keeps.step (State.retryInvalid_keeps ..)
      | with_reducible apply Keeps.step (State.ckptResume_keeps ..)
      | with_reducible apply Keeps.step (State.deferred_keeps ..)
      | with_reducible apply Keeps.step (State.pageReady_keeps ..) | with_reducible apply Keeps.ite)

theorem State.fetchLost_keeps (s : State) (page : Nat) (member : Nat) (reason : Nat) :
    Keeps s (State.fetchLost s page member reason) := by
  unfold State.fetchLost
  repeat' (first
      | extract_lets | with_reducible apply Keeps.refl | exact rfl
      | with_reducible apply Keeps.step (State.retryInvalid_keeps ..)
      | with_reducible apply Keeps.stepFrame (State.fetchFail_frame ..)
      | with_reducible apply Keeps.stepFrame (State.leaveDie_frame ..)
      | with_reducible apply Keeps.stepFrame (State.logFetch_frame ..) | with_reducible apply Keeps.step (State.log_keeps ..)
      | with_reducible apply Keeps.step (State.ckptFail_keeps ..) | with_reducible apply Keeps.step (State.failHeld_keeps ..)
      | with_reducible apply Keeps.ite)

theorem State.readImage_keeps (s : State) (e : MapEnt) (a : Attrs) (out : Nat) (retries : Nat) (rebuilt : Nat) :
    Keeps s (State.readImage s e a out retries rebuilt) := by
  unfold State.readImage
  repeat' (first
      | extract_lets | with_reducible apply Keeps.refl | exact rfl | with_reducible apply Keeps.step (State.count_keeps ..)
      | with_reducible apply Keeps.stepFrame (State.countReads_frame ..)
      | with_reducible apply Keeps.stepFrame (State.askReloc_frame ..)
      | with_reducible apply Keeps.stepFrame (State.modFls_frame ..) | with_reducible apply Keeps.ite)

theorem State.fetchDone_keeps (s : State) (page : Nat) (retries : Nat) (rebuilt : Nat) :
    Keeps s (State.fetchDone s page retries rebuilt) := by
  unfold State.fetchDone
  repeat' (first
      | extract_lets | with_reducible apply Keeps.refl | exact rfl
      | with_reducible apply Keeps.step (State.fetchLost_keeps ..)
      | (with_reducible apply Keeps.stepFrame; (with_reducible apply State.ensureFrame_frame; with_reducible assumption))
      | with_reducible apply Keeps.step (State.fetchEnds_keeps ..)
      | with_reducible apply Keeps.step (State.readImage_keeps ..) | with_reducible apply Keeps.ite | split)

theorem State.eraseDone_keeps (s : State) (d : Nat) (key : Nat) (failed : Option Nat) :
    Keeps s (State.eraseDone s d key failed) := by
  unfold State.eraseDone
  repeat' (first
      | extract_lets | with_reducible apply Keeps.refl | exact rfl
      | with_reducible apply Keeps.stepFrame (State.modNand_frame ..)
      | with_reducible apply Keeps.stepFrame (State.fixed_frame ..)
      | with_reducible apply Keeps.stepFrame (State.modFls_frame ..)
      | with_reducible apply Keeps.stepFrame (State.retireMember_frame ..)
      | with_reducible apply Keeps.step (State.count_keeps ..)
      | with_reducible apply Keeps.stepFrame (State.placeWaiting_frame ..) | with_reducible apply Keeps.ite | split
      | dsimp +zetaDelta only [id])

theorem State.loseFlashDie_keeps (s : State) (index : Nat) (reason : Nat) :
    Keeps s (State.loseFlashDie s index reason) := by
  unfold State.loseFlashDie
  repeat' (first
      | extract_lets | with_reducible apply Keeps.refl | exact rfl
      | with_reducible apply Keeps.stepFrame (State.modFls_frame ..) | with_reducible apply Keeps.step (State.log_keeps ..)
      | with_reducible apply Keeps.stepFrame (State.settleSpare_frame ..) | with_reducible apply Keeps.ite)

theorem State.loseFls_keeps (s : State) (d : Nat) :
    Keeps s (State.loseFls s d) := by
  unfold State.loseFls
  repeat' (first
      | extract_lets | with_reducible apply Keeps.refl | exact rfl
      | with_reducible apply Keeps.stepFrame (State.modFls_frame ..) | with_reducible apply Keeps.step (State.log_keeps ..)
      | with_reducible apply Keeps.stepFrame (State.settleSpare_frame ..)
      | with_reducible apply Keeps.stepFrame (State.stageImage_frame ..) | with_reducible apply Keeps.eachTrans
      | with_reducible apply Keeps.ite | intro _)

theorem State.serveAll_keeps (s : State) :
    Keeps s (State.serveAll s) := by
  unfold State.serveAll
  repeat' (first
      | extract_lets | with_reducible apply Keeps.refl | with_reducible apply Keeps.step (State.serve_keeps ..))

theorem State.goFatal_keeps (s : State) (cond : Nat) :
    Keeps s (State.goFatal s cond) := by
  unfold State.goFatal
  repeat' (first
      | extract_lets | with_reducible apply Keeps.refl | exact rfl | with_reducible apply Keeps.step (State.log_keeps ..)
      | with_reducible apply Keeps.stepFrame (State.modPmc_frame ..)
      | with_reducible apply Keeps.stepFrame (State.modElog_frame ..)
      | (with_reducible apply Keeps.step (State.modFn_keeps _ _ _ (by intro g; first | rfl | exact Ring.commit_held _ | (unfold Fn.writeAer; dsimp only; (repeat' split) <;> rfl) | (unfold Fn.logUnc; dsimp only; done) | (unfold Fn.logUnc; dsimp only; split <;> rfl) | ((repeat' split) <;> first | rfl | exact Ring.commit_held _))))
      | with_reducible apply Keeps.stepFrame (State.errMessage_frame ..)
      | with_reducible apply Keeps.stepFrame (State.modPort_frame ..) | with_reducible apply Keeps.eachTrans
      | with_reducible apply Keeps.ite | intro _)

theorem State.failTests_keeps (s : State) (kind : Nat) (idx : Nat) (state : Nat) :
    Keeps s (State.failTests s kind idx state) := by
  unfold State.failTests
  repeat' (first
      | extract_lets | with_reducible apply Keeps.refl | exact rfl
      | with_reducible apply Keeps.stepFrame (State.takeFree_frame ..)
      | with_reducible apply Keeps.step (State.reply_keeps ..) | with_reducible apply Keeps.eachTrans | intro _)

theorem State.retireDone_keeps (s : State) (kind : Nat) (idx : Nat) (lines : Nat) :
    Keeps s (State.retireDone s kind idx lines) := by
  unfold State.retireDone
  repeat' (first
      | extract_lets | with_reducible apply Keeps.refl | with_reducible apply Keeps.step (State.reply_keeps ..)
      | with_reducible apply Keeps.eachTrans | intro _)

theorem State.checkCarve_keeps (s : State) :
    Keeps s (State.checkCarve s) := by
  unfold State.checkCarve
  repeat' (first
      | extract_lets | with_reducible apply Keeps.refl | with_reducible apply Keeps.step (State.goFatal_keeps ..)
      | with_reducible apply Keeps.ite)

theorem State.logPoisoned_keeps (s : State) (kind : Nat) (idx : Nat) (hits : List Hit) :
    Keeps s (State.logPoisoned s kind idx hits) := by
  unfold State.logPoisoned
  repeat' (first
      | extract_lets | with_reducible apply Keeps.refl | with_reducible apply Keeps.step (State.log_keeps ..)
      | with_reducible apply Keeps.eachTrans | intro _)

theorem State.poisonLines_keeps (s : State) (lines : List Nat) (kind : Nat) :
    Keeps s (State.poisonLines s lines kind) := by
  unfold State.poisonLines
  repeat' (first
      | extract_lets | with_reducible apply Keeps.refl | with_reducible apply Keeps.step (State.poisonLine_keeps ..)
      | with_reducible apply Keeps.eachTrans | intro _)

theorem State.losePc_keeps (s : State) (k : Nat) (p : Nat) :
    Keeps s (State.losePc s k p).2 := by
  unfold State.losePc
  repeat' (first
      | extract_lets | with_reducible apply Keeps.refl | with_reducible apply Keeps.step (State.poisonLines_keeps ..)
      | with_reducible apply Keeps.foldTrans | with_reducible apply Keeps.iteSnd | intro _)

theorem State.loseTier_keeps (s : State) (k : Nat) (kind : Nat) :
    Keeps s (State.loseTier s k kind).2 := by
  unfold State.loseTier
  repeat' (first
      | extract_lets | with_reducible apply Keeps.refl | exact rfl
      | with_reducible apply Keeps.step (State.pageReady_keeps ..)
      | with_reducible apply Keeps.step (State.loseFrame_keeps ..)
      | with_reducible apply Keeps.stepFrame (State.dropBuffered_frame ..) | with_reducible apply Keeps.foldTrans
      | with_reducible apply Keeps.iteSnd | split | intro _)

theorem State.loseFrames_keeps (s : State) (k : Nat) (kind : Nat) (alive : Bool) :
    Keeps s (State.loseFrames s k kind alive).2 := by
  unfold State.loseFrames
  repeat' (first
      | extract_lets | with_reducible apply Keeps.refl | exact rfl
      | with_reducible apply Keeps.stepFrame (State.dropBuffered_frame ..)
      | with_reducible apply Keeps.stepFrame (State.settlePressure_frame ..)
      | with_reducible apply Keeps.stepFrame (State.modDir_frame ..)
      | with_reducible apply Keeps.step (State.poisonLines_keeps ..)
      | with_reducible apply Keeps.stepFrame (State.mapFrame_frame ..)
      | with_reducible apply Keeps.stepFrame (State.modStack_frame ..) | with_reducible apply Keeps.foldTrans
      | with_reducible apply Keeps.iteSnd | intro _)

theorem State.rebuildLine_keeps (s : State) (r : Region) (kind : Nat) (line : Nat) :
    Keeps s (State.rebuildLine s r kind line) := by
  unfold State.rebuildLine
  repeat' (first
      | extract_lets | with_reducible apply Keeps.refl | with_reducible apply Keeps.step (State.stripeXor_keeps ..)
      | (with_reducible apply Keeps.step (State.modHbm_keeps _ _ (by intro h k; first | exact h | (dsimp only [Store.freshLines, Store.poisonBlock]; first | exact h | exact Memory.wf_writeBytes _ _ _ h | exact Memory.wf_writeLine _ _ _ h | exact Memory.wf_tableClear _ _ _ h) | exact Store.wf_clearPages _ _ _ h | exact Memory.wf_writeBytes _ _ _ h | exact Memory.wf_writeLine _ _ _ h | exact Memory.wf_tableClear _ _ _ h | (split; exact Store.wf_copyPage _ _ _ h k; exact Store.wf_clearPages _ _ _ h))))
      | with_reducible apply Keeps.step (State.poisonLine_keeps ..) | with_reducible apply Keeps.ite | split)

theorem State.rebuildPage_keeps (s : State) (r : Region) (kind : Nat) (page : Nat) :
    Keeps s (State.rebuildPage s r kind page) := by
  unfold State.rebuildPage
  repeat' (first
      | extract_lets | with_reducible apply Keeps.refl | with_reducible apply Keeps.step (State.rebuildLine_keeps ..)
      | with_reducible apply Keeps.eachTrans | intro _)

theorem State.moveOne_keeps (s : State) (y0 : Moves) :
    Keeps s (State.moveOne s y0) := by
  unfold State.moveOne
  repeat' (first
      | extract_lets | with_reducible apply Keeps.refl | exact rfl
      | with_reducible apply Keeps.stepFrame (State.moveEntry_frame ..)
      | with_reducible apply Keeps.stepFrame (State.rebuildParity_frame ..)
      | with_reducible apply Keeps.step (State.rebuildPage_keeps ..)
      | with_reducible apply Keeps.stepFrame (State.modDir_frame ..)
      | with_reducible apply Keeps.stepFrame (State.modStack_frame ..) | with_reducible apply Keeps.eachTrans
      | with_reducible apply Keeps.ite | split | intro _)

theorem State.stackDone_keeps (s : State) (k : Nat) (rec : Bool) :
    Keeps s (State.stackDone s k rec) := by
  unfold State.stackDone
  repeat' (first
      | extract_lets | with_reducible apply Keeps.refl | exact rfl | with_reducible apply Keeps.step (State.moveOne_keeps ..)
      | with_reducible apply Keeps.stepFrame (State.modStack_frame ..) | with_reducible apply Keeps.step (State.log_keeps ..)
      | with_reducible apply Keeps.step (State.retireDone_keeps ..) | with_reducible apply Keeps.eachTrans
      | with_reducible apply Keeps.ite | intro _ | with_reducible apply Keeps.stepFrame (Frame.set_repairs ..))

theorem State.retireStack_keeps (s : State) (k : Nat) (svc : Bool) (die : Bool) :
    Keeps s (State.retireStack s k svc die) := by
  unfold State.retireStack
  repeat' (first
      | extract_lets | with_reducible apply Keeps.refl | exact rfl
      | with_reducible apply Keeps.stepFrame (State.modStack_frame ..)
      | with_reducible apply Keeps.step (State.failTests_keeps ..)
      | with_reducible apply Keeps.stepFrame (State.chargeCache_frame ..)
      | with_reducible apply Keeps.step (State.loseFrames_keeps ..)
      | with_reducible apply Keeps.step (State.loseTier_keeps ..) | with_reducible apply Keeps.step (State.rederate_keeps ..)
      | with_reducible apply Keeps.step (State.logPoisoned_keeps ..)
      | with_reducible apply Keeps.step (State.stackDone_keeps ..) | with_reducible apply Keeps.step (State.settle_keeps ..)
      | with_reducible apply Keeps.step (State.checkCarve_keeps ..) | with_reducible apply Keeps.eachTrans
      | with_reducible apply Keeps.ite | intro _)

theorem State.retireDie_keeps (s : State) (die : Nat) (svc : Bool) :
    Keeps s (State.retireDie s die svc) := by
  unfold State.retireDie
  repeat' (first
      | extract_lets | with_reducible apply Keeps.refl | exact rfl
      | with_reducible apply Keeps.stepFrame (State.modMem_frame ..)
      | with_reducible apply Keeps.step (State.stackDone_keeps ..)
      | with_reducible apply Keeps.step (State.retireStack_keeps ..)
      | with_reducible apply Keeps.step (State.retireDone_keeps ..) | with_reducible apply Keeps.step (State.log_keeps ..)
      | with_reducible apply Keeps.eachTrans | with_reducible apply Keeps.ite | intro _)

theorem State.retirePc_keeps (s : State) (k : Nat) (p : Nat) (svc : Bool) :
    Keeps s (State.retirePc s k p svc) := by
  unfold State.retirePc
  repeat' (first
      | extract_lets | with_reducible apply Keeps.refl | exact rfl
      | with_reducible apply Keeps.stepFrame (State.modPc_frame ..)
      | with_reducible apply Keeps.step (State.failTests_keeps ..)
      | with_reducible apply Keeps.step (State.retireStack_keeps ..)
      | with_reducible apply Keeps.stepFrame (State.modStack_frame ..)
      | with_reducible apply Keeps.step (State.losePc_keeps ..) | with_reducible apply Keeps.step (State.loseTier_keeps ..)
      | with_reducible apply Keeps.step (State.settle_keeps ..) | with_reducible apply Keeps.step (State.checkCarve_keeps ..)
      | with_reducible apply Keeps.step (State.rederate_keeps ..)
      | with_reducible apply Keeps.step (State.logPoisoned_keeps ..) | with_reducible apply Keeps.ite)

theorem State.pcDone_keeps (s : State) (k : Nat) (p : Nat) :
    Keeps s (State.pcDone s k p) := by
  unfold State.pcDone
  repeat' (first
      | extract_lets | with_reducible apply Keeps.refl | exact rfl
      | with_reducible apply Keeps.step (State.rebuildLine_keeps ..)
      | with_reducible apply Keeps.stepFrame (State.modStack_frame ..)
      | with_reducible apply Keeps.stepFrame (State.rebuildParity_frame ..)
      | with_reducible apply Keeps.stepFrame (State.modPc_frame ..) | with_reducible apply Keeps.step (State.log_keeps ..)
      | with_reducible apply Keeps.step (State.retireDone_keeps ..)
      | with_reducible apply Keeps.step (State.rederate_keeps ..) | with_reducible apply Keeps.eachTrans | intro _
      | with_reducible apply Keeps.stepFrame (Frame.set_repairs ..))

theorem State.freezePc_keeps (s : State) (k : Nat) (p : Nat) (pcLine : Nat) (cause : Nat) :
    Keeps s (State.freezePc s k p pcLine cause) := by
  unfold State.freezePc
  repeat' (first
      | extract_lets | with_reducible apply Keeps.refl | exact rfl
      | with_reducible apply Keeps.stepFrame (State.takeFree_frame ..)
      | with_reducible apply Keeps.stepFrame (State.modStack_frame ..)
      | with_reducible apply Keeps.stepFrame (State.modPc_frame ..)
      | with_reducible apply Keeps.step (State.rederate_keeps ..) | with_reducible apply Keeps.step (State.retirePc_keeps ..)
      | with_reducible apply Keeps.ite)

theorem State.unfreeze_keeps (s : State) (k : Nat) (p : Nat) :
    Keeps s (State.unfreeze s k p) := by
  unfold State.unfreeze
  repeat' (first
      | extract_lets | with_reducible apply Keeps.refl | exact rfl | with_reducible apply Keeps.step (State.settle_keeps ..)
      | with_reducible apply Keeps.step (State.log_keeps ..) | with_reducible apply Keeps.step (State.rederate_keeps ..)
      | with_reducible apply Keeps.stepFrame (State.modPc_frame ..))

theorem State.loopback_keeps (s : State) (k : Nat) (p : Nat) (pass : Bool) :
    Keeps s (State.loopback s k p pass) := by
  unfold State.loopback
  repeat' (first
      | extract_lets | with_reducible apply Keeps.refl | with_reducible apply Keeps.step (State.unfreeze_keeps ..)
      | with_reducible apply Keeps.step (State.retirePc_keeps ..) | with_reducible apply Keeps.ite)

theorem State.remapLine_keeps {s : State} {k : Nat} {p : Nat} {pcLine : Nat} {reason : Nat} {a} {t : State} (h : State.remapLine s k p pcLine reason = some (a, t)) :
    Keeps s t := by
  unfold State.remapLine at h
  try dsimp only at h
  repeat' split at h
  all_goals (first | (exact absurd h (by decide)) | (simp at h; done) | (injection h with h; injection h with _ h; subst h) | (injection h with h; subst h) | (rw [Option.map_eq_some_iff] at h; obtain ⟨_, h, rfl⟩ := h) | skip)
  all_goals repeat' (first
    | extract_lets
    | with_reducible apply Keeps.refl
    | exact rfl
    | with_reducible apply Keeps.stepFrame (State.modStack_frame ..)
    | with_reducible apply Keeps.step (State.log_keeps ..)
    | with_reducible apply Keeps.stepFrame (Frame.set_repairRows ..))

theorem State.damage_keeps (s : State) (k : Nat) (p : Nat) (f : Finding) :
    Keeps s (State.damage s k p f) := by
  unfold State.damage
  repeat' (first
      | extract_lets | with_reducible apply Keeps.refl | exact rfl
      | (with_reducible apply Keeps.step (State.modHbm_keeps _ _ (by intro h k; first | exact h | (dsimp only [Store.freshLines, Store.poisonBlock]; first | exact h | exact Memory.wf_writeBytes _ _ _ h | exact Memory.wf_writeLine _ _ _ h | exact Memory.wf_tableClear _ _ _ h) | exact Store.wf_clearPages _ _ _ h | exact Memory.wf_writeBytes _ _ _ h | exact Memory.wf_writeLine _ _ _ h | exact Memory.wf_tableClear _ _ _ h | (split; exact Store.wf_copyPage _ _ _ h k; exact Store.wf_clearPages _ _ _ h))))
      | with_reducible apply Keeps.stepFrame (State.modStack_frame ..) | split)

theorem State.meet_keeps (s : State) (k : Nat) (p : Nat) (pcLine : Nat) (scrub : Bool) :
    Keeps s (State.meet s k p pcLine scrub) := by
  unfold State.meet
  repeat' (first
      | extract_lets | with_reducible apply Keeps.refl | exact rfl
      | with_reducible apply Keeps.step (State.countCorrected_keeps ..)
      | with_reducible apply Keeps.stepFrame (State.takeFree_frame ..)
      | with_reducible apply Keeps.stepFrame (State.modStack_frame ..) | with_reducible apply Keeps.step (State.log_keeps ..)
      | with_reducible apply Keeps.step (State.count_keeps ..) | with_reducible apply Keeps.ite | split)

theorem State.coreRemap_keeps (s : State) (k : Nat) (p : Nat) (pcLine : Nat) :
    Keeps s (State.coreRemap s k p pcLine) := by
  unfold State.coreRemap
  repeat' (first
      | extract_lets | with_reducible apply Keeps.refl | exact rfl
      | (with_reducible apply Keeps.step; (with_reducible apply State.remapLine_keeps; with_reducible assumption))
      | with_reducible apply Keeps.step (State.log_keeps ..) | with_reducible apply Keeps.stepFrame (State.modStack_frame ..)
      | with_reducible apply Keeps.ite | split)

theorem State.laneFault_keeps (s : State) (k : Nat) (p : Nat) (pin : Nat) (pcLine : Nat) :
    Keeps s (State.laneFault s k p pin pcLine) := by
  unfold State.laneFault
  repeat' (first
      | extract_lets | with_reducible apply Keeps.refl | exact rfl
      | with_reducible apply Keeps.step (State.retirePc_keeps ..)
      | with_reducible apply Keeps.stepFrame (State.modStack_frame ..)
      | with_reducible apply Keeps.stepFrame (State.modPc_frame ..) | with_reducible apply Keeps.step (State.log_keeps ..)
      | with_reducible apply Keeps.ite)

theorem State.coreCorrected_keeps (s : State) (k : Nat) (p : Nat) (pcLine : Nat) (f : LineCheck) :
    Keeps s (State.coreCorrected s k p pcLine f) := by
  unfold State.coreCorrected
  repeat' (first
      | extract_lets | with_reducible apply Keeps.refl | exact rfl
      | with_reducible apply Keeps.stepFrame (State.modPc_frame ..)
      | with_reducible apply Keeps.step (State.laneFault_keeps ..)
      | with_reducible apply Keeps.step (State.coreRemap_keeps ..) | with_reducible apply Keeps.eachTrans
      | with_reducible apply Keeps.ite | intro _)

theorem State.coreReport_keeps (s : State) (k : Nat) (p : Nat) (pcLine : Nat) :
    Keeps s (State.coreReport s k p pcLine) := by
  unfold State.coreReport
  repeat' (first
      | extract_lets | with_reducible apply Keeps.refl | with_reducible apply Keeps.step (State.coreRemap_keeps ..)
      | with_reducible apply Keeps.step (State.coreCorrected_keeps ..) | with_reducible apply Keeps.ite | split)

theorem State.pinPage_keeps (s : State) (h : HintCtx) (fn : Nat) (page : Nat) :
    Keeps s (State.pinPage s h fn page).2 := by
  unfold State.pinPage
  repeat' (first
      | extract_lets | with_reducible apply Keeps.refl | exact rfl
      | with_reducible apply Keeps.stepFrame (State.modEnt_frame ..)
      | (with_reducible apply Keeps.step; (with_reducible apply State.zeroFrame_keeps; with_reducible assumption))
      | with_reducible apply Keeps.step (State.pageReady_keeps ..)
      | (with_reducible apply Keeps.stepFrame; (with_reducible apply State.queuePage_frame; with_reducible assumption))
      | with_reducible apply Keeps.iteSnd | split)

theorem State.unpinPage_keeps (s : State) (page : Nat) :
    Keeps s (State.unpinPage s page).2 := by
  unfold State.unpinPage
  repeat' (first
      | extract_lets | with_reducible apply Keeps.refl | exact rfl
      | with_reducible apply Keeps.stepFrame (State.modEnt_frame ..)
      | with_reducible apply Keeps.stepFrame (State.cancelPrefetch_frame ..)
      | with_reducible apply Keeps.step (State.evict_keeps ..) | with_reducible apply Keeps.ite
      | with_reducible apply Keeps.iteSnd | split)

theorem State.evictPage_keeps (s : State) (page : Nat) :
    Keeps s (State.evictPage s page).2 := by
  unfold State.evictPage
  repeat' (first
      | extract_lets | with_reducible apply Keeps.refl | exact rfl
      | with_reducible apply Keeps.stepFrame (State.modEnt_frame ..)
      | with_reducible apply Keeps.stepFrame (State.cancelPrefetch_frame ..)
      | with_reducible apply Keeps.step (State.evict_keeps ..) | with_reducible apply Keeps.ite
      | with_reducible apply Keeps.iteSnd | split)

theorem State.hintEntry_keeps (s : State) (op : HintOp) (h : HintCtx) (fn : Nat) (page : Nat) :
    Keeps s (State.hintEntry s op h fn page).2 := by
  unfold State.hintEntry
  repeat' (first
      | extract_lets | with_reducible apply Keeps.refl | exact rfl
      | with_reducible apply Keeps.stepFrame (State.prefetchPage_frame ..)
      | with_reducible apply Keeps.step (State.pinPage_keeps ..)
      | with_reducible apply Keeps.stepFrame (State.modEnt_frame ..)
      | with_reducible apply Keeps.step (State.unpinPage_keeps ..)
      | with_reducible apply Keeps.step (State.evictPage_keeps ..) | with_reducible apply Keeps.ite
      | with_reducible apply Keeps.iteSnd | split)

theorem State.hintPage_keeps (s : State) (op : HintOp) (h : HintCtx) (fn : Nat) (page : Nat) :
    Keeps s (State.hintPage s op h fn page).2 := by
  unfold State.hintPage
  repeat' (first
      | extract_lets | with_reducible apply Keeps.refl | with_reducible apply Keeps.step (State.cacheEntry_keeps ..)
      | with_reducible apply Keeps.step (State.hintEntry_keeps ..) | with_reducible apply Keeps.iteSnd)

theorem State.hintPages_keeps (s : State) (op : HintOp) (h : HintCtx) (fn : Nat) (y0 : List Nat) :
    Keeps s (State.hintPages s op h fn y0).2 := by
  induction y0 generalizing s op h fn with
  | nil => (unfold State.hintPages; repeat' (first
       | extract_lets
       | with_reducible apply Keeps.refl
       | with_reducible apply Keeps.step (State.hintPage_keeps ..)
       | with_reducible apply Keeps.step (State.countGnm_keeps ..)
       | with_reducible apply Keeps.step (ih ..)))
  | cons a y0 ih =>
    (unfold State.hintPages
     repeat' (first
         | extract_lets | with_reducible apply Keeps.refl | with_reducible apply Keeps.step (State.hintPage_keeps ..)
         | with_reducible apply Keeps.step (State.countGnm_keeps ..) | with_reducible apply Keeps.step (ih ..)))

theorem startHint_keeps (op : HintOp) (s : State) (c : Cmd) :
    Keeps s (startHint op s c) := by
  unfold startHint
  repeat' (first
      | extract_lets | with_reducible apply Keeps.refl | exact rfl | with_reducible apply Keeps.step (State.bad_keeps ..)
      | with_reducible apply Keeps.step (State.reply_keeps ..) | with_reducible apply Keeps.stepFrame (State.takeId_frame ..)
      | with_reducible apply Keeps.step (State.hintPages_keeps ..)
      | with_reducible apply Keeps.step (State.retryInvalid_keeps ..) | with_reducible apply Keeps.ite | split)

theorem State.ckptPage_keeps (s : State) (page : Nat) :
    Keeps s (State.ckptPage s page).2 := by
  unfold State.ckptPage
  repeat' (first
      | extract_lets | with_reducible apply Keeps.refl | with_reducible apply Keeps.step (State.startWriteback_keeps ..)
      | with_reducible apply Keeps.iteSnd | split)

theorem State.ckptPages_keeps (s : State) (y0 : List Nat) :
    Keeps s (State.ckptPages s y0).2 := by
  induction y0 generalizing s with
  | nil => (unfold State.ckptPages; repeat' (first
       | extract_lets
       | with_reducible apply Keeps.refl
       | with_reducible apply Keeps.step (State.ckptPage_keeps ..)
       | with_reducible apply Keeps.step (ih ..)))
  | cons a y0 ih =>
    (unfold State.ckptPages
     repeat' (first
         | extract_lets | with_reducible apply Keeps.refl | with_reducible apply Keeps.step (State.ckptPage_keeps ..)
         | with_reducible apply Keeps.step (ih ..)))

theorem startCkpt_keeps (s : State) (c : Cmd) :
    Keeps s (startCkpt s c) := by
  unfold startCkpt
  repeat' (first
      | extract_lets | with_reducible apply Keeps.refl | with_reducible apply Keeps.step (State.bad_keeps ..)
      | with_reducible apply Keeps.step (State.reply_keeps ..) | with_reducible apply Keeps.step (State.ckptPages_keeps ..)
      | (with_reducible apply Keeps.step (State.modCmd_keeps _ _ _ (by intro g; first | rfl | (dsimp only [Cmd.fill]; done) | (split; rfl; (dsimp only [Cmd.arrived]; done)) | (dsimp only; split <;> rfl))))
      | with_reducible apply Keeps.ite | split)

theorem State.releaseResident_keeps (s : State) (d : Nat) :
    Keeps s (State.releaseResident s d) := by
  unfold State.releaseResident
  repeat' (first
      | extract_lets | with_reducible apply Keeps.refl | with_reducible apply Keeps.step (State.settle_keeps ..)
      | with_reducible apply Keeps.step (State.rerouted_keeps ..))

theorem startRegionAlloc_keeps (s : State) (c : Cmd) :
    Keeps s (startRegionAlloc s c) := by
  unfold startRegionAlloc
  repeat' (first
      | extract_lets | with_reducible apply Keeps.refl | exact rfl | with_reducible apply Keeps.step (State.bad_keeps ..)
      | with_reducible apply Keeps.step (State.reply_keeps ..)
      | with_reducible apply Keeps.stepFrame (State.placeRegion_frame ..)
      | with_reducible apply Keeps.stepFrame (State.pickIndex_frame ..)
      | with_reducible apply Keeps.stepFrame (State.modCtx_frame ..)
      | with_reducible apply Keeps.stepFrame (State.pick_frame ..)
      | with_reducible apply Keeps.stepFrame (State.takeKey_frame ..)
      | with_reducible apply Keeps.stepFrame (State.loadKey_frame ..)
      | with_reducible apply Keeps.stepFrame (State.setRegion_frame ..)
      | with_reducible apply Keeps.stepFrame (State.chargeCache_frame ..)
      | with_reducible apply Keeps.stepFrame (State.mapFrame_frame ..)
      | (with_reducible apply Keeps.step (State.modCmd_keeps _ _ _ (by intro g; first | rfl | (dsimp only [Cmd.fill]; done) | (split; rfl; (dsimp only [Cmd.arrived]; done)) | (dsimp only; split <;> rfl))))
      | with_reducible apply Keeps.eachTrans | (with_reducible apply Keeps.ofPair; with_reducible assumption)
      | with_reducible apply Keeps.ite | with_reducible apply Keeps.iteSnd | split | intro _)

theorem State.fillPage_keeps (s : State) (r : Region) (page : Nat) :
    Keeps s (State.fillPage s r page) := by
  unfold State.fillPage
  repeat' (first
      | extract_lets | with_reducible apply Keeps.refl | exact rfl | with_reducible apply Keeps.step (State.count_keeps ..)
      | with_reducible apply Keeps.stepFrame (State.placePage_frame ..)
      | with_reducible apply Keeps.step (State.countStack_keeps ..) | with_reducible apply Keeps.ite)

theorem State.filled_keeps (s : State) (i : Nat) :
    Keeps s (State.filled s i) := by
  unfold State.filled
  repeat' (first
      | extract_lets | with_reducible apply Keeps.refl | exact rfl
      | with_reducible apply Keeps.stepFrame (State.setRegion_frame ..)
      | with_reducible apply Keeps.step (State.fillPage_keeps ..) | with_reducible apply Keeps.step (State.reply_keeps ..)
      | with_reducible apply Keeps.eachTrans | with_reducible apply Keeps.ite | split | intro _)

theorem startRegionFree_keeps (s : State) (c : Cmd) :
    Keeps s (startRegionFree s c) := by
  unfold startRegionFree
  repeat' (first
      | extract_lets | with_reducible apply Keeps.refl | with_reducible apply Keeps.step (State.bad_keeps ..)
      | with_reducible apply Keeps.step (State.reply_keeps ..) | with_reducible apply Keeps.step (State.freeRegion_keeps ..)
      | with_reducible apply Keeps.ite | split)

theorem State.attrReport_keeps (s : State) (c : Cmd) :
    Keeps s (State.attrReport s c) := by
  unfold State.attrReport
  repeat' (first
      | extract_lets | with_reducible apply Keeps.refl | with_reducible apply Keeps.step (State.bad_keeps ..)
      | with_reducible apply Keeps.step (State.reply_keeps ..) | with_reducible apply Keeps.ite | split)

theorem State.moveRegion_keeps (s : State) (c : Cmd) (i : Nat) (r : Region) (on : Bool) :
    Keeps s (State.moveRegion s c i r on) := by
  unfold State.moveRegion
  repeat' (first
      | extract_lets | with_reducible apply Keeps.refl | exact rfl
      | (with_reducible apply Keeps.step (State.modCmd_keeps _ _ _ (by intro g; first | rfl | (dsimp only [Cmd.fill]; done) | (split; rfl; (dsimp only [Cmd.arrived]; done)) | (dsimp only; split <;> rfl))))
      | with_reducible apply Keeps.step (State.settle_keeps ..)
      | with_reducible apply Keeps.stepFrame (State.setRegion_frame ..) | with_reducible apply Keeps.ite)

theorem State.attrLease_keeps (s : State) (c : Cmd) :
    Keeps s (State.attrLease s c) := by
  unfold State.attrLease
  repeat' (first
      | extract_lets | with_reducible apply Keeps.refl | with_reducible apply Keeps.step (State.bad_keeps ..)
      | with_reducible apply Keeps.step (State.reply_keeps ..) | with_reducible apply Keeps.step (State.moveRegion_keeps ..)
      | with_reducible apply Keeps.ite | split)

theorem State.attrMiss_keeps (s : State) (c : Cmd) :
    Keeps s (State.attrMiss s c) := by
  unfold State.attrMiss
  repeat' (first
      | extract_lets | with_reducible apply Keeps.refl | exact rfl | with_reducible apply Keeps.step (State.reply_keeps ..)
      | with_reducible apply Keeps.stepFrame (State.modCtx_frame ..))

theorem startRegionAttr_keeps (s : State) (c : Cmd) :
    Keeps s (startRegionAttr s c) := by
  unfold startRegionAttr
  repeat' (first
      | extract_lets | with_reducible apply Keeps.refl | with_reducible apply Keeps.step (State.attrReport_keeps ..)
      | with_reducible apply Keeps.step (State.attrLease_keeps ..)
      | with_reducible apply Keeps.step (State.attrMiss_keeps ..) | split)

theorem State.zeroOne_keeps (s : State) (d : Nat) :
    Keeps s (State.zeroOne s d) := by
  unfold State.zeroOne
  repeat' (first
      | extract_lets | with_reducible apply Keeps.refl | exact rfl
      | with_reducible apply Keeps.step (State.retryInvalid_keeps ..)
      | with_reducible apply Keeps.stepFrame (State.settlePressure_frame ..)
      | with_reducible apply Keeps.stepFrame (State.modDir_frame ..) | with_reducible apply Keeps.ite)

theorem State.commitQos_keeps (s : State) :
    Keeps s (State.commitQos s) := by
  unfold State.commitQos
  repeat' (first
      | extract_lets | with_reducible apply Keeps.refl | exact rfl
      | with_reducible apply Keeps.stepFrame (State.modQos_frame ..)
      | with_reducible apply Keeps.step (State.rederate_keeps ..) | with_reducible apply Keeps.ite)

theorem startQosClassSet_keeps (s : State) (c : Cmd) :
    Keeps s (startQosClassSet s c) := by
  unfold startQosClassSet
  repeat' (first
      | extract_lets | with_reducible apply Keeps.refl | exact rfl | with_reducible apply Keeps.step (State.reply_keeps ..)
      | with_reducible apply Keeps.stepFrame (State.modQos_frame ..))

theorem startQosBudgetSet_keeps (s : State) (c : Cmd) :
    Keeps s (startQosBudgetSet s c) := by
  unfold startQosBudgetSet
  repeat' (first
      | extract_lets | with_reducible apply Keeps.refl | exact rfl | with_reducible apply Keeps.step (State.reply_keeps ..)
      | with_reducible apply Keeps.stepFrame (State.splitBudget_frame ..)
      | with_reducible apply Keeps.stepFrame (State.modCtx_frame ..) | with_reducible apply Keeps.ite)

theorem State.hashBlock_keeps (s : State) (i : Nat) (r : Region) (m : Mover) (block : Nat) :
    Keeps s (State.hashBlock s i r m block).2 := by
  unfold State.hashBlock
  repeat' (first
      | with_reducible apply State.readReached_keeps | extract_lets | with_reducible apply Keeps.refl
      | with_reducible apply Keeps.step (State.reachRegion_keeps ..) | with_reducible apply Keeps.iteSnd | split)

theorem State.hashBlocks_keeps (s : State) (i : Nat) (r : Region) (m : Mover) (y0 : List Nat) :
    Keeps s (State.hashBlocks s i r m y0).2 := by
  induction y0 generalizing s i r with
  | nil => (unfold State.hashBlocks; repeat' (first
       | extract_lets
       | with_reducible apply Keeps.refl
       | with_reducible apply Keeps.step (State.hashBlock_keeps ..)
       | with_reducible apply Keeps.step (ih ..)
       | split))
  | cons a y0 ih =>
    (unfold State.hashBlocks
     repeat' (first
         | extract_lets | with_reducible apply Keeps.refl | with_reducible apply Keeps.step (State.hashBlock_keeps ..)
         | with_reducible apply Keeps.step (ih ..) | split))

theorem State.hashPages_keeps (s : State) (i : Nat) (r : Region) (m : Mover) (y0 : List Nat) :
    Keeps s (State.hashPages s i r m y0).2 := by
  induction y0 generalizing s i r with
  | nil => (unfold State.hashPages; repeat' (first
       | extract_lets
       | with_reducible apply Keeps.refl
       | exact rfl
       | with_reducible apply Keeps.step (State.hashBlocks_keeps ..)
       | with_reducible apply Keeps.stepFrame (State.modRegion_frame ..)
       | with_reducible apply Keeps.step (ih ..)
       | split))
  | cons a y0 ih =>
    (unfold State.hashPages
     repeat' (first
         | extract_lets | with_reducible apply Keeps.refl | exact rfl
         | with_reducible apply Keeps.step (State.hashBlocks_keeps ..)
         | with_reducible apply Keeps.stepFrame (State.modRegion_frame ..) | with_reducible apply Keeps.step (ih ..)
         | split))

theorem State.published_keeps (s : State) (i : Nat) :
    Keeps s (State.published s i) := by
  unfold State.published
  repeat' (first
      | extract_lets | with_reducible apply Keeps.refl | with_reducible apply Keeps.step (State.endPublish_keeps ..)
      | with_reducible apply Keeps.ite | split)

theorem State.hashed_keeps (s : State) (i : Nat) :
    Keeps s (State.hashed s i) := by
  unfold State.hashed
  repeat' (first
      | extract_lets | with_reducible apply Keeps.refl | with_reducible apply Keeps.step (State.hashPages_keeps ..)
      | with_reducible apply Keeps.step (State.endPublish_keeps ..)
      | with_reducible apply Keeps.step (State.published_keeps ..) | with_reducible apply Keeps.ite | split)

end Sys2Proof.Machine
end

