-- ==== Sys2Proof/Laws/KeepsDevice.lean ====
section
/-!
SUPPORT. What each operation keeps (the canonical form of the stored data, the credits, the refusal buffers): firmware, attestation, endpoint, power, service, start, registers and sideband.
-/

namespace Sys2Proof.Machine

set_option maxRecDepth 2000
set_option Elab.async false

open Sys2Proof

theorem State.relayed_keeps (s : State) (c : Cmd) :
    Keeps s (State.relayed s c) := by
  unfold State.relayed
  repeat' (first
      | extract_lets | with_reducible apply Keeps.refl | exact rfl
      | with_reducible apply Keeps.stepFrame (State.spdm_frame ..)
      | with_reducible apply Keeps.step (State.hostWrite_keeps ..)
      | with_reducible apply Keeps.stepFrame (State.emit_frame ..) | with_reducible apply Keeps.step (State.reply_keeps ..))

theorem State.flrFn_keeps (s : State) (fn : Nat) :
    Keeps s (State.flrFn s fn) := by
  unfold State.flrFn
  repeat' (first
      | (with_reducible apply Keeps.step (Keeps.flrState ..)) | extract_lets | with_reducible apply Keeps.refl | exact rfl
      | with_reducible apply Keeps.step (State.dropCmds_keeps ..)
      | with_reducible apply Keeps.stepFrame (State.releaseCounter_frame ..)
      | with_reducible apply Keeps.step (State.drainCtx_keeps ..) | with_reducible apply Keeps.eachTrans | intro _)

theorem State.flrVfs_keeps (s : State) :
    Keeps s (State.flrVfs s) := by
  unfold State.flrVfs
  repeat' (first
      | extract_lets | with_reducible apply Keeps.refl | exact rfl
      | with_reducible apply Keeps.stepFrame (State.modHep_frame ..) | with_reducible apply Keeps.step (State.flrFn_keeps ..)
      | with_reducible apply Keeps.eachTrans | intro _)

theorem State.fwAbandon_keeps (s : State) (status : Option Nat) :
    Keeps s (State.fwAbandon s status) := by
  unfold State.fwAbandon
  repeat' (first
      | extract_lets | with_reducible apply Keeps.refl | exact rfl
      | with_reducible apply Keeps.stepFrame (State.modFw_frame ..)
      | with_reducible apply Keeps.step (State.replyTo_keeps ..) | with_reducible apply Keeps.ite | split
      | dsimp +zetaDelta only [id])

theorem State.flrPf_keeps (s : State) :
    Keeps s (State.flrPf s) := by
  unfold State.flrPf
  repeat' (first
      | (with_reducible apply Keeps.step (Keeps.quotaReset ..)) | extract_lets | with_reducible apply Keeps.refl | exact rfl
      | with_reducible apply Keeps.step (State.flrVfs_keeps ..) | with_reducible apply Keeps.step (State.fwAbandon_keeps ..)
      | with_reducible apply Keeps.step (State.flrFn_keeps ..) | with_reducible apply Keeps.stepFrame (State.modQos_frame ..)
      | with_reducible apply Keeps.stepFrame (State.modDir_frame ..)
      | with_reducible apply Keeps.stepFrame (State.modHep_frame ..)
      | with_reducible apply Keeps.stepFrame (State.modCnt_frame ..) | with_reducible apply Keeps.eachTrans
      | with_reducible apply Keeps.ite | intro _)

theorem State.configDefaults_keeps (s : State) : Keeps s s.configDefaults := by
  unfold State.configDefaults
  refine Keeps.stepFrame (State.modHep_frame ..) rfl ⟨id, id, fun h fn => ?_⟩
  have := h fn
  unfold State.refusals State.fn at *
  have e : ∀ (t : Tbl Fn) (g : Fn → Fn), (∀ f, (g f).ring = f.ring) → (tget {} (t.map fun e => (e.1, g e.2)) fn).ring = (tget {} t fn).ring := by
    intro t g hg
    induction t with
    | nil => rfl
    | cons e t ih =>
      simp only [List.map_cons, tget]
      split
      · exact hg _
      · exact ih
  dsimp only
  rw [e s.fns Fn.configDefaults fun f => rfl]
  exact this

theorem State.press_keeps (s : State) :
    Keeps s (State.press s) := by
  unfold State.press
  repeat' (first
      | extract_lets | with_reducible apply Keeps.refl | exact rfl
      | with_reducible apply Keeps.stepFrame (State.modHep_frame ..) | with_reducible apply Keeps.step (State.raise_keeps ..)
      | with_reducible apply Keeps.ite)

theorem State.clearBme_keeps (s : State) (fn : Nat) :
    Keeps s (State.clearBme s fn) := by
  unfold State.clearBme
  repeat' (first
      | extract_lets | with_reducible apply Keeps.refl
      | (with_reducible apply Keeps.step (State.modFn_keeps _ _ _ (by intro g; first | rfl | exact Ring.commit_held _ | (unfold Fn.writeAer; dsimp only; (repeat' split) <;> rfl) | (unfold Fn.logUnc; dsimp only; done) | (unfold Fn.logUnc; dsimp only; split <;> rfl) | ((repeat' split) <;> first | rfl | exact Ring.commit_held _))))
      | with_reducible apply Keeps.ite)

theorem State.restartProc_keeps (s : State) (i : Nat) (cause : Nat) :
    Keeps s (State.restartProc s i cause) := by
  unfold State.restartProc
  repeat' (first
      | extract_lets | with_reducible apply Keeps.refl | exact rfl
      | with_reducible apply Keeps.stepFrame (State.modProc_frame ..)
      | with_reducible apply Keeps.step (State.aerCor_keeps ..) | with_reducible apply Keeps.step (State.log_keeps ..)
      | with_reducible apply Keeps.stepFrame (State.modFw_frame ..)
      | with_reducible apply Keeps.stepFrame (State.modPmc_frame ..)
      | with_reducible apply Keeps.stepFrame (State.fwReview_frame ..)
      | with_reducible apply Keeps.step (State.rederate_keeps ..) | with_reducible apply Keeps.step (State.pmcErr_keeps ..)
      | with_reducible apply Keeps.ite)

theorem State.endStage_keeps (s : State) (c : Cmd) (status : Nat) :
    Keeps s (State.endStage s c status) := by
  unfold State.endStage
  repeat' (first
      | extract_lets | with_reducible apply Keeps.refl | exact rfl | with_reducible apply Keeps.step (State.reply_keeps ..)
      | with_reducible apply Keeps.stepFrame (State.keepUnits_frame ..))

theorem startFwStage_keeps (s : State) (c : Cmd) :
    Keeps s (startFwStage s c) := by
  unfold startFwStage
  repeat' (first
      | extract_lets | with_reducible apply Keeps.refl | exact rfl | with_reducible apply Keeps.step (State.reply_keeps ..)
      | with_reducible apply Keeps.stepFrame (State.modFw_frame ..)
      | with_reducible apply Keeps.step (State.beginHost_keeps ..) | with_reducible apply Keeps.ite)

theorem startFwActivate_keeps (s : State) (c : Cmd) :
    Keeps s (startFwActivate s c) := by
  unfold startFwActivate
  repeat' (first
      | extract_lets | with_reducible apply Keeps.refl | exact rfl | with_reducible apply Keeps.step (State.reply_keeps ..)
      | with_reducible apply Keeps.stepFrame (State.modFw_frame ..) | with_reducible apply Keeps.ite)

theorem State.verified_keeps (s : State) :
    Keeps s (State.verified s) := by
  unfold State.verified
  repeat' (first
      | extract_lets | with_reducible apply Keeps.refl | exact rfl
      | with_reducible apply Keeps.stepFrame (State.modFw_frame ..)
      | with_reducible apply Keeps.step (State.replyTo_keeps ..)
      | with_reducible apply Keeps.stepFrame (State.fwReview_frame ..) | with_reducible apply Keeps.ite | split)

theorem State.switched_keeps (s : State) :
    Keeps s (State.switched s) := by
  unfold State.switched
  repeat' (first
      | extract_lets | with_reducible apply Keeps.refl | exact rfl
      | with_reducible apply Keeps.stepFrame (State.modFw_frame ..)
      | with_reducible apply Keeps.step (State.replyTo_keeps ..) | with_reducible apply Keeps.ite | split)

theorem State.revert_keeps (s : State) :
    Keeps s (State.revert s) := by
  unfold State.revert
  repeat' (first
      | extract_lets | with_reducible apply Keeps.refl | exact rfl
      | with_reducible apply Keeps.stepFrame (State.modFw_frame ..)
      | with_reducible apply Keeps.step (State.restartProc_keeps ..) | with_reducible apply Keeps.eachTrans | split
      | intro _)

theorem State.hostGo_keeps (s : State) :
    Keeps s (State.hostGo s) := by
  unfold State.hostGo
  repeat' (first
      | extract_lets | with_reducible apply Keeps.refl | with_reducible apply Keeps.step (State.pumpAll_keeps ..)
      | with_reducible apply Keeps.step (State.askCmd_keeps ..) | with_reducible apply Keeps.eachTrans | intro _)

theorem State.hostArrived_keeps (s : State) (id : Nat) :
    Keeps s (State.hostArrived s id) := by
  unfold State.hostArrived
  repeat' (first
      | extract_lets | with_reducible apply Keeps.refl | with_reducible apply Keeps.step (State.loadKernel_keeps ..)
      | with_reducible apply Keeps.step (State.endStage_keeps ..) | with_reducible apply Keeps.step (State.relayed_keeps ..)
      | with_reducible apply Keeps.ite | split)

theorem State.readFailed_keeps (s : State) (y0 : ReadUse) :
    Keeps s (State.readFailed s y0) := by
  unfold State.readFailed
  repeat' (first
      | extract_lets | with_reducible apply Keeps.refl | with_reducible apply Keeps.step (State.failXfer_keeps ..)
      | with_reducible apply Keeps.step (State.endStage_keeps ..) | with_reducible apply Keeps.step (State.reply_keeps ..)
      | with_reducible apply Keeps.ite | split)

theorem State.readData_keeps (s : State) (use : ReadUse) (off : Nat) (data : List Byte) :
    Keeps s (State.readData s use off data) := by
  unfold State.readData
  repeat' (first
      | extract_lets | with_reducible apply Keeps.refl | exact rfl | with_reducible apply Keeps.step (State.count_keeps ..)
      | with_reducible apply Keeps.stepFrame (State.modUnit_frame ..)
      | (with_reducible apply Keeps.step (State.modCmd_keeps _ _ _ (by intro g; first | rfl | (dsimp only [Cmd.fill]; done) | (split; rfl; (dsimp only [Cmd.arrived]; done)) | (dsimp only; split <;> rfl))))
      | with_reducible apply Keeps.ite | split)

theorem State.unexpected_keeps (s : State) (fn : Nat) :
    Keeps s (State.unexpected s fn) := by
  unfold State.unexpected
  repeat' (first
      | extract_lets | with_reducible apply Keeps.refl | with_reducible apply Keeps.step (State.aerUnc_keeps ..))

theorem State.completed_keeps (s : State) (fn : Nat) (slot : Nat) (status : CplStatus) (data : List Byte) :
    Keeps s (State.completed s fn slot status data) := by
  unfold State.completed
  repeat' (first
      | extract_lets | with_reducible apply Keeps.refl | with_reducible apply Keeps.step (State.unexpected_keeps ..)
      | (with_reducible apply Keeps.step (State.modFn_keeps _ _ _ (by intro g; first | rfl | exact Ring.commit_held _ | (unfold Fn.writeAer; dsimp only; (repeat' split) <;> rfl) | (unfold Fn.logUnc; dsimp only; done) | (unfold Fn.logUnc; dsimp only; split <;> rfl) | ((repeat' split) <;> first | rfl | exact Ring.commit_held _))))
      | with_reducible apply Keeps.step (State.count_keeps ..) | with_reducible apply Keeps.step (State.hostGo_keeps ..)
      | with_reducible apply Keeps.step (State.readFailed_keeps ..) | with_reducible apply Keeps.step (State.aerUnc_keeps ..)
      | with_reducible apply Keeps.step (State.readData_keeps ..)
      | with_reducible apply Keeps.step (State.hostArrived_keeps ..) | with_reducible apply Keeps.ite | split)

theorem State.afterReset_keeps (s : State) (power : Bool) : Keeps s (s.afterReset power) := by
  unfold State.afterReset
  refine ⟨fun h => ⟨rfl, rfl, Memory.wf_filter _ _ h.2.2.1, fun _ h => absurd h List.not_mem_nil, fun _ h => absurd h List.not_mem_nil⟩, fun _ acct => Nat.zero_le _, fun _ fn => ?_⟩
  have : ∀ fn, State.reset.refusals fn = 0 := by
    intro fn
    unfold State.refusals State.fn State.reset
    simp only [tget]
    split <;> rfl
  exact (this fn).symm ▸ Nat.zero_le 256

theorem State.toStandby_keeps (s : State) :
    Keeps s (State.toStandby s) := by
  unfold State.toStandby
  repeat' (first
      | extract_lets | with_reducible apply Keeps.refl | exact rfl
      | with_reducible apply Keeps.step (State.afterReset_keeps ..)
      | with_reducible apply Keeps.stepFrame (State.modPmc_frame ..)
      | with_reducible apply Keeps.stepFrame (State.modHep_frame ..))

theorem State.settleReset_keeps (s : State) :
    Keeps s (State.settleReset s) := by
  unfold State.settleReset
  repeat' (first
      | extract_lets | with_reducible apply Keeps.refl | exact rfl
      | with_reducible apply Keeps.step (State.afterReset_keeps ..)
      | with_reducible apply Keeps.stepFrame (State.tornFuse_frame ..)
      | with_reducible apply Keeps.step (State.toStandby_keeps ..) | with_reducible apply Keeps.ite)

theorem State.powerOff_keeps (s : State) (reason : Nat) (sensor : Nat) :
    Keeps s (State.powerOff s reason sensor) := by
  unfold State.powerOff
  repeat' (first
      | extract_lets | with_reducible apply Keeps.refl | exact rfl
      | with_reducible apply Keeps.stepFrame (State.modPmc_frame ..)
      | with_reducible apply Keeps.stepFrame (State.endReads_frame ..)
      | with_reducible apply Keeps.step (State.settleReset_keeps ..)
      | with_reducible apply Keeps.stepFrame (State.dueFlush_frame ..) | with_reducible apply Keeps.ite)

theorem State.assertReset_keeps (s : State) :
    Keeps s (State.assertReset s) := by
  unfold State.assertReset
  repeat' (first
      | extract_lets | with_reducible apply Keeps.refl | exact rfl
      | with_reducible apply Keeps.stepFrame (State.modPmc_frame ..)
      | with_reducible apply Keeps.stepFrame (State.endReads_frame ..)
      | with_reducible apply Keeps.step (State.settleReset_keeps ..)
      | with_reducible apply Keeps.stepFrame (State.dueFlush_frame ..) | with_reducible apply Keeps.ite)

theorem State.endFlush_keeps (s : State) :
    Keeps s (State.endFlush s) := by
  unfold State.endFlush
  repeat' (first
      | extract_lets | with_reducible apply Keeps.refl | exact rfl
      | with_reducible apply Keeps.stepFrame (State.modFls_frame ..)
      | with_reducible apply Keeps.step (State.journalSaved_keeps ..)
      | with_reducible apply Keeps.step (State.settleReset_keeps ..) | with_reducible apply Keeps.eachTrans
      | with_reducible apply Keeps.ite | intro _)

theorem State.loseFlush_keeps (s : State) :
    Keeps s (State.loseFlush s) := by
  unfold State.loseFlush
  repeat' (first
      | extract_lets | with_reducible apply Keeps.refl | exact rfl
      | with_reducible apply Keeps.stepFrame (State.modFls_frame ..)
      | with_reducible apply Keeps.step (State.journalLost_keeps ..)
      | with_reducible apply Keeps.step (State.settleReset_keeps ..) | with_reducible apply Keeps.eachTrans
      | with_reducible apply Keeps.ite | intro _)

theorem State.settleStops_keeps (s : State) :
    Keeps s (State.settleStops s) := by
  unfold State.settleStops
  repeat' (first
      | extract_lets | with_reducible apply Keeps.refl | exact rfl
      | with_reducible apply Keeps.stepFrame (State.modFls_frame ..) | with_reducible apply Keeps.step (State.serve_keeps ..)
      | with_reducible apply Keeps.stepFrame (State.closeFull_frame ..) | with_reducible apply Keeps.eachTrans
      | with_reducible apply Keeps.ite | intro _)

theorem State.enterSag_keeps (s : State) :
    Keeps s (State.enterSag s) := by
  unfold State.enterSag
  repeat' (first
      | extract_lets | with_reducible apply Keeps.refl | exact rfl
      | with_reducible apply Keeps.stepFrame (State.fwReview_frame ..)
      | with_reducible apply Keeps.step (State.settleStops_keeps ..)
      | with_reducible apply Keeps.step (State.pmcErr_keeps ..)
      | with_reducible apply Keeps.stepFrame (State.modPmc_frame ..) | with_reducible apply Keeps.ite)

theorem State.enterHoldup_keeps (s : State) :
    Keeps s (State.enterHoldup s) := by
  unfold State.enterHoldup
  repeat' (first
      | extract_lets | with_reducible apply Keeps.refl | exact rfl | with_reducible apply Keeps.step (State.pmcErr_keeps ..)
      | with_reducible apply Keeps.stepFrame (State.modPmc_frame ..)
      | with_reducible apply Keeps.step (State.enterSag_keeps ..)
      | with_reducible apply Keeps.stepFrame (State.dueFlush_frame ..) | with_reducible apply Keeps.ite)

theorem State.recoverSupply_keeps (s : State) :
    Keeps s (State.recoverSupply s) := by
  unfold State.recoverSupply
  repeat' (first
      | extract_lets | with_reducible apply Keeps.refl | exact rfl
      | with_reducible apply Keeps.stepFrame (State.modPmc_frame ..)
      | with_reducible apply Keeps.stepFrame (State.modFls_frame ..)
      | with_reducible apply Keeps.stepFrame (State.fwReview_frame ..)
      | with_reducible apply Keeps.step (State.settleStops_keeps ..) | with_reducible apply Keeps.eachTrans
      | with_reducible apply Keeps.ite | intro _)

theorem State.readSensors_keeps (s : State) (temps : List (BitVec 8)) :
    Keeps s (State.readSensors s temps) := by
  unfold State.readSensors
  repeat' (first
      | extract_lets | with_reducible apply Keeps.refl | exact rfl
      | with_reducible apply Keeps.stepFrame (State.modPmc_frame ..)
      | with_reducible apply Keeps.step (State.pmcErr_keeps ..)
      | with_reducible apply Keeps.stepFrame (State.fwReview_frame ..)
      | with_reducible apply Keeps.step (State.settleStops_keeps ..) | with_reducible apply Keeps.ite)

theorem State.evaluate_keeps (s : State) (pin : Nat) (temps : List (BitVec 8)) :
    Keeps s (State.evaluate s pin temps) := by
  unfold State.evaluate
  repeat' (first
      | extract_lets | with_reducible apply Keeps.refl | exact rfl
      | with_reducible apply Keeps.step (State.readSensors_keeps ..)
      | with_reducible apply Keeps.stepFrame (State.modPmc_frame ..)
      | with_reducible apply Keeps.step (State.pmcErr_keeps ..) | with_reducible apply Keeps.step (State.rederate_keeps ..)
      | with_reducible apply Keeps.ite)

theorem State.fastLimit_keeps (s : State) (power : Nat) :
    Keeps s (State.fastLimit s power) := by
  unfold State.fastLimit
  repeat' (first
      | extract_lets | with_reducible apply Keeps.refl | exact rfl
      | with_reducible apply Keeps.step (State.rederate_keeps ..) | with_reducible apply Keeps.step (State.pmcErr_keeps ..)
      | with_reducible apply Keeps.stepFrame (State.modPmc_frame ..) | with_reducible apply Keeps.ite)

theorem State.fallBack_keeps (s : State) (go : State → State) (hf : ∀ s, Keeps s (go s)) :
    Keeps s (State.fallBack s go) := by
  unfold State.fallBack
  repeat' (first
      | extract_lets | with_reducible apply Keeps.refl | exact rfl
      | with_reducible apply Keeps.stepFrame (State.modFw_frame ..)
      | with_reducible apply Keeps.stepFrame (State.bootStop_frame ..) | with_reducible apply Keeps.step (hf ..)
      | with_reducible apply Keeps.ite | split)

theorem State.bootRetire_keeps (s : State) (k : Nat) :
    Keeps s (State.bootRetire s k) := by
  unfold State.bootRetire
  repeat' (first
      | extract_lets | with_reducible apply Keeps.refl | exact rfl
      | with_reducible apply Keeps.stepFrame (State.modStack_frame ..)
      | with_reducible apply Keeps.step (State.checkCarve_keeps ..) | with_reducible apply Keeps.step (State.log_keeps ..))

theorem State.bootRepair_keeps (s : State) (k : Nat) :
    Keeps s (State.bootRepair s k) := by
  unfold State.bootRepair
  repeat' (first
      | extract_lets | with_reducible apply Keeps.refl | exact rfl
      | with_reducible apply Keeps.stepFrame (State.takeFree_frame ..) | with_reducible apply Keeps.step (State.log_keeps ..)
      | with_reducible apply Keeps.stepFrame (State.modPc_frame ..) | with_reducible apply Keeps.eachTrans
      | with_reducible apply Keeps.ite | split | intro _ | with_reducible apply Keeps.stepFrame (Frame.set_repairRows ..)
      | with_reducible apply Keeps.stepFrame (Frame.set_repairs ..))

theorem State.fillDone_keeps (s : State) :
    Keeps s (State.fillDone s) := by
  unfold State.fillDone
  repeat' (first
      | extract_lets | with_reducible apply Keeps.refl | exact rfl
      | with_reducible apply Keeps.stepFrame (State.modStack_frame ..)
      | with_reducible apply Keeps.stepFrame (State.modDir_frame ..)
      | with_reducible apply Keeps.stepFrame (State.chargeCache_frame ..)
      | with_reducible apply Keeps.step (State.rederate_keeps ..) | with_reducible apply Keeps.eachTrans
      | with_reducible apply Keeps.ite | intro _)

theorem State.stagePassed_keeps (s : State) :
    Keeps s (State.stagePassed s) := by
  unfold State.stagePassed
  repeat' (first
      | extract_lets | with_reducible apply Keeps.refl | exact rfl
      | with_reducible apply Keeps.stepFrame (State.nextStage_frame ..)
      | with_reducible apply Keeps.stepFrame (State.modFw_frame ..)
      | with_reducible apply Keeps.stepFrame (State.modStack_frame ..)
      | with_reducible apply Keeps.step (State.bootRepair_keeps ..)
      | with_reducible apply Keeps.step (State.fillDone_keeps ..)
      | with_reducible apply Keeps.stepFrame (State.modPort_frame ..)
      | with_reducible apply Keeps.step (State.fallBack_keeps ..) | with_reducible apply Keeps.eachTrans
      | with_reducible apply Keeps.ite | split | intro _)

theorem State.stageEnd_keeps (s : State) (o : BootOutcome) :
    Keeps s (State.stageEnd s o) := by
  unfold State.stageEnd
  repeat' (first
      | extract_lets | with_reducible apply Keeps.refl | exact rfl
      | with_reducible apply Keeps.stepFrame (State.modPmc_frame ..)
      | with_reducible apply Keeps.step (State.stagePassed_keeps ..)
      | with_reducible apply Keeps.stepFrame (State.nextStage_frame ..)
      | with_reducible apply Keeps.stepFrame (State.bootStop_frame ..)
      | with_reducible apply Keeps.step (State.bootRetire_keeps ..)
      | with_reducible apply Keeps.step (State.fallBack_keeps ..) | with_reducible apply Keeps.ite | split | intro _)

theorem State.writeFnBlock_keeps (s : State) (fn : Nat) (o : Nat) (w : RegW) :
    Keeps s (State.writeFnBlock s fn o w) := by
  unfold State.writeFnBlock
  repeat' (first
      | extract_lets | with_reducible apply Keeps.refl
      | (with_reducible apply Keeps.step (State.modFn_keeps _ _ _ (by intro g; first | rfl | exact Ring.commit_held _ | (unfold Fn.writeAer; dsimp only; (repeat' split) <;> rfl) | (unfold Fn.logUnc; dsimp only; done) | (unfold Fn.logUnc; dsimp only; split <;> rfl) | ((repeat' split) <;> first | rfl | exact Ring.commit_held _)))))

theorem State.writePfBlock_keeps (s : State) (o : Nat) (w : RegW) :
    Keeps s (State.writePfBlock s o w) := by
  unfold State.writePfBlock
  repeat' (first
      | extract_lets | with_reducible apply Keeps.refl | exact rfl
      | with_reducible apply Keeps.stepFrame (State.modHep_frame ..)
      | with_reducible apply Keeps.stepFrame (State.commitHwin_frame ..)
      | with_reducible apply Keeps.step (State.writeFnBlock_keeps ..) | with_reducible apply Keeps.ite)

theorem State.writeQuota_keeps (s : State) (o : Nat) (w : RegW) :
    Keeps s (State.writeQuota s o w) := by
  unfold State.writeQuota
  repeat' (first
      | extract_lets | with_reducible apply Keeps.refl
      | (with_reducible apply Keeps.step (State.modFn_keeps _ _ _ (by intro g; first | rfl | exact Ring.commit_held _ | (unfold Fn.writeAer; dsimp only; (repeat' split) <;> rfl) | (unfold Fn.logUnc; dsimp only; done) | (unfold Fn.logUnc; dsimp only; split <;> rfl) | ((repeat' split) <;> first | rfl | exact Ring.commit_held _))))
      | with_reducible apply Keeps.ite)

theorem State.writeMsix_keeps (s : State) (fn : Nat) (o : Nat) (w : RegW) :
    Keeps s (State.writeMsix s fn o w) := by
  unfold State.writeMsix
  repeat' (first
      | extract_lets | with_reducible apply Keeps.refl
      | (with_reducible apply Keeps.step (State.modFn_keeps _ _ _ (by intro g; first | rfl | exact Ring.commit_held _ | (unfold Fn.writeAer; dsimp only; (repeat' split) <;> rfl) | (unfold Fn.logUnc; dsimp only; done) | (unfold Fn.logUnc; dsimp only; split <;> rfl) | ((repeat' split) <;> first | rfl | exact Ring.commit_held _))))
      | with_reducible apply Keeps.step (State.sendPending_keeps ..))

theorem State.writeQos_keeps (s : State) (o : Nat) (w : RegW) :
    Keeps s (State.writeQos s o w) := by
  unfold State.writeQos
  repeat' (first
      | extract_lets | with_reducible apply Keeps.refl | exact rfl
      | with_reducible apply Keeps.stepFrame (State.modQos_frame ..)
      | with_reducible apply Keeps.step (State.commitQos_keeps ..) | with_reducible apply Keeps.ite)

theorem State.writePortCtrl_keeps (s : State) (p : Nat) (w : RegW) :
    Keeps s (State.writePortCtrl s p w) := by
  unfold State.writePortCtrl
  repeat' (first
      | extract_lets | with_reducible apply Keeps.refl | exact rfl
      | with_reducible apply Keeps.stepFrame (State.modPort_frame ..)
      | with_reducible apply Keeps.stepFrame (State.enablePort_frame ..)
      | with_reducible apply Keeps.step (State.disablePort_keeps ..)
      | with_reducible apply Keeps.stepFrame (State.retrainPort_frame ..) | with_reducible apply Keeps.ite)

theorem State.writePort_keeps (s : State) (p : Nat) (o : Nat) (w : RegW) :
    Keeps s (State.writePort s p o w) := by
  unfold State.writePort
  repeat' (first
      | extract_lets | with_reducible apply Keeps.refl | exact rfl
      | with_reducible apply Keeps.step (State.writePortCtrl_keeps ..)
      | with_reducible apply Keeps.stepFrame (State.modPort_frame ..) | with_reducible apply Keeps.ite)

theorem State.writePfBar_keeps (s : State) (off : Nat) (w : RegW) :
    Keeps s (State.writePfBar s off w) := by
  unfold State.writePfBar
  repeat' (first
      | extract_lets | with_reducible apply Keeps.refl | exact rfl
      | with_reducible apply Keeps.step (State.writeMsix_keeps ..)
      | with_reducible apply Keeps.stepFrame (State.writeCxl_frame ..)
      | with_reducible apply Keeps.stepFrame (State.writeGlb_frame ..)
      | with_reducible apply Keeps.step (State.writePfBlock_keeps ..)
      | with_reducible apply Keeps.step (State.writeQuota_keeps ..)
      | with_reducible apply Keeps.step (State.writeQos_keeps ..)
      | with_reducible apply Keeps.stepFrame (State.writeDispatch_frame ..)
      | with_reducible apply Keeps.stepFrame (State.writePmc_frame ..)
      | with_reducible apply Keeps.stepFrame (State.writeCnt_frame ..)
      | with_reducible apply Keeps.stepFrame (State.writeFw_frame ..)
      | with_reducible apply Keeps.step (State.writePort_keeps ..)
      | with_reducible apply Keeps.stepFrame (State.writeStack_frame ..)
      | with_reducible apply Keeps.stepFrame (State.writeFct_frame ..)
      | with_reducible apply Keeps.stepFrame (State.writeMeas_frame ..)
      | with_reducible apply Keeps.stepFrame (State.writeChd_frame ..)
      | with_reducible apply Keeps.stepFrame (State.writeGnm_frame ..)
      | with_reducible apply Keeps.stepFrame (State.writeFls_frame ..) | with_reducible apply Keeps.ite)

theorem State.writeVfBar_keeps (s : State) (fn : Nat) (off : Nat) (w : RegW) :
    Keeps s (State.writeVfBar s fn off w) := by
  unfold State.writeVfBar
  repeat' (first
      | extract_lets | with_reducible apply Keeps.refl | with_reducible apply Keeps.step (State.writeMsix_keeps ..)
      | with_reducible apply Keeps.step (State.writeFnBlock_keeps ..) | with_reducible apply Keeps.ite)

theorem State.writeBar_keeps (s : State) (fn : Nat) (off : Nat) (size : Nat) (v : Nat) :
    Keeps s (State.writeBar s fn off size v) := by
  unfold State.writeBar
  repeat' (first
      | extract_lets | with_reducible apply Keeps.refl | with_reducible apply Keeps.step (State.aerUnc_keeps ..)
      | with_reducible apply Keeps.step (State.writePfBar_keeps ..)
      | with_reducible apply Keeps.step (State.writeVfBar_keeps ..)
      | with_reducible apply Keeps.step (State.barWrite_keeps ..) | split | intro _)

theorem startIdentify_keeps (s : State) (c : Cmd) :
    Keeps s (startIdentify s c) := by
  unfold startIdentify
  repeat' (first
      | extract_lets | with_reducible apply Keeps.refl | with_reducible apply Keeps.step (State.reply_keeps ..))

theorem startTableBuild_keeps (s : State) (c : Cmd) :
    Keeps s (startTableBuild s c) := by
  unfold startTableBuild
  repeat' (first
      | extract_lets | with_reducible apply Keeps.refl | exact rfl | with_reducible apply Keeps.step (State.bad_keeps ..)
      | with_reducible apply Keeps.step (State.reply_keeps ..)
      | with_reducible apply Keeps.stepFrame (State.modGroup_frame ..) | with_reducible apply Keeps.ite | split)

theorem startTableRetire_keeps (s : State) (c : Cmd) :
    Keeps s (startTableRetire s c) := by
  unfold startTableRetire
  repeat' (first
      | extract_lets | with_reducible apply Keeps.refl | exact rfl | with_reducible apply Keeps.step (State.bad_keeps ..)
      | with_reducible apply Keeps.step (State.reply_keeps ..)
      | with_reducible apply Keeps.stepFrame (State.settleTable_frame ..)
      | with_reducible apply Keeps.stepFrame (State.modGroup_frame ..)
      | with_reducible apply Keeps.stepFrame (State.modTable_frame ..) | with_reducible apply Keeps.ite | split)

theorem startCodecSet_keeps (s : State) (c : Cmd) :
    Keeps s (startCodecSet s c) := by
  unfold startCodecSet
  repeat' (first
      | extract_lets | with_reducible apply Keeps.refl | exact rfl | with_reducible apply Keeps.step (State.bad_keeps ..)
      | with_reducible apply Keeps.step (State.reply_keeps ..)
      | with_reducible apply Keeps.stepFrame (State.setRegion_frame ..) | with_reducible apply Keeps.ite | split)

theorem State.loadFrom_keeps (s : State) (c : Cmd) (base : Nat) (y0 : List (Nat × Nat)) :
    Keeps s (State.loadFrom s c base y0) := by
  induction y0 generalizing s c base with
  | nil => (unfold State.loadFrom; repeat' (first
       | extract_lets
       | with_reducible apply Keeps.refl
       | exact rfl
       | with_reducible apply Keeps.step (State.replyTo_keeps ..)
       | with_reducible apply Keeps.stepFrame (State.takeId_frame ..)
       | with_reducible apply Keeps.step (State.dispatchReq_keeps ..)
       | with_reducible apply Keeps.step (ih ..)
       | with_reducible apply Keeps.ite
       | split))
  | cons a y0 ih =>
    (unfold State.loadFrom
     repeat' (first
         | extract_lets | with_reducible apply Keeps.refl | exact rfl
         | with_reducible apply Keeps.step (State.replyTo_keeps ..)
         | with_reducible apply Keeps.stepFrame (State.takeId_frame ..)
         | with_reducible apply Keeps.step (State.dispatchReq_keeps ..) | with_reducible apply Keeps.step (ih ..)
         | with_reducible apply Keeps.ite | split))

theorem startKernelLoad_keeps (s : State) (c : Cmd) :
    Keeps s (startKernelLoad s c) := by
  unfold startKernelLoad
  repeat' (first
      | extract_lets | with_reducible apply Keeps.refl | with_reducible apply Keeps.step (State.reply_keeps ..)
      | with_reducible apply Keeps.step (State.loadKernel_keeps ..)
      | with_reducible apply Keeps.step (State.beginHost_keeps ..)
      | with_reducible apply Keeps.step (State.loadFrom_keeps ..)
      | (with_reducible apply Keeps.step (State.modCmd_keeps _ _ _ (by intro g; first | rfl | (dsimp only [Cmd.fill]; done) | (split; rfl; (dsimp only [Cmd.arrived]; done)) | (dsimp only; split <;> rfl))))
      | with_reducible apply Keeps.ite)

theorem startSvcTest_keeps (s : State) (c : Cmd) :
    Keeps s (startSvcTest s c) := by
  unfold startSvcTest
  repeat' (first
      | extract_lets | with_reducible apply Keeps.refl | exact rfl | with_reducible apply Keeps.step (State.reply_keeps ..)
      | with_reducible apply Keeps.step (State.bad_keeps ..) | with_reducible apply Keeps.stepFrame (State.modPort_frame ..)
      | with_reducible apply Keeps.ite | split)

theorem startSvcRetire_keeps (s : State) (c : Cmd) :
    Keeps s (startSvcRetire s c) := by
  unfold startSvcRetire
  repeat' (first
      | extract_lets | with_reducible apply Keeps.refl | with_reducible apply Keeps.step (State.reply_keeps ..)
      | with_reducible apply Keeps.step (State.retireIdle_keeps ..)
      | with_reducible apply Keeps.step (State.retirePc_keeps ..)
      | with_reducible apply Keeps.step (State.retireStack_keeps ..)
      | with_reducible apply Keeps.step (State.retireDie_keeps ..)
      | with_reducible apply Keeps.step (State.loseFlashDie_keeps ..) | with_reducible apply Keeps.ite | split)

theorem startSvcRemap_keeps (s : State) (c : Cmd) :
    Keeps s (startSvcRemap s c) := by
  unfold startSvcRemap
  repeat' (first
      | extract_lets | with_reducible apply Keeps.refl
      | (with_reducible apply Keeps.step; (with_reducible apply State.remapLine_keeps; with_reducible assumption))
      | with_reducible apply Keeps.step (State.reply_keeps ..) | with_reducible apply Keeps.ite | split)

theorem startSvcClear_keeps (s : State) (c : Cmd) :
    Keeps s (startSvcClear s c) := by
  unfold startSvcClear
  repeat' (first
      | extract_lets | with_reducible apply Keeps.refl | exact rfl | with_reducible apply Keeps.step (State.reply_keeps ..)
      | with_reducible apply Keeps.stepFrame (State.takeId_frame ..)
      | with_reducible apply Keeps.step (State.dispatchReq_keeps ..) | split)

theorem specs_start_keeps (spec : CmdSpec) (h : spec ∈ specs) (s : State) (c : Cmd) :
    Keeps s (spec.start s c) := by
  simp only [specs, List.cons_append, List.nil_append, List.mem_cons, List.not_mem_nil, or_false] at h
  rcases h with rfl | rfl | rfl | rfl | rfl | rfl | rfl | rfl | rfl | rfl | rfl | rfl | rfl | rfl | rfl | rfl | rfl | rfl | rfl | rfl | rfl | rfl | rfl | rfl | rfl | rfl | rfl | rfl | rfl | rfl | rfl | rfl | rfl | rfl | rfl | rfl | rfl | rfl | rfl | rfl
  · exact (startIdentify_keeps ..)
  · exact (startMark_keeps ..)
  · exact (startCtxCreate_keeps ..)
  · exact (startCtxDestroy_keeps ..)
  · exact (startCtxBindPort_keeps ..)
  · exact (startWinSet_keeps ..)
  · exact (startRegionAlloc_keeps ..)
  · exact (startRegionFree_keeps ..)
  · exact (startRegionAttr_keeps ..)
  · exact (startHint_keeps ..)
  · exact (startHint_keeps ..)
  · exact (startHint_keeps ..)
  · exact (startHint_keeps ..)
  · exact (startCkpt_keeps ..)
  · exact (startXfer_keeps ..)
  · exact (startXfer_keeps ..)
  · exact (startXfer_keeps ..)
  · exact (startXfer_keeps ..)
  · exact (startXferAtom_keeps ..)
  · exact (startTableBuild_keeps ..)
  · exact (startTableRetire_keeps ..)
  · exact (startCodecSet_keeps ..)
  · exact (startKernelLoad_keeps ..)
  · exact (startKernelRun_keeps ..)
  · exact (startKernelAbort_keeps ..)
  · exact (startPublish_keeps ..)
  · exact (startSubscribe_keeps ..)
  · exact (startUnsubscribe_keeps ..)
  · exact (startWithdraw_keeps ..)
  · exact (startQosClassSet_keeps ..)
  · exact (startQosBudgetSet_keeps ..)
  · exact (startSvcTest_keeps ..)
  · exact (startSvcRetire_keeps ..)
  · exact (startSvcRemap_keeps ..)
  · exact (startSvcClear_keeps ..)
  · exact (startFwStage_keeps ..)
  · exact (startFwActivate_keeps ..)
  · exact (startCntConfig_keeps ..)
  · exact (startCntSnapshot_keeps ..)
  · exact (State.beginHost_keeps ..)

theorem specOf_start_keeps {n : Nat} {spec : CmdSpec} (h : specOf n = some spec) (s : State) (c : Cmd) :
    Keeps s (spec.start s c) :=
  specs_start_keeps spec (List.mem_of_find?_eq_some h) s c

theorem State.releaseParked_keeps (s : State) :
    Keeps s (State.releaseParked s) := by
  unfold State.releaseParked
  repeat' (first
      | extract_lets | with_reducible apply Keeps.refl | with_reducible apply Keeps.step (State.wakeShare_keeps ..)
      | with_reducible apply Keeps.step (State.tryStart_keeps ..)
      | (with_reducible apply Keeps.step; (apply specOf_start_keeps; assumption)) | with_reducible apply Keeps.eachTrans
      | with_reducible apply Keeps.ite | split | intro _)

theorem State.resume_keeps (s : State) :
    Keeps s (State.resume s) := by
  unfold State.resume
  repeat' (first
      | extract_lets | with_reducible apply Keeps.refl | with_reducible apply Keeps.step (State.releaseParked_keeps ..)
      | with_reducible apply Keeps.step (State.hostGo_keeps ..)
      | with_reducible apply Keeps.step (State.sendPending_keeps ..) | with_reducible apply Keeps.eachTrans
      | with_reducible apply Keeps.ite | intro _)

theorem State.setBme_keeps (s : State) (fn : Nat) :
    Keeps s (State.setBme s fn) := by
  unfold State.setBme
  repeat' (first
      | extract_lets | with_reducible apply Keeps.refl | with_reducible apply Keeps.step (State.resume_keeps ..)
      | (with_reducible apply Keeps.step (State.modFn_keeps _ _ _ (by intro g; first | rfl | exact Ring.commit_held _ | (unfold Fn.writeAer; dsimp only; (repeat' split) <;> rfl) | (unfold Fn.logUnc; dsimp only; done) | (unfold Fn.logUnc; dsimp only; split <;> rfl) | ((repeat' split) <;> first | rfl | exact Ring.commit_held _)))))

theorem State.writeCommand_keeps (s : State) (fn : Nat) (w : RegW) :
    Keeps s (State.writeCommand s fn w) := by
  unfold State.writeCommand
  repeat' (first
      | extract_lets | with_reducible apply Keeps.refl
      | (with_reducible apply Keeps.step (State.modFn_keeps _ _ _ (by intro g; first | rfl | exact Ring.commit_held _ | (unfold Fn.writeAer; dsimp only; (repeat' split) <;> rfl) | (unfold Fn.logUnc; dsimp only; done) | (unfold Fn.logUnc; dsimp only; split <;> rfl) | ((repeat' split) <;> first | rfl | exact Ring.commit_held _))))
      | with_reducible apply Keeps.step (State.setBme_keeps ..) | with_reducible apply Keeps.step (State.clearBme_keeps ..)
      | with_reducible apply Keeps.ite)

theorem State.writeDevCtl_keeps (s : State) (fn : Nat) (w : RegW) :
    Keeps s (State.writeDevCtl s fn w) := by
  unfold State.writeDevCtl
  repeat' (first
      | extract_lets | with_reducible apply Keeps.refl | exact rfl
      | (with_reducible apply Keeps.step (State.modFn_keeps _ _ _ (by intro g; first | rfl | exact Ring.commit_held _ | (unfold Fn.writeAer; dsimp only; (repeat' split) <;> rfl) | (unfold Fn.logUnc; dsimp only; done) | (unfold Fn.logUnc; dsimp only; split <;> rfl) | ((repeat' split) <;> first | rfl | exact Ring.commit_held _))))
      | with_reducible apply Keeps.stepFrame (State.modHep_frame ..) | with_reducible apply Keeps.step (State.flrPf_keeps ..)
      | with_reducible apply Keeps.step (State.flrFn_keeps ..) | with_reducible apply Keeps.ite)

theorem State.enterD3_keeps (s : State) :
    Keeps s (State.enterD3 s) := by
  unfold State.enterD3
  repeat' (first
      | extract_lets | with_reducible apply Keeps.refl | exact rfl
      | with_reducible apply Keeps.step (State.loseLink_keeps ..)
      | with_reducible apply Keeps.stepFrame (State.modPort_frame ..)
      | with_reducible apply Keeps.step (State.abortRuns_keeps ..)
      | with_reducible apply Keeps.stepFrame (State.fwReview_frame ..)
      | with_reducible apply Keeps.step (State.journalSaved_keeps ..)
      | with_reducible apply Keeps.stepFrame (State.modHep_frame ..) | with_reducible apply Keeps.eachTrans | split
      | intro _)

theorem State.leaveD3_keeps (s : State) :
    Keeps s (State.leaveD3 s) := by
  unfold State.leaveD3
  repeat' (first
      | extract_lets | with_reducible apply Keeps.refl | exact rfl
      | with_reducible apply Keeps.stepFrame (State.modHep_frame ..)
      | with_reducible apply Keeps.stepFrame (State.modPort_frame ..)
      | with_reducible apply Keeps.step (State.resume_keeps ..)
      | with_reducible apply Keeps.stepFrame (State.fwReview_frame ..) | with_reducible apply Keeps.eachTrans
      | with_reducible apply Keeps.ite | intro _)

theorem State.powerState_keeps (s : State) (d3 : Bool) :
    Keeps s (State.powerState s d3) := by
  unfold State.powerState
  repeat' (first
      | extract_lets | with_reducible apply Keeps.refl | with_reducible apply Keeps.step (State.enterD3_keeps ..)
      | with_reducible apply Keeps.step (State.leaveD3_keeps ..) | with_reducible apply Keeps.ite)

theorem State.writeConfig_keeps (s : State) (space : RegSpace) (fn : Nat) (o : Nat) (w : RegW) :
    Keeps s (State.writeConfig s space fn o w) := by
  unfold State.writeConfig
  repeat' (first
      | extract_lets | with_reducible apply Keeps.refl | exact rfl
      | with_reducible apply Keeps.step (State.writeCommand_keeps ..)
      | with_reducible apply Keeps.stepFrame (State.modHep_frame ..)
      | with_reducible apply Keeps.step (State.powerState_keeps ..)
      | with_reducible apply Keeps.step (State.sendPending_keeps ..)
      | (with_reducible apply Keeps.step (State.modFn_keeps _ _ _ (by intro g; first | rfl | exact Ring.commit_held _ | (unfold Fn.writeAer; dsimp only; (repeat' split) <;> rfl) | (unfold Fn.logUnc; dsimp only; done) | (unfold Fn.logUnc; dsimp only; split <;> rfl) | ((repeat' split) <;> first | rfl | exact Ring.commit_held _))))
      | with_reducible apply Keeps.step (State.writeDevCtl_keeps ..)
      | with_reducible apply Keeps.step (State.flrVfs_keeps ..) | with_reducible apply Keeps.ite | split)

theorem State.configWrite_keeps (s : State) (space : RegSpace) (fn : Nat) (off : Nat) (size : Nat) (v : Nat) :
    Keeps s (State.configWrite s space fn off size v) := by
  unfold State.configWrite
  repeat' (first
      | extract_lets | with_reducible apply Keeps.refl | with_reducible apply Keeps.step (State.writeConfig_keeps ..)
      | with_reducible apply Keeps.step (State.cfgAccess_keeps ..) | with_reducible apply Keeps.ite | intro _)

theorem State.rollBack_keeps (s : State) (c : Cmd) :
    Keeps s (State.rollBack s c) := by
  unfold State.rollBack
  repeat' (first
      | extract_lets | with_reducible apply Keeps.refl | exact rfl | with_reducible apply Keeps.step (State.replyTo_keeps ..)
      | with_reducible apply Keeps.step (State.freeRegion_keeps ..)
      | with_reducible apply Keeps.stepFrame (State.restoreGroups_frame ..)
      | with_reducible apply Keeps.step (State.endPublish_keeps ..) | with_reducible apply Keeps.step (State.reply_keeps ..)
      | with_reducible apply Keeps.stepFrame (State.modPort_frame ..)
      | with_reducible apply Keeps.step (State.unsnap_keeps ..) | with_reducible apply Keeps.step (State.settle_keeps ..)
      | with_reducible apply Keeps.step (State.rerouted_keeps ..)
      | with_reducible apply Keeps.stepFrame (State.setRegion_frame ..)
      | with_reducible apply Keeps.step (State.refuseHeld_keeps ..) | with_reducible apply Keeps.ite | split)

theorem State.keepWork_keeps (s : State) (c : Cmd) :
    Keeps s (State.keepWork s c) := by
  unfold State.keepWork
  repeat' (first
      | extract_lets | with_reducible apply Keeps.refl | exact rfl
      | with_reducible apply Keeps.step (State.endStage_keeps ..)
      | with_reducible apply Keeps.stepFrame (State.takeFree_frame ..)
      | with_reducible apply Keeps.step (State.reply_keeps ..) | with_reducible apply Keeps.ite)

theorem State.cmdOutcome_keeps (s : State) (id : Nat) :
    Keeps s (State.cmdOutcome s id) := by
  unfold State.cmdOutcome
  repeat' (first
      | extract_lets | with_reducible apply Keeps.refl | with_reducible apply Keeps.step (State.rollBack_keeps ..)
      | with_reducible apply Keeps.step (State.keepWork_keeps ..) | with_reducible apply Keeps.ite | split)

theorem State.outcomes_keeps (s : State) (i : Nat) :
    Keeps s (State.outcomes s i) := by
  unfold State.outcomes
  repeat' (first
      | extract_lets | with_reducible apply Keeps.refl | with_reducible apply Keeps.step (State.fwAbandon_keeps ..)
      | with_reducible apply Keeps.step (State.cmdOutcome_keeps ..) | with_reducible apply Keeps.eachTrans
      | with_reducible apply Keeps.ite | intro _)

theorem State.crash_keeps (s : State) (i : Nat) (cause : Nat) :
    Keeps s (State.crash s i cause) := by
  unfold State.crash
  repeat' (first
      | extract_lets | with_reducible apply Keeps.refl | with_reducible apply Keeps.step (State.outcomes_keeps ..)
      | with_reducible apply Keeps.step (State.restartProc_keeps ..))

theorem State.crashLoop_keeps (s : State) (i : Nat) (cause : Nat) :
    Keeps s (State.crashLoop s i cause) := by
  unfold State.crashLoop
  repeat' (first
      | extract_lets | with_reducible apply Keeps.refl | with_reducible apply Keeps.step (State.fwAbandon_keeps ..)
      | with_reducible apply Keeps.step (State.revert_keeps ..) | with_reducible apply Keeps.step (State.outcomes_keeps ..)
      | with_reducible apply Keeps.step (State.crash_keeps ..) | with_reducible apply Keeps.step (State.goFatal_keeps ..)
      | with_reducible apply Keeps.eachTrans | with_reducible apply Keeps.ite | intro _)

theorem State.heartbeat_keeps (s : State) (i : Nat) (cause : Nat) (loop : Bool) :
    Keeps s (State.heartbeat s i cause loop) := by
  unfold State.heartbeat
  repeat' (first
      | extract_lets | with_reducible apply Keeps.refl | with_reducible apply Keeps.step (State.crashLoop_keeps ..)
      | with_reducible apply Keeps.step (State.crash_keeps ..) | with_reducible apply Keeps.ite)

theorem State.beginSwitch_keeps (s : State) :
    Keeps s (State.beginSwitch s) := by
  unfold State.beginSwitch
  repeat' (first
      | extract_lets | with_reducible apply Keeps.refl | exact rfl
      | with_reducible apply Keeps.stepFrame (State.modFw_frame ..) | with_reducible apply Keeps.step (State.crash_keeps ..)
      | with_reducible apply Keeps.eachTrans | with_reducible apply Keeps.ite | intro _)

theorem State.restarted_keeps (s : State) (i : Nat) :
    Keeps s (State.restarted s i) := by
  unfold State.restarted
  repeat' (first
      | extract_lets | with_reducible apply Keeps.refl | exact rfl
      | with_reducible apply Keeps.stepFrame (State.modProc_frame ..)
      | with_reducible apply Keeps.stepFrame (State.fwReview_frame ..)
      | with_reducible apply Keeps.step (State.rederate_keeps ..)
      | with_reducible apply Keeps.stepFrame (State.modPmc_frame ..)
      | with_reducible apply Keeps.step (State.settleAborts_keeps ..)
      | with_reducible apply Keeps.step (State.settleRuns_keeps ..)
      | with_reducible apply Keeps.step (State.releaseParked_keeps ..) | with_reducible apply Keeps.ite)

theorem State.submitPacket_keeps (s : State) (opcode : Nat) (via : Via) (p : Packet) :
    Keeps s (State.submitPacket s opcode via p) := by
  unfold State.submitPacket
  repeat' (first
      | extract_lets | with_reducible apply Keeps.refl | with_reducible apply Keeps.step (State.submitUndefined_keeps ..)
      | with_reducible apply Keeps.step (State.submit_keeps ..)
      | (with_reducible apply Keeps.step; (apply specOf_start_keeps; assumption)) | split | intro _)

theorem State.slotWrite_keeps (s : State) (fn : Fin 256) (slot : Nat) (at_ : Nat) (l : List Byte) :
    Keeps s (State.slotWrite s fn slot at_ l) := by
  unfold State.slotWrite
  repeat' (first
      | extract_lets | with_reducible apply Keeps.refl | with_reducible apply Keeps.step (State.aerUnc_keeps ..)
      | with_reducible apply Keeps.step (State.submitPacket_keeps ..)
      | (with_reducible apply Keeps.step (State.modFn_keeps _ _ _ (by intro g; first | rfl | exact Ring.commit_held _ | (unfold Fn.writeAer; dsimp only; (repeat' split) <;> rfl) | (unfold Fn.logUnc; dsimp only; done) | (unfold Fn.logUnc; dsimp only; split <;> rfl) | ((repeat' split) <;> first | rfl | exact Ring.commit_held _))))
      | with_reducible apply Keeps.ite)

theorem State.apertureBytes_keeps (s : State) (fn : Fin 256) (y0 : Nat) (y1 : Nat) (y2 : List Byte) :
    Keeps s (State.apertureBytes s fn y0 y1 y2) := by
  induction y0 generalizing s fn y1 y2 with
  | zero => (unfold State.apertureBytes; repeat' (first
       | extract_lets
       | with_reducible apply Keeps.refl
       | with_reducible apply Keeps.step (State.slotWrite_keeps ..)
       | with_reducible apply Keeps.step (ih ..)
       | with_reducible apply Keeps.ite))
  | succ y0 ih =>
    (unfold State.apertureBytes
     repeat' (first
         | extract_lets | with_reducible apply Keeps.refl | with_reducible apply Keeps.step (State.slotWrite_keeps ..)
         | with_reducible apply Keeps.step (ih ..) | with_reducible apply Keeps.ite))

theorem State.strayCmd_keeps (s : State) (port : Nat) (h : Hdr) :
    Keeps s (State.strayCmd s port h) := by
  unfold State.strayCmd
  repeat' (first
      | extract_lets | with_reducible apply Keeps.refl | exact rfl
      | with_reducible apply Keeps.stepFrame (State.owe_frame ..) | with_reducible apply Keeps.step (State.tagReuse_keeps ..)
      | with_reducible apply Keeps.stepFrame (State.fixed_frame ..)
      | with_reducible apply Keeps.stepFrame (State.modPort_frame ..)
      | with_reducible apply Keeps.step (State.refuseLink_keeps ..) | with_reducible apply Keeps.ite)

theorem State.cmdMessage_keeps (s : State) (port : Nat) (h : Hdr) (packet : BitVec 512) :
    Keeps s (State.cmdMessage s port h packet) := by
  unfold State.cmdMessage
  repeat' (first
      | extract_lets | with_reducible apply Keeps.refl | exact rfl
      | with_reducible apply Keeps.step (State.strayCmd_keeps ..)
      | (with_reducible apply Keeps.step; (with_reducible apply State.arrive_keeps; with_reducible assumption))
      | with_reducible apply Keeps.step (State.refuse_keeps ..)
      | with_reducible apply Keeps.step (State.countRefusal_keeps ..)
      | with_reducible apply Keeps.step (State.cmdHop_keeps ..) | with_reducible apply Keeps.stepFrame (State.owe_frame ..)
      | with_reducible apply Keeps.step (State.tagReuse_keeps ..)
      | with_reducible apply Keeps.step (State.submitPacket_keeps ..) | with_reducible apply Keeps.ite | split)

theorem State.message_keeps (s : State) (port : Nat) (m : List (BitVec 256)) :
    Keeps s (State.message s port m) := by
  unfold State.message
  repeat' (first
      | extract_lets | with_reducible apply Keeps.refl | exact rfl
      | with_reducible apply Keeps.step (State.linkRequest_keeps ..)
      | with_reducible apply Keeps.step (State.cmdMessage_keeps ..)
      | with_reducible apply Keeps.step (State.cplData_keeps ..) | with_reducible apply Keeps.step (State.peerOk_keeps ..)
      | with_reducible apply Keeps.step (State.peerErr_keeps ..) | with_reducible apply Keeps.step (State.peerRetry_keeps ..)
      | with_reducible apply Keeps.stepFrame (State.reservedResponse_frame ..)
      | with_reducible apply Keeps.step (State.respond_keeps ..) | with_reducible apply Keeps.ite | split | intro _)

theorem State.restoreFlashDie_keeps (s : State) (i : Nat) :
    Keeps s (State.restoreFlashDie s i) := by
  unfold State.restoreFlashDie
  repeat' (first
      | extract_lets | with_reducible apply Keeps.refl | exact rfl
      | with_reducible apply Keeps.stepFrame (State.modFls_frame ..) | with_reducible apply Keeps.step (State.log_keeps ..)
      | with_reducible apply Keeps.stepFrame (State.settleSpare_frame ..))

theorem State.afterTest_keeps (s : State) (u : Nat × Nat) (type : Nat) (pass : Bool) :
    Keeps s (State.afterTest s u type pass) := by
  unfold State.afterTest
  repeat' (first
      | extract_lets | with_reducible apply Keeps.refl | exact rfl | with_reducible apply Keeps.step (State.log_keeps ..)
      | with_reducible apply Keeps.stepFrame (State.modEngine_frame ..)
      | with_reducible apply Keeps.step (State.engineFails_keeps ..)
      | with_reducible apply Keeps.step (State.unfreeze_keeps ..) | with_reducible apply Keeps.step (State.retirePc_keeps ..)
      | with_reducible apply Keeps.step (State.restoreFlashDie_keeps ..)
      | with_reducible apply Keeps.step (State.loseFlashDie_keeps ..) | with_reducible apply Keeps.ite | split)

theorem State.testDone_keeps (s : State) (u : Nat × Nat) (r : TestResult) :
    Keeps s (State.testDone s u r) := by
  unfold State.testDone
  repeat' (first
      | extract_lets | with_reducible apply Keeps.refl | exact rfl
      | with_reducible apply Keeps.stepFrame (State.modPort_frame ..)
      | with_reducible apply Keeps.step (State.afterTest_keeps ..)
      | (with_reducible apply Keeps.step (State.modCmd_keeps _ _ _ (by intro g; first | rfl | (dsimp only [Cmd.fill]; done) | (split; rfl; (dsimp only [Cmd.arrived]; done)) | (dsimp only; split <;> rfl))))
      | with_reducible apply Keeps.step (State.reply_keeps ..) | with_reducible apply Keeps.ite | split)

end Sys2Proof.Machine
end

