-- ==== Sys2Proof/Laws/Command.lean ====
section
/-!
SUPPORT. The command unit: what counting and interrupts leave of a function, when a command starts, what a reply changes, and
the conditions that a start has checked.
-/

namespace Sys2Proof.Machine

set_option Elab.async false

/-! ## What counting leaves of a function -/

/-- Every function is as before, but for its pending interrupts. -/
structure Quiet (s t : State) : Prop where
  same : ∀ n, t.fn n = { s.fn n with pba := (t.fn n).pba }

theorem Quiet.refl (s : State) : Quiet s s := ⟨fun _ => rfl⟩

theorem Quiet.trans {s t u : State} (h : Quiet s t) (k : Quiet t u) : Quiet s u :=
  ⟨fun n => by rw [k.same n, h.same n]⟩

theorem Quiet.after {s t u : State} (k : Quiet t u) (h : Quiet s t) : Quiet s u := h.trans k

theorem Quiet.ofFns {s t : State} (h : t.fns = s.fns) : Quiet s t := ⟨fun n => by
  have : t.fn n = s.fn n := by unfold State.fn; rw [h]
  rw [this]⟩

theorem Quiet.ring {s t : State} (h : Quiet s t) (n : Nat) : (t.fn n).ring = (s.fn n).ring := by rw [h.same n]

theorem Quiet.each {α : Type} (xs : List α) (f : State → α → State) (h : ∀ s a, Quiet s (f s a)) (s : State) :
    Quiet s (s.each xs f) := by
  unfold State.each
  induction xs generalizing s with
  | nil => exact Quiet.refl s
  | cons a xs ih => exact (h s a).trans (ih (f s a))

theorem State.raise_quiet (s : State) (fn vec : Nat) : Quiet s (s.raise fn vec) := by
  constructor
  intro n
  unfold State.raise
  dsimp only
  split
  · rfl
  · split
    · rfl
    · rw [State.fn_modFn]
      split
      · rename_i h; subst h; rfl
      · rfl

theorem State.overflow_quiet (s : State) (inst k : Nat) : Quiet s (s.overflow inst k) := by
  unfold State.overflow
  dsimp only
  split
  · exact (State.raise_quiet ..).after (Quiet.ofFns rfl)
  · exact Quiet.ofFns rfl

theorem State.count_quiet (s : State) (blk inst code : Nat) (a : Attrs) (n : Nat) : Quiet s (s.count blk inst code a n) := by
  unfold State.count
  split
  · exact Quiet.refl s
  · refine Quiet.each _ _ (fun s k => ?_) s
    dsimp only
    split
    · split
      · exact (State.overflow_quiet ..).after (Quiet.ofFns rfl)
      · exact Quiet.ofFns rfl
    · exact Quiet.refl s

/-- Where no programmable counter counts, counting changes nothing. -/
theorem State.count_none (s : State) (blk inst code : Nat) (a : Attrs) (n : Nat) (h : s.cnt.p = []) :
    s.count blk inst code a n = s := by
  unfold State.count
  rw [h]
  rfl

/-! ## Acceptance -/

theorem State.admission_quiet (s : State) (spec : CmdSpec) (via : Via) (p : Packet) : Quiet s (s.admission spec via p).2 := by
  unfold State.admission
  exact (State.count_quiet ..).after (Quiet.ofFns rfl)

/-- The command that an acceptance makes. -/
theorem State.admission_cmd (s : State) (spec : CmdSpec) (via : Via) (p : Packet) :
    (s.admission spec via p).1 =
      { id := s.nextId, via, opcode := spec.opcode, p, acct := acctOf (s.viaFn via) p, st := .parked
        fn := if pCtx p = 0 then s.viaFn via else (s.ctx (pCtx p)).owner, proc := (spec.handler s p).proc } := rfl

theorem State.admission_cmds (s : State) (spec : CmdSpec) (via : Via) (p : Packet) :
    (s.admission spec via p).2.cmds = s.cmds ++ [(s.admission spec via p).1] := by
  have h := (State.count_frame { s.takeId.2 with cmds := s.takeId.2.cmds ++ [(s.admission spec via p).1] } 0x01 0 0x01
    { ctx := some (pCtx p) } 1).same .cmds rfl
  exact h

theorem State.admission_nextId (s : State) (spec : CmdSpec) (via : Via) (p : Packet) :
    (s.admission spec via p).2.nextId = s.nextId + 1 := by
  have h := (State.count_frame { s.takeId.2 with cmds := s.takeId.2.cmds ++ [(s.admission spec via p).1] } 0x01 0 0x01
    { ctx := some (pCtx p) } 1).same .nextId rfl
  exact h

/-- A started command runs on the state that `begun` names. -/
theorem State.submit_begun {s u : State} {c : Cmd} {spec : CmdSpec} {via : Via} {p : Packet}
    (h : s.begun spec via p = some (u, c)) : s.submit spec via p = spec.start u c := by
  unfold State.begun State.atUnit at h
  unfold State.submit
  split at h
  · exact absurd h (by simp)
  · rename_i t ht
    split at ht
    · rename_i hr
      rw [Option.map_eq_some_iff] at ht
      obtain ⟨v, hv, rfl⟩ := ht
      rw [if_pos hr, hv]
      dsimp only at h ⊢
      generalize v.cmdHop p = t at h ⊢
      split at h
      · rename_i hc
        simp only [Bool.and_eq_true, decide_eq_true_eq, Bool.or_eq_true, State.credit, State.allows, State.badField, beq_iff_eq,
          Bool.not_eq_true', Option.isNone_iff_eq_none] at hc
        obtain ⟨⟨⟨⟨⟨⟨hu, hv⟩, ha⟩, ⟨hk, hs⟩, hf⟩, h5⟩, hm⟩, hx⟩ := hc
        injection h with h
        injection h with h1 h2
        subst h1; subst h2
        unfold State.accept
        dsimp only
        rw [if_neg (by simp [hu]), if_neg (by simp [hv]), if_neg (by simp [ha]), if_neg (by simp at hf ⊢; exact ⟨⟨hk, hs⟩, hf⟩), h5]
        dsimp only
        unfold State.tryStart
        rw [if_pos hm, if_neg]
        · have : (t.admission spec via p).1.p = p := rfl
          rw [this]
          simp only [Bool.and_eq_true, decide_eq_true_eq, not_and, Bool.not_eq_true, Bool.not_eq_false']
          intro hne
          rcases hx with hx | hx
          · exact absurd hx hne
          · simpa using hx
      · exact absurd h (by simp)
    · exact absurd ht (by simp)

theorem State.arrive_quiet {s t : State} {via : Via} (h : s.arrive via = some t) : Quiet s t := by
  unfold State.arrive at h
  split at h
  · injection h with h; subst h; exact Quiet.refl _
  · dsimp only at h
    split at h
    · exact absurd h (by simp)
    · injection h with h
      subst h
      refine Quiet.trans (Quiet.ofFns ?_) (State.count_quiet ..)
      rename_i port ctx tag _
      have a := ((State.fixed_frame s 0x08 (port.val / 4) 2 1).mono (m := [.cnt, .ports]) rfl).trans
        ((State.owe_frame (s.fixed 0x08 (port.val / 4) 2 1) port.val 2 3).mono rfl)
      have b := a.same .fns rfl
      simp only [Piece.same] at b
      exact b

theorem State.crossHub_counted (s : State) (hub lines : Nat) (tangent : Bool) (a : Attrs) : Counted s (s.crossHub hub lines tangent a) := by
  refine ⟨(?_ : Quiet s (s.crossHub hub lines tangent a)).same, (State.crossHub_frame ..).mono rfl⟩
  unfold State.crossHub
  dsimp only
  have h : Quiet s (s.fixed 0x09 hub 2 (1 + (64 * lines + 255) / 256)) := Quiet.ofFns ((State.fixed_frame ..).same .fns rfl)
  split
  · exact (h.trans (State.count_quiet ..)).trans (State.count_quiet ..)
  · exact h.trans (State.count_quiet ..)

/-- The way to the command unit is counted. -/
theorem State.cmdHop_quiet (s : State) (p : Packet) : Quiet s (s.cmdHop p) := by
  unfold State.cmdHop
  exact ⟨(State.crossHub_counted ..).fns⟩

/-- An arrival leaves a port's state as it was. -/
theorem State.arrive_port {s t : State} {via : Via} (h : s.arrive via = some t) (n : Nat) :
    (t.port n).st = (s.port n).st := by
  unfold State.arrive at h
  split at h
  · injection h with h; subst h; rfl
  · rename_i port ctx tag
    dsimp only at h
    split at h
    · exact absurd h (by simp)
    · injection h with h
      subst h
      rw [Frame.port (State.count_frame ..) rfl n, State.port_modPort]
      have e : ∀ m, (((s.fixed 0x08 (port.val / 4) 2 1).owe port.val 2 3).port m).st = (s.port m).st := by
        intro m
        unfold State.owe
        split
        · rw [State.port_modPort, Frame.port (State.fixed_frame ..) rfl]
          split
          · rename_i hm; subst hm; rfl
          · rw [Frame.port (State.fixed_frame ..) rfl]
        · rw [Frame.port (State.fixed_frame ..) rfl]
      split
      · rename_i hn; subst hn; exact e _
      · exact e n

/-- What a start has checked, and the state and the command it starts on. -/
structure Begun (s u : State) (spec : CmdSpec) (via : Via) (p : Packet) (c : Cmd) : Prop where
  reaches : s.reaches via = true
  cmd     : c = { id := s.nextId, via, opcode := spec.opcode, p, fn := c.fn, acct := c.acct, st := .running, proc := c.proc }
  frame   : Frame [.out, .nextId, .fns, .cmds, .cnt, .ports] s u
  quiet   : Quiet s u
  live    : ∀ port ctx tag, via = .link port ctx tag → (u.port port.val).live = true

theorem State.begun_facts {s u : State} {c : Cmd} {spec : CmdSpec} {via : Via} {p : Packet}
    (h : s.begun spec via p = some (u, c)) : Begun s u spec via p c := by
  unfold State.begun State.atUnit at h
  split at h
  · exact absurd h (by simp)
  · rename_i t ht
    split at ht
    · rename_i hr
      rw [Option.map_eq_some_iff] at ht
      obtain ⟨v, ht, rfl⟩ := ht
      have hop := State.cmdHop_frame v p
      have hq := State.cmdHop_quiet v p
      generalize v.cmdHop p = t at h hop hq
      dsimp only at h
      split at h
      · injection h with h
        injection h with h1 h2
        subst h1; subst h2
        have hf := (State.arrive_frame ht).mono (m := [.out, .nextId, .fns, .cmds, .cnt, .ports]) rfl
        have hp := hf.trans ((hop.mono rfl).trans ((State.admission_frame t spec via p).mono rfl))
        have hid : t.nextId = s.nextId := (hop.same .nextId rfl).trans ((State.arrive_frame ht).same .nextId rfl)
        refine ⟨hr, ?_, hp.trans ((State.modCmd_frame ..).mono rfl), ?_, ?_⟩
        · rw [State.admission_cmd, hid]
        · exact (State.arrive_quiet ht).trans (hq.trans ((State.admission_quiet ..).trans (Quiet.ofFns rfl)))
        · intro port ctx tag hv
          subst hv
          have e : ((((t.admission spec (.link port ctx tag) p).2.modCmd (t.admission spec (.link port ctx tag) p).1.id
              fun c => { c with st := .running }).port port.val).st) = (s.port port.val).st := by
            rw [← State.arrive_port ht port.val]
            have a := Frame.port ((State.admission_frame t spec (.link port ctx tag) p).mono (m := [.out, .nextId, .fns, .cmds, .cnt]) rfl) rfl
              port.val
            have b := Frame.port (State.modCmd_frame (t.admission spec (.link port ctx tag) p).2 (t.admission spec (.link port ctx tag) p).1.id
              fun c => { c with st := .running }) rfl port.val
            rw [b, a, Frame.port hop rfl]
          unfold Port.live
          rw [e]
          unfold State.reaches at hr
          simp only [Bool.and_eq_true] at hr
          simp [hr.2]
      · exact absurd h (by simp)
    · exact absurd ht (by simp)

/-! ## Replies -/

/-- A delivery hands the reply to its path. -/
theorem State.deliver_handed (s : State) (via : Via) (r : Reply)
    (hp : ∀ port ctx tag, via = .link port ctx tag → (s.port port.val).live = true) : Handed s (s.deliver via r) via r := by
  unfold State.deliver State.deliverLen
  dsimp only
  have hc := State.crossHub_counted s 0 0 false { ctx := some (r.context.toNat % 4096) }
  refine ⟨_, hc, ?_⟩
  unfold Joined
  cases via with
  | aperture fn =>
    refine ⟨rfl, fun n => ?_⟩
    dsimp only
    rw [State.fn_modFn]
    by_cases hn : n = fn.val
    · rw [if_pos hn, if_pos hn, hn]
    · rw [if_neg hn, if_neg hn]
  | link port ctx tag =>
    have h := hp port ctx tag rfl
    rw [← Frame.port hc.frame rfl port.val] at h
    dsimp only
    generalize s.crossHub 0 0 false { ctx := some (r.context.toNat % 4096) } = v at h ⊢
    have e : ∀ m : TxMsg, m.vc = 2 → ∀ n, ((v.sendLast port.val tag.toNat m).port n) =
        if n = port.val then { v.port n with txOrd := (v.port n).txOrd ++ [{ m with frees := some tag.toNat }] } else v.port n := by
      intro m hm n
      unfold State.sendLast State.sendMsg
      rw [if_pos h, if_pos h, State.port_modPort]
      by_cases hn : n = port.val
      · subst hn; rw [if_pos rfl, if_pos rfl]; simp [hm]
      · rw [if_neg hn, if_neg hn]
    have l : ∀ m : TxMsg, m.vc = 2 → ((v.sendLast port.val tag.toNat m).port port.val).live = true := by
      intro m hm
      rw [e m hm, if_pos rfl]
      exact h
    rw [if_pos (l _ rfl)]
    exact ⟨(State.sendLast_frame ..).same .fns rfl, _, rfl, rfl, rfl, rfl, e _ rfl⟩

/-- A delivery to an open path leaves the outstanding commands as they are. -/
theorem State.deliver_cmds (s : State) (via : Via) (r : Reply)
    (hp : ∀ port ctx tag, via = .link port ctx tag → (s.port port.val).live = true) : (s.deliver via r).cmds = s.cmds := by
  have hc := (State.crossHub_counted s 0 0 false { ctx := some (r.context.toNat % 4096) }).frame
  unfold State.deliver State.deliverLen
  dsimp only
  cases via with
  | aperture fn => exact hc.same .cmds rfl
  | link port ctx tag =>
    have h := hp port ctx tag rfl
    rw [← Frame.port hc rfl port.val] at h
    have hq := hc.same .cmds rfl
    dsimp only
    generalize s.crossHub 0 0 false { ctx := some (r.context.toNat % 4096) } = v at h hq ⊢
    rw [if_pos]
    · exact ((State.sendLast_frame ..).same .cmds rfl).trans hq
    · unfold State.sendLast State.sendMsg
      rw [if_pos h, if_pos h, State.port_modPort, if_pos rfl]
      exact h

/-- A reply answers its command. -/
theorem State.replyAs_answered (s : State) (c : Cmd) (context : BitVec 16) (status result detail : Nat) (hl : c.lost = false)
    (hp : ∀ port ctx tag, c.via = .link port ctx tag → (s.port port.val).live = true) :
    Answered s (s.replyAs c context status result detail) c context status result detail := by
  have he : s.replyAs c context status result detail =
      (((s.form c.opcode c.p context status result detail (pIrq c.p && !viaLink c.via) (some c.id)).2.modCmd c.id
        fun c => { c with st := .replied }).deliver c.via
        (s.form c.opcode c.p context status result detail (pIrq c.p && !viaLink c.via) (some c.id)).1) := by
    unfold State.replyAs
    rw [hl]
    rfl
  refine ⟨?_, ?_, (State.replyAs_frame ..).mono rfl⟩
  · rw [he]
    refine (State.deliver_cmds _ _ _ ?_).trans rfl
    exact fun port ctx tag hv => hp port ctx tag hv
  rw [he]
  refine ⟨(s.form c.opcode c.p context status result detail (pIrq c.p && !viaLink c.via) (some c.id)).1,
    ⟨rfl, rfl, rfl, rfl, rfl, rfl⟩, rfl, ?_⟩
  obtain ⟨v, hv, hj⟩ := State.deliver_handed ((s.form c.opcode c.p context status result detail (pIrq c.p && !viaLink c.via)
    (some c.id)).2.modCmd c.id fun c => { c with st := .replied }) c.via
    (s.form c.opcode c.p context status result detail (pIrq c.p && !viaLink c.via) (some c.id)).1
    (fun port ctx tag hv => hp port ctx tag hv)
  refine ⟨{ v with cmds := s.cmds, fresh := s.fresh }, ⟨hv.fns, ⟨?_⟩⟩, hj⟩
  intro f hf
  have a := hv.frame.same f hf
  cases f <;> first | rfl | exact a

theorem State.reply_answered (s : State) (c : Cmd) (status result detail : Nat) (hl : c.lost = false)
    (hp : ∀ port ctx tag, c.via = .link port ctx tag → (s.port port.val).live = true) :
    Answered s (s.reply c status result detail) c c.p.context status result detail :=
  State.replyAs_answered s c c.p.context status result detail hl hp

/-- The answer of a command that has started, from any state with the ports of its start. -/
theorem Begun.answered {s u : State} {spec : CmdSpec} {via : Via} {p : Packet} {c : Cmd} (h : Begun s u spec via p c) (v : State)
    (hv : v.ports = u.ports) (status result detail : Nat) : Answered v (v.reply c status result detail) c p.context status result detail := by
  have hc := h.cmd
  have a := State.reply_answered v c status result detail (by rw [hc]) fun port ctx tag hl => by
    have : c.via = via := by rw [hc]
    have e : v.port port.val = u.port port.val := by unfold State.port; rw [hv]
    rw [e]
    exact h.live port ctx tag (this ▸ hl)
  have : c.p = p := by rw [hc]
  rw [this] at a
  exact a

end Sys2Proof.Machine
end

