-- ==== Sys2Proof/Laws/Drain.lean ====
section
/-!
SUPPORT. What a device choice and the scheduler of a write buffer answer where there is one candidate (R142, R143).
-/

namespace Sys2Proof.Machine

set_option Elab.async false

/-- A choice of one thing takes it. -/
theorem State.pickOf_one {α : Type} (s : State) (a : α) : (s.pickOf [a]).1 = some a := by
  simp [State.pickOf, Nat.mod_one]

/-- The one entry that a stack may drain stands alone at its scheduler. -/
theorem State.contenders_one (s : State) (k : Nat) (e : WEntry)
    (h : (s.wbuf.filter fun e => e.stack == k && s.mayDrain e) = [e]) : (s.contenders k (s.pcOf e.line).2) = ([e], s) := by
  have hc : (s.wbuf.filter fun w => w.stack == k && s.mayDrain w && (s.pcOf w.line).2 == (s.pcOf e.line).2) = [e] := by
    have : ∀ l : List WEntry, (l.filter fun w => w.stack == k && s.mayDrain w && (s.pcOf w.line).2 == (s.pcOf e.line).2) =
        (l.filter fun w => w.stack == k && s.mayDrain w).filter fun w => (s.pcOf w.line).2 == (s.pcOf e.line).2 := by
      intro l; rw [List.filter_filter]; exact List.filter_congr fun _ _ => Bool.and_comm _ _
    rw [this, h]; simp
  unfold State.contenders
  simp only [hc]
  by_cases m : e.mover <;> simp [m]

/-- The one entry that a stack may drain is the next that drains. -/
theorem State.nextDrain_one (s : State) (k : Nat) (e : WEntry)
    (h : (s.wbuf.filter fun e => e.stack == k && s.mayDrain e) = [e]) : (s.nextDrain k).1 = some e := by
  have hp : ((s.wbuf.filter fun e => e.stack == k && s.mayDrain e).map fun e => (s.pcOf e.line).2).eraseDups = [(s.pcOf e.line).2] := by
    rw [h]; rfl
  have hc := State.contenders_one (s.pickOf [(s.pcOf e.line).2]).2 k e h
  change State.contenders _ k (s.pcOf e.line).2 = _ at hc
  unfold State.nextDrain
  simp only [hp, State.pickOf_one, hc]
  simp [State.pickOf_one]

end Sys2Proof.Machine
end

