-- ==== Sys2Proof/Tests/Slice0.lean ====
section
/-!
SUPPORT. Tests: for each statement with hypotheses concrete states and operands that meet them, clause by clause (`witness_…`); an
ill-formed command for each check of well-formedness, which the check and the machine refuse; and single commands on small states,
whose expected results are worked out from the rules named.
-/

namespace Sys2Proof.Tests

set_option Elab.async false

open Sys2Proof Sys2Proof.Machine

/-! ## Small states and packets -/

/-- Parameter bytes from offset, length and value. -/
def params (l : List (Nat × Nat × Nat)) : BitVec 448 :=
  BitVec.ofNat 448 ((l.map fun e => (e.2.2 % 2 ^ (8 * e.2.1)) <<< (8 * (e.1 - 8))).sum)

/-- A packet of version 1.0. -/
def pkt (ctx : Nat) (l : List (Nat × Nat × Nat)) : Packet :=
  { version := 0x10, flags := 0, context := BitVec.ofNat 16 ctx, tag := 0x77, params := params l }

/-- The PF's aperture, and a CMD of context 1 on port 0. -/
def pf : Via := .aperture 0
def lk : Via := .link 0 1 5

/-- A device that runs: the PF with its ring, one VF, context 1 of the PF bound to port 0, port 0 ACTIVE. -/
def up : State :=
  { State.reset with
    pmc := { perst := false, stage := 7, ready := true, smbAddr := 2 }
    hep := { cfgReady := true, vfEnable := true, numVfs := 255, mps := 2, mrrs := 5 }
    fns := [(0, { maxCtx := 0xFFF, hbmQuota := 0x3FFFFFF, tierQuota := 0xFFFFFFFF, bme := true, mse := true
                  ring := { ctrl := 0x10C, ctrlSh := 0x10C, base := 5, baseSh := 5 } }),
            (1, { maxCtx := 2, hbmQuota := 16, tierQuota := 16, bme := true, mse := true })]
    ctxs := [(1, { st := .active, key := 1, bind := 1 })]
    nextKey := 2
    dirs := [(0, { cacheFrames := 100 }), (1, { cacheFrames := 100 })]
    ports := [(0, { st := .active, lanes := 15, laneOk := 15, version := 0x10, txCred := [(0, 100), (1, 100), (2, 100), (3, 100)]
                    txCredInit := [(0, 200), (1, 200), (2, 200), (3, 200)] })] }

/-- A command starts, and its state and record meet a condition. -/
def begins (s : State) (spec : CmdSpec) (via : Via) (p : Packet) (f : State → Cmd → Bool) : Bool :=
  match s.begun spec via p with
  | some (u, c) => f u c
  | none => false

/-- A command answers a next state that meets a condition. -/
def gives (i : Instr) (s : State) (f : State → Bool) : Bool :=
  match exec i s with
  | .next t => f t
  | _ => false

/-- The replies that wait for the PF's ring. -/
def State.replies (s : State) : List Reply := (s.fn 0).ring.held

/-- Every one of a list of conditions holds. -/
def allOf (l : List Bool) : Bool := l.all id

/-- No region changes its route, as a condition (R44). -/
def settled (s : State) : Bool := s.regions.all fun e => e.2.moving.isNone
theorem settled_still (s : State) (h : settled s = true) : s.still := fun e he => by
  simpa using List.all_eq_true.mp h e he

/-- A held refusal. -/
def refusal : Reply := { opcode := 0, status := 1, context := 0, tag := 0, result := 0, detail := 0, tstamp := 0, irq := false, cmd := none }

/-- A request header. -/
def hdr (la len tag : Nat) : Hdr :=
  { vc := 0, ctx := 1, cls := 0, ro := false, nodata := false, tag := BitVec.ofNat 12 tag, la := BitVec.ofNat 56 la
    len := BitVec.ofNat 6 len, atop := 0, awidth := 0, a := 0, b := 0 }

/-- A flit of the SEQ and slot codes given, returning 63 credits of VC1, which arrives as it was sent. -/
def flit (seq code : Nat) : Flit :=
  { seq := BitVec.ofNat 12 seq, ackValid := false, ack := 0, craVc := 1, craCnt := 63, crbVc := 0, crbCnt := 0
    slotcode := BitVec.ofNat 14 code, payload := 0 }

/-- A region of context 1, mapped by its window 0: pinned, uncompressed, or as given. -/
def region (attr : BitVec 32) (pages : Nat) : Region := { ctx := 1, attr, pages, zaPage := if attrTiered attr then 0 else 2 ^ 32, gen := 1 }
def withRegion (attr : BitVec 32) (pages : Nat) : State :=
  { up with
    regions := [(3, region attr pages)]
    ctxs := [(1, { st := .active, key := 1, bind := 1, gen := 2
                   windows := [(0, { valid := true, rd := true, wr := true, atom := true, own := true, krn := true, laPage := 0, pages
                                     zaPage := (region attr pages).zaPage, keySlot := 1, gen := 1, region := 3 })] })] }


/-! ## Well-formed and ill-formed commands -/

theorem illformed_wr : (Instr.wr 0 (hdr 0 1 3) [0]).wellFormed = false ∧ (Instr.wr 0 (hdr 0 0 3) [0]).wellFormed = true := by decide
theorem illformed_acc : (Instr.acc 0 (hdr 0 63 3) (List.replicate 63 0)).wellFormed = false := by decide
theorem illformed_slot : (Instr.apertureSlotWrite 0 0 []).wellFormed = false := by decide
theorem illformed_cplData :
    (Instr.cplData 0 { vc := 1, ctx := 1, tag := 0, status := 0, lineOffset := 0, dkind := 0, lines := 1, last := true, retryAfter := 0
                       value := 0 } [0]).wellFormed = false ∧
    (Instr.cplData 0 { vc := 1, ctx := 1, tag := 0, status := 0, lineOffset := 0, dkind := 1, lines := 0, last := true, retryAfter := 0
                       value := 0 } [0]).wellFormed = false := by decide
theorem illformed_opcode : (Instr.undefinedOpcode pf 0x0103 (pkt 0 [])).wellFormed = false ∧
    (Instr.undefinedOpcode pf 0x0107 (pkt 0 [])).wellFormed = true := by decide
theorem illformed_codes : (Instr.reservedRequest 0 8 (hdr 0 0 0)).wellFormed = false ∧
    (Instr.reservedResponse 0 0x23 { vc := 1, ctx := 1, tag := 0, status := 0, lineOffset := 0, dkind := 0, lines := 0, last := true
                                     retryAfter := 0, value := 0 }).wellFormed = false ∧
    (Instr.flitReservedRx 0 ⟨3, flit 0 0⟩).wellFormed = false := by decide
/-- The machine faults on each. -/
theorem illformed_faults : ([Instr.wr 0 (hdr 0 1 3) [0], .acc 0 (hdr 0 63 3) [], .apertureSlotWrite 0 0 [],
    .undefinedOpcode pf 0x0103 (pkt 0 []), .reservedRequest 0 8 (hdr 0 0 0), .flitReservedRx 0 ⟨3, flit 0 0⟩].all fun i =>
      match exec i up with | .fault .malformedCommand => true | _ => false) = true := by decide +kernel

/-! ## The step and the whole machine -/

theorem witness_StepRunsFront : ({ up with pending := [.qosCommit, .pfFlr] } : State).pending = .qosCommit :: [.pfFlr] ∧ up.pending = [] := by
  decide
theorem witness_WellFormedRuns : (Instr.qosCommit).wellFormed = true ∧ (Instr.flitReservedRx 0 ⟨0, flit 0 0⟩).wellFormed = false := by decide
theorem witness_StepTakesOne : (match step { up with pending := [.d3hotEntry] } with | .next _ => true | _ => false) = true := by
  decide +kernel
theorem witness_StepKeepsMemory : Memory.wf (writeBytes [] 4 [1, 0, 2]) = true ∧ State.reset.memWf := by
  constructor
  · decide
  · exact ⟨rfl, rfl, rfl, (by intro e h; cases h), (by intro e h; cases h)⟩
/-- A full account and a full buffer meet the bounds: 64 credits of account 1, 256 refusals. -/
def fullUp : State :=
  { up with
    cmds := (List.range 64).map fun n => { id := n, via := pf, opcode := 0, p := pkt 1 [], fn := 0, acct := 1, st := .running }
    fns := [(0, { (up.fn 0) with ring := { (up.fn 0).ring with held := List.replicate 256 refusal } })] }
theorem witness_StepKeepsBounds : fullUp.outstanding 1 = 64 ∧ fullUp.refusals 0 = 256 := by decide +kernel

/-! ## Fraist: acceptance, refusal, answers -/

theorem witness_PacketUnanswered : fraistOf (.identify pf (pkt 0 [])) = some (specIdentify, pf, pkt 0 []) ∧
    State.reset.reaches pf = false ∧ fullUp.reaches pf = true ∧ 256 ≤ fullUp.refusals 0 ∧ ({ pkt 0 [] with version := 0x20 } : Packet).version ≠ 0x10 := by
  refine ⟨rfl, ?_⟩
  decide +kernel
/-- Boundary: 255 refusals held, and one more fits. -/
def nearUp : State :=
  { up with fns := [(0, { (up.fn 0) with ring := { (up.fn 0).ring with held := List.replicate 255 refusal } })] }
theorem witness_PacketRefused : (nearUp.atUnit pf (pkt 0 [])).isSome = true ∧ nearUp.refusals 0 < 256 ∧
    ({ pkt 0 [] with version := 0x11 } : Packet).version ≠ 0x10 ∧ specCtxCreate.allowed nearUp pf (pkt 1 []) = false ∧
    specQosClassSet.allowed nearUp (.aperture 1) (pkt 0 []) = false ∧ fraistDefined 0x0002 = false := by decide +kernel
theorem witness_PacketTurnedAway : specIdentify.allowed fullUp pf (pkt 1 []) = true ∧ fullUp.credit pf (pkt 1 []) = false ∧
    ({ nearUp with fw := { procs := [(2, { restarting := true })] } } : State).credit pf (pkt 0 []) = false ∧
    up.credit pf (pkt 0 []) = true ∧ specIdentify.allowed up pf (pkt 0 []) = true ∧
    check5 (pkt 0 [(8, 1, 2)]) specIdentify.defined (specIdentify.faults (up.admission specIdentify pf (pkt 0 [(8, 1, 2)])).2 (pkt 0 [(8, 1, 2)]))
      = some 8 ∧ lowestBad [(12, true), (9, true), (8, false)] = some 9 := by decide +kernel
theorem witness_CommandBegins : allOf [begins up specIdentify pf (pkt 0 []) fun _ _ => true, begins up specIdentify lk (pkt 1 []) fun _ _ => true] = true := by
  decide +kernel
/-- Port 0 with tag 5 outstanding. -/
def tagUp : State := up.modPort 0 fun p => { p with tags := [5] }
theorem witness_TagReuse : tagUp.running = true ∧ (tagUp.port 0).st = .active ∧ (tagUp.port 0).tags.contains (hdr 0 0 5).tag.toNat = true ∧
    (Instr.rd 0 (hdr 0 0 5)).wellFormed = true ∧
    ({ active := true, event := 0x14, classMask := 0xFFFFFFFF } : Pctr).admits { port := some 0 } = true := by decide +kernel
theorem witness_TagReuse_cmd : ∃ spec, fraistOf (.mark lk (pkt 1 [])) = some (spec, lk, pkt 1 []) := ⟨_, rfl⟩

/-- IDENTIFY page 0 (R72): the build shipped, Fraist 1.0, function 0. -/
theorem test_identify : gives (.identify pf (pkt 0 [])) up (fun t => (State.replies t).map (fun r => (r.status, r.result)) ==
    [(0, BitVec.ofNat 128 (up.ident.toNat + 0x10 <<< 64))]) = true := by decide +kernel
/-- A second CMD under a tag outstanding sets TAG_REUSE, and its three slots are owed as credits (R98, R108). -/
theorem test_tagReuse_cmd : gives (.mark lk (pkt 1 [])) tagUp (fun t => (t.port 0).err == 0x10 && (t.port 0).tags == [5] &&
    tget 0 (t.port 0).owed 2 == 3) = true := by decide +kernel
theorem test_version : gives (.identify pf { pkt 0 [] with version := 0x11 }) up (fun t =>
    (State.replies t).map (fun r => (r.status, r.result)) == [(stVersion, 0x10)]) = true := by decide +kernel

/-! ## Device, counters and contexts -/

theorem witness_DeviceCommands : allOf
    [begins up specIdentify pf (pkt 0 []) fun _ c => par c.p 8 1 == 0, begins up specIdentify pf (pkt 0 [(8, 1, 1)]) fun _ c => par c.p 8 1 != 0,
     begins up specMark pf (pkt 0 [(8, 4, 0xFFFFFFFF)]) fun _ _ => true,
     begins { up with cnt := { p := [(8 * instOf 0x08 3 + 7, { active := true, event := 1, owner := 0 })] } } specCntConfig pf
       (pkt 0 [(8, 1, 8), (9, 1, 3), (10, 1, 7)]) fun u c => par c.p 12 2 == 0 && (tget {} u.cnt.p (8 * instOf 8 3 + 7)).active && c.fn == 0,
     begins up specCntConfig pf (pkt 0 [(8, 1, 8), (12, 4, 0x14), (20, 4, 1), (46, 2, 7)]) fun u c => par c.p 12 2 != 0 &&
       par c.p 46 2 < msixVectors c.fn && !(tget {} u.cnt.p (8 * instOf 8 0)).active,
     begins { up with ctxs := [(1, { st := .active, owner := 1, key := 1 })] } specCntConfig (.aperture 1)
       (pkt 0 [(8, 1, 8), (12, 4, 5), (16, 1, 1), (17, 1, 1), (18, 2, 1), (20, 4, 1)]) fun u c => c.fn == 1 && bits (par c.p 16 1) 1 0 == 1 &&
         par c.p 17 1 == 1 && u.isActive (par c.p 18 2) && (u.ctx (par c.p 18 2)).owner == c.fn && eventHasCtx (par c.p 8 1) (par c.p 12 2) &&
         (u.countersOf c.fn).length < 64 && par c.p 46 2 < msixVectors c.fn] = true := by decide +kernel

theorem witness_SnapshotsAndOverflows : allOf
    [begins up specCntSnapshot pf (pkt 0 [(16, 4, 64)]) fun _ c => 64 ≤ par c.p 16 4 && !viaLink c.via,
     begins (withRegion 0x11 1) specCntSnapshot lk (pkt 1 [(8, 8, 64), (16, 4, 64)]) fun u c => 64 ≤ par c.p 16 4 && viaLink c.via &&
       u.covered 1 64 64 .wr false && !u.snapGranule 1 64 64 && (u.snapshot c.fn false false 64).1.length == 64,
     up.running, decide (9 < instances false 0x0A), (tget {} [(5, ({ active := true } : Pctr))] 5).active,
     ({ up with cnt := { autoOn := true } } : State).cnt.autoOn, (up.fn 0).bme, !up.cnt.autoOn,
     !(({ up with fns := [] } : State).fn 0).bme] = true := by decide +kernel

/-- A counter at its last value overflows to 0 with OVF (R436). -/
theorem test_counterOverflow : gives (.counterOverflow 0x0A 9 7) { up with cnt := { p := [(8 * instOf 0x0A 9 + 7, { active := true, value := 5 })] } }
    (fun t => (tget {} t.cnt.p (8 * instOf 0x0A 9 + 7)).ovf && (tget {} t.cnt.p (8 * instOf 0x0A 9 + 7)).value == 0) = true := by decide +kernel

theorem witness_ContextCreated : allOf
    [begins up specCtxCreate pf (pkt 0 []) fun u c => (u.ctx 4095).st == .free && u.ctxsUsed c.fn < (u.fn c.fn).maxCtx &&
       par c.p 8 1 % 4 == 0 && par c.p 12 4 == 0,
     begins up specCtxCreate pf (pkt 0 [(8, 1, 1)]) fun u c => par c.p 8 1 % 4 == 1 && !u.variantH && u.durables < 64 && u.ctxsUsed 0 < (u.fn 0).maxCtx &&
       c.fn == 0 && par c.p 12 4 == 0,
     begins { up with sealed := [(9, { sealId := 9, key := 7, gen := 4, regions := [3] })], regions := [(3, { region 0 1 with ctx := 0, sealedBy := 9 })] }
       specCtxCreate pf (pkt 0 [(8, 1, 3), (12, 4, 9)]) fun u c => par c.p 8 1 % 4 == 3 && par c.p 12 4 == 9 && (tfind? u.sealed 9).isSome && c.fn == 0]
    = true := by decide +kernel
theorem witness_ContextDestroyed : allOf
    [begins up specCtxDestroy pf (pkt 1 []) fun u c => pCtx c.p != 0 && par c.p 8 4 == 0 && u.cmds.all fun e => !u.shareWaits e,
     begins { up with sealed := [(9, { sealId := 9, key := 7, gen := 4 })] } specCtxDestroy pf (pkt 0 [(8, 4, 9)]) fun u c =>
       pCtx c.p == 0 && c.fn == 0 && (tfind? u.sealed 9).isSome] = true := by decide +kernel
theorem witness_BindingsAndWindows : allOf
    [begins up specCtxBindPort pf (pkt 1 [(8, 2, 0xFFFF), (10, 1, 1)]) fun u _ => (u.ctx 1).budget == 0,
     begins up specWinSet pf (pkt 1 [(8, 1, 31)]) fun _ c => !bit (par c.p 9 1) 0,
     begins (withRegion 0x11 2) specWinSet pf (pkt 1 [(8, 1, 31), (9, 1, 0x2F), (12, 4, (withRegion 0x11 2).handleOf 3), (16, 4, 1), (20, 4, 1), (24, 5, 7)])
       fun u c => bit (par c.p 9 1) 0 && (match u.winTarget (par c.p 12 4) 1 with
         | .ok (_, r, sub) => (u.winRange 1 31 r 1 1 7).isNone && decide (bits (par c.p 9 1) 5 1 &&& permsAllowed r sub.isSome = bits (par c.p 9 1) 5 1)
         | .error _ => false)] = true := by decide +kernel

/-! ## Regions -/

theorem find_some {α : Type} (l : List α) (p : α → Bool) (x : α) (hx : x ∈ l) (hp : p x = true) : (l.find? p).isSome = true := by
  simpa [List.find?_isSome] using ⟨x, hx, hp⟩

theorem pick_some (s : State) (bound fuel : Nat) (ok : Nat → Bool) (h : (lowest (fun n => decide (n < bound) && ok n) 0 fuel).isSome = true) :
    (s.pick bound fuel ok).1.isSome = true := by
  unfold State.pick
  dsimp only
  split
  · rfl
  · exact h

theorem place_some (s : State) (attr : BitVec 32) (n : Nat) (hn : n ≤ pinnedPages)
    (hz : s.zaFree (if attrTiered attr then 0 else pinnedBase) n = true) : (s.placeRegion attr n).1.isSome = true := by
  simp only [State.placeRegion, Option.isSome_map]
  refine find_some _ _ 0 (by simp) ?_
  simp only [Nat.zero_add, Nat.add_zero, hz, Bool.and_true, decide_eq_true_eq]
  split
  · exact Nat.le_trans hn (by decide)
  · exact hn

theorem no_dead (s : State) (r : Region) (h : s.hbmStk = []) : s.deadStacks r = false := by
  simp [State.deadStacks, State.stack, h, tget]

/-- A device with a large cache: tier and pinned pages are to be had. -/
def allocP (attr : Nat) : Packet := pkt 1 [(8, 4, 1), (12, 4, attr)]
def bigUp : State := { up with dirs := [(0, { cacheFrames := 0x400000 }), (1, { cacheFrames := 0x400000 })] }
/-- The state on which a command starts. -/
def startOf (s : State) (spec : CmdSpec) (p : Packet) : State := match s.begun spec pf p with | some (u, _) => u | none => s
theorem witness_RegionAllocated : allOf
    [begins up specRegionAlloc pf (allocP 0) fun u c => attrAllowed u.variantH 0 && attrTiered 0 &&
       !u.noRoom 1 c.fn { ctx := 1, fn := c.fn, attr := 0, pages := 1, gen := (u.ctx 1).gen },
     begins bigUp specRegionAlloc pf (allocP 0x11) fun u c => attrAllowed u.variantH 0x11 && !attrTiered 0x11 &&
       !u.noRoom 1 c.fn { ctx := 1, fn := c.fn, attr := 0x11, pages := 1, gen := (u.ctx 1).gen }] = true := by decide +kernel
theorem witness_RegionAllocated_tiered : ((startOf up specRegionAlloc (allocP 0)).placeRegion 0 1).1.isSome = true ∧
    ((startOf up specRegionAlloc (allocP 0)).placeRegion 0 1).2.pickIndex.1.isSome = true :=
  ⟨place_some _ _ _ (by decide) (by decide +kernel), pick_some _ _ _ _ (by decide +kernel)⟩
theorem witness_RegionAllocated_pinned : ((startOf bigUp specRegionAlloc (allocP 0x11)).placeRegion 0x11 1).1.isSome = true ∧
    ((startOf bigUp specRegionAlloc (allocP 0x11)).placeRegion 0x11 1).2.pickIndex.1.isSome = true ∧
    ∀ base, (startOf bigUp specRegionAlloc (allocP 0x11)).deadStacks
      { ctx := 1, attr := 0x11, pages := 1, gen := 1, zaPage := base } = false :=
  ⟨place_some _ _ _ (by decide) (by decide +kernel), pick_some _ _ _ _ (by decide +kernel), fun _ => no_dead _ _ (by decide +kernel)⟩
/-- The region as it is filled, and the REGION_ALLOC that waits for it. -/
def fillUp : State :=
  { withRegion 0x11 2 with
    regions := [(3, { region 0x11 2 with filling := true })]
    cmds := [{ id := 0, via := pf, opcode := 0x0104, p := allocP 0x11, fn := 0, acct := 1, st := .running, aux := 3 }] }
theorem witness_RegionFilled : fillUp.running = true ∧ (fillUp.region? 3).map (·.filling) = some true ∧
    fillUp.framesUsed 0 ≤ (fillUp.dirDie 0).cacheFrames ∧ fillUp.framesUsed 1 ≤ (fillUp.dirDie 1).cacheFrames ∧ fillUp.fillFrozen { region 0x11 2 with filling := true } = false ∧
    (fillUp.cmds.find? (fun c => c.opcode == 0x0104 && c.st == .running && c.aux == 3 && pCtx c.p == 1)).map (·.lost) = some false := by
  decide +kernel
theorem test_regionFillComplete : gives (.regionFillComplete 3) fillUp (fun t => (t.region? 3).map (·.filling) == some false &&
    (State.replies t).map (fun r => (r.status, r.result)) == [(0, BitVec.ofNat 128 (3 + 2 ^ 48 <<< 64))]) = true := by decide +kernel

/-- The same region without a window. -/
def unmapped (attr : BitVec 32) (pages : Nat) : State := { withRegion attr pages with ctxs := [(1, { st := .active, key := 1, bind := 1, gen := 2 })] }
theorem witness_RegionFreed : begins (unmapped 0 1) specRegionFree pf (pkt 1 [(8, 4, 3)]) (fun u c =>
    match u.ownRegion (par c.p 8 4) 1 with | .ok (i, r) => !u.freeConflict i r && settled u | .error _ => false) = true := by decide +kernel
/-- Context 2, which subscribes to the published region 3. -/
def subUp : State :=
  { withRegion 2 1 with
    regions := [(3, { region 2 1 with share := .published, scope := 1, name := 7, version := 1, keySlot := 4096, key := 9, hash := 0xAB })]
    ctxs := [(1, { st := .active, key := 1, bind := 1, gen := 2 }), (2, { st := .active, key := 2, bind := 1 })]
    subs := [(4, { ctx := 2, region := 3 })] }
theorem witness_RegionAttributes : allOf
    [begins (withRegion 0x11 1) specRegionAttr pf (pkt 1 [(8, 4, 3)]) fun u c => par c.p 12 1 == 0 &&
       (match u.ownRegion (par c.p 8 4) 1 with | .ok _ => true | .error _ => false),
     begins subUp specRegionAttr pf (pkt 2 [(8, 4, 4)]) fun u c => par c.p 12 1 == 0 &&
       (match u.named (par c.p 8 4) with | .sub _ w => w.ctx == 2 && (u.region? w.region).isSome | _ => false),
     begins (withRegion 0x11 1) specRegionAttr pf (pkt 1 [(8, 4, 3), (12, 1, 1), (13, 1, 1)]) fun u c => par c.p 12 1 == 1 && par c.p 13 1 == 1 &&
       (match u.ownRegion (par c.p 8 4) 1 with | .ok (_, r) => r.kind == 1 && !r.auto && r.share != .withdrawn && u.held.isEmpty && settled u && u.cmd? c.id == some c | .error _ => false),
     begins { withRegion 0x11 1 with regions := [(3, { region 0x11 1 with moving := some (4, false, []) })] } specRegionAttr pf (pkt 1 [(8, 4, 3), (12, 1, 1), (13, 1, 1)])
       fun u c => (match u.ownRegion (par c.p 8 4) 1 with | .ok (_, r) => r.moving.isSome | .error _ => false),
     begins (unmapped 0x91 1) specRegionAttr pf (pkt 1 [(8, 4, 3), (12, 1, 1)]) fun u c => par c.p 12 1 == 1 && par c.p 13 1 == 0 &&
       (match u.ownRegion (par c.p 8 4) 1 with | .ok (i, _) => !u.mapped i (·.own) | .error _ => false) && u.leases.isEmpty,
     begins up specRegionAttr pf (pkt 1 [(12, 1, 2), (13, 1, 1)]) fun _ c => par c.p 12 1 == 2] = true := by decide +kernel
theorem test_regionAttrReport : gives (.regionAttrReport pf (pkt 1 [(8, 4, 3)])) (withRegion 0x11 2) (fun t =>
    (State.replies t).map (fun r => r.result) == [BitVec.ofNat 128 (0x11 + 2 <<< 32 + 2 ^ 48 <<< 64)]) = true := by decide +kernel

/-- A range of one tiered page of region 3, and its pages as they may stand. -/
def rangeP (n : Nat) : Packet := pkt 1 [(8, 8, 0), (16, 4, n)]
def hintable (s : State) (spec : CmdSpec) (wr : Bool) (f : State → Bool) : Bool :=
  begins s spec pf (rangeP 1) fun u c => !u.variantH && (match u.hintRange c wr with | .ok (page, _, r) => page == 0 && r.tiered && f u | .error _ => false)
def dirtyUp : State := { withRegion 0 1 with dir := [(0, { st := .dirty, dirty := 3, frame := 5 })], dirs := [(0, { cacheFrames := 100, used := [5] })] }
theorem witness_HintsAndCheckpoints : allOf
    [hintable (withRegion 0 1) specHintPrefetch false fun _ => true, hintable (withRegion 0 1) specHintPin false fun _ => true,
     hintable (withRegion 0 1) specHintUnpin false fun _ => true, hintable (withRegion 0 1) specHintEvict false fun _ => true,
     hintable (withRegion 0 1) specCkpt true fun u => (u.ent 0).st == .invalid,
     hintable dirtyUp specCkpt true fun u => (u.ent 0).st == .dirty && !(u.ent 0).bad && !u.carveOutBad] = true := by decide +kernel

/-! ## Transfers, tables, kernels, shared versions, service -/

/-- Endpoints: the window at an offset, a peer of port 0, host memory. -/
def own (off la : Nat) : List (Nat × Nat × Nat) := [(off, 1, 0), (off + 8, 8, la)]
def peer (off la : Nat) : List (Nat × Nat × Nat) := [(off, 1, 2), (off + 2, 2, 1), (off + 8, 8, la)]
def queues (s : State) (kind : XferKind) (spec : CmdSpec) (l : List (Nat × Nat × Nat)) : Bool :=
  begins s spec pf (pkt 1 l) fun u c => (u.xferCheck (xferOf kind c u.nextId)).isNone
theorem witness_TransferQueued : allOf
    [queues (withRegion 0x11 2) .copy specXferCopy (own 8 0 ++ own 24 65536 ++ [(40, 8, 65536)]),
     queues (withRegion 0x11 2) .copy specXferCopy (peer 8 0 ++ own 24 0 ++ [(40, 8, 4096)]),
     queues (withRegion 0x11 2) .move specXferMove (own 8 0 ++ own 24 65536 ++ [(40, 8, 64)]),
     queues (withRegion 0x11 2) .fill specXferFill (own 24 0 ++ [(40, 8, 131072), (48, 8, 7)]),
     queues (withRegion 0x11 2) .reduce specXferReduce (own 8 0 ++ own 24 65536 ++ [(40, 8, 4096), (49, 1, 2)]),
     begins (withRegion 0x11 2) specXferAtom pf (pkt 1 [(8, 8, 64)]) fun u c => (u.translate 1 (par c.p 8 8) (atomBytes (par c.p 17 1)) .atom false).isSome]
    = true := by decide +kernel
def autoUp : State :=
  { withRegion 0x51 1 with tables := [(6, { st := .current, region := 3, ctx := 1, owned := true }), (7, { st := .retired, region := 3, ctx := 1, owned := true })] }
theorem witness_CodecCommands : allOf
    [begins (withRegion 0x51 1) specTableBuild pf (pkt 1 [(8, 4, 3)]) fun u c => (match u.ownRegion (par c.p 8 4) 1 with
       | .ok (_, r) => r.auto && par c.p 12 2 < r.groups && !r.frozen && u.tablesOwned r.ctx < 4096 | .error _ => false) &&
       (u.tables.filter fun e => e.2.st != .free && e.1 != 0).length < 65535,
     begins autoUp specTableRetire pf (pkt 1 [(8, 4, 3), (12, 2, 6)]) fun u c => (u.table (par c.p 12 2)).st == .current && (u.table 6).region == 3 &&
       (match u.ownRegion (par c.p 8 4) 1 with | .ok (_, r) => r.share != .withdrawn | .error _ => false),
     begins autoUp specTableRetire pf (pkt 1 [(8, 4, 3), (12, 2, 7)]) fun u c => (u.table (par c.p 12 2)).st == .retired && (u.table 7).region == 3,
     begins autoUp specCodecSet pf (pkt 1 [(8, 4, 3), (12, 1, 1)]) fun u c => match u.ownRegion (par c.p 8 4) 1 with
       | .ok (_, r) => r.auto && !r.frozen | .error _ => false] = true := by decide +kernel
theorem witness_HostDataBegins : allOf
    [begins up specKernelLoad pf (pkt 1 [(8, 1, 1), (16, 8, 0x1000), (24, 2, 264)]) fun _ c => hostArgs c == some (0x1000, 264) && !viaLink c.via,
     begins up specFwStage pf (pkt 0 [(8, 8, 0x1000), (16, 4, 4096)]) fun u c => hostArgs c == some (0x1000, 4096) && u.fw.phase == .idle && par c.p 20 4 == 0,
     begins up specSpdmRelay pf (pkt 0 [(8, 8, 0x1000), (16, 2, 4), (24, 8, 0x2000), (32, 2, 2048)]) fun _ c => hostArgs c == some (0x1000, 4),
     begins (withRegion 0x11 1) specKernelLoad pf (pkt 1 [(16, 8, 64), (24, 2, 264)]) fun u c => par c.p 8 1 == 0 && par c.p 24 2 != 0 &&
       u.covered 1 64 264 .rd false] = true := by decide +kernel

/-- Runs that wait: of a built-in kernel, of context 1 and tag 5. -/
def waiting (n : Nat) : List Run := (List.range n).map fun k => { id := k, cmd := 100 + k, ctx := 1, tag := 5, handle := 1, want := 0, args := [] }
theorem witness_KernelCommands : allOf
    [begins { up with disp := { runs := waiting 1023 } } specKernelRun pf (pkt 1 [(8, 4, 0x26), (12, 2, 152)]) fun u c => builtinHandle (par c.p 8 4) &&
       par c.p 12 2 ≤ u.enginesUp && u.disp.engineCap == 0 && (u.disp.runs.filter Run.queued).length == 1023,
     begins { up with disp := { runs := waiting 1024 } } specKernelRun pf (pkt 1 [(8, 4, 1)]) fun u _ => (u.disp.runs.filter Run.queued).length == 1024,
     begins up specKernelAbort pf (pkt 1 [(8, 2, 5)]) fun u c => (u.disp.runs.find? (fun r => r.ctx == 1 && r.tag == par c.p 8 2)).isNone,
     begins { up with disp := { runs := waiting 1 } } specKernelAbort pf (pkt 1 [(8, 2, 5)]) fun u c =>
       match u.disp.runs.find? (fun r => r.ctx == 1 && r.tag == par c.p 8 2) with | some r => u.run? r.id == some r | none => false]
    = true := by decide +kernel

def keyP (ctx : Nat) (l : List (Nat × Nat × Nat)) : Packet := pkt ctx ([(12, 4, 1), (16, 32, 7), (48, 1, 1)] ++ l)
theorem witness_ShareCommands : allOf
    [begins subUp specPublish pf (keyP 1 [(8, 4, 3)]) fun u c => (match u.ownRegion (par c.p 8 4) 1 with
       | .ok (_, r) => r.kind == 2 && r.share == .published && r.key? == shareKey c.p c.fn | .error _ => false) && !u.keyBusy (shareKey c.p c.fn) && !u.shareBehind c && c.fn == 0,
     begins (unmapped 2 1) specPublish pf (keyP 1 [(8, 4, 3)]) fun u c => (match u.ownRegion (par c.p 8 4) 1 with
       | .ok (i, r) => r.kind == 2 && r.share == .unpublished && !u.mapped i (fun w => w.wr || w.atom) && !u.hostWrites i | .error _ => false) &&
       !u.keyBusy (shareKey c.p c.fn) && !u.shareBehind c,
     begins subUp specSubscribe pf (keyP 2 [(56, 8, 0xAB)]) fun u c => (match u.versionOf (shareKey c.p c.fn) with
       | some (i, r) => par c.p 56 8 == r.hash.toNat && (u.subs.find? (fun e => e.2.ctx == 2 && e.2.region == i)).isSome && !u.keyBusy (shareKey c.p c.fn) && !u.shareBehind c
       | none => false),
     begins subUp specSubscribe pf (keyP 1 []) fun u c => (match u.versionOf (shareKey c.p c.fn) with
       | some (i, _) => (u.subs.find? (fun e => e.2.ctx == 1 && e.2.region == i)).isNone && u.entriesOf 1 < 4096 && u.entries < 262144 && !u.shareBehind c | none => false),
     begins subUp specUnsubscribe pf (pkt 2 [(8, 4, 4)]) fun u c => (match u.named (par c.p 8 4) with
       | .sub n w => w.ctx == 2 && !(u.ctx 2).windows.any (fun e => e.2.valid && e.2.sub == some n) && !u.hostNames (par c.p 8 4) (fun _ => true) &&
           !u.usedThrough n && !u.shareBehind c && settled u | _ => false),
     begins subUp specWithdraw pf (pkt 1 [(8, 4, 3)]) fun u c => (match u.ownRegion (par c.p 8 4) 1 with
       | .ok (i, r) => r.share == .published && !(u.ctx r.ctx).windows.any (fun w => w.2.valid && w.2.region == i) && !u.hostNames (par c.p 8 4) (·.ctx == r.ctx) && !u.shareBehind c && settled u &&
           (u.subs.any fun e => e.2.region == i) | .error _ => false),
     begins { subUp with subs := [] } specWithdraw pf (pkt 1 [(8, 4, 3)]) fun u _ => !(u.subs.any fun e => e.2.region == 3)] = true := by decide +kernel
theorem witness_ShareCommands_index : (startOf subUp specSubscribe (keyP 1 [])).pickIndex.1.isSome = true := pick_some _ _ _ _ (by decide +kernel)

def gonePc : State := { up with hbmStk := [(19, { pcs := [(63, { st := .retired })] })] }
theorem witness_ServiceCommands : allOf
    [begins up specSvcTest pf (pkt 0 [(8, 1, 1), (12, 4, 151)]) fun u c => !u.unitBusy c && par c.p 16 1 == 0,
     begins up specSvcTest pf (pkt 0 [(8, 1, 1), (12, 4, 151), (16, 1, 1)]) fun u c => !u.unitBusy c && par c.p 16 1 != 0 &&
       !u.rebuilding (1, 151) && (u.testOff (1, 151) 1).isNone,
     begins (up.modPort 0 fun p => { p with lanes := 7 }) specSvcTest pf (pkt 0 [(8, 1, 6), (12, 4, 3), (16, 1, 1)]) fun u _ => (u.testOff (6, 3) 1).isNone,
     begins { up with hbmStk := [(19, { remap := [(15, { valid := true, pc := 63, pcLine := 9 })] })] } specSvcRemap pf (pkt 0 [(8, 8, 19 + 32 * 63 + 2048 * 9)])
       fun u c => physOf (par c.p 8 8) == (19, 63, 9) && (u.stack 19).remapOf 63 9 == some 15,
     begins up specSvcRemap pf (pkt 0 [(8, 8, 19 + 32 * 63 + 2048 * 9)]) fun u _ => ((u.stack 19).remapOf 63 9).isNone && (u.remapLine 19 63 9 2).isSome,
     begins gonePc specSvcRetire pf (pkt 0 [(8, 1, 2), (12, 4, 1279)]) fun u c => !u.unitBusy c && !u.rebuilding (2, 1279) && u.gone (2, 1279),
     begins up specSvcRetire pf (pkt 0 [(8, 1, 1)]) fun u _ => !u.gone (1, 0) && 1 < u.enginesUp && (u.engine 0).run.isNone,
     begins up specSvcRetire pf (pkt 0 [(8, 1, 2), (12, 4, 1279)]) fun u _ => !u.gone (2, 1279) && !u.carveLost [19],
     begins up specSvcRetire pf (pkt 0 [(8, 1, 3), (12, 4, 19)]) fun u _ => !u.gone (3, 19) && !u.carveLost [19],
     begins up specSvcRetire pf (pkt 0 [(8, 1, 5), (12, 4, 9)]) fun u _ => !u.gone (5, 9) && !u.carveLost [18, 19],
     begins up specSvcRetire pf (pkt 0 [(8, 1, 8), (12, 4, 383)]) fun u _ => !u.gone (8, 383),
     begins (withRegion 0x11 1) specSvcClear pf (pkt 1 [(8, 8, 70)]) fun u c => (u.translate 1 (par c.p 8 8 / 64 * 64) 64 .wr false).isSome]
    = true := by decide +kernel

/-- A held request of context 1 at a hold. -/
def heldReq (h : Hold) (za : Nat) : Req :=
  { id := 9, src := .link 0 5 0 false, ctx := 1, op := .rd, la := 0, za, region := 3, lines := 1, cls := 0, hold := h }
theorem witness_RegulationRules : allOf
    [begins up specQosClassSet pf (pkt 0 [(8, 1, 31), (12, 4, 600), (16, 1, 24), (17, 1, 39), (18, 1, 1)]) fun _ _ => true,
     begins up specQosBudgetSet pf (pkt 1 [(8, 8, 64)]) fun u _ => decide ((u.budgets - (u.ctx 1).budget + 64) * capacityDen ≤ u.capacityNum),
     begins up specQosBudgetSet pf (pkt 1 [(8, 8, 2 ^ 40)]) fun u _ => decide ((u.ctx 1).budget < 2 ^ 40) &&
       decide (u.capacityNum < (u.budgets - (u.ctx 1).budget + 2 ^ 40) * capacityDen),
     up.running, up.scRunning, up.hep.cxlWait.isEmpty, decide (((up.regulator 4).ctxs.map (·.1)).Nodup),
     (let s : State := { withRegion 0x11 1 with held := [heldReq (.regulator 0) (2 ^ 48)] }
      s.held.length == 1 && hubOf (2 ^ 48) == 0 && (s.region? 3).isSome),
     (let s : State := { withRegion 0 1 with held := [heldReq (.miss 0) 0] }
      (s.port 0).live && (s.ent 0).st != .fetching && settled s)] = true := by decide +kernel


/-! ## Link requests -/

/-- The state in which a request of context 1 goes straight to the memory dies: allowance at LNK0, a pinned region with every right. -/
def goUp (attr : BitVec 32) : State :=
  { withRegion attr 2 with qos := { regs := [(0, { ctxs := [(1, { share := 4096, allow := 4096 })] })] } }
/-- Where LA 64 k of that region leads. -/
def at64 (la : Nat) : Trans := { za := 2 ^ 48 + la, region := 3, sub := none, keySlot := 1, gen := 1 }
theorem noLease (s : State) (h : s.leases = []) (t : Trans) (p c : Nat) :
    ∀ i l, i < 128 → tfind? s.leases (t.za / 64 + i) = some l → l.port = p ∧ l.ctx = c := by
  intro i l _ hl
  rw [h] at hl
  cases hl
theorem direct (op : ReqOp) (h : Hdr) (attr : BitVec 32) (la : Nat)
    (d : ((goUp attr).linkBound 0 h && check4 op h && check5Link op h (region attr 2) && decide (0 < (((goUp attr).regulator 0).get h.ctx.toNat).allow)) = true)
    (hp : (region attr 2).tiered = false) (htr : (goUp attr).translate h.ctx.toNat h.la.toNat 1 op.perm false = some (at64 la)) :
    LinkDirect (goUp attr) 0 op h (at64 la) (region attr 2) := by
  simp only [Bool.and_eq_true, decide_eq_true_eq] at d
  exact { runs := rfl, up := rfl, fresh := rfl, bound := d.1.1.1, trans := htr, region := rfl, shape := d.1.1.2, granule := d.1.2
          room := fun _ => Nat.zero_lt_succ 65535, quiet := rfl, share := d.2, pinned := hp, lease := noLease _ rfl _ _ _
          still := settled_still _ rfl }

theorem witness_LinkReads_rd : LinkDirect (goUp 0x11) 0 .rd (hdr 4032 0 7) (at64 4032) (region 0x11 2) ∧
    LinkDirect (goUp 0x11) 0 .rd (hdr 0 63 0) (at64 0) (region 0x11 2) ∧ (region 0x11 2).auto = false ∧
    ((List.range 64).all fun i => (goUp 0x11).clean (2 ^ 42 + i)) = true :=
  ⟨direct _ _ _ _ (by decide +kernel) (by decide) rfl, direct _ _ _ _ (by decide +kernel) (by decide) rfl, by decide, by decide +kernel⟩
theorem witness_LinkReads_rdOwn : LinkDirect (goUp 0x91) 0 .rdOwn (hdr 64 0 4095) (at64 64) (region 0x91 2) ∧ (region 0x91 2).auto = false :=
  ⟨direct _ _ _ _ (by decide +kernel) (by decide) rfl, by decide⟩
theorem witness_LinkWrites_wr : LinkDirect (goUp 0x11) 0 .wr (hdr 131008 0 7) (at64 131008) (region 0x11 2) ∧
    LinkDirect (goUp 0x51) 0 .wr (hdr 0 63 0) (at64 0) (region 0x51 2) ∧
    (goUp 0x11).writeBlocked ((2 ^ 48 + 131008) / 64) 1 false = none ∧ (goUp 0x51).writeBlocked (2 ^ 42) 64 true = none :=
  ⟨direct _ _ _ _ (by decide +kernel) (by decide) rfl, direct _ _ _ _ (by decide +kernel) (by decide) rfl, by decide +kernel, by decide +kernel⟩
theorem witness_LinkWrites_release : LinkDirect (goUp 0x91) 0 (.wrRelease false) (hdr 64 0 9) (at64 64) (region 0x91 2) ∧
    LinkDirect (goUp 0x91) 0 (.wrRelease true) { hdr 64 0 9 with nodata := true } (at64 64) (region 0x91 2) ∧
    (goUp 0x91).writeBlocked (2 ^ 42 + 1) 1 false = none :=
  ⟨direct _ _ _ _ (by decide +kernel) (by decide) rfl, direct _ _ _ _ (by decide +kernel) (by decide) rfl, by decide +kernel⟩
def atomHdr (op w la : Nat) : Hdr := { hdr la 0 9 with atop := BitVec.ofNat 4 op, awidth := BitVec.ofNat 3 w, a := 5, b := 0 }
theorem witness_LinkAtomics : LinkDirect (goUp 0x11) 0 .atom (atomHdr 7 1 56) (at64 56) (region 0x11 2) ∧
    LinkDirect (goUp 0x11) 0 .vadd (atomHdr 8 3 64) (at64 64) (region 0x11 2) ∧
    LinkDirect (goUp 0x11) 0 .acc { hdr 8192 63 9 with awidth := 3 } (at64 8192) (region 0x11 2) ∧
    atomResult 4 0 0 5 0 = some 5 ∧ atomResult 4 0 1 5 0 = none ∧
    ((List.range 128).all fun i => (goUp 0x11).clean (2 ^ 42 + 128 + i)) = true ∧ (goUp 0x11).writeBlocked (2 ^ 42 + 128) 128 false = none :=
  ⟨direct _ _ _ _ (by decide +kernel) (by decide) rfl, direct _ _ _ _ (by decide +kernel) (by decide) rfl,
   direct _ _ _ _ (by decide +kernel) (by decide) rfl, by decide, by decide, by decide +kernel, by decide +kernel⟩
theorem witness_LinkRefused : LinkArrives (goUp 0x51) 0 (hdr 0 0 7) ∧ (goUp 0x51).linkBound 0 { hdr 0 0 7 with ctx := 2 } = false ∧
    (goUp 0x51).linkBound 0 (hdr 0 0 7) = true ∧ ((goUp 0x51).translate 1 131072 1 .rd false).isNone = true ∧
    check4 .rd (hdr 4032 1 7) = false ∧ check4 .wr (hdr 0 0 7) = true ∧ check5Link .wr (hdr 0 0 7) (region 0x51 2) = false ∧
    (9 : Nat) ≤ (0x1F : BitVec 6).toNat :=
  ⟨⟨rfl, rfl, rfl⟩, by decide +kernel⟩
/-- No allowance is left: HOLD_CAP slots may wait, then CPL_RETRY. -/
theorem witness_LinkRefused_held : LinkOk (withRegion 0x11 2) 0 .rd (hdr 0 0 7) (at64 0) (region 0x11 2) ∧
    (((withRegion 0x11 2).regulator 0).get 1).allow ≤ 0 ∧ (withRegion 0x11 2).heldSlots 1 (some 0) + 1 ≤ (withRegion 0x11 2).qos.holdCap ∧
    (let s : State := { withRegion 0x11 2 with held := List.replicate 32 { heldReq (.regulator 0) (2 ^ 48) with op := .wr, lines := 8 } }
     s.heldSlots 1 (some 0) = 544 ∧ s.qos.holdCap < s.heldSlots 1 (some 0) + 1) :=
  ⟨{ runs := rfl, up := rfl, fresh := rfl, bound := by decide, trans := rfl, region := rfl, shape := by decide, granule := by decide }, by decide +kernel⟩

/-- A WR of one line: its bytes lie at the ZA of its LA, it is answered CPL_OK, its three slots are owed (R98, R103, R126). -/
theorem test_wr : gives (.wr 0 (hdr 131008 0 7) [0xAB]) (goUp 0x11) (fun t => t.hbm.mem == [⟨2 ^ 48 + 131008, 0xAB⟩] &&
    (t.port 0).txOrd.map (fun m => m.slots.map (·.toNat % 64)) == [[0x21]] && tget 0 (t.port 0).owed 0 == 3 && (t.port 0).tags == [7]) = true := by
  decide +kernel
theorem test_rd : gives (.rd 0 (hdr 64 1 7)) { goUp 0x11 with hbm := { mem := [⟨2 ^ 48 + 130, 9⟩] } } (fun t =>
    (t.port 0).txOrd.map (fun m => m.slots) == [[rspSlot 0x20 1 1 7 0 0 0 1 true 0 0, 0, 0, 0x90000, 0]] && t.held == [] && t.leases == []) = true := by
  decide +kernel
theorem test_rdOwn : gives (.rdOwn 0 (hdr 64 0 7)) (goUp 0x91) (fun t => t.leases == [(2 ^ 42 + 1, { port := 0, ctx := 1, la := 64 })]) = true := by
  decide +kernel
/-- ADD of 5 to a 32-bit operand of 3 (R105). -/
theorem test_atom : gives (.atom 0 (atomHdr 0 0 68) 0) { goUp 0x11 with hbm := { mem := [⟨2 ^ 48 + 68, 3⟩] } } (fun t =>
    t.hbm.mem == [⟨2 ^ 48 + 68, 8⟩] && (t.port 0).txOrd.map (fun m => m.slots) == [[rspSlot 0x20 1 1 9 0 0 1 0 true 0 3]]) = true := by decide +kernel
theorem test_rd_unbound : gives (.rd 0 { hdr 0 0 7 with ctx := 2 }) (goUp 0x11) (fun t =>
    (t.port 0).txOrd.map (fun m => m.slots) == [[rspSlot 0x22 1 2 7 stNoPerm 0 0 0 true 0 0]]) = true := by decide +kernel
theorem test_wrRelease : gives (.wrRelease 0 { hdr 64 0 9 with nodata := true } 0)
    { goUp 0x91 with leases := [(2 ^ 42 + 1, { port := 0, ctx := 1, la := 64 })] } (fun t => t.leases == [] && t.hbm.mem == []) = true := by decide +kernel


/-! ## Wenxel ports -/

/-- Port 15 in a state. -/
def portUp (st : PortSt) : State := up.modPort 15 fun p => { p with st }
theorem witness_PortTraining : allOf
    [(portUp .detect).linkStage, (portUp .train).linkStage, decide (((portUp .detect).port 15).st = .detect), decide (((portUp .train).port 15).st = .train),
     decide (((portUp .caps).port 15).st = .caps), decide (((portUp .versionMismatch).port 15).st = .versionMismatch), (portUp .off).running,
     decide (((portUp .off).port 15).st = .off), decide (((portUp .caps).port 15).st ≠ .off), (portUp .lost).pmc.powered,
     decide (((portUp .lost).port 15).st = .lost), !((portUp .lost).held.any fun q => q.port? == some 15),
     (portUp .off).barOpen 0, ((portUp .caps).modPort 15 fun p => { p with capsRx := true }).linkStage, (1 : BitVec 4) != 0, (15 : BitVec 4) != 0]
    = true := by decide +kernel
/-- Lanes 2 and 3 locked: the set {2, 3}; one lane of each pair: a single lane (R82, R85). -/
theorem test_widestSets : widestSets 0xC 4 = [0xC] ∧ widestSets 0xF 2 = [0x3, 0xC] ∧ widestSets 0x6 4 = [0x2, 0x4] ∧ widestSets 0 4 = [] := by decide

theorem witness_PortRecovery : allOf
    [(portUp .recovery).linkStage, decide (((portUp .recovery).port 15).st = .recovery), (up.port 0).lanes &&& 8 != 0,
     decide ((up.port 0).st = .active), up.running, up.barOpen 0, widestSets 0 4 == [], widestSets 8 4 != [], (portUp .recovery).held.isEmpty,
     ((portUp .recovery).port 15).laneOk &&& ((portUp .recovery).port 15).lanes == 0] = true := by decide +kernel
/-- Port 0 holds a lease under which its line is poisoned when the partner is lost. -/
def lossUp : State := { goUp 0x91 with leases := [(2 ^ 42 + 1, { port := 0, ctx := 1, la := 64 }), (2 ^ 42 + 2, { port := 1, ctx := 1, la := 128 })] }
theorem witness_PortRecovery_lease : tfind? lossUp.leases (2 ^ 42 + 1) = some { port := 0, ctx := 1, la := 64 } ∧ lossUp.held = [] ∧ lossUp.running = true ∧
    lossUp.still ∧ lossUp.barOpen 0 = true := by
  refine ⟨by decide +kernel, rfl, by decide +kernel, settled_still _ (by decide +kernel), by decide +kernel⟩
theorem test_portDisable : gives (.portDisable 0) lossUp (fun t => t.leases == [(2 ^ 42 + 2, { port := 1, ctx := 1, la := 128 })] &&
    t.hbm.poison == [(2 ^ 42 + 1, { reason := 2, kind := 7 })] && (t.port 0).lossReason == 5 && (t.port 0).lossCount == 1 &&
    (t.port 0).leasesRevoked == 1) = true := by decide +kernel

/-- A CAPS payload: the version, and 2,048 slots of VC0. -/
def capsOf (ver : Nat) : Flit := { flit 0 0 with payload := BitVec.ofNat 1792 (ver + 2048 <<< 64) }
/-- Ten symbols of one codeword of a flit are wrong; and one bit of another flit is. -/
def badFlit : Flit := { flit 0 1 with noise := BitVec.ofNat 2048 ((List.range 10).map fun n => 5 * 2 ^ (16 * n)).sum }
def weakFlit : Flit := { flit 0 1 with noise := BitVec.ofNat 2048 (2 ^ 77) }
theorem witness_FlitsReceived : allOf
    [up.linkStage, decide ((up.port 0).st = .active), !(up.port 0).rxWait, (received 1 badFlit).isNone,
     ((up.port 0).takeCredits [((flit 0 0).craVc.toNat, (flit 0 0).craCnt.toNat), (0, 0)]).isSome,
     ((up.port 0).takeCredits [(1, 63), (1, 63)]).isNone, decide ((flit 0 0).seq = (up.port 0).rxExpect), (up.port 0).rxOrd.isEmpty && (up.port 0).rxTan.isEmpty,
     decide (((portUp .caps).port 15).st = .caps), !((portUp .caps).port 15).capsDue,
     (((portUp .caps).modPort 15 fun p => { p with capsDue := true }).port 15).capsDue, (capsOf 0x1F).payload.toNat % 256 / 16 == 1, (capsOf 0x20).payload.toNat % 256 / 16 != 1,
     decide (4 ≤ (4 : BitVec 4).toNat)] = true := by decide +kernel
theorem test_flitCapsRx : gives (.flitCapsRx 15 (capsOf 0x13)) (portUp .caps) (fun t => (t.port 15).st == .active && (t.port 15).version == 0x10 &&
    (t.port 15).partnerVersion == 0x13 && (t.port 15).txCred == [(0, 2048)] && (t.port 15).linkUps == 1) = true := by decide +kernel
/-- A DATA flit that carries one slot, the RD of line 64 of the window (R100, R101). -/
theorem test_flitDataRx : gives (.flitDataRx 0 { flit 0 1 with payload := BitVec.ofNat 1792 (reqSlot 1 1 7 64 0 0 0).toNat }) (goUp 0x11) (fun t =>
    (t.port 0).rxExpect == 1 && (t.port 0).txOrd.map (fun m => m.slots.length) == [3] && tget 0 (t.port 0).txCred 1 == 163) = true := by decide +kernel
/-- SEQ one below that expected is a duplicate, above a gap (R93). -/
theorem test_flitDataRx_seq : gives (.flitDataRx 0 (flit 4095 0)) up (fun t => !(t.port 0).rxWait && (t.port 0).st == .active) = true ∧
    gives (.flitDataRx 0 (flit 1 0)) up (fun t => (t.port 0).rxWait && (t.port 0).retryReqDue) = true ∧
    gives (.flitDataRx 0 (flit 512 0)) up (fun t => (t.port 0).st == .lost && (t.port 0).lossReason == 3) = true := by decide +kernel

def sendUp (f : Port → Port) : State := up.modPort 0 f
def kept : TxFlit := { seq := 5, slotcode := 1, payload := 9 }
def oneMsg : TxMsg := { vc := 1, slots := [rspSlot 0x21 1 1 7 0 0 0 0 true 0 0] }
theorem witness_FlitsSent : allOf
    [(sendUp fun p => { p with retryReqDue := true }).linkStage, ((sendUp fun p => { p with retryReqDue := true }).port 0).retryReqDue,
     (let p := (sendUp fun p => { p with replay := [kept], toReplay := 1 }).port 0; p.replay[p.replay.length - p.toReplay]? == some kept && !p.rxWait),
     (let p := (sendUp fun p => { p with txOrd := [oneMsg] }).port 0
      p.replay[p.replay.length - p.toReplay]?.isNone && !(p.packFlit.slots.all fun e => e.1 == 0)),
     (let p := up.port 0; p.replay[p.replay.length - p.toReplay]?.isNone && (p.packFlit.slots.all fun e => e.1 == 0)),
     (let p := (sendUp fun p => { p with replay := List.replicate 512 kept, txOrd := [oneMsg] }).port 0
      p.replay[p.replay.length - p.toReplay]?.isNone && decide (512 ≤ p.replay.length)),
     ((sendUp fun p => { p with rxWait := true, failedRetries := 6 }).port 0).rxWait, up.cmds.isEmpty,
     (let p := (sendUp fun p => { p with replay := [kept], failedRetries := 6 }).port 0; !p.rxWait && p.replay != [])] = true := by decide +kernel
theorem test_flitTransmit : gives (.flitTransmit 0) (sendUp fun p => { p with txOrd := [oneMsg] }) (fun t => (t.port 0).txOrd == [] &&
    (t.port 0).replay.map (fun f => (f.seq, f.slotcode)) == [(0, 1)] && (t.port 0).txSeq == 1 && tget 0 (t.port 0).txCred 1 == 99) = true := by decide +kernel
theorem test_retryTimeout_last : gives (.retryTimeout 0) (sendUp fun p => { p with rxWait := true, failedRetries := 7 }) (fun t =>
    (t.port 0).st == .lost && (t.port 0).lossReason == 2) = true := by decide +kernel

/-! ## Peers and transfers -/

/-- A transfer of context 1: 128 bytes to the start of its window, from a peer of port 0, with its one unit issued. -/
def xf (kind : XferKind) (src dst : Endpoint) : Xfer :=
  { id := 3, cmd := 2, ctx := 1, kind, src, dst, len := 128, pattern := 0x0102030405060708, fmt := 0, engine := 0, started := true, units := [(0, {})] }
def ownEnd (la : Nat) : Endpoint := { kind := 0, port := 0, ctx := 0, addr := la }
def peerEnd (la : Nat) : Endpoint := { kind := 2, port := 0, ctx := 9, addr := la }
/-- The XFER command of that transfer. -/
def xfCmd : Cmd := { id := 2, via := pf, opcode := 0x0301, p := pkt 1 [], fn := 0, acct := 1, st := .running }
def xfUp (x : Xfer) (reqs : Tbl PortReq) : State :=
  { withRegion 0x11 2 with xfers := [x], cmds := [xfCmd], ports := [(0, { up.port 0 with reqs })], nextId := 9 }
def rsp (tag off n : Nat) (last : Bool) : Rsp :=
  { vc := 1, ctx := 9, tag := BitVec.ofNat 12 tag, status := 0, lineOffset := BitVec.ofNat 6 off, dkind := 0, lines := BitVec.ofNat 6 (n - 1), last
    retryAfter := 3, value := 0 }
def rdReq : PortReq := { use := .xfer 3 0 0 2 false, sent := true }
def wrReq : PortReq := { use := .xfer 3 0 0 2 true, sent := true }
theorem witness_PeerTraffic : allOf
    [(let s := xfUp (xf .copy (peerEnd 0) (ownEnd 0)) [(5, rdReq)]
      s.running && tfind? (s.port 0).reqs 5 == some rdReq && decide (1 + 1 ≤ 2) && (s.xfer? 3).isSome && thas (xf .copy (peerEnd 0) (ownEnd 0)).units 0),
     (let s := xfUp (xf .copy (ownEnd 0) (peerEnd 0)) [(5, wrReq)]; tfind? (s.port 0).reqs 5 == some wrReq),
     (tfind? (up.port 0).reqs 4095).isNone, (up.port 0).txOrd.isEmpty, decide (0x24 ≤ (0x3F : BitVec 6).toNat), rdReq.sent,
     (let s := xfUp (xf .copy (peerEnd 0) (ownEnd 0)) [(5, { rdReq with retry := some 6000 })]; (s.port 0).live && (s.xfer? 3).isSome),
     (let s := sendUp fun p => { p with reqs := [(5, { use := .quarantined, sent := true })] }; s.held.isEmpty && (tfind? (s.port 0).reqs 5).isSome),
     (let s := { lossUp with ports := [(0, { up.port 0 with reqs := [(5, { use := .recallReq (2 ^ 42 + 1), sent := true })] })] }
      tfind? (s.port 0).reqs 5 == some { use := .recallReq (2 ^ 42 + 1), sent := true } && (tfind? s.leases (2 ^ 42 + 1)).isSome && s.held.isEmpty)]
    = true := by decide +kernel
theorem test_cplData : gives (.cplData 0 (rsp 5 1 1 false) [7]) (xfUp (xf .copy (peerEnd 0) (ownEnd 0)) [(5, rdReq)]) (fun t =>
    (t.xfer? 3).map (fun x => (tget {} x.units 0).data) == some [(1, 7)] && thas (t.port 0).reqs 5) = true := by decide +kernel
theorem test_cplRetry : gives (.cplRetry 0 (rsp 5 0 2 true)) (xfUp (xf .copy (peerEnd 0) (ownEnd 0)) [(5, rdReq)]) (fun t =>
    tfind? (t.port 0).reqs 5 == some { rdReq with retry := some 6000 }) = true := by decide +kernel
theorem test_cplErr : gives (.cplErr 0 { rsp 5 0 2 true with status := 4 }) (xfUp (xf .copy (peerEnd 0) (ownEnd 0)) [(5, rdReq)]) (fun t =>
    t.xfers == [] && (State.replies t).map (·.status) == [4] && !thas (t.port 0).reqs 5) = true := by decide +kernel
theorem test_recallTimeout : gives (.recallTimeout 0 5) { lossUp with ports := [(0, { up.port 0 with reqs :=
    [(5, { use := .recallReq (2 ^ 42 + 1), sent := true })] })] } (fun t => t.hbm.poison == [(2 ^ 42 + 1, { reason := 2, kind := 7 })] &&
    (t.port 0).err == 0x40 && t.leases.length == 1) = true := by decide +kernel

theorem witness_TransfersRun : allOf
    [(let x := { xf .copy (peerEnd 0) (ownEnd 0) with started := false, units := [] }
      let s := xfUp x []; (s.xfers.filter fun x => x.engine == 0 && x.started).length == 0 &&
        s.xfers.find? (fun x => x.engine == 0 && !x.started) == some x && s.xfer? x.id == some x),
     (let x := xf .copy (peerEnd 0) (ownEnd 0)
      let s := xfUp x []; x.size 0 == 128 && piecesOf (x.src.addr + x.off 0) (x.size 0) == [(0, 128)] && !s.peerBusy 0 3 0 0 false &&
        s.freeReqTag? 0 == some 0 && (s.port 0).live && decide ((s.port 0).reserved + 3 * 2 ≤ 2048) && !s.hep.d3hot),
     (let x := xf .fill (ownEnd 0) (ownEnd 64)
      let s := xfUp x []; x.count == 1 && x.len == 64 * 2 && piecesOf 64 128 == [(64, 128)] &&
        ((s.translate 1 64 128 .wr false).map (·.za)) == some (2 ^ 48 + 64) && (s.region? 3) == some (region 0x11 2) && !(region 0x11 2).leased && (region 0x11 2).moving.isNone &&
        s.writeBlocked ((2 ^ 48 + 64) / 64) 2 false == none && s.cmd? 2 == some xfCmd && s.held.isEmpty),
     (let x := xf .copy (ownEnd 0) (peerEnd 0); (xfUp x []).xfer? 3 == some x && x.dst.kind == 2)] = true := by decide +kernel
theorem test_fill : gives (.xferUnitComplete 3 0) (xfUp (xf .fill (ownEnd 0) (ownEnd 64)) []) (fun t => t.hbm.mem.length == 128 &&
    t.hbm.mem.head? == some ⟨2 ^ 48 + 64, 8⟩ && t.xfers == [] && (State.replies t).map (fun r => (r.status, r.result)) == [(0, 128)]) = true := by decide +kernel


/-! ## The host side -/

/-- One reply waits for the PF's ring, of 64 entries; the ring may also be full. -/
def ringUp (prod : BitVec 32) : State :=
  { up with
    fns := [(0, { up.fn 0 with ring := { (up.fn 0).ring with ctrl := 0x001, prod, held := [{ refusal with cmd := some 4 }] } })]
    cmds := [{ xfCmd with id := 4, st := .replied }] }
/-- Host reads of the PF: slot 1,023 for command 2. -/
def readUp (use : ReadUse) : State :=
  { up with
    fns := [(0, { up.fn 0 with gen := 3, tag14 := true, reads := [(1023, { gen := 3, use, len := 256, off := 0, got := 64 })] })]
    cmds := [{ xfCmd with opcode := 0x0500, p := pkt 1 [(8, 1, 1), (16, 8, 0x1000), (24, 2, 256)], data := List.replicate 256 0 }] }
theorem witness_HostTraffic : allOf
    [(let s := ringUp 63; s.running && (s.fn 0).bme && !(s.fn 0).flr && !s.hep.d3hot && (s.fn 0).ring.enabled && !(s.fn 0).ring.full &&
        s.cmds.all fun c => c.st != .parked && !s.shareWaits c), ((ringUp 64).fn 0).ring.full, (up.fn 0).ring.held.isEmpty,
     (let s := readUp (.cmd 2); 0x0BFF / 2 ^ (s.fn 0).slotBits != (s.fn 0).genField && 0x0FFF / 2 ^ (s.fn 0).slotBits == (s.fn 0).genField &&
        (tfind? (s.fn 0).reads (0x0FFF % 2 ^ (s.fn 0).slotBits)).map (·.use) == some (.cmd 2) && decide (64 + 191 < 256)),
     (let s := readUp (.cmd 2); !(s.fn 0).ctoDis && (s.cmd? 2).map (fun c => (c.st, c.opcode, c.lost)) == some (.running, 0x0500, false)),
     (tfind? ((readUp .quarantined).fn 0).reads 1023).map (·.use) == some .quarantined] = true := by decide +kernel
theorem test_replyRingWrite : gives (.replyRingWrite 0) (ringUp 63) (fun t => (t.fn 0).ring.prod == 64 && (t.fn 0).ring.held == [] && t.cmds == [] &&
    (match t.out with | [.hostWrite 0 a d _] => a == 5 * 4096 + 63 * 32 && d.length == 32 | _ => false)) = true := by decide +kernel
theorem test_hostCompletion_stale : gives (.hostCompletion 0 0x0BFF .good []) (readUp (.cmd 2)) (fun t => t.hep.staleCpl == 1) = true := by decide +kernel
theorem test_completionTimeout : gives (.completionTimeout 0 1023) (readUp (.cmd 2)) (fun t => (State.replies t).map (·.status) == [stUncorrectable] &&
    (t.fn 0).aerUnc == 0x4000 && (tfind? (t.fn 0).reads 1023).map (·.use) == some .quarantined) = true := by decide +kernel

def hwinUp : State :=
  { withRegion 0x11 4 with hep := { up.hep with hwin := [(0, { valid := true, rd := true, ctx := 1, pages := 4, handle := (withRegion 0x11 4).handleOf 3 }),
      (63, { valid := true, ctx := 1, pages := 1, dpaPage := 3, handle := (withRegion 0x11 4).handleOf 3 })] } }
theorem witness_CommitsApply : allOf
    [up.running, up.barOpen 0, up.barOpen 1, ({ up with fns := [(1, { up.fn 1 with mse := false })] } : State).hasFn 1,
     ({ up with fns := [(0, { up.fn 0 with flr := true })] } : State).hasFn 0, decide (bits up.qos.cfgSh.toNat 31 24 = up.qos.reserve), up.scRunning,
     decide (bits ({ up.qos with cfgSh := 0x0040_0200_4100_07D0 } : Qos).cfgSh.toNat 31 24 ≠ up.qos.reserve),
     decide ((up.dirDie 1).lowSh < (up.dirDie 1).highSh), decide (({ (up.dirDie 1) with lowSh := 0x20000 } : Dir).highSh ≤ 0x20000),
     decide (bits (up.fls 1).cfgSh.toNat 47 40 < bits (up.fls 1).cfgSh.toNat 39 32), !up.variantH,
     (let s := { hwinUp with hep := { hwinUp.hep with hwin := hwinUp.hep.hwin.take 1 } }
      s.hep.hwin.all fun e => e.2.valid && (s.hwinCheck e.1 e.2).isNone),
     (hwinUp.hep.hwin.all fun e => hwinUp.hwinCheck e.1 e.2 == some stBadParam)] = true := by decide +kernel
theorem test_hepHwinCommit : gives .hepHwinCommit hwinUp (fun t => t.hep.hwinStatus == stBadParam && t.hep.hwinEntry == 0 && t.hep.hwinOn == []) = true := by
  decide +kernel
theorem test_flsCommit : gives (.flsCommit 1) { up with flss := [(1, { cfgSh := 0x0020_1004_0006_DDD0 })] } (fun t =>
    (t.fls 1).cfg == 0x0020_0410_0006_DDD0) = true := by decide +kernel

theorem witness_RegistersWritten : allOf
    [up.pmc.powered, up.pmc.ready, up.hep.cfgReady, !up.hep.d3hot, up.barOpen 0, up.barOpen 1, up.cfgOpen 1, !up.pmc.perst, !up.hep.l2,
     !State.reset.hep.cfgReady, (({ up with fns := [(1, { up.fn 1 with flr := true })] } : State).fn 1).flr, up.hep.vfEnable, (up.fn 0).mse, (up.fn 1).mse, !(up.fn 1).flr, !up.pmc.fatal,
     decide ((0xFFFFF : BitVec 20).toNat / 64 < apertureSlots 0), decide (1023 < apertureSlots 255), decide (63 + 1 ≤ 64),
     (({ mask := BitVec.allOnes 64 - (1 <<< 63) } : Slot).write 63 [0]).mask == BitVec.allOnes 64] = true := by decide +kernel
theorem test_cap : gives (.registerWrite .bar0 0 0x220000 8 900) up (fun t => t.pmc.cap == 900) = true ∧
    gives (.registerWrite .bar0 0 0x220000 8 899) up (fun t => t.pmc.cap == 1700) = true ∧
    gives (.registerWrite .bar0 0 0x220000 2 900) up (fun t => (t.fn 0).aerUnc == 0x100000 && t.pmc.cap == 1700) = true := by decide +kernel
/-- The last byte of a slot submits it: MARK by the PF (R56). -/
theorem test_apertureSlotWrite : gives (.apertureSlotWrite 0 0x7F [0]) { up with fns := [(0, { up.fn 0 with slots :=
    [(1, { mask := BitVec.allOnes 64 - (1 <<< 63), data := 0x0002_1010 })] })] } (fun t => (t.fn 0).slots == [] &&
    ((t.fn 0).ring.held.length == 1)) = true := by decide +kernel

/-- Context 1 of VF 255. -/
def vfUp : State := { up with
  fns := up.fns ++ [(255, { gen := 15, maxCtx := 3, bme := true, mse := true })]
  ctxs := [(1, { st := .active, owner := 255, key := 1 })], cmds := [{ xfCmd with via := .aperture 255, p := pkt 1 [] }] }
theorem witness_FunctionResets : allOf
    [vfUp.running, vfUp.hep.vfEnable, vfUp.cfgOpen 255, vfUp.cfgOpen 0, ({ vfUp with hep := { vfUp.hep with d3hot := true } } : State).cfgOpen 0,
     ({ up with hep := {} } : State).pmc.rails && !({ up with hep := {} } : State).hep.cfgReady, vfUp.held.isEmpty, (vfUp.ctx 1).owner == 255, (vfUp.ctxs.all fun e => e.2.st != .draining), vfUp.pmc.powered && !vfUp.pmc.fatal,
     !vfUp.hep.d3hot, ({ up.hep with d3hot := true } : Hep).d3hot, (up.port 0).live, !(up.port 15).live, decide ((up.port 15).st ≠ .lost),
     ({ up.hep with btnWake := true, l2 := true } : Hep).btnWake, ({ up.hep with portWake := 0x8000 } : Hep).portWake.getLsbD 15,
     up.pmc.rails && !up.pmc.perst] = true := by decide +kernel
theorem test_vfFlr : gives (.vfFlr 255) vfUp (fun t => (t.fn 255).gen == 0 && (t.fn 255).flr && !(t.fn 255).bme && (t.fn 255).maxCtx == 3 && t.cmds == [] &&
    (t.ctx 1).st == .draining) = true := by decide +kernel
theorem test_d3hot : gives .d3hotEntry up (fun t => t.hep.d3hot && (t.port 0).st == .lost && (t.port 0).lossReason == 6 && (t.port 15).st == .off) = true := by
  decide +kernel
theorem test_pme : gives (.pmeEvent (.port 15)) { up with hep := { up.hep with portWake := 0x8000, l2 := true } } (fun t => t.hep.wake) = true ∧
    gives (.pmeEvent (.port 14)) { up with hep := { up.hep with portWake := 0x8000, l2 := true } } (fun t => !t.hep.wake) = true := by decide +kernel

/-- A host window of context 1 over the pinned region, and allowance at CTL. -/
def cxlUp : State :=
  { withRegion 0x11 4 with
    hep := { up.hep with memEnable := true, hdm := { committed := true }, hwinOn := [(0, { w := { valid := true, rd := true, wr := true, ctx := 1, pages := 4, dpaPage := 2 }, zaPage := 2 ^ 32, region := 3 })] }
    qos := { regs := [(4, { ctxs := [(1, { share := 4096, allow := 1 })] })] } }
theorem witness_CxlRequests : allOf
    [cxlUp.cxlOn, cxlUp.running, (cxlUp.hostWindow (2 * 65536)).isSome, (cxlUp.hostWindow (6 * 65536 - 64)).isSome, (cxlUp.hostWindow (6 * 65536)).isNone,
     (cxlUp.region? 3).isSome, cxlUp.isActive 1, cxlUp.held.isEmpty, decide (0 < ((cxlUp.regulator 4).get 1).allow), cxlUp.clean (2 ^ 42),
     (cxlUp.writeBlocked (2 ^ 42 + 4095) 1 false).isNone, settled cxlUp, cxlUp.hep.cxlWait.isEmpty,
     cxlUp.pmc.ready, !cxlUp.pmc.fatal, ({ cxlUp with pmc := { cxlUp.pmc with fatal := true } } : State).cxlOn,
     ({ cxlUp with pmc := { cxlUp.pmc with ready := false } } : State).cxlOn, (withRegion 0x11 4).cxlOn == false] = true := by decide +kernel
theorem test_memRd : gives (.memRd 0x20040 9) { cxlUp with hbm := { mem := [⟨2 ^ 48 + 64, 7⟩] } } (fun t => t.out.head? == some (.cxlData 9 7 false)) = true := by
  decide +kernel
theorem test_memWr : gives (.memWrPoison 0x5FFFF 9 5) cxlUp (fun t => t.hbm.mem == [⟨2 ^ 48 + 4 * 65536 - 64, 5⟩] && t.out.head? == some (.cxlCmp 9) &&
    t.hbm.poison == [(2 ^ 42 + 4095, { reason := 1 })]) = true := by decide +kernel
theorem test_memRd_refused : gives (.memRd 0x60000 9) cxlUp (fun t => t.out.head? == some (.cxlData 9 0 true) && t.hep.cxlRefused == 1) = true := by
  decide +kernel


/-! ## Memory dies, the tier and flash -/

def entry (seq line : Nat) (block : Bool) : WEntry := { seq, stack := 4, line, block, pri := .ofClass 0 {}, ctx := 1 }
/-- A pending drain of a line of a striped pinned region, and a parity delta; the scrubber of stack 19 is five lines from its lap's end. -/
def drainUp : State :=
  { withRegion 0x21 2 with
    wbuf := [entry 4 (2 ^ 42) false]
    hbmStk := [(0, { deltas := [(2 ^ 42 + 5, 7)] }),
      (19, { band := 2, bandTo := 2, pcBand := (List.range 63).map (·, 2), pcs := [(63, { st := .retiring })], lapLines := 11
             scrubbed := (List.range 64).map fun p => (p, if p = 63 then 31249995 else 31250000) })] }
/-- The same with another of the stripe's data lines in the buffer: two of two, so that they may drain together. -/
def matesUp : State := { drainUp with wbuf := [entry 4 (2 ^ 42) false, { entry 5 (2 ^ 42 + 1024) false with stack := 8 }] }
/-- Lines 9 and, in another run, none of pseudo-channel 5 of stack 19 are wrong. -/
def wrongUp : State := { up with hbmStk := [(19, { flips := [(2 ^ 25 * 5 + 9, BitVec.ofNat 576 0x0101010101)] })] }
theorem witness_MemorySteps : allOf
    [drainUp.pmc.powered, (drainUp.nextDrain 19).1.isNone, drainUp.schedulerIdle 19 63,
     (match drainUp.regionAt (64 * 2 ^ 42) with | some (i, r) => i == 3 && r.stripe && !r.tiered && (drainUp.mates r (entry 4 (2 ^ 42) false)).isNone &&
        (matesUp.mates r (entry 4 (2 ^ 42) false)).isSome | none => false), !zaTiered (64 * 2 ^ 42), drainUp.lineAvail (2 ^ 42) == .ok,
     (drainUp.stack 0).deltas == [(2 ^ 42 + 5, 7)], (drainUp.deltaStripe (2 ^ 42 + 5)).map (·.stack) == some 0,
     drainUp.running, decide ((drainUp.stack 19).st ≠ 2), !drainUp.hep.d3hot,
     decide (tget 0 (drainUp.stack 19).scrubbed 63 = 31249995), drainUp.wrongIn 19 63 31249995 5 == [],
     (List.range 63).all fun p => tget 0 (drainUp.stack 19).scrubbed p == 31250000 && tget 0 (drainUp.stack 19).pcBand p == 2,
     tget 0 (drainUp.stack 19).pcBand 63 == 0, tget 0 (drainUp.stack 0).pcBand 5 == (drainUp.stack 0).bandTo,
     tget 0 (up.stack 19).scrubbed 0 == 0, wrongUp.wrongIn 19 5 0 64 == [9], (wrongUp.physCheck 19 5 9).isNone,
     (drainUp.stack 19).scrubOn, decide ((drainUp.pc 19 63).st ≠ .frozen), !(drainUp.stack 19).late] = true := by decide +kernel
/-- The band goes up at 85 and 95 degrees and down 3 degrees below; it is in force once every pseudo-channel has loaded it (R304). -/
theorem test_temp : gives (.tempSensorRead 19 92) drainUp (fun t => (t.stack 19).bandTo == 2) = true ∧
    gives (.tempSensorRead 19 91) drainUp (fun t => (t.stack 19).bandTo == 1 && (t.stack 19).band == 2) = true ∧
    gives (.tempSensorRead 0 84) drainUp (fun t => (t.stack 0).bandTo == 0 && (t.stack 0).temp == 84) = true := by decide +kernel
theorem test_refresh_band : gives (.refresh 19 63 3)
    { drainUp with hbmStk := [(19, { bandTo := 2, pcBand := (List.range 63).map (·, 2) })] } (fun t =>
      (t.stack 19).band == 2 && (t.stack 19).switches == 1) = true ∧
    gives (.refresh 19 62 3) { drainUp with hbmStk := [(19, { bandTo := 2, pcBand := (List.range 62).map (·, 2) })] } (fun t =>
      (t.stack 19).band == 0 && tget 0 (t.stack 19).pcBand 62 == 2) = true := by decide +kernel
/-- A lap ends with the last line read, not before (R314). -/
theorem test_scrub : gives (.scrubRowRead 19 63 [] 5 true) drainUp (fun t => (t.stack 19).lapCount == 1 && (t.stack 19).lastLines == 16 &&
    (t.stack 19).lapLines == 0) = true ∧
    gives (.scrubRowRead 19 63 [] 4 true) drainUp (fun t => (t.stack 19).lapCount == 0 && (t.stack 19).lapLines == 15) = true := by decide +kernel

/-- Tier page 0 of region 3 with an entry, its frame in use where it has one; the page is on flash. -/
def pageUp (e : DirEnt) (t : Dir) : State :=
  { withRegion 0 1 with
    dir := [(0, e)], dirs := [(0, { t with cacheFrames := 100 })]
    fmap := [(0, { mapped := true, fls := 1, die := 15, block := 8191, unit := 9, units := 129 })]
    images := [(0, { head := imageHeader 0 4 (List.replicate 16 63) })], flash := { mem := [⟨5, 6⟩] } }
theorem frame_some (s : State) (page : Nat) (hn : s.framesFor (pageDir page) 1 true = true) (hp : s.pageStriped page = false)
    (h : (lowest (fun n => decide (n < halfFrames) && (s.frameOk (pageDir page) n && true)) 0 halfFrames).isSome = true) :
    (s.takeFrame page true).isSome = true := by
  have hk := pick_some s halfFrames halfFrames (fun n => s.frameOk (pageDir page) n && true) h
  unfold State.takeFrame State.grabFrame
  simp only [hn, hp, Bool.not_true, Bool.not_false, Bool.false_eq_true, if_false, if_true]
  cases e : s.pick halfFrames halfFrames (fun n => s.frameOk (pageDir page) n && true) with
  | mk a b =>
    rw [e] at hk
    cases a with
    | none => cases hk
    | some f => rfl
theorem witness_TierFetches_dispatch :
    (((pageUp { st := .flash, onFlash := true } { demandQ := [0], cache := [0] }).cacheEntry 0 1).takeFrame 0 true).isSome = true ∧
    (pageUp { st := .flash, onFlash := true } { demandQ := [0], cache := [0] }).pageCtx 0 = 1 :=
  ⟨frame_some _ _ (by decide +kernel) (by decide +kernel) (by decide +kernel), by decide +kernel⟩
def fetchPage : DirEnt := { st := .fetching, onFlash := true, frame := 7 }
def cleanPage : DirEnt := { st := .clean, onFlash := true, frame := 7, ref := true }
theorem witness_TierFetches : allOf
    [(let s := pageUp { st := .flash, onFlash := true } { demandQ := [0] }
      s.running && s.held.isEmpty && !s.tierHeld && decide ((s.dirDie 0).inFlight < 4096) && (s.dirDie 0).demandQ == [0] && (s.ent 0).st == .flash && settled s && !s.carveOutBad && !(s.ent 0).bad),
     (let s := pageUp fetchPage { used := [7], inFlight := 1 }
      (s.ent 0).st == .fetching && (s.dirDie 0).used.contains 7 && s.imageRead (s.readPlace 0) == some 0 && s.cmds.isEmpty && !s.readWaits 0 && !s.pageFrozen 0 &&
        !(tget {} s.images 0).dead && (tget {} s.images 0).sound (s.readPlace 0).units && s.wbuf.isEmpty),
     (let s := pageUp fetchPage { used := [7], inFlight := 1 }
      !({ s with images := [(0, {})] } : State).images.any (fun e => e.2.sound 129) && s.held.isEmpty && settled s),
     (let s := pageUp cleanPage { used := [7], pressure := true, high := 101 }
      s.needsVictims 0 && (s.dirDie 0).used == [7] && s.pageOfFrame 0 7 == some 0 && (s.ent 0) == cleanPage && !s.waiters 0 && !s.carveOutBad && settled s &&
        s.dir.all fun e => e.1 == 0), !(pageUp cleanPage {}).needsVictims 0,
     (let s := pageUp cleanPage { zeroing := 2 }; (s.dirDie 0).zeroing != 0 && s.stackIdle 19),
     (List.range 20).all fun k => !({ up with wbuf := (List.range 20).map fun n => { entry 4 (2 ^ 42) false with stack := n } } : State).stackIdle k, (let s := pageUp cleanPage { rejoin := 1 }
      (s.dirDie 0).zeroing == 0 && (s.dirDie 0).rejoin != 0)] = true := by decide +kernel
theorem test_fetchFailed : gives (.fetchFailed { page := 0, member := 3 } 2) (pageUp fetchPage { used := [7], inFlight := 1 }) (fun t =>
    (t.ent 0).st == .flash && (t.dirDie 0).inFlight == 0 && t.elog.next == 1 && (tget {} t.images 0).dead) = true := by decide +kernel
/-- A header whose CRC is wrong fails the fetch, and the image stays unreadable (R327, R333). -/
theorem test_fetchComplete : gives (.fetchComplete { page := 0, retries := 0, rebuilt := 0 })
    { pageUp fetchPage { used := [7], inFlight := 1 } with images := [(0, { head := List.replicate 32 0 })] } (fun t =>
    (t.ent 0).st == .flash && (t.dirDie 0).inFlight == 0 && (tget {} t.images 0).dead && t.hbm.mem == []) = true := by decide +kernel
theorem test_victim : gives (.victimSelection 0) (pageUp cleanPage { used := [7], pressure := true, high := 101 }) (fun t =>
    (t.ent 0).st == .flash && (t.dirDie 0).used == [] && t.hbm.mem == []) = true := by decide +kernel

def wbPage : DirEnt := { st := .writingBack, frame := 7, snapshot := 1 }
def img : Image := { page := 0, seq := 4, units := 129, place := { fls := 1, die := 2, block := 3, unit := 0, units := 129 } }
def commitUp (i : Image) (e : DirEnt) : State := { pageUp e {} with flss := [(1, { heldBack := [i] })], staged := { mem := [⟨9, 1⟩] } }
theorem witness_TierWritebacks : allOf
    [(let s := pageUp wbPage {}
      (s.ent 0).st == .writingBack && !(s.ent 0).readDone && !s.tierHeld && (match s.pageRegion 0 with | some (_, r) => !r.auto && !r.stripe | none => false) &&
        !(s.fls 0).lost && (tableRange s.hbm.poison 0 1024).isEmpty && s.wbuf.isEmpty && s.held.isEmpty && settled s && !(s.ent 0).bad),
     (let s := commitUp img { wbPage with readDone := true }
      (s.fls 1).heldBack == [img] && (s.fls 0).heldBack.isEmpty && s.current img && s.cmds.isEmpty && s.persisted img && !(s.ent 0).frameLost &&
        (s.ent 0).dirty == 0 && !(s.ent 0).evicting && !img.place.mapped && settled s && !(s.ent 0).bad),
     (let s := commitUp { img with tables := [5] } { wbPage with readDone := true }; !s.persisted { img with tables := [5] }),
     (let s := { up with ctxs := [(4095, { st := .draining, key := 1, durable := true, sealing := true, sealId := 9 })] }
      s.pmc.powered && !s.pmc.fatal && (s.ctx 4095).st == .draining && !s.busyCtx 4095 && !s.destroyWaits 4095 && settled s && s.held.isEmpty && s.regions.isEmpty && s.cmds.isEmpty)]
    = true := by decide +kernel
theorem witness_TierWritebacks_frozen : (pageUp wbPage {}).pageFrozen 0 = false := rfl
theorem test_writebackCommit : gives (.writebackCommit 0) (commitUp img { wbPage with readDone := true }) (fun t => (t.ent 0).st == .clean &&
    t.flash.mem == [⟨9, 1⟩] && (t.fls 1).heldBack == [] && tfind? t.fmap 0 == some { img.place with mapped := true }) = true := by decide +kernel
theorem test_ctxDrainComplete : gives (.ctxDrainComplete 4095) { up with ctxs := [(4095, { st := .draining, key := 6, durable := true, sealing := true, sealId := 9 })] }
    (fun t => t.ctxs == [] && (tfind? t.sealed 9).map (·.key) == some 6) = true := by decide +kernel

def groupUp (samples : Nat) : State :=
  { autoUp with groups := [(65536 * 3, { st := .sampling, samples, current := 6 })] }
theorem witness_TablesAndHashes : allOf
    [(groupUp 64).running, ((groupUp 64).region? 3).isSome, ((groupUp 64).group 3 0).st == .sampling, decide (64 ≤ ((groupUp 64).group 3 0).samples),
     decide ((groupUp 64).tablesOwned 1 < 4096), ((groupUp 64).table 65535).st == .free, ((groupUp 64).table 6).st != .free,
     (let s := { autoUp with tables := [(65535, { st := .freeing })] }; (s.table 65535).st == .freeing && !(s.proc 9).restarting && !(s.proc 10).restarting),
     (({ autoUp with fw := { procs := [(10, { restarting := true })] } } : State).proc 10).restarting, (autoUp.table 6).st == .current, !autoUp.variantH,
     (let s := { subUp with regions := [(3, { region 2 1 with share := .publishing, hashing := true })] }
      (s.region? 3).map (·.share) == some .publishing && (s.region? 3).map (·.hashing) == some true && s.held.isEmpty)] = true := by decide +kernel
theorem test_tableFree : gives (.tableFree 65535) { autoUp with tables := [(65535, { st := .freeing })], mems := [(9, { cache := [65535, 6] })] } (fun t =>
    t.tables == [] && (t.mem 9).cache == [6]) = true := by decide +kernel
theorem test_hashStart : gives (.hashStart 3) { subUp with regions := [(3, { region 2 1 with share := .publishing })] } (fun t =>
    (t.region? 3).map (·.hashing) == some true) = true := by decide +kernel

/-- Pseudo-channel 63 of stack 19 in a state. -/
def pcUp (st : PcSt) (n : Nat) : State := { up with hbmStk := [(19, { spareFree := 1562500, pcs := [(63, { st, freezeCount := n })] })] }
/-- Five symbols of a line of code S are wrong: more than its check corrects (R306). -/
def badLine : Finding := { pcLine := 33554431, flips := BitVec.ofNat 576 0x0101010101 }
def hurtUp : State := { up with hbmStk := [(19, { flips := [(2 ^ 25 * 63 + 33554431, badLine.flips)] })] }
theorem witness_MemoryFaults : allOf
    [up.running, up.coreRuns 19, decide ((up.stack 19).st = 0), decide ((up.pc 19 63).st = .running), (hurtUp.physCheck 19 63 33554431).isNone, (hurtUp.remapLine 19 63 33554431 1).isSome,
     (up.physCheck 19 63 33554431).map (·.fix) == some 0, !up.pmc.booting,
     decide (((pcUp .running 1).pc 19 63).freezeCount < 2), decide (((pcUp .frozen 2).pc 19 63).st = .frozen), (pcUp .frozen 2).regions.isEmpty && (pcUp .frozen 2).dir.isEmpty,
     decide (((pcUp .retiring 0).pc 19 63).st = .retiring), ({ up with hbmStk := [(19, { st := 2 })] } : State).hbmStk.length == 1,
     (up.unitCmds 0x0800 6 63).isEmpty,
     ({ up with cmds := [{ xfCmd with opcode := 0x0800, p := pkt 0 [(8, 1, 6), (12, 4, 63), (16, 1, 1)] }] } : State).unitCmds 0x0800 6 63 |>.length |> (· == 1)]
    = true := by decide +kernel
theorem test_freeze : gives (.caParityError 19 63 0 3) (pcUp .running 1) (fun t => t.pc 19 63 == { st := .frozen, freezeCount := 2 }) = true ∧
    gives (.writeCrcError 19 63 0 2) (pcUp .running 1) (fun t => t.pc 19 63 == { st := .running, freezeCount := 1 }) = true := by decide +kernel
theorem test_rebuild : gives (.rebuildComplete { kind := 2, index := 1279 }) (pcUp .retiring 0) (fun t => (t.pc 19 63).st == .retired &&
    (t.stack 19).spareFree == 1074219 && t.repairs == [1279]) = true := by decide +kernel

def flsUp (f : Fls) : State := { pageUp { wbPage with readDone := true } {} with flss := [(1, f)], staged := { mem := [⟨9, 1⟩] } }
theorem witness_FlashEvents : allOf
    [(flsUp { stopped := true }).running, ((flsUp { stopped := true }).fls 1).stopped, !((flsUp {}).fls 1).lost,
     (let s := flsUp { programming := [img] }; s.pmc.powered && !s.hep.d3hot && (s.fls 1).programming == [img] && s.current img && s.persisted img && img.placed &&
        (s.fls 1).openW.isEmpty),
     !(flsUp {}).persisted { img with tables := [5] }, (flsUp {}).flashCore 1,
     (let s := flsUp { blocks := [(131070, { free := false })], nand := [(15, { erase := some 8190 })] }
      (s.nand 1 15).erase == some 8190 && (s.nand 1 15).reading.isEmpty && (s.fls 1).openW.isEmpty),
     !(flsUp { openBlk := some 131070, blocks := [(131070, { free := false })] }).closedBlock 1 131070,
     !(flsUp {}).relocDue 1 131070, (flsUp {}).flashDieUp 383, !(flsUp {}).variantH, ((flsUp { lost := true }).fls 1).lost]
    = true := by decide +kernel
theorem test_programComplete : gives (.programComplete 1) (flsUp { programming := [img] }) (fun t => t.flash.mem == [⟨9, 1⟩] && (t.fls 1).programming == [] &&
    tfind? t.fmap 0 == some { img.place with mapped := true }) = true := by decide +kernel
theorem not_gcVictim (s : State) (d key : Nat) (h : s.closedBlock d key = false) : s.gcVictim d key = false := by
  simp [State.gcVictim, h]
theorem witness_FlashEvents_stays : (flsUp {}).gcVictim 1 131070 = false := not_gcVictim _ _ _ (by decide +kernel)
/-- Every block of die index 15 is in use and holds nothing valid: each is a victim, the last one too; a program is under way there. -/
def crowdedUp : State :=
  { flsUp { blocks := (List.range 8192).map fun n => (122880 + n, { free := false }), nand := [(15, { program := some (9, 3) })] } with fmap := [] }
theorem crowded_free : crowdedUp.freeBlocks 1 15 = 0 := by
  have h : ((crowdedUp.fls 1).blocks.filter fun e => e.1 / 8192 == 15 && !e.2.free).length = 8192 := by decide +kernel
  unfold State.freeBlocks
  omega
theorem witness_FlashEvents_gc : crowdedUp.gcVictim 1 131071 = true ∧ (crowdedUp.nand 1 15).working = true ∧ (crowdedUp.nand 1 15).demand = [] ∧
    (crowdedUp.nand 1 15).reloc = [] ∧ crowdedUp.flashCore 1 = true := by
  refine ⟨?_, by decide +kernel⟩
  have hc : crowdedUp.closedBlock 1 131071 = true := by decide +kernel
  have hb : (tget {} (crowdedUp.fls 1).blocks 131071).born = 0 := by decide +kernel
  have hg : 0 < (crowdedUp.fls 1).gcStart := by decide +kernel
  have hf : crowdedUp.freeBlocks 1 (131071 / 8192) = 0 := crowded_free
  have hv : ∀ k, crowdedUp.validUnits 1 k = 0 := fun _ => rfl
  unfold State.gcVictim
  simp only [hf, hg, hc, hb, hv, decide_true, Bool.true_and, List.all_eq_true]
  intro e _
  simp
/-- Both dies with another FLS_CFG shadow than after reset, so that their entries stand whatever LOW_SPARE is. -/
def flsBoth (f : Fls) : State := { flsUp {} with flss := [(0, { cfgSh := 1 }), (1, { f with cfgSh := 1 })] }
theorem test_eraseFailure : gives (.eraseFailure 1 15 8190 11)
    (flsBoth { blocks := [(131070, { free := false })], nand := [(15, { erase := some 8190 })] }) (fun t =>
    (tget {} (t.fls 1).blocks 131070).retired == 0x800 && (t.fls 1).err == 8) = true := by decide +kernel
theorem test_flashDieLost : gives (.flashDieLost 383) (flsBoth {}) (fun t => !t.flashDieUp 383 && (t.fls 1).err == 0x10 &&
    tget 0 (t.fls 1).diesOut 11 == 0x8000 && t.elog.next == 1) = true := by decide +kernel


/-! ## Supply, power, boot, firmware processors -/

def pmcUp (f : Pmc → Pmc) : State := { up with pmc := f up.pmc }
def hUp (s : State) : State := { s with variantH := true }
theorem witness_SupplyRanges : allOf
    [up.pmc.powered, !up.pmc.overvolt, !up.pmc.sag, !up.pmc.holdup, up.hasJournal, !up.hep.d3hot, !(up.fls 1).lost, !(up.fls 1).flushing, !up.pmc.standby,
     !(hUp up).hasJournal, !(hUp up).flushPending, !up.pmc.resetWait, (up.fls 0).programming.isEmpty && (up.fls 1).programming.isEmpty,
     (let s := { flsUp { flushing := true } with journals := [{ seq := 1, die := 1, page := 0, place := {}, flashA := 0, flashB := 0, img := {}, data := {} }] }
      (s.fls 1).flushing && (s.bufferOf 1).length == 1 && (s.bufferOf 0).isEmpty),
     !({ up.pmc with powered := false } : Pmc).powered, decide ((6000 : BitVec 16).toNat ≤ 6300), decide ((3799 : BitVec 16).toNat < 3800)] = true := by
  decide +kernel
theorem test_holdup : gives (.supplyHoldup 3999) up (fun t => t.pmc.holdup && t.pmc.sag && t.pmc.err == 6 && (t.fls 0).flushDue && (t.fls 1).stopped) = true ∧
    gives (.supplyHoldup 4000) up (fun t => t == up) = true := by decide +kernel
theorem test_undervoltage : gives (.supplyUndervoltage 3799) (hUp up) (fun t => !t.pmc.powered && t.pmc.lastOff == 1 && t.ctxs == [] && t.ports == []) = true := by
  decide +kernel

theorem witness_PowerLadder : allOf
    [decide (1 ≤ up.pmc.stage), !(up.proc 1).restarting, up.pmc.hot.isEmpty, !up.pmc.safeCap, decide (11 * up.pmc.effCap < 10 * 1871),
     decide (10 * 1870 ≤ 11 * up.pmc.effCap), (pmcUp fun p => { p with safeCap := true }).pmc.safeCap, !up.pmc.emergency, !up.pmc.standby && !up.variantH,
     (List.range 69).all fun i => decide (up.reading [] i < 70)] = true := by decide +kernel
theorem test_evaluation : gives (.powerEvaluation 1701 []) up (fun t => t.pmc.level == 1 && t.pmc.err == 1 && t.pmc.hot == []) = true ∧
    gives (.powerEvaluation 1614 []) (pmcUp fun p => { p with level := 3, calm := 9 }) (fun t => t.pmc.level == 2 && t.pmc.calm == 0) = true ∧
    gives (.powerEvaluation 1615 []) (pmcUp fun p => { p with level := 3, calm := 9 }) (fun t => t.pmc.level == 3 && t.pmc.calm == 0) = true ∧
    gives (.powerEvaluation 900 [110]) up (fun t => t.pmc.level == 7 && t.pmc.emergency && t.pmc.hot == [0]) = true := by decide +kernel

def bootUp (stage : Nat) : State := { State.reset with pmc := { perst := false, booting := true, stage } }
theorem witness_BootChain : allOf
    [(let s : State := { State.reset with pmc := { powered := false, rails := false } }
      s.pmc.supplyOk && !s.pmc.tripLatch && !s.pmc.standby && !(s.pmc.powered && s.pmc.rails) && !s.flushPending),
     State.reset.pmc.perst && !State.reset.pmc.resetWait && State.reset.pmc.powered && State.reset.pmc.rails,
     (hUp up).pmc.powered && !(hUp up).hasJournal && !(hUp up).flushPending && !(hUp up).hep.l2,
     (bootUp 0).pmc.booting && !(bootUp 0).pmc.fatal && !(bootUp 0).pmc.bootPaused && !(bootUp 0).pmc.holdup, (bootUp 0).imageOk (bootUp 0).fw.active,
     (bootUp 0).fw.inactive.isNone, (bootUp 5).pmc.stage == 5, (bootUp 1).pmc.stage == 1, ((bootUp 5).port 15).enable, (bootUp 6).pmc.stage == 6,
     ({ up with fw := { pendingFloor := 2 } } : State).fw.pendingFloor != 0, !up.fwEmergency] = true := by decide +kernel
theorem test_boot : gives (.bootStageEnd .passed) (bootUp 5) (fun t => t.pmc.stage == 6 && (t.port 15).st == .detect) = true ∧
    gives (.bootStageEnd .imageBad) (bootUp 0) (fun t => t.pmc.fatal && t.pmc.stopReason == 1) = true ∧
    gives .linkTrainingStageEnd (bootUp 6) (fun t => t.pmc.ready && t.pmc.stage == 7) = true := by decide +kernel

theorem witness_ProcessorRestarts : allOf
    [up.pmc.powered && !up.pmc.fatal, decide ((if (10 : Nat) ≤ 2 then 1 else 5) ≤ up.pmc.stage), !(up.proc 10).restarting, up.cmds.isEmpty,
     up.fw.phase == .idle, up.linkUp, !State.linkUp { up with hep := { up.hep with l2 := true } }, !bit (up.fn 0).aerUncMask.toNat 22,
     bit (up.fn 0).aerUncSev.toNat 22, (({ up with fw := { procs := [(1, { restarting := true })] } } : State).proc 1).restarting] = true := by decide +kernel
theorem test_heartbeat : gives (.heartbeatTimeout 1 3 false) up (fun t => t.pmc.safeCap && t.pmc.level == 5 && (t.proc 1).restarting && t.elog.next == 1) = true ∧
    gives (.heartbeatTimeout 10 4 false) up (fun t => t == up) = true := by decide +kernel

def fwUp (phase : FwPhase) (changed : List Nat) : State :=
  { up with fw := { phase, actCmd := some 2, changed }, cmds := [{ xfCmd with opcode := 0x0901, p := pkt 0 [], st := .parked }] }
theorem witness_ActivationCourse : allOf
    [begins up specFwActivate pf (pkt 0 []) fun u c => u.fw.phase == .idle && par c.p 8 4 == 0,
     begins { up with fw := { phase := .quiescing } } specFwActivate pf (pkt 0 [(8, 4, 1)]) fun u c => u.fw.phase != .idle && par c.p 8 4 == 1,
     (fwUp .verifying []).running && (fwUp .verifying []).fw.actCmd == some 2, (fwUp .verifying []).verify != 0, !(fwUp .quiescing []).fwEmergency,
     (fwUp .quiescing [4]).fw.changed == [4] && (fwUp .quiescing [4]).cmds.all fun c => c.st != .running, (fwUp .switching []).fw.switching.isEmpty,
     (let s := { fwUp .waiting [] with pmc := { up.pmc with sag := true } }; s.fw.pending && s.fwEmergency)] = true := by decide +kernel
theorem test_quiesced : gives .activateQuiesced (fwUp .quiescing [4]) (fun t => t.fw.phase == .switching && t.fw.switching == [2] && (t.proc 2).restarting) = true := by
  decide +kernel

/-! ## Attestation and sideband -/

def spdmUp (c : Spdm) : State := { up with fw := { spdm := [(0, c)] } }
theorem witness_SpdmResponses : allOf
    [up.spdmReach .doe, up.spdmReach .mctp, up.spdmReach .relay, !up.switchingNow, (fwUp .switching []).switchingNow, (fwUp .switching []).spdmReach .relay,
     !up.fw.signing, ((spdmUp { versioned := true }).conn .doe).versioned, !(up.conn .doe).versioned, ((spdmUp { versioned := true, version := 0x12 }).conn .doe).version == 0x12,
     (up.conn .doe).version == 0, ((spdmUp { versioned := true, version := 0x13, negotiated := true }).conn .doe).negotiated, (up.conn .mctp).deferred.isNone,
     ((spdmUp { versioned := true, version := 0x13, negotiated := true, deferred := some (.digests 0x13) }).conn .doe).deferred == some (.digests 0x13)]
    = true := by decide +kernel
theorem witness_SidebandResponses : allOf
    [up.pmc.powered && up.hep.cfgReady, (cdatRead 5).isSome, (cdatRead 6).isNone, !State.reset.sideUp, up.sideUp, !up.romOnly,
     (let s := pmcUp fun p => { p with fatal := true, stage := 0, stopReason := 1 }; s.romOnly && s.sideUp && s.alert), !up.alert] = true := by decide +kernel
theorem test_sideband : gives (.getTemps 68 1) up (fun t => t.out == [.smbus [0, 0]]) = true ∧ gives (.getTemps 68 2) up (fun t => t.out == [.smbus [1]]) = true ∧
    gives (.setEndpointId 8) up (fun t => t.pmc.eid == 8 && t.out == [.smbus [0, 0, 8, 0]]) = true ∧
    gives .getPower (pmcUp fun p => { p with fatal := true, stage := 0, stopReason := 1 }) (fun t => t.out == [.smbus [2]]) = true ∧
    gives (.vendorUnsupportedCommand 7) up (fun t => t.out == [.smbus [5]]) = true := by decide +kernel
theorem witness_AlertPin : allOf
    [up.pmc.powered, up.sideUp, (pmcUp fun p => { p with holdup := true }).alert, !up.alert,
     (bootUp 0).fw.inactive.isNone, (bootUp 1).pmc.stage == 1, (bootUp 1).pmc.powered] = true := by decide +kernel
theorem test_alert : gives .alertResponse (pmcUp fun p => { p with overvolt := true }) (fun t => t.out == [.smbus [0x62]]) = true := by decide +kernel


/-! ## Pliust -/

/-- An instruction word (R262). -/
def word (op d a b c fn fmt imm : Nat) : BitVec 64 :=
  BitVec.ofNat 64 (op + d <<< 8 + a <<< 12 + b <<< 16 + c <<< 20 + fn <<< 24 + fmt <<< 28 + imm <<< 32)
/-- Run 7 of context 1, of the loaded kernel of slot 0 with one instruction, on engine 151. -/
def kRun : Run := { id := 7, cmd := 2, ctx := 1, tag := 5, handle := 0x80001000, want := 1, args := [11, 12], started := true, engines := [151] }
def kern (w : BitVec 64) : Kernel := { ctx := 1, seq := 1, slabKb := 2048, maxEngines := 0, code := [w] }
def engUp (g : Engine) (w : BitVec 64) : State :=
  { withRegion 0x11 2 with
    engines := [(151, { g with run := some 7 })], disp := { runs := [kRun], kernels := [(0, kern w)], nextRun := 8 }
    cmds := [{ xfCmd with opcode := 0x0501 }] }
def slotOf (g : Engine) (w : BitVec 64) : Slot4 := { e := 151, r := kRun, k := kern w, g := { g with run := some 7 }, w := w.toNat }
theorem stands (g : Engine) (w : BitVec 64) (op : Nat) (hp : g.pc = 0) (he : g.ended = false) (ho : bits w.toNat 7 0 = op) :
    Stands (engUp g w) (slotOf g w) op :=
  { runs := rfl, engine := rfl, run := rfl, good := rfl, going := he, loaded := (by decide : loadedHandle kRun.handle = true), kernel := by simp [State.kernelOf, engUp, slotOf, kRun, kern, tfind?, bits]
    word := ⟨w, by show [w][g.pc]? = some w; rw [hp]; rfl, rfl⟩, code := ho }
/-- What an engine is after one instruction. -/
def after (i : Instr) (s : State) (f : Engine → Bool) : Bool := gives i s fun t => f (t.engine 151)

theorem witness_ScalarInstructions : Stands (engUp {} (word 2 0 1 0 0 0 0 0x02000003)) (slotOf {} (word 2 0 1 0 0 0 0 0x02000003)) 2 ∧
    Stands (engUp {} (word 3 0 1 2 0 4 0 5)) (slotOf {} (word 3 0 1 2 0 4 0 5)) 3 ∧
    Stands (engUp {} (word 4 15 0 0 0 1 0 0xFFFFFFFF)) (slotOf {} (word 4 15 0 0 0 1 0 0xFFFFFFFF)) 4 ∧
    Stands (engUp {} (word 5 3 1 2 0 10 1 63)) (slotOf {} (word 5 3 1 2 0 10 1 63)) 5 ∧
    Stands (engUp {} (word 6 3 0 0 0 0 0 1)) (slotOf {} (word 6 3 0 0 0 0 0 1)) 6 ∧ (0 : Nat) < 64 :=
  ⟨stands _ _ _ rfl rfl (by decide), stands _ _ _ rfl rfl (by decide), stands _ _ _ rfl rfl (by decide), stands _ _ _ rfl rfl (by decide),
   stands _ _ _ rfl rfl (by decide), by decide⟩
def inFlight (tag op : Nat) : Stream := { tag, op, pc := 0, fmt := 0, la := 0, len := 64, slab := 128 }
theorem witness_ScalarInstructions_end : Stands (engUp {} (word 1 0 0 0 0 0 0 0)) (slotOf {} (word 1 0 0 0 0 0 0 0)) 1 ∧
    Stands (engUp { streams := [inFlight 15 8] } (word 0x0C 0 0 0 0 0 0 0x8000)) (slotOf { streams := [inFlight 15 8] } (word 0x0C 0 0 0 0 0 0 0x8000)) 0x0C ∧
    Stands (engUp { streams := [inFlight 15 7] } (word 0x18 0 0 0 0 0 0 0)) (slotOf { streams := [inFlight 15 7] } (word 0x18 0 0 0 0 0 0 0)) 0x18 ∧
    kRun.started = true ∧ 151 ∈ kRun.engines ∧ ((engUp {} 1).proc 4).restarting = false ∧ bit (iImm (word 0x0C 0 0 0 0 0 0 0x8000).toNat) 15 = true :=
  ⟨stands _ _ _ rfl rfl (by decide), stands _ _ _ rfl rfl (by decide), stands _ _ _ rfl rfl (by decide), by decide, by decide, by decide +kernel, by decide⟩
theorem test_loop : after (.loop 151) (engUp { x := [(1, 9)] } (word 2 0 1 0 0 0 0 0x02000003)) (fun g => g.pc == 1 &&
      g.loops == [{ first := 1, stop := 3, left := 2 }]) = true ∧
    after (.loop 151) (engUp { x := [(1, 2 ^ 64 - 1)] } (word 2 0 1 0 0 0 0 0x02000003)) (fun g => g.pc == 3 && g.loops == []) = true := by decide +kernel
theorem test_skip : after (.skip 151) (engUp { x := [(1, 2 ^ 63)] } (word 3 0 1 2 0 2 0 5)) (fun g => g.pc == 6) = true ∧
    after (.skip 151) (engUp { x := [(1, 2 ^ 63)] } (word 3 0 1 2 0 4 0 5)) (fun g => g.pc == 1) = true := by decide +kernel
theorem test_li : after (.li 151) (engUp {} (word 4 15 0 0 0 0 0 0xFFFFFFFF)) (fun g => g.xr 15 == 2 ^ 64 - 1) = true ∧
    after (.li 151) (engUp { x := [(15, 2 ^ 40 + 5)] } (word 4 15 0 0 0 1 0 7)) (fun g => g.xr 15 == 7 * 2 ^ 32 + 5) = true := by decide +kernel
theorem test_salu : after (.salu 151) (engUp { x := [(1, 3), (2, 5)] } (word 5 3 1 2 0 1 0 0)) (fun g => g.xr 3 == 2 ^ 64 - 2) = true ∧
    after (.salu 151) (engUp { x := [(1, 2 ^ 64 - 8)] } (word 5 3 1 0 0 8 1 2)) (fun g => g.xr 3 == 2 ^ 64 - 2) = true := by decide +kernel
theorem test_arg : after (.arg 151) (engUp {} (word 6 3 0 0 0 0 0 1)) (fun g => g.xr 3 == 12) = true := by decide +kernel
theorem test_endOp : gives (.endOp 151) (engUp { x := [(12, 3), (13, 4)] } (word 1 0 0 0 0 0 0 0)) (fun t => t.disp.runs == [] && (t.engine 151).run == none &&
    (State.replies t).map (fun r => (r.status, r.result)) == [(0, BitVec.ofNat 128 (3 + 4 <<< 64))]) = true := by decide +kernel

/-- A SIN of 64 bytes of LA 64 into slab offset 128 under tag 15. -/
def sinWord (op : Nat) : BitVec 64 := word op 3 1 2 4 0 0 15
def sinRegs : Engine := { x := [(1, 64), (2, 64), (3, 128), (4, 1)] }
theorem witness_StreamInstructions : Stands (engUp sinRegs (sinWord 7)) (slotOf sinRegs (sinWord 7)) 7 ∧
    ((engUp sinRegs (sinWord 7)).streamRefused (slotOf sinRegs (sinWord 7)) ((slotOf sinRegs (sinWord 7)).stream 7)) = none ∧
    ((engUp sinRegs (sinWord 8)).streamRefused (slotOf sinRegs (sinWord 8)) ((slotOf sinRegs (sinWord 8)).stream 8)) = none ∧
    ((slotOf sinRegs (sinWord 7)).stream 7).tag = 15 ∧ ((slotOf { x := [(1, 63)] } (sinWord 9)).stream 9).la % 64 ≠ 0 ∧
    ((slotOf sinRegs (sinWord 0x0A)).stream 0x0A).len = 1 := by
  refine ⟨stands _ _ _ rfl rfl (by decide), ?_⟩
  decide +kernel
/-- A SIN that fills slab bytes 128 to 191 holds back a VLD of them, a SOUT of them and a VST over them, and no VLD of byte 192 on (R263). -/
theorem witness_stalls : allOf
    [(slotOf { streams := [inFlight 15 7] } 0).stalls [(128, 2048)] [], !(slotOf { streams := [inFlight 15 7] } 0).stalls [(192, 2048)] [],
     (slotOf { streams := [inFlight 15 7] } 0).stalls [] [(0, 2048)], !(slotOf { streams := [inFlight 15 8] } 0).stalls [(128, 64)] [],
     (slotOf { streams := [inFlight 15 8] } 0).stalls [] [(128, 64)], !(slotOf sinRegs 0).stalls [(128, 64)] [(128, 64)]] = true := by decide +kernel
/-- Records of the expansion queue: at the front, behind it, and one whose header is not sound. -/
def soundRec : List Byte := leBytes 64 1
theorem witness_VectorInstructions_records : recSound soundRec = true ∧ recSound (leBytes 64 0) = false ∧ [soundRec].head? = some soundRec ∧
    (65024 : Nat) + 512 = 65536 ∧ (64512 : Nat) + 512 < 65536 ∧ Stands (engUp { expQ := [soundRec, leBytes 64 0], expPos := 65024 } (word 0x0D 1 0 0 0 0 2 0))
      (slotOf { expQ := [soundRec, leBytes 64 0], expPos := 65024 } (word 0x0D 1 0 0 0 0 2 0)) 0x0D := by
  refine ⟨by decide +kernel, by decide +kernel, rfl, rfl, by decide, stands _ _ _ rfl rfl (by decide)⟩
theorem test_sin : after (.sin 151) (engUp sinRegs (sinWord 7)) (fun g => g.pc == 1 && g.streams.map (fun t => (t.tag, t.la, t.len, t.slab)) == [(15, 64, 64, 128)]) = true ∧
    after (.sin 151) (engUp { sinRegs with streams := [inFlight 15 7] } (sinWord 7)) (fun g => g.pc == 0) = true ∧
    gives (.sin 151) (engUp { sinRegs with x := [(1, 1), (2, 64)] } (sinWord 7)) (fun t => t.disp.runs == [] &&
      (State.replies t).map (·.status) == [stBadParam]) = true := by decide +kernel

theorem witness_VectorInstructions : Stands (engUp {} (word 0x0D 1 0 0 0 0 1 1024)) (slotOf {} (word 0x0D 1 0 0 0 0 1 1024)) 0x0D ∧
    Stands (engUp {} (word 0x0E 1 0 0 0 0 0 0)) (slotOf {} (word 0x0E 1 0 0 0 0 0 0)) 0x0E ∧
    Stands (engUp {} (word 0x0F 1 2 3 4 8 0 0)) (slotOf {} (word 0x0F 1 2 3 4 8 0 0)) 0x0F ∧ Stands (engUp {} (word 0x10 1 2 3 4 0 1 0)) (slotOf {} (word 0x10 1 2 3 4 0 1 0)) 0x10 ∧
    Stands (engUp {} (word 0x11 1 2 0 0 2 0 0)) (slotOf {} (word 0x11 1 2 0 0 2 0 0)) 0x11 ∧ Stands (engUp {} (word 0x12 1 2 0 0 3 0 0)) (slotOf {} (word 0x12 1 2 0 0 3 0 0)) 0x12 ∧
    Stands (engUp {} (word 0x13 1 2 0 0 0 2 0)) (slotOf {} (word 0x13 1 2 0 0 0 2 0)) 0x13 ∧ Stands (engUp {} (word 0x14 1 2 0 0 0 5 0)) (slotOf {} (word 0x14 1 2 0 0 0 5 0)) 0x14 ∧
    Stands (engUp {} (word 0x15 0 0 0 0 0 0 0)) (slotOf {} (word 0x15 0 0 0 0 0 0 0)) 0x15 ∧ Stands (engUp {} (word 0x16 0 1 2 0 5 5 0)) (slotOf {} (word 0x16 0 1 2 0 5 5 0)) 0x16 ∧
    Stands (engUp {} (word 0x17 1 0 0 0 0 1 0)) (slotOf {} (word 0x17 1 0 0 0 0 1 0)) 0x17 ∧ 64 * panelBytes 5 ≤ 1024 * 2048 ∧ 64 * panelBytes 0 ≤ 1024 * 2048 :=
  ⟨stands _ _ _ rfl rfl (by decide), stands _ _ _ rfl rfl (by decide), stands _ _ _ rfl rfl (by decide), stands _ _ _ rfl rfl (by decide),
   stands _ _ _ rfl rfl (by decide), stands _ _ _ rfl rfl (by decide), stands _ _ _ rfl rfl (by decide), stands _ _ _ rfl rfl (by decide),
   stands _ _ _ rfl rfl (by decide), stands _ _ _ rfl rfl (by decide), stands _ _ _ rfl rfl (by decide), by decide⟩
/-- VLD one byte beyond the end of the slab (R264). -/
theorem test_vld : gives (.vld 151) (engUp {} (word 0x0D 1 0 0 0 0 1 (2097152 - 1023))) (fun t =>
    (State.replies t).map (·.status) == [stBadParam]) = true := by decide +kernel
theorem test_mzero : after (.mzero 151) (engUp { acc := [(5, 1)] } (word 0x15 0 0 0 0 0 0 0)) (fun g => g.acc == [] && g.pc == 1) = true := by decide +kernel

/-- The run of a loaded kernel that waits, and a SIN in flight. -/
def waitRun : Run := { kRun with started := false, engines := [] }
def queueUp : State := { engUp {} 1 with engines := [], disp := { runs := [waitRun], kernels := [(0, kern 1)] } }
theorem witness_RunsAndStreams : allOf
    [queueUp.running && !queueUp.hep.d3hot && !queueUp.fwHolds 5, queueUp.disp.runs.all fun r => !queueUp.overCount r, queueUp.fits waitRun == some 1,
     queueUp.run? 7 == some waitRun, loadedHandle waitRun.handle,
     (let s := { queueUp with disp := { queueUp.disp with engineCap := 1, runs := [kRun, { waitRun with id := 8, waited := true }] } }
      (s.fits { waitRun with id := 8, waited := true }).isNone),
     (let s := engUp { streams := [inFlight 15 7] } 1
      (s.engine 151).run == some 7 && s.run? 7 == some kRun && (s.engine 151).streams == [inFlight 15 7] && !(s.engine 151).ended &&
        ((s.engine 151).streams.find? fun t => t.tag == 14).isNone &&
        (match s.moverRead (s.kernelMover 151 1 ((inFlight 15 7).waiter kRun 151)) 0 64 with | (.ok l, v) => l.length == 1 &&
          (match v.run? 7 with | some q => q.started && q.engines.contains 151 | none => false) | _ => false)),
     (let s := { queueUp with disp := { runs := [{ kRun with handle := 0x26, args := [0, 0, 0, 0, 1, 0], units := 1 }] } }
      s.disp.runs.all fun r => !loadedHandle r.handle && decide (r.total ≤ r.units)),
     (queueUp.engine 151).inService, !(({ queueUp with engines := [(151, { inService := false })] } : State).engine 151).inService] = true := by decide +kernel
theorem test_streamComplete : after (.streamComplete 151 15) { engUp { streams := [inFlight 15 7] } 1 with hbm := { mem := [⟨2 ^ 48 + 3, 9⟩] } } (fun g =>
    g.streams == [] && g.slab == [⟨131, 9⟩] && g.pc == 0) = true := by decide +kernel
theorem test_engineFailure : gives (.engineFailure 151) (engUp {} 1) (fun t => !(t.engine 151).inService && t.disp.runs == [] &&
    (t.chd 3).err.toNat == 3 && (State.replies t).map (·.status) == [stUncorrectable]) = true := by decide +kernel


/-! ## Witnesses for further clauses -/

theorem room_empty (s : State) (h : s.wbuf = []) (n : Nat) (hn : n ≤ 1024) : s.vacant n := fun k => by simpa [State.bufferLines, h] using hn
/-- An empty write buffer has room for every request's lines. -/
theorem witness_vacant : (goUp 0x11).vacant 64 ∧ (goUp 0x51).vacant 64 ∧ (goUp 0x91).vacant 1 ∧ (goUp 0x11).vacant 128 ∧ cxlUp.vacant 1 :=
  ⟨room_empty _ rfl _ (by decide), room_empty _ rfl _ (by decide), room_empty _ rfl _ (by decide), room_empty _ rfl _ (by decide),
   room_empty _ rfl _ (by decide)⟩

/-- Every lease is in use, on other lines. -/
def leasedOut : State := { goUp 0x91 with leases := List.replicate 65536 (5, { port := 1, ctx := 2, la := 0 }) }
theorem tfind_replicate {α : Type} (n k j : Nat) (v : α) (h : k ≠ j) : tfind? (List.replicate n (k, v)) j = none := by
  induction n with
  | zero => rfl
  | succ n ih => simpa [List.replicate_succ, tfind?, h] using ih
theorem witness_LinkReads_noSpace : LinkOk leasedOut 0 .rdOwn (hdr 64 0 4095) (at64 64) (region 0x91 2) ∧ 65536 ≤ leasedOut.leases.length ∧
    tfind? leasedOut.leases ((at64 64).za / 64) = none ∧ (region 0x91 2).leased = true ∧ 0 < ((leasedOut.regulator 0).get 1).allow ∧ leasedOut.still :=
  ⟨{ runs := rfl, up := rfl, fresh := rfl, bound := by decide +kernel, trans := rfl, region := rfl, shape := by decide, granule := by decide },
   Nat.le_of_eq List.length_replicate.symm, tfind_replicate _ _ _ _ (by decide), by decide, by decide +kernel, settled_still _ (by decide +kernel)⟩

/-- A hint names page 0 alone, whose entry is cached. -/
def oneUp (e : DirEnt) : State := { withRegion 0 1 with dir := [(0, e)], dirs := [(0, { cacheFrames := 100, used := [5], cache := [0] })] }
def oneHint (e : DirEnt) (spec : CmdSpec) (f : State → Bool) : Bool :=
  begins (oneUp e) spec pf (rangeP 1) fun u c => match u.hintRange c false with
    | .ok (page, w, r) => page == 0 && par c.p 16 4 == 1 && u.held.isEmpty && (u.dirDie 0).cache.contains 0 && !(u.ent 0).bad && w.sub.isNone &&
        decide (r.ctx = pCtx c.p) && r.owned && u.ent 0 == e && f u
    | .error _ => false
def dirtyPage (holds : Nat) : DirEnt := { st := .dirty, dirty := 3, frame := 5, holds }
theorem witness_Hints_onePage : allOf
    [oneHint cleanPage specHintPrefetch fun _ => true, oneHint (dirtyPage 0) specHintPrefetch fun _ => true,
     oneHint (dirtyPage 0) specHintPin fun u => !u.mayHold 0 0, oneHint (dirtyPage 254) specHintPin fun _ => true,
     oneHint (dirtyPage 255) specHintPin fun _ => true, oneHint (dirtyPage 0) specHintUnpin fun _ => true,
     oneHint (dirtyPage 2) specHintUnpin fun _ => true, oneHint {} specHintEvict fun _ => true,
     oneHint (dirtyPage 1) specHintEvict fun _ => true, oneHint (dirtyPage 0) specHintEvict fun _ => true,
     ({ oneUp (dirtyPage 0) with dirs := [(0, { cacheFrames := 0x400000, cache := [0] })] } : State).mayHold 0 0] = true := by decide +kernel
/-- A page that is dirty but unreadable, and one whose read-out is under way, make CKPT_COMMIT wait for nothing. -/
theorem witness_Ckpt : allOf
    [hintable (oneUp { dirtyPage 0 with bad := true }) specCkpt true fun u => (u.ent 0).bad,
     hintable (oneUp { st := .writingBack, frame := 5, snapshot := 3 }) specCkpt true fun u => (u.ent 0).dirty == 0 && !((u.ent 0).queued && u.tierHeld)]
    = true := by decide +kernel

/-- KERNEL_LOAD of an image in the lines 1 to 5 of a pinned window. -/
theorem witness_KernelLoad_window : begins (withRegion 0x11 1) specKernelLoad pf (pkt 1 [(16, 8, 64), (24, 2, 264)]) (fun u c =>
    (u.cmds.all fun e => e.id != c.id || decide (e = c)) && piecesOf 64 320 == [(64, 320)] &&
    (match u.translate 1 64 320 .rd false with
     | some t => decide (t.za = 2 ^ 48 + 64) && (match u.region? t.region with | some r => !r.tiered && !r.leased && !r.auto | none => false) &&
         ((List.range 5).all fun i => u.clean (t.za / 64 + i))
     | none => false) && u.held.isEmpty) = true := by decide +kernel

theorem witness_FlitsReceived_more : allOf
    [received 1 (flit 1 0) == some (1, flit 1 0, 0), (flit 511 0).noise == 0,
     ((flit 1 0).seq - (up.port 0).rxExpect).toNat == 1, ((flit 511 0).seq - (up.port 0).rxExpect).toNat == 511,
     ((flit 3584 0).seq - (up.port 0).rxExpect).toNat == 3584, !((portUp .caps).port 15).capsDue,
     (((portUp .caps).modPort 15 fun p => { p with capsDue := true }).port 15).capsDue, PortSt.listens .caps && PortSt.listens .active] = true := by
  decide +kernel
theorem witness_PortTraining_caps : allOf
    [!((portUp .caps).port 15).capsRx, (((portUp .caps).modPort 15 fun p => { p with capsRx := true, partnerVersion := 0x1F }).port 15).capsRx] = true := by
  decide +kernel
theorem witness_SnapshotGranule : begins (withRegion 0x11 1) specCntSnapshot lk (pkt 1 [(8, 8, 32), (16, 4, 64)]) (fun u _ =>
    u.covered 1 32 64 .wr false && u.snapGranule 1 32 64) = true := by decide +kernel
theorem witness_TransfersRun_slots : (let s := xfUp (xf .copy (peerEnd 0) (ownEnd 0)) [(5, { use := .xfer 4 0 0 2 false })]
    (s.port 0).reserved == 6 && decide ((s.port 0).reserved + 3 * 2 ≤ 2048)) = true := by decide +kernel

theorem witness_RegulationRules_more : allOf
    [up.hep.cxlWait.isEmpty, up.held.isEmpty, up.confirmed 1,
     !({ up with qos := { regs := [(0, { ctxs := [(1, { share := 8, next := 4 })] })] } } : State).confirmed 1,
     (let s : State := { goUp 0x11 with held := [heldReq (.regulator 0) (2 ^ 48)] }; decide (0 < ((s.regulator 0).get 1).allow) && s.hep.cxlWait.isEmpty),
     decide (((withRegion 0x11 1).regulator 0).get 1 |>.allow |> (· ≤ 0))] = true := by decide +kernel

/-- CTL without allowance, with up to HOLD_CAP slots held for the host. -/
def cxlSlow (n : Nat) : State :=
  { cxlUp with qos := {}, held := List.replicate n { heldReq (.regulator 4) (2 ^ 48) with src := .cxl 7 } }
theorem witness_CxlRequests_wait : allOf
    [((cxlSlow 0).regulator 4).get 1 |>.allow |> (decide <| · ≤ 0), (cxlSlow 0).heldSlots 1 none == 0, (cxlSlow 511).heldSlots 1 none == 511,
     decide ((cxlSlow 511).heldSlots 1 none + 1 ≤ (cxlSlow 511).qos.holdCap), decide ((cxlSlow 512).qos.holdCap < (cxlSlow 512).heldSlots 1 none + 1),
     (cxlSlow 512).hep.cxlWait.isEmpty, !(cxlSlow 512).pmc.fatal] = true := by decide +kernel
theorem test_memRd_waits : gives (.memRd 0x20040 9) (cxlSlow 512) (fun t => t.hep.cxlWait == [{ dpa := 0x20040, tag := 9 }] && t.out == []) = true ∧
    gives (.memRd 0x20040 9) (cxlSlow 1) (fun t => t.hep.cxlWait == []) = true := by decide +kernel

theorem witness_MemorySteps_drain : (drainUp.nextDrain 4).1 = some (entry 4 (2 ^ 42) false) := State.nextDrain_one _ _ _ (by decide +kernel)
/-- A block of a compressed region waits for stack 4. -/
def blockUp : State := { withRegion 0x51 1 with wbuf := [{ entry 4 (2 ^ 42) true with data := List.replicate 64 0 }] }
theorem witness_MemorySteps_block : (blockUp.nextDrain 4).1 = some { entry 4 (2 ^ 42) true with data := List.replicate 64 0 } ∧
    (blockUp.regionAt (64 * 2 ^ 42)).map (·.1) = some 3 := ⟨State.nextDrain_one _ _ _ (by decide +kernel), by decide +kernel⟩

theorem witness_TierFetches_more : allOf
    [(let s := pageUp { st := .flash, onFlash := true } { demandQ := [0] }; !(s.ent 0).bad && pageDir 0 == 0),
     (let s := pageUp { st := .fetching, onFlash := true, frame := 7 } { used := [7], inFlight := 1 }; !s.readWaits 0 && !(s.ent 0).frameLost),
     ((pageUp wbPage {}).unsoundLines 0).isEmpty] = true := by decide +kernel

/-- The one image is programmed at its wordline on die index 2 of FLS die 1. -/
def progUp : State := flsUp { programming := [img], nand := [(2, { program := some (img.place.key, img.place.lastWl) })] }
theorem witness_Programs : Programs progUp 1 img := by
  refine ⟨rfl, fun n => ?_⟩
  by_cases h : n = 2
  · subst h; rfl
  · simp [State.nand, progUp, flsUp, State.fls, tget, img, h, Ne.symm h]
/-- A fetch that a NAND die of a die index reads. -/
def reading (page : Nat) : FlashRead := { page, place := tget {} (flsUp {}).fmap 0, members := [9] }
theorem witness_noReloc : (flsUp {}).noReloc 1 ∧ (flsUp { nand := [(3, { reading := [reading 5] })] }).nand 1 3 ≠ {} :=
  ⟨fun n => ⟨rfl, rfl⟩, by decide +kernel⟩
/-- The block of page 0's image has come to lack a member: it is due for relocation; its die index has nothing else to do. -/
def lackUp (n : NandDie) : State := flsBoth { blocks := [(131071, { free := false, retired := 4 })], nand := if n = {} then [] else [(15, n)] }
def programs : NandDie := { program := some (9, 3) }
theorem lack_erasable : ∀ k, k / 8192 = 15 → (lackUp {}).erasable 1 k = false := by
  intro k _
  by_cases h : k = 131071
  · subst h; decide +kernel
  · have hf : (tget ({} : StripeBlk) ((lackUp {}).fls 1).blocks k).free = true := by
      show (tget ({} : StripeBlk) [(131071, { free := false, retired := 4 })] k).free = true
      simp [tget, Ne.symm h]
    unfold State.erasable State.closedBlock
    simp only [hf, Bool.not_true, Bool.false_and]
theorem lack_due (s : State) (d key : Nat) (h : s.closedBlock d key = true) (hl : ((s.fls d).lacks key &&& ~~~(s.lackingOf d key) != 0) = true) :
    s.relocDue d key = true := by
  unfold State.relocDue
  simp only [h, hl, Bool.or_true, Bool.and_self]
theorem witness_FlashEvents_due : (lackUp programs).relocDue 1 131071 = true ∧ (lackUp {}).relocDue 1 131071 = true :=
  ⟨lack_due _ _ _ (by decide +kernel) (by decide +kernel), lack_due _ _ _ (by decide +kernel) (by decide +kernel)⟩
theorem witness_FlashEvents_reloc : allOf
    [(lackUp {}).closedBlock 1 131071, ((lackUp programs).nand 1 15).working,
     ((lackUp programs).nand 1 15).demand.isEmpty, (lackUp {}).nand 1 15 == {}, ((lackUp {}).nextProgram 1 15).isNone, (lackUp {}).flashCore 1,
     (tfind? (lackUp {}).fmap 0).map (fun e => (e.fls, e.key)) == some (1, 8192 * 15 + 8191),
     ((lackUp {}).imageRead (tget {} (lackUp {}).fmap 0)).isSome, !(tget {} (lackUp {}).images 0).dead] = true := by decide +kernel
theorem test_relocation_waits : gives (.patrolRead 1 15 8191 true) (lackUp programs) (fun t =>
    (t.nand 1 15).patrol == [8191] && (t.fls 1).openW == []) = true := by decide +kernel

/-- A version whose pages are all hashed, and one whose page is being fetched. -/
def hashUp (digests : List Byte) : State :=
  { subUp with
    regions := [(3, { region 2 1 with share := .publishing, hashing := true, scope := 1, name := 7, version := 1, pubCmd := some 2, digests })]
    dir := [(0, { st := .fetching, frame := 5 })], dirs := [(0, { cacheFrames := 100, used := [5], cache := [0] })] }
def hashMover : Mover := { ctx := 1, who := .hash 2 }
theorem witness_TablesAndHashes_pages : allOf
    [(match (hashUp (List.replicate 32 0)).region? 3 with
      | some r => r.unhashed.isEmpty && (match (hashUp (List.replicate 32 0)).hashPages 3 r hashMover r.unhashed with
        | (.ok _, w) => (match w.region? 3 with | some v => (w.versionOf v.key?).isNone | none => false) | _ => false)
      | none => false),
     (match (hashUp []).region? 3 with
      | some r => r.unhashed.length == 1 && (match (hashUp []).hashPages 3 r hashMover r.unhashed with | (.wait, _) => true | _ => false)
      | none => false)] = true := by decide +kernel

/-- One region and no subscription: power-off and reset make its handle stale (R39). -/
theorem witness_lostRegion : allOf
    [(hUp (withRegion 0x11 1)).regions == [(3, region 0x11 1)], (hUp (withRegion 0x11 1)).subs.isEmpty, (region 0x11 1).sealedBy == 0,
     !((hUp (withRegion 0x11 1)).ctx 1).durable, (up.fls 0).nand.isEmpty && (up.fls 1).nand.isEmpty] = true := by decide +kernel
theorem test_perstNAssert : gives .perstNAssert (hUp (withRegion 0x11 1)) (fun t => t.regions == [] && tget 0 t.seqs 3 == 1) = true := by decide +kernel
theorem witness_ProcessorRestarts_h : (hUp up).variantH = true ∧ ((hUp up).proc 7).restarting = false := by decide +kernel
theorem test_heartbeat_h : gives (.heartbeatTimeout 7 1 false) (hUp up) (fun t => t == hUp up) = true := by decide +kernel

/-- A gather of two rows of 64 bytes: index list at LA 0, source at LA 64, result at LA 65,536; and a run whose lowest unit is finished, with
one write left. -/
def gatherRun : Run := { kRun with handle := 0x12, args := [65536, 64, 0, 8, 0, 3 + 1 <<< 44], engines := [151] }
def unitUp (r : Run) : State := { engUp {} 1 with disp := { runs := [r], nextRun := 8 } }
def worker (s : State) (u : Nat) : Worker := { m := s.kernelMover 151 1 (.run 7 u), e := 151, ctx := 1, run := 7 }
theorem witness_RunsAndStreams_unit : (let s := unitUp gatherRun
    !loadedHandle gatherRun.handle && decide (gatherRun.units < gatherRun.total) && gatherRun.work.isEmpty && gatherRun.unitFor 151 == some 0 &&
    decide (4 < gatherRun.handle) &&
    (match (s.modRun 7 fun x => { x with dealt := max x.dealt 1, busy := tset x.busy 151 0 }).allReady (worker s 0).m gatherRun.touches .rd false with
     | (.ok _, u) => (match unitOf (worker s 0) gatherRun u.fresh { u with fresh := u.fresh + 2 ^ 32 } with
       | (.ok out, v) => out.writes.length == 1 && (match v.run? 7 with | some q => q.work.isEmpty | none => false)
       | _ => false)
     | _ => false)) = true := by decide +kernel
theorem test_streamComplete_unit : gives (.streamComplete 151 0) (unitUp gatherRun) (fun t =>
    (t.run? 7).map (fun r => (r.units, r.work.map (·.unit), r.dealt)) == some (0, [0], 1) && t.hbm.mem == []) = true := by decide +kernel
def halfRun : Run := { gatherRun with
  handle := 0x20, args := [0, 0, 0, 0, 2, 0], work := [{ unit := 0, engine := 151, groups := [[{ la := 64, data := List.replicate 64 1 }]] }] }
theorem witness_RunsAndStreams_write : (let s := unitUp halfRun
    let g : List UnitWrite := [{ la := 64, data := List.replicate 64 1 }]
    !loadedHandle halfRun.handle && decide (halfRun.units + 1 < halfRun.total) &&
    (halfRun.work.find? fun w => w.unit == halfRun.units && w.engine == 151).map (·.groups) == some [g] &&
    (match s.allReady (worker s 0).m (g.map fun x => (x.la, x.data.length)) .wr true with
     | (.ok _, u) => (g.find? (u.badWrite (worker s 0))).isNone && (match u.doAll (State.putWrite (worker s 0)) g 0 with
       | ((.ok _, _), v) => (v.run? 7).isSome
       | _ => false)
     | _ => false)) = true := by decide +kernel
theorem test_streamComplete_write : gives (.streamComplete 151 0) (unitUp halfRun) (fun t => (t.run? 7).map (fun r => (r.units, r.work)) == some (1, []) &&
    t.hbm.mem.length == 64) = true := by decide +kernel
/-- An optimiser's run reads its descriptor first: here 128 zero bytes, without operands of either moment (R252). -/
theorem witness_RunsAndStreams_desc : (let r : Run := { gatherRun with handle := 1, args := [0, 0, 0, 0, 0, 1] }
    decide (r.units < r.total) && r.desc.isEmpty && decide (r.handle ≤ 4) &&
    (match kRead (worker (unitUp r) 0) 0 128 false (unitUp r) with | (.ok d, v) => d.length == 128 && (v.run? 7).isSome && Run.descOk { r with desc := d } | _ => false)) = true := by
  decide +kernel

/-! ## Codes of lines and flits, and reads of registers -/

/-- One wrong bit of a flit is corrected: no byte is left wrong (R88). -/
theorem test_weakFlit : (fecResidue (leBytes 256 weakFlit.noise.toNat)).map (fun e => (e.1.all (· == 0), e.2)) = some (true, 1) := by decide +kernel
/-- Four wrong symbols of a line are corrected under code S, five are not; code L corrects one bit of a word and finds two (R306, R307). -/
theorem test_checkLine : (checkLine false false false (BitVec.ofNat 576 0x01010101)).isSome = true ∧ (checkLine false false false badLine.flips).isNone = true ∧
    (checkLine true false false 1).isSome = true ∧ (checkLine true false false 3).isNone = true ∧
    (checkLine false false false 0).map (·.fix) = some 0 := by decide +kernel
/-- Shadow, COMMIT, ACTIVE and plain fields of the PF's ring; an Unsupported Request of two bytes (R4-R7). -/
theorem test_readBar : (let s := { up with fns := [(0, { up.fn 0 with ring := { (up.fn 0).ring with ctrlSh := 0x20C, cons := 7 } })] }
    allOf [decide ((s.readBar 0 0x100108 8).1 = .value 0x20C), decide ((s.readBar 0 0x100120 8).1 = .value 0), decide ((s.readBar 0 0x100128 8).1 = .value 0x10C),
      decide ((s.readBar 0 0x100118 4).1 = .value 7), decide ((s.readBar 0 0x220000 8).1 = .value 1700), decide ((s.readBar 0 0x100108 2).1 = .unsupported)]) = true := by
  decide +kernel

end Sys2Proof.Tests
end

section
/-!
The step's frame: what every command may change is all but the queue, the variant and the stepping. One lemma per way in which the
meanings of commands are put together, then one case per command, each citing the frame of the operation it calls.
-/

namespace Sys2Proof.Machine

open Sys2Proof

/-- The pieces that a command may change. -/
abbrev Piece.moved : List Piece := Piece.allBut [.pending, .variantH, .stepB0]

/-- A next state of an outcome differs from `s` in the listed pieces alone. -/
structure NextFrame (l : List Piece) (s : State) (o : Host.Outcome State Fault Refusal) : Prop where
  frame : ∀ t, o = .next t → Frame l s t

theorem NextFrame.next {l : List Piece} {s t : State} (h : Frame l s t) : NextFrame l s (.next t) := by
  constructor
  intro u hu
  injection hu with hu
  exact hu ▸ h

theorem NextFrame.fault (l : List Piece) (s : State) (r : Fault) : NextFrame l s (.fault r) := by
  constructor
  intro t ht
  simp at ht

theorem NextFrame.mono {l m : List Piece} {s : State} {o : Host.Outcome State Fault Refusal} (h : NextFrame l s o)
    (hlm : (l.all fun f => m.contains f) = true) : NextFrame m s o := ⟨fun t ht => (h.frame t ht).mono hlm⟩

theorem NextFrame.ite {l : List Piece} {s : State} {c : Prop} [Decidable c] {x y : Host.Outcome State Fault Refusal}
    (hx : NextFrame l s x) (hy : NextFrame l s y) : NextFrame l s (if c then x else y) := by
  split
  · exact hx
  · exact hy

/-- A command that acts under a condition, and does nothing otherwise. -/
theorem NextFrame.guard {l : List Piece} {s t : State} {c : Prop} [Decidable c] (h : Frame l s t) :
    NextFrame l s (.next (if c then t else s)) := .next (Frame.ite h (Frame.refl ..))

theorem State.portEvent_frame {l : List Piece} {s : State} (port : Nat) {f : Port → State} (h : ∀ p, Frame l s (f p)) :
    NextFrame l s (s.portEvent port f) := .guard (h _)

theorem State.onSupply_frame {s : State} {ok : Bool} {vin : Nat} {f : State → State} (h : ∀ t, Frame Piece.moved t (f t)) :
    NextFrame Piece.moved s (s.onSupply ok vin f) := .guard ((h _).after ((State.modPmc_frame ..).mono rfl))

theorem State.side_frame (s : State) (l : List Byte) : NextFrame [.out] s (s.side l) := .guard (State.emit_frame ..)

theorem State.vendor_frame (s : State) (rom : Bool) (l : List Byte) : NextFrame [.out] s (s.vendor rom l) := State.side_frame ..

/-- A flit's messages are delivered to the operations that the message layer calls. -/
theorem State.flitRx_frame (s : State) (port : Fin 16) (ftype : Nat) (f : Flit) : NextFrame Piece.moved s (s.flitRx port ftype f) :=
  State.portEvent_frame _ fun _ => State.rxFlit_frame _ _ _ _ _ rfl State.message_frame

/-- The rows of a scrubber's lap: what their lines show is met one by one, and the lap may end (R314). -/
theorem execScrubRowRead_frame (stack : Fin 20) (pc : Fin 64) (found : List Finding) (lines : Nat) (lapEnd : Bool) (s : State) :
    NextFrame Piece.moved s (execScrubRowRead stack pc found lines lapEnd s) := by
  unfold execScrubRowRead
  refine .ite (.next ?_) (.next (.refl ..))
  have lap : ∀ {t : State} {c : Prop} [Decidable c] {k : Nat} {f : Stack → Stack}, Frame Piece.moved s t →
      Frame Piece.moved s (if c then t.takeFree.2.modStack k f else t) := fun h =>
    .ite ((State.modStack_frame ..).step rfl ((State.takeFree_frame _).step rfl h)) h
  refine lap (Frame.eachTrans (Frame.eachTrans ?_ fun t f => ?_) fun t l => ?_)
  · exact (State.count_frame ..).step rfl ((State.modStack_frame ..).mono rfl)
  · exact (State.damage_frame ..).mono rfl
  · exact (State.meet_frame ..).mono rfl

/-! ## Packets of Fraist (R61, R72-R81) -/

/-- A command that a packet of a defined opcode brings is submitted under its specification. -/
theorem exec_of_fraistOf {i : Instr} {spec : CmdSpec} {via : Via} {p : Packet} (h : fraistOf i = some (spec, via, p)) (s : State) :
    spec ∈ specs ∧ exec i s = .next (s.submit spec via p) := by
  cases i <;> simp only [fraistOf, Option.some.injEq, Prod.mk.injEq, reduceCtorEq] at h
  all_goals
    obtain ⟨rfl, rfl, rfl⟩ := h
    exact ⟨by simp [specs], rfl⟩

theorem fraist_frame {i : Instr} {spec : CmdSpec} {via : Via} {p : Packet} (h : fraistOf i = some (spec, via, p)) (s : State) :
    NextFrame Piece.moved s (exec i s) := by
  obtain ⟨hm, he⟩ := exec_of_fraistOf h s
  rw [he]
  exact .next (State.submit_frame s spec via p rfl (specs_start_frame spec hm))

/-- No command touches the queue, the variant or the stepping: each meaning is put together from operations whose frames leave them. -/
theorem exec_frame (i : Instr) (s : State) : NextFrame Piece.moved s (exec i s) := by
  cases i with
  | identify | mark | ctxCreate | ctxDestroy | ctxBindPort | winSet | regionAlloc | regionFree
  | regionAttrReport | regionAttrSetLease | regionAttrSetMissPolicy | hintPrefetch | hintPin | hintUnpin
  | hintEvict | ckptCommit | xferCopy | xferMove | xferFill | xferReduce | xferAtom | tableBuild
  | tableRetire | codecSet | kernelLoad | kernelRun | kernelAbort | sharePublish | shareSubscribe
  | shareUnsubscribe | shareWithdraw | qosClassSet | qosBudgetSet | svcTest | svcRetire | svcRemap
  | svcClearPoison | fwStage | fwActivate | cntConfig | cntSnapshot | spdmRelay => exact fraist_frame rfl s
  | undefinedOpcode via opcode p => exact .ite (.next ((State.submitUndefined_frame ..).mono rfl)) (.fault ..)
  | replyRingWrite fn => exact .next ((State.releaseParked_frame _).step rfl ((State.ringWrite_frame ..).mono rfl))
  -- Requests and responses of a link
  | rd | rdOwn | wrRelease | atom | recallReceived => exact .next ((State.linkRequest_frame ..).mono rfl)
  | wr | acc | reservedRequest => exact .ite (.next ((State.linkRequest_frame ..).mono rfl)) (.fault ..)
  | reservedResponse port opcode r => exact .ite (.next ((State.reservedResponse_frame ..).mono rfl)) (.fault ..)
  | cplData port r data => exact .ite (.fault ..) (.next ((State.cplData_frame ..).mono rfl))
  | cplOk port r => exact .next (State.respond_frame _ _ _ _ rfl fun t => (State.peerOk_frame t _ _).mono rfl)
  | cplErr port r => exact .next (State.respond_frame _ _ _ _ rfl fun t => (State.peerErr_frame t _ _ _ _).mono rfl)
  | cplRetry port r => exact .next (State.respond_frame _ _ _ _ rfl fun t => (State.peerRetry_frame t _ _ _).mono rfl)
  -- Engines
  | endOp e => exact .next (State.issue_frame _ _ _ _ rfl fun t i => (State.opEnd_frame t i).mono rfl)
  | loop e => exact .next (State.issue_frame _ _ _ _ rfl fun t i => (State.opLoop_frame t i).mono rfl)
  | skip e => exact .next (State.issue_frame _ _ _ _ rfl fun t i => (State.opSkip_frame t i).mono rfl)
  | li e => exact .next (State.issue_frame _ _ _ _ rfl fun t i => (State.opLi_frame t i).mono rfl)
  | salu e => exact .next (State.issue_frame _ _ _ _ rfl fun t i => (State.opSalu_frame t i).mono rfl)
  | arg e => exact .next (State.issue_frame _ _ _ _ rfl fun t i => (State.opArg_frame t i).mono rfl)
  | wait e => exact .next (State.issue_frame _ _ _ _ rfl fun t i => (State.opWait_frame t i).mono rfl)
  | vld e => exact .next (State.issue_frame _ _ _ _ rfl fun t i => (State.opVld_frame t i).mono rfl)
  | vst e => exact .next (State.issue_frame _ _ _ _ rfl fun t i => (State.opVst_frame t i).mono rfl)
  | valu e => exact .next (State.issue_frame _ _ _ _ rfl fun t i => (State.opValu_frame t i).mono rfl)
  | vfma e => exact .next (State.issue_frame _ _ _ _ rfl fun t i => (State.opVfma_frame t i).mono rfl)
  | vsfu e => exact .next (State.issue_frame _ _ _ _ rfl fun t i => (State.opVsfu_frame t i).mono rfl)
  | vred e => exact .next (State.issue_frame _ _ _ _ rfl fun t i => (State.opVred_frame t i).mono rfl)
  | vbcast e => exact .next (State.issue_frame _ _ _ _ rfl fun t i => (State.opVbcast_frame t i).mono rfl)
  | vcvt e => exact .next (State.issue_frame _ _ _ _ rfl fun t i => (State.opVcvt_frame t i).mono rfl)
  | mzero e => exact .next (State.issue_frame _ _ _ _ rfl fun t i => (State.opMzero_frame t i).mono rfl)
  | mmac e => exact .next (State.issue_frame _ _ _ _ rfl fun t i => (State.opMmac_frame t i).mono rfl)
  | mst e => exact .next (State.issue_frame _ _ _ _ rfl fun t i => (State.opMst_frame t i).mono rfl)
  | fence e => exact .next (State.issue_frame _ _ _ _ rfl fun t i => (State.opFence_frame t i).mono rfl)
  | sin e | sout e | sacc e | gather e | scatterAdd e =>
    exact .next (State.issue_frame _ _ _ _ rfl fun t i => (State.opStream_frame t i _).mono rfl)
  -- Ports
  | flitDataRx | flitIdleRx | flitCapsRx | flitRetryReqRx => exact State.flitRx_frame ..
  | flitReservedRx => exact .ite (State.flitRx_frame ..) (.fault ..)
  | flitTransmit port =>
    exact State.portEvent_frame port.val fun _ => (State.releaseParked_frame _).step rfl ((State.transmit_frame ..).mono rfl)
  | capsResendTimer port => exact State.portEvent_frame port.val fun _ => .ite ((State.sendCaps_frame ..).mono rfl) (.refl ..)
  | retryTimeout port =>
    refine State.portEvent_frame port.val fun p => .ite ?_ (.refl ..)
    have failed : Frame Piece.moved s (s.takeFree.2.failRetry port.val) :=
      (State.failRetry_frame ..).step rfl ((State.takeFree_frame s).mono rfl)
    exact .ite failed ((State.modPort_frame ..).step rfl failed)
  | signalDetect port | trainTimeout port | capsTimeout port | lossOfSignal port | detectNoSignalTimeout port =>
    exact State.portEvent_frame port.val fun _ => .ite ((State.modPort_frame ..).mono rfl) (.refl ..)
  | trainLock port => exact State.portEvent_frame port.val fun _ => .ite ((State.takeLanes_frame ..).mono rfl) (.refl ..)
  | laneLockLoss port lanes =>
    have lost : Frame Piece.moved s (s.modPort port.val fun p => { p with laneOk := p.laneOk &&& ~~~lanes }) :=
      (State.modPort_frame ..).mono rfl
    exact State.portEvent_frame port.val fun _ => .ite ((State.recover_frame ..).step rfl lost) (.ite lost (.refl ..))
  | recoveryLock port =>
    refine State.portEvent_frame port.val fun p => .ite ?_ (.refl ..)
    exact .ite ((State.log_frame ..).step rfl ((State.takeLanes_frame ..).mono rfl)) ((State.takeLanes_frame ..).mono rfl)
  | recoveryTimeout port | lockLossHoldExpiry port =>
    exact State.portEvent_frame port.val fun _ => .ite ((State.loseLink_frame ..).mono rfl) (.refl ..)
  | lostCleanupComplete => exact .guard ((State.modPort_frame ..).mono rfl)
  | portEnable => exact .next (State.barWrite_frame _ _ _ rfl fun t => .ite ((State.enablePort_frame t _).mono rfl) (.refl ..))
  | portDisable => exact .next (State.barWrite_frame _ _ _ rfl fun t => .ite ((State.disablePort_frame t _).mono rfl) (.refl ..))
  | retrain => exact .next (State.barWrite_frame _ _ _ rfl fun t => .ite ((State.retrainPort_frame t _).mono rfl) (.refl ..))
  -- Peer requests, transfers and tags
  | peerRequestSend xfer unit =>
    refine .next ?_
    split
    · exact .ite ((State.peerSend_frame ..).mono rfl) (.refl ..)
    · exact .refl ..
  | reqTimeout => exact .guard ((State.peerTimeout_frame ..).mono rfl)
  | retryReissue => exact .guard ((State.peerReissue_frame ..).mono rfl)
  | tagQuarantineExpiry =>
    refine .next ?_
    split
    · exact (State.freeReq_frame ..).mono rfl
    · exact .refl ..
  | recallTimeout => exact .guard ((State.recallExpired_frame ..).mono rfl)
  | xferStart => exact .guard ((State.startNext_frame ..).mono rfl)
  | xferUnitComplete =>
    refine .next ?_
    split
    · exact .ite (.refl ..) (.ite ((State.unitStep_frame ..).mono rfl) (.ite ((State.finish_frame ..).mono rfl) (.refl ..)))
    · exact .refl ..
  -- Memory dies and regulators
  | writeBufferDrain stack =>
    refine .next (.ite ?_ (.refl ..))
    have next := (State.nextDrain_frame s stack.val).mono (m := Piece.moved) rfl
    dsimp only
    split
    · exact (State.drain_frame ..).step rfl next
    · exact .refl ..
  | parityDelta => exact .guard ((State.parityDelta_frame ..).mono rfl)
  | atomicLineRelease => exact .next ((Frame.set_atoms ..).mono rfl)
  | commandAgeEscalation => exact .next ((Frame.set_wbuf ..).mono rfl)
  | regulatorWindowBoundary reg =>
    have window : Frame Piece.moved s (s.windowBoundary reg.val) := (State.windowBoundary_frame ..).mono rfl
    exact .next (.ite (.ite ((State.cxlCredits_frame ..).step rfl window) window)
      (.ite ((State.cxlCredits_frame ..).mono rfl) (.refl ..)))
  | spareSlotRelease reg hub =>
    have release : Frame Piece.moved s (s.spareRelease reg.val hub.val) := (State.spareRelease_frame ..).mono rfl
    exact .next (.ite (.ite ((State.cxlCredits_frame ..).step rfl release) release) (.refl ..))
  | budgetRebalance => exact .guard ((State.rebalance_frame ..).mono rfl)
  | holdLimitExpiry => exact .guard ((State.holdExpired_frame ..).mono rfl)
  -- The tier
  | fetchDispatch => exact .guard ((State.releaseResident_frame ..).step rfl ((State.dispatchNext_frame ..).mono rfl))
  | fetchComplete => exact .guard ((State.serveAll_frame ..).step rfl ((State.fetchDone_frame ..).mono rfl))
  | fetchFailed => exact .guard ((State.serveAll_frame ..).step rfl ((State.fetchLost_frame ..).mono rfl))
  | victimSelection => exact .guard ((State.retryInvalid_frame ..).step rfl ((State.selectVictim_frame ..).mono rfl))
  | writebackReadoutComplete => exact .guard ((State.serveAll_frame ..).step rfl ((State.readOut_frame ..).mono rfl))
  | writebackCommit => exact .guard ((State.commitPage_frame ..).mono rfl)
  | frameZeroing => exact .guard ((State.zeroOne_frame ..).mono rfl)
  -- Regions, contexts, tables, publications
  | regionFillComplete => exact .guard ((State.filled_frame ..).mono rfl)
  | ctxDrainComplete => exact .guard ((State.settle_frame ..).step rfl ((State.freeCtx_frame ..).mono rfl))
  | tablePublish => exact .guard ((State.publishTable_frame ..).mono rfl)
  | tableFree => exact .guard ((State.freeTable_frame ..).mono rfl)
  | tablePersist => exact .guard ((State.persistTable_frame ..).mono rfl)
  | hashStart => exact .guard ((State.startHash_frame ..).mono rfl)
  | publishHashComplete => exact .guard ((State.hashed_frame ..).mono rfl)
  -- Kernels
  | kernelDispatch => exact .guard ((State.dispatchRun_frame ..).mono rfl)
  | backfillLimitExpiry =>
    refine .next ?_
    split
    · exact .ite ((State.modRun_frame ..).mono rfl) (.refl ..)
    · exact .refl ..
  | streamComplete =>
    refine .next ?_
    split
    · exact .ite (.refl ..) (.ite ((State.streamStep_frame ..).mono rfl) (.ite ((State.builtinStep_frame ..).mono rfl) (.refl ..)))
    · exact .refl ..
  | engineFailure => exact .guard ((State.engineFails_frame ..).mono rfl)
  -- HBM
  | refresh | tempSensorRead => exact .guard ((State.modStack_frame ..).mono rfl)
  | scrubRowRead => exact execScrubRowRead_frame ..
  | scrubLate => exact .guard ((State.log_frame ..).step rfl ((State.modStack_frame ..).mono rfl))
  | ceReport =>
    refine .guard ((State.coreReport_frame ..).step rfl ?_)
    exact .ite (.refl ..) ((State.meet_frame ..).step rfl ((State.damage_frame ..).mono rfl))
  | caParityError => exact .guard ((State.freezePc_frame ..).mono rfl)
  | writeCrcError stack pc =>
    have retired : Frame Piece.moved s (s.retirePc stack.val pc.val false) := (State.retirePc_frame ..).mono rfl
    refine .next (.ite ?_ (.ite ((State.freezePc_frame ..).mono rfl) (.refl ..)))
    exact .ite ((State.stackDone_frame ..).step rfl retired) (.ite ((State.pcDone_frame ..).step rfl retired) retired)
  | freezeLimitExpiry => exact .guard ((State.retirePc_frame ..).mono rfl)
  | pcLoopbackResult => exact .guard ((State.loopback_frame ..).mono rfl)
  | rebuildComplete =>
    exact .next (.ite (.refl ..) (.ite ((State.pcDone_frame ..).mono rfl) (.ite ((State.stackDone_frame ..).mono rfl)
      (.ite ((State.retireDone_frame ..).mono rfl) (.refl ..)))))
  | stackFailure => exact .guard ((State.retireStack_frame ..).mono rfl)
  | memoryDieFailure => exact .guard ((State.retireDie_frame ..).mono rfl)
  | svcTestComplete => exact .guard ((State.testDone_frame ..).mono rfl)
  -- Flash
  | flushCyclesExpiry => exact .guard ((State.serve_frame ..).step rfl ((State.flushOpen_frame ..).mono rfl))
  | programComplete =>
    exact .guard ((State.serveAll_frame ..).step rfl ((State.programDone_frame ..).step rfl ((State.serve_frame ..).mono rfl)))
  | programFailure =>
    exact .guard ((State.serveAll_frame ..).step rfl ((State.programFail_frame ..).step rfl ((State.serve_frame ..).mono rfl)))
  | flashRelocation =>
    have asked : ∀ d k b, Frame Piece.moved s ((s.askReloc d k b).serve d) := fun d k b =>
      (State.serve_frame ..).step rfl ((State.askReloc_frame ..).mono rfl)
    exact .next (.ite (.ite (asked ..) (.ite (asked ..) (.refl ..))) (.refl ..))
  | patrolRead => exact .guard ((State.serve_frame ..).step rfl ((State.askReloc_frame ..).mono rfl))
  | eraseComplete | eraseFailure => exact .guard ((State.serve_frame ..).step rfl ((State.eraseDone_frame ..).mono rfl))
  | flashDieLost => exact .guard ((State.serveAll_frame ..).step rfl ((State.loseFlashDie_frame ..).mono rfl))
  | flsDieLost => exact .guard ((State.serveAll_frame ..).step rfl ((State.loseFls_frame ..).mono rfl))
  -- Supply, power and boot
  | supplyHigh =>
    exact State.onSupply_frame fun t => .ite (.refl ..) ((State.pmcErr_frame ..).step rfl ((State.modPmc_frame t _).mono rfl))
  | supplyHighExit => exact State.onSupply_frame fun t => (State.modPmc_frame t _).mono rfl
  | supplyOvervoltage =>
    exact State.onSupply_frame fun t => (State.powerOff_frame ..).step rfl ((State.modPmc_frame t _).mono rfl)
  | supplySag => exact State.onSupply_frame fun t => (State.enterSag_frame t).mono rfl
  | supplyHoldup => exact State.onSupply_frame fun t => (State.enterHoldup_frame t).mono rfl
  | supplyUndervoltage =>
    have low : Frame Piece.moved s (s.modPmc fun p => { p with supplyOk := false }) := (State.modPmc_frame ..).mono rfl
    exact .next (.ite (.refl ..) (.ite ((State.powerOff_frame ..).step rfl low) (.ite ((State.afterReset_frame ..).step rfl low)
      ((State.modPmc_frame ..).step rfl low))))
  | supplyRecovery =>
    exact .guard ((State.recoverSupply_frame ..).step rfl (.ite ((State.modPmc_frame ..).mono rfl) (.refl ..)))
  | journalFlush => exact .next ((State.beginFlush_frame ..).mono rfl)
  | journalFlushComplete => exact .guard ((State.endFlush_frame ..).mono rfl)
  | flushDomainPowerLoss => exact .next ((State.loseFlush_frame ..).mono rfl)
  | powerEvaluation => exact .guard ((State.evaluate_frame ..).mono rfl)
  | fastLimit => exact .guard ((State.fastLimit_frame ..).mono rfl)
  | safeCapRelease => exact .guard ((State.rederate_frame ..).step rfl ((State.modPmc_frame ..).mono rfl))
  | thermalTrip => exact .guard ((State.powerOff_frame ..).step rfl ((State.modPmc_frame ..).mono rfl))
  | railsGood =>
    refine .next (.ite ?_ (.refl ..))
    exact .ite ((State.modPmc_frame ..).mono rfl) ((State.startBoot_frame ..).step rfl ((State.modPmc_frame ..).mono rfl))
  | perstNRelease =>
    refine .next (.ite (.refl ..) ?_)
    have released : Frame Piece.moved s (s.modPmc fun p => { p with perst := false }) := (State.modPmc_frame ..).mono rfl
    have boots : ∀ {t : State} {c : Prop} [Decidable c], Frame Piece.moved s t → Frame Piece.moved s (if c then t.startBoot else t) :=
      fun h => .ite ((State.startBoot_frame ..).step rfl h) h
    exact boots (.ite ((State.modHep_frame ..).step rfl ((State.modPmc_frame ..).step rfl released)) released)
  | perstNAssert => exact .next ((State.assertReset_frame ..).mono rfl)
  | configSpaceReady =>
    refine .guard ((State.modHep_frame ..).step rfl ((State.takeFree_frame ..).step rfl ((State.takeFree_frame s).mono rfl)))
  | bootStageEnd => exact .next ((State.stageEnd_frame ..).mono rfl)
  | linkTrainingStageEnd => exact .guard (.ite ((State.modPmc_frame ..).mono rfl) ((State.bootReady_frame ..).mono rfl))
  -- Firmware
  | fuseBlow | fuseBlowComplete => exact .guard ((State.modFw_frame ..).mono rfl)
  | heartbeatTimeout => exact .guard ((State.heartbeat_frame ..).mono rfl)
  | procRestartComplete => exact .guard ((State.restarted_frame ..).mono rfl)
  | hullMonitorTimeout | fatalCondition => exact .guard ((State.goFatal_frame ..).mono rfl)
  | activateVerifyComplete => exact .guard ((State.verified_frame ..).mono rfl)
  | activateQuiesced => exact .guard ((State.beginSwitch_frame ..).mono rfl)
  | activateWaitExpiry | quiesceLimitExpiry =>
    exact .guard ((State.fwAbandon_frame ..).step rfl ((State.modFw_frame ..).mono rfl))
  | activateSwitchComplete => exact .guard ((State.switched_frame ..).mono rfl)
  -- Attestation and sideband
  | getVersion | getCapabilities | negotiateAlgorithms | getDigests | getCertificate | challenge | getMeasurements | respondIfReady
  | spdmUnsupportedRequest => exact .next ((State.spdmRow_frame ..).mono rfl)
  | doeDiscovery => exact .guard ((State.emit_frame ..).mono rfl)
  | cxlTableAccess =>
    refine .next (.ite ?_ (.refl ..))
    split
    · exact (State.emit_frame ..).mono rfl
    · exact .refl ..
  | setEndpointId =>
    refine .ite (.next (.refl ..)) (.ite ((State.side_frame ..).mono rfl) ?_)
    exact .next (.ite ((State.emit_frame ..).step rfl ((State.modPmc_frame ..).mono rfl)) ((State.modPmc_frame ..).mono rfl))
  | getEndpointId | getMctpVersionSupport | getMessageTypeSupport => exact (State.side_frame ..).mono rfl
  | getIdent | getTemps | getPower | getFru | getBoot | getFatal => exact (State.vendor_frame ..).mono rfl
  | vendorUnsupportedCommand => exact .ite ((State.vendor_frame ..).mono rfl) (.next (.refl ..))
  | alertResponse => exact .ite ((State.side_frame ..).mono rfl) (.next (.refl ..))
  | mctpOtherType => exact .next (.refl ..)
  -- Functions and configuration space
  | vfFlr => exact .next (.ite (.refl ..) (State.cfgAccess_frame _ _ _ rfl fun t => (State.flrFn_frame t _).mono rfl))
  | pfFlr => exact .next (State.cfgAccess_frame _ _ _ rfl fun t => (State.flrPf_frame t).mono rfl)
  | flrComplete => exact .guard ((State.modFn_frame ..).mono rfl)
  | vfEnableClear => exact .next (State.cfgAccess_frame _ _ _ rfl fun t => .ite ((State.flrVfs_frame t).mono rfl) (.refl ..))
  | hotReset =>
    exact .guard ((State.powerState_frame ..).step rfl ((State.configDefaults_frame ..).step rfl ((State.flrPf_frame ..).mono rfl)))
  | bmeClear => exact .next (State.cfgAccess_frame _ _ _ rfl fun t => (State.clearBme_frame t _).mono rfl)
  | bmeSet => exact .next (State.cfgAccess_frame _ _ _ rfl fun t => (State.setBme_frame t _).mono rfl)
  | memorySpaceDisable => exact .next (State.cfgAccess_frame _ _ _ rfl fun t => (State.modFn_frame t _ _).mono rfl)
  | d3hotEntry | d3hotExit => exact .next (State.cfgAccess_frame _ _ _ rfl fun t => (State.powerState_frame t _).mono rfl)
  | pmeTurnOff => exact .guard ((State.emit_frame ..).step rfl ((State.modHep_frame ..).mono rfl))
  | pmeEvent => exact .guard ((State.pme_frame ..).mono rfl)
  | attnButtonPress => exact .guard ((State.press_frame ..).mono rfl)
  -- Host reads
  | hostCompletion =>
    exact .next (.ite (.refl ..) (.ite ((State.count_frame ..).step rfl ((State.modHep_frame ..).mono rfl))
      ((State.completed_frame ..).mono rfl)))
  | completionTimeout =>
    refine .next ?_
    split
    · exact .ite ((State.hostGo_frame ..).step rfl ((State.readFailed_frame ..).step rfl ((State.aerUnc_frame ..).step rfl
        ((State.modFn_frame ..).mono rfl)))) (.refl ..)
    · exact .refl ..
  | hostTagQuarantineExpiry =>
    refine .next ?_
    split
    · exact .ite ((State.hostGo_frame ..).step rfl ((State.modFn_frame ..).mono rfl)) (.refl ..)
    · exact .refl ..
  -- CXL.mem
  | memRd | memInv | memWr | memWrPoison | memWrPtl => exact .next ((State.cxlRequest_frame ..).mono rfl)
  | memSpecRd => exact .next (.refl ..)
  | cxlOtherOpcode => exact .next (State.cxlSimple_frame _ _ rfl fun t => (State.cxlError_frame t).mono rfl)
  -- Registers, commits and counters
  | hepHwinCommit => exact .next (State.barWrite_frame _ _ _ rfl fun t => .ite ((State.commitHwin_frame t).mono rfl) (.refl ..))
  | hepRplCommit => exact .next (State.barWrite_frame _ _ _ rfl fun t => .ite ((State.modFn_frame t _ _).mono rfl) (.refl ..))
  | qosCommit => exact .next (State.barWrite_frame _ _ _ rfl fun t => .ite ((State.commitQos_frame t).mono rfl) (.refl ..))
  | gnmCommit => exact .next (State.barWrite_frame _ _ _ rfl fun t => .ite ((State.commitGnm_frame t _).mono rfl) (.refl ..))
  | flsCommit => exact .next (State.barWrite_frame _ _ _ rfl fun t => .ite ((State.commitFls_frame t _).mono rfl) (.refl ..))
  | registerWrite => exact .next (.ite ((State.writeBar_frame ..).mono rfl) ((State.configWrite_frame ..).mono rfl))
  | counterOverflow => exact .guard ((State.overflow_frame ..).step rfl ((State.modCnt_frame ..).mono rfl))
  | periodicSnapshot => exact .guard ((State.periodic_frame ..).mono rfl)
  | apertureSlotWrite =>
    exact .ite (.fault ..) (.next (State.barWrite_frame _ _ _ rfl fun t => .ite ((State.apertureBytes_frame ..).mono rfl) (.refl ..)))

/-- Settles O3: the frame of the command at the front of the queue, which starts with the queue's rest. -/
theorem stepTakesOne : Obligations.StepTakesOne := by
  unfold Obligations.StepTakesOne
  intro s t h
  unfold step at h
  split at h
  · next hp =>
    injection h with h
    subst h
    exact ⟨by rw [hp]; rfl, rfl, rfl⟩
  · next c rest hp =>
    have frame := (exec_frame c { s with pending := rest }).frame t h
    have pending := frame.same .pending rfl
    rw [hp]
    exact ⟨pending, frame.same .variantH rfl, frame.same .stepB0 rfl⟩

end Sys2Proof.Machine
end

section
/-!
The state after reset, read through its tables: every table but the functions' is empty, and that one lists the PF alone.
-/

namespace Sys2Proof.Machine

open Sys2Proof

@[simp] theorem State.reset_ctx (c : Nat) : State.reset.ctx c = {} := rfl

@[simp] theorem State.reset_port (p : Nat) : State.reset.port p = {} := rfl

@[simp] theorem State.reset_fn_pf : State.reset.fn 0 = { maxCtx := 0xFFF, hbmQuota := 0x3FFFFFF, tierQuota := 0xFFFFFFFF } := rfl

@[simp] theorem State.reset_fn_vf {n : Nat} (h : n ≠ 0) : State.reset.fn n = {} := if_neg (Ne.symm h)

/-- Every function's reply ring is at its own reset. -/
@[simp] theorem State.reset_ring (n : Nat) : (State.reset.fn n).ring = {} := by
  by_cases h : n = 0
  · rw [h, State.reset_fn_pf]
  · rw [State.reset_fn_vf h]

theorem State.reset_memWf : State.reset.memWf := ⟨rfl, rfl, rfl, nofun, nofun⟩

theorem State.reset_credits : State.reset.credits := fun _ => Nat.zero_le 64

theorem State.reset_bufferOk : State.reset.bufferOk := by
  intro n
  rw [State.refusals, State.reset_ring]
  exact Nat.zero_le 256

/-- Settles O6: each table of the reset state read at any index, and the three bounds. -/
theorem resetState : Obligations.ResetState := by
  unfold Obligations.ResetState
  refine ⟨rfl, rfl, fun c => ?ctx, fun p => ?port, ?pf, fun n hn => ?vf, fun n => ?ring, fun a => ?hbm,
    State.reset_memWf, State.reset_credits, State.reset_bufferOk⟩
  case ctx => rw [State.reset_ctx]
  case port => rw [State.reset_port]; exact ⟨rfl, rfl⟩
  case pf => rw [State.reset_fn_pf]; exact ⟨rfl, rfl, rfl⟩
  case vf => rw [State.reset_fn_vf hn]; exact ⟨rfl, rfl, rfl⟩
  case ring => rw [State.reset_ring]; exact ⟨rfl, rfl, rfl, rfl, rfl⟩
  case hbm => rfl

end Sys2Proof.Machine
end

section
/-!
Access to a function (R351, R364, R365): what becomes of a BAR0 write and of a configuration request where the function takes it, and
where it does not; and what a logged error leaves of the functions (R370).
-/

namespace Sys2Proof.Machine

open Sys2Proof

/-- A BAR0 write of a function whose BARs are open is taken. -/
theorem State.barWrite_of_open {s : State} {fn : Nat} (f : State → State) (h : s.barOpen fn = true) : s.barWrite fn f = f s := if_pos h

/-- A BAR0 write that meets Memory Space Enable clear, or an FLR, is an Unsupported Request and is not performed. -/
theorem State.barWrite_of_closed {s : State} {fn : Nat} (f : State → State) (hp : s.pmc.powered = true) (hc : s.hep.cfgReady = true)
    (hd : s.hep.d3hot = false) (hf : s.hasFn fn = true) (hm : (s.fn fn).mse = false ∨ (s.fn fn).flr = true) :
    s.barWrite fn f = s.aerUnc fn 20 false := by
  have hclosed : s.barOpen fn = false := by
    rcases hm with hm | hm <;> simp [State.barOpen, hm]
  simp [State.barWrite, hclosed, hp, hc, hd, hf]

/-- The device of a function whose BARs are open is powered. -/
theorem State.powered_of_barOpen {s : State} {fn : Nat} (h : s.barOpen fn = true) : s.pmc.powered = true := by
  simp only [State.barOpen, Bool.and_eq_true] at h
  obtain ⟨⟨⟨⟨⟨hp, -⟩, -⟩, -⟩, -⟩, -⟩ := h
  exact hp

/-- A configuration request that the function takes is performed. -/
theorem State.cfgAccess_of_open {s : State} {fn : Nat} (f : State → State) (h : s.cfgOpen fn = true) : s.cfgAccess fn f = f s := if_pos h

/-- A configuration request before configuration space is ready, or during an FLR, gets Request Retry Status alone. -/
theorem State.cfgAccess_of_retry {s : State} {fn : Nat} (f : State → State) (hp : s.pmc.powered = true) (hr : s.pmc.perst = false)
    (hl : s.hep.l2 = false) (h : s.hep.cfgReady = false ∨ (s.fn fn).flr = true) : s.cfgAccess fn f = s.emit (.cfgRetry fn) := by
  have hclosed : s.cfgOpen fn = false := by
    rcases h with h | h <;> simp [State.cfgOpen, h]
  rcases h with h | h <;> simp [State.cfgAccess, hclosed, hp, hr, hl, h]

/-- What each function is after a change of one. -/
theorem State.modFn_fn (s : State) (m : Nat) (f : Fn → Fn) (n : Nat) : (s.modFn m f).fn n = if n = m then f (s.fn n) else s.fn n := by
  rw [State.fn_modFn]
  split
  · next h => rw [h]
  · rfl

/-- Logging an uncorrectable error changes the status, the First Error Pointer and the header log alone. -/
theorem Fn.logUnc_eq (f : Fn) (k : Nat) :
    f.logUnc k = { f with aerUnc := orBit f.aerUnc k, aerFirst := (f.logUnc k).aerFirst, aerHdrs := (f.logUnc k).aerHdrs } := by
  unfold Fn.logUnc
  dsimp only
  split <;> rfl

/-- Of the functions, an uncorrectable error that is not advisory touches the one it is logged on. -/
theorem State.aerUnc_fn (s : State) (fn k n : Nat) : (s.aerUnc fn k false).fn n = if n = fn then (s.fn n).logUnc k else s.fn n := by
  have message : ∀ t : State, ∀ o, (t.errMessage o).fn n = t.fn n := fun t o => (State.errMessage_frame t o).fn rfl n
  unfold State.aerUnc
  simp only [Bool.false_and, Bool.false_eq_true, if_false]
  split
  · exact State.modFn_fn ..
  · exact (message ..).trans (State.modFn_fn ..)

end Sys2Proof.Machine
end

section
/-!
The commits (R5, R64, R155, R158, R358), one lemma for each block, and what becomes of one that is not taken.
-/

namespace Sys2Proof.Machine

open Sys2Proof

/-! ## Reply rings (R64) -/

/-- A commit of a ring takes both fields; PROD and CONS stay where address and size stay. -/
theorem Ring.commit_eq (g : Ring) :
    g.commit = { g with base := g.baseSh, ctrl := g.ctrlSh
                        prod := if g.baseSh = g.base ∧ bits g.ctrlSh.toNat 11 8 = bits g.ctrl.toNat 11 8 then g.prod else 0
                        cons := if g.baseSh = g.base ∧ bits g.ctrlSh.toNat 11 8 = bits g.ctrl.toNat 11 8 then g.cons else 0 } := by
  unfold Ring.commit Ring.log2
  simp only [Bool.and_eq_true, decide_eq_true_eq]
  split <;> simp [*]

/-! ## The regulation (R155) -/

/-- Changing regulators leaves the rest of the regulation's registers. -/
theorem State.each_modReg_qos (l : List Nat) (f : Regulator → Regulator) (s : State) :
    ∃ regs, (s.each l fun s r => s.modReg r f).qos = { s.qos with regs := regs } := by
  unfold State.each
  induction l generalizing s with
  | nil => exact ⟨s.qos.regs, rfl⟩
  | cons r l ih => exact ih (s.modReg r f)

/-- A derating sets DERATE and the regulators' factors, and no other register of the regulation. -/
theorem State.rederate_qos (s : State) (h : s.scRunning = true) :
    ∃ regs, s.rederate.qos = { s.qos with derate := s.derateNow, regs := regs } := by
  unfold State.rederate
  rw [if_pos h]
  obtain ⟨regs, hregs⟩ := State.each_modReg_qos (List.range 5) (fun g => { g with derate := s.derateNow })
    (s.modQos fun q => { q with derate := s.derateNow })
  refine ⟨regs, Eq.trans (Frame.same (l := [.out, .fns]) ?_ .qos rfl) hregs⟩
  refine Frame.each _ _ (fun t fn => ?_) _
  refine .ite (.refl ..) ?_
  have told : Frame [.out, .fns] t (t.modFn fn fun h => { h with derate := s.derateNow, qosChanged := true }) :=
    (State.modFn_frame ..).mono rfl
  exact .ite ((State.raise_frame ..).step rfl told) told

/-- While the scheduler core restarts, a derating waits (R150). -/
theorem State.rederate_of_restarting (s : State) (h : s.scRunning = false) : s.rederate = s := by
  simp [State.rederate, h]

/-- The derate factor is a function of budgets, the HBM's state, the ladder and the QOS_CFG in force. -/
theorem State.derateNow_congr {s t : State} (h : Frame [.out, .fns, .qos] s t) (hq : t.qos.cfg = s.qos.cfg) : t.derateNow = s.derateNow := by
  have hctxs : t.ctxs = s.ctxs := h.same .ctxs rfl
  have hstk : t.hbmStk = s.hbmStk := h.same .hbmStk rfl
  have hpmc : t.pmc = s.pmc := h.same .pmc rfl
  unfold State.derateNow State.budgets State.capacityNum State.pcCount State.hFrac State.stack Qos.window Qos.reserve
  rw [hctxs, hstk, hpmc, hq]

/-- The regulation with its shadowed fields in force. -/
def State.qosApplied (s : State) : State := { s with qos := { s.qos with cfg := s.qos.cfgSh, tan := s.qos.tanSh } }

/-- QOS_COMMIT puts the shadows in force, and derates anew where INTERNAL_RESERVE changes. -/
theorem State.commitQos_eq (s : State) :
    s.commitQos = if bits s.qos.cfgSh.toNat 31 24 = s.qos.reserve then s.qosApplied else s.qosApplied.rederate := rfl

theorem State.commitQos_applies (s : State) : s.commitQos.qos.cfg = s.qos.cfgSh ∧ s.commitQos.qos.tan = s.qos.tanSh := by
  rw [State.commitQos_eq]
  split
  · exact ⟨rfl, rfl⟩
  · cases h : s.qosApplied.scRunning with
    | false => rw [State.rederate_of_restarting _ h]; exact ⟨rfl, rfl⟩
    | true =>
      obtain ⟨regs, hq⟩ := State.rederate_qos _ h
      rw [hq]
      exact ⟨rfl, rfl⟩

/-- With a changed reserve DERATE is the factor of the new state. -/
theorem State.commitQos_derates (s : State) (hr : bits s.qos.cfgSh.toNat 31 24 ≠ s.qos.reserve) (h : s.scRunning = true) :
    s.commitQos.qos.derate = s.commitQos.derateNow := by
  rw [State.commitQos_eq, if_neg hr]
  obtain ⟨regs, hq⟩ := State.rederate_qos s.qosApplied h
  rw [State.derateNow_congr ((State.rederate_frame s.qosApplied).mono rfl) (by rw [hq]), hq]

/-! ## The directory and flash dies (R158) -/

/-- A commit of a directory die whose watermarks are not in order is not taken. -/
theorem State.commitGnm_of_le {s : State} {d : Nat} (h : (s.dirDie d).highSh ≤ (s.dirDie d).lowSh) : s.commitGnm d = s := by
  simp [State.commitGnm, h]

/-- Settling the pressure of a die changes its PRESSURE bit alone. -/
theorem State.settlePressure_dirDie (s : State) (d n : Nat) :
    (s.settlePressure d).dirDie n = { s.dirDie n with pressure := ((s.settlePressure d).dirDie n).pressure } := by
  unfold State.settlePressure
  split
  · rfl
  · simp only [State.dirDie_modDir]
    split
    · next h => rw [h]
    · rfl

theorem State.settlePressure_dirDie_ne (s : State) {d n : Nat} (h : n ≠ d) : (s.settlePressure d).dirDie n = s.dirDie n := by
  unfold State.settlePressure
  split
  · rfl
  · simp only [State.dirDie_modDir, h, if_false]

theorem State.commitGnm_dirDie {s : State} {d : Nat} (hv : s.variantH = false) (h : (s.dirDie d).lowSh < (s.dirDie d).highSh) (n : Nat) :
    (s.commitGnm d).dirDie n = if n = d then { s.dirDie n with
      low := (s.dirDie n).lowSh, high := (s.dirDie n).highSh, pressure := ((s.commitGnm d).dirDie n).pressure } else s.dirDie n := by
  have taken : s.commitGnm d = (s.modDir d fun t => { t with low := t.lowSh, high := t.highSh }).settlePressure d := by
    simp [State.commitGnm, hv, Nat.not_le.mpr h]
  by_cases hn : n = d
  · rw [if_pos hn, taken, State.settlePressure_dirDie, State.dirDie_modDir, if_pos hn, hn]
  · rw [if_neg hn, taken, State.settlePressure_dirDie_ne _ hn, State.dirDie_modDir, if_neg hn]

/-- FLS_COMMIT changes FLS_CFG in force alone, and of one die; with the thresholds in order it takes the whole shadow. -/
theorem State.commitFls_fls {s : State} {d : Nat} (hv : s.variantH = false) (n : Nat) :
    (s.commitFls d).fls n = { s.fls n with cfg := ((s.commitFls d).fls n).cfg } := by
  simp only [State.commitFls, hv, Bool.false_eq_true, if_false, State.fls_modFls]
  split
  · next h => rw [h]
  · rfl

theorem State.commitFls_takes {s : State} {d : Nat} (hv : s.variantH = false)
    (h : bits (s.fls d).cfgSh.toNat 47 40 < bits (s.fls d).cfgSh.toNat 39 32) : ((s.commitFls d).fls d).cfg = (s.fls d).cfgSh := by
  simp [State.commitFls, hv, h]

/-! ## Host windows (R358) -/

/-- The window that an entry of HEP_HWIN puts in force, where its handle names a region. -/
def State.hwinEntryOn (s : State) (e : Nat × HWin) : Option (Nat × HWinOn) :=
  (s.hwinRegion e.2).map fun r => (e.1, { w := e.2, zaPage := r.2.1.zaPage + e.2.offset, region := r.1 })

/-- The first failing entry of a commit: its number and status. -/
def State.hwinFault (s : State) (e : Nat × HWin) : Option (Nat × Nat) := (s.hwinCheck e.1 e.2).map fun st => (e.1, st)

theorem State.commitHwin_eq (s : State) :
    s.commitHwin = match (s.hep.hwin.filter fun e => e.2.valid).findSome? s.hwinFault with
      | some (n, st) => s.modHep fun h => { h with hwinStatus := st, hwinEntry := n }
      | none => s.modHep fun h => { h with
          hwinOn := (s.hep.hwin.filter fun e => e.2.valid).filterMap s.hwinEntryOn, hwinStatus := 0, hwinEntry := 0 } := rfl

/-- An entry that passes its checks names a region. -/
theorem State.hwinRegion_of_check {s : State} {n : Nat} {w : HWin} (h : s.hwinCheck n w = none) : ∃ r, s.hwinRegion w = some r := by
  unfold State.hwinCheck at h
  cases hr : s.hwinRegion w with
  | some r => exact ⟨r, rfl⟩
  | none => rw [hr] at h; simp at h

/-- A commit whose valid entries all pass puts every one of them in force. -/
theorem State.commitHwin_of_checked {s : State} (h : ∀ e, e ∈ s.hep.hwin → e.2.valid = true → s.hwinCheck e.1 e.2 = none) :
    s.commitHwin = s.modHep fun h => { h with
      hwinOn := (s.hep.hwin.filter fun e => e.2.valid).filterMap s.hwinEntryOn, hwinStatus := 0, hwinEntry := 0 } := by
  have none_fails : (s.hep.hwin.filter fun e => e.2.valid).findSome? s.hwinFault = none := by
    rw [List.findSome?_eq_none_iff]
    intro e he
    obtain ⟨hm, hv⟩ := List.mem_filter.mp he
    rw [State.hwinFault, h e hm hv]
    rfl
  rw [State.commitHwin_eq, none_fails]

/-- A commit with a failing entry reports the first, and puts nothing in force. -/
theorem State.commitHwin_of_failing {s : State} {pre post : List (Nat × HWin)} {e : Nat × HWin} {st : Nat}
    (hl : (s.hep.hwin.filter fun e => e.2.valid) = pre ++ e :: post) (hpre : ∀ x, x ∈ pre → s.hwinCheck x.1 x.2 = none)
    (he : s.hwinCheck e.1 e.2 = some st) : s.commitHwin = s.modHep fun h => { h with hwinStatus := st, hwinEntry := e.1 } := by
  have first_fails : (s.hep.hwin.filter fun e => e.2.valid).findSome? s.hwinFault = some (e.1, st) := by
    rw [List.findSome?_eq_some_iff]
    exact ⟨pre, e, post, hl, by rw [State.hwinFault, he]; rfl, fun x hx => by rw [State.hwinFault, hpre x hx]; rfl⟩
  rw [State.commitHwin_eq, first_fails]

/-- Every valid entry that passes is in force after the commit. -/
theorem State.hwinOn_of_valid {s : State} {e : Nat × HWin} (he : e ∈ s.hep.hwin) (hv : e.2.valid = true)
    (hc : s.hwinCheck e.1 e.2 = none) :
    ∃ o, (e.1, o) ∈ (s.hep.hwin.filter fun e => e.2.valid).filterMap s.hwinEntryOn ∧ o.w = e.2 := by
  obtain ⟨r, hr⟩ := State.hwinRegion_of_check hc
  exact ⟨{ w := e.2, zaPage := r.2.1.zaPage + e.2.offset, region := r.1 },
    List.mem_filterMap.mpr ⟨e, List.mem_filter.mpr ⟨he, hv⟩, by rw [State.hwinEntryOn, hr]; rfl⟩, rfl⟩

/-- Every window in force after the commit is a valid entry of HEP_HWIN. -/
theorem State.valid_of_hwinOn {s : State} {e : Nat × HWinOn}
    (he : e ∈ (s.hep.hwin.filter fun e => e.2.valid).filterMap s.hwinEntryOn) : (e.1, e.2.w) ∈ s.hep.hwin ∧ e.2.w.valid = true := by
  obtain ⟨x, hx, hxe⟩ := List.mem_filterMap.mp he
  obtain ⟨r, -, rfl⟩ := Option.map_eq_some_iff.mp hxe
  exact List.mem_filter.mp hx

/-! ## Commits as BAR0 writes (R5, R351) -/

/-- The commit commands, each with the function whose BAR0 it writes and with what it applies. -/
inductive Commits : Instr → Nat → (State → State) → Prop where
  | ring (fn : Fin 256) : Commits (.hepRplCommit fn) fn.val fun s => s.modFn fn.val fun f => { f with ring := f.ring.commit }
  | qos : Commits .qosCommit 0 State.commitQos
  | gnm (die : Fin 2) : Commits (.gnmCommit die) 0 fun s => s.commitGnm die.val
  | fls (die : Fin 2) : Commits (.flsCommit die) 0 fun s => s.commitFls die.val
  | hwin : Commits .hepHwinCommit 0 State.commitHwin

/-- A commit is a BAR0 write that acts while the device runs. -/
theorem Commits.exec_eq {i : Instr} {fn : Nat} {f : State → State} (h : Commits i fn f) (s : State) :
    exec i s = .next (s.barWrite fn fun s => if s.running then f s else s) := by
  cases h <;> rfl

/-- A commit that is taken applies. -/
theorem Commits.exec_open {i : Instr} {fn : Nat} {f : State → State} (h : Commits i fn f) {s : State} (hr : s.running = true)
    (ho : s.barOpen fn = true) : exec i s = .next (f s) := by
  rw [h.exec_eq, State.barWrite_of_open _ ho, if_pos hr]

/-- Settles O39: a commit that is taken is its block's commit; one that is not is a logged Unsupported Request. -/
theorem commitsApply : Obligations.CommitsApply := by
  unfold Obligations.CommitsApply
  refine ⟨fun fn s hr ho => ?ring, fun s hr ho => ?qos, fun die s hr ho hv => ⟨fun h => ?gnmKept, fun h => ?gnm⟩,
    fun fls s hr ho hv => ?fls, fun s hr ho => ⟨fun h => ?hwin, fun pre e post st hl hpre he => ?hwinFails⟩,
    fun fn d s i hp hc hd hf hm hi => ?closed⟩
  case ring =>
    refine ⟨_, (Commits.ring fn).exec_open hr ho, State.modFn_frame .., fun n => ?_⟩
    rw [State.modFn_fn, Ring.commit_eq]
  case qos =>
    obtain ⟨hcfg, htan⟩ := s.commitQos_applies
    refine ⟨_, Commits.qos.exec_open hr ho, hcfg, htan, (State.commitQos_frame s).mono rfl, fun h => ?_, s.commitQos_derates⟩
    rw [State.commitQos_eq, if_pos h]
    rfl
  case gnmKept => rw [(Commits.gnm die).exec_open hr ho, State.commitGnm_of_le h]
  case gnm => exact ⟨_, (Commits.gnm die).exec_open hr ho, (State.commitGnm_frame ..).mono rfl, State.commitGnm_dirDie hv h⟩
  case fls =>
    exact ⟨_, (Commits.fls fls).exec_open hr ho, (State.commitFls_frame ..).mono rfl, State.commitFls_fls hv, State.commitFls_takes hv⟩
  case hwin =>
    refine ⟨_, Commits.hwin.exec_open hr ho, (State.commitHwin_frame s).mono rfl, ?_⟩
    rw [State.commitHwin_of_checked h]
    exact ⟨rfl, fun e he hv => State.hwinOn_of_valid he hv (h e he hv), fun e he => State.valid_of_hwinOn he⟩
  case hwinFails => rw [Commits.hwin.exec_open hr ho, State.commitHwin_of_failing hl hpre he]; rfl
  case closed =>
    have hcommit : ∃ f, Commits i fn.val f := by
      rcases hi with rfl | ⟨rfl, hi⟩
      · exact ⟨_, .ring fn⟩
      · simp only [List.mem_cons, List.not_mem_nil, or_false] at hi
        rcases hi with rfl | rfl | rfl | rfl
        · exact ⟨_, .qos⟩
        · exact ⟨_, .gnm d⟩
        · exact ⟨_, .fls d⟩
        · exact ⟨_, .hwin⟩
    obtain ⟨f, hcommit⟩ := hcommit
    refine ⟨s.aerUnc fn.val 20 false, ?_, State.aerUnc_frame .., ?_, ?_, fun n hn => ?_⟩
    · rw [hcommit.exec_eq, State.barWrite_of_closed _ hp hc hd hf hm]
    · rw [State.aerUnc_fn, if_pos rfl, Fn.logUnc_eq]
    · rw [State.aerUnc_fn, if_pos rfl, Fn.logUnc_eq]
    · rw [State.aerUnc_fn, if_neg hn]

end Sys2Proof.Machine
end

section
/-!
Registers in BAR0 (R4, R6, R7, R351-R354): where a word of a function block and of PMC lies, what a write puts into a field, and what a
read gives.
-/

namespace Sys2Proof.Machine

open Sys2Proof

/-! ## Fields -/

/-- A field from bit 0 on, all of whose bits are replaced, holds the new value's low bits. -/
theorem bits_setBits_low (old v : Nat) {hi n : Nat} (h : hi < n) : bits (setBits old 0 n v) hi 0 = v % 2 ^ (hi + 1) := by
  have hdvd : 2 ^ (hi + 1) ∣ 2 ^ n := Nat.pow_dvd_pow 2 h
  have hhigh : 2 ^ (hi + 1) ∣ old - old % 2 ^ n := Nat.dvd_trans hdvd (Nat.dvd_sub_mod old)
  have hn : 0 + n - 1 + 1 - 0 = n := by omega
  simp only [bits, setBits, Nat.shiftRight_zero, Nat.shiftLeft_zero, Nat.sub_zero, hn]
  rw [Nat.add_mod, Nat.mod_eq_zero_of_dvd hhigh, Nat.zero_add, Nat.mod_mod, Nat.mod_mod_of_dvd v hdvd]

/-- A write from bit 0 on that covers a field [hi:0] sets it, unless the value is reserved (R9). -/
theorem RegW.field_low (n v : Nat) {hi : Nat} (old : Nat) (ok : Nat → Bool) (h : hi < n) :
    RegW.field { lo := 0, n, v } hi 0 old ok = if ok (v % 2 ^ (hi + 1)) then v % 2 ^ (hi + 1) else old := by
  simp only [RegW.field, RegW.merge, Nat.shiftLeft_zero, bits_setBits_low old v h]

/-- A W1C register clears what is written as 1. -/
theorem RegW.clear_word {m : Nat} (v : Nat) (hv : v < 2 ^ 64) (old : BitVec m) :
    RegW.clear { lo := 0, n := 64, v } old = old &&& ~~~BitVec.ofNat m v := by
  rw [RegW.clear, w1c, RegW.ones, Nat.shiftLeft_zero, Nat.mod_eq_of_lt hv]

/-! ## Writes -/

/-- A register write in BAR0. -/
theorem exec_registerWrite_bar0 (fn : Fin 256) (off : BitVec 26) (size : BitVec 4) (v : BitVec 64) (s : State) :
    exec (.registerWrite .bar0 fn off size v) s = .next (s.writeBar fn.val off.toNat size.toNat v.toNat) := rfl

/-- Where a function's block lies in its BAR0 (R353, R354). -/
def fnBlockBase (fn : Nat) : Nat := if fn = 0 then 0x100000 else 0

/-- A write of 4 or 8 bytes, aligned, reaches the register word that holds them. -/
theorem State.writeBar_aligned {s : State} {fn off size : Nat} (v : Nat) (ho : s.barOpen fn = true) (hs : size = 4 ∨ size = 8)
    (ha : off % size = 0) (hb : fn ≠ 0 → off < 65536) :
    s.writeBar fn off size v = if fn = 0 then s.writePfBar (off / 8 * 8) { lo := 8 * (off % 8), n := 8 * size, v }
      else s.writeVfBar fn (off / 8 * 8) { lo := 8 * (off % 8), n := 8 * size, v } := by
  rw [State.writeBar, State.barWrite_of_open _ ho, if_neg (by simpa [ha] using ⟨hs.resolve_left, hb⟩)]

/-- A write of another size is a logged Unsupported Request (R352). -/
theorem State.writeBar_bad_size {s : State} {fn off size : Nat} (v : Nat) (ho : s.barOpen fn = true) (h4 : size ≠ 4) (h8 : size ≠ 8) :
    s.writeBar fn off size v = s.aerUnc fn 20 false := by
  rw [State.writeBar, State.barWrite_of_open _ ho, if_pos (by simp [h4, h8])]

/-- The words of PMC in the PF's BAR0 (R353). -/
theorem State.writePfBar_pmc {s : State} (hr : s.pmc.ready = true) {o : Nat} (h : o < 65536) (w : RegW) :
    s.writePfBar (0x220000 + o) w = s.writePmc o w := by
  have hslot : (0x220000 + o) / 65536 = 0x22 := by omega
  have hoff : (0x220000 + o) % 65536 = o := by omega
  simp [State.writePfBar, hslot, hoff, hr]

/-- The words of the PF's function block in its BAR0. -/
theorem State.writePfBar_fnBlock {s : State} (hr : s.pmc.ready = true) {o : Nat} (h : o < 0x2000) (w : RegW) :
    s.writePfBar (0x100000 + o) w = s.writeFnBlock 0 o w := by
  have hslot : (0x100000 + o) / 65536 = 0x10 := by omega
  have hoff : (0x100000 + o) % 65536 = o := by omega
  have hlow : ¬ 0x2000 ≤ o := by omega
  have hne : o ≠ 0x2800 ∧ o ≠ 0x3000 ∧ o ≠ 0x3008 := by omega
  simp [State.writePfBar, State.writePfBlock, hslot, hoff, hr, hlow, hne]

/-- A write reaches a function's block at its place in the function's BAR0. -/
theorem State.writeBar_fnBlock {s : State} {fn o size : Nat} (v : Nat) (hr : s.pmc.ready = true) (ho : s.barOpen fn = true)
    (hs : size = 4 ∨ size = 8) (ha : o % size = 0) (h : o < 0x2000) :
    s.writeBar fn (fnBlockBase fn + o) size v = s.writeFnBlock fn (o / 8 * 8) { lo := 8 * (o % 8), n := 8 * size, v } := by
  have haligned : (fnBlockBase fn + o) % size = 0 := by
    unfold fnBlockBase
    split <;> rcases hs with rfl | rfl <;> omega
  rw [State.writeBar_aligned v ho hs haligned (fun hfn => by rw [fnBlockBase, if_neg hfn]; omega)]
  by_cases hfn : fn = 0
  · subst hfn
    have hword : (0x100000 + o) / 8 * 8 = 0x100000 + o / 8 * 8 := by omega
    have hbyte : (0x100000 + o) % 8 = o % 8 := by omega
    rw [if_pos rfl, fnBlockBase, if_pos rfl, hword, hbyte, State.writePfBar_fnBlock hr (by omega)]
  · have hmsix : ¬ 0x8000 ≤ o / 8 * 8 := by omega
    have hlow : o / 8 * 8 < 0x2000 := by omega
    rw [if_neg hfn, fnBlockBase, if_neg hfn, Nat.zero_add]
    simp [State.writeVfBar, hmsix, hlow, hr]

/-! ## Reads -/

/-- A read of 4 or 8 bytes, aligned, gives them from the register word that holds them. -/
theorem State.readBar_aligned {s : State} {fn off size : Nat} (ho : s.barOpen fn = true) (hs : size = 4 ∨ size = 8)
    (ha : off % size = 0) (hb : fn ≠ 0 → off < 65536) :
    (s.readBar fn off size).1 = .value (((if fn = 0 then s.readPfBar (off / 8 * 8) s.takeFree.1
      else s.readVfBar fn (off / 8 * 8) s.takeFree.1 false).getD 0) >>> (8 * (off % 8)) % 2 ^ (8 * size)) := by
  rw [State.readBar, if_neg (by simpa [ho, ha] using ⟨hs.resolve_left, hb⟩)]

/-- A read of another size is an Unsupported Request. -/
theorem State.readBar_bad_size {s : State} {fn off size : Nat} (h4 : size ≠ 4) (h8 : size ≠ 8) :
    (s.readBar fn off size).1 = .unsupported := by
  rw [State.readBar, if_pos (by simp [h4, h8])]

/-- A read changes no register: it may use a free value, and log an error. -/
theorem State.readBar_frame (s : State) (fn off size : Nat) : Frame [.fresh, .out, .fns] s (s.readBar fn off size).2 := by
  unfold State.readBar
  exact .iteSnd (State.barWrite_frame _ _ _ rfl fun t => (State.aerUnc_frame t _ _ _).mono rfl) ((State.takeFree_frame s).mono rfl)

theorem State.readPfBar_pmc {s : State} (hr : s.pmc.ready = true) {o : Nat} (h : o < 0xF000) (free : Nat) :
    s.readPfBar (0x220000 + o) free = s.readPmc o := by
  have hslot : (0x220000 + o) / 65536 = 0x22 := by omega
  have hoff : (0x220000 + o) % 65536 = o := by omega
  have hpage : ¬ 0xF000 ≤ o := by omega
  simp [State.readPfBar, hslot, hoff, hr, slotInst, hpage, State.readInst]

theorem State.readPfBar_fnBlock {s : State} (hr : s.pmc.ready = true) {o : Nat} (h : o < 0x2000) (free : Nat) :
    s.readPfBar (0x100000 + o) free = s.readFnBlock 0 o := by
  have hslot : (0x100000 + o) / 65536 = 0x10 := by omega
  have hoff : (0x100000 + o) % 65536 = o := by omega
  have hpage : ¬ 0xF000 ≤ o := by omega
  have hlow : ¬ 0x2000 ≤ o := by omega
  have hne : o ≠ 0x2808 ∧ o ≠ 0x3000 ∧ o ≠ 0x3008 := by omega
  simp [State.readPfBar, hslot, hoff, hr, slotInst, hpage, State.readInst, State.readPfBlock, hlow, hne]

/-- A read of a function's block at its place in the function's BAR0. -/
theorem State.readBar_fnBlock {s : State} {fn o size : Nat} (hr : s.pmc.ready = true) (ho : s.barOpen fn = true)
    (hs : size = 4 ∨ size = 8) (ha : o % size = 0) (h : o < 0x2000) :
    (s.readBar fn (fnBlockBase fn + o) size).1 =
      .value (((s.readFnBlock fn (o / 8 * 8)).getD 0) >>> (8 * (o % 8)) % 2 ^ (8 * size)) := by
  have haligned : (fnBlockBase fn + o) % size = 0 := by
    unfold fnBlockBase
    split <;> rcases hs with rfl | rfl <;> omega
  rw [State.readBar_aligned ho hs haligned (fun hfn => by rw [fnBlockBase, if_neg hfn]; omega)]
  by_cases hfn : fn = 0
  · subst hfn
    have hword : (0x100000 + o) / 8 * 8 = 0x100000 + o / 8 * 8 := by omega
    have hbyte : (0x100000 + o) % 8 = o % 8 := by omega
    rw [if_pos rfl, fnBlockBase, if_pos rfl, hword, hbyte, State.readPfBar_fnBlock hr (by omega)]
  · have hmsix : ¬ 0x8000 ≤ o / 8 * 8 := by omega
    have hpba : ¬ 0x9000 ≤ o / 8 * 8 := by omega
    have hpage : ¬ 0xF000 ≤ o / 8 * 8 := by omega
    have hlow : o / 8 * 8 < 0x2000 := by omega
    rw [if_neg hfn, fnBlockBase, if_neg hfn, Nat.zero_add]
    simp [State.readVfBar, hmsix, hpba, hpage, hlow, hr]

end Sys2Proof.Machine
end

section
/-!
Writes of registers, of an aperture's slots and of the Command register (R4, R56, R64, R351, R364-R367, R398), and reads (R4, R6, R7).
-/

namespace Sys2Proof.Machine

open Sys2Proof

/-! ## Registers -/

/-- CAP takes 900 to 1700 W; a value outside leaves it (R9, R398). -/
theorem State.writePmc_cap (s : State) (v : Nat) : s.writePmc 0x00 { lo := 0, n := 64, v } = { s with pmc := { s.pmc with
    cap := if 900 ≤ v % 2048 ∧ v % 2048 ≤ 1700 then v % 2048 else s.pmc.cap } } := by
  have field : RegW.field { lo := 0, n := 64, v } 10 0 s.pmc.cap (fun v => 900 ≤ v && v ≤ 1700) =
      if 900 ≤ v % 2048 ∧ v % 2048 ≤ 1700 then v % 2048 else s.pmc.cap := by
    simpa using RegW.field_low 64 v s.pmc.cap (fun v => 900 ≤ v && v ≤ 1700) (show 10 < 64 by decide)
  rw [← field]
  rfl

/-- The error bits of PMC are W1C. -/
theorem State.writePmc_err (s : State) {v : Nat} (hv : v < 2 ^ 64) : s.writePmc 0x18 { lo := 0, n := 64, v } =
    { s with pmc := { s.pmc with err := s.pmc.err &&& ~~~(BitVec.ofNat _ v) } } := by
  simp [State.writePmc, State.modPmc, RegW.clear_word v hv]

/-- A ring's consumer index is the host's (R64). -/
theorem State.writeFnBlock_cons (s : State) (fn v : Nat) : s.writeFnBlock fn 0x118 { lo := 0, n := 32, v } =
    s.modFn fn fun f => { f with ring := { f.ring with cons := BitVec.ofNat 32 v } } := by
  have low : BitVec.ofNat 32 (v % 2 ^ 32) = BitVec.ofNat 32 v := by
    apply BitVec.eq_of_toNat_eq
    simp
  simp only [State.writeFnBlock, RegW.field_low 32 v _ _ (show 31 < 32 by decide), if_true, low]
  rfl

/-- A commit bit reads as zero, as do the shadow's and the active set's words as last written and in force (R6). -/
theorem State.readFnBlock_ring (s : State) (fn : Nat) :
    s.readFnBlock fn 0x108 = some (s.fn fn).ring.ctrlSh.toNat ∧ s.readFnBlock fn 0x120 = none ∧
    s.readFnBlock fn 0x128 = some (s.fn fn).ring.ctrl.toNat ∧ s.readFnBlock fn 0x118 = some (s.fn fn).ring.cons.toNat :=
  ⟨rfl, rfl, rfl, rfl⟩

/-- CAP reads as its 11 bits, and the rest of its word as zero. -/
theorem State.readPmc_cap (s : State) : s.readPmc 0x00 = some (s.pmc.cap % 2048) := by
  simp [State.readPmc, fields]

/-- A word of a function's block, read whole or its low half, gives what it holds. -/
theorem State.readBar_fnBlock_word {s : State} {fn o size x : Nat} (hr : s.pmc.ready = true) (ho : s.barOpen fn = true)
    (hs : size = 4 ∨ size = 8) (ha : o % 8 = 0) (h : o < 0x2000) (hx : (s.readFnBlock fn o).getD 0 = x) (hlt : x < 2 ^ 32) :
    (s.readBar fn (fnBlockBase fn + o) size).1 = .value x := by
  have hsize : o % size = 0 := by
    rcases hs with rfl | rfl <;> omega
  have hword : o / 8 * 8 = o := by omega
  have hfits : x < 2 ^ (8 * size) := by
    rcases hs with rfl | rfl <;> omega
  rw [State.readBar_fnBlock hr ho hs hsize h, hword, hx, ha, Nat.mul_zero, Nat.shiftRight_zero, Nat.mod_eq_of_lt hfits]

/-- The word of CAP, read whole or by halves. -/
theorem State.readBar_cap {s : State} {size : Nat} (hr : s.pmc.ready = true) (ho : s.barOpen 0 = true) (b : Nat) (hs : size = 4 ∨ size = 8)
    (ha : b % size = 0) (hb : b < 8) :
    (s.readBar 0 (0x220000 + b) size).1 = .value ((s.pmc.cap % 2048) >>> (8 * b) % 2 ^ (8 * size)) := by
  have haligned : (0x220000 + b) % size = 0 := by
    rcases hs with rfl | rfl <;> omega
  have hword : (0x220000 + b) / 8 * 8 = 0x220000 + 0x00 := by omega
  have hbyte : (0x220000 + b) % 8 = b := by omega
  rw [State.readBar_aligned ho hs haligned (fun h => absurd rfl h), if_pos rfl, hword, hbyte, State.readPfBar_pmc hr (by decide),
    State.readPmc_cap, Option.getD_some]

/-! ## Apertures (R56) -/

/-- The state in which a slot has taken its bytes: it is empty again if they complete it. -/
def State.slotTaken (s : State) (fn : Fin 256) (slot : Nat) (w : Slot) : State :=
  s.modFn fn.val fun f => { f with slots := tput {} f.slots slot (if w.mask = BitVec.allOnes 64 then {} else w) }

/-- The slots of a function after one of them has taken its bytes. -/
theorem State.slotTaken_fn (s : State) (fn : Fin 256) (slot : Nat) (w : Slot) (n : Nat) : (s.slotTaken fn slot w).fn n =
    if n = fn.val then { s.fn n with slots := ((s.slotTaken fn slot w).fn fn.val).slots } else s.fn n := by
  simp only [State.slotTaken, State.modFn_fn, if_true]
  split
  · next h => rw [h]
  · rfl

theorem State.slotTaken_slots (s : State) (fn : Fin 256) (slot : Nat) (w : Slot) (k : Nat) :
    tget {} ((s.slotTaken fn slot w).fn fn.val).slots k =
      if k = slot then (if w.mask = BitVec.allOnes 64 then {} else w) else tget {} (s.fn fn.val).slots k := by
  rw [State.slotTaken, State.fn_modFn, if_pos rfl, tget_tput]

/-- A write within one slot of an aperture: the slot takes the bytes, and a complete one submits its packet. -/
theorem State.slotWrite_eq (s : State) (fn : Fin 256) {slot : Nat} (at_ : Nat) (l : List Byte) (hslot : slot < apertureSlots fn.val) {w : Slot}
    (hw : w = (tget {} (s.fn fn.val).slots slot).write at_ l) :
    s.slotWrite fn slot at_ l = if w.mask = BitVec.allOnes 64 then
      (s.slotTaken fn slot w).submitPacket (packetOf w.data).1 (.aperture fn) (packetOf w.data).2 else s.slotTaken fn slot w := by
  subst hw
  rw [State.slotWrite, if_neg (Nat.not_le.mpr hslot)]
  split
  · next h => rw [if_pos h, State.slotTaken, if_pos h]
  · next h => rw [if_neg h, State.slotTaken, if_neg h]

/-- Bytes that end within the slot in which they begin are one write of that slot. -/
theorem State.apertureBytes_within (s : State) (fn : Fin 256) {off : Nat} {l : List Byte} (hl : l ≠ []) (h : off % 64 + l.length ≤ 64) :
    s.apertureBytes fn (l.length + 1) off l = s.slotWrite fn (off / 64) (off % 64) l := by
  have htake : l.take (64 - off % 64) = l := List.take_of_length_le (by omega)
  have hdrop : l.drop (64 - off % 64) = [] := List.drop_of_length_le (by omega)
  have stops : ∀ (t : State) (fuel off : Nat), t.apertureBytes fn fuel off [] = t := fun t fuel off => by
    cases fuel <;> rfl
  rw [State.apertureBytes, if_neg (by simpa using hl)]
  dsimp only
  rw [htake, hdrop, stops]

/-- An aperture write of a running device, within one slot. -/
theorem exec_apertureSlotWrite {s : State} {fn : Fin 256} {off : BitVec 20} {bytes : List Byte} {w : Slot} (hr : s.running = true)
    (ho : s.barOpen fn.val = true) (hslot : off.toNat / 64 < apertureSlots fn.val) (hb : bytes ≠ [])
    (hl : off.toNat % 64 + bytes.length ≤ 64) (hw : w = (tget {} (s.fn fn.val).slots (off.toNat / 64)).write (off.toNat % 64) bytes) :
    exec (.apertureSlotWrite fn off bytes) s = .next (if w.mask = BitVec.allOnes 64 then
      (s.slotTaken fn (off.toNat / 64) w).submitPacket (packetOf w.data).1 (.aperture fn) (packetOf w.data).2
      else s.slotTaken fn (off.toNat / 64) w) := by
  show execApertureSlotWrite fn off bytes s = _
  rw [execApertureSlotWrite, if_neg (by simpa using hb), State.barWrite_of_open _ ho, if_pos hr, State.apertureBytes_within s fn hb hl,
    State.slotWrite_eq s fn _ _ hslot hw]

/-! ## Memory Space Enable and Bus Master Enable (R364, R365, R367) -/

/-- The writes of the Command register's two bits, each with the function it is for and with what it does. -/
inductive CommandWrite (fn : Fin 256) : Instr → (State → State) → Prop where
  | mse : CommandWrite fn (.memorySpaceDisable fn) fun s => s.modFn fn.val fun f => { f with mse := false }
  | bmeClear : CommandWrite fn (.bmeClear fn) fun s => s.clearBme fn.val
  | bmeSet : CommandWrite fn (.bmeSet fn) fun s => s.setBme fn.val

/-- They are configuration requests. -/
theorem CommandWrite.exec_eq {fn : Fin 256} {i : Instr} {f : State → State} (h : CommandWrite fn i f) (s : State) :
    exec i s = .next (s.cfgAccess fn.val f) := by
  cases h <;> rfl

theorem CommandWrite.exec_open {fn : Fin 256} {i : Instr} {f : State → State} (h : CommandWrite fn i f) {s : State}
    (ho : s.cfgOpen fn.val = true) : exec i s = .next (f s) := by
  rw [h.exec_eq, State.cfgAccess_of_open _ ho]

/-- Clearing Bus Master Enable, where it is set, pauses the function. -/
theorem State.clearBme_fn (s : State) (fn n : Nat) : (s.clearBme fn).fn n =
    if n = fn ∧ (s.fn n).bme = true then { s.fn n with bme := false, paused := true } else s.fn n := by
  unfold State.clearBme
  by_cases hb : (s.fn fn).bme = true
  · rw [if_pos hb, State.modFn_fn]
    by_cases hn : n = fn
    · rw [if_pos hn, if_pos ⟨hn, hn ▸ hb⟩]
    · rw [if_neg hn, if_neg fun h => hn h.1]
  · rw [if_neg hb, if_neg]
    rintro ⟨rfl, h⟩
    exact hb h

/-- A device that does not run resumes nothing. -/
theorem State.resume_of_stopped {s : State} (h : s.running = false) : s.resume = s := by
  simp [State.resume, h]

/-! ## The obligation -/

/-- Settles O40: each register at its place in BAR0, a slot's write, and the configuration requests that are taken or retried. -/
theorem registersWritten : Obligations.RegistersWritten := by
  unfold Obligations.RegistersWritten
  refine ⟨fun fn s hr ho => ⟨fun v hfn => ?cap, fun v hfn => ?err, fun v off hoff => ?cons, fun v off => ?size, fun base hbase => ?ring,
    fun hfn => ?readCap, fun off size => State.readBar_frame .., fun off => State.readBar_bad_size (by decide) (by decide),
    fun off bytes w hfatal hslot hb hl hw => ?aperture⟩, fun fn s ho => ⟨?mse, ?clear, ?set⟩, fun fn s i hp hperst hl h hi => ?retry⟩
  case cap =>
    have written : s.writeBar 0 0x220000 8 v.toNat = s.writePmc 0x00 { lo := 0, n := 64, v := v.toNat } := by
      rw [State.writeBar_aligned _ (hfn ▸ ho) (.inr rfl) rfl (by simp), if_pos rfl]
      exact State.writePfBar_pmc hr (o := 0x00) (by decide) _
    rw [exec_registerWrite_bar0, hfn]
    exact congrArg _ (written.trans (State.writePmc_cap ..))
  case err =>
    have written : s.writeBar 0 0x220018 8 v.toNat = s.writePmc 0x18 { lo := 0, n := 64, v := v.toNat } := by
      rw [State.writeBar_aligned _ (hfn ▸ ho) (.inr rfl) rfl (by simp), if_pos rfl]
      exact State.writePfBar_pmc hr (o := 0x18) (by decide) _
    rw [exec_registerWrite_bar0, hfn]
    exact congrArg _ (written.trans (State.writePmc_err s v.isLt))
  case cons =>
    have hplace : off.toNat = fnBlockBase fn.val + 0x118 := by
      rw [hoff, fnBlockBase]
      split <;> rfl
    have written : s.writeBar fn.val off.toNat 4 v.toNat =
        s.modFn fn.val fun f => { f with ring := { f.ring with cons := BitVec.ofNat 32 v.toNat } } := by
      rw [hplace, State.writeBar_fnBlock _ hr ho (.inl rfl) rfl (by decide)]
      exact State.writeFnBlock_cons ..
    refine ⟨_, (exec_registerWrite_bar0 ..).trans (congrArg _ written), State.modFn_frame .., State.modFn_fn s fn.val _⟩
  case size =>
    have refused : s.writeBar fn.val off.toNat 2 v.toNat = s.aerUnc fn.val 20 false :=
      State.writeBar_bad_size _ ho (by decide) (by decide)
    refine ⟨_, (exec_registerWrite_bar0 ..).trans (congrArg _ refused), State.aerUnc_frame .., fun n => ?_⟩
    rw [State.aerUnc_fn]
    split
    · next h => subst h; exact Fn.logUnc_eq ..
    · rfl
  case ring =>
    obtain ⟨hctrlSh, hcommit, hctrl, hcons⟩ := s.readFnBlock_ring fn.val
    have hplace : base = fnBlockBase fn.val := hbase
    have word : ∀ o x size, size = 4 ∨ size = 8 → o % 8 = 0 → o < 0x2000 → (s.readFnBlock fn.val o).getD 0 = x → x < 2 ^ 32 →
        (s.readBar fn.val (base + o) size).1 = .value x := hplace ▸ fun o x size => State.readBar_fnBlock_word hr ho
    exact ⟨word _ _ 8 (.inr rfl) rfl (by decide) (by rw [hctrlSh]; rfl) (BitVec.isLt _),
      word _ _ 8 (.inr rfl) rfl (by decide) (by rw [hcommit]; rfl) (by decide),
      word _ _ 8 (.inr rfl) rfl (by decide) (by rw [hctrl]; rfl) (BitVec.isLt _),
      word _ _ 4 (.inl rfl) rfl (by decide) (by rw [hcons]; rfl) (BitVec.isLt _)⟩
  case readCap =>
    have hopen : s.barOpen 0 = true := hfn ▸ ho
    have low : s.pmc.cap % 2048 < 2048 := Nat.mod_lt _ (by decide)
    refine ⟨(State.readBar_cap hr hopen 0 (.inr rfl) rfl (by decide)).trans ?_,
      (State.readBar_cap hr hopen 0 (.inl rfl) rfl (by decide)).trans ?_,
      (State.readBar_cap hr hopen 4 (.inl rfl) rfl (by decide)).trans ?_⟩
    · rw [Nat.mul_zero, Nat.shiftRight_zero, Nat.mod_eq_of_lt (by omega)]
    · rw [Nat.mul_zero, Nat.shiftRight_zero, Nat.mod_eq_of_lt (by omega)]
    · rw [Nat.shiftRight_eq_div_pow, Nat.div_eq_of_lt (by omega), Nat.zero_mod]
  case aperture =>
    have hrun : s.running = true := by
      simp [State.running, State.powered_of_barOpen ho, hr, hfatal]
    have written := exec_apertureSlotWrite hrun ho hslot hb hl hw
    refine ⟨s.slotTaken fn (off.toNat / 64) w, State.slotTaken_fn s fn _ w, State.modFn_frame .., State.slotTaken_slots s fn _ w,
      fun h => ?_, fun h => ?_⟩
    · rw [written, if_neg h]
    · rw [written, if_pos h]
  case mse =>
    refine ⟨_, CommandWrite.mse.exec_open ho, State.modFn_frame .., State.modFn_fn s fn.val _⟩
  case clear => exact ⟨_, CommandWrite.bmeClear.exec_open ho, State.clearBme_frame .., State.clearBme_fn s fn.val⟩
  case set =>
    refine ⟨s.modFn fn.val fun f => { f with bme := true, paused := false }, CommandWrite.bmeSet.exec_open ho, State.modFn_frame ..,
      State.modFn_fn s fn.val _, fun h => State.resume_of_stopped h⟩
  case retry =>
    have hwrite : ∃ f, CommandWrite fn i f := by
      simp only [List.mem_cons, List.not_mem_nil, or_false] at hi
      rcases hi with rfl | rfl | rfl
      · exact ⟨_, .mse⟩
      · exact ⟨_, .bmeClear⟩
      · exact ⟨_, .bmeSet⟩
    obtain ⟨f, hwrite⟩ := hwrite
    rw [hwrite.exec_eq, State.cfgAccess_of_retry _ hp hperst hl h]
    rfl

end Sys2Proof.Machine
end

section
/-!
What a step keeps: as with the step's frame, one lemma per way in which the meanings of commands are put together, then one case per
command, each citing what the operation it calls keeps.
-/

namespace Sys2Proof.Machine

open Sys2Proof

/-- A next state of an outcome keeps what a change keeps. -/
structure NextKeeps (s : State) (o : Host.Outcome State Fault Refusal) : Prop where
  keeps : ∀ t, o = .next t → Keeps s t

theorem NextKeeps.next {s t : State} (h : Keeps s t) : NextKeeps s (.next t) := by
  constructor
  intro u hu
  injection hu with hu
  exact hu ▸ h

theorem NextKeeps.fault (s : State) (r : Fault) : NextKeeps s (.fault r) := by
  constructor
  intro t ht
  simp at ht

theorem NextKeeps.ite {s : State} {c : Prop} [Decidable c] {x y : Host.Outcome State Fault Refusal}
    (hx : NextKeeps s x) (hy : NextKeeps s y) : NextKeeps s (if c then x else y) := by
  split
  · exact hx
  · exact hy

/-- A command that acts under a condition, and does nothing otherwise. -/
theorem NextKeeps.guard {s t : State} {c : Prop} [Decidable c] (h : Keeps s t) :
    NextKeeps s (.next (if c then t else s)) := .next (Keeps.ite h (Keeps.refl _))

theorem State.portEvent_keeps {s : State} (port : Nat) {f : Port → State} (h : ∀ p, Keeps s (f p)) :
    NextKeeps s (s.portEvent port f) := .guard (h _)

theorem State.onSupply_keeps {s : State} {ok : Bool} {vin : Nat} {f : State → State} (h : ∀ t, Keeps t (f t)) :
    NextKeeps s (s.onSupply ok vin f) := .guard ((h _).step (.ofFrame (State.modPmc_frame ..) rfl))

theorem State.side_keeps (s : State) (l : List Byte) : NextKeeps s (s.side l) := .guard (.ofFrame (State.emit_frame ..) rfl)

theorem State.vendor_keeps (s : State) (rom : Bool) (l : List Byte) : NextKeeps s (s.vendor rom l) := State.side_keeps ..

/-- A flit's messages are delivered to the operations that the message layer calls. -/
theorem State.flitRx_keeps (s : State) (port : Fin 16) (ftype : Nat) (f : Flit) : NextKeeps s (s.flitRx port ftype f) :=
  State.portEvent_keeps _ fun _ => State.rxFlit_keeps _ _ _ _ _ State.message_keeps

/-- The rows of a scrubber's lap: what their lines show is met one by one, and the lap may end (R314). -/
theorem execScrubRowRead_keeps (stack : Fin 20) (pc : Fin 64) (found : List Finding) (lines : Nat) (lapEnd : Bool) (s : State) :
    NextKeeps s (execScrubRowRead stack pc found lines lapEnd s) := by
  unfold execScrubRowRead
  refine .ite (.next ?_) (.next (.refl _))
  have lap : ∀ {t : State} {c : Prop} [Decidable c] {k : Nat} {f : Stack → Stack}, Keeps s t →
      Keeps s (if c then t.takeFree.2.modStack k f else t) := fun h =>
    .ite (.stepFrame (State.modStack_frame ..) rfl (.stepFrame (State.takeFree_frame _) rfl h)) h
  refine lap (Keeps.eachTrans (Keeps.eachTrans ?_ fun t f => ?_) fun t l => ?_)
  · exact (State.count_keeps ..).step (.ofFrame (State.modStack_frame ..) rfl)
  · exact State.damage_keeps ..
  · exact State.meet_keeps ..

/-- A reply written to its ring leaves the refusal buffer, and its command's credit ends (R60, R64). -/
theorem State.ringWrite_keeps (s : State) (fn : Nat) : Keeps s (s.ringWrite fn) := by
  unfold State.ringWrite
  refine .ite ?_ (.refl s)
  split
  · exact .refl s
  next r rest _ =>
    have counted : ∀ o a, Keeps s (((s.emit o).count 0x01 0 0x05 a 32).fixed 0x01 0 3 32) := fun o a =>
      .stepFrame (State.fixed_frame ..) rfl ((State.count_keeps ..).step (.ofFrame (State.emit_frame s o) rfl))
    have popped : ∀ t : State, Keeps t (t.modFn fn fun f =>
        { f with ring := { f.ring with prod := f.ring.prod + 1, held := f.ring.held.drop 1 } }) := fun t =>
      Keeps.modFnLe t fn _ (Nat.le_trans ((List.drop_sublist 1 _).filter _).length_le (Nat.le_max_right 256 _))
    have ended := fun o a => (Keeps.filterCmds _ fun c => some c.id != r.cmd).step ((popped _).step (counted o a))
    exact .ite ((State.raise_keeps ..).step (ended ..)) (ended ..)

/-! ## Packets of Fraist (R61, R72-R81) -/

theorem fraist_keeps {i : Instr} {spec : CmdSpec} {via : Via} {p : Packet} (h : fraistOf i = some (spec, via, p)) (s : State) :
    NextKeeps s (exec i s) := by
  obtain ⟨hm, he⟩ := exec_of_fraistOf h s
  rw [he]
  exact .next (State.submit_keeps s spec via p (specs_start_keeps spec hm))

/-- Every command keeps the canonical form of the stored data, the credits and the places of the refusal buffers: each meaning is put together
from operations that keep them. -/
theorem exec_keeps (i : Instr) (s : State) : NextKeeps s (exec i s) := by
  cases i with
  | identify | mark | ctxCreate | ctxDestroy | ctxBindPort | winSet | regionAlloc | regionFree
  | regionAttrReport | regionAttrSetLease | regionAttrSetMissPolicy | hintPrefetch | hintPin | hintUnpin
  | hintEvict | ckptCommit | xferCopy | xferMove | xferFill | xferReduce | xferAtom | tableBuild
  | tableRetire | codecSet | kernelLoad | kernelRun | kernelAbort | sharePublish | shareSubscribe
  | shareUnsubscribe | shareWithdraw | qosClassSet | qosBudgetSet | svcTest | svcRetire | svcRemap
  | svcClearPoison | fwStage | fwActivate | cntConfig | cntSnapshot | spdmRelay => exact fraist_keeps rfl s
  | undefinedOpcode via opcode p => exact .ite (.next (State.submitUndefined_keeps ..)) (.fault ..)
  | replyRingWrite fn => exact .next ((State.releaseParked_keeps _).step (State.ringWrite_keeps ..))
  -- Requests and responses of a link
  | rd | rdOwn | wrRelease | atom | recallReceived => exact .next (State.linkRequest_keeps ..)
  | wr | acc | reservedRequest => exact .ite (.next (State.linkRequest_keeps ..)) (.fault ..)
  | reservedResponse port opcode r => exact .ite (.next (.ofFrame (State.reservedResponse_frame ..) rfl)) (.fault ..)
  | cplData port r data => exact .ite (.fault ..) (.next (State.cplData_keeps ..))
  | cplOk port r => exact .next (State.respond_keeps _ _ _ _ fun t => State.peerOk_keeps t _ _)
  | cplErr port r => exact .next (State.respond_keeps _ _ _ _ fun t => State.peerErr_keeps t _ _ _ _)
  | cplRetry port r => exact .next (State.respond_keeps _ _ _ _ fun t => State.peerRetry_keeps t _ _ _)
  -- Engines
  | endOp e => exact .next (State.issue_keeps _ _ _ _ State.opEnd_keeps)
  | loop e => exact .next (State.issue_keeps _ _ _ _ State.opLoop_keeps)
  | skip e => exact .next (State.issue_keeps _ _ _ _ State.opSkip_keeps)
  | li e => exact .next (State.issue_keeps _ _ _ _ State.opLi_keeps)
  | salu e => exact .next (State.issue_keeps _ _ _ _ State.opSalu_keeps)
  | arg e => exact .next (State.issue_keeps _ _ _ _ State.opArg_keeps)
  | wait e => exact .next (State.issue_keeps _ _ _ _ State.opWait_keeps)
  | vld e => exact .next (State.issue_keeps _ _ _ _ State.opVld_keeps)
  | vst e => exact .next (State.issue_keeps _ _ _ _ State.opVst_keeps)
  | valu e => exact .next (State.issue_keeps _ _ _ _ State.opValu_keeps)
  | vfma e => exact .next (State.issue_keeps _ _ _ _ State.opVfma_keeps)
  | vsfu e => exact .next (State.issue_keeps _ _ _ _ State.opVsfu_keeps)
  | vred e => exact .next (State.issue_keeps _ _ _ _ State.opVred_keeps)
  | vbcast e => exact .next (State.issue_keeps _ _ _ _ State.opVbcast_keeps)
  | vcvt e => exact .next (State.issue_keeps _ _ _ _ State.opVcvt_keeps)
  | mzero e => exact .next (State.issue_keeps _ _ _ _ State.opMzero_keeps)
  | mmac e => exact .next (State.issue_keeps _ _ _ _ State.opMmac_keeps)
  | mst e => exact .next (State.issue_keeps _ _ _ _ State.opMst_keeps)
  | fence e => exact .next (State.issue_keeps _ _ _ _ State.opFence_keeps)
  | sin e | sout e | sacc e | gather e | scatterAdd e =>
    exact .next (State.issue_keeps _ _ _ _ fun t i => State.opStream_keeps t i _)
  -- Ports
  | flitDataRx | flitIdleRx | flitCapsRx | flitRetryReqRx => exact State.flitRx_keeps ..
  | flitReservedRx => exact .ite (State.flitRx_keeps ..) (.fault ..)
  | flitTransmit port =>
    exact State.portEvent_keeps port.val fun _ => (State.releaseParked_keeps _).step (State.transmit_keeps ..)
  | capsResendTimer port => exact State.portEvent_keeps port.val fun _ => .ite (.ofFrame (State.sendCaps_frame ..) rfl) (.refl _)
  | retryTimeout port =>
    refine State.portEvent_keeps port.val fun p => .ite ?_ (.refl _)
    have failed : Keeps s (s.takeFree.2.failRetry port.val) :=
      (State.failRetry_keeps ..).step (.ofFrame (State.takeFree_frame s) rfl)
    exact .ite failed (.stepFrame (State.modPort_frame ..) rfl failed)
  | signalDetect port | trainTimeout port | capsTimeout port | lossOfSignal port | detectNoSignalTimeout port =>
    exact State.portEvent_keeps port.val fun _ => .ite (.ofFrame (State.modPort_frame ..) rfl) (.refl _)
  | trainLock port => exact State.portEvent_keeps port.val fun _ => .ite (.ofFrame (State.takeLanes_frame ..) rfl) (.refl _)
  | laneLockLoss port lanes =>
    have lost : Keeps s (s.modPort port.val fun p => { p with laneOk := p.laneOk &&& ~~~lanes }) :=
      .ofFrame (State.modPort_frame ..) rfl
    exact State.portEvent_keeps port.val fun _ => .ite (.stepFrame (State.recover_frame ..) rfl lost) (.ite lost (.refl _))
  | recoveryLock port =>
    refine State.portEvent_keeps port.val fun p => .ite ?_ (.refl _)
    exact .ite ((State.log_keeps ..).step (.ofFrame (State.takeLanes_frame ..) rfl)) (.ofFrame (State.takeLanes_frame ..) rfl)
  | recoveryTimeout port | lockLossHoldExpiry port =>
    exact State.portEvent_keeps port.val fun _ => .ite (State.loseLink_keeps ..) (.refl _)
  | lostCleanupComplete => exact .guard (.ofFrame (State.modPort_frame ..) rfl)
  | portEnable => exact .next (State.barWrite_keeps _ _ _ fun t => .ite (.ofFrame (State.enablePort_frame t _) rfl) (.refl _))
  | portDisable => exact .next (State.barWrite_keeps _ _ _ fun t => .ite (State.disablePort_keeps t _) (.refl _))
  | retrain => exact .next (State.barWrite_keeps _ _ _ fun t => .ite (.ofFrame (State.retrainPort_frame t _) rfl) (.refl _))
  -- Peer requests, transfers and tags
  | peerRequestSend xfer unit =>
    refine .next ?_
    split
    · exact .ite (State.peerSend_keeps ..) (.refl _)
    · exact .refl _
  | reqTimeout => exact .guard (State.peerTimeout_keeps ..)
  | retryReissue => exact .guard (.ofFrame (State.peerReissue_frame ..) rfl)
  | tagQuarantineExpiry =>
    refine .next ?_
    split
    · exact State.freeReq_keeps ..
    · exact .refl _
  | recallTimeout => exact .guard (State.recallExpired_keeps ..)
  | xferStart => exact .guard (State.startNext_keeps ..)
  | xferUnitComplete =>
    refine .next ?_
    split
    · exact .ite (.refl _) (.ite (State.unitStep_keeps ..) (.ite (State.finish_keeps ..) (.refl _)))
    · exact .refl _
  -- Memory dies and regulators
  | writeBufferDrain stack =>
    refine .next (.ite ?_ (.refl _))
    have next : Keeps s (s.nextDrain stack.val).2 := .ofFrame (State.nextDrain_frame ..) rfl
    dsimp only
    split
    · exact (State.drain_keeps ..).step next
    · exact .refl _
  | parityDelta => exact .guard (State.parityDelta_keeps ..)
  | atomicLineRelease => exact .next (.ofFrame (Frame.set_atoms ..) rfl)
  | commandAgeEscalation => exact .next (.ofFrame (Frame.set_wbuf ..) rfl)
  | regulatorWindowBoundary reg =>
    have window : Keeps s (s.windowBoundary reg.val) := State.windowBoundary_keeps ..
    exact .next (.ite (.ite ((State.cxlCredits_keeps ..).step window) window)
      (.ite (State.cxlCredits_keeps ..) (.refl _)))
  | spareSlotRelease reg hub =>
    have release : Keeps s (s.spareRelease reg.val hub.val) := State.spareRelease_keeps ..
    exact .next (.ite (.ite ((State.cxlCredits_keeps ..).step release) release) (.refl _))
  | budgetRebalance => exact .guard (.ofFrame (State.rebalance_frame ..) rfl)
  | holdLimitExpiry => exact .guard (State.holdExpired_keeps ..)
  -- The tier
  | fetchDispatch => exact .guard ((State.releaseResident_keeps ..).step (State.dispatchNext_keeps ..))
  | fetchComplete => exact .guard ((State.serveAll_keeps ..).step (State.fetchDone_keeps ..))
  | fetchFailed => exact .guard ((State.serveAll_keeps ..).step (State.fetchLost_keeps ..))
  | victimSelection => exact .guard ((State.retryInvalid_keeps ..).step (State.selectVictim_keeps ..))
  | writebackReadoutComplete => exact .guard ((State.serveAll_keeps ..).step (State.readOut_keeps ..))
  | writebackCommit => exact .guard (State.commitPage_keeps ..)
  | frameZeroing => exact .guard (State.zeroOne_keeps ..)
  -- Regions, contexts, tables, publications
  | regionFillComplete => exact .guard (State.filled_keeps ..)
  | ctxDrainComplete => exact .guard ((State.settle_keeps ..).step (State.freeCtx_keeps ..))
  | tablePublish => exact .guard (.ofFrame (State.publishTable_frame ..) rfl)
  | tableFree => exact .guard (.ofFrame (State.freeTable_frame ..) rfl)
  | tablePersist => exact .guard (.ofFrame (State.persistTable_frame ..) rfl)
  | hashStart => exact .guard (.ofFrame (State.startHash_frame ..) rfl)
  | publishHashComplete => exact .guard (State.hashed_keeps ..)
  -- Kernels
  | kernelDispatch => exact .guard (State.dispatchRun_keeps ..)
  | backfillLimitExpiry =>
    refine .next ?_
    split
    · exact .ite (.ofFrame (State.modRun_frame ..) rfl) (.refl _)
    · exact .refl _
  | streamComplete =>
    refine .next ?_
    split
    · exact .ite (.refl _) (.ite (State.streamStep_keeps ..) (.ite (State.builtinStep_keeps ..) (.refl _)))
    · exact .refl _
  | engineFailure => exact .guard (State.engineFails_keeps ..)
  -- HBM
  | refresh | tempSensorRead => exact .guard (.ofFrame (State.modStack_frame ..) rfl)
  | scrubRowRead => exact execScrubRowRead_keeps ..
  | scrubLate => exact .guard ((State.log_keeps ..).step (.ofFrame (State.modStack_frame ..) rfl))
  | ceReport =>
    refine .guard ((State.coreReport_keeps ..).step ?_)
    exact .ite (.refl _) ((State.meet_keeps ..).step (State.damage_keeps ..))
  | caParityError => exact .guard (State.freezePc_keeps ..)
  | writeCrcError stack pc =>
    have retired : Keeps s (s.retirePc stack.val pc.val false) := State.retirePc_keeps ..
    refine .next (.ite ?_ (.ite (State.freezePc_keeps ..) (.refl _)))
    exact .ite ((State.stackDone_keeps ..).step retired) (.ite ((State.pcDone_keeps ..).step retired) retired)
  | freezeLimitExpiry => exact .guard (State.retirePc_keeps ..)
  | pcLoopbackResult => exact .guard (State.loopback_keeps ..)
  | rebuildComplete =>
    exact .next (.ite (.refl _) (.ite (State.pcDone_keeps ..) (.ite (State.stackDone_keeps ..)
      (.ite (State.retireDone_keeps ..) (.refl _)))))
  | stackFailure => exact .guard (State.retireStack_keeps ..)
  | memoryDieFailure => exact .guard (State.retireDie_keeps ..)
  | svcTestComplete => exact .guard (State.testDone_keeps ..)
  -- Flash
  | flushCyclesExpiry => exact .guard ((State.serve_keeps ..).step (.ofFrame (State.flushOpen_frame ..) rfl))
  | programComplete =>
    exact .guard ((State.serveAll_keeps ..).step ((State.programDone_keeps ..).step (State.serve_keeps ..)))
  | programFailure =>
    exact .guard ((State.serveAll_keeps ..).step (.stepFrame (State.programFail_frame ..) rfl (State.serve_keeps ..)))
  | flashRelocation =>
    have asked : ∀ d k b, Keeps s ((s.askReloc d k b).serve d) := fun d k b =>
      (State.serve_keeps ..).step (.ofFrame (State.askReloc_frame ..) rfl)
    exact .next (.ite (.ite (asked ..) (.ite (asked ..) (.refl _))) (.refl _))
  | patrolRead => exact .guard ((State.serve_keeps ..).step (.ofFrame (State.askReloc_frame ..) rfl))
  | eraseComplete | eraseFailure => exact .guard ((State.serve_keeps ..).step (State.eraseDone_keeps ..))
  | flashDieLost => exact .guard ((State.serveAll_keeps ..).step (State.loseFlashDie_keeps ..))
  | flsDieLost => exact .guard ((State.serveAll_keeps ..).step (State.loseFls_keeps ..))
  -- Supply, power and boot
  | supplyHigh =>
    exact State.onSupply_keeps fun t => .ite (.refl _) ((State.pmcErr_keeps ..).step (.ofFrame (State.modPmc_frame t _) rfl))
  | supplyHighExit => exact State.onSupply_keeps fun t => .ofFrame (State.modPmc_frame t _) rfl
  | supplyOvervoltage =>
    exact State.onSupply_keeps fun t => (State.powerOff_keeps ..).step (.ofFrame (State.modPmc_frame t _) rfl)
  | supplySag => exact State.onSupply_keeps fun t => State.enterSag_keeps t
  | supplyHoldup => exact State.onSupply_keeps fun t => State.enterHoldup_keeps t
  | supplyUndervoltage =>
    have low : Keeps s (s.modPmc fun p => { p with supplyOk := false }) := .ofFrame (State.modPmc_frame ..) rfl
    exact .next (.ite (.refl _) (.ite ((State.powerOff_keeps ..).step low) (.ite ((State.afterReset_keeps ..).step low)
      (.stepFrame (State.modPmc_frame ..) rfl low))))
  | supplyRecovery =>
    exact .guard ((State.recoverSupply_keeps ..).step (.ite (.ofFrame (State.modPmc_frame ..) rfl) (.refl _)))
  | journalFlush => exact .next (.ofFrame (State.beginFlush_frame ..) rfl)
  | journalFlushComplete => exact .guard (State.endFlush_keeps ..)
  | flushDomainPowerLoss => exact .next (State.loseFlush_keeps ..)
  | powerEvaluation => exact .guard (State.evaluate_keeps ..)
  | fastLimit => exact .guard (State.fastLimit_keeps ..)
  | safeCapRelease => exact .guard ((State.rederate_keeps ..).step (.ofFrame (State.modPmc_frame ..) rfl))
  | thermalTrip => exact .guard ((State.powerOff_keeps ..).step (.ofFrame (State.modPmc_frame ..) rfl))
  | railsGood =>
    refine .next (.ite ?_ (.refl _))
    exact .ite (.ofFrame (State.modPmc_frame ..) rfl) (.stepFrame (State.startBoot_frame ..) rfl (.ofFrame (State.modPmc_frame ..) rfl))
  | perstNRelease =>
    refine .next (.ite (.refl _) ?_)
    have released : Keeps s (s.modPmc fun p => { p with perst := false }) := .ofFrame (State.modPmc_frame ..) rfl
    have boots : ∀ {t : State} {c : Prop} [Decidable c], Keeps s t → Keeps s (if c then t.startBoot else t) :=
      fun h => .ite (.stepFrame (State.startBoot_frame ..) rfl h) h
    exact boots (.ite (.stepFrame (State.modHep_frame ..) rfl (.stepFrame (State.modPmc_frame ..) rfl released)) released)
  | perstNAssert => exact .next (State.assertReset_keeps ..)
  | configSpaceReady =>
    refine .guard (.stepFrame (State.modHep_frame ..) rfl (.stepFrame (State.takeFree_frame ..) rfl (.ofFrame (State.takeFree_frame s) rfl)))
  | bootStageEnd => exact .next (State.stageEnd_keeps ..)
  | linkTrainingStageEnd => exact .guard (.ite (.ofFrame (State.modPmc_frame ..) rfl) (.ofFrame (State.bootReady_frame ..) rfl))
  -- Firmware
  | fuseBlow | fuseBlowComplete => exact .guard (.ofFrame (State.modFw_frame ..) rfl)
  | heartbeatTimeout => exact .guard (State.heartbeat_keeps ..)
  | procRestartComplete => exact .guard (State.restarted_keeps ..)
  | hullMonitorTimeout | fatalCondition => exact .guard (State.goFatal_keeps ..)
  | activateVerifyComplete => exact .guard (State.verified_keeps ..)
  | activateQuiesced => exact .guard (State.beginSwitch_keeps ..)
  | activateWaitExpiry | quiesceLimitExpiry =>
    exact .guard ((State.fwAbandon_keeps ..).step (.ofFrame (State.modFw_frame ..) rfl))
  | activateSwitchComplete => exact .guard (State.switched_keeps ..)
  -- Attestation and sideband
  | getVersion | getCapabilities | negotiateAlgorithms | getDigests | getCertificate | challenge | getMeasurements | respondIfReady
  | spdmUnsupportedRequest => exact .next (.ofFrame (State.spdmRow_frame ..) rfl)
  | doeDiscovery => exact .guard (.ofFrame (State.emit_frame ..) rfl)
  | cxlTableAccess =>
    refine .next (.ite ?_ (.refl _))
    split
    · exact .ofFrame (State.emit_frame ..) rfl
    · exact .refl _
  | setEndpointId =>
    refine .ite (.next (.refl _)) (.ite (State.side_keeps ..) ?_)
    exact .next (.ite (.stepFrame (State.emit_frame ..) rfl (.ofFrame (State.modPmc_frame ..) rfl)) (.ofFrame (State.modPmc_frame ..) rfl))
  | getEndpointId | getMctpVersionSupport | getMessageTypeSupport => exact State.side_keeps ..
  | getIdent | getTemps | getPower | getFru | getBoot | getFatal => exact State.vendor_keeps ..
  | vendorUnsupportedCommand => exact .ite (State.vendor_keeps ..) (.next (.refl _))
  | alertResponse => exact .ite (State.side_keeps ..) (.next (.refl _))
  | mctpOtherType => exact .next (.refl _)
  -- Functions and configuration space
  | vfFlr => exact .next (.ite (.refl _) (State.cfgAccess_keeps _ _ _ fun t => State.flrFn_keeps t _))
  | pfFlr => exact .next (State.cfgAccess_keeps _ _ _ fun t => State.flrPf_keeps t)
  | flrComplete => exact .guard (State.modFn_keeps _ _ _ fun _ => rfl)
  | vfEnableClear => exact .next (State.cfgAccess_keeps _ _ _ fun t => .ite (State.flrVfs_keeps t) (.refl _))
  | hotReset =>
    exact .guard ((State.powerState_keeps ..).step ((State.configDefaults_keeps ..).step (State.flrPf_keeps ..)))
  | bmeClear => exact .next (State.cfgAccess_keeps _ _ _ fun t => State.clearBme_keeps t _)
  | bmeSet => exact .next (State.cfgAccess_keeps _ _ _ fun t => State.setBme_keeps t _)
  | memorySpaceDisable => exact .next (State.cfgAccess_keeps _ _ _ fun t => State.modFn_keeps t _ _ fun _ => rfl)
  | d3hotEntry | d3hotExit => exact .next (State.cfgAccess_keeps _ _ _ fun t => State.powerState_keeps t _)
  | pmeTurnOff => exact .guard (.stepFrame (State.emit_frame ..) rfl (.ofFrame (State.modHep_frame ..) rfl))
  | pmeEvent => exact .guard (.ofFrame (State.pme_frame ..) rfl)
  | attnButtonPress => exact .guard (State.press_keeps ..)
  -- Host reads
  | hostCompletion =>
    exact .next (.ite (.refl _) (.ite ((State.count_keeps ..).step (.ofFrame (State.modHep_frame ..) rfl))
      (State.completed_keeps ..)))
  | completionTimeout =>
    refine .next ?_
    split
    · exact .ite ((State.hostGo_keeps ..).step ((State.readFailed_keeps ..).step ((State.aerUnc_keeps ..).step
        (State.modFn_keeps _ _ _ fun _ => rfl)))) (.refl _)
    · exact .refl _
  | hostTagQuarantineExpiry =>
    refine .next ?_
    split
    · exact .ite ((State.hostGo_keeps ..).step (State.modFn_keeps _ _ _ fun _ => rfl)) (.refl _)
    · exact .refl _
  -- CXL.mem
  | memRd | memInv | memWr | memWrPoison | memWrPtl => exact .next (State.cxlRequest_keeps ..)
  | memSpecRd => exact .next (.refl _)
  | cxlOtherOpcode => exact .next (State.cxlSimple_keeps _ _ fun t => .ofFrame (State.cxlError_frame t) rfl)
  -- Registers, commits and counters
  | hepHwinCommit => exact .next (State.barWrite_keeps _ _ _ fun t => .ite (.ofFrame (State.commitHwin_frame t) rfl) (.refl _))
  | hepRplCommit => exact .next (State.barWrite_keeps _ _ _ fun t => .ite (State.modFn_keeps t _ _ fun g => g.ring.commit_held) (.refl _))
  | qosCommit => exact .next (State.barWrite_keeps _ _ _ fun t => .ite (State.commitQos_keeps t) (.refl _))
  | gnmCommit => exact .next (State.barWrite_keeps _ _ _ fun t => .ite (.ofFrame (State.commitGnm_frame t _) rfl) (.refl _))
  | flsCommit => exact .next (State.barWrite_keeps _ _ _ fun t => .ite (.ofFrame (State.commitFls_frame t _) rfl) (.refl _))
  | registerWrite => exact .next (.ite (State.writeBar_keeps ..) (State.configWrite_keeps ..))
  | counterOverflow => exact .guard ((State.overflow_keeps ..).step (.ofFrame (State.modCnt_frame ..) rfl))
  | periodicSnapshot => exact .guard (State.periodic_keeps ..)
  | apertureSlotWrite =>
    exact .ite (.fault ..) (.next (State.barWrite_keeps _ _ _ fun t => .ite (State.apertureBytes_keeps ..) (.refl _)))


/-- Settles O4: what the command at the front of the queue keeps, started with the queue's rest. -/
theorem stepKeepsMemory : Obligations.StepKeepsMemory := by
  unfold Obligations.StepKeepsMemory
  intro s t hm h
  unfold step at h
  split at h
  · injection h with h
    exact h ▸ hm
  · next c rest _ => exact ((exec_keeps c { s with pending := rest }).keeps t h).mem hm

end Sys2Proof.Machine
end

section
/-!
The start of a command from what it has checked, and a device choice that finds something.
-/

namespace Sys2Proof.Machine

open Sys2Proof

/-! ## Started commands (R54, R61) -/

/-- The command of a packet runs on the state in which it starts. -/
theorem exec_begun {i : Instr} {spec : CmdSpec} {via : Via} {p : Packet} {s u : State} {c : Cmd} (hf : fraistOf i = some (spec, via, p))
    (h : s.begun spec via p = some (u, c)) : exec i s = .next (spec.start u c) :=
  (exec_of_fraistOf hf s).2.trans (congrArg _ (State.submit_begun h))

/-- A started command holds its packet. -/
theorem Begun.packet {s u : State} {spec : CmdSpec} {via : Via} {p : Packet} {c : Cmd} (h : Begun s u spec via p c) : c.p = p := by
  rw [h.cmd]

/-- The answer, in any context field, of a command that has started, from any state with the ports of its start. -/
theorem Begun.answeredAs {s u : State} {spec : CmdSpec} {via : Via} {p : Packet} {c : Cmd} (h : Begun s u spec via p c) {v : State}
    (hv : v.ports = u.ports) (context : BitVec 16) (status result detail : Nat) :
    Answered v (v.replyAs c context status result detail) c context status result detail := by
  refine State.replyAs_answered v c context status result detail (by rw [h.cmd]) fun port ctx tag hl => ?_
  have hvia : c.via = via := by rw [h.cmd]
  have hport : v.port port.val = u.port port.val := by rw [State.port, hv]; rfl
  rw [hport]
  exact h.live port ctx tag (hvia ▸ hl)

/-! ## Device choices (log 1) -/

theorem lowest_of_exists {p : Nat → Bool} {m : Nat} (hp : p m = true) : ∀ n fuel, n ≤ m → m < n + fuel → ∃ k, lowest p n fuel = some k ∧ p k = true
  | n, 0, hle, hlt => by omega
  | n, fuel + 1, hle, hlt => by
    unfold lowest
    by_cases hn : p n = true
    · exact ⟨n, by rw [if_pos hn], hn⟩
    · rw [if_neg hn]
      have hne : n ≠ m := fun h => hn (h ▸ hp)
      exact lowest_of_exists hp (n + 1) fuel (by omega) (by omega)

/-- A choice among numbers one of which is admitted picks an admitted one. -/
theorem State.pick_of_exists (s : State) {bound fuel m : Nat} {ok : Nat → Bool} (hm : m < bound) (hf : m < fuel) (hok : ok m = true) :
    ∃ n, s.pick bound fuel ok = (some n, s.takeFree.2) ∧ n < bound ∧ ok n = true := by
  have hadmits : (decide (m < bound) && ok m) = true := by simp [hm, hok]
  unfold State.pick
  dsimp only
  split
  · next h =>
    obtain ⟨hlt, hn⟩ := (Bool.and_eq_true ..).mp h
    exact ⟨_, rfl, of_decide_eq_true hlt, hn⟩
  · obtain ⟨k, hk, hadm⟩ := lowest_of_exists (p := fun n => decide (n < bound) && ok n) hadmits 0 fuel (Nat.zero_le m) (by omega)
    obtain ⟨hlt, hn⟩ := (Bool.and_eq_true ..).mp hadm
    exact ⟨k, by rw [hk], of_decide_eq_true hlt, hn⟩

end Sys2Proof.Machine
end

section
/-!
Contexts (R26-R38): creation, port bindings and windows.
-/

namespace Sys2Proof.Machine

open Sys2Proof

/-! ## CTX_CREATE (R29, R32, R33) -/

/-- The state in which a number holds a context and its key slot the context's key. -/
def State.withContext (s : State) (n : Nat) (x : Ctx) : State := (s.modCtx n fun _ => x).loadKey n x.key

theorem State.withContext_ctx (s : State) (n : Nat) (x : Ctx) (m : Nat) : (s.withContext n x).ctx m = if m = n then x else s.ctx m :=
  State.ctx_modCtx s n m fun _ => x

theorem State.withContext_keys (s : State) (n : Nat) (x : Ctx) (k : Nat) :
    tget 0 (s.withContext n x).keys k = if k = n then x.key else tget 0 s.keys k := tget_tput ..

theorem State.withContext_frame (s : State) (n : Nat) (x : Ctx) : Frame [.ctxs, .keys] s (s.withContext n x) :=
  (State.loadKey_frame ..).step rfl ((State.modCtx_frame ..).mono rfl)

/-- A number of 1 to 4,095 whose context is FREE is picked where there is one. -/
theorem State.pick_context {s : State} (h : ∃ n, 1 ≤ n ∧ n < 4096 ∧ (s.ctx n).st = .free) :
    ∃ n, s.pick 4096 4097 (fun n => n != 0 && (s.ctx n).st == .free) = (some n, s.takeFree.2) ∧ 1 ≤ n ∧ n < 4096 ∧ (s.ctx n).st = .free := by
  obtain ⟨m, h1, hlt, hfree⟩ := h
  obtain ⟨n, hn, hlt, hok⟩ := s.pick_of_exists (fuel := 4097) (ok := fun n => n != 0 && (s.ctx n).st == .free) hlt (by omega)
    (by simp [hfree]; omega)
  simp only [Bool.and_eq_true, bne_iff_ne, beq_iff_eq] at hok
  exact ⟨n, hn, by omega, hlt, hok.2⟩

/-- A new context takes a FREE number, which its reply names. -/
theorem State.newContext_eq {s : State} (c : Cmd) (x : Ctx) (h : ∃ n, 1 ≤ n ∧ n < 4096 ∧ (s.ctx n).st = .free) :
    ∃ n, 1 ≤ n ∧ n < 4096 ∧ (s.ctx n).st = .free ∧
      s.newContext c x = (s.takeFree.2.withContext n x).replyAs c (BitVec.ofNat 16 n) 0 x.sealId 0 := by
  obtain ⟨n, hn, h1, hlt, hfree⟩ := State.pick_context h
  refine ⟨n, h1, hlt, hfree, ?_⟩
  rw [State.newContext, hn]
  rfl

/-- A new context after the choices that come before it: what its answer says, and what holds with it. -/
theorem Begun.newContext {s u v : State} {spec : CmdSpec} {via : Via} {p : Packet} {c : Cmd} (hb : Begun s u spec via p c)
    (hv : Frame [.fresh, .nextKey] u v) (hk : v.nextKey = u.nextKey + 1) (x : Ctx) (h : ∃ n, 1 ≤ n ∧ n < 4096 ∧ (u.ctx n).st = .free) :
    ∃ w n, 1 ≤ n ∧ n < 4096 ∧ (u.ctx n).st = .free ∧ Answered w (v.newContext c x) c (BitVec.ofNat 16 n) 0 x.sealId 0 ∧
      w.nextKey = u.nextKey + 1 ∧ (∀ m, w.ctx m = if m = n then x else u.ctx m) ∧
      (∀ k, tget 0 w.keys k = if k = n then x.key else tget 0 u.keys k) ∧ Frame [.fresh, .nextKey, .ctxs, .keys] u w := by
  simp only [← hv.ctx rfl] at h
  obtain ⟨n, h1, hlt, hst, hnew⟩ := State.newContext_eq c x h
  have hframe := (State.withContext_frame v.takeFree.2 n x).step (l := [.fresh, .nextKey, .ctxs, .keys]) rfl
    ((State.takeFree_frame v).step rfl (hv.mono rfl))
  refine ⟨v.takeFree.2.withContext n x, n, h1, hlt, hv.ctx rfl n ▸ hst, hnew ▸ hb.answeredAs (hframe.same .ports rfl) .., hk, fun m => ?_,
    fun k => ?_, hframe⟩
  · rw [State.withContext_ctx, (State.takeFree_frame v).ctx rfl, hv.ctx rfl]
  · rw [State.withContext_keys, (State.takeFree_frame v).same .keys rfl, hv.same .keys rfl]

/-- A seal ID is found, or none is free: either way one free value is used. -/
theorem State.pickSeal_state (s : State) : s.pickSeal.2 = s.takeFree.2 := rfl

/-- The regions of a sealed image, given to a context. -/
def State.unsealTo (s : State) (n : Nat) (regions : List Nat) : State :=
  s.each regions fun s i => s.modRegion i fun r => { r with ctx := n, sealedBy := 0 }

theorem State.modRegion_region (s : State) (i j : Nat) (f : Region → Region) :
    (s.modRegion i f).region? j = if j = i then (s.region? j).map f else s.region? j := by
  unfold State.modRegion
  split
  · next r hr =>
    split
    · next h => rw [h, State.region?_setRegion, hr]; rfl
    · next h => exact State.region?_setRegion_ne _ _ _ _ h
  · next hr =>
    split
    · next h => rw [h, hr]; rfl
    · rfl

theorem State.unsealTo_frame (s : State) (n : Nat) (regions : List Nat) : Frame [.regions] s (s.unsealTo n regions) :=
  Frame.each _ _ (fun _ _ => State.modRegion_frame ..) s

/-- A region that has been given to a context is its own still after others were. -/
theorem State.unsealTo_keeps_owner (n : Nat) (regions : List Nat) (i : Nat) (s : State) (h : ∀ r, s.region? i = some r → r.ctx = n ∧ r.sealedBy = 0) :
    ∀ r, (s.unsealTo n regions).region? i = some r → r.ctx = n ∧ r.sealedBy = 0 := by
  unfold State.unsealTo State.each
  induction regions generalizing s with
  | nil => exact h
  | cons j regions ih =>
    refine ih _ fun r hr => ?_
    rw [State.modRegion_region] at hr
    split at hr
    · obtain ⟨q, -, rfl⟩ := Option.map_eq_some_iff.mp hr
      exact ⟨rfl, rfl⟩
    · exact h r hr

/-- Each region of the image is the context's. -/
theorem State.unsealTo_owner (s : State) (n : Nat) {regions : List Nat} {i : Nat} (hi : i ∈ regions) :
    ∀ r, (s.unsealTo n regions).region? i = some r → r.ctx = n ∧ r.sealedBy = 0 := by
  induction regions generalizing s with
  | nil => simp at hi
  | cons j regions ih =>
    rcases List.mem_cons.mp hi with rfl | hi
    · refine State.unsealTo_keeps_owner n regions i _ fun r hr => ?_
      rw [State.modRegion_region, if_pos rfl] at hr
      obtain ⟨q, -, rfl⟩ := Option.map_eq_some_iff.mp hr
      exact ⟨rfl, rfl⟩
    · exact ih _ hi

/-- DURABLE and RESTORE are bits 0 and 1 of the flags. -/
theorem bit_of_mod_four {n k : Nat} (hk : k < 2) : bit n k = bit (n % 4) k := by
  unfold bit
  rw [show 4 = 2 ^ 2 from rfl, Nat.testBit_mod_two_pow]
  simp [hk]

/-- A new context that is not durable. -/
theorem startCtxCreate_new {u : State} {c : Cmd} (hflags : par c.p 8 1 % 4 = 0) (hid : par c.p 12 4 = 0)
    (hquota : u.ctxsUsed c.fn < (u.fn c.fn).maxCtx) : startCtxCreate u c = u.takeKey.2.newContext c
      { st := .active, owner := c.fn, key := u.nextKey, nack := decide (par c.p 9 1 = 1) } := by
  have hd : bit (par c.p 8 1) 0 = false := by rw [bit_of_mod_four (by decide), hflags]; rfl
  have hr : bit (par c.p 8 1) 1 = false := by rw [bit_of_mod_four (by decide), hflags]; rfl
  have hroom : ¬ (u.fn c.fn).maxCtx < u.ctxsUsed c.fn + 1 := by omega
  simp [startCtxCreate, hd, hr, hid, hroom]

/-- A new durable context: it takes a seal ID. -/
theorem startCtxCreate_durable {u : State} {c : Cmd} (hflags : par c.p 8 1 % 4 = 1) (hid : par c.p 12 4 = 0) (hfn : c.fn = 0)
    (hv : u.variantH = false) (hd : u.durables < 64) (hquota : u.ctxsUsed 0 < (u.fn 0).maxCtx) :
    startCtxCreate u c = u.takeKey.2.takeFree.2.newContext c { st := .active, key := u.nextKey, nack := decide (par c.p 9 1 = 1)
                                                               durable := true, sealId := u.takeKey.2.pickSeal.1 } := by
  have hdur : bit (par c.p 8 1) 0 = true := by rw [bit_of_mod_four (by decide), hflags]; rfl
  have hr : bit (par c.p 8 1) 1 = false := by rw [bit_of_mod_four (by decide), hflags]; rfl
  have hroom : ¬ (u.fn 0).maxCtx < u.ctxsUsed 0 + 1 := by omega
  have hseals : ¬ 64 ≤ u.durables := by omega
  simp [startCtxCreate, hdur, hr, hid, hroom, hfn, hv, hseals, State.pickSeal_state]

/-- A sealed context that comes back. -/
theorem startCtxCreate_restore {u : State} {c : Cmd} {g : SealedImg} {n : Nat} (hflags : par c.p 8 1 % 4 = 3) (hid : par c.p 12 4 ≠ 0)
    (hfn : c.fn = 0) (hv : u.variantH = false) (hg : tfind? u.sealed (par c.p 12 4) = some g)
    (hn : u.pick 4096 4097 (fun n => n != 0 && (u.ctx n).st == .free) = (some n, u.takeFree.2)) :
    startCtxCreate u c = ((({ u.takeFree.2 with sealed := tdel u.sealed (par c.p 12 4) } : State).unsealTo n g.regions).withContext n
      { st := .active, key := g.key, gen := g.gen, nack := decide (par c.p 9 1 = 1), durable := true, sealId := par c.p 12 4 }).replyAs c
        (BitVec.ofNat 16 n) 0 (par c.p 12 4) 0 := by
  have hdur : bit (par c.p 8 1) 0 = true := by rw [bit_of_mod_four (by decide), hflags]; rfl
  have hr : bit (par c.p 8 1) 1 = true := by rw [bit_of_mod_four (by decide), hflags]; rfl
  simp only [startCtxCreate, hdur, hr, hid, hfn, hv, hg, hn]
  rfl

/-- Settles O14: the three forms of CTX_CREATE, each a context put into a picked number. -/
theorem contextCreated : Obligations.ContextCreated := by
  unfold Obligations.ContextCreated
  intro via p s u c h hfree
  have hb := State.begun_facts h
  have hp := hb.packet
  have hexec : exec (.ctxCreate via p) s = .next (startCtxCreate u c) := exec_begun rfl h
  subst hp
  refine ⟨fun hflags hid hquota => ?new, fun hflags hid hfn hv hd hquota => ?durable, fun g hflags hid hfn hv hg => ?restore⟩
  case new =>
    obtain ⟨v, n, hnew⟩ := hb.newContext ((State.takeKey_frame u).mono rfl) rfl
      { st := .active, owner := c.fn, key := u.nextKey, nack := decide (par c.p 9 1 = 1) } hfree
    rw [← startCtxCreate_new hflags hid hquota] at hnew
    exact ⟨_, v, n, hexec, hnew⟩
  case durable =>
    obtain ⟨v, n, hnew⟩ := hb.newContext ((State.takeFree_frame ..).step rfl ((State.takeKey_frame u).mono rfl)) rfl
      { st := .active, key := u.nextKey, nack := decide (par c.p 9 1 = 1), durable := true, sealId := u.takeKey.2.pickSeal.1 } hfree
    rw [← startCtxCreate_durable hflags hid hfn hv hd hquota] at hnew
    exact ⟨_, v, n, _, hexec, hnew⟩
  case restore =>
    obtain ⟨n, hn, h1, hlt, hst⟩ := State.pick_context hfree
    have hsealed := (State.takeFree_frame u).mono (m := [.fresh, .sealed]) rfl |>.trans
      ((Frame.set_sealed u.takeFree.2 (tdel u.sealed (par c.p 12 4))).mono rfl)
    have hunseal := State.unsealTo_frame { u.takeFree.2 with sealed := tdel u.sealed (par c.p 12 4) } n g.regions
    have hframe := (State.withContext_frame _ n { st := .active, key := g.key, gen := g.gen, nack := decide (par c.p 9 1 = 1)
                                                  durable := true, sealId := par c.p 12 4 }).step
      (l := [.fresh, .sealed, .ctxs, .regions, .keys]) rfl (hunseal.step rfl (hsealed.mono rfl))
    refine ⟨_, _, n, hexec.trans (congrArg _ (startCtxCreate_restore hflags hid hfn hv hg hn)), h1, hlt, hst,
      hb.answeredAs (hframe.same .ports rfl) .., hunseal.same .sealed rfl, fun m => ?_, fun i r hi hr => ?_, fun k => ?_, hframe⟩
    · rw [State.withContext_ctx, hunseal.ctx rfl]
      rfl
    · exact State.unsealTo_owner _ n hi r hr
    · rw [State.withContext_keys, hunseal.same .keys rfl]
      rfl

/-! ## CTX_BIND_PORT (R34) -/

/-- The state in which a context's bindings have been changed by a CTX_BIND_PORT's packet. -/
def State.withBindings (s : State) (p : Packet) : State := s.modCtx (pCtx p) fun x =>
  { x with bind := if par p 10 1 = 1 then x.bind &&& ~~~BitVec.ofNat 16 (par p 8 2) else x.bind ||| BitVec.ofNat 16 (par p 8 2) }

theorem startCtxBindPort_eq (u : State) (c : Cmd) : startCtxBindPort u c = (u.withBindings c.p).reply c 0 := rfl

/-! ## WIN_SET (R36, R37) -/

/-- The state in which an entry of a context's window table holds a window. -/
def State.withWindow (s : State) (n w : Nat) (v : Window) : State := s.modCtx n fun x => { x with windows := tput {} x.windows w v }

theorem State.withWindow_windows (s : State) (n w : Nat) (v : Window) (m k : Nat) :
    tget {} ((s.withWindow n w v).ctx m).windows k = if m = n ∧ k = w then v else tget {} (s.ctx m).windows k := by
  unfold State.withWindow
  rw [State.ctx_modCtx]
  by_cases hm : m = n
  · simp only [hm, if_true, true_and]
    exact tget_tput ..
  · simp [hm]

theorem State.withWindow_ctx (s : State) (n w : Nat) (v : Window) (m : Nat) :
    (s.withWindow n w v).ctx m = { s.ctx m with windows := ((s.withWindow n w v).ctx m).windows } := by
  unfold State.withWindow
  rw [State.ctx_modCtx]
  split
  · next h => rw [h]
  · rfl

theorem State.withWindow_frame (s : State) (n w : Nat) (v : Window) : Frame [.ctxs] s (s.withWindow n w v) := State.modCtx_frame ..

theorem startWinSet_clear {u : State} {c : Cmd} (h : bit (par c.p 9 1) 0 = false) :
    startWinSet u c = (u.withWindow (pCtx c.p) (par c.p 8 1) {}).reply c 0 := by
  simp only [startWinSet, h]
  rfl

/-- The window that a WIN_SET with VALID maps onto a region. -/
def winMapped (p : Packet) (i : Nat) (r : Region) (sub : Option Nat) : Window :=
  { valid := true, rd := bit (par p 9 1) 1, wr := bit (par p 9 1) 2, atom := bit (par p 9 1) 3, own := bit (par p 9 1) 4
    krn := bit (par p 9 1) 5, laPage := par p 24 5, pages := par p 20 4, zaPage := r.zaPage + par p 16 4
    keySlot := if r.keySlot = 0 then pCtx p else r.keySlot, gen := r.gen, region := i, sub }

theorem startWinSet_map {u : State} {c : Cmd} {i : Nat} {r : Region} {sub : Option Nat} (h : bit (par c.p 9 1) 0 = true)
    (ht : u.winTarget (par c.p 12 4) (pCtx c.p) = .ok (i, r, sub))
    (hr : u.winRange (pCtx c.p) (par c.p 8 1) r (par c.p 16 4) (par c.p 20 4) (par c.p 24 5) = none)
    (hp : bits (par c.p 9 1) 5 1 &&& permsAllowed r sub.isSome = bits (par c.p 9 1) 5 1) :
    startWinSet u c = (u.withWindow (pCtx c.p) (par c.p 8 1) (winMapped c.p i r sub)).reply c 0 := by
  simp only [startWinSet, h, ht, hr, hp, Bool.not_true, Bool.false_eq_true, if_false, ne_eq, not_true_eq_false]
  rfl

/-- Settles O16: each command is one change of the named context, and the answer. -/
theorem bindingsAndWindows : Obligations.BindingsAndWindows := by
  unfold Obligations.BindingsAndWindows
  refine ⟨fun via p s u c h => ?bind, fun via p s u c h => ?window⟩
  case bind =>
    have hb := State.begun_facts h
    have hp := hb.packet
    subst hp
    have hexec : exec (.ctxBindPort via c.p) s = .next (startCtxBindPort u c) := exec_begun rfl h
    refine ⟨_, u.withBindings c.p, hexec.trans (congrArg _ (startCtxBindPort_eq u c)), hb.answered (u.withBindings c.p) rfl .., fun m => ?_, State.modCtx_frame ..⟩
    rw [State.withBindings, State.ctx_modCtx]
    split
    · next hm => rw [hm]
    · rfl
  case window =>
    have hb := State.begun_facts h
    have hp := hb.packet
    subst hp
    have hexec : exec (.winSet via c.p) s = .next (startWinSet u c) := exec_begun rfl h
    have written : ∀ w v, startWinSet u c = (u.withWindow (pCtx c.p) w v).reply c 0 → ∃ t x, exec (.winSet via c.p) s = .next t ∧
        Answered x t c c.p.context 0 0 0 ∧
        (∀ m k, tget {} (x.ctx m).windows k = if m = pCtx c.p ∧ k = w then v else tget {} (u.ctx m).windows k) ∧
        (∀ m, x.ctx m = { u.ctx m with windows := (x.ctx m).windows }) ∧ Frame [.ctxs] u x := fun w v hstart =>
      ⟨_, u.withWindow (pCtx c.p) w v, hexec.trans (congrArg _ hstart), hb.answered (u.withWindow (pCtx c.p) w v) rfl ..,
        u.withWindow_windows _ w v, u.withWindow_ctx _ w v, State.withWindow_frame ..⟩
    exact ⟨fun hvalid => written _ _ (startWinSet_clear hvalid),
      fun i r sub hvalid ht hr hperms => written _ _ (startWinSet_map hvalid ht hr hperms)⟩

end Sys2Proof.Machine
end

section
/-!
Held requests and regions that change their route, where there are none; and REGION_ATTR (R44, R73).
-/

namespace Sys2Proof.Machine

open Sys2Proof

/-! ## Nothing held (R44, R109, R112, R133) -/

theorem State.rerouted_nil {s : State} (h : s.held = []) (p : Req → Bool) : s.rerouted p = s := by
  unfold State.rerouted State.each
  rw [h]
  simp only [List.filter_nil, List.foldl_nil]
  rw [← h]

theorem State.settleHeld_nil {s : State} (h : s.held = []) (fuel : Nat) : s.settleHeld fuel = s := by
  cases fuel with
  | zero => rfl
  | succ fuel => simp [State.settleHeld, h]

theorem State.movers_nil {s : State} (h : s.still) : s.regions.filter (fun e => e.2.moving.isSome) = [] := by
  rw [List.filter_eq_nil_iff]
  intro e he
  simp [h e he]

/-- With nothing held and no region on the move, there is nothing to settle. -/
theorem State.settle_still {s : State} (h : s.held = []) (hs : s.still) : s.settle = s := by
  rw [State.settle, State.settleHeld_nil h, State.movers_nil hs]
  rfl

theorem State.retryInvalid_still {s : State} (h : s.held = []) (hs : s.still) (d : Nat) : s.retryInvalid d = s := by
  rw [State.retryInvalid, State.rerouted_nil h, State.settle_still h hs]

theorem State.pageReady_still {s : State} (h : s.held = []) (hs : s.still) (page : Nat) : s.pageReady page = s := by
  rw [State.pageReady, State.rerouted_nil h, State.settle_still h hs]

/-! ## The regions of a handle (R39) -/

/-- A handle that a command's own region answers names that region, which is live. -/
theorem State.ownRegion_ok {s : State} {h c i : Nat} {r : Region} (ho : s.ownRegion h c = .ok (i, r)) :
    s.named h = .region i r ∧ s.region? i = some r ∧ r.ctx = c ∧ r.owned = true ∧ r.sealedBy = 0 := by
  unfold State.ownRegion at ho
  split at ho
  · simp at ho
  · simp at ho
  · next j q hn =>
    split at ho
    · next hown =>
      simp only [Bool.and_eq_true, decide_eq_true_eq] at hown
      obtain ⟨⟨hctx, howned⟩, hseal⟩ := hown
      simp only [Except.ok.injEq, Prod.mk.injEq] at ho
      obtain ⟨rfl, rfl⟩ := ho
      refine ⟨hn, ?_, hctx, howned, hseal⟩
      unfold State.named at hn
      dsimp only at hn
      split at hn
      · simp at hn
      · split at hn
        · split at hn
          · simp at hn
          · simp only [Named.region.injEq] at hn
            obtain ⟨rfl, rfl⟩ := hn
            assumption
        · simp at hn
        · simp at hn
    · simp at ho

/-! ## REGION_ATTR: the change of LEASE (R44) -/

/-- Of a table none of whose values meet a test, only what has been set does. -/
theorem filter_tset {α : Type} {q : α → Bool} {k : Nat} {v : α} (hv : q v = true) {t : Tbl α} (ht : ∀ e, e ∈ t → q e.2 = false) :
    (tset t k v).filter (fun e => q e.2) = [(k, v)] := by
  have none : ∀ l : Tbl α, (∀ e, e ∈ l → q e.2 = false) → l.filter (fun e => q e.2) = [] := fun l hl =>
    List.filter_eq_nil_iff.mpr fun e he => by simp [hl e he]
  induction t with
  | nil => simp [tset, hv]
  | cons e t ih =>
    have htail : ∀ e, e ∈ t → q e.2 = false := fun e he => ht e (List.mem_cons_of_mem _ he)
    obtain ⟨j, w⟩ := e
    have hw : q w = false := ht (j, w) List.mem_cons_self
    simp only [tset]
    split
    · simp [hv, hw, none t htail]
    · split
      · simp [hv, none t htail]
      · simp [hw, ih htail]

/-- The word of a region (R40) with LEASE changed. -/
def leaseAttr (attr : BitVec 32) (on : Bool) : BitVec 32 := if on then attr ||| 0x80 else attr &&& ~~~0x80

/-- A region on the move with nothing held completes its change. -/
theorem State.endMove_nil {s : State} {i id : Nat} {q : Region} {on : Bool} {old : List Nat} (hq : s.region? i = some q)
    (hmoving : q.moving = some (id, on, old)) (h : s.held = []) : s.endMove i =
      (s.setRegion i { q with attr := leaseAttr q.attr on, moving := none }).replyTo id 0
        { q with attr := leaseAttr q.attr on, moving := none }.report := by
  have hset : ∀ q, (s.setRegion i q).held = [] := fun _ => h
  rw [State.endMove, hq]
  simp only [hmoving, h, List.any_nil, Bool.false_eq_true, if_false]
  rw [State.rerouted_nil (hset _), State.settleHeld_nil (hset _)]
  rfl

/-- With nothing held and no other region on the move, a change of LEASE is complete at once. -/
theorem State.moveRegion_still {s : State} {c : Cmd} {i : Nat} {r : Region} {on : Bool} (hr : s.region? i = some r) (h : s.held = [])
    (hs : s.still) : ∃ v, s.moveRegion c i r on = v.replyTo c.id 0 { r with attr := leaseAttr r.attr on }.report ∧
      v.region? i = some { r with attr := leaseAttr r.attr on } ∧ (∀ j, j ≠ i → v.region? j = s.region? j) ∧ Frame [.regions] s v := by
  have hstill : r.moving = none := hs (i, r) (mem_of_tfind? hr)
  obtain ⟨moved, hmoved⟩ : ∃ q : Region, q = { r with moving := some (c.id, on, []) } := ⟨_, rfl⟩
  have hended : { moved with attr := leaseAttr moved.attr on, moving := none } = { r with attr := leaseAttr r.attr on } := by
    rw [hmoved, ← hstill]
  refine ⟨(s.setRegion i moved).setRegion i { r with attr := leaseAttr r.attr on }, ?_, State.region?_setRegion .., fun j hj => ?_,
    (State.setRegion_frame ..).step rfl (State.setRegion_frame ..)⟩
  · have hbegun : s.moveRegion c i r on = (s.setRegion i moved).settle := by
      rw [State.moveRegion, hstill, h, hmoved]
      rfl
    have hmovers : (s.setRegion i moved).regions.filter (fun e => e.2.moving.isSome) = [(i, moved)] :=
      filter_tset (q := fun r : Region => r.moving.isSome) (by rw [hmoved]; rfl) fun e he => by rw [hs e he]; rfl
    have hheld : (s.setRegion i moved).held = [] := h
    rw [hbegun, State.settle, State.settleHeld_nil hheld, hmovers]
    show (s.setRegion i moved).endMove i = _
    rw [State.endMove_nil (State.region?_setRegion ..) (by rw [hmoved]) hheld, hended]
  · rw [State.region?_setRegion_ne _ _ _ _ hj, State.region?_setRegion_ne _ _ _ _ hj]

/-- Where the region may change its LEASE, op 1 begins the change. -/
theorem State.attrLease_eq {s : State} {c : Cmd} {i : Nat} {r : Region} {on : Bool} (hon : par c.p 13 1 = b2n on)
    (ho : s.ownRegion (par c.p 8 4) (pCtx c.p) = .ok (i, r)) (hw : r.share ≠ .withdrawn) (hset : on = true → r.kind = 1 ∧ r.auto = false)
    (hclear : on = false → (∀ e, e ∈ s.leases → ¬(r.zaPage ≤ e.1 / 1024 ∧ e.1 / 1024 < r.zaPage + r.pages)) ∧
      s.mapped i (·.own) = false) : s.attrLease c = s.moveRegion c i r on := by
  have hshare : (r.share == .withdrawn) = false := by simp [hw]
  cases on with
  | true =>
    obtain ⟨hkind, hauto⟩ := hset rfl
    simp [State.attrLease, ho, hshare, hon, b2n, hkind, hauto]
  | false =>
    obtain ⟨hleases, hmapped⟩ := hclear rfl
    have hnone : s.leases.any (fun e => r.zaPage ≤ e.1 / 1024 && e.1 / 1024 < r.zaPage + r.pages) = false := by
      rw [List.any_eq_false]
      intro e he
      simpa using hleases e he
    simp [State.attrLease, ho, hshare, hon, b2n, hnone, hmapped]

/-- Settles O19: the report, the change of LEASE that waits or is complete at once, and the miss policy. -/
theorem regionAttributes : Obligations.RegionAttributes := by
  unfold Obligations.RegionAttributes
  intro via p s u c h
  have hb := State.begun_facts h
  have hp := hb.packet
  subst hp
  have runs : ∀ i, fraistOf i = some (specRegionAttr, via, c.p) → exec i s = .next (startRegionAttr u c) := fun i hi => exec_begun hi h
  have report : par c.p 12 1 = 0 → startRegionAttr u c = u.attrReport c := fun h0 => by rw [startRegionAttr, h0]; rfl
  have lease : par c.p 12 1 = 1 → startRegionAttr u c = u.attrLease c := fun h1 => by rw [startRegionAttr, h1]; rfl
  have miss : par c.p 12 1 = 2 → startRegionAttr u c = u.attrMiss c := fun h2 => by rw [startRegionAttr, h2]; rfl
  refine ⟨fun i r h0 ho => ?region, fun i w r h0 hn hw hr => ?sub, fun i r on attr h1 hon ho hw hset hclear hattr => ?lease, fun h2 => ?miss⟩
  case region =>
    obtain ⟨hn, -, hctx, howned, hseal⟩ := State.ownRegion_ok ho
    have hreport : u.attrReport c = u.reply c 0 r.report := by simp [State.attrReport, hn, hctx, howned, hseal]
    exact ⟨_, (runs (.regionAttrReport via c.p) rfl).trans (congrArg _ ((report h0).trans hreport)), hb.answered u rfl ..⟩
  case sub =>
    have hreport : u.attrReport c = u.reply c 0 r.report := by simp [State.attrReport, hn, hw, hr]
    exact ⟨_, (runs (.regionAttrReport via c.p) rfl).trans (congrArg _ ((report h0).trans hreport)), hb.answered u rfl ..⟩
  case lease =>
    have hbegins := (runs (.regionAttrSetLease via c.p) rfl).trans
      (congrArg _ ((lease h1).trans (State.attrLease_eq hon ho hw hset hclear)))
    refine ⟨fun hmoving => ?_, fun hheld hstill hcmd => ?_⟩
    · rw [hbegins, State.moveRegion, if_pos hmoving]
    · obtain ⟨-, hr, -⟩ := State.ownRegion_ok ho
      obtain ⟨v, hmove, hv, hothers, hframe⟩ := State.moveRegion_still (c := c) (on := on) hr hheld hstill
      have hrunning : c.st ≠ .replied := by rw [hb.cmd]; simp
      have hcmd' : v.cmd? c.id = some c := by rw [State.cmd?, hframe.same .cmds rfl]; exact hcmd
      have hreply : v.replyTo c.id 0 { r with attr := leaseAttr r.attr on }.report = v.reply c 0 { r with attr := leaseAttr r.attr on }.report := by
        rw [State.replyTo, hcmd']
        exact if_neg hrunning
      subst hattr
      exact ⟨_, v, hbegins.trans (congrArg _ (hmove.trans hreply)), hb.answered v (hframe.same .ports rfl) .., hv, hothers, hframe⟩
  case miss =>
    have hset : u.attrMiss c = (u.modCtx (pCtx c.p) fun x => { x with nack := par c.p 13 1 = 1 }).reply c 0 ((par c.p 13 1) <<< 64) := rfl
    refine ⟨_, u.modCtx (pCtx c.p) fun x => { x with nack := par c.p 13 1 = 1 },
      (runs (.regionAttrSetMissPolicy via c.p) rfl).trans (congrArg _ ((miss h2).trans hset)), hb.answered (State.modCtx u _ _) rfl ..,
      fun m => ?_, State.modCtx_frame ..⟩
    rw [State.ctx_modCtx]
    split
    · next hm => rw [hm]
    · rfl

end Sys2Proof.Machine
end

section
/-!
The supply and the journal flush (R39, R340, R341, R396-R399).
-/

namespace Sys2Proof.Machine

open Sys2Proof

/-! ## What leaves the flush of each die and its staged images as they are (R331, R340) -/

/-- The images of an FLS die that are in an open wordline or being programmed (R331). -/
def Fls.staged (t : Fls) : List Image := t.openW ++ t.programming

/-- The journal flush of each FLS die stands as it did, and no image that was staged is gone. -/
def FlsKept (s t : State) : Prop := ∀ d, (t.fls d).flushDue = (s.fls d).flushDue ∧ (t.fls d).flushing = (s.fls d).flushing ∧
  ∀ img, img ∈ (s.fls d).staged → img ∈ (t.fls d).staged

theorem FlsKept.refl (s : State) : FlsKept s s := fun _ => ⟨rfl, rfl, fun _ h => h⟩

theorem FlsKept.trans {s t u : State} (h : FlsKept s t) (k : FlsKept t u) : FlsKept s u := fun d =>
  let ⟨hdue, hflush, hstaged⟩ := h d
  let ⟨kdue, kflush, kstaged⟩ := k d
  ⟨kdue.trans hdue, kflush.trans hflush, fun img hi => kstaged img (hstaged img hi)⟩

theorem Frame.flsKept {l : List Piece} {s t : State} (h : Frame l s t) (hl : l.contains .flss = false) : FlsKept s t := fun d => by
  rw [h.fls hl d]
  exact ⟨rfl, rfl, fun _ h => h⟩

theorem FlsKept.each {α : Type} {f : State → α → State} (h : ∀ s a, FlsKept s (f s a)) (l : List α) (s : State) :
    FlsKept s (s.each l f) := by
  induction l generalizing s with
  | nil => exact .refl s
  | cons a l ih => exact (h s a).trans (ih (f s a))

theorem FlsKept.ite {c : Prop} [Decidable c] {s t u : State} (ht : FlsKept s t) (hu : FlsKept s u) :
    FlsKept s (if c then t else u) := by
  split
  · exact ht
  · exact hu

theorem State.modFls_flsKept (s : State) (d : Nat) (f : Fls → Fls)
    (hf : ∀ t, (f t).flushDue = t.flushDue ∧ (f t).flushing = t.flushing ∧ ∀ img, img ∈ t.staged → img ∈ (f t).staged := by
      exact fun _ => ⟨rfl, rfl, fun _ h => h⟩) : FlsKept s (s.modFls d f) := fun e => by
  rw [State.fls_modFls]
  split
  · next h => exact h ▸ hf _
  · exact ⟨rfl, rfl, fun _ h => h⟩

theorem State.modNand_flsKept (s : State) (d die : Nat) (f : NandDie → NandDie) : FlsKept s (s.modNand d die f) :=
  State.modFls_flsKept s d _

/-- An image that starts to be programmed is still staged. -/
theorem Fls.staged_close (t : Fls) (full : Image → Bool) {img : Image} (h : img ∈ t.staged) :
    img ∈ ({ t with openW := t.openW.filter fun i => !full i, programming := t.programming ++ t.openW.filter full } : Fls).staged := by
  simp only [Fls.staged, List.mem_append, List.mem_filter, Bool.not_eq_true'] at h ⊢
  obtain h | h := h
  · cases hf : full img with
    | true => exact .inr (.inr ⟨h, rfl⟩)
    | false => exact .inl ⟨h, rfl⟩
  · exact .inr (.inl h)

theorem Fls.staged_queue (t : Fls) (x : Image) {img : Image} (h : img ∈ t.staged) :
    img ∈ ({ t with openW := t.openW ++ [x] } : Fls).staged := by
  simp only [Fls.staged, List.mem_append] at h ⊢
  exact h.imp_left .inl

theorem State.closeFull_flsKept (s : State) (d : Nat) : FlsKept s (s.closeFull d) :=
  .ite (.refl s) (State.modFls_flsKept s d _ fun t => ⟨rfl, rfl, fun _ => t.staged_close _⟩)

theorem State.openStripe_flsKept (s : State) (d key : Nat) (reloc : Bool) : FlsKept s (s.openStripe d key reloc) :=
  ((State.takeId_frame s).flsKept rfl).trans (State.modFls_flsKept _ d _ fun t => by
    cases reloc <;> exact ⟨rfl, rfl, fun _ h => h⟩)

theorem State.layImage_flsKept (s : State) (d key unit : Nat) (img : Image) : FlsKept s (s.layImage d key unit img) := by
  unfold State.layImage
  refine FlsKept.trans ?_ (State.closeFull_flsKept _ d)
  exact State.modFls_flsKept s d _ fun t => ⟨rfl, rfl, fun _ => t.staged_queue _⟩

/-- A laid image is staged at its place. -/
theorem State.layImage_staged (s : State) (d key unit : Nat) (img : Image) :
    ∃ place, { img with place } ∈ ((s.layImage d key unit img).fls d).staged := by
  refine ⟨{ mapped := false, fls := d, die := key / 8192, block := key % 8192, unit, units := img.units }, ?_⟩
  unfold State.layImage
  refine (State.closeFull_flsKept _ d d).2.2 _ ?_
  rw [State.fls_modFls, if_pos rfl]
  exact List.mem_append_left _ (List.mem_append_right _ (List.mem_singleton.mpr rfl))

/-- An image that waits for a place is staged. -/
theorem State.queueImage_staged (s : State) (d : Nat) (img : Image) :
    img ∈ ((s.modFls d fun t => { t with openW := t.openW ++ [img] }).fls d).staged := by
  rw [State.fls_modFls, if_pos rfl]
  exact List.mem_append_left _ (List.mem_append_right _ (List.mem_singleton.mpr rfl))

/-- An image that is appended is staged, at a place or without one. -/
theorem State.stageImage_staged (s : State) (d : Nat) (img : Image) :
    FlsKept s (s.stageImage d img) ∧ ∃ place, { img with place } ∈ ((s.stageImage d img).fls d).staged := by
  have closed (s : State) (cur : Option Nat) : FlsKept s (match cur with
      | some key => (s.modFls d fun t => { t with blocks := tmod {} t.blocks key fun k => { k with next := blockUnits } }).closeFull d
      | none => s) := by
    cases cur with
    | none => exact .refl s
    | some key => exact (State.modFls_flsKept s d _).trans (State.closeFull_flsKept _ d)
  have queued (u : State) : FlsKept u (u.modFls d fun t => { t with openW := t.openW ++ [{ img with place := {} }] }) :=
    State.modFls_flsKept u d _ fun t => ⟨rfl, rfl, fun _ => t.staged_queue _⟩
  unfold State.stageImage
  dsimp only
  generalize (if img.reloc then (s.fls d).relocBlk else (s.fls d).openBlk) = cur
  split
  · exact ⟨State.layImage_flsKept _ _ _ _ _, State.layImage_staged _ _ _ _ _⟩
  · split
    · next key v hv =>
      have opened := (closed s cur).trans (((Frame.ofPair hv (State.pickBlock_frame _ d)).flsKept rfl).trans
        (State.openStripe_flsKept v d key img.reloc))
      split
      · exact ⟨opened.trans (State.layImage_flsKept _ _ _ _ _), State.layImage_staged _ _ _ _ _⟩
      · exact ⟨opened.trans (queued _), _, State.queueImage_staged _ d _⟩
    · next v hv =>
      exact ⟨(closed s cur).trans (((Frame.ofPair hv (State.pickBlock_frame _ d)).flsKept rfl).trans (queued v)),
        _, State.queueImage_staged v d _⟩

theorem State.stageImage_flsKept (s : State) (d : Nat) (img : Image) : FlsKept s (s.stageImage d img) := (s.stageImage_staged d img).1

theorem State.countReads_flsKept (s : State) (e : MapEnt) (retries rebuilt : Nat) : FlsKept s (s.countReads e retries rebuilt) :=
  (State.modFls_flsKept s e.fls _).trans
    (((State.fixed_frame ..).flsKept rfl).trans ((State.fixed_frame ..).flsKept rfl))

theorem State.relocate_flsKept (s : State) (d key : Nat) : FlsKept s (s.relocate d key) := by
  unfold State.relocate
  refine .ite (.refl s) (.each (fun u e => ?_) _ s)
  dsimp only
  split
  · next n _ =>
    exact .ite (.refl u) ((State.countReads_flsKept u e.2 0 n).trans
      (((State.takeId_frame _).flsKept rfl).trans (State.stageImage_flsKept _ d _)))
  · exact .refl u

theorem State.startErase_flsKept (s : State) (d die : Nat) : FlsKept s (s.startErase d die) :=
  .ite (.refl s) (((State.takeFree_frame s).flsKept rfl).trans (State.modNand_flsKept _ d die _))

theorem State.reclaim_flsKept (s : State) (d die : Nat) : FlsKept s (s.reclaim d die) := by
  unfold State.reclaim
  split
  · exact .ite ((State.modNand_flsKept s d die _).trans (State.relocate_flsKept _ d _)) (State.startErase_flsKept s d die)
  · exact State.startErase_flsKept s d die

theorem State.startRead_flsKept (s : State) (d die : Nat) (r : FlashRead) : FlsKept s (s.startRead d die r) :=
  (FlsKept.ite ((State.count_frame ..).flsKept rfl) (.refl s)).trans (State.modNand_flsKept _ d die _)

theorem State.serveOne_flsKept (s : State) (d die : Nat) : FlsKept s (s.serveOne d die) := by
  have read (f : NandDie → NandDie) (r : FlashRead) : FlsKept s ((s.modNand d die f).startRead d die r) :=
    (State.modNand_flsKept s d die f).trans (State.startRead_flsKept _ d die r)
  unfold State.serveOne
  dsimp only
  split
  · exact read _ _
  · refine .ite (State.reclaim_flsKept s d die) ?_
    split
    · exact read _ _
    · refine .ite (.refl s) ?_
      split
      · exact State.modNand_flsKept s d die _
      · refine .ite (State.reclaim_flsKept s d die) ?_
        split
        · exact .ite ((State.modNand_flsKept s d die _).trans (State.relocate_flsKept _ d _)) (State.startErase_flsKept s d die)
        · exact State.startErase_flsKept s d die

theorem State.serveDie_flsKept (s : State) (d die fuel : Nat) : FlsKept s (s.serveDie d die fuel) := by
  induction fuel generalizing s with
  | zero => exact .refl s
  | succ fuel ih => exact (State.serveOne_flsKept s d die).trans (ih _)

theorem State.serve_flsKept (s : State) (d : Nat) : FlsKept s (s.serve d) := by
  refine FlsKept.each (fun u die => ?_) _ s
  exact State.serveDie_flsKept u d die _

theorem State.settleStops_flsKept (s : State) : FlsKept s s.settleStops := by
  unfold State.settleStops
  refine .ite (.refl s) (.each (fun u d => ?_) _ s)
  extract_lets v
  have hv : FlsKept u v := State.modFls_flsKept u d _
  refine hv.trans ?_
  split
  · exact .refl v
  · exact (State.closeFull_flsKept _ d).trans (State.serve_flsKept _ d)

theorem FlsKept.flushPending {s t : State} (h : FlsKept s t) : t.flushPending = s.flushPending := by
  simp only [State.flushPending, (h _).1, (h _).2.1]

/-- A change of both FLS dies. -/
theorem State.fls_each_modFls (s : State) (f : Fls → Fls) {d : Nat} (hd : d < 2) :
    (s.each (List.range 2) fun s d => s.modFls d f).fls d = f (s.fls d) := by
  change (((s.modFls 0 f).modFls 1 f).fls d) = _
  obtain rfl | rfl : d = 0 ∨ d = 1 := by omega
  · simp
  · simp

theorem State.endReads_flsKept (s : State) : FlsKept s s.endReads := by
  refine FlsKept.each (fun u d => ?_) _ s
  exact State.modFls_flsKept u d _

/-! ## The supply in range (R340, R396) -/

theorem bit_orBit {n : Nat} (w : BitVec n) {k : Nat} (hk : k < n) : bit (orBit w k).toNat k = true := by
  simp [bit, orBit, BitVec.toNat_or, Nat.testBit_or, Nat.testBit_mod_two_pow, Nat.testBit_shiftLeft, hk]

theorem State.pmcErr_pmc (s : State) (k : Nat) : (s.pmcErr k).pmc = { s.pmc with err := orBit s.pmc.err k } := by
  unfold State.pmcErr
  dsimp only
  split
  · exact (State.raise_frame ..).same .pmc rfl
  · rfl

theorem State.onSupply_eq {s : State} {ok : Bool} (hok : ok = true) (hp : s.pmc.powered = true) (vin : Nat) (f : State → State) :
    s.onSupply ok vin f = .next (f (s.modPmc fun p => { p with vin })) := by
  simp [State.onSupply, hok, hp]

/-- High reports the overvoltage once. -/
theorem supplyHigh_reports {vin : BitVec 16} {s : State} (hp : s.pmc.powered = true) (h : 6000 ≤ vin.toNat) (h' : vin.toNat ≤ 6300) :
    ∃ t, exec (.supplyHigh vin) s = .next t ∧ t.pmc.overvolt = true ∧ t.pmc.vin = vin.toNat ∧
      (s.pmc.overvolt = false → t.pmc.err = orBit s.pmc.err 6) ∧ Frame [.out, .fns, .pmc] s t := by
  have hexec : exec (.supplyHigh vin) s = execSupplyHigh vin s := rfl
  rw [hexec, execSupplyHigh, State.onSupply_eq (by simp [h, h']) hp]
  refine ⟨_, rfl, ?_⟩
  split
  · next hover => exact ⟨hover, rfl, fun hno => absurd (hover.symm.trans hno) (by simp), (State.modPmc_frame ..).mono rfl⟩
  · refine ⟨?_, ?_, fun _ => ?_, (State.pmcErr_frame ..).step rfl (((State.modPmc_frame ..).trans (State.modPmc_frame ..)).mono rfl)⟩ <;>
      rw [State.pmcErr_pmc] <;> rfl

theorem State.settleStops_sag {s : State} (h : s.pmc.sag = true) (hv : s.variantH = false) :
    s.settleStops = s.each (List.range 2) fun s d => s.modFls d fun t => { t with stopped := true } := by
  simp [State.settleStops, h, hv]

theorem State.settleStops_variantH {s : State} (h : s.variantH = true) : s.settleStops = s := by
  simp [State.settleStops, h]

/-- The supply leaves its upper ranges and is in Sag, which stops the programs of the FLS dies. -/
theorem State.enterSag_effect {s : State} (h : s.pmc.sag = false) :
    s.enterSag.pmc = { s.pmc with sag := true, overvolt := false, err := orBit s.pmc.err 1 } ∧ s.enterSag.flash = s.flash ∧
    (s.variantH = false → ∀ d, d < 2 → s.enterSag.fls d = { s.fls d with stopped := true }) ∧
    (s.variantH = true → s.enterSag.flss = s.flss) := by
  obtain ⟨u, hu⟩ : ∃ u, u = (s.modPmc fun p => { p with sag := true, overvolt := false }).pmcErr 1 := ⟨_, rfl⟩
  have hframe : Frame [.out, .pmc, .fns] s u := hu ▸ (State.pmcErr_frame ..).step rfl ((State.modPmc_frame ..).mono rfl)
  have hpmc : u.pmc = { s.pmc with sag := true, overvolt := false, err := orBit s.pmc.err 1 } := by rw [hu, State.pmcErr_pmc]; rfl
  have hsag : u.pmc.sag = true := by rw [hpmc]
  have hentered : s.enterSag = u.settleStops.fwReview := by
    rw [State.enterSag, h, hu]
    rfl
  have hreview : Frame [.fw] u.settleStops s.enterSag := hentered ▸ State.fwReview_frame _
  have hsettled : Frame [.fresh, .out, .nextId, .fns, .flss, .cnt, .fw] u s.enterSag :=
    (hreview.mono rfl).after ((State.settleStops_frame u).mono rfl)
  refine ⟨(hsettled.same .pmc rfl).trans hpmc, (hsettled.same .flash rfl).trans (hframe.same .flash rfl), fun hv d hd => ?_, fun hv => ?_⟩
  · have huv : u.variantH = false := (hframe.same .variantH rfl).trans hv
    rw [hreview.fls rfl, State.settleStops_sag hsag huv, State.fls_each_modFls _ _ hd, hframe.fls rfl]
  · have huv : u.variantH = true := (hframe.same .variantH rfl).trans hv
    have hflss := hreview.same .flss rfl
    rw [State.settleStops_variantH huv] at hflss
    exact hflss.trans (hframe.same .flss rfl)

/-- Sag stops the FLS dies' programs. -/
theorem supplySag_enters {vin : BitVec 16} {s : State} (hp : s.pmc.powered = true) (h : vin.toNat < 4400) (hsag : s.pmc.sag = false) :
    ∃ t, exec (.supplySag vin) s = .next t ∧ t.pmc.sag = true ∧ t.pmc.overvolt = false ∧ t.pmc.vin = vin.toNat ∧
      t.pmc.err = orBit s.pmc.err 1 ∧ (s.variantH = false → ∀ d, d < 2 → (t.fls d).stopped = true) ∧
      (s.variantH = true → t.flss = s.flss) ∧ t.flash = s.flash := by
  have hexec : exec (.supplySag vin) s = execSupplySag vin s := rfl
  rw [hexec, execSupplySag, State.onSupply_eq (by simp [h]) hp]
  obtain ⟨hpmc, hflash, hstop, hflss⟩ := State.enterSag_effect (s := s.modPmc fun p => { p with vin := vin.toNat }) hsag
  refine ⟨_, rfl, ?_, ?_, ?_, ?_, fun hv d hd => ?_, hflss, hflash⟩
  · rw [hpmc]
  · rw [hpmc]
  · rw [hpmc]
    rfl
  · rw [hpmc]
    rfl
  · rw [hstop hv d hd]

theorem State.enterSag_pmc_sag (s : State) : s.enterSag.pmc.sag = true ∧ s.enterSag.pmc.stage = s.pmc.stage := by
  by_cases hsag : s.pmc.sag = true
  · have : s.enterSag = s := by rw [State.enterSag, hsag]; rfl
    rw [this]
    exact ⟨hsag, rfl⟩
  · rw [(State.enterSag_effect (Bool.eq_false_iff.mpr hsag)).1]
    exact ⟨rfl, rfl⟩

/-- Entered or not, Sag leaves what decides on a flush. -/
theorem State.enterSag_lost {s : State} (hv : s.variantH = false) {d : Nat} (hd : d < 2) :
    (s.enterSag.fls d).lost = (s.fls d).lost ∧ (s.enterSag.fls d).flushing = (s.fls d).flushing := by
  by_cases hsag : s.pmc.sag = true
  · have : s.enterSag = s := by rw [State.enterSag, hsag]; rfl
    rw [this]
    exact ⟨rfl, rfl⟩
  · rw [(State.enterSag_effect (Bool.eq_false_iff.mpr hsag)).2.2.1 hv d hd]
    exact ⟨rfl, rfl⟩

theorem State.dueFlush_fls {s : State} {d : Nat} (hd : d < 2) (hlost : (s.fls d).lost = false) (hflush : (s.fls d).flushing = false) :
    (s.dueFlush.fls d).flushDue = true := by
  rw [State.dueFlush, State.fls_each_modFls _ _ hd]
  simp [hlost, hflush]

/-- Hold-up makes the flush of a journal due. -/
theorem supplyHoldup_enters {vin : BitVec 16} {s : State} (hp : s.pmc.powered = true) (h : vin.toNat < 4000)
    (hhold : s.pmc.holdup = false) : ∃ t, exec (.supplyHoldup vin) s = .next t ∧ t.pmc.sag = true ∧ t.pmc.holdup = true ∧
      t.pmc.effCap = 900 ∧ bit t.pmc.err.toNat 2 = true ∧ t.flash = s.flash ∧
      (s.hasJournal = true → s.hep.d3hot = false → ∀ d, d < 2 → (s.fls d).lost = false → (s.fls d).flushing = false →
        (t.fls d).flushDue = true) := by
  have hexec : exec (.supplyHoldup vin) s = execSupplyHoldup vin s := rfl
  rw [hexec, execSupplyHoldup, State.onSupply_eq (by simp [h]) hp]
  obtain ⟨u, hu⟩ : ∃ u, u = s.modPmc fun p => { p with vin := vin.toNat } := ⟨_, rfl⟩
  obtain ⟨v, hv⟩ : ∃ v, v = (u.enterSag.modPmc fun p => { p with holdup := true }).pmcErr 2 := ⟨_, rfl⟩
  have hus : Frame [.pmc] s u := hu ▸ State.modPmc_frame ..
  have hsag := u.enterSag_pmc_sag
  have hvframe : Frame [.out, .pmc, .fns] u.enterSag v := hv ▸ (State.pmcErr_frame ..).step rfl ((State.modPmc_frame ..).mono rfl)
  have hvpmc : v.pmc = { u.enterSag.pmc with holdup := true, err := orBit u.enterSag.pmc.err 2 } := by rw [hv, State.pmcErr_pmc]; rfl
  have hentered : u.enterHoldup = if v.hasJournal && !v.hep.d3hot then v.dueFlush else v := by
    have : u.pmc.holdup = false := by rw [hu]; exact hhold
    rw [State.enterHoldup, this, hv]
    rfl
  have hlast : Frame [.flss] v u.enterHoldup := hentered ▸ Frame.ite (State.dueFlush_frame v) (.refl ..)
  have hpmc : u.enterHoldup.pmc = v.pmc := hlast.same .pmc rfl
  rw [← hu]
  refine ⟨_, rfl, ?_, ?_, ?_, ?_, ?_, fun hj hd3 d hd hlost hflush => ?_⟩
  · rw [hpmc, hvpmc]
    exact hsag.1
  · rw [hpmc, hvpmc]
  · rw [hpmc, hvpmc]
    simp [Pmc.effCap]
  · rw [hpmc, hvpmc]
    exact bit_orBit _ (by omega)
  · calc u.enterHoldup.flash = v.flash := hlast.same .flash rfl
      _ = u.enterSag.flash := hvframe.same .flash rfl
      _ = u.flash := (State.enterSag_frame u).same .flash rfl
      _ = s.flash := hus.same .flash rfl
  · have hvH : s.variantH = false := by
      simp only [State.hasJournal, Bool.and_eq_true, Bool.not_eq_true'] at hj
      exact hj.1
    obtain ⟨hlost', hflush'⟩ := State.enterSag_lost (s := u) ((hus.same .variantH rfl).trans hvH) hd
    have hjv : v.hasJournal = s.hasJournal := by
      have hH : v.variantH = s.variantH :=
        (hvframe.same .variantH rfl).trans (((State.enterSag_frame u).same .variantH rfl).trans (hus.same .variantH rfl))
      rw [State.hasJournal, State.hasJournal, hvpmc, hH]
      show (!s.variantH && decide (5 ≤ u.enterSag.pmc.stage)) = _
      rw [hsag.2, hu]
      rfl
    have hdv : v.hep.d3hot = false := by
      have hH : v.hep = s.hep :=
        (hvframe.same .hep rfl).trans (((State.enterSag_frame u).same .hep rfl).trans (hus.same .hep rfl))
      rw [hH, hd3]
    rw [hentered, hjv, hj, hdv]
    refine State.dueFlush_fls hd ?_ ?_
    · rw [hvframe.fls rfl, hlost', hus.fls rfl, hlost]
    · rw [hvframe.fls rfl, hflush', hus.fls rfl, hflush]

/-- The supply's return ends Sag and Hold-up, and a flush not begun with them. -/
theorem supplyRecovery_ends {vin : BitVec 16} {s : State} (hp : s.pmc.powered = true) (h : 4400 ≤ vin.toNat) (h' : vin.toNat ≤ 6300) :
    ∃ t, exec (.supplyRecovery vin) s = .next t ∧ t.pmc.sag = false ∧ t.pmc.holdup = false ∧ t.pmc.supplyOk = true ∧
      t.pmc.vin = vin.toNat ∧ (s.pmc.resetWait = false → ∀ d, d < 2 → (t.fls d).flushDue = false) := by
  obtain ⟨u, hu⟩ : ∃ u, u = ((s.modPmc fun p => { p with vin := vin.toNat }).modPmc fun p => { p with supplyOk := true }).modPmc
    fun p => { p with sag := false, holdup := false, bootPaused := false } := ⟨_, rfl⟩
  obtain ⟨v, hv⟩ : ∃ v, v = if u.pmc.resetWait then u
    else u.each (List.range 2) fun s d => s.modFls d fun t => { t with flushDue := false } := ⟨_, rfl⟩
  have hexec : exec (.supplyRecovery vin) s = .next v.settleStops.fwReview := by
    have : exec (.supplyRecovery vin) s = execSupplyRecovery vin s := rfl
    rw [this, execSupplyRecovery, if_pos (by simp [h, h']), if_pos hp, hv, hu]
    exact congrArg _ (if_pos hp)
  have huv : Frame [.flss] u v := by
    rw [hv]
    exact .ite (.refl ..) (.each _ _ (fun _ _ => State.modFls_frame ..) _)
  have hframe : Frame [.fresh, .out, .nextId, .fns, .flss, .cnt, .fw] u v.settleStops.fwReview :=
    (State.fwReview_frame _).step rfl ((State.settleStops_frame v).step rfl (huv.mono rfl))
  have hpmc : v.settleStops.fwReview.pmc = u.pmc := hframe.same .pmc rfl
  refine ⟨_, hexec, ?_, ?_, ?_, ?_, fun hw d hd => ?_⟩
  · rw [hpmc, hu]
    rfl
  · rw [hpmc, hu]
    rfl
  · rw [hpmc, hu]
    rfl
  · rw [hpmc, hu]
    rfl
  · have huw : u.pmc.resetWait = false := by rw [hu]; exact hw
    rw [((State.settleStops_flsKept v).trans ((State.fwReview_frame _).flsKept rfl) d).1, hv, if_neg (by simp [huw]),
      State.fls_each_modFls _ _ hd]

/-! ## Beyond the supply's range (R39, R397, R399) -/

theorem State.settleReset_off {s : State} (hp : s.pmc.powered = false) (hs : s.pmc.standby = false) :
    s.settleReset = if s.flushPending then s else s.tornFuse.afterReset false := by
  simp [State.settleReset, hp, hs]

/-- What a power-off without a flush leaves of the regions and the sequence numbers. -/
theorem State.seqsAfter_of_nil {s : State} (hr : s.regions = []) (hs : s.subs = []) : s.seqsAfter = s.seqs := by
  simp [State.seqsAfter, hr, hs]

/-- A region of a context that is neither sealed nor durable is lost, and its handle is stale. -/
theorem State.regionsAfter_lost {s : State} {i : Nat} {r : Region} (hr : s.regions = [(i, r)]) (hs : s.subs = []) (hseal : r.sealedBy = 0)
    (hd : (s.ctx r.ctx).durable = false) : s.regionsAfter = [] ∧ tget 0 s.seqsAfter i = (tget 0 s.seqs i + 1) % 4096 := by
  have hnone : s.regionsAfter = [] := by simp [State.regionsAfter, hr, hseal, hd]
  have hseqs : s.seqsAfter = tmod 0 s.seqs i fun n => (n + 1) % 4096 := by
    simp [State.seqsAfter, hnone, hr, hs, thas]
  rw [hseqs, tget_tmod, if_pos rfl]
  exact ⟨hnone, rfl⟩

/-- A device that powers off has its main domains off at once, and everything that does not survive is as after reset once no flush
waits for them. -/
theorem State.powerOff_effect {s : State} (hp : s.pmc.powered = true) (hs : s.pmc.standby = false) (hok : s.pmc.supplyOk = false)
    {reason : Nat} (hreason : reason ≠ 3) : ((s.powerOff reason 0).pmc.powered = false ∧ (s.powerOff reason 0).pmc.lastOff = reason ∧
      (s.powerOff reason 0).pmc.supplyOk = false ∧ (s.powerOff reason 0).pending = s.pending) ∧
    (s.hasJournal = false → s.flushPending = false → ∃ v, s.powerOff reason 0 = v.afterReset false ∧
      Frame [.fresh, .pmc, .fw, .flss] s v) := by
  obtain ⟨u, hu⟩ : ∃ u, u = (s.modPmc fun p =>
    { p with powered := false, lastOff := reason, offSensor := if reason = 3 then 0 else p.offSensor }).endReads := ⟨_, rfl⟩
  obtain ⟨w, hw⟩ : ∃ w, w = if u.hasJournal && !u.hep.d3hot then u.dueFlush else u := ⟨_, rfl⟩
  have hoff : s.powerOff reason 0 = w.settleReset := by
    rw [hw, hu]
    exact if_pos hp
  have hsu : Frame [.pmc, .flss] s u := hu ▸ (State.endReads_frame _).step rfl ((State.modPmc_frame ..).mono rfl)
  have hupmc : u.pmc = { s.pmc with powered := false, lastOff := reason } := by
    rw [hu, (State.endReads_frame _).same .pmc rfl, State.modPmc_set, if_neg hreason]
  have huw : Frame [.flss] u w := hw ▸ .ite (State.dueFlush_frame u) (.refl ..)
  have hpmc : w.pmc = { s.pmc with powered := false, lastOff := reason } := (huw.same .pmc rfl).trans hupmc
  have htorn := State.tornFuse_frame w
  rw [hoff, State.settleReset_off (by rw [hpmc]) (by rw [hpmc]; exact hs)]
  refine ⟨?_, fun hj hf => ⟨w.tornFuse, if_neg ?_, htorn.step rfl (huw.step rfl (hsu.mono rfl))⟩⟩
  · have hpending : w.pending = s.pending := (huw.same .pending rfl).trans (hsu.same .pending rfl)
    split
    · rw [hpmc]
      exact ⟨rfl, rfl, hok, hpending⟩
    · refine ⟨rfl, ?_, ?_, (htorn.same .pending rfl).trans hpending⟩
      · show w.tornFuse.pmc.lastOff = reason
        rw [htorn.same .pmc rfl, hpmc]
      · show w.tornFuse.pmc.supplyOk = false
        rw [htorn.same .pmc rfl, hpmc]
        exact hok
  · have hju : u.hasJournal = false := by
      rw [State.hasJournal, hupmc, hsu.same .variantH rfl]
      exact hj
    have hwu : w = u := by rw [hw, hju]; rfl
    have hkept : FlsKept s u := hu ▸ ((State.modPmc_frame ..).flsKept rfl).trans (State.endReads_flsKept _)
    rw [hwu, hkept.flushPending, hf]
    exact Bool.false_ne_true

/-- The supply leaves its range, above or below: the device powers off with the reason. -/
theorem supply_powersOff {vin : BitVec 16} {s : State} (hp : s.pmc.powered = true) (hs : s.pmc.standby = false) {i : Instr} {reason : Nat}
    (hi : (i = .supplyOvervoltage vin ∧ 6300 < vin.toNat ∧ reason = 2) ∨ (i = .supplyUndervoltage vin ∧ vin.toNat < 3800 ∧ reason = 1)) :
    ∃ t, exec i s = .next t ∧ t.pmc.powered = false ∧ t.pmc.lastOff = reason ∧ t.pmc.supplyOk = false ∧ t.pending = s.pending ∧
      (s.hasJournal = false → s.flushPending = false → t.hbm = State.reset.hbm ∧ t.ctxs = [] ∧ t.cmds = [] ∧
        t.ports = State.reset.ports ∧ t.held = [] ∧ t.leases = [] ∧ (s.regions = [] → s.subs = [] → t.seqs = s.seqs) ∧
        (∀ i r, s.regions = [(i, r)] → s.subs = [] → r.sealedBy = 0 → (s.ctx r.ctx).durable = false →
          t.regions = [] ∧ tget 0 t.seqs i = (tget 0 s.seqs i + 1) % 4096)) := by
  obtain ⟨u, hexec, hframe, hupmc, hreason⟩ : ∃ u, exec i s = .next (u.powerOff reason 0) ∧ Frame [.pmc] s u ∧
      (u.pmc.powered = s.pmc.powered ∧ u.pmc.standby = s.pmc.standby ∧ u.pmc.supplyOk = false ∧ u.pmc.stage = s.pmc.stage) ∧
      reason ≠ 3 := by
    obtain ⟨rfl, hv, rfl⟩ | ⟨rfl, hv, rfl⟩ := hi
    · exact ⟨_, State.onSupply_eq (by simp [hv]) hp vin.toNat fun s => (s.modPmc fun p => { p with supplyOk := false }).powerOff 2 0,
        (State.modPmc_frame ..).trans (State.modPmc_frame ..), ⟨rfl, rfl, rfl, rfl⟩, by omega⟩
    · refine ⟨s.modPmc fun p => { p with supplyOk := false }, ?_, State.modPmc_frame .., ⟨rfl, rfl, rfl, rfl⟩, by omega⟩
      exact congrArg _ ((if_neg (by omega)).trans (if_pos hp))
  obtain ⟨hup, hus, huok, hustage⟩ := hupmc
  obtain ⟨⟨hpow, hlast, hok, hpend⟩, hreset⟩ := State.powerOff_effect (hup.trans hp) (hus.trans hs) huok hreason
  refine ⟨_, hexec, hpow, hlast, hok, hpend.trans (hframe.same .pending rfl), fun hj hf => ?_⟩
  have hju : u.hasJournal = false := by
    rw [State.hasJournal, hframe.same .variantH rfl, hustage]
    exact hj
  obtain ⟨v, hv, huv⟩ := hreset hju (((hframe.flsKept rfl).flushPending).trans hf)
  have hsv : Frame [.fresh, .pmc, .fw, .flss] s v := huv.step rfl (hframe.mono rfl)
  rw [hv]
  refine ⟨rfl, rfl, rfl, rfl, rfl, rfl, fun hr hsub => ?_, fun i r hr hsub hseal hdur => ?_⟩
  · exact (State.seqsAfter_of_nil ((hsv.same .regions rfl).trans hr) ((hsv.same .subs rfl).trans hsub)).trans (hsv.same .seqs rfl)
  · have hlost := State.regionsAfter_lost ((hsv.same .regions rfl).trans hr) ((hsv.same .subs rfl).trans hsub) hseal
      ((congrArg Ctx.durable (hsv.ctx rfl r.ctx)).trans hdur)
    rw [hsv.same .seqs rfl] at hlost
    exact hlost

/-! ## The journal flush (R340, R341, R397) -/

/-- The flush begins once no program is in flight. -/
theorem journalFlush_begins {s : State} (h : ∀ d n, d < 2 → n ∈ (s.fls d).nand → n.2.program = none) :
    ∃ t, exec .journalFlush s = .next t ∧ Frame [.flss] s t ∧ ∀ d, d < 2 →
      t.fls d = if (s.fls d).flushDue then { s.fls d with flushDue := false, flushing := true } else s.fls d := by
  have hready : ((List.range 2).all fun d => !(s.fls d).flushDue || (s.fls d).nand.all fun n => n.2.program.isNone) = true := by
    rw [List.all_eq_true]
    intro d hd
    rw [Bool.or_eq_true, List.all_eq_true]
    exact .inr fun n hn => by rw [h d n (List.mem_range.mp hd) hn]; rfl
  refine ⟨s.beginFlush, rfl, State.beginFlush_frame s, fun d hd => ?_⟩
  rw [State.beginFlush, if_pos hready]
  exact State.fls_each_modFls s (fun t => if t.flushDue then { t with flushDue := false, flushing := true } else t) hd

theorem State.journalSaved_buffer (s : State) (d e : Nat) : (s.journalSaved d).bufferOf e = if e = d then [] else s.bufferOf e := by
  show (s.journals.filter (·.die != d)).filter (·.die == e) = _
  rw [List.filter_filter]
  split
  · next h => simp [h]
  · next h =>
    refine List.filter_congr fun r _ => ?_
    by_cases hr : r.die = e <;> simp [hr, h]

theorem State.journalSaved_fls (s : State) {d e : Nat} (hde : d ≠ e) : (s.journalSaved e).fls d = s.fls d := by
  unfold State.journalSaved
  rw [(State.dropSaved_frame _).fls rfl, (Frame.set_saved_journals ..).fls rfl, State.fls_modFls, if_neg hde]

/-- Where each die's part of a change needs and makes what concerns that die alone, both dies' parts make it. -/
theorem State.each_dies {f : State → Nat → State} {P Q : Nat → State → Prop} (hP : ∀ u d e, d ≠ e → P d u → P d (f u e))
    (hQ : ∀ u d e, d ≠ e → Q d u → Q d (f u e)) (hf : ∀ u d, P d u → Q d (f u d)) {s : State} {d : Nat} (hd : d < 2) (h : P d s) :
    Q d (s.each (List.range 2) f) := by
  show Q d (f (f s 0) 1)
  obtain rfl | rfl : d = 0 ∨ d = 1 := by omega
  · exact hQ _ _ _ (by omega) (hf s 0 h)
  · exact hf _ 1 (hP s _ _ (by omega) h)

/-- A complete flush has emptied its die's buffer. -/
def Flushed (d : Nat) (s : State) : Prop := (s.fls d).flushing = false ∧ s.bufferOf d = [] ∧ bit (s.fls d).err.toNat 5 = true

/-- The end of one die's flush. -/
def State.flushEnd (s : State) (d : Nat) : State :=
  if (s.fls d).flushing then (s.journalSaved d).modFls d fun t => { t with flushing := false, err := orBit t.err 5 } else s

theorem State.flushEnd_frame (s : State) (d : Nat) : Frame [.flss, .saved, .journals] s (s.flushEnd d) :=
  .ite ((State.modFls_frame ..).step rfl (State.journalSaved_frame s d)) (.refl ..)

theorem State.flushEnd_other (s : State) {d e : Nat} (hde : d ≠ e) :
    (s.flushEnd e).fls d = s.fls d ∧ (s.flushEnd e).bufferOf d = s.bufferOf d := by
  unfold State.flushEnd
  split
  · constructor
    · rw [State.fls_modFls, if_neg hde, State.journalSaved_fls s hde]
    · exact (State.journalSaved_buffer s e d).trans (if_neg hde)
  · exact ⟨rfl, rfl⟩

theorem State.flushEnd_flushed {s : State} {d : Nat} (h : (s.fls d).flushing = true) : Flushed d (s.flushEnd d) := by
  rw [State.flushEnd, if_pos h]
  refine ⟨?_, (State.journalSaved_buffer s d d).trans (if_pos rfl), ?_⟩
  · rw [State.fls_modFls, if_pos rfl]
  · rw [State.fls_modFls, if_pos rfl]
    exact bit_orBit _ (by omega)

/-- The end of a flush under power resets nothing. -/
theorem journalFlushComplete_empties {s : State} {d : Nat} (hd : d < 2) (hf : (s.fls d).flushing = true) (hp : s.pmc.powered = true)
    (hw : s.pmc.resetWait = false) : ∃ t, exec .journalFlushComplete s = .next t ∧ (t.fls d).flushing = false ∧ t.bufferOf d = [] ∧
      bit (t.fls d).err.toNat 5 = true ∧ t.flash = s.flash ∧ t.fmap = s.fmap := by
  obtain ⟨u, hu⟩ : ∃ u, u = s.each (List.range 2) State.flushEnd := ⟨_, rfl⟩
  have hpending : s.flushPending = true :=
    List.any_eq_true.mpr ⟨d, List.mem_range.mpr hd, by rw [hf, Bool.or_true]⟩
  have hframe : Frame [.flss, .saved, .journals] s u := hu ▸ Frame.each _ _ State.flushEnd_frame s
  have hpmc : u.pmc = s.pmc := hframe.same .pmc rfl
  have hsettled : u.settleReset = u := by simp [State.settleReset, hpmc, hp, hw]
  have hexec : exec .journalFlushComplete s = .next u := by
    have : exec .journalFlushComplete s = .next u.settleReset := by rw [hu]; exact congrArg _ (if_pos hpending)
    rw [this, hsettled]
  obtain ⟨hflush, hbuf, herr⟩ : Flushed d u := by
    rw [hu]
    refine State.each_dies (P := fun d u => (u.fls d).flushing = true) (Q := Flushed) (fun u d e hde h => ?_) (fun u d e hde h => ?_)
      (fun u d h => State.flushEnd_flushed h) hd hf
    · rw [(State.flushEnd_other u hde).1]
      exact h
    · obtain ⟨hfls, hbuf⟩ := State.flushEnd_other u hde
      rw [Flushed, hfls, hbuf]
      exact h
  exact ⟨u, hexec, hflush, hbuf, herr, hframe.same .flash rfl, hframe.same .fmap rfl⟩

/-- A lost flush has left its die's buffer empty. -/
def FlushLost (d : Nat) (s : State) : Prop := (s.fls d).flushing = false ∧ s.bufferOf d = []

/-- The loss of one die's flush. -/
def State.flushLoss (s : State) (d : Nat) : State :=
  if (s.fls d).flushDue || (s.fls d).flushing then (s.journalLost d).modFls d fun t => { t with flushDue := false, flushing := false }
  else s

/-- The loss of a buffer changes that die, drops its records, and restores their pages. -/
theorem State.journalLost_restores (s : State) (d : Nat) : ∃ u, (∀ e, e ≠ d → u.fls e = s.fls e) ∧
    u.journals = s.journals.filter (·.die != d) ∧ Frame [.flash, .tables, .refRecs, .fmap, .images, .saved] u (s.journalLost d) := by
  unfold State.journalLost
  refine ⟨_, fun e he => ?_, ?_, (State.dropSaved_frame _).step rfl (.each _ _ (fun u p => ?_) _)⟩
  · rw [(Frame.set_journals ..).fls rfl, State.fls_modFls, if_neg he]
  · rfl
  · split
    · exact (State.putFlash_frame ..).mono rfl
    · exact .refl ..

theorem State.journalLost_other (s : State) {d e : Nat} (hde : d ≠ e) : (s.journalLost e).fls d = s.fls d := by
  obtain ⟨u, hfls, -, hframe⟩ := s.journalLost_restores e
  exact (hframe.fls rfl d).trans (hfls d hde)

theorem State.journalLost_buffer (s : State) (d e : Nat) : (s.journalLost d).bufferOf e = if e = d then [] else s.bufferOf e := by
  obtain ⟨u, -, hjournals, hframe⟩ := s.journalLost_restores d
  rw [State.bufferOf, hframe.same .journals rfl, hjournals]
  exact State.journalSaved_buffer s d e

theorem State.flushLoss_other (s : State) {d e : Nat} (hde : d ≠ e) :
    (s.flushLoss e).fls d = s.fls d ∧ (s.flushLoss e).bufferOf d = s.bufferOf d := by
  unfold State.flushLoss
  split
  · constructor
    · rw [State.fls_modFls, if_neg hde, State.journalLost_other s hde]
    · exact (State.journalLost_buffer s e d).trans (if_neg hde)
  · exact ⟨rfl, rfl⟩

theorem State.flushLoss_lost {s : State} {d : Nat} (h : (s.fls d).flushing = true) : FlushLost d (s.flushLoss d) := by
  rw [State.flushLoss, if_pos (by rw [h, Bool.or_true])]
  refine ⟨?_, (State.journalLost_buffer s d d).trans (if_pos rfl)⟩
  rw [State.fls_modFls, if_pos rfl]

/-- What holds of every value of a table and of the default holds of each value read. -/
theorem tget_of_forall {α : Type} {d : α} {t : Tbl α} {p : α → Prop} (hd : p d) (ht : ∀ e, e ∈ t → p e.2) (k : Nat) : p (tget d t k) := by
  induction t with
  | nil => exact hd
  | cons e t ih =>
    simp only [tget]
    split
    · exact ht e List.mem_cons_self
    · exact ih fun e he => ht e (List.mem_cons_of_mem _ he)

/-- After a reset no die flushes and no buffer holds a record. -/
theorem State.afterReset_flushLost (s : State) (power : Bool) (d : Nat) : FlushLost d (s.afterReset power) := by
  refine ⟨?_, rfl⟩
  have hall : ∀ e, e ∈ (s.afterReset power).flss → e.2.flushing = false := by
    intro e he
    obtain ⟨d, -, hd⟩ := List.mem_filterMap.mp he
    dsimp only at hd
    split at hd
    · simp at hd
    · simp only [Option.some.injEq] at hd
      rw [← hd]
      rfl
  exact tget_of_forall (p := fun t : Fls => t.flushing = false) rfl hall d

/-- A flush that loses its power leaves nothing in its buffer. -/
theorem flushDomainPowerLoss_empties {s : State} {d : Nat} (hd : d < 2) (hp : s.pmc.powered = false) (hs : s.pmc.standby = false)
    (hf : (s.fls d).flushing = true) :
    ∃ t, exec .flushDomainPowerLoss s = .next t ∧ (t.fls d).flushing = false ∧ t.bufferOf d = [] := by
  obtain ⟨u, hu⟩ : ∃ u, u = s.each (List.range 2) State.flushLoss := ⟨_, rfl⟩
  have hpmc : u.pmc = s.pmc := by
    rw [hu]
    exact (Frame.each (l := [.flash, .tables, .refRecs, .flss, .fmap, .images, .saved, .journals]) _ _ (fun u d =>
      .ite ((State.modFls_frame ..).step rfl (State.journalLost_frame u d)) (.refl ..)) s).same .pmc rfl
  have hexec : exec .flushDomainPowerLoss s = .next u.settleReset := by
    rw [hu]
    exact congrArg _ (if_neg (by simp [hp, hs]))
  have hlost : FlushLost d u := by
    rw [hu]
    refine State.each_dies (P := fun d u => (u.fls d).flushing = true) (Q := FlushLost) (fun u d e hde h => ?_) (fun u d e hde h => ?_)
      (fun u d h => State.flushLoss_lost h) hd hf
    · rw [(State.flushLoss_other u hde).1]
      exact h
    · obtain ⟨hfls, hbuf⟩ := State.flushLoss_other u hde
      rw [FlushLost, hfls, hbuf]
      exact h
  refine ⟨_, hexec, ?_⟩
  rw [State.settleReset_off (by rw [hpmc, hp]) (by rw [hpmc, hs])]
  split
  · exact hlost
  · exact State.afterReset_flushLost _ _ d

theorem flushDomainPowerLoss_nothing {s : State} (h : s.pmc.powered = true ∨ s.pmc.standby = true) :
    exec .flushDomainPowerLoss s = .next s :=
  congrArg _ (if_pos (by simpa using h))

theorem supplyHighExit_clears {vin : BitVec 16} {s : State} (hp : s.pmc.powered = true) (h : vin.toNat < 6000) :
    exec (.supplyHighExit vin) s = .next { s with pmc := { s.pmc with vin := vin.toNat, overvolt := false } } :=
  State.onSupply_eq (by simp [h]) hp vin.toNat fun s => s.modPmc fun p => { p with overvolt := false }

/-- Settles O49: one lemma for each range of the supply, and one for each step of the flush. -/
theorem supplyRanges : Obligations.SupplyRanges := by
  unfold Obligations.SupplyRanges
  refine ⟨fun vin s hp => ⟨supplyHigh_reports hp, supplyHighExit_clears hp, supplySag_enters hp, supplyHoldup_enters hp,
    fun i reason hs hi => supply_powersOff hp hs hi, supplyRecovery_ends hp⟩, fun s => ⟨journalFlush_begins,
    fun d hd hf hp hw => journalFlushComplete_empties hd hf hp hw, flushDomainPowerLoss_nothing,
    fun d hd hp hs hf => flushDomainPowerLoss_empties hd hp hs hf⟩⟩

end Sys2Proof.Machine
end

section
/-!
The drain of an entry that a fill stored (R126, R144).
-/

namespace Sys2Proof.Machine

open Sys2Proof

/-- The bits that a wrong correction left in stored lines stay where a filled entry drains: only its check bits are fresh. -/
theorem State.writeEntry_wrong_of_fill (s : State) (ri : Nat) (r : Region) {e : WEntry} (hfill : e.fill = true) :
    (s.writeEntry ri r e).hbm.wrong = s.hbm.wrong := by
  have placed (u : State) (n : Nat) : Frame [.hbmStk] u (u.each (List.range n) fun s i =>
      let kp := s.pcOf (e.line + i)
      if s.unitAvail kp.1 kp.2 (e.line + i) == .gone then s.modStack kp.1 fun t => { t with placed := t.placed ++ [e.line + i] } else s) :=
    .each _ _ (fun _ _ => .ite (State.modStack_frame ..) (.refl ..)) u
  unfold State.writeEntry
  dsimp only
  rw [(placed _ _).same .hbm rfl, (State.countStack_frame ..).same .hbm rfl, if_pos hfill]
  rfl

/-- An entry of one line, marked as what a fill stored. -/
def lineFill : WEntry := { seq := 0, stack := 0, line := 0, block := false, pri := .spare, fill := true }

/-- Stack 0 holds that entry alone, for line 0 of an uncompressed region without stripes, which a wrong correction has left wrong in
its lowest bit. -/
def lineFillState : State := { State.reset with wbuf := [lineFill], regions := [(0, { pages := 1 })], hbm := { wrong := [(0, 1)] } }

theorem lineFillState_nextDrain : (lineFillState.nextDrain 0).1 = some lineFill :=
  State.nextDrain_one _ _ _ (by decide)

/-- Refutes O43: an entry of one line whose mark says that a fill stored it drains with fresh check bits, but line 0 is wrong in a bit
after its drain as before. The statement is of every state and asks the clearing of `wrong` of each entry that is no block; `buffer` makes
no such entry. -/
theorem not_memorySteps : ¬ Obligations.MemorySteps := by
  unfold Obligations.MemorySteps
  rintro ⟨hdrains, -⟩
  obtain ⟨-, hdrain, -⟩ := hdrains 0 lineFillState rfl
  obtain ⟨t, hexec, -, -, -, -, -, hline, -⟩ := hdrain lineFill lineFillState_nextDrain
  obtain ⟨-, -, -, hclean⟩ := hline rfl
  have hregion : lineFillState.regionAt (64 * lineFill.line) = some (0, { pages := 1 }) := by decide
  have hwrong : tget 0 t.hbm.wrong 0 = 0 := (hclean (by rw [hregion]; simp)).2
  obtain ⟨u, hu⟩ : ∃ u, u = (lineFillState.nextDrain 0).2 := ⟨_, rfl⟩
  have hframe : Frame [.fresh, .hbmStk] lineFillState u := hu ▸ (State.nextDrain_frame ..).mono rfl
  have hregion' : u.regionAt (64 * lineFill.line) = some (0, { pages := 1 }) := by
    rw [State.regionAt, hframe.same .regions rfl]
    exact hregion
  have hnext : exec (.writeBufferDrain 0) lineFillState = .next (u.drain lineFill) := by
    have : exec (.writeBufferDrain 0) lineFillState = .next (match (lineFillState.nextDrain 0).1 with
      | some e => (lineFillState.nextDrain 0).2.drain e
      | none => lineFillState) := rfl
    rw [this, lineFillState_nextDrain, hu]
  have ht : t = u.writeEntry 0 { pages := 1 } lineFill := by
    have : u.drain lineFill = u.writeEntry 0 { pages := 1 } lineFill := by
      rw [State.drain, hregion']
      rfl
    rw [hnext, this] at hexec
    exact (Host.Outcome.next.inj hexec).symm
  rw [ht, State.writeEntry_wrong_of_fill _ _ _ rfl, hframe.same .hbm rfl] at hwrong
  have hone : tget 0 lineFillState.hbm.wrong 0 = (1 : Line) := rfl
  exact absurd (hone.symm.trans hwrong) (by simp)

end Sys2Proof.Machine
end

section
/-!
The clock of a directory die at a page whose entry is listed twice (R162, R178).
-/

namespace Sys2Proof.Machine

open Sys2Proof

/-- Directory die 0 is under pressure with frame 0 in use alone. Page 0 is listed twice: the entry that reads see has lost its frame, the
other has frame 0. -/
def twiceListed : State :=
  { State.reset with
    pmc := { State.reset.pmc with powered := true, ready := true }
    dirs := [(0, { pressure := true, used := [0] })]
    dir := [(0, { st := .clean, onFlash := true, ref := true, frameLost := true }), (0, { st := .clean })] }

/-- The hand finds page 0 by the second entry and clears the reference bit of the first, which then stands alone in the table: page 0
has no frame any more, and the hand's second round passes it by. -/
theorem twiceListed_keeps : (((twiceListed.selectVictim 0).retryInvalid 0).ent 0).st = .clean := by decide +kernel

/-- Refutes O44: a directory table that lists page 0 twice meets what the clause of the clock asks, and its page is not evicted. The
statement is of every state; the tables that the machine's steps make list each page once. -/
theorem not_tierFetches : ¬ Obligations.TierFetches := by
  unfold Obligations.TierFetches
  rintro ⟨-, -, -, hvictim, -⟩
  obtain ⟨-, hevicts⟩ := hvictim 0 twiceListed 0 0 rfl rfl (fun e he => by simp [twiceListed, State.reset] at he) rfl
  obtain ⟨t, hexec, hflash, -⟩ := hevicts (by decide) rfl (by decide) (by decide) rfl rfl rfl rfl (by decide) rfl rfl
  have hnext : exec (.victimSelection 0) twiceListed = .next ((twiceListed.selectVictim 0).retryInvalid 0) := rfl
  have ht : t = (twiceListed.selectVictim 0).retryInvalid 0 := (Host.Outcome.next.inj (hnext.symm.trans hexec)).symm
  rw [ht, twiceListed_keeps] at hflash
  exact PageSt.noConfusion hflash

end Sys2Proof.Machine
end

section
/-!
Write-backs: the read-out of a page, the commit of its image (R162, R164, R176, R213, R329).
-/

namespace Sys2Proof.Machine

open Sys2Proof

theorem Frame.still {l : List Piece} {s t : State} (h : Frame l s t) (hl : l.contains .regions = false) (hs : s.still) : t.still := by
  have hregions : t.regions = s.regions := h.same .regions hl
  intro e he
  exact hs e (hregions ▸ he)

/-- The bytes of a page. -/
theorem page_range (page a : Nat) : (65536 * page ≤ a ∧ a < 65536 * page + 65536) ↔ a / 65536 = page := by omega

/-! ## The read-out (R164, R331) -/

/-- With FLS die 0 in service the device has a die for the image. -/
theorem State.chooseFls_some {s : State} (h : (s.fls 0).lost = false) : ∃ d u, s.chooseFls = (some d, u) ∧ d < 2 ∧ Frame [.fresh] s u := by
  have hframe := State.chooseFls_frame s
  obtain ⟨n, hn, hlt, -⟩ := s.pick_of_exists (bound := 2) (fuel := 2) (m := 0) (ok := fun _ => true) (by omega) (by omega) rfl
  have hpick : Frame [.fresh] s s.takeFree.2 := State.takeFree_frame s
  unfold State.chooseFls
  dsimp only
  rw [h, hn]
  simp only [Bool.false_and, Bool.false_eq_true, if_false]
  split
  · exact ⟨0, s, rfl, by omega, .refl ..⟩
  · split
    · exact ⟨0, s, rfl, by omega, .refl ..⟩
    · split
      · exact ⟨1, s, rfl, by omega, .refl ..⟩
      · exact ⟨n, _, rfl, hlt, hpick⟩

/-- The image of a page as its read-out makes it. -/
structure PageImage (page : Nat) (img : Image) : Prop where
  of_page : img.page = page
  writeback : img.reloc = false
  header : img.head.take 4 = leBytes 4 page
  length : img.units = imageUnits img.head

theorem State.readOut_eq {s : State} {page i : Nat} {r : Region} (hst : (s.ent page).st = .writingBack) (hbad : (s.ent page).bad = false)
    (hread : (s.ent page).readDone = false) (htier : s.tierHeld = false) (hfrozen : s.pageFrozen page = false)
    (hregion : s.pageRegion page = some (i, r)) (hsound : s.unsoundLines page = []) (hw : ∀ w, w ∈ s.wbuf → w.line / 1024 ≠ page) :
    ∃ (v : State) (img : Image) (poisoned : Bool), PageImage page img ∧
      v.staged = s.staged.copyPage s.hbm page ∧ Frame [.staged, .out, .fns, .cnt, .tables, .refRecs, .nextId] s v ∧
      ∀ d u, v.chooseFls = (some d, u) → s.readOut page = ((u.stageImage d img).modEnt page fun e => { e with readDone := true, poisoned }).pageReady page := by
  have hnone : s.wbuf.filter (fun w => w.line / 1024 == page) = [] :=
    List.filter_eq_nil_iff.mpr fun w h => by simpa using hw w h
  obtain ⟨x, hx⟩ : ∃ x : State, x = { s with staged := s.staged.copyPage s.hbm page } := ⟨_, rfl⟩
  have hxs : x.unsoundLines page = [] := by rw [hx]; exact hsound
  have hsx : Frame [.staged] s x := hx ▸ Frame.set_staged ..
  obtain ⟨descs, hdescs⟩ : ∃ l, l = (s.staged.copyPage s.hbm page).descriptors r.auto page := ⟨_, rfl⟩
  obtain ⟨y, hy⟩ : ∃ y, y = x.countLines page 0x01 (storedLines descs) := ⟨_, rfl⟩
  obtain ⟨z, hz⟩ : ∃ z, z = y.setFramePair page ((y.staged.tablesOf page none)[0]?.getD 0) ((y.staged.tablesOf page none)[1]?.getD 0) := ⟨_, rfl⟩
  have hxy : Frame [.out, .fns, .cnt] x y := hy ▸ State.countLines_frame ..
  have hyz : Frame [.tables, .refRecs] y z := hz ▸ State.setFramePair_frame ..
  have hzv : Frame [.nextId] z z.takeId.2 := State.takeId_frame z
  have hstaged : z.takeId.2.staged = s.staged.copyPage s.hbm page := by
    rw [hzv.same .staged rfl, hyz.same .staged rfl, hxy.same .staged rfl, hx]
  obtain ⟨head, hhead⟩ : ∃ head, head = imageHeader page (z.takeId.1 % 2 ^ 32) descs := ⟨_, rfl⟩
  refine ⟨z.takeId.2, { page, seq := z.takeId.1 % 2 ^ 32, units := imageUnits head, head, tables := y.staged.tablesOf page none },
    !(tableRange z.staged.poison (1024 * page) 1024).isEmpty, ⟨rfl, rfl, ?_, rfl⟩, hstaged,
    hzv.step rfl (hyz.step rfl (hxy.step rfl (hsx.mono rfl))), fun d u hd => ?_⟩
  · rw [hhead, imageHeader]
    simp only [List.append_assoc]
    exact List.take_left' (leBytes_length 4 page)
  · unfold State.readOut
    dsimp only
    rw [if_pos (by simp [hst, hbad, hread, htier, hfrozen]), hregion]
    dsimp only
    rw [hnone]
    simp only [State.each, List.foldl_nil]
    rw [← hx, hxs]
    simp only [List.filter_nil, List.foldl_nil]
    rw [← hdescs, ← hy, ← hz, ← hhead, hd]

/-- The read-out of a page without wrong or buffered lines stages its image. -/
theorem writebackReadout_stages {page : BitVec 32} {s : State} {i : Nat} {r : Region} (hrun : s.running = true) (hheld : s.held = [])
    (hstill : s.still) (hst : (s.ent page.toNat).st = .writingBack) (hbad : (s.ent page.toNat).bad = false)
    (hread : (s.ent page.toNat).readDone = false) (htier : s.tierHeld = false) (hfrozen : s.pageFrozen page.toNat = false)
    (hregion : s.pageRegion page.toNat = some (i, r)) (hfls : (s.fls 0).lost = false) (hsound : s.unsoundLines page.toNat = [])
    (hw : ∀ w, w ∈ s.wbuf → w.line / 1024 ≠ page.toNat) :
    ∃ t, exec (.writebackReadoutComplete page) s = .next t ∧ (t.ent page.toNat).readDone = true ∧
      (t.ent page.toNat).st = .writingBack ∧
      (∀ a, a / 65536 = page.toNat → readByte t.staged.mem a = readByte s.hbm.mem a) ∧
      (∃ d img, d < 2 ∧ img ∈ (t.fls d).openW ++ (t.fls d).programming ∧ img.page = page.toNat ∧ img.reloc = false ∧
        img.head.take 4 = leBytes 4 page.toNat ∧ img.units = imageUnits img.head) ∧
      (∀ p, p ≠ page.toNat → t.ent p = s.ent p) ∧ t.hbm = s.hbm ∧ t.flash = s.flash ∧ t.fmap = s.fmap := by
  obtain ⟨v, img, poisoned, himg, hstaged, hsv, hout⟩ := State.readOut_eq hst hbad hread htier hfrozen hregion hsound hw
  obtain ⟨d, u, hchoose, hd, hvu⟩ := State.chooseFls_some (s := v) (by rw [hsv.fls rfl, hfls])
  obtain ⟨x, hx⟩ : ∃ x, x = u.stageImage d img := ⟨_, rfl⟩
  obtain ⟨y, hy⟩ : ∃ y, y = x.modEnt page.toNat fun e => { e with readDone := true, poisoned } := ⟨_, rfl⟩
  have hux : Frame [.fresh, .nextId, .flss] u x := hx ▸ State.stageImage_frame ..
  have hxy : Frame [.dir] x y := hy ▸ State.modEnt_frame ..
  have hsx : Frame [.staged, .out, .fns, .cnt, .tables, .refRecs, .nextId, .fresh, .flss] s x :=
    hux.step rfl (hvu.step rfl (hsv.mono rfl))
  have hsy : Frame [.staged, .out, .fns, .cnt, .tables, .refRecs, .nextId, .fresh, .flss, .dir] s y := hxy.step rfl (hsx.mono rfl)
  have hexec : exec (.writebackReadoutComplete page) s = .next y.serveAll := by
    have : exec (.writebackReadoutComplete page) s = execWritebackReadoutComplete page s := rfl
    rw [this, execWritebackReadoutComplete, if_pos hrun, hout d u hchoose, ← hx, ← hy,
      State.pageReady_still ((hsy.same .held rfl).trans hheld) (hsy.still rfl hstill)]
  have hserve := State.serveAll_frame y
  have hst' : Frame [.staged, .out, .fns, .cnt, .tables, .refRecs, .nextId, .fresh, .flss, .dir] s y.serveAll := hserve.step rfl hsy
  have hent (p : Nat) : y.serveAll.ent p = if p = page.toNat then { s.ent page.toNat with readDone := true, poisoned } else s.ent p := by
    rw [hserve.ent rfl, hy, State.ent_modEnt, hsx.ent rfl, hsx.ent rfl]
  obtain ⟨place, hplace⟩ := (u.stageImage_staged d img).2
  rw [← hx] at hplace
  have hkept : FlsKept x y.serveAll := (hxy.flsKept rfl).trans ((State.serve_flsKept y 0).trans (State.serve_flsKept _ 1))
  refine ⟨_, hexec, ?_, ?_, fun a ha => ?_, ⟨d, { img with place }, hd, (hkept d).2.2 _ hplace, himg.of_page, himg.writeback,
    himg.header, himg.length⟩, fun p hp => ?_, hst'.same .hbm rfl, hst'.same .flash rfl, hst'.same .fmap rfl⟩
  · rw [hent, if_pos rfl]
  · rw [hent, if_pos rfl]
    exact hst
  · rw [hserve.same .staged rfl, hxy.same .staged rfl, hux.same .staged rfl, hvu.same .staged rfl, hstaged, readByte_copyPage,
      if_pos ((page_range _ a).mpr ha)]
  · rw [hent, if_neg hp]

/-! ## The commit (R162, R176, R213, R329) -/

theorem State.ckptCommitted_nothing {s : State} (h : ∀ c, c ∈ s.cmds → c.opcode ≠ 0x0204) (page : Nat) : s.ckptCommitted page = s := by
  have hagain : s.cmds.any (fun c => c.opcode == 0x0204 && c.st == .running && c.pages.contains (page + 2 ^ 32)) = false := by
    rw [List.any_eq_false]
    intro c hc
    simp [h c hc]
  have hnone : s.cmds.filter (fun c => c.opcode == 0x0204 && c.st == .running &&
      (c.pages.contains page || c.pages.contains (page + 2 ^ 32))) = [] := by
    rw [List.filter_eq_nil_iff]
    intro c hc
    simp [h c hc]
  unfold State.ckptCommitted
  dsimp only
  rw [hagain, hnone]
  rfl

/-- The write-back that commits is the one that waits, on whichever die. -/
theorem State.commitPage_eq {s : State} {page d : Nat} {img : Image} (hd : d < 2) (hback : (s.fls d).heldBack = [img])
    (hother : (s.fls (1 - d)).heldBack = []) (hpage : img.page = page) (hcur : s.current img = true) : s.commitPage page =
      if !img.place.mapped && !s.persisted img then s
      else
        let s := if img.place.mapped then s else s.journalImage d img
        let s := s.modFls d fun t => { t with heldBack := t.heldBack.filter fun i => i.page != page }
        (((s.committed page).ckptCommitted page).pageReady page).retryInvalid (pageDir page) := by
  have hfound : ((List.range 2).findSome? fun d =>
      ((s.fls d).heldBack.find? fun i => i.page == page && s.current i).map fun i => (d, i)) = some (d, img) := by
    have hrange : List.range 2 = [0, 1] := rfl
    obtain rfl | rfl : d = 0 ∨ d = 1 := by omega
    · simp [hrange, hback, hpage, hcur]
    · simp at hother
      simp [hrange, hback, hother, hpage, hcur]
  rw [State.commitPage, hfound]

theorem State.modFls_heldBack (s : State) (d e : Nat) (f : Fls → Fls) (hf : ∀ t, (f t).heldBack = t.heldBack) :
    ((s.modFls d f).fls e).heldBack = (s.fls e).heldBack := by
  rw [State.fls_modFls]
  split
  · next h => rw [h, hf]
  · rfl

theorem State.journalSaved_heldBack (s : State) (d e : Nat) : ((s.journalSaved d).fls e).heldBack = (s.fls e).heldBack := by
  unfold State.journalSaved
  rw [(State.dropSaved_frame _).fls rfl, (Frame.set_saved_journals ..).fls rfl, State.modFls_heldBack]
  exact fun _ => rfl

theorem State.rewriteSegment_heldBack (s : State) (d seg e : Nat) : ((s.rewriteSegment d seg).fls e).heldBack = (s.fls e).heldBack := by
  unfold State.rewriteSegment
  rw [(Frame.set_saved ..).fls rfl, State.modFls_heldBack]
  exact fun _ => rfl

theorem State.journalMap_heldBack (s : State) (d page : Nat) (commit : Bool) (e : Nat) :
    ((s.journalMap d page commit).fls e).heldBack = (s.fls e).heldBack := by
  obtain ⟨u, hu, hmap⟩ : ∃ u, (u.fls e).heldBack = (s.fls e).heldBack ∧ s.journalMap d page commit =
      let v := if 4096 ≤ tget 0 (u.fls d).segRecs (page / 131072) then u.rewriteSegment d (page / 131072) else u
      if 49152 ≤ (v.bufferOf d).length then v.journalSaved d else v := by
    refine ⟨_, ?_, rfl⟩
    rw [State.modFls_heldBack, (Frame.set_journals ..).fls rfl, (State.takeId_frame s).fls rfl]
    exact fun _ => rfl
  obtain ⟨v, hv⟩ : ∃ v, v = if 4096 ≤ tget 0 (u.fls d).segRecs (page / 131072) then u.rewriteSegment d (page / 131072) else u := ⟨_, rfl⟩
  have hheld : (v.fls e).heldBack = (u.fls e).heldBack := by
    rw [hv]
    split
    · exact State.rewriteSegment_heldBack ..
    · rfl
  rw [hmap, ← hv]
  dsimp only
  split
  · rw [State.journalSaved_heldBack, hheld, hu]
  · rw [hheld, hu]

/-- An image is journalled: its place, its header and its content are those of flash, and no other page is held back for it. -/
theorem State.journalImage_flash (s : State) (d : Nat) (img : Image) :
    tfind? (s.journalImage d img).fmap img.page = some { img.place with mapped := true } ∧
    tfind? (s.journalImage d img).images img.page = some { head := img.head } ∧
    (s.journalImage d img).flash = s.flash.copyPage s.staged img.page ∧
    ∀ i, i ∈ ((s.journalImage d img).fls d).heldBack → ∃ j, j ∈ (s.fls d).heldBack ∧ i.page = j.page := by
  obtain ⟨u, hu⟩ : ∃ u, u = s.saveFlash img.page := ⟨_, rfl⟩
  obtain ⟨v, hv⟩ : ∃ v : State, v = { u with
    fmap := tset u.fmap img.page { img.place with mapped := true }, images := tset u.images img.page { head := img.head }
    flash := u.flash.copyPage u.staged img.page, staged := u.staged.clearPages img.page 1 } := ⟨_, rfl⟩
  obtain ⟨w, hw⟩ : ∃ w, w = v.setFlashPair img.page (img.tables[0]?.getD 0) (img.tables[1]?.getD 0) := ⟨_, rfl⟩
  obtain ⟨x, hx⟩ : ∃ x, x = w.journalMap d img.page true := ⟨_, rfl⟩
  obtain ⟨y, hy⟩ : ∃ y, y = x.modFls d fun t => { t with
    pagesWritten := (t.pagesWritten + 1) % 2 ^ 48
    heldBack := t.heldBack.map fun i => if i.page = img.page && i.seq = img.seq then { i with place := { img.place with mapped := true } } else i } :=
    ⟨_, rfl⟩
  have hended : s.journalImage d img = y.count 0x0F d 0x05 { ctx := some (y.pageCtx img.page), za := some (65536 * img.page) } := by
    rw [hy, hx, hw, hv, hu]
    rfl
  have hsu : Frame [.saved] s u := hu ▸ State.saveFlash_frame ..
  have huv : Frame [.fmap, .images, .flash, .staged] u v := hv ▸ Frame.mono (Frame.set_staged_flash_fmap_images ..) rfl
  have hvw : Frame [.tables, .refRecs] v w := hw ▸ State.setFlashPair_frame ..
  have hwx : Frame [.nextId, .flss, .saved, .journals] w x := hx ▸ State.journalMap_frame ..
  have hxy : Frame [.flss] x y := hy ▸ State.modFls_frame ..
  have hlast : Frame [.out, .fns, .cnt] y (s.journalImage d img) := hended ▸ State.count_frame ..
  have hframe : Frame [.tables, .refRecs, .nextId, .flss, .saved, .journals, .out, .fns, .cnt] v (s.journalImage d img) :=
    hlast.step rfl (hxy.step rfl (hwx.step rfl (hvw.mono rfl)))
  refine ⟨?_, ?_, ?_, fun i hi => ?_⟩
  · rw [hframe.same .fmap rfl, hv]
    exact tfind?_tset_self ..
  · rw [hframe.same .images rfl, hv]
    exact tfind?_tset_self ..
  · rw [hframe.same .flash rfl, hv, ← hsu.same .flash rfl, ← hsu.same .staged rfl]
  · have hback : (x.fls d).heldBack = (s.fls d).heldBack := by
      rw [hx, State.journalMap_heldBack, hvw.fls rfl, huv.fls rfl, hsu.fls rfl]
    rw [hlast.fls rfl, hy, State.fls_modFls, if_pos rfl] at hi
    obtain ⟨j, hj, rfl⟩ := List.mem_map.mp hi
    refine ⟨j, hback ▸ hj, ?_⟩
    split
    · rfl
    · rfl

/-- A clean commit of a page. -/
theorem State.committed_clean {s : State} {page : Nat} (hbad : (s.ent page).bad = false) (hlost : (s.ent page).frameLost = false)
    (hdirty : (s.ent page).dirty = 0) (hevict : (s.ent page).evicting = false) :
    (∀ p, (s.committed page).ent p = if p = page then { s.ent page with st := .clean, onFlash := true, evicting := false } else s.ent p) ∧
    Frame [.out, .fns, .cnt, .dir] s (s.committed page) := by
  obtain ⟨u, hu⟩ : ∃ u, u = (s.countGnm page 0x07 (s.pageCtx page)).fixed 0x0E (pageDir page) 3 65536 := ⟨_, rfl⟩
  have hsu : Frame [.out, .fns, .cnt] s u := hu ▸ (State.fixed_frame ..).step rfl ((State.countGnm_frame ..).mono rfl)
  have hclean : s.committed page = u.modEnt page fun e => { e with st := .clean, onFlash := true, evicting := false } := by
    unfold State.committed
    dsimp only
    rw [hbad, hlost, hdirty, hevict, ← hu]
    rfl
  rw [hclean]
  refine ⟨fun p => ?_, (State.modEnt_frame ..).step rfl (hsu.mono rfl)⟩
  rw [State.ent_modEnt, hsu.ent rfl, hsu.ent rfl]

/-- The commit of a page: it waits for the tables that its image names, and makes the staged content that of flash. -/
theorem writebackCommit_commits {page : BitVec 32} {s : State} {d : Nat} {img : Image} (hrun : s.running = true) (hheld : s.held = [])
    (hstill : s.still) (hd : d < 2) (hback : (s.fls d).heldBack = [img]) (hother : (s.fls (1 - d)).heldBack = [])
    (hpage : img.page = page.toNat) (hcur : s.current img = true) (hcmds : ∀ c, c ∈ s.cmds → c.opcode ≠ 0x0204) :
    (img.place.mapped = false → s.persisted img = false → exec (.writebackCommit page) s = .next s) ∧
    (img.place.mapped = false → s.persisted img = true → (s.ent page.toNat).bad = false → (s.ent page.toNat).frameLost = false →
      (s.ent page.toNat).dirty = 0 → (s.ent page.toNat).evicting = false →
      ∃ t, exec (.writebackCommit page) s = .next t ∧ (t.ent page.toNat).st = .clean ∧ (t.ent page.toNat).onFlash = true ∧
        tfind? t.fmap page.toNat = some { img.place with mapped := true } ∧
        tfind? t.images page.toNat = some { head := img.head } ∧ (t.fls d).heldBack = [] ∧
        (∀ a, readByte t.flash.mem a = if a / 65536 = page.toNat then readByte s.staged.mem a else readByte s.flash.mem a) ∧
        (∀ p, p ≠ page.toNat → t.ent p = s.ent p) ∧ t.hbm = s.hbm) := by
  have hexec : exec (.writebackCommit page) s = .next (s.commitPage page.toNat) := congrArg _ (if_pos hrun)
  rw [hexec, State.commitPage_eq hd hback hother hpage hcur]
  refine ⟨fun hmap htables => by rw [hmap, htables]; rfl, fun hmap htables hbad hlost hdirty hevict => ?_⟩
  obtain ⟨u, hu⟩ : ∃ u, u = s.journalImage d img := ⟨_, rfl⟩
  obtain ⟨v, hv⟩ : ∃ v, v = u.modFls d fun t => { t with heldBack := t.heldBack.filter fun i => i.page != page.toNat } := ⟨_, rfl⟩
  have hsu : Frame [.out, .nextId, .fns, .staged, .flash, .tables, .refRecs, .flss, .fmap, .images, .saved, .journals, .cnt] s u :=
    hu ▸ State.journalImage_frame ..
  have huv : Frame [.flss] u v := hv ▸ State.modFls_frame ..
  have hsv := huv.step (l := [.out, .nextId, .fns, .staged, .flash, .tables, .refRecs, .flss, .fmap, .images, .saved, .journals, .cnt]) rfl hsu
  have hvent (p : Nat) : v.ent p = s.ent p := hsv.ent rfl p
  obtain ⟨hfmap, himages, hflash, hheldBack⟩ := s.journalImage_flash d img
  rw [hpage, ← hu] at hfmap himages
  rw [← hu] at hflash hheldBack
  obtain ⟨hent, hframe⟩ := State.committed_clean (s := v) (page := page.toNat) (by rw [hvent, hbad]) (by rw [hvent, hlost])
    (by rw [hvent, hdirty]) (by rw [hvent, hevict])
  obtain ⟨t, ht⟩ : ∃ t, t = v.committed page.toNat := ⟨_, rfl⟩
  rw [← ht] at hent hframe
  have hst : Frame [.out, .nextId, .fns, .staged, .flash, .tables, .refRecs, .flss, .fmap, .images, .saved, .journals, .cnt, .dir] s t :=
    hframe.step rfl (hsv.mono rfl)
  have hended : (((v.committed page.toNat).ckptCommitted page.toNat).pageReady page.toNat).retryInvalid (pageDir page.toNat) = t := by
    have hth : t.held = [] := (hst.same .held rfl).trans hheld
    have hts : t.still := hst.still rfl hstill
    have hcmds' : t.cmds = s.cmds := hst.same .cmds rfl
    rw [← ht, State.ckptCommitted_nothing (by rw [hcmds']; exact hcmds), State.pageReady_still hth hts, State.retryInvalid_still hth hts]
  refine ⟨t, ?_, ?_, ?_, ?_, ?_, ?_, fun a => ?_, fun p hp => ?_, hst.same .hbm rfl⟩
  · simp only [hmap, htables, Bool.not_true, Bool.and_false, Bool.false_eq_true, if_false]
    rw [← hu, ← hv, hended]
  · rw [hent, if_pos rfl]
  · rw [hent, if_pos rfl]
  · rw [hframe.same .fmap rfl, huv.same .fmap rfl, hfmap]
  · rw [hframe.same .images rfl, huv.same .images rfl, himages]
  · rw [hframe.fls rfl, hv, State.fls_modFls, if_pos rfl]
    refine List.filter_eq_nil_iff.mpr fun i hi => ?_
    obtain ⟨j, hj, hij⟩ := hheldBack i hi
    rw [hback, List.mem_singleton] at hj
    simp [hij, hj, hpage]
  · rw [hframe.same .flash rfl, huv.same .flash rfl, hflash, readByte_copyPage, hpage]
    simp only [page_range]
  · rw [hent, if_neg hp, hvent]

/-! ## The end of DRAINING (R29, R31) -/

/-- The image of a context that is sealed. -/
def Ctx.image (x : Ctx) (regions : List Nat) : SealedImg := { sealId := x.sealId, key := x.key, gen := x.gen, regions }

/-- An engine that a context ran on last forgets it. -/
def Engine.forget (c : Nat) (g : Engine) : Engine := if g.lastCtx = some c then { g with lastCtx := none } else g

/-- The subscriptions of a context end. -/
def State.endSubs (s : State) (c : Nat) : State :=
  ({ s with subs := s.subs.filter fun e => e.2.ctx != c } : State).each
    ((s.subs.filter fun e => e.2.ctx == c).map fun e => (e.1, e.2.region)) fun s e => (s.nextSeq e.1).settleVersion e.2

/-- The tables of a context that reaches FREE are owned no more. -/
def State.disownTables (s : State) (c : Nat) : State :=
  let s := s.retireTables fun t => t.ctx == c && t.owned
  { s with tables := s.tables.map fun e => (e.1, if e.2.ctx = c then { e.2 with owned := false } else e.2) }

/-- The tables and the regions of a context that reaches FREE. -/
def State.leaveRegions (s : State) (x : Ctx) (c : Nat) : State :=
  (s.disownTables c).each ((s.regions.filter fun e => e.2.ctx == c && e.2.owned && e.2.sealedBy == 0).map (·.1)) fun s i => s.leaveRegion x i

/-- A context that is sealed leaves its image. -/
def State.keepImage (s : State) (x : Ctx) : State :=
  if x.sealing then
    { s with sealed := tset s.sealed x.sealId (x.image ((s.regions.filter fun e => e.2.sealedBy == x.sealId && x.sealId != 0).map (·.1))) }
  else s

/-- What a context that reaches FREE has in the units: its kernels, the engines it ran on last, its shares. -/
def State.leaveUnits (s : State) (c : Nat) : State :=
  let s := s.modDisp fun d => { d with kernels := d.kernels.filter fun e => e.2.ctx != c }
  (s.each (s.engines.map (·.1)) fun s e => s.modEngine e (Engine.forget c)).each (List.range 5) fun s r =>
    s.modReg r fun g => { g with ctxs := tdel g.ctxs c }

/-- The number of a context is FREE, and its key slot empty. -/
def State.dropCtx (s : State) (c : Nat) : State := ({ s with ctxs := tdel s.ctxs c } : State).loadKey c 0

/-- The commands of a context that are left reply. -/
def State.answerLeft (s : State) (c : Nat) : State :=
  s.each (s.cmds.filter fun e => pCtx e.p == c && e.st != .replied) fun s e =>
    if e.opcode = 0x0101 && e.st == .running then s.reply e 0 else s.reply e stNoPerm

/-- The steps by which a context reaches FREE. -/
theorem State.freeCtx_eq (s : State) (c : Nat) : s.freeCtx c =
    (((((s.endSubs c).leaveRegions (s.ctx c) c).keepImage (s.ctx c)).leaveUnits c).dropCtx c).answerLeft c := rfl

theorem State.endSubs_nothing {s : State} {c : Nat} (h : ∀ e, e ∈ s.subs → e.2.ctx ≠ c) : Frame [.subs] s (s.endSubs c) := by
  have hnone : (s.subs.filter fun e => e.2.ctx == c) = [] := List.filter_eq_nil_iff.mpr fun e he => by simp [h e he]
  rw [State.endSubs, hnone]
  exact Frame.set_subs ..

theorem State.leaveRegions_nothing {s : State} {c : Nat} (h : ∀ e, e ∈ s.regions → e.2.ctx ≠ c) (x : Ctx) :
    Frame [.tables] s (s.leaveRegions x c) := by
  have hnone : (s.regions.filter fun e => e.2.ctx == c && e.2.owned && e.2.sealedBy == 0) = [] :=
    List.filter_eq_nil_iff.mpr fun e he => by simp [h e he]
  rw [State.leaveRegions, hnone]
  exact (Frame.set_tables ..).step rfl (State.retireTables_frame ..)

theorem State.answerLeft_nothing {s : State} {c : Nat} (h : ∀ e, e ∈ s.cmds → pCtx e.p ≠ c) : s.answerLeft c = s := by
  have hnone : (s.cmds.filter fun e => pCtx e.p == c && e.st != .replied) = [] :=
    List.filter_eq_nil_iff.mpr fun e he => by simp [h e he]
  rw [State.answerLeft, hnone]
  rfl

theorem State.keepImage_sealed {s : State} {x : Ctx} : Frame [.sealed] s (s.keepImage x) ∧
    (x.sealing = true → ∃ g, tfind? (s.keepImage x).sealed x.sealId = some g ∧ g.key = x.key ∧ g.gen = x.gen) ∧
    (x.sealing = false → (s.keepImage x).sealed = s.sealed) := by
  unfold State.keepImage
  cases hx : x.sealing with
  | true => exact ⟨Frame.set_sealed .., fun _ => ⟨_, tfind?_tset_self .., rfl, rfl⟩, fun h => absurd h (by simp)⟩
  | false => exact ⟨.refl .., fun h => absurd h (by simp), fun _ => rfl⟩

theorem State.each_forget (l : List Nat) (s : State) (c e : Nat) :
    (s.each l fun s e => s.modEngine e (Engine.forget c)).engine e = if e ∈ l then (s.engine e).forget c else s.engine e := by
  have twice (g : Engine) : (g.forget c).forget c = g.forget c := by
    unfold Engine.forget
    by_cases h : g.lastCtx = some c <;> simp [h]
  induction l generalizing s with
  | nil => rfl
  | cons a l ih =>
    refine (ih (s.modEngine a (Engine.forget c))).trans ?_
    rw [State.engine_modEngine]
    by_cases hea : e = a
    · by_cases hel : e ∈ l
      · rw [if_pos hel, if_pos hea, hea, twice, if_pos List.mem_cons_self]
      · rw [if_neg hel, if_pos hea, hea, if_pos List.mem_cons_self]
    · rw [if_neg hea]
      simp only [List.mem_cons, hea, false_or]

theorem State.each_dropShares (l : List Nat) (s : State) (c r : Nat) :
    (s.each l fun s r => s.modReg r fun g => { g with ctxs := tdel g.ctxs c }).regulator r =
      if r ∈ l then { s.regulator r with ctxs := tdel (s.regulator r).ctxs c } else s.regulator r := by
  induction l generalizing s with
  | nil => rfl
  | cons a l ih =>
    refine (ih (s.modReg a fun g => { g with ctxs := tdel g.ctxs c })).trans ?_
    rw [State.regulator_modReg]
    by_cases hra : r = a
    · by_cases hrl : r ∈ l
      · rw [if_pos hrl, if_pos hra, hra, if_pos List.mem_cons_self]
        simp only [tdel_tdel]
      · rw [if_neg hrl, if_pos hra, hra, if_pos List.mem_cons_self]
    · rw [if_neg hra]
      simp only [List.mem_cons, hra, false_or]

/-- The units have forgotten a context that reaches FREE. -/
theorem State.leaveUnits_forget (s : State) (c : Nat) : Frame [.disp, .engines, .qos] s (s.leaveUnits c) ∧
    (∀ k, k ∈ (s.leaveUnits c).disp.kernels → k.2.ctx ≠ c) ∧ (∀ r, r < 5 → ((s.leaveUnits c).regulator r).get c = {}) ∧
    ∀ e, ((s.leaveUnits c).engine e).lastCtx ≠ some c := by
  obtain ⟨u, hu⟩ : ∃ u, u = s.modDisp fun d => { d with kernels := d.kernels.filter fun e => e.2.ctx != c } := ⟨_, rfl⟩
  obtain ⟨v, hv⟩ : ∃ v, v = u.each (u.engines.map (·.1)) fun s e => s.modEngine e (Engine.forget c) := ⟨_, rfl⟩
  have hleft : s.leaveUnits c = v.each (List.range 5) fun s r => s.modReg r fun g => { g with ctxs := tdel g.ctxs c } := by
    rw [hv, hu]
    rfl
  have hsu : Frame [.disp] s u := hu ▸ State.modDisp_frame ..
  have huv : Frame [.engines] u v := hv ▸ .each _ _ (fun _ _ => State.modEngine_frame ..) u
  have hvt : Frame [.qos] v (s.leaveUnits c) := hleft ▸ .each _ _ (fun _ _ => State.modReg_frame ..) v
  refine ⟨hvt.step rfl (huv.step rfl (hsu.mono rfl)), fun k hk => ?_, fun r hr => ?_, fun e => ?_⟩
  · rw [hvt.same .disp rfl, huv.same .disp rfl, hu] at hk
    simpa using (List.mem_filter.mp hk).2
  · rw [hleft, State.each_dropShares, if_pos (List.mem_range.mpr hr), Regulator.get, tget_tdel, if_pos rfl]
  · rw [hvt.engine rfl, hv, State.each_forget]
    split
    · unfold Engine.forget
      split
      · simp
      · assumption
    · next hmem =>
      have hdefault : u.engine e = {} := tget_none _ _ _ fun x hx hxe => hmem (hxe ▸ List.mem_map_of_mem hx)
      rw [hdefault]
      simp

/-- A DRAINING context with nothing left is FREE, and nothing of it remains but the image of a sealed one. -/
theorem ctxDrainComplete_frees {ctx : BitVec 12} {s : State} (hpow : s.pmc.powered = true) (hfatal : s.pmc.fatal = false)
    (hst : (s.ctx ctx.toNat).st = .draining) (hbusy : s.busyCtx ctx.toNat = false) (hwait : s.destroyWaits ctx.toNat = false)
    (hheld : s.held = []) (hstill : s.still) (hcmds : ∀ e, e ∈ s.cmds → pCtx e.p ≠ ctx.toNat)
    (hregions : ∀ e, e ∈ s.regions → e.2.ctx ≠ ctx.toNat) (hsubs : ∀ e, e ∈ s.subs → e.2.ctx ≠ ctx.toNat) :
    ∃ t, exec (.ctxDrainComplete ctx) s = .next t ∧ (t.ctx ctx.toNat).st = .free ∧ (∀ c, c ≠ ctx.toNat → t.ctx c = s.ctx c) ∧
      (∀ k, k ∈ t.disp.kernels → k.2.ctx ≠ ctx.toNat) ∧ (∀ r, r < 5 → (t.regulator r).get ctx.toNat = {}) ∧
      (∀ e, (t.engine e).lastCtx ≠ some ctx.toNat) ∧
      ((s.ctx ctx.toNat).durable = true → (s.ctx ctx.toNat).sealing = true → ∃ g, tfind? t.sealed (s.ctx ctx.toNat).sealId = some g ∧
        g.key = (s.ctx ctx.toNat).key ∧ g.gen = (s.ctx ctx.toNat).gen) ∧
      ((s.ctx ctx.toNat).sealing = false → t.sealed = s.sealed) ∧ t.hbm = s.hbm ∧ t.flash = s.flash := by
  obtain ⟨c, hc⟩ : ∃ c, c = ctx.toNat := ⟨_, rfl⟩
  rw [← hc] at hst hbusy hwait hcmds hregions hsubs ⊢
  obtain ⟨u, hu⟩ : ∃ u, u = (s.endSubs c).leaveRegions (s.ctx c) c := ⟨_, rfl⟩
  obtain ⟨v, hv⟩ : ∃ v, v = u.keepImage (s.ctx c) := ⟨_, rfl⟩
  obtain ⟨w, hw⟩ : ∃ w, w = v.leaveUnits c := ⟨_, rfl⟩
  obtain ⟨t, ht⟩ : ∃ t, t = w.dropCtx c := ⟨_, rfl⟩
  have hends : Frame [.subs] s (s.endSubs c) := State.endSubs_nothing hsubs
  have hsu : Frame [.subs, .tables] s u :=
    hu ▸ (State.leaveRegions_nothing (by rw [hends.same .regions rfl]; exact hregions) _).step rfl (hends.mono rfl)
  obtain ⟨huv, himage, hnone⟩ := State.keepImage_sealed (s := u) (x := s.ctx c)
  rw [← hv] at huv himage hnone
  obtain ⟨hvw, hkernels, hshares, hengines⟩ := v.leaveUnits_forget c
  rw [← hw] at hvw hkernels hshares hengines
  have hwt : Frame [.ctxs, .keys] w t := ht ▸ (State.loadKey_frame ..).step rfl ((Frame.set_ctxs ..).mono rfl)
  have hsw : Frame [.subs, .tables, .sealed, .disp, .engines, .qos] s w := hvw.step rfl (huv.step rfl (hsu.mono rfl))
  have hst' : Frame [.subs, .tables, .sealed, .disp, .engines, .qos, .ctxs, .keys] s t := hwt.step rfl (hsw.mono rfl)
  have hfree : s.freeCtx c = t := by
    rw [State.freeCtx_eq, ← hu, ← hv, ← hw, ← ht, State.answerLeft_nothing (by rw [hst'.same .cmds rfl]; exact hcmds)]
  have hctx (m : Nat) : t.ctx m = if m = c then {} else s.ctx m := by
    rw [← hsw.ctx rfl m, ht]
    exact tget_tdel ..
  have hqos : t.qos = w.qos := hwt.same .qos rfl
  refine ⟨t, ?_, by rw [hctx, if_pos rfl], fun m hm => by rw [hctx, if_neg hm], fun k hk => ?_, fun r hr => ?_, fun e => ?_,
    fun _ hseal => ?_, fun hseal => ?_, hst'.same .hbm rfl, hst'.same .flash rfl⟩
  · have harm : exec (.ctxDrainComplete ctx) s = execCtxDrainComplete ctx s := rfl
    rw [harm, execCtxDrainComplete, ← hc, if_pos (by simp [hst, hbusy, hpow, hfatal, hwait]), hfree,
      State.settle_still ((hst'.same .held rfl).trans hheld) (hst'.still rfl hstill)]
  · exact hkernels k ((hwt.same .disp rfl : t.disp = w.disp) ▸ hk)
  · have := hshares r hr
    rw [State.regulator, ← hqos] at this
    exact this
  · rw [hwt.engine rfl]
    exact hengines e
  · rw [hwt.same .sealed rfl, hvw.same .sealed rfl]
    exact himage hseal
  · rw [hwt.same .sealed rfl, hvw.same .sealed rfl, hnone hseal, hsu.same .sealed rfl]

/-- Settles O45: one lemma each for the read-out, for the commit, and for the end of DRAINING. -/
theorem tierWritebacks : Obligations.TierWritebacks := by
  unfold Obligations.TierWritebacks
  refine ⟨?_, ?_, ?_⟩
  · intro page s i r hrun hheld hstill hst hbad hread htier hfrozen hregion _ _ hfls _ hsound hw
    exact writebackReadout_stages hrun hheld hstill hst hbad hread htier hfrozen hregion hfls hsound hw
  · intro page s d img hrun hheld hstill hd hback hother hpage hcur hcmds
    exact writebackCommit_commits hrun hheld hstill hd hback hother hpage hcur hcmds
  · intro ctx s hpow hfatal hst hbusy hwait hheld hstill hcmds hregions hsubs
    exact ctxDrainComplete_frees hpow hfatal hst hbusy hwait hheld hstill hcmds hregions hsubs

end Sys2Proof.Machine
end

section
/-!
CTX_DESTROY in a state that lists one acceptance number twice (R29, R269, R278, R279).
-/

namespace Sys2Proof.Machine

open Sys2Proof

/-- A sharing command of context 1, of acceptance number 5, that names the region of index 4. -/
def shareCmd (opcode : Nat) (st : CmdSt) : Cmd :=
  { id := 5, via := .aperture 0, opcode, p := { version := 0x10, flags := 0, context := 1, tag := 0x55, params := 4 }, fn := 0, acct := 1, st }

/-- A device that runs, with the PF's ring. Context 1 publishes region 3, and its version at region 4 is PUBLISHED, with one page
committed to flash. Acceptance number 5 is listed twice: a SHARE_PUBLISH that has replied, and a SHARE_WITHDRAW of region 4. -/
def numberTwice : State :=
  { State.reset with
    pmc := { perst := false, stage := 7, ready := true }
    hep := { cfgReady := true }
    fns := [(0, { bme := true, mse := true, ring := { ctrl := 0x10C, ctrlSh := 0x10C, base := 5, baseSh := 5 } })]
    ctxs := [(1, { st := .active, key := 1 })]
    nextKey := 2
    regions := [(3, { ctx := 1, attr := 2, pages := 1, zaPage := 8, share := .publishing, pubCmd := some 5 }),
                (4, { ctx := 1, attr := 2, pages := 1, share := .published })]
    fmap := [(0, { mapped := true })]
    cmds := [shareCmd 0x0600 .replied, shareCmd 0x0603 .running] }

/-- CTX_DESTROY of context 1. -/
def destroyOne : Packet := { version := 0x10, flags := 0, context := 1, tag := 0x77, params := 0 }

/-- CTX_DESTROY keeps the flash map of the state that it starts on, if it starts. -/
def keepsMap (b : Option (State × Cmd)) : Bool :=
  b.all fun x => (startCtxDestroy x.1 x.2).fmap == x.1.fmap

/-- The command begins, and no command of the state it starts on waits by the rules of sharing. -/
theorem numberTwice_begins : (numberTwice.begun specCtxDestroy (.aperture 0) destroyOne).any
    (fun x => x.1.cmds.all fun e => !x.1.shareWaits e) = true := by decide +kernel

/-- The end of region 3's publication finds the replied entry of number 5 and leaves the other running, which no region's publication holds
any more: the SHARE_WITHDRAW takes effect, and region 4 is freed with its flash. -/
theorem numberTwice_trims : keepsMap (numberTwice.begun specCtxDestroy (.aperture 0) destroyOne) = false := by decide +kernel

/-- Refutes O15: where two commands have one acceptance number, no command waits by the rules of sharing before CTX_DESTROY, and yet one
takes effect during it and changes the flash map. The statement is of every state; the machine's steps give each command a number of its
own. -/
theorem not_contextDestroyed : ¬ Obligations.ContextDestroyed := by
  unfold Obligations.ContextDestroyed
  intro h
  obtain ⟨⟨u, c⟩, hbegun, hnone⟩ := (Option.any_eq_true _ _).mp numberTwice_begins
  obtain ⟨t, hexec, -, -, -, hflash, -⟩ := (h _ _ _ u c hbegun).1 (by decide) (by decide +kernel)
  have ht : t = startCtxDestroy u c := Host.Outcome.next.inj (hexec.symm.trans (exec_begun rfl hbegun))
  have hkept := (hflash fun e he => by simpa using List.all_eq_true.mp hnone e he).2
  have htrims := numberTwice_trims
  rw [hbegun] at htrims
  simp [keepsMap, ← ht, hkept] at htrims

end Sys2Proof.Machine
end

section
/-!
Commands that answer after one change, the tables that stop being current, and the codec commands (R205, R210, R211, R215).
-/

namespace Sys2Proof.Machine

open Sys2Proof

/-- Reads of `groups` agree where the table does. -/
theorem Frame.group {l : List Piece} {s t : State} (h : Frame l s t) (hl : l.contains .groups = false) (i g : Nat) :
    t.group i g = s.group i g := by
  have hgroups : t.groups = s.groups := h.same .groups hl
  rw [State.group, hgroups]
  rfl

/-- A command whose start is a change that leaves the ports, and a reply, answers. -/
theorem exec_replies {i : Instr} {spec : CmdSpec} {via : Via} {p : Packet} {s u v : State} {c : Cmd} {l : List Piece} {status result : Nat}
    (hf : fraistOf i = some (spec, via, p)) (h : s.begun spec via p = some (u, c)) (hv : Frame l u v) (hl : l.contains .ports = false)
    (hstart : c.p = p → spec.start u c = v.reply c status result) :
    ∃ t, exec i s = .next t ∧ Answered v t c p.context status result 0 := by
  have hb := State.begun_facts h
  exact ⟨_, (exec_begun hf h).trans (congrArg _ (hstart hb.packet)), hb.answered v (hv.same .ports hl) ..⟩

/-! ## A table that is no longer current (R205, R211) -/

/-- Settling a table leaves the others. -/
theorem State.settleTable_table_of_ne (s : State) {id n : Nat} (h : n ≠ id) : (s.settleTable id).table n = s.table n := by
  unfold State.settleTable
  split
  · rw [State.table_modTable, if_neg h]
  · rfl

/-- Settling makes no table CURRENT. -/
theorem State.settleTable_not_current {s : State} {id : Nat} (h : (s.table id).st ≠ .current) :
    ((s.settleTable id).table id).st ≠ .current := by
  unfold State.settleTable
  split
  · rw [State.table_modTable, if_pos rfl]
    exact TableSt.noConfusion
  · exact h

/-- The state in which a table is RETIRED. -/
def State.retireTable (s : State) (id : Nat) : State := s.modTable id fun t => { t with st := .retired }

theorem State.retireTable_table (s : State) (id n : Nat) :
    (s.retireTable id).table n = if n = id then { s.table n with st := .retired } else s.table n := by
  rw [State.retireTable, State.table_modTable]
  split
  · next h => rw [h]
  · rfl

theorem State.retireTable_not_current (s : State) (id : Nat) : ((s.retireTable id).table id).st ≠ .current := by
  rw [State.retireTable_table, if_pos rfl]
  exact TableSt.noConfusion

theorem State.retireTable_frame (s : State) (id : Nat) : Frame [.tables] s (s.retireTable id) := State.modTable_frame ..

/-! ## TABLE_BUILD (R198, R210) -/

/-- The state in which a group that is IDLE is ARMED. -/
def State.armGroup (s : State) (i g : Nat) : State :=
  if (s.group i g).st == .idle then s.modGroup i g fun t => { t with st := .armed } else s

theorem State.armGroup_group (s : State) (i g : Nat) : (s.armGroup i g).group i g =
    if (s.group i g).st = .idle then { s.group i g with st := .armed } else s.group i g := by
  unfold State.armGroup
  by_cases h : (s.group i g).st = .idle
  · rw [if_pos (by simp [h]), if_pos h, State.group_modGroup, if_pos rfl]
  · rw [if_neg (by simp [h]), if_neg h]

theorem State.armGroup_frame (s : State) (i g : Nat) : Frame [.groups] s (s.armGroup i g) :=
  .ite (State.modGroup_frame ..) (.refl ..)

/-- TABLE_BUILD where the region, the group and the counts of tables allow it. -/
theorem startTableBuild_arms {u : State} {c : Cmd} {i : Nat} {r : Region} (ho : u.ownRegion (par c.p 8 4) (pCtx c.p) = .ok (i, r))
    (hauto : r.auto = true) (hgroup : par c.p 12 2 < r.groups) (hfrozen : r.frozen = false) (howned : u.tablesOwned r.ctx < 4096)
    (hroom : (u.tables.filter fun e => e.2.st != .free && e.1 != 0).length < 65535) :
    startTableBuild u c = (u.armGroup i (par c.p 12 2)).reply c 0 (par c.p 12 2) := by
  have hfull : (decide (4096 ≤ u.tablesOwned r.ctx) ||
      decide (65535 ≤ (u.tables.filter fun e => e.2.st != .free && e.1 != 0).length)) = false := by
    rw [Bool.or_eq_false_iff, decide_eq_false_iff_not, decide_eq_false_iff_not]
    omega
  simp only [startTableBuild, ho, hauto, Nat.not_le.mpr hgroup, hfrozen, hfull, Bool.not_true, Bool.false_eq_true, if_false]
  rfl

/-! ## TABLE_RETIRE (R211, R278) -/

/-- What TABLE_RETIRE makes of a CURRENT table: it is RETIRED, its group names it no more, and it goes on to FREEING without references. -/
def State.retireOf (s : State) (i id : Nat) : State :=
  ((s.retireTable id).modGroup i (s.table id).group fun g =>
    { g with current := if g.current = id then 0 else g.current, stale := [] }).settleTable id

theorem State.retireOf_not_current (s : State) (i id : Nat) : ((s.retireOf i id).table id).st ≠ .current :=
  State.settleTable_not_current (s.retireTable_not_current id)

theorem State.retireOf_frame (s : State) (i id : Nat) : Frame [.groups, .tables] s (s.retireOf i id) :=
  (State.settleTable_frame ..).step rfl ((State.modGroup_frame ..).step rfl ((State.retireTable_frame s id).mono rfl))

/-- TABLE_RETIRE retires a CURRENT table of the region, and leaves one that has been retired. -/
theorem startTableRetire_retires {u : State} {c : Cmd} {i : Nat} {r : Region} (ho : u.ownRegion (par c.p 8 4) (pCtx c.p) = .ok (i, r))
    (hregion : (u.table (par c.p 12 2)).region = par c.p 8 4) (hshare : r.share ≠ .withdrawn) :
    ((u.table (par c.p 12 2)).st = .current → startTableRetire u c = (u.retireOf i (par c.p 12 2)).reply c 0) ∧
    ((u.table (par c.p 12 2)).st ≠ .free → (u.table (par c.p 12 2)).st ≠ .current → startTableRetire u c = u.reply c 0) := by
  have hkept : (r.share == .withdrawn) = false := by simp [hshare]
  have hnamed : decide ((u.table (par c.p 12 2)).region ≠ par c.p 8 4) = false := by simp [hregion]
  refine ⟨fun hcurrent => ?_, fun hused hcurrent => ?_⟩
  · have hfree : ((u.table (par c.p 12 2)).st == .free) = false := by simp [hcurrent]
    have hst : ((u.table (par c.p 12 2)).st == .current) = true := by simp [hcurrent]
    simp only [startTableRetire, ho, hkept, hnamed, hfree, hst, Bool.or_self, Bool.false_eq_true, if_false, if_true]
    rfl
  · have hfree : ((u.table (par c.p 12 2)).st == .free) = false := by simp [hused]
    have hst : ((u.table (par c.p 12 2)).st == .current) = false := by simp [hcurrent]
    simp only [startTableRetire, ho, hkept, hnamed, hfree, hst, Bool.or_self, Bool.false_eq_true, if_false]

/-! ## CODEC_SET (R215) -/

/-- CODEC_SET of a compressed region that is not frozen. -/
theorem startCodecSet_sets {u : State} {c : Cmd} {i : Nat} {r : Region} (ho : u.ownRegion (par c.p 8 4) (pCtx c.p) = .ok (i, r))
    (hauto : r.auto = true) (hfrozen : r.frozen = false) :
    startCodecSet u c = (u.setRegion i { r with forceRaw := decide (par c.p 12 1 = 1) }).reply c 0 := by
  simp only [startCodecSet, ho, hauto, hfrozen, Bool.not_true, Bool.false_eq_true, if_false]

/-- Settles O22: each command is one change of the state in which it starts, and the answer. -/
theorem codecCommands : Obligations.CodecCommands := by
  unfold Obligations.CodecCommands
  refine ⟨fun via p s u c i r h ho hauto hgroup hfrozen howned hroom => ?build, fun via p s u c i r h ho hused hregion hshare => ?retire,
    fun via p s u c i r h ho hauto hfrozen => ?codec⟩
  case build =>
    have hframe := u.armGroup_frame i (par p 12 2)
    obtain ⟨t, hexec, hanswer⟩ := exec_replies (i := .tableBuild via p) (result := par p 12 2) rfl h hframe rfl
      (by rintro rfl; exact startTableBuild_arms ho hauto hgroup hfrozen howned hroom)
    exact ⟨t, _, hexec, hanswer, u.armGroup_group .., hframe⟩
  case retire =>
    by_cases hcurrent : (u.table (par p 12 2)).st = .current
    · have hframe := u.retireOf_frame i (par p 12 2)
      obtain ⟨t, hexec, hanswer⟩ := exec_replies (i := .tableRetire via p) rfl h hframe rfl
        (by rintro rfl; exact (startTableRetire_retires ho hregion hshare).1 hcurrent)
      exact ⟨t, _, hexec, hanswer, u.retireOf_not_current i _, fun hne => absurd hcurrent hne, hframe⟩
    · obtain ⟨t, hexec, hanswer⟩ := exec_replies (i := .tableRetire via p) rfl h (Frame.refl [] u) rfl
        (by rintro rfl; exact (startTableRetire_retires ho hregion hshare).2 hused hcurrent)
      exact ⟨t, u, hexec, hanswer, hcurrent, fun _ => rfl, .refl ..⟩
  case codec =>
    have hframe := u.setRegion_frame i { r with forceRaw := decide (par p 12 1 = 1) }
    obtain ⟨t, hexec, hanswer⟩ := exec_replies (i := .codecSet via p) rfl h hframe rfl
      (by rintro rfl; exact startCodecSet_sets ho hauto hfrozen)
    exact ⟨t, _, hexec, hanswer, State.region?_setRegion .., fun j hj => State.region?_setRegion_ne _ _ _ _ hj, hframe⟩

end Sys2Proof.Machine
end

section
/-!
The publication, freeing and programming of tables, and the hashing of versions (R198-R213, R269-R274).
-/

namespace Sys2Proof.Machine

open Sys2Proof

/-! ## TABLE_PUBLISH (R198, R200, R206) -/

/-- The table that a finished build of a group publishes, of the view and the lengths that are best. -/
def State.builtTable (s : State) (i gi : Nat) (r : Region) (best : Nat × List Nat) : TableSlot :=
  { st := .current, slotSeal := Config.free (s.fresh + 1) % 65535 + 1, view := best.1, region := s.handleOf i, group := gi
    ctx := r.ctx, owned := true, lengths := best.2 }

theorem State.builtTable_best (s : State) (i gi : Nat) (r : Region) (best : Nat × List Nat) :
    ((s.builtTable i gi r best).view, (s.builtTable i gi r best).lengths) = best := rfl

/-- The state in which a group's table before a publication gives way to the new one. -/
def State.replaceTable (s : State) (old : Nat) : State :=
  if old ≠ 0 && (s.table old).st == .current then (s.retireTable old).settleTable old else s

theorem State.replaceTable_table_of_ne (s : State) {old n : Nat} (h : n ≠ old) : (s.replaceTable old).table n = s.table n := by
  unfold State.replaceTable
  split
  · rw [State.settleTable_table_of_ne _ h, State.retireTable_table, if_neg h]
  · rfl

theorem State.replaceTable_not_current (s : State) {old : Nat} (h : old ≠ 0) : ((s.replaceTable old).table old).st ≠ .current := by
  unfold State.replaceTable
  split
  · exact State.settleTable_not_current (s.retireTable_not_current old)
  · next hst => simpa [h] using hst

theorem State.replaceTable_frame (s : State) (old : Nat) : Frame [.tables] s (s.replaceTable old) :=
  .ite ((State.settleTable_frame ..).step rfl (State.retireTable_frame ..)) (.refl ..)

/-- A group's record once a table of its build is published: every die's copy still names the table before (R200). -/
def Group.withTable (g : Group) (old id : Nat) : Group :=
  { g with st := .idle, current := id, prior := old, stale := List.range 10, samples := 0, counts := [], bits := [] }

/-- The state in which a group's build has been published in a table slot, after the two choices of the ID and of the seal. -/
def State.withTable (s : State) (i gi id : Nat) (r : Region) : State :=
  ((s.takeFree.2.takeFree.2.modTable id fun _ => s.builtTable i gi r (s.group i gi).best).replaceTable (s.group i gi).current).modGroup
    i gi fun g => g.withTable (s.group i gi).current id

theorem State.withTable_frame (s : State) (i gi id : Nat) (r : Region) : Frame [.fresh, .groups, .tables] s (s.withTable i gi id r) :=
  (State.modGroup_frame ..).step rfl ((State.replaceTable_frame ..).step rfl ((State.modTable_frame ..).step rfl
    ((State.takeFree_frame ..).step rfl ((State.takeFree_frame s).mono rfl))))

/-- A slot other than that of the group's table before holds the new table. -/
theorem State.withTable_table (s : State) {i gi id : Nat} (r : Region) (h : id ≠ (s.group i gi).current) :
    (s.withTable i gi id r).table id = s.builtTable i gi r (s.group i gi).best := by
  rw [State.withTable, (State.modGroup_frame ..).table rfl, State.replaceTable_table_of_ne _ h, State.table_modTable, if_pos rfl]

/-- The group's table before is not CURRENT any more. -/
theorem State.withTable_replaced (s : State) {i gi : Nat} (id : Nat) (r : Region) (h : (s.group i gi).current ≠ 0) :
    ((s.withTable i gi id r).table (s.group i gi).current).st ≠ .current := by
  rw [State.withTable, (State.modGroup_frame ..).table rfl]
  exact State.replaceTable_not_current _ h

theorem State.withTable_group (s : State) (i gi id : Nat) (r : Region) : (s.withTable i gi id r).group i gi =
    (s.group i gi).withTable (s.group i gi).current id := by
  rw [State.withTable, State.group_modGroup, if_pos rfl, (State.replaceTable_frame ..).group rfl]
  rfl

/-- An unused ID can be chosen where there is one. -/
theorem State.pick_table {s : State} (h : ∃ n, 1 ≤ n ∧ n < 65536 ∧ (s.table n).st = .free) :
    ∃ id, s.pick 65536 65537 (fun n => n != 0 && (s.table n).st == .free) = (some id, s.takeFree.2) ∧ 1 ≤ id ∧ id < 65536 ∧
      (s.table id).st = .free := by
  obtain ⟨n, h1, hn, hst⟩ := h
  obtain ⟨id, hpick, hlt, hok⟩ := s.pick_of_exists (fuel := 65537) (ok := fun n => n != 0 && (s.table n).st == .free) hn (by omega)
    (by simp [hst, show n ≠ 0 by omega])
  simp only [Bool.and_eq_true, bne_iff_ne, ne_eq, beq_iff_eq] at hok
  obtain ⟨h0, hfree⟩ := hok
  exact ⟨id, hpick, by omega, hlt, hfree⟩

/-- A finished build is published under the ID chosen, while its context owns fewer than 4,096 tables. -/
theorem State.publishTable_withTable {s : State} {i gi id : Nat} {r : Region} (hr : s.region? i = some r)
    (hst : (s.group i gi).st = .sampling) (hdone : 64 ≤ (s.group i gi).samples) (howned : s.tablesOwned r.ctx < 4096)
    (hpick : s.pick 65536 65537 (fun n => n != 0 && (s.table n).st == .free) = (some id, s.takeFree.2)) :
    s.publishTable i gi = s.withTable i gi id r := by
  simp only [State.publishTable, hr, hst, hdone, Nat.not_le.mpr howned, hpick, beq_self_eq_true, decide_true, Bool.and_self, if_true,
    if_false]
  rfl

/-- A finished build is abandoned while its context owns 4,096 tables. -/
theorem State.publishTable_abandons {s : State} {i gi : Nat} {r : Region} (hr : s.region? i = some r)
    (hst : (s.group i gi).st = .sampling) (hdone : 64 ≤ (s.group i gi).samples) (howned : 4096 ≤ s.tablesOwned r.ctx) :
    s.publishTable i gi = s.abandonBuild i gi := by
  simp only [State.publishTable, hr, hst, hdone, howned, beq_self_eq_true, decide_true, Bool.and_self, if_true]

theorem State.abandonBuild_idle (s : State) (i gi : Nat) : ((s.abandonBuild i gi).group i gi).st = .idle := by
  rw [State.abandonBuild, (State.modMem_frame ..).group rfl, State.group_modGroup, if_pos rfl]

/-! ## TABLE_FREE (R205) and TABLE_PERSIST (R213) -/

/-- The cache of a die without a table. -/
def withoutTable (id : Nat) (cache : List Nat) : List Nat := cache.filter (· != id)

theorem not_mem_withoutTable (id : Nat) (cache : List Nat) : id ∉ withoutTable id cache := by simp [withoutTable]

/-- A FREEING table leaves its slot, the group records and the caches of both kinds of dies. -/
theorem State.freeTable_eq {s : State} {id : Nat} (h : (s.table id).st = .freeing) : s.freeTable id =
    { s.modTable id fun _ => {} with
      groups := s.groups.map fun e => (e.1, if e.2.prior = id then { e.2 with prior := 0 } else e.2)
      mems := s.mems.map fun e => (e.1, { e.2 with cache := withoutTable id e.2.cache })
      chds := s.chds.map fun e => (e.1, { e.2 with cache := withoutTable id e.2.cache }) } := by
  rw [State.freeTable, if_pos (by simp [h])]
  rfl

/-- What is left of a FREEING table when it is freed. -/
theorem State.freeTable_gone {s : State} {id : Nat} (h : (s.table id).st = .freeing) :
    (∀ n, (s.freeTable id).table n = if n = id then {} else s.table n) ∧ (∀ e, e ∈ (s.freeTable id).mems → id ∉ e.2.cache) ∧
      (∀ e, e ∈ (s.freeTable id).chds → id ∉ e.2.cache) ∧ ∀ e, e ∈ (s.freeTable id).groups → e.2.prior = id → id = 0 := by
  rw [State.freeTable_eq h]
  refine ⟨fun n => s.table_modTable id n fun _ => {}, fun e he => ?_, fun e he => ?_, fun e he hprior => ?_⟩
  · obtain ⟨m, -, rfl⟩ := List.mem_map.mp he
    exact not_mem_withoutTable id _
  · obtain ⟨d, -, rfl⟩ := List.mem_map.mp he
    exact not_mem_withoutTable id _
  · obtain ⟨g, -, rfl⟩ := List.mem_map.mp he
    dsimp only at hprior
    split at hprior
    · exact hprior.symm
    · contradiction

/-- A published table is marked once it is programmed into the flash system area. -/
theorem State.persistTable_eq {s : State} {id : Nat} (hst : (s.table id).st = .current ∨ (s.table id).st = .retired)
    (hv : s.variantH = false) : s.persistTable id = s.modTable id fun t => { t with persisted := true } :=
  if_pos (by simpa [hv] using hst)

/-! ## HASH_START and PUBLISH_HASH_COMPLETE (R269, R271, R273) -/

/-- Hashing starts where every request held for the region is a read. -/
theorem State.startHash_starts {s : State} {i : Nat} {r : Region} (hr : s.region? i = some r) (hshare : r.share = .publishing)
    (hreads : ∀ q, q ∈ s.held → q.region = i → q.op.isRead = true) : s.startHash i = s.setRegion i { r with hashing := true } := by
  have hnone : s.held.any (fun q => q.region == i && !q.op.isRead) = false := by
    rw [List.any_eq_false]
    intro q hq
    simpa using hreads q hq
  simp [State.startHash, hr, hshare, hnone]

/-- The hash reads of a version that have not been made, and what they come to. -/
def State.hashRest (s : State) (i : Nat) (r : Region) : Got Unit × State :=
  s.hashPages i r { ctx := r.ctx, who := .hash (r.pubCmd.getD 0) } r.unhashed

section
variable {s w : State} {i : Nat} {r : Region} (hr : s.region? i = some r) (hshare : r.share = .publishing)
include hr hshare

/-- Every page has been hashed, and no version is PUBLISHED under the key. -/
theorem State.hashed_publishes {v : Region} (hhash : r.hashing = true) (hrest : s.hashRest i r = (.ok (), w)) (hv : w.region? i = some v)
    (hkey : w.versionOf v.key? = none) : s.hashed i = w.endPublish i .published 0 (contentHash v.pages v.digests) := by
  rw [State.hashRest] at hrest
  simp [State.hashed, hr, hshare, hhash, hrest, State.published, hv, hkey]

/-- While a page is fetched the publication keeps what it has. -/
theorem State.hashed_waits (hhash : r.hashing = true) (hrest : s.hashRest i r = (.wait, w)) : s.hashed i = w := by
  rw [State.hashRest] at hrest
  simp [State.hashed, hr, hshare, hhash, hrest]

omit hshare in
/-- A publication whose hashing has not started goes on as it is. -/
theorem State.hashed_idle (hhash : r.hashing = false) : s.hashed i = s := by
  simp [State.hashed, hr, hhash]

end

/-- A build that has its 64 samples ends. -/
theorem tablePublish_ends (region : BitVec 20) (group : BitVec 16) {s : State} {r : Region} (hrun : s.running = true)
    (hr : s.region? region.toNat = some r) (hst : (s.group region.toNat group.toNat).st = .sampling)
    (hdone : 64 ≤ (s.group region.toNat group.toNat).samples) :
    (∀ id, s.tablesOwned r.ctx < 4096 →
      s.pick 65536 65537 (fun n => n != 0 && (s.table n).st == .free) = (some id, s.takeFree.2) →
      exec (.tablePublish region group) s = .next (s.withTable region.toNat group.toNat id r)) ∧
    (4096 ≤ s.tablesOwned r.ctx → exec (.tablePublish region group) s = .next (s.abandonBuild region.toNat group.toNat)) := by
  have harm : exec (.tablePublish region group) s = .next (s.publishTable region.toNat group.toNat) := congrArg _ (if_pos hrun)
  refine ⟨fun id howned hpick => ?_, fun howned => ?_⟩
  · rw [harm, State.publishTable_withTable hr hst hdone howned hpick]
  · rw [harm, State.publishTable_abandons hr hst hdone howned]

/-- Settles O46: one lemma for each event of a table and of a publication's hashing. -/
theorem tablesAndHashes : Obligations.TablesAndHashes := by
  unfold Obligations.TablesAndHashes
  refine ⟨fun region group s r hrun hr hst hdone => ?publish, fun id s hrun => ?table, fun region s r hrun hr hshare => ?hash⟩
  case publish =>
    obtain ⟨hpublish, habandon⟩ := tablePublish_ends region group hrun hr hst hdone
    refine ⟨fun howned hfree hcurrent => ?_, fun howned => ?_⟩
    · obtain ⟨id, hpick, h1, hlt, hid⟩ := State.pick_table hfree
      have hother : id ≠ (s.group region.toNat group.toNat).current := by
        rintro rfl
        exact hcurrent.elim (by omega) fun h => h hid
      have htable := s.withTable_table r hother
      have hgroup := s.withTable_group region.toNat group.toNat id r
      refine ⟨_, id, hpublish id howned hpick, h1, hlt, hid, ?_⟩
      rw [htable, hgroup]
      exact ⟨rfl, rfl, rfl, rfl, State.builtTable_best .., rfl, rfl, s.withTable_replaced id r, s.withTable_frame ..⟩
    · have hframe := s.abandonBuild_frame region.toNat group.toNat
      exact ⟨_, habandon howned, s.abandonBuild_idle .., hframe.same .tables rfl, hframe.mono rfl⟩
  case table =>
    refine ⟨fun hwaits => ?_, fun hst h9 h10 => ?_, fun hst hv => ?_⟩
    · have harm : exec (.tableFree id) s = execTableFree id s := rfl
      rw [harm, execTableFree, if_neg (by rcases hwaits with h | h <;> simp [h])]
    · obtain ⟨htables, hmems, hchds, hgroups⟩ := State.freeTable_gone hst
      have harm : exec (.tableFree id) s = execTableFree id s := rfl
      rw [execTableFree, if_pos (by simp [hrun, h9, h10])] at harm
      exact ⟨_, harm, s.freeTable_frame .., htables, hmems, hchds,
        fun e he hprior => BitVec.eq_of_toNat_eq (hgroups e he hprior)⟩
    · have harm : exec (.tablePersist id) s = .next (s.persistTable id.toNat) := congrArg _ (if_pos hrun)
      refine ⟨_, harm, s.persistTable_frame .., fun n => ?_⟩
      rw [State.persistTable_eq hst hv, State.table_modTable]
      split
      · next h => rw [h]
      · rfl
  case hash =>
    have hstart : exec (.hashStart region) s = .next (s.startHash region.toNat) := congrArg _ (if_pos hrun)
    have hcomplete : exec (.publishHashComplete region) s = .next (s.hashed region.toNat) := congrArg _ (if_pos hrun)
    exact ⟨fun hreads => hstart.trans (congrArg _ (State.startHash_starts hr hshare hreads)),
      fun w v hhash hrest hv hkey => hcomplete.trans (congrArg _ (State.hashed_publishes hr hshare hhash hrest hv hkey)),
      fun w hhash hrest => hcomplete.trans (congrArg _ (State.hashed_waits hr hshare hhash hrest)),
      fun hhash => hcomplete.trans (congrArg _ (State.hashed_idle hr hhash))⟩

end Sys2Proof.Machine
end
